-- ==== Sys2Proof/Word.lean ====
section
/-!
DEFINITION. The plain words and bytes of the Vorloth T8 (R3: bit 0 is the least significant bit, values are
little-endian), and the sparse table `Bank` in which banks of like things are kept in one canonical form.
-/

namespace Sys2Proof

abbrev Byte := BitVec 8
abbrev Word := BitVec 32
abbrev Bytes := List Byte

/-- A sparse table by number, keys strictly rising. -/
abbrev Bank (α : Type) := List (Nat × α)

/-- The entry at `k`, if one is listed. -/
def Bank.find? {α : Type} : Bank α → Nat → Option α
  | [], _ => none
  | (k', v) :: r, k => if k' = k then some v else Bank.find? r k

/-- List `v` at `k`, keeping the keys in rising order. -/
def Bank.put {α : Type} : Bank α → Nat → α → Bank α
  | [], k, v => [(k, v)]
  | (k', v') :: r, k, v =>
    if k < k' then (k, v) :: (k', v') :: r
    else if k' = k then (k, v) :: r
    else (k', v') :: Bank.put r k v

/-- Remove what is listed at `k`. -/
def Bank.erase {α : Type} : Bank α → Nat → Bank α
  | [], _ => []
  | (k', v') :: r, k => if k' = k then Bank.erase r k else (k', v') :: Bank.erase r k

/-- What the table holds at `k`, an unlisted number holding `d`. -/
def Bank.get {α : Type} (b : Bank α) (d : α) (k : Nat) : α := (b.find? k).getD d

/-- Store `v` at `k` in a table whose unlisted numbers hold `d`: the canonical form lists no `d`. -/
def Bank.set {α : Type} [DecidableEq α] (b : Bank α) (d : α) (k : Nat) (v : α) : Bank α :=
  if v = d then b.erase k else b.put k v

/-- The canonical form of a table whose unlisted numbers hold `d`: keys strictly rising, no entry equal to `d`. -/
def Bank.wf {α : Type} [DecidableEq α] (b : Bank α) (d : α) : Bool :=
  decide (b.Pairwise (fun x y => x.1 < y.1)) && b.all (fun x => decide (x.2 ≠ d))

end Sys2Proof
end

