-- ==== Sys2Proof/Syntax.lean ====
section
/-!
DEFINITION. The commands of the block: one constructor of `Instr` for every row of spec/opcode_table.json, with
the row's operands. A unit is named by a bounded number (R11, Table 0.3): die `Fin 8`, station 16d+ss as `Fin 128`,
injector (stack) `Fin 16`, Kiln `Fin 8`, physical cluster 136d+ccc as `Fin 1088`, pseudo-channel 64h+pp as
`Fin 1024`, fabric port `Fin 32`. A command that is an event of the hardware carries what the event observes
(a CRC that failed, a sector that read uncorrectable; for MMA_ROW and MMA_COL `some true` an error in the weight-cell
buffer, `some false` one in a row slot or lane accumulator); a queue command carries the reference of its ring entry.
-/

namespace Sys2Proof

/-- The six instance classes of the common arbiter, Table 2.2. -/
inductive ArbClass where
  | storeBank | stationLatch | cacheSlice | hbmQueue | fabricEgress | homeEndpoint
deriving DecidableEq, Repr

/-- One thread group d.ccc.n/Gt. -/
structure Gid where
  cluster : Fin 1088
  core : Fin 4
  group : Fin 16
deriving DecidableEq, Repr

/-- One core d.ccc.n. -/
structure Cid where
  cluster : Fin 1088
  core : Fin 4
deriving DecidableEq, Repr

/-- The registers of the admin block in BAR0, Table 12.3. -/
inductive AdminReg where
  | ringBase | ringSize | eventBase | eventSize | vector
deriving DecidableEq, Repr

/-- The registers that have no behaviour of their own (R10): an arbiter priority register (R43), an object of the
dictionary, a register of a function's admin block (Table 12.3), the status register of a mailbox channel as a master
sees it (Table 12.17) and the pending bitmap of a function. -/
inductive RegRef where
  | priority (die : Fin 12) (c : ArbClass) (j : Nat)
  | object (obj : Nat) (idx : Nat)
  | admin (v : Fin 64) (r : AdminReg)
  | mailStatus (master : BitVec 8) (ch : Fin 256)
  | mailPending (v : Fin 64)
deriving DecidableEq, Repr

/-- A slot of either conveyor, the header fields of Table 3.1 and the payload. The CRC field is valid for what
its last writer wrote (R53); `bad` says that bits changed since, so that the CRC fails. Payload bytes not listed are 0. -/
structure Slot where
  kind : BitVec 8 := 0
  format : BitVec 8 := 0
  orient : Bool := false
  poison : Bool := false
  shared : Bool := false
  tileId : BitVec 32 := 0
  gen : BitVec 16 := 0
  owner : BitVec 6 := 0
  bitmap : BitVec 64 := 0
  pgroup : BitVec 12 := 0
  revLeft : BitVec 12 := 0
  stnCount : BitVec 16 := 0
  payload : Bytes := []
  bad : Bool := false
deriving DecidableEq, Repr

/-- The Pace marker payload, Table 3.5. STATUS byte i is element i. -/
structure Marker where
  status : List Byte := []
  k2Next : Bool := false
  spanId : BitVec 32 := 0
  stepRev : BitVec 48 := 0
  step : BitVec 32 := 0
  haltRev : BitVec 48 := 0
  haltNotice : Bool := false
  k2 : Bool := false
  master : BitVec 6 := 0
  spanN : BitVec 8 := 1
  rev : BitVec 48 := 0
deriving DecidableEq, Repr

/-- The record of one member in the verdict slot, Table 4.9. -/
structure MemberRec where
  poisoned : Bool := false
  sharedLost : Bool := false
  done : Bool := false
  nonfinite : BitVec 32 := 0
  nanCount : BitVec 32 := 0
  satCount : BitVec 32 := 0
deriving DecidableEq, Repr

/-- The verdict slot, Grist slot 1: kind 0x04 while `collecting`, and the payload of Tables 4.8 and 4.9. -/
structure Verdict where
  collecting : Bool := false
  threshold : BitVec 32 := 0
  total : BitVec 64 := 0
  decideRev : BitVec 48 := 0
  doneMap : BitVec 64 := 0
  cause : BitVec 16 := 0
  spanN : BitVec 8 := 1
  finalizer : BitVec 6 := 0
  state : BitVec 2 := 0
  step : BitVec 32 := 0
  records : Bank MemberRec := []
deriving DecidableEq, Repr

/-- A unit of the slow tier as a Kiln read it, with the CRC read for it (R312). -/
structure UnitRead where
  unit : Nat
  data : BitVec 2048
  crc : BitVec 32
deriving DecidableEq, Repr

/-- What a Kiln met while it read units: those whose CRC failed, and the packages of the pair (0 to 7) whose link ECC
corrected an error. Every other unit read as it is stored. -/
structure SlowReads where
  bad : List UnitRead := []
  linkCorrected : List (Fin 8) := []
deriving DecidableEq, Repr

/-- What enters a member in span mode: at UP the slot of a tile, the marker in slot 0 or the verdict in slot 1 (R94); at
DOWN a slot of the wort line (R100). -/
inductive Ingress where
  | tile (x : Slot) (crc : BitVec 32)
  | marker (m : Marker) (crcFail : Bool)
  | verdict (v : Verdict) (crcFail : Bool)
  | wort (x : Slot) (crc : BitVec 32)
  | wortMarker (m : Marker) (crcFail : Bool)
deriving DecidableEq, Repr

/-- A command entry in a ring: virtual interface, queue (0x4000 is the function's admin queue) and the
free-running number of the entry in its ring. -/
structure CmdRef where
  v : Fin 64
  q : Fin 16385
  n : Nat
deriving DecidableEq, Repr

/-- The management paths of Table 13.1. -/
inductive Path where
  | port | fabric | mailbox | admin
deriving DecidableEq, Repr

/-- The Ethernet II frame that carries a message on the management port (R424 to R426), less the message itself: the
addresses, an 802.1Q tag, the EtherType, the bytes of padding behind the message, and the collisions that the module has
met in its own transmit opportunity since the frame before (R425). -/
structure EthFrame where
  dst : BitVec 48 := 0xFFFFFFFFFFFF
  src : BitVec 48 := 0
  tag : Option (BitVec 16) := none
  ether : BitVec 16 := 0x88B5
  padding : Nat := 0
  collisions : Nat := 0
deriving DecidableEq, Repr

/-- A Nalora message as it arrives, Table 13.4: the header fields and the data. `from_` is what the path itself tells of
the sender: for the fabric the SRC field of the packet (R428), for a mailbox the channel in bits 7:0, with bit 8 set
when a word carried a stamp other than 0x00 in stamped mode (R427). `frame` is what carries it on the management port;
`incarn` is the incarnation of the packet that carries it on the fabric. -/
structure NalMsg where
  path : Path
  from_ : BitVec 16
  magic : BitVec 16 := 0x4E4C
  version : BitVec 8 := 1
  kind : BitVec 8
  flags : BitVec 8 := 0
  dst : BitVec 16
  src : BitVec 16
  seq : BitVec 16
  offset : BitVec 32 := 0
  keySlot : BitVec 3 := 0
  object : BitVec 20
  index : BitVec 16 := 0
  counter : BitVec 64 := 0
  tag : BitVec 128 := 0
  dataLen : BitVec 8 := 0
  data : Bytes := []
  frame : EthFrame := {}
  incarn : BitVec 8 := 0
deriving DecidableEq, Repr

/-- A fabric packet: the header of Table 11.6 and the payload. -/
structure Packet where
  lseq : BitVec 12 := 0
  vc : BitVec 3 := 0
  detour : Bool := false
  incarn : BitVec 8 := 0
  type : BitVec 8 := 0
  key : BitVec 64 := 0
  offset : BitVec 48 := 0
  dst : BitVec 14 := 0
  src : BitVec 14 := 0
  job : BitVec 16 := 0
  seq : BitVec 16 := 0
  epoch : BitVec 8 := 0
  cls : BitVec 2 := 0
  len : BitVec 6 := 0
  payload : Bytes := []
deriving DecidableEq, Repr

/-- The units that the Maltster polls (R463): compute dies, I/O dies, Kilns and clusters. -/
inductive PollUnit where
  | die (d : Fin 8) | iod (i : Fin 4) | kiln (k : Fin 8) | cluster (c : Fin 1088)
deriving DecidableEq, Repr

/-- One SerDes lane of a connector: a fabric port's lane 0-3, or a lane 0-63 of UP or DOWN (R470). -/
inductive Lane where
  | fab (p : Fin 32) (i : Fin 4)
  | span (down : Bool) (i : Fin 64)
deriving DecidableEq, Repr

/-- The cabled connectors (Table 17.2). -/
inductive Conn where
  | up | down | fab (j : Fin 4)
deriving DecidableEq, Repr

/-- The temperature sensors of Table 16.5, the coolant inlet and the coolant flow. -/
inductive Sensor where
  | die (d : Fin 8) | stack (h : Fin 16) | iod (i : Fin 4) | kiln (k : Fin 8) | inlet | flow
deriving DecidableEq, Repr

/-- The units whose microcode a handover switches, Table 13.23. -/
inductive McUnit where
  | conveyor | memory | kilns | links
deriving DecidableEq, Repr

/-- The result of one read of a sector (R292). -/
inductive EccResult where
  | clean | corrected | uncorrectable
deriving DecidableEq, Repr

/-- What the reads of one command find: the one that is uncorrectable, if any, and those that the code corrects (R292). A
read is named by its lane for LD and LD.NC, by the progress of the transfer for the modes of a stream descriptor. -/
structure ReadEcc where
  ue : Option Nat := none
  ce : List Nat := []
deriving DecidableEq, Repr

/-- A transfer at a pseudo-channel queue (R293): its requester, and its number among the transfers that the requester has there. -/
structure HbmTransfer where
  req : Nat
  number : Nat := 0
deriving DecidableEq, Repr

/-- The outcome of one retry of a transfer over the link of a slow-tier package (R314). -/
structure LinkTry where
  transfer : Nat
  passes : Bool
deriving DecidableEq, Repr

/-- Why a retraining window opens (R297); `mC` is the stack temperature in thousandths of a degree. -/
inductive RetrainCause where
  | escalation | periodic | temperature (mC : Int)
deriving DecidableEq, Repr

/-- Bytes of an image slot of the boot flash that read otherwise than they were written: offset and value. -/
abbrev FlashErrors := List (Nat × Byte)

/-- What a fabric port learns of its neighbour when it comes up (R507): the offset of the best probe in units of
0.2 ns, and the neighbour's 70.010 (in ns, as its 32 bits) and 70.011. -/
structure Probe where
  theta : Int
  nbrOffset : BitVec 32
  nbrRef : BitVec 16
deriving DecidableEq, Repr

/-- A write of CXL.mem: its data, and whether the host marks them as poisoned (Table 12.1). -/
structure CxlWrite where
  data : Bytes
  poison : Bool := false
deriving DecidableEq, Repr

/-- What self test and training find at start-up (R464, R526, R527). -/
structure SelfTest where
  failedClusters : List Nat := []
  failedChannels : List Nat := []
  hbmRate : Bank Nat := []
  failedPackages : List Nat := []
  /-- packages that train at 8,533 MT/s only (R315) -/
  lpSlow : List Nat := []
  /-- temperature of each stack at its training, in thousandths of a degree (R297) -/
  stackMc : Bank Int := []
  silentDie : Option Nat := none
deriving DecidableEq, Repr

/-- The commands of the block, one per row of spec/opcode_table.json. -/
inductive Instr where
  -- 02 the common arbiter
  | arbiterRequest (c : ArbClass) (inst req beats cycle : Nat)
  | arbiterDecision (c : ArbClass) (inst cycle : Nat)
  | backoffExpire (c : ArbClass) (inst req cycle : Nat)
  | emergencyPreempt (c : ArbClass) (inst cycle : Nat)
  | emergencyEnd (c : ArbClass) (inst cycle : Nat)
  | arbiterControlWrite (die : Fin 12) (c : ArbClass) (viaVf : Bool) (value : BitVec 32) (cycle : Nat)
  | registerWrite (r : RegRef) (viaVf : Bool) (value : Nat) (cycle : Nat)
  -- 03 the Grist Conveyor
  | revolutionBoundary
  | memberMarkerPass (crcFail : Bool)
  | markerReturnMaster
  | stationMarkerPass (st : Fin 128) (crcFail : Bool)
  | injectorSlotPass (j : Fin 16) (slot : Fin 76800) (crcFail : Bool)
  | stagingReadDone (j : Fin 16) (ctx entry : Nat) (ecc : EccResult)
  | kilnRewriteDone (k : Fin 8) (j : Fin 16) (slot : Fin 76800) (reads : SlowReads)
  | stationClaim (st : Fin 128) (ctx entry : Nat) (fetched : Bool)
  | stationCapture (st : Fin 128) (slot : Fin 76800) (crcFail : Bool)
  | latchCopyDone (s : Fin 128) (ctx entry : Nat) (i : Fin 8)
  | conveyorLoad (r : CmdRef)
  | conveyorUnload (r : CmdRef)
  | conveyorHalt (r : CmdRef)
  | conveyorResume (r : CmdRef)
  | conveyorClockChange (m : Fin 65)
  | spanConfigWrite (value : BitVec 64)
  | spanNeighbourExchange (down : Bool) (spanId : BitVec 32) (index : BitVec 6) (lastCommitted : BitVec 32)
      (latency10ps : Nat)
  | spanIngress (slot : Fin 76800) (x : Ingress)
  | spanStarveTimeout
  | markerReturnTimeout
  | haltedLinkLoss (down : Bool)
  | sharedGrantWrite (v : Fin 64) (value : BitVec 8)
  -- 04 the wort line
  | gradientInjectorPass (k : Fin 8) (slot : Fin 76800) (crcFail : Bool)
  | contributionDue (s : Fin 128) (ctx entry : Nat)
  | subtileRead (s : Fin 128) (ctx entry : Nat) (uncorrectable : Bool)
  | addWindowPass (st : Fin 128) (slot : Fin 76800) (late bufferUe crcFail : Bool)
  | returnLoad (r : CmdRef)
  | verdictRecordWrite (crcFail : Bool)
  | verdictSlotRebuild
  -- 05 matrix rows
  | mxIssue (g : Gid) (w : BitVec 64)
  | mxHead (c : Cid)
  | weightTimeout (c : Cid)
  | mmaRow (c : Cid) (ecc : Option Bool)
  | mmaCol (c : Cid) (ecc : Option Bool)
  | loada (c : Cid)
  | epi (c : Cid) (ecc : Bool)
  | mmaOs (c : Cid) (ecc : Bool)
  | tieSet (c : Cid)
  | tieClr (c : Cid)
  | localWeightLoad (c : Cid) (n : Fin 8)
  | epilogueStep (c : Cid) (ecc : Bool)
  | accAdd (c : Cid)
  | mxCommandComplete (c : Cid)
  -- 07 thread groups
  | groupStart (launch index : Nat)
  | kernelStartCore (c : Cid) (launch : Nat)
  | clusterStoreClear (cluster : Fin 1088) (launch : Nat)
  | iadd (g : Gid) (w : BitVec 64)
  | isub (g : Gid) (w : BitVec 64)
  | imul (g : Gid) (w : BitVec 64)
  | imulhi (g : Gid) (w : BitVec 64)
  | imad (g : Gid) (w : BitVec 64)
  | imin (g : Gid) (w : BitVec 64)
  | imax (g : Gid) (w : BitVec 64)
  | iabs (g : Gid) (w : BitVec 64)
  | and (g : Gid) (w : BitVec 64)
  | or (g : Gid) (w : BitVec 64)
  | xor (g : Gid) (w : BitVec 64)
  | not (g : Gid) (w : BitVec 64)
  | shl (g : Gid) (w : BitVec 64)
  | shr (g : Gid) (w : BitVec 64)
  | sar (g : Gid) (w : BitVec 64)
  | popc (g : Gid) (w : BitVec 64)
  | clz (g : Gid) (w : BitVec 64)
  | icmp (g : Gid) (w : BitVec 64)
  | sel (g : Gid) (w : BitVec 64)
  | mov (g : Gid) (w : BitVec 64)
  | movi (g : Gid) (w : BitVec 64)
  | idiv (g : Gid) (w : BitVec 64)
  | irem (g : Gid) (w : BitVec 64)
  | fadd (g : Gid) (w : BitVec 64)
  | fsub (g : Gid) (w : BitVec 64)
  | fmul (g : Gid) (w : BitVec 64)
  | ffma (g : Gid) (w : BitVec 64)
  | fmin (g : Gid) (w : BitVec 64)
  | fmax (g : Gid) (w : BitVec 64)
  | fabs (g : Gid) (w : BitVec 64)
  | fneg (g : Gid) (w : BitVec 64)
  | fcmp (g : Gid) (w : BitVec 64)
  | frcp (g : Gid) (w : BitVec 64)
  | frsq (g : Gid) (w : BitVec 64)
  | fsqrt (g : Gid) (w : BitVec 64)
  | fexp2 (g : Gid) (w : BitVec 64)
  | flog2 (g : Gid) (w : BitVec 64)
  | fsin (g : Gid) (w : BitVec 64)
  | fcos (g : Gid) (w : BitVec 64)
  | ftanh (g : Gid) (w : BitVec 64)
  | cvtF2f (g : Gid) (w : BitVec 64)
  | cvtF2i (g : Gid) (w : BitVec 64)
  | cvtI2f (g : Gid) (w : BitVec 64)
  | pack (g : Gid) (w : BitVec 64)
  | unpack (g : Gid) (w : BitVec 64)
  | shfl (g : Gid) (w : BitVec 64)
  | vote (g : Gid) (w : BitVec 64)
  | movu (g : Gid) (w : BitVec 64)
  | movs (g : Gid) (w : BitVec 64)
  | nop (g : Gid) (w : BitVec 64)
  | bra (g : Gid) (w : BitVec 64)
  | braAny (g : Gid) (w : BitVec 64)
  | pushm (g : Gid) (w : BitVec 64)
  | flipm (g : Gid) (w : BitVec 64)
  | clrm (g : Gid) (w : BitVec 64)
  | popm (g : Gid) (w : BitVec 64)
  | call (g : Gid) (w : BitVec 64)
  | ret (g : Gid) (w : BitVec 64)
  | exit (g : Gid) (w : BitVec 64)
  | groupEnd (g : Gid)
  | trap (g : Gid) (w : BitVec 64)
  | illegalInstruction (g : Gid) (w : BitVec 64)
  | ld (g : Gid) (w : BitVec 64) (ecc : ReadEcc)
  | st (g : Gid) (w : BitVec 64)
  | ldNc (g : Gid) (w : BitVec 64) (ecc : ReadEcc)
  | atom (g : Gid) (w : BitVec 64)
  | mfence (g : Gid) (w : BitVec 64)
  | fenceComplete (g : Gid)
  | fenceTimeout (g : Gid)
  | acqG (g : Gid) (w : BitVec 64)
  | relG (g : Gid) (w : BitVec 64)
  | bar (g : Gid) (w : BitVec 64)
  | barrierRelease (g : Gid)
  | mxWait (g : Gid) (w : BitVec 64)
  | mxTest (g : Gid) (w : BitVec 64)
  | dmaStart (g : Gid) (w : BitVec 64)
  | dmaWait (g : Gid) (w : BitVec 64)
  | dmaCopy (cluster : Fin 1088) (slot : Fin 256) (ecc : ReadEcc)
  | transpose (cluster : Fin 1088) (slot : Fin 256) (ecc : ReadEcc)
  | prefetch (cluster : Fin 1088) (slot : Fin 256) (ecc : ReadEcc)
  | zero (cluster : Fin 1088) (slot : Fin 256)
  | dmaTransferComplete (cluster : Fin 1088) (slot : Fin 256)
  | groupParkAsync (g : Gid)
  | groupSelfWait (g : Gid)
  | replayGroup (r : CmdRef)
  | retry (g : Gid)
  | skip (g : Gid)
  | reissue (g : Gid)
  | abort (g : Gid)
  | kernelComplete (launch : Nat)
  | specMergeDone (cluster : Fin 1088)
  | specDiscard (r : CmdRef)
  -- 09 memory tiers
  | hbmParityRetry (p : Fin 1024) (req : HbmTransfer) (passes : Bool) (cycle : Nat)
  | patrolScrubRead (p : Fin 1024) (offset : Nat) (result : EccResult) (last : Bool)
  | retrainWindowOpen (p : Fin 1024) (cause : RetrainCause) (cycle : Nat)
  | retrainWindowEnd (p : Fin 1024) (mC : Int) (cycle : Nat)
  | retrainTimeout (p : Fin 1024) (cycle : Nat)
  | migrationSectorCopy (h : Fin 16) (ecc : EccResult)
  | migrationSwitch (h : Fin 16) (cycle : Nat)
  | missEntryAlloc (cluster : Fin 1088) (p : Fin 1024) (waited : Nat)
  | prefetchIssue (cluster : Fin 1088) (tracker : Fin 16)
  | regulatorCharge (v : Fin 64) (d : Fin 8) (waitedNs : Nat)
  | lpLinkRetry (q : Fin 32) (passes : LinkTry)
  | lpRetrainWindow (q : Fin 32) (succeeds : Bool)
  -- 10 Kilns and steps
  | kilnTileTakeover (k : Fin 8)
  | kilnUpdateTile (k : Fin 8) (reads : SlowReads)
  | workingCopyWrite (k : Fin 8)
  | stripeFlushTimeout (k : Fin 8)
  | stripeWriteDone (k : Fin 8) (reads : SlowReads)
  | stepOpen (r : CmdRef)
  | stepOpenExecute
  | stepClose (r : CmdRef)
  | stepCloseAbort (r : CmdRef)
  | stepCommit (r : CmdRef)
  | evalOpen (r : CmdRef)
  | evalClose (r : CmdRef)
  | updateLoad (r : CmdRef)
  | kilnRead (r : CmdRef) (reads : SlowReads)
  | kilnWrite (r : CmdRef) (reads : SlowReads)
  | kilnApply (r : CmdRef)
  -- 11 the fabric
  | fabRead (p : Packet) (ecc : EccResult)
  | fabWrite (p : Packet)
  | fabWriteMask (p : Packet)
  | fabAtomic (p : Packet) (ecc : EccResult)
  | fabAtomicCont (p : Packet) (ecc : EccResult)
  | fabReadResp (p : Packet)
  | fabWriteAck (p : Packet)
  | fabAtomicResp (p : Packet)
  | fabMgmt (p : Packet) (m : NalMsg)
  | fabReservedType (p : Packet)
  | fabRequestEgress (n : Nat) (waitedNs : Nat)
  | fabTimeout (dst : BitVec 14) (cls : BitVec 2) (seq : BitVec 16)
  | frameReceive (p : Fin 32) (f : Packet) (crc : BitVec 32) (corrected uncorrectable : Nat)
  | linkAck (p : Fin 32) (lseq : BitVec 12)
  | nak (p : Fin 32) (lseq : BitVec 12)
  | credit (p : Fin 32) (vc : Fin 8) (units : Nat)
  | linkReplayTimeout (p : Fin 32)
  | fabPortDown (p : Fin 32) (resendLimit : Bool)
  | fabPortUp (p : Fin 32) (pr : Probe)
  | regionKeys (r : CmdRef)
  | regionOpen (r : CmdRef)
  | regionClose (r : CmdRef)
  | nodeTopologyWrite (topology : Bool) (value : BitVec 128)
  -- 12 the host interface
  | queueTailDoorbell (v : Fin 64) (q : Fin 16385) (value : BitVec 32) (bytes : Nat) (mem : List (Nat × Bytes))
  | commandSubmit (v : Fin 64) (q : Fin 16385)
  | commandStart (r : CmdRef)
  | commandComplete (r : CmdRef)
  | nopCommand (r : CmdRef)
  | kernelLoad (r : CmdRef)
  | kernelUnload (r : CmdRef)
  | launch (r : CmdRef)
  | kernelAbort (r : CmdRef)
  | copy (r : CmdRef)
  | fill (r : CmdRef)
  | mapSync (r : CmdRef)
  | contextCreate (r : CmdRef)
  | contextDestroy (r : CmdRef)
  | queueCreate (r : CmdRef)
  | queueDestroy (r : CmdRef)
  | timelineCreate (r : CmdRef)
  | timelineDestroy (r : CmdRef)
  | setLayout (r : CmdRef)
  | memCreate (r : CmdRef)
  | memFree (r : CmdRef)
  | timelineSignal (v : Fin 64) (t : BitVec 16) (value : BitVec 64) (bytes : Nat)
  | eventRingHeadDoorbell (v : Fin 64) (ctx : Fin 4097) (value : BitVec 64) (bytes : Nat)
  | faultRingHeadDoorbell (v : Fin 64) (ctx : Fin 4096) (value : BitVec 64) (bytes : Nat)
  | noticeRingHeadDoorbell (v : Fin 64) (ctx : Fin 4096) (value : BitVec 64) (bytes : Nat)
  | txData (master : BitVec 8) (ch : Fin 256) (word : BitVec 32)
  | rxData (master : BitVec 8) (ch : Fin 256)
  | doorbell (master : BitVec 8) (ch : Fin 256) (value : BitVec 32)
  | functionLevelReset (v : Fin 64)
  | vfEnable (on : Bool) (numVfs : Fin 64)
  | cxlMemRequest (write : Option CxlWrite) (offset : Nat) (ecc : EccResult)
  -- 13 management
  | naloraRead (m : NalMsg)
  | naloraWrite (m : NalMsg)
  | naloraWriteG (m : NalMsg)
  | naloraStage (m : NalMsg)
  | naloraIdentify (m : NalMsg)
  | naloraResponse (m : NalMsg)
  | naloraNotice (m : NalMsg)
  | naloraReservedKind (m : NalMsg)
  | dictRead (r : CmdRef)
  | dictWrite (r : CmdRef)
  | dictWriteG (r : CmdRef)
  | keyRotate (r : CmdRef)
  | keyProvision (m : NalMsg)
  | fwActivate (r : CmdRef)
  | mbxMessageTimeout
  | stagingTimeout (addr : BitVec 16)
  | journalCommit
  | pageBudgetRefill
  | plcaBeaconTimeout
  | plcaIdWrite (value : BitVec 8)
  | attestNonce (nonce : BitVec 256)
  | attestReportReady
  | caskExportReq (first count : BitVec 64) (nonce : BitVec 256)
  | caskExportReady
  | fwLoad (requester : BitVec 16) (offset : Nat) (data : Bytes) (last : Bool)
  | fwVerifyDone (f : FlashErrors)
  | fwLoadAbandon
  | microcodeSwitch (u : McUnit)
  | handoverSelfCheck
  | fwRevert
  | recoveryLoader
  | recoveryNotice
  -- 14 resilience and the Cask
  | healthPoll (missed : List PollUnit)
  | clusterSwap (v : Fin 64)
  | stationWithdraw (s : Fin 128)
  | laneErrorCheck (l : Lane) (errors : Nat)
  | fabPortRetryHourly (p : Fin 32) (goodLanes : BitVec 4)
  | spanLaneSpare (down : Bool) (group : Fin 16)
  | brownHoldEnter (mv : Nat)
  | brownHoldLeave
  | powerLoss (mv watts : Nat)
  | overvoltage (mv watts : Nat)
  | powerReturn
  | caskCommit (firstOk secondOk : Bool)
  | caskCoalesceFlush (n : Nat)
  -- 16 power, clocks, thermal, start-up; 17 connectors
  | powerSample (p10 : Nat) (nearLimit : Bool)
  | powerExcursionLimit (p10 : Nat)
  | pLimitWrite (value : BitVec 32)
  | forceSafeAssert
  | forceSafeRelease
  | referenceLoss
  | referenceReturn
  | coreRailDroop (d : Fin 8)
  | thermalThrottle (x : Sensor) (mC : Int)
  | thermalRecover (x : Sensor) (mC : Int)
  | dieStop (d : Fin 8)
  | dieResume (d : Fin 8)
  | thermalTrip (x : Sensor) (mC : Int)
  | perstNAssert
  | perstNRelease (slotId : BitVec 6) (slowStart : Bool)
  | hotReset
  | romStart (torn : Option Nat) (sram : Bytes) (slotA slotB : FlashErrors) (unreadable : List Nat)
  | trainingDone (t : SelfTest)
  | selfTestDone (t : SelfTest)
  | conveyorStart
  | cableInsert (c : Conn) (readable active : Bool)
  | cableOvercurrent (c : Conn)
  | cableRemove (c : Conn)
  | presentNHigh
  | plcaBeaconReceived
  | overvoltageRelease
  | holdUpEnergyExhausted
  | tripSensorsBelowThrottle
  | handoverNewImageStart
  | laneLosesLock (l : Lane)
deriving DecidableEq, Repr

end Sys2Proof
end

