-- ==== Sys2Proof/Decode.lean ====
section
/-!
DEFINITION. The table of commands gives its rows no bits: no row is spelled by a word of the table. The thread cores
decode their own instruction words (R209, R211).
-/

namespace Sys2Proof

/-- The command that a word spells by the table's bits: none of the rows has bits. -/
def decodeTableWord (_nbits _w : Nat) : Option Instr := none

/-- The opcodes that Table 7.5 assigns (R211). -/
def assignedOpcode (o : Nat) : Bool :=
  o ≤ 0x16 || (0x20 ≤ o && o ≤ 0x30) || (0x40 ≤ o && o ≤ 0x44) || (0x50 ≤ o && o ≤ 0x53) || (0x60 ≤ o && o ≤ 0x6A)
    || (0x70 ≤ o && o ≤ 0x74) || (0x80 ≤ o && o ≤ 0x82) || (0x90 ≤ o && o ≤ 0x94)

/-- R211, Table 7.5: the command that a 64-bit instruction word of group `g` is, by its OPC (bits 63:56). `ecc` is what a
load finds of its data's check bits. -/
def decodeThread (g : Gid) (w : BitVec 64) (ecc : ReadEcc) : Instr :=
  match (w >>> 56).toNat with
  | 0x00 => .iadd g w
  | 0x01 => .isub g w
  | 0x02 => .imul g w
  | 0x03 => .imulhi g w
  | 0x04 => .imad g w
  | 0x05 => .imin g w
  | 0x06 => .imax g w
  | 0x07 => .iabs g w
  | 0x08 => .and g w
  | 0x09 => .or g w
  | 0x0A => .xor g w
  | 0x0B => .not g w
  | 0x0C => .shl g w
  | 0x0D => .shr g w
  | 0x0E => .sar g w
  | 0x0F => .popc g w
  | 0x10 => .clz g w
  | 0x11 => .icmp g w
  | 0x12 => .sel g w
  | 0x13 => .mov g w
  | 0x14 => .movi g w
  | 0x15 => .idiv g w
  | 0x16 => .irem g w
  | 0x20 => .fadd g w
  | 0x21 => .fsub g w
  | 0x22 => .fmul g w
  | 0x23 => .ffma g w
  | 0x24 => .fmin g w
  | 0x25 => .fmax g w
  | 0x26 => .fabs g w
  | 0x27 => .fneg g w
  | 0x28 => .fcmp g w
  | 0x29 => .frcp g w
  | 0x2A => .frsq g w
  | 0x2B => .fsqrt g w
  | 0x2C => .fexp2 g w
  | 0x2D => .flog2 g w
  | 0x2E => .fsin g w
  | 0x2F => .fcos g w
  | 0x30 => .ftanh g w
  | 0x40 => .cvtF2f g w
  | 0x41 => .cvtF2i g w
  | 0x42 => .cvtI2f g w
  | 0x43 => .pack g w
  | 0x44 => .unpack g w
  | 0x50 => .shfl g w
  | 0x51 => .vote g w
  | 0x52 => .movu g w
  | 0x53 => .movs g w
  | 0x60 => .nop g w
  | 0x61 => .bra g w
  | 0x62 => .braAny g w
  | 0x63 => .pushm g w
  | 0x64 => .flipm g w
  | 0x65 => .clrm g w
  | 0x66 => .popm g w
  | 0x67 => .call g w
  | 0x68 => .ret g w
  | 0x69 => .exit g w
  | 0x6A => .trap g w
  | 0x70 => .ld g w ecc
  | 0x71 => .st g w
  | 0x72 => .ldNc g w ecc
  | 0x73 => .atom g w
  | 0x74 => .mfence g w
  | 0x80 => .acqG g w
  | 0x81 => .relG g w
  | 0x82 => .bar g w
  | 0x90 => .mxIssue g w
  | 0x91 => .mxWait g w
  | 0x92 => .mxTest g w
  | 0x93 => .dmaStart g w
  | 0x94 => .dmaWait g w
  | _ => .illegalInstruction g w

end Sys2Proof
end

