-- ==== Sys2Proof/Config.lean ====
section
/-!
DEFINITION. What is fixed for a module but not by the manual, and the free values: constants without a body, so that
nothing can be proved of them beyond their type. A statement about one holds whatever its value is.
-/

namespace Sys2Proof

/-- Free values for results that the manual leaves open: the step reads the one at the counter `free` of the state and
advances the counter. -/
opaque Config.freeWord : Nat → Word

/-- Contents of a master element before any KILN_WRITE (R320): Kiln, copy, block, element. -/
opaque Config.masterBefore : Nat → Nat → Nat → Word

/-- 00.003 SERIAL, set at manufacture: 16 ASCII bytes, as a little-endian number. -/
opaque Config.serial : BitVec 128

/-- 00.004 MAC_ADDR, set at manufacture. -/
opaque Config.macAddr : BitVec 48

/-- 00.002 STEPPING: true for stepping B1. -/
opaque Config.steppingB1 : Bool

/-- R451: the 256-bit seed that 32 KiB of SRAM before its initialisation and the helper data give. -/
opaque Config.pufSeed : Bytes → Bytes → BitVec 256

/-- The public key of the ML-DSA-44 key pair that FIPS 204 generates from a seed, 1,312 bytes. -/
opaque Config.mlDsaKey : BitVec 256 → BitVec 10496

/-- What manufacture leaves in the boot flash (Table 13.14): the helper data, and the digest of the identity public key. -/
opaque Config.helperData : Bytes
opaque Config.idDigest : BitVec 256

/-- The two signer digests in ROM (R455, check 2). -/
opaque Config.signerA : BitVec 256
opaque Config.signerB : BitVec 256

/-- The ML-DSA-44 signature that the holder of a public key gives for a message and a context string in the deterministic
variant of FIPS 204, and whether another one verifies. -/
opaque Config.mlDsaSign : Bytes → Bytes → Bytes → BitVec 19360
opaque Config.mlDsaOther : Bytes → Bytes → Bytes → BitVec 19360 → Bool

/-- What an erased byte of the boot flash reads. -/
opaque Config.erasedByte : Byte

/-- 00.032 ID_CERT, set at manufacture, up to 4,096 bytes. -/
opaque Config.idCert : BitVec 32768

/-- 80.020 to 80.022 and 00.042: SHA3-256 of FIPS 202. -/
opaque Config.sha3 : Bytes → BitVec 256

/-- KMAC256 of NIST SP 800-185 with 256 bits of output: key, message, customisation string. -/
opaque Config.kmac256 : BitVec 256 → Bytes → Bytes → BitVec 256

/-- The ML-DSA-44 signature of FIPS 204 under the identity key: message and context string; 2,420 bytes. -/
opaque Config.sign : Bytes → Bytes → BitVec 19360

/-- What a record position reads after a write to it was cut off or failed (R487, R488): sequence number and byte. -/
opaque Config.tornByte : Nat → Nat → Byte

/-- The logical page of the dictionary store that holds an object's element (key `okey`), and that of the repair list. -/
opaque Config.pageOf : Nat → Fin 1024
opaque Config.repairPage : Fin 1024

/-- The 4 KiB that a version of a logical page is written as: page, sequence number, values by key. -/
opaque Config.pageBytes : Nat → Nat → List (Nat × Nat) → Bytes

/-- SEQ of a NOTICE of the module, by the notices sent before it; and the MAC address behind a port address (R435). -/
opaque Config.noticeSeq : Nat → BitVec 16
opaque Config.macOf : BitVec 16 → BitVec 48

/-- What a unit of a Kiln's park area (Kiln, unit) holds where no gradient tile of the Kiln is parked. -/
opaque Config.parkUnit : Nat → Nat → BitVec 2048

/-- What a read of the MSI-X table and pending bit array of a function returns (function, offset): the manual gives their place
and leaves their contents to PCIe. -/
opaque Config.msixWord : Nat → Nat → BitVec 64

/-! Choices of the thread instructions that the manual gives no encoding or no value for. -/

/-- Sign and payload of the NaN that an FP32 instruction of R212 returns: opcode and operands. -/
opaque Config.nanBits : Nat → Word → Word → Word → Word

/-- FMIN and FMAX (opcode, operands) where IEEE binary32 leaves a choice: a NaN operand, zeros of unlike signs. -/
opaque Config.minMaxOpen : Nat → Word → Word → Word

/-- Result of an instruction at an operand where the manual states none: opcode and operands. -/
opaque Config.resultOpen : Nat → Word → Word → Word

/-- Whether an integer instruction (opcode, MOD[1:0]) reads its operands as signed. -/
opaque Config.intSigned : Nat → BitVec 2 → Bool

/-- The relation that ICMP and FCMP test: opcode, MOD[1:0], SRCC, operands. -/
opaque Config.compare : Nat → BitVec 2 → BitVec 8 → Word → Word → Bool

/-- Whether DST of an instruction word names a u register where both files are possible (R206, R212, R219). -/
opaque Config.dstUniform : BitVec 64 → Bool

/-- log2 of the bytes per thread that LD, ST and LD.NC move (R226: 1, 2, 4, 8 or 16): MOD[1:0] and SRCC bits 6:0. -/
opaque Config.accessLog : BitVec 2 → BitVec 7 → Fin 5

/-- Whether a load of 1 or 2 bytes extends its sign: MOD[1:0] and SRCC bits 6:0. -/
opaque Config.loadSigned : BitVec 2 → BitVec 7 → Bool

/-- The source and target format codes that CVT selects: opcode, MOD[1:0], SRCC. -/
opaque Config.cvtFormats : Nat → BitVec 2 → BitVec 8 → Nat × Nat

/-- PACK and UNPACK: opcode, MOD[1:0], SRCC, operands. -/
opaque Config.packOpen : Nat → BitVec 2 → BitVec 8 → Word → Word → Word

end Sys2Proof
end

