-- ==== Sys2Proof/Machine/State.lean ====
section
/-!
DEFINITION. The state of the block as plain data: everything the manual gives one module, in one structure per
unit, gathered in `State`; the reasons a step can stop; and the state right after reset. Banks of like things are
`Bank`s by number; a unit that no bank lists is in the state its `default` gives. Every number of the object
dictionary that no other field holds lives in `dict` under `obj * 65536 + index` (R436), its default being the one of
Tables 13.8 to 13.13.
-/

namespace Sys2Proof.Machine

/-- Why a step stops with a fault. -/
inductive Fault where
  /-- No command of the block raises it: every fault the manual names parks a thread group, is answered or is counted,
  and the block goes on (safe: never raised). -/
  | none
deriving DecidableEq, Repr

/-- Why a step has no meaning. -/
inductive Refusal where
  /-- The command of this name is not modelled (safe: the model stops). -/
  | notModelled (mnemonic : String)
deriving DecidableEq, Repr

/-! ### 02 The common arbiter -/

/-- A running grant: the requester, the beats left at instance cycle `since`; `tag` names the request. -/
structure Grant where
  req : Nat
  left : Nat
  since : Nat
  tag : Nat := 0
deriving DecidableEq, Repr

/-- A request: for the head of its requester's queue `arrived` is when it became the head; its grant unit in beats; `tag`
tells the requests of one requester apart (R75: context and entry of the claim that a tile copy is for). -/
structure Head where
  req : Nat
  arrived : Nat
  beats : Nat
  tag : Nat := 0
deriving DecidableEq, Repr

/-- A back-off count loaded at cycle `at_`, and the last value loaded (R37). -/
structure Backoff where
  value : Nat := 0
  at_ : Nat := 0
  last : Nat := 0
deriving DecidableEq, Repr

/-- One instance of the common arbiter. `count` is the number of grants since the last fairness decision. -/
structure Arb where
  heads : List Head := []
  /-- requests behind the heads of their requesters, in the order of arrival -/
  queued : List Head := []
  running : Option Grant := none
  /-- the instance cycle from which an idle resource is free -/
  idleFrom : Nat := 0
  /-- grants that have run to their end and are not yet accounted for: requester, tag, cycle of the end -/
  ended : List (Nat × Nat × Nat) := []
  /-- the emergency requester holds the resource, since `since`, at most until `until_` (R40, R45) -/
  emergency : Bool := false
  since : Nat := 0
  until_ : Nat := 0
  /-- emergency uses so far: first cycle and length (R45) -/
  uses : List (Nat × Nat) := []
  /-- a retraining window or a switch of the channel map is open: no request is granted (R298, R300) -/
  closed : Bool := false
  lastGranted : Option Nat := none
  count : Nat := 0
  backoff : Bank Backoff := []
deriving DecidableEq, Repr

/-- A register of the arbiter with the value that decisions up to and including cycle `at_` still use (R39). -/
structure TimedReg where
  new : Nat
  old : Nat
  at_ : Nat
deriving DecidableEq, Repr

structure Arbiters where
  insts : Bank Arb := []
  fairN : Bank TimedReg := []
  reject : Bank Bool := []
  preempts : Bank Nat := []
  priority : Bank TimedReg := []
deriving DecidableEq, Repr

/-! ### 15, 16, 17 Time, clocks, power, pins, start-up -/

/-- R492, R493, R495. `dieAcc` and `stretchAcc` count the cycles of a die's arithmetic clock in 1/6,400 of a cycle. -/
structure Clock where
  refCycles : Nat := 0
  oscNs : Nat := 0
  stepNs : Nat := 0
  refPresent : Bool := true
  dieAcc : Bank Nat := []
  stretchAcc : Bank Nat := []
  stopRef : Bank Nat := []
  /-- stretched cycles counted for supply and for temperature (R519), in the same units -/
  supplyStretch : Bank Nat := []
  thermalStretch : Bank Nat := []
  /-- periods that a droop of the core rail added to cycles (R518) and that have not passed yet -/
  droopLeft : Bank Nat := []
  /-- port p ↦ the neighbour's last measured offset in 0.2 ns, R507 -/
  probes : Bank Int := []
deriving DecidableEq, Repr

/-- What holds the module, R480, R481, R510, R523. -/
inductive HoldState where
  | none | powerLoss | overvoltage | tripped | off
deriving DecidableEq, Repr

structure Power where
  inputMv : Nat := 52000
  hold : HoldState := .none
  /-- power-loss sequence: postings refused, hold-up energy still available -/
  onHoldUp : Bool := false
  brown : Bool := false
  brownSince : Nat := 0
  brownMin : Nat := 0
  forceSafe : Bool := false
  /-- m that the power controller requests (R512) -/
  mPower : Nat := 64
  limitActing : Bool := false
  excursion : Bool := false
  /-- samples since the controller last changed m while no limit called (R512: up by 1 per 10 µs) -/
  raise : Nat := 0
  /-- die ↦ m requested for its own temperature, stack ↦ m requested by the stack (default 64) -/
  mDie : Bank Nat := []
  mStack : Bank Nat := []
  /-- die ↦ m in force (default 64) -/
  m : Bank Nat := []
  stopped : List Nat := []
  /-- sensors above their throttle or warning level -/
  hot : List Sensor := []
  trippedBy : Option Sensor := none
deriving DecidableEq, Repr

/-- A cabled connector (R535). -/
structure Cable where
  present : Bool := false
  active : Bool := false
  supply : Bool := false
  overcurrent : Bool := false
  lanesUp : Bool := false
deriving DecidableEq, Repr

structure Pins where
  perstN : Bool := false
  forceSafeN : Bool := true
  presentN : Bool := false
  slotId : BitVec 6 := 0
  cables : Bank Cable := []
deriving DecidableEq, Repr

/-- The start-up sequence of Table 16.7. -/
inductive StartPhase where
  | held | rom | image | ramped | trained | tested | stopped | started | recovery
deriving DecidableEq, Repr

structure Boot where
  phase : StartPhase := .held
  memoryActive : Bool := false
  adminServed : Bool := false
  /-- the arithmetic clocks start at m = 16 because FORCE_SAFE_N was low (R538) -/
  slowStart : Bool := false
  /-- timestamp of the last start-up (00.012 counts from it) -/
  startNs : Nat := 0
deriving DecidableEq, Repr

/-! ### 13 Management -/

/-- A dictionary request in the Maltster's queue, R422. `deliver` says where the answer goes. -/
structure Request where
  msg : NalMsg
  /-- the queue command of the admin path, if it came from there, with its LENGTH -/
  cmd : Option CmdRef := none
  len : Nat := 0
deriving DecidableEq, Repr

/-- A response that the module sent, R431. -/
structure Response where
  dst : BitVec 16
  seq : BitVec 16
  kind : BitVec 8
  status : BitVec 8
  data : Bytes := []
deriving DecidableEq, Repr

/-- A staging buffer of a requester, R434. -/
structure Staging where
  object : BitVec 20
  index : BitVec 16
  bytes : Bytes
deriving DecidableEq, Repr

/-- A notice, R435, and the address it goes to. -/
structure Notice where
  dst : BitVec 16
  code : BitVec 16
  object : BitVec 32
  time : Nat
  pace : BitVec 64
deriving DecidableEq, Repr

/-- An Ethernet II frame that the module sends on the management port (R426). -/
structure PortFrame where
  dst : BitVec 48
  src : BitVec 48
  ether : BitVec 16
  payload : Bytes
deriving DecidableEq, Repr

/-- A version of a logical page in a physical page of the dictionary store (R442): its sequence number, its CRC-32C, and
whether a valid commit record names it. -/
structure PageVersion where
  page : Nat
  seq : Nat
  crc : BitVec 32
  named : Bool := false
deriving DecidableEq, Repr

/-- A key slot, R445 to R450; its scope and counter are objects 90.002 and 90.004. -/
structure KeySlot where
  active : Bool := false
  key : BitVec 256 := 0
  scope : BitVec 32 := 0
deriving DecidableEq, Repr

/-- A guarded write that waits for its journal commit, R443. -/
structure PendingWrite where
  req : Request
  object : Nat
  index : Nat
  value : Nat
  slot : Nat
  counter : BitVec 64
  /-- sequence number of the first page version of the transaction -/
  first : Nat := 0
deriving DecidableEq, Repr

/-- Firmware: image slots A and B of the boot flash (Table 13.14) from their first byte to the last one written since the
erase, the two code banks of the Maltster's SRAM (R421, R457), which of them it runs from, and whether it runs an image. -/
structure Firmware where
  slotA : Bytes := []
  slotB : Bytes := []
  bank0 : Bytes := []
  bank1 : Bytes := []
  second : Bool := false
  runs : Bool := false
  loadOwner : BitVec 16 := 0
  loadNext : Nat := 0
  loadBytes : Nat := 0
  commitSvn : Bool := false
  newStarted : Bool := false
  /-- requests wait until this time while an image takes over (Table 13.23); 0: they do not -/
  quietUntil : Nat := 0
  switched : List McUnit := []
deriving DecidableEq, Repr

/-- A report or export in preparation: what its signed part is made of. -/
structure Signing where
  nonce : BitVec 256
  time : Nat
  pace : BitVec 64
  headPos : BitVec 64
  headHash : BitVec 256
  body : Bytes
deriving DecidableEq, Repr

/-- The Maltster. What it holds in its 8 MiB of SRAM (R421) is the dictionary in use, the queue, staging buffers, kept
responses, messages in parts, open key slots, seed and the code banks of `fw`; what lies in the boot flash (R440) is `store`,
`pages`, `keyStore`, `helper`, `idDigest` and the slots of `fw`; `signers` lies in ROM. -/
structure Mgmt where
  dict : Bank Nat := []
  /-- dictionary store: what each persistent object holds in the page versions that count -/
  store : Bank Nat := []
  /-- physical page ↦ the version of a logical page in it (R442); the next sequence number; where the search for a free
  physical page goes on -/
  pages : Bank PageVersion := []
  pageSeq : Nat := 0
  pageNext : Nat := 0
  /-- persistent objects written but not yet committed (R443) -/
  unsaved : List Nat := []
  /-- 00.020 has been written (R538) -/
  plcaWritten : Bool := false
  queue : List Request := []
  kept : List (NalMsg × Response) := []
  staging : Bank Staging := []
  /-- incomplete messages: channel and bytes, the one begun first at the front; words of responses that wait for room
  in the queue of their channel -/
  mailIn : List (Nat × Bytes) := []
  mailOut : Bank (List (BitVec 32)) := []
  sent : List Response := []
  /-- frames sent on the management port -/
  frames : List PortFrame := []
  notices : List Notice := []
  journal : Option PendingWrite := none
  pageBudget : Nat := 600
  /-- pages programmed beyond the budget (R444) -/
  pageDebt : Nat := 0
  keys : Bank KeySlot := []
  /-- key store in flash -/
  keyStore : Bank KeySlot := []
  /-- helper data, and digest of the identity public key, in flash; signer digests in ROM -/
  helper : Bytes := []
  idDigest : BitVec 256 := 0
  signers : List (BitVec 256) := []
  /-- the seed and the public key that the identity was derived to (R451) -/
  seed : BitVec 256 := 0
  idKey : BitVec 10496 := 0
  fw : Firmware := {}
  attest : Option Signing := none
  report : Bytes := []
deriving DecidableEq, Repr

/-! ### 14 Resilience and the Cask -/

/-- A record as posted and, in the Cask, as committed: Table 14.5. -/
structure CaskRecord where
  type : BitVec 16
  severity : BitVec 8
  source : BitVec 32
  payload : Bytes
  time : BitVec 64
  pace : BitVec 64
  boot : BitVec 32
  flags : BitVec 8 := 0
  seq : BitVec 64 := 0
  prevHash : BitVec 128 := 0
  dropped : BitVec 16 := 0
  suppressed : BitVec 32 := 0
deriving DecidableEq, Repr

/-- A pair of the coalescing table, R485. -/
structure Coalesced where
  type : BitVec 16
  source : BitVec 32
  start : Nat
  count : Nat
  payload : Bytes
  severity : BitVec 8
deriving DecidableEq, Repr

structure Cask where
  records : Bank CaskRecord := []
  /-- the position that the next record takes holds a record whose write did not succeed (R487, R488) -/
  torn : Bool := false
  nextSeq : Nat := 0
  queue : List CaskRecord := []
  dropped : Nat := 0
  /-- last posting time of each coalesced type and source -/
  lastPost : List (BitVec 16 × BitVec 32 × Nat) := []
  pairs : List Coalesced := []
  export_ : Option Signing := none
  exported : Bytes := []
  exportFirst : Nat := 0
  exportCount : Nat := 0
deriving DecidableEq, Repr

/-- What the repair list keeps, R469. -/
structure RepairList where
  clusters : List Nat := []
  stations : List Nat := []
  channels : List Nat := []
  packages : List Nat := []
  maps : Bank Nat := []
deriving DecidableEq, Repr

structure Health where
  missed : Bank Nat := []
  lost : List PollUnit := []
  /-- station ↦ the eight physical clusters attached to it -/
  sparing : Bank (List Nat) := []
  failedTest : List Nat := []
  absent : List Nat := []
  pendingRetire : List Nat := []
  ueTimes : Bank (List Nat) := []
  withdrawn : List Nat := []
  repair : RepairList := {}
  /-- port ↦ degraded lanes; failed ports are PORT_STATE 4 -/
  fabDegraded : Bank (List Nat) := []
  /-- lane groups of UP (0) and DOWN (1): degraded and not yet spared, spared -/
  spanDegraded : Bank (List Nat) := []
  spanSpared : Bank (List Nat) := []
  /-- spared groups named to the neighbour, taking effect at the next boundary -/
  spanNamed : Bank (List Nat) := []
  /-- Kiln ↦ lost blocks; lost weight tiles (GRIST_A and TILE_ID) -/
  lostBlocks : Bank (List Nat) := []
  lostTiles : List (Nat × Nat) := []
  lostOverflow : Bool := false
deriving DecidableEq, Repr

/-! ### 03 The Grist Conveyor -/

/-- Object 30.001, Table 3.16. -/
structure SpanCfg where
  spanId : BitVec 32 := 0
  n : Nat := 1
  index : Nat := 0
  master : Nat := 0
deriving DecidableEq, Repr

/-- An injector entry, Table 3.7. -/
structure InjEntry where
  tileId : BitVec 32
  revOffset : Nat
  slot : Nat
  genSel : Nat
  residency : Nat
  shared : Bool
  format : BitVec 8
  orient : Bool
  pgroup : BitVec 12
  gristA : Nat
  genExpl : BitVec 16
deriving DecidableEq, Repr

/-- A station entry, Table 3.8. -/
structure StaEntry where
  tileId : BitVec 32
  revOffset : Nat
  slot : Nat
  genSel : Nat
  genExpl : BitVec 16
  lstation : Nat
  clusters : BitVec 8
  cores : BitVec 4
  uses : Nat
  kind : Nat
  scFirst : Nat
  scTwo : Bool
  scBlock : Nat
  scDir : Bool
  scTile : BitVec 32
  sharedRef : Bool
deriving DecidableEq, Repr

/-- One run of a conveyor program: the step (0xFFFF_FFFF for an evaluation window), its start revolution, the read
generation of the step, and what has been done. -/
structure ConvRun where
  step : BitVec 32
  startRev : Nat
  gen : BitVec 16
  /-- injector entries that were injected; station entries that have fired -/
  injDone : List Nat := []
  staFired : List Nat := []
deriving DecidableEq, Repr

/-- A loaded conveyor program with its runs, oldest first, at most two: one for each live step. -/
structure ConvProg where
  spanN : Nat
  slots : Nat
  stations : Nat
  stepRevs : Nat
  inj : List InjEntry
  sta : List StaEntry
  /-- logical slot i lies in physical slot `map[i]` -/
  map : List Nat
  runs : List ConvRun := []
  cookie : BitVec 32 := 0
  unload : Bool := false
  /-- the memory objects that it names (Table 12.6) -/
  objs : List Nat := []
  /-- the station index: first entry and count of each logical station (Table 3.6) -/
  index : List (Nat × Nat) := []
  /-- the step whose STEP_OPEN had executed when it was loaded: it starts with a later one (R66) -/
  skip : Option (BitVec 32) := none
deriving DecidableEq, Repr

/-- What an injector keeps of a slot it filled (R62, R64). -/
structure InjSlot where
  ctx : Nat
  entry : Nat
  tileId : BitVec 32
  gen : BitVec 16
  /-- physical address of the buffer it was filled from -/
  src : Nat
  last : BitVec 12
  ext : Nat := 0
  rewriting : Bool := false
  rewritten : Bool := false
  /-- injected with POISON = 1 for good: superseded (R550), or of a lost tile (R474) -/
  poison : Bool := false
  /-- the next pass retires it: its program is unloaded, or its generation was discarded; in the second case the tile of
  the generation named here follows in the slot (R81) -/
  retire : Bool := false
  again : Option (BitVec 16) := none
deriving DecidableEq, Repr

/-- A tile that an injector puts back into its slot (R81, R86). -/
structure Reinject where
  slot : Nat
  fromRev : Nat
  ctx : Nat
  entry : Nat
  rev : BitVec 12
  ext : Nat
  gen : BitVec 16
  src : Nat
  /-- the Kiln's rewrite of the buffer is still awaited -/
  rewriting : Bool := false
  poison : Bool := false
deriving DecidableEq, Repr

/-- A tile in the staging buffer of an injector (R63): the generation read and its bytes, and whether the read was
uncorrectable. -/
structure Staged where
  ctx : Nat
  entry : Nat
  gen : BitVec 16
  ue : Bool
  payload : Bytes
deriving DecidableEq, Repr

structure Injector where
  filled : Bank InjSlot := []
  /-- staged tiles, at most 64 -/
  staged : List Staged := []
  again : List Reinject := []
  noticed : Bool := false
  /-- revolution of the last Pace marker that passed it (R51) -/
  keptRev : Nat := 0
deriving DecidableEq, Repr

/-- Why a latch waits on the retry list (R77). -/
inductive MissCause where
  | noCapture | noCell | notPresent | crc | format
deriving DecidableEq, Repr

/-- A claim of a station: it holds one capture buffer. -/
structure Claim where
  /-- its number at the station, with the requests for its copies at the latch arbiter -/
  id : Nat := 0
  ctx : Nat
  entry : Nat
  e : StaEntry
  slot : Nat
  rev : Nat
  /-- the generation asked for -/
  gen : BitVec 16
  /-- clusters (0-7) with claimed weight-cell buffers -/
  clusters : BitVec 8
  /-- the claimed buffers: cluster, core, buffer, and the number of the core's claim that the buffer must still carry -/
  cells : List (Nat × Nat × Nat × Nat) := []
  captured : Option Slot := none
  /-- copies still to be made -/
  copies : BitVec 8 := 0
  /-- released or cancelled while copies that had been granted run on (R552); the buffers they write are then lost, or
  free -/
  dropped : Option Bool := none
deriving DecidableEq, Repr

/-- A cluster of an entry on the retry list. -/
structure Retry where
  ctx : Nat
  entry : Nat
  gen : BitVec 16
  cluster : Nat
  cause : MissCause
deriving DecidableEq, Repr

structure Station where
  claims : List Claim := []
  nextClaim : Nat := 1
  retry : List Retry := []
  /-- own count of the Pace, and of the wort line; the last marker failed its CRC (R58, R102) -/
  keptRev : Nat := 0
  unsure : Bool := false
  wortRev : Nat := 0
  wortUnsure : Bool := false
  noticed : Bool := false
deriving DecidableEq, Repr

/-- CONVEYOR_STATE, Table 3.16. -/
inductive ConvState where
  | stopped | running | noticed | halted | forming | broken
deriving DecidableEq, Repr

/-- A neighbour of the span as the exchange of R89 found it. -/
structure Neighbour where
  trained : Bool := false
  lastCommitted : BitVec 32 := 0xFFFFFFFF
  latency10ps : Nat := 0
deriving DecidableEq, Repr

structure Conv where
  state : ConvState := .stopped
  rev : Nat := 0
  /-- slot position of the Pace in 1/20,800 of a slot -/
  acc : Nat := 0
  span : SpanCfg := {}
  /-- conveyor clock, in 1/64 of 1.1 GHz -/
  m : Nat := 64
  k2 : Bool := false
  k2Next : Bool := false
  quiet : Nat := 0
  /-- the marker that passed position 0 last, and one that has entered at UP and not passed it yet -/
  marker : Marker := {}
  entering : Option (Marker × Bool) := none
  /-- the marker that passed position 0 last fails its CRC -/
  markerBad : Bool := false
  haltRequested : Bool := false
  haltOwn : Bool := false
  /-- notice revolution V and HALT_REV -/
  halt : Option (Nat × Nat) := none
  haltCmds : List CmdRef := []
  goodMarkers : Nat := 0
  lastMarker : Option Nat := none
  locked : Bool := false
  /-- the Pace of the stamps while there is no Pace lock: 0:0 before the first, later the last value (R494) -/
  heldPace : Nat := 0
  stepReady : Bool := false
  /-- the returned marker showed bit 4 of every member -/
  allReady : Bool := false
  namedStep : Option (BitVec 32 × Nat) := none
  slots : Bank Slot := []
  inj : Bank Injector := []
  stn : Bank Station := []
  upNbr : Neighbour := {}
  downNbr : Neighbour := {}
  upDelay : Nat := 0
  downDelay : Nat := 0
  /-- virtual interfaces whose shared grant was withdrawn in this revolution -/
  withdrawn : List Nat := []
  /-- markers of other members seen bad -/
  mismatch : Bool := false
  /-- the physical slots of the virtual interfaces, and of the shared range under 64, where they have been laid out
  (R97) -/
  alloc : Bank (List Nat) := []
deriving DecidableEq, Repr

/-! ### 04 The wort line -/

/-- A gate entry, Table 4.4. -/
structure GateEntry where
  tileId : BitVec 32
  revOffset : Nat
  slot : Nat
  kiln : Nat
  pgroup : BitVec 12
  format : BitVec 8
  owner : Nat
  kind : Nat
  waitRevs : Nat
deriving DecidableEq, Repr

/-- A return station entry, Table 4.5. -/
structure RstaEntry where
  tileId : BitVec 32
  revOffset : Nat
  slot : Nat
  lstation : Nat
  clusters : BitVec 8
  accAddr : Nat
  accPitch : Nat
  format : BitVec 8
deriving DecidableEq, Repr

/-- One run of a return program. -/
structure RetRun where
  step : BitVec 32
  startRev : Nat
  gen : BitVec 16
  /-- gate entries opened; gate entries retired or copied -/
  opened : List Nat := []
  retired : List Nat := []
  /-- return station entries that took a buffer; added or drained; counted once for a full buffer -/
  taken : List Nat := []
  added : List Nat := []
  waited : List Nat := []
  /-- return station entries counted once for a pass that they missed while they waited for a buffer -/
  late : List Nat := []
deriving DecidableEq, Repr

structure RetProg where
  spanN : Nat
  slots : Nat
  replicated : Bool
  member : Nat
  stepRevs : Nat
  gate : List GateEntry
  rsta : List RstaEntry
  map : List Nat
  runs : List RetRun := []
  unload : Bool := false
  /-- as `ConvProg.skip`, and the station index -/
  skip : Option (BitVec 32) := none
  index : List (Nat × Nat) := []
deriving DecidableEq, Repr

/-- What a gradient injector keeps of a slot it owns or copies. -/
structure GradSlot where
  ctx : Nat
  entry : Nat
  step : BitVec 32
  stalled : Bool := false
  handed : Bool := false
  copied : Bool := false
  /-- its step or its generation was discarded: the next pass retires it -/
  retire : Bool := false
deriving DecidableEq, Repr

/-- A contribution buffer in use (R114). -/
structure Contribution where
  ctx : Nat
  entry : Nat
  step : BitVec 32
  /-- clusters read so far -/
  read : BitVec 8 := 0
  sum : List Word := []
  armed : Bool := false
  lost : Bool := false
  lateCounted : Bool := false
  /-- its number at the station, with its requests at the latch arbiter; the request for the next sub-tile stands there -/
  id : Nat := 0
  asked : Bool := false
deriving DecidableEq, Repr

/-- The tally of a member for the gradient slot that lies in a wort slot (R120). -/
structure Tally where
  tile : BitVec 32 := 0
  gen : BitVec 16 := 0
  count : Nat := 0
deriving DecidableEq, Repr

/-- A gradient slot in the park area: its wort slot, and the revolution in which it opens again (R130, R131). -/
structure ParkedSlot where
  n : Nat
  x : Slot
  fromRev : Nat
deriving DecidableEq, Repr

structure Wort where
  marker : Marker := {}
  /-- the wort marker in this member fails its CRC -/
  markerBad : Bool := false
  /-- gradient injector ↦ revolution of the last wort marker that passed it (R101) -/
  injRev : Bank Nat := []
  slots : Bank Slot := []
  inj : Bank (List (Nat × GradSlot)) := []
  contrib : Bank (List Contribution) := []
  tally : Bank Tally := []
  /-- HALT_REV of the last halt: parked slots come back in that wort revolution -/
  resumeRev : Nat := 0
  /-- Kiln ↦ parked gradient slots -/
  parked : Bank (List ParkedSlot) := []
  /-- the wort slots of the virtual interfaces, where they have been laid out (R113) -/
  alloc : Bank (List Nat) := []
deriving DecidableEq, Repr

/-- The verdict machinery of one member: slot 1, the controller's kept copy, the final verdict held, and the last
step whose decision this member carried out (R125 to R128, R551). -/
structure VerdictCtl where
  slot1 : Verdict := {}
  kept : Option Verdict := none
  held : Option Verdict := none
  decided : Option (BitVec 32) := none
  lastDecide : Nat := 0
  /-- the revolution of slot 1 in which the controller opened the collection -/
  openRev : Nat := 0
  crcBad : Bool := false
  last : Nat := 0
deriving DecidableEq, Repr

/-! ### 05, 06 Matrix rows -/

inductive CellState where
  | free | claimed | ready
deriving DecidableEq, Repr

/-- A weight-cell buffer, R144. -/
structure WeightCell where
  state : CellState := .free
  tileId : BitVec 32 := 0
  local_ : Bool := false
  uses : Nat := 0
  /-- order of claims in the core -/
  claim : Nat := 0
  format : BitVec 8 := 0
  orient : Bool := false
  payload : Bytes := []
  tileIn : Bool := false
  needScale : Bool := false
  scaleIn : Bool := false
  /-- a scale entry has claimed the buffer too -/
  scaleClaim : Bool := false
  scales : Bytes := []
  scBlock : Nat := 0
  scDir : Bool := false
  gen : BitVec 16 := 0
  uncommitted : Bool := false
deriving DecidableEq, Repr

/-- An entry of a core's lost-tile list, R148. -/
structure LostTile where
  tileId : BitVec 32
  uses : Nat
  claim : Nat
deriving DecidableEq, Repr

/-- Where a queued matrix command stands. -/
inductive MxStage where
  | queued | head | multiplied | epilogued | accDone
deriving DecidableEq, Repr

/-- The counts of one command: Table 6.10 and Table 5.17. -/
structure MxCounts where
  satAcc : Nat := 0
  satConv : Nat := 0
  scaleOvf : Nat := 0
  scaleUfl : Nat := 0
  nanOut : Nat := 0
  busy : Nat := 0
  macs : Nat := 0
  wwait : Nat := 0
  haz : Nat := 0
  epiBusy : Nat := 0
  epiWait : Nat := 0
  loadaBytes : Nat := 0
  wloadLocal : Nat := 0
deriving DecidableEq, Repr

/-- The latches of a matrix-command record at its start (R496, R499). -/
structure RecLatch where
  time : Nat := 0
  pace : BitVec 64 := 0
  cycles : Nat := 0
  stretch : Nat := 0
  stop : Nat := 0
  steps : Nat := 0
  pf : List Nat := []
  mtWait : Nat := 0
deriving DecidableEq, Repr

/-- A command in a core's queue of 8: the descriptor as read at issue. -/
structure MxCmd where
  desc : BitVec 512
  addr : Nat
  group : Nat
  token : Nat
  launch : Nat := 0
  ctx : Nat := 0
  stage : MxStage := .queued
  /-- the buffer it uses, once found -/
  cell : Option Nat := none
  released : Bool := false
  counts : MxCounts := {}
  hist : Bank Nat := []
  /-- outputs for the accumulator buffer: word index and value -/
  accOut : List (Nat × Nat × Word) := []
  accUnits : List Nat := []
  latch : RecLatch := {}
  spec : Bool := false
  /-- its task has been discarded: what it writes to the cluster store has no effect -/
  void : Bool := false
  issue : Nat := 0
  /-- die cycle of the last change of stage -/
  since : Nat := 0
  /-- the lane accumulators that it has changed, with their values before -/
  undo : List (Nat × Word) := []
  /-- the row slots that it has loaded, with their elements and scales before -/
  undoRows : List (Nat × Nat × Option Nat) := []
  /-- die cycle since which a hazard of Table 5.10 holds it at the head -/
  hazSince : Option Nat := none
deriving DecidableEq, Repr

structure Core where
  /-- the launch whose kernel runs on the core -/
  kernel : Option Nat := none
  lastCtx : Option Nat := none
  kStart : Nat := 0
  mrec : Bool := false
  /-- row slot `16 · lane + slot` ↦ its 256 bytes as a little-endian number -/
  rows : Bank Nat := []
  /-- block scales of the 64 elements of a row slot, if it was loaded with scales -/
  rowScale : Bank Nat := []
  lacc : Bank Word := []
  rb : Bank Word := []
  cell0 : WeightCell := {}
  cell1 : WeightCell := {}
  lost : List LostTile := []
  queue : List MxCmd := []
  claims : Nat := 0
  issued : Nat := 0
  /-- L0 data cache: sector key ↦ bytes, oldest first -/
  l0d : List (Nat × Bytes) := []
  /-- L0 instruction cache: addresses of the sectors held -/
  l0i : List Nat := []
deriving DecidableEq, Repr

/-! ### 07, 08 Thread groups, speculation -/

/-- Why a group does not issue. -/
inductive GStatus where
  | running
  | mxStall | mxWait (t : Nat) | dmaStall | dmaWait (t : Nat) | barrier (cluster : Bool) | fence | remote | exiting
  | merge
  | parked
deriving DecidableEq, Repr

/-- A fault found for a group: cause, detail, address, lanes. -/
structure FaultInfo where
  cause : BitVec 8
  detail : BitVec 32 := 0
  addr : BitVec 64 := 0
  lanes : BitVec 32 := 0
  async : Bool := false
deriving DecidableEq, Repr

/-- A fault record, Table 7.8. -/
structure FaultRec where
  info : FaultInfo
  seq : BitVec 16
  time : BitVec 64
  pace : BitVec 64
  active : BitVec 32
  pc : BitVec 48
  layer : BitVec 16
  op : BitVec 16
  ctx : Nat
  gid : Nat
  mdepth : Nat
  mxCount : Nat
  instr : BitVec 64
deriving DecidableEq, Repr

/-- The self-wait detector, R240. -/
structure SelfWait where
  armed : Bool := false
  /-- die cycles at arming, held while parked -/
  start : Nat := 0
  loop : Option (BitVec 48) := none
  since : Nat := 0
  addr : BitVec 32 := 0
deriving DecidableEq, Repr

/-- A fence in progress. -/
structure Fence where
  kind : Nat
  scope : Nat
  epoch : Option Nat := none
deriving DecidableEq, Repr

/-- One thread group, Table 7.1. -/
structure Group where
  launch : Nat := 0
  ctx : Nat := 0
  gindex : Nat := 0
  nreg : Nat := 8
  regs : Bank Word := []
  preds : Bank Word := []
  uregs : Bank Word := []
  live : Word := 0
  active : Word := 0
  stack : List (Word × Word) := []
  mxTok : Bank Nat := []
  dmaTok : Bank Nat := []
  latch : BitVec 64 := 0
  pc : BitVec 48 := 0
  status : GStatus := .running
  removed : List (Nat × Nat) := []
  /-- asynchronous faults found and not yet recorded, oldest first -/
  async : List FaultInfo := []
  record : Option FaultRec := none
  /-- the mode of a replay that has been accepted and has not acted, and its command -/
  replay : Option (Nat × CmdRef) := none
  selfWait : SelfWait := {}
  fence : Option Fence := none
  instr : BitVec 64 := 0
  spec : Bool := false
  /-- sectors that the instruction at PC has obtained while it waits for others (R302, R309) -/
  got : List Nat := []
  /-- the lock words on remote nodes that the REL.G at PC has read: lane and value (R239) -/
  locks : Option (List (Nat × Nat)) := none
  /-- the remote operations of the ATOM that waits for its answers: lane, operand and new value (R240) -/
  atoms : List (Nat × Nat × Nat) := []
deriving DecidableEq, Repr

/-- A speculation condition, Table 8.8. -/
structure SpecCond where
  kind : Nat
  tag : BitVec 16
  object : BitVec 32
  value : BitVec 64
  /-- virtual interface of the task -/
  v : Nat := 0
deriving DecidableEq, Repr

/-- A shadow entry, Table 8.9. -/
structure ShadowEntry where
  global : Bool
  block : Nat
  bytes : Bank Byte
deriving DecidableEq, Repr

/-- A DMA descriptor slot (R303). -/
structure DmaSlot where
  desc : BitVec 512
  gid : Nat
  token : Nat
  /-- how far the transfer is: bytes moved, or rows of transposed tiles -/
  progress : Nat := 0
  /-- remote source pieces of the sector in hand that have arrived; requests without an answer -/
  fetched : Bank Bytes := []
  pendingReq : Nat := 0
  /-- the requests in flight are writes -/
  writing : Bool := false
  /-- sectors that the step in hand has obtained while it waits for others -/
  got : List Nat := []
  suspended : Bool := false
  /-- it has ended, and its slot is kept until every transfer of its group has (R242) -/
  finished : Bool := false
  /-- its task has been discarded: what it writes has no effect -/
  void : Bool := false
  /-- every write has been issued -/
  written : Bool := false
  launch : Nat := 0
  ctx : Nat := 0
  spec : Bool := false
deriving DecidableEq, Repr

/-- What a miss-tracking entry was taken for (R302): an instruction of a group, a transfer in a descriptor slot, the
prefetch engine, or a request that MISS_ENTRY_ALLOC names by its pseudo-channel alone. -/
inductive MissOwner where
  | group (gk : Nat)
  | dma (slot : Nat)
  | prefetch
  | other
deriving DecidableEq, Repr

/-- Where a request in a miss-tracking entry stands: it waits for its bucket (R309), has been charged, or is on its way. -/
inductive MissStage where
  | waiting | charged | sent
deriving DecidableEq, Repr

/-- A miss-tracking entry of a cluster, R302: sector key, device physical address, pseudo-channel; `queued`: its request has
entered the pseudo-channel queue. -/
structure MissEntry where
  owner : MissOwner
  sector : Nat := 0
  addr : Nat := 0
  p : Nat
  v : Nat := 0
  stage : MissStage := .sent
  queued : Bool := false
deriving DecidableEq, Repr

/-- A stream tracker of the prefetch engine, R308. -/
structure Tracker where
  last : Nat := 0
  stride : Int := 0
  misses : Nat := 0
deriving DecidableEq, Repr

structure Cluster where
  ctx : Option Nat := none
  /-- the condition whose speculative tasks the cluster runs -/
  cond : Option SpecCond := none
  merging : Bool := false
  /-- outcome of a resolved condition not yet reported: true committed -/
  shadow : List ShadowEntry := []
  cleared : Bool := false
  acc : Bank Word := []
  /-- accumulator units (256 bytes) marked final, units held for a verdict -/
  final : List Nat := []
  held : List Nat := []
  tie : Bank (Nat × Nat) := []
  cache : List (Nat × Bytes) := []
  dma : Bank DmaSlot := []
  trackers : Bank Tracker := []
  /-- the prefetch table: sectors prefetched and not yet classified, oldest first -/
  prefetched : List Nat := []
  /-- miss-tracking entries in use, at most 128, the oldest first -/
  miss : List MissEntry := []
  /-- sectors that a merge has obtained while it waits for others -/
  got : List Nat := []
  /-- requests that wait for a miss-tracking entry: whose they are, and the cycle since which they wait (R302) -/
  waits : List (MissOwner × Nat) := []
deriving DecidableEq, Repr

/-- The tag that an atomic leaves on a word, R240: group key and lane. -/
structure WordTag where
  gid : Nat
  lane : Nat
deriving DecidableEq, Repr

/-! ### 09 Memory tiers -/

/-- A pseudo-channel: transfers in trouble, window, hold queue. -/
structure Pchan where
  /-- transfer, by its key, ↦ retries that it has failed (R293) -/
  retries : Bank Nat := []
  /-- transfers that have escalated and have not been tried again behind their window -/
  escalated : List Nat := []
  window : Option RetrainCause := none
  /-- the hold queue, in arrival order -/
  held : List Head := []
  failed : Bool := false
  /-- the Cask record of R301 has been written for it -/
  noSpare : Bool := false
  scrubErrors : Nat := 0
  /-- its corrected errors have passed CE_LIMIT in this scrub pass, so that R295 selects it -/
  selected : Bool := false
  /-- time and stack temperature, in thousandths of a degree, of the last training since that of the start-up (R297) -/
  trained : Option (Nat × Int) := none
deriving DecidableEq, Repr

/-- The migration of a stack, object 40.060. -/
structure Migration where
  source : Nat
  target : Nat
  copied : Nat := 0
  poisoned : Nat := 0
  switching : Bool := false
deriving DecidableEq, Repr

/-- A slow-tier package, R314. -/
structure LpPackage where
  /-- transfer ↦ retries that it has failed -/
  attempts : Bank Nat := []
  retraining : Bool := false
  escalatedAt : Option Nat := none
  failed : Bool := false
deriving DecidableEq, Repr

/-- The settings of the token buckets of a virtual interface: RATE, DEPTH, EVAL_RATE (R309). -/
structure BucketSet where
  rate : Nat
  depth : Nat
  evalRate : Nat
deriving DecidableEq, Repr

/-- A line of a shared-cache slice (R286): the sector by its key, whether it is a copy of a sector homed on another die,
whether it must be written back, and the virtual interface of its last writer (64: none). DESIGN CHOICE: its bytes are those
of the coherence order, which `Memory.hbm` and `Memory.host` hold (log entry 27). -/
structure SliceLine where
  sector : Nat
  copy : Bool := false
  dirty : Bool := false
  writer : Nat := 64
deriving DecidableEq, Repr

structure Memory where
  /-- fast tier by device physical address -/
  hbm : List Host.Cell := []
  /-- cluster stores: cluster * 2^22 + offset -/
  store : List Host.Cell := []
  /-- host memory that rings, page lists and host objects lie in -/
  host : List Host.Cell := []
  poison : List Nat := []
  /-- sets of the shared-cache slices under (16 · die + slice) · 1,536 + set: at most 16 lines, the one used least
  recently at the front -/
  slices : Bank (List SliceLine) := []
  tags : Bank WordTag := []
  pchan : Bank Pchan := []
  migration : Bank Migration := []
  /-- stack ↦ windows of R297 that have fallen due and wait, oldest first -/
  due : Bank (List (Nat × RetrainCause)) := []
  lp : Bank LpPackage := []
  /-- bucket of v on die d under 8·v + d: level less DEPTH, in 1/625 byte; an unlisted bucket is full -/
  bucket : Bank Int := []
  /-- virtual interface ↦ the settings of its buckets that a write replaces at the next reference cycle (R309) -/
  bucketOld : Bank BucketSet := []
  /-- what the next read of a sector of the fast tier finds in its array, for accesses whose command carries no outcome of
  their reads (R292, R294) -/
  latent : Bank EccResult := []
  /-- time and stack temperatures of the training of the start-up (R297) -/
  startTrained : Nat := 0
  startMc : Bank Int := []
deriving DecidableEq, Repr

/-! ### 10 Kilns and steps -/

/-- A latched step-size table entry, Table 10.3. -/
structure GroupEntry where
  eta : Word
  lambda : Word
  clip : Word
  wcScale : Word
  wcFmt : BitVec 8
  gradFmt : BitVec 8
  wcBlock : Nat
  wcDir : Bool
  wcEn : Bool
  rule : Nat
  export_ : Bool
  frozen : Bool
  invalid : Bool
  decay : Word
deriving DecidableEq, Repr

/-- An update map entry, Table 10.5. -/
structure MapEntry where
  tileId : BitVec 32
  master : Nat
  gristA : Nat
  scaleA : Nat
  exportA : Nat
  partN0 : Nat
  parts : Nat
  scFirst : Nat
deriving DecidableEq, Repr

structure UpdMap where
  entries : List MapEntry
  /-- it has not started; and it was loaded while this step was open and not started, so that it starts with a later one
  (R327) -/
  waits : Bool := false
  skip : Option (BitVec 32) := none
  unload : Bool := false
  /-- the memory objects that it names (Table 12.6) -/
  objs : List Nat := []
deriving DecidableEq, Repr

/-- A gradient tile in a Kiln. -/
structure KilnTile where
  ctx : Nat
  step : BitVec 32
  slot : Slot
  /-- passed the checks of steps 1 to 4 of R329 -/
  checked : Bool := false
  /-- its group is frozen: only its working copy is carried over -/
  frozen : Bool := false
  /-- direction of KILN_APPLY in place of the gradient -/
  applied : Bool := false
deriving DecidableEq, Repr

/-- A working-copy part that waits for its buffer, R335. -/
structure WcJob where
  ctx : Nat
  tileId : BitVec 32
  gen : BitVec 16
  gristA : Nat
  frozen : Bool
  counted : Bool := false
  step : BitVec 32
deriving DecidableEq, Repr

/-- The latched tables of a step: key context * 4096 + logical group. -/
structure LatchedTable where
  step : BitVec 32
  entries : Bank GroupEntry
deriving DecidableEq, Repr

structure Kiln where
  input : List KilnTile := []
  park : List KilnTile := []
  tables : List LatchedTable := []
  /-- blocks whose ACTIVE copy is B; blocks with PENDING set -/
  activeB : List Nat := []
  pending : List Nat := []
  /-- the blocks whose PENDING a SPAN_BROKEN cleared (R133) -/
  undone : List Nat := []
  /-- masters: (copy * 21,635,072 + block) * 1,024 + element; unlisted masters are undefined (R320) -/
  masters : Bank Word := []
  /-- working-copy parts written: tile buffer ↦ (generation, gradient tiles) -/
  parts : Bank (BitVec 16 × List (BitVec 32)) := []
  /-- last generation reported to the injector for a buffer (GRIST_A + parity) -/
  reported : Bank (BitVec 16) := []
  /-- buffers whose report belongs to a step that has failed -/
  failed : List Nat := []
  jobs : List WcJob := []
  /-- tiles exported and not yet applied: step, context, tile -/
  exported : List (BitVec 32 × Nat × BitVec 32) := []
  /-- parts of scale tiles written, as `parts` -/
  scaleParts : Bank (BitVec 16 × List (BitVec 32)) := []
  /-- stripes in the write buffers: stripe ↦ data positions filled, with what the slow tier still holds there -/
  stripes : Bank (Bank (BitVec 2048)) := []
  /-- stripes that are written although they are not whole -/
  flush : List Nat := []
  /-- parity units by stripe, and the CRCs of the metadata area by unit (R311) -/
  parity : Bank (BitVec 2048) := []
  crcs : Bank (BitVec 32) := []
  /-- units whose content is lost with their stripe (R312); every unit is once two packages of the pair have failed, except
  those written since (R314) -/
  lostUnits : List Nat := []
  allLost : Bool := false
  restored : List Nat := []
  /-- rewrites asked by injectors: injector, slot -/
  rewrites : List (Nat × Nat) := []
deriving DecidableEq, Repr

/-- A live step. -/
structure LiveStep where
  step : BitVec 32
  gen : BitVec 16
  startRev : Option Nat := none
  participants : List Nat := []
  collecting : Bool := false
  poisoned : Bool := false
  sharedLost : Bool := false
  aborted : Bool := false
  /-- closed by STEP_CLOSE; the step opened last stays in `open_` until the next one opens -/
  shut : Bool := false
  abortPending : List CmdRef := []
deriving DecidableEq, Repr

/-- A submitted STEP_OPEN that waits. -/
structure OpenReq where
  ctx : Nat
  step : BitVec 32
  table : Nat
  count : Nat
  cmd : CmdRef
deriving DecidableEq, Repr

/-- What a member counts for a step (R194, Table 4.9). -/
structure StepCounts where
  sat : Nat := 0
  nan : Nat := 0
  nonfinite : Nat := 0
deriving DecidableEq, Repr

structure Steps where
  /-- counts by step number, and those of tasks speculative on the step before (R195, R196) -/
  counts : Bank StepCounts := []
  specCounts : Bank StepCounts := []
  next : Option (BitVec 32) := none
  open_ : Option LiveStep := none
  closed : Option LiveStep := none
  /-- the step with a final verdict whose decision has not taken effect -/
  deciding : Option LiveStep := none
  lastFinal : Option (BitVec 32 × Nat × Nat) := none
  /-- last step committed; the last step that SPAN_BROKEN discarded and whether its update was complete (R133) -/
  lastCommitted : BitVec 32 := 0xFFFFFFFF
  brokenStep : Option (BitVec 32 × Bool) := none
  gen : BitVec 16 := 0
  reqs : List OpenReq := []
  participants : List Nat := []
  evalWindow : Bool := false
  evalReq : List CmdRef := []
  evalStart : Option Nat := none
  commitWait : List (BitVec 32 × CmdRef) := []
  /-- KILN_APPLY commands with the context and the tiles whose updates are not yet written -/
  applyWait : List (CmdRef × Nat × List (BitVec 32)) := []
  /-- KILN_WRITE commands whose wait for a working-copy buffer has been counted -/
  writeWait : List CmdRef := []
  /-- the participants of a step as its first STEP_OPEN was submitted (R341) -/
  submitted : Bank (List Nat) := []
deriving DecidableEq, Repr

/-! ### 11 Fabric -/

structure KeyEntry where
  key : BitVec 64
  cls : BitVec 2
  valid : Bool
deriving DecidableEq, Repr

structure Window where
  key : BitVec 64
  base : Nat
  size : Nat
  ctx : Nat
  v : Nat
  permA : Bool
  permW : Bool
  permR : Bool
  valid : Bool := true
  /-- the REGION_CLOSE that waits for a set whose parts are still coming -/
  closing : Option CmdRef := none
  /-- the memory objects that it covers (R364) -/
  objs : List Nat := []
deriving DecidableEq, Repr

/-- What a destination keeps of a source, R376: its incarnation, the last SEQ performed by class, a partial set. -/
structure SourceState where
  incarn : BitVec 8
  seq : Bank (BitVec 16) := []
  /-- class ↦ EPOCH of the request that `seq` names -/
  epoch : Bank (BitVec 8) := []
  parts : List Packet := []
deriving DecidableEq, Repr

/-- A request of this module without its answer. -/
structure Outstanding where
  dst : BitVec 14
  cls : BitVec 2
  seq : BitVec 16
  epoch : Nat
  type : BitVec 8
  window : Nat
  ctx : Nat := 0
  /-- the group that issued it, none once that group has ended; the cookie of its launch -/
  gid : Option Nat := none
  cookie : BitVec 32 := 0
  /-- a read or atomic: register, lanes, bytes of each lane, offset in the response -/
  dest : List (Nat × Nat × Nat × Nat) := []
  dma : Option (Nat × Nat) := none
  pkt : Packet
  /-- the compute die that issued it, the beat of that moment, and its number at the egress arbiter -/
  die : Nat := 0
  since : Nat := 0
  id : Nat := 0
  /-- a cumulative WRITE_ACK has acknowledged it, its response is still to come (R380) -/
  acked : Bool := false
deriving DecidableEq, Repr

/-- A packet at a router: as it stands, the virtual channel that it came in on, and the direction that it keeps in a
dimension while DETOUR is set (R375, R377). -/
structure Moving where
  pkt : Packet
  vcIn : BitVec 3 := 0
  dir : Option (Nat × Bool) := none
  /-- times that the port has sent the frame again (R372) -/
  resent : Nat := 0
deriving DecidableEq, Repr

structure Port where
  /-- 50.031: 0 down, 1 training, 2 up, 3 up with a spared lane, 4 failed -/
  state : Nat := 0
  txSeq : BitVec 12 := 0
  replay : List Moving := []
  rxSeq : BitVec 12 := 0
  nakSent : Bool := false
  /-- LSEQ of the last LINK_ACK block sent, and the units returned in CREDIT blocks by virtual channel -/
  ackSent : Option (BitVec 12) := none
  returned : Bank Nat := []
  /-- link credits of a virtual channel in units of 32 bytes, counted from the port's coming up -/
  credits : Bank Int := []
deriving DecidableEq, Repr

structure Fabric where
  ports : Bank Port := []
  windows : Bank Window := []
  sources : Bank SourceState := []
  /-- flow (dst * 4 + class) ↦ next SEQ -/
  nextSeq : Bank (BitVec 16) := []
  outstanding : List Outstanding := []
  waiting : List Outstanding := []
  /-- credits held for a destination node, and granted to a source node; 1 unless listed -/
  credits : Bank Nat := []
  granted : Bank Nat := []
  /-- packets of flows whose port changed, waiting for the old port's acknowledgements (R375) -/
  delayed : List Moving := []
  epoch : Nat := 0
  /-- a request was sent in the current epoch -/
  epochUsed : Bool := false
  /-- the number of the next request at the egress -/
  nextId : Nat := 0
  openEpochs : List Nat := []
  sent : List Packet := []
  /-- Cask rate limit of refusals: (source, window) ↦ time -/
  refusedAt : List (Nat × Nat × Nat) := []
deriving DecidableEq, Repr

/-! ### 12 Host interface -/

structure Event where
  cookie : BitVec 32
  status : BitVec 32
  queue : BitVec 14
  type : BitVec 8
  detail : BitVec 39
deriving DecidableEq, Repr

/-- A ring of the host: base address, entries, consumed, written. -/
structure Ring where
  base : Nat := 0
  size : Nat := 0
  head : Nat := 0
  written : Nat := 0
  armed : Bool := false
deriving DecidableEq, Repr

structure Ctx where
  layout : Word := 0
  pt : Nat := 0
  evt : Ring := {}
  flt : Ring := {}
  ntc : Ring := {}
  vector : Nat := 0
  heldEvents : List Event := []
  /-- the event ring is full and the stop of the queues has been counted (R415) -/
  evtStopped : Bool := false
  faultSeq : BitVec 16 := 0
  hostRef : Bool := true
  destroyCookie : Option (BitVec 32) := none
  keys : Bank KeyEntry := []
  conv : Option ConvProg := none
  nextConv : Option ConvProg := none
  ret : Option RetProg := none
  nextRet : Option RetProg := none
  upd : Option UpdMap := none
  nextUpd : Option UpdMap := none
  /-- CONVEYOR_UNLOAD commands that complete at the next revolution boundary -/
  unloadCmds : List CmdRef := []
  /-- index ↦ generation of a released memory object -/
  objGen : Bank (BitVec 8) := []
  /-- events of Tables 3.11 (0 to 6) and 4.12 (7 to 13) of entries of the context (R500) -/
  events : Bank Nat := []
  /-- fault records in pending-fault slots, in the order in which their groups parked (R232) -/
  faultWait : List FaultRec := []
deriving DecidableEq, Repr

/-- Where a command of a queue stands (R400, R404). -/
inductive CmdStage where
  | submitted | started | executed
deriving DecidableEq, Repr

structure Cmd where
  n : Nat
  entry : BitVec 512
  guard_ : Option (BitVec 512) := none
  stage : CmdStage := .submitted
  status : BitVec 8 := 0
  detail : BitVec 39 := 0
  /-- objects of the context, kernels and timelines it holds references on -/
  objs : List Nat := []
  kernels : List Nat := []
  timelines : List Nat := []
  /-- the effect goes on until another event completes it -/
  busy : Bool := false
  qrec : Bool := false
  latch : RecLatch := {}
  /-- of a LAUNCH whose kernel has completed: sums of its matrix commands, groups ended by ABORT, whether it was
  speculative, the step that it is attributed to (R195, R503) -/
  sums : MxCounts := {}
  aborted : Nat := 0
  spec : Bool := false
  taskStep : Option (BitVec 32) := none
deriving DecidableEq, Repr

structure Queue where
  ctx : Nat := 0
  z : Nat := 0
  priority : Nat := 0
  ring : Nat := 0
  report : Nat := 0
  tail : BitVec 32 := 0
  head : BitVec 32 := 0
  cmds : List Cmd := []
  destroying : Option CmdRef := none
  /-- engine ↦ which start of the context on that engine was the last of this queue, from 1 (R404) -/
  turns : Bank Nat := []
deriving DecidableEq, Repr

structure Timeline where
  value : BitVec 64 := 0
  hostRef : Bool := true
  refs : Nat := 0
deriving DecidableEq, Repr

structure MemObj where
  kind : Nat
  stack : Nat := 0
  big : Bool := false
  gen : BitVec 8 := 0
  pages : List Nat := []
  hostRef : Bool := true
  refs : Nat := 0
  freeCookie : Option (BitVec 32) := none
deriving DecidableEq, Repr

/-- A loaded kernel: the fields of Table 12.12 and the code's place. -/
structure Kernel where
  nreg : Nat
  scratchKib : Nat
  shadowKib : Nat
  accKib : Nat
  streams : Nat
  codeBytes : Nat
  entry : Nat
  code : Nat
  obj : Nat
  hostRef : Bool := true
  refs : Nat := 0
deriving DecidableEq, Repr

/-- A launch in progress. -/
structure Launch where
  ctx : Nat
  kernel : Nat
  groups : Nat
  lastLive : Nat
  args : List Word
  cond : Option SpecCond
  cmd : CmdRef
  cookie : BitVec 32
  layer : BitVec 16
  op : BitVec 16
  started : List Nat := []
  ended : List Nat := []
  aborted : Nat := 0
  /-- no further group starts: the launch is aborted or discarded -/
  stopped : Bool := false
  /-- none until the condition is resolved; then committed or discarded -/
  outcome : Option Bool := none
  queue : Nat := 0
  numeric : MxCounts := {}
  /-- KERNEL_ABORT commands that complete with the launch -/
  aborters : List CmdRef := []
deriving DecidableEq, Repr

/-- One direction of a mailbox channel: words with their sender, oldest first. -/
structure Host12 where
  numVfs : Nat := 0
  ctxs : Bank Ctx := []
  queues : Bank Queue := []
  timelines : Bank Timeline := []
  objects : Bank MemObj := []
  kernels : Bank Kernel := []
  launches : Bank Launch := []
  nextLaunch : Nat := 0
  /-- channel * 2 + direction (0 A-to-B, 1 B-to-A) ↦ words and senders -/
  mail : Bank (List (BitVec 32 × BitVec 8)) := []
  /-- (channel, master) with TX_OVERFLOW, with RX_UNDERFLOW set -/
  txOverflow : List (Nat × Nat) := []
  rxUnderflow : List (Nat × Nat) := []
  /-- what the last read of RX_DATA returned -/
  rxLast : BitVec 32 := 0
  /-- (function, channel) bits set in a pending bitmap -/
  mailPending : List (Nat × Nat) := []
  maltsterAwake : Bool := true
  /-- MSI-X messages sent: vector numbers in the module, oldest first -/
  msix : List Nat := []
  /-- the data of the last CXL.mem read; none = poison -/
  cxlLast : Option Bytes := none
  viral : Bool := false
  /-- host memory that a function does not reach: function, first address, bytes (R429) -/
  closed : List (Nat × Nat × Nat) := []
  /-- functions in power state D3hot (Table 12.1) -/
  d3hot : List Nat := []
  adminRing : Bank Ring := []
  adminEvent : Bank Ring := []
  adminVector : Bank Nat := []
  adminHeld : Bank (List Event) := []
deriving DecidableEq, Repr

/-- The state of the block. -/
structure State where
  pending : List Instr := []
  /-- the model's own counter: the next free value (no register of the manual) -/
  free : Nat := 0
  arb : Arbiters := {}
  clock : Clock := {}
  power : Power := {}
  pins : Pins := {}
  boot : Boot := {}
  mgmt : Mgmt := {}
  cask : Cask := {}
  health : Health := {}
  conv : Conv := {}
  wort : Wort := {}
  verdict : VerdictCtl := {}
  cores : Bank Core := []
  clusters : Bank Cluster := []
  groups : Bank Group := []
  mem : Memory := {}
  kilns : Bank Kiln := []
  steps : Steps := {}
  fab : Fabric := {}
  host : Host12 := {}
deriving DecidableEq, Repr

/-- The module as it comes out of power-on, held in reset by PERST_N (R524 to R526): every register at the value of its
table, every memory with nothing listed, no command waiting. -/
def State.reset : State :=
  { mgmt := { helper := Config.helperData, idDigest := Config.idDigest, signers := [Config.signerA, Config.signerB] } }

end Sys2Proof.Machine
end

