-- ==== Sys2Proof/Machine/Ops.lean ====
section
/-!
DEFINITION. The shared operations of the block: fields of numbers, bytes of memory, the CRC, time and Pace stamps, the
object dictionary as a bank of values, Cask postings and notices, partitions, rings, events and interrupts, memory
objects and their references. No operation here belongs to one command.
-/

namespace Sys2Proof.Machine

/-- The outcome of every command: the block goes on. -/
abbrev Out := Host.Outcome State Fault Refusal

/-! ### Numbers and bytes -/

/-- Bits lo + w - 1 : lo of `x`. -/
def fld (x lo w : Nat) : Nat := (x >>> lo) % 2 ^ w

/-- Bit `i` of `x`. -/
def bit (x i : Nat) : Bool := x.testBit i

/-- R3: the little-endian number of some bytes. -/
def leNat (bs : Bytes) : Nat := bs.foldr (fun b a => b.toNat + 256 * a) 0

/-- R3: the `k` low bytes of `x`, lowest first. -/
def leBytes (k x : Nat) : Bytes := (List.range k).map (fun i => BitVec.ofNat 8 (x >>> (8 * i)))

/-- The ASCII bytes of a text. -/
def ascii (t : String) : Bytes := t.toList.map (fun c => BitVec.ofNat 8 c.toNat)

/-- `x` with the `w` bits at `lo` replaced by `v`. -/
def setFld (x lo w v : Nat) : Nat :=
  x - (fld x lo w) * 2 ^ lo + (v % 2 ^ w) * 2 ^ lo

/-- The number whose fields are laid from bit 0 upwards, each with its width. -/
def packFields (l : List (Nat × Nat)) : Nat := l.foldr (fun p a => p.2 % 2 ^ p.1 + 2 ^ p.1 * a) 0

/-- Sum of a list. -/
def sumNat (l : List Nat) : Nat := l.foldl (· + ·) 0

/-- A count that saturates at 2^w - 1. -/
def satCount (w n : Nat) : Nat := min n (2 ^ w - 1)

/-- Replace the element at `i`. -/
def setAt {α : Type} (l : List α) (i : Nat) (a : α) : List α := l.set i a

/-- `l` with `a` listed (once). -/
def insertNat (a : Nat) (l : List Nat) : List Nat := if l.contains a then l else l ++ [a]

def eraseNat (a : Nat) (l : List Nat) : List Nat := l.filter (· ≠ a)

/-- Keep the entries that satisfy `p`. -/
def Bank.keep {α : Type} (b : Bank α) (p : Nat → Bool) : Bank α := b.filter (fun x => p x.1)

/-! ### Bytes of memory: a list of (address, byte), an unlisted byte reading 0 -/

def memGet (m : List Host.Cell) (a : Nat) : Byte := Bank.get m 0 a
def memSet (m : List Host.Cell) (a : Nat) (b : Byte) : List Host.Cell := Bank.set m 0 a b

def memRead (m : List Host.Cell) (a n : Nat) : Bytes := (List.range n).map (fun i => memGet m (a + i))

def memWrite (m : List Host.Cell) : Nat → Bytes → List Host.Cell
  | _, [] => m
  | a, b :: r => memWrite (memSet m a b) (a + 1) r

/-- Write 0 into `n` bytes from `a`. -/
def memZero (m : List Host.Cell) (a n : Nat) : List Host.Cell :=
  m.filter (fun c => !(decide (a ≤ c.1) && decide (c.1 < a + n)))

/-! ### CRC-32C, Table 3.1: polynomial 0x1EDC6F41 reflected, start and final exclusive-or 0xFFFF_FFFF -/

def crcBit (c : BitVec 32) : BitVec 32 :=
  if c.getLsbD 0 then (c >>> 1) ^^^ 0x82F63B78#32 else c >>> 1

def crcByte (c : BitVec 32) (b : Byte) : BitVec 32 :=
  crcBit (crcBit (crcBit (crcBit (crcBit (crcBit (crcBit (crcBit (c ^^^ b.setWidth 32))))))))

def crc32c (bs : Bytes) : BitVec 32 := bs.foldl crcByte 0xFFFFFFFF#32 ^^^ 0xFFFFFFFF#32

/-! ### The header of a slot (R52, Table 3.1) -/

/-- Header bits 479:0. -/
def slotHeader (x : Slot) : Nat :=
  packFields [(8, x.kind.toNat), (8, x.format.toNat), (1, if x.orient then 1 else 0), (1, if x.poison then 1 else 0),
    (1, if x.shared then 1 else 0), (13, 0), (32, x.tileId.toNat), (16, x.gen.toNat), (6, x.owner.toNat), (10, 0),
    (64, x.bitmap.toNat), (12, x.pgroup.toNat), (12, x.revLeft.toNat), (16, x.stnCount.toNat), (280, 0)]

/-- CRC, header bits 511:480: CRC-32C over header bits 479:0 and the 4,096-byte payload, the least significant byte
first. -/
def slotCrc (x : Slot) : BitVec 32 :=
  crc32c (leBytes 60 (slotHeader x) ++ x.payload ++ List.replicate (4096 - x.payload.length) 0)

/-- A slot that has come in with a CRC field: it fails from then on where that is not the CRC of its bits. -/
def slotWithCrc (x : Slot) (crc : BitVec 32) : Slot := { x with bad := crc != slotCrc x }

/-! ### Time and Pace (R492 to R494, R51) -/

/-- R492, R493: the timestamp. -/
def State.now (s : State) : Nat := 32 * s.clock.refCycles / 5 + s.clock.oscNs + s.clock.stepNs

/-- Slots of a revolution (R48, R88): 1,280, and 1,200·N in span mode. -/
def SpanCfg.slots (c : SpanCfg) : Nat := if c.n = 1 then 1280 else 1200 * c.n

/-- Slot position of the Pace. -/
def Conv.slotPos (c : Conv) : Nat := c.acc / 20800

/-- The Pace stamp of R494: revolution in bits 63:16, slot in bits 15:0; 0:0 before the first Pace lock, the last value
while a span forms anew. DESIGN CHOICE:
in a span of 55 or more members, where R90 lets the position pass 65,535, its low 16 bits are kept (log entry 109). -/
def State.pace (s : State) : Nat :=
  if s.conv.locked then s.conv.rev % 2 ^ 48 * 65536 + s.conv.slotPos % 65536 else s.conv.heldPace

/-! ### The dictionary as a bank of values (R436) -/

/-- The key of element `i` of an object. -/
def okey (obj i : Nat) : Nat := obj * 65536 + i

/-- The channel map that start-up sets when no channel failed (R291): logical channel c to position c, spares 62, 63. -/
def identityMap : Nat := leNat ((List.range 64).map (BitVec.ofNat 8))

/-- The binding of R418: end A 0x40, end B c div 4. -/
def defaultBind : Nat :=
  leNat ((List.range 256).flatMap (fun c => [0x40#8, BitVec.ofNat 8 (c / 4)]))

/-- The default of an object, Tables 13.8 to 13.13. -/
def objDefault (obj i : Nat) : Nat :=
  match obj with
  | 0x00000 => leNat (ascii "Pearalan")
  | 0x00001 => leNat (ascii "VT8-M4700")
  | 0x00002 => if Config.steppingB1 then 0xB1 else 0xB0
  | 0x00003 => Config.serial.toNat
  | 0x00004 => Config.macAddr.toNat
  | 0x00006 => 128
  | 0x00007 => 8
  | 0x00020 => 1
  | 0x00021 => 32
  | 0x00023 => 0xFFFF
  | 0x00024 => 0xF
  | 0x00032 => Config.idCert.toNat
  | 0x10010 => 42000
  | 0x10011 => 38000
  | 0x10012 => 44000
  | 0x10013 => 1000
  | 0x10020 => 4700
  | 0x10021 => 5400
  | 0x10022 => 5
  | 0x20020 => 45000
  | 0x20021 => 6000
  | 0x30001 => 0x1_0000_0000
  | 0x30019 => 2 ^ 4096 - 1
  | 0x40001 => 9600
  | 0x40002 => 9600
  | 0x40010 => 64
  | 0x40020 => identityMap
  | 0x40030 => 0x21
  | 0x40040 => 12
  | 0x40041 => 4096
  | 0x40042 => 60
  | 0x40043 => 10
  | 0x40051 => 1024
  | 0x50030 => 1 <<< 56
  | 0x60010 => if i = 0 then 2 ^ 128 - 1 else 0
  | 0x60011 => if i = 0 then 992 * 2 ^ 30 else 0
  | 0x60012 => if i = 0 then 2048 else 0
  | 0x60013 => if i = 0 then 4096 else 0
  | 0x60014 => if i = 0 then 16384 else 0
  | 0x60015 => if i = 0 then 65536 else 0
  | 0x60020 => defaultBind
  | 0x80001 => 131072
  | 0xA0005 => if Config.steppingB1 then 0x0001_0100 else 0x0001_0000
  | _ => 0

/-- The value that the bank holds for element `i` of an object. -/
def State.obj (s : State) (o i : Nat) : Nat := s.mgmt.dict.get (objDefault o i) (okey o i)

def State.setObj (s : State) (o i v : Nat) : State :=
  { s with mgmt.dict := s.mgmt.dict.set (objDefault o i) (okey o i) v }

/-- A U64 counter of the dictionary rises by `n`. -/
def State.bumpBy (s : State) (o i n : Nat) : State := s.setObj o i ((s.obj o i + n) % 2 ^ 64)

def State.bump (s : State) (o i : Nat) : State := s.bumpBy o i 1

/-! ### Notices and Cask postings (R435, R485, R486) -/

/-- The module's own address on the management port (R423). -/
def State.portAddress (s : State) : Nat := 0x8000 + s.obj 0x00020 0

/-- The MAC address that a frame to an address of the management port carries. -/
def macFor (a : BitVec 16) : BitVec 48 := if a = 0xFFFF then 0xFFFFFFFFFFFF else Config.macOf a

/-- R426: one message in a frame, padded to the minimum frame size, goes out on the management port. -/
def State.sendFrame (s : State) (dst : BitVec 48) (bs : Bytes) : State :=
  { s with mgmt.frames := s.mgmt.frames ++
      [{ dst := dst, src := Config.macAddr, ether := 0x88B5, payload := bs ++ List.replicate (46 - bs.length) 0 }] }

/-- A NOTICE as a message: KIND 7 and 24 bytes of data (R435). -/
def State.noticeMessage (s : State) (n : Notice) : Bytes :=
  leBytes 48 (packFields [(16, 0x4E4C), (8, 1), (8, 7), (8, 0), (8, 0), (16, n.dst.toNat), (16, s.portAddress),
    (16, (Config.noticeSeq s.mgmt.notices.length).toNat), (8, 0), (8, 24), (32, 0)])
    ++ leBytes 24 (packFields [(16, n.code.toNat), (16, 0), (32, n.object.toNat), (64, n.time), (64, n.pace.toNat)])

/-- R435: a NOTICE to an address, at most 10 in a second, the excess counted in 00.104. -/
def State.noticeTo (s : State) (dst : BitVec 16) (code object : Nat) : State :=
  if 10 ≤ (s.mgmt.notices.filter (fun n => decide (s.now < n.time + 1000000000))).length then s.bump 0x00104 0
  else
    let n : Notice := ⟨dst, BitVec.ofNat 16 code, BitVec.ofNat 32 object, s.now, BitVec.ofNat 64 s.pace⟩
    let t := s.sendFrame (macFor dst) (s.noticeMessage n)
    ({ t with mgmt.notices := t.mgmt.notices ++ [n] } : State).bump 0x00101 0

/-- A NOTICE to 00.023. -/
def State.notice (s : State) (code object : Nat) : State := s.noticeTo (BitVec.ofNat 16 (s.obj 0x00023 0)) code object

/-- The severity of a record type, Table 14.7. -/
def caskSeverity (t : Nat) : Nat :=
  if [0x0001, 0x0102, 0x0202, 0x0302, 0x0404, 0x0603, 0x0804].contains t then 0
  else if [0x0003, 0x0101, 0x0201, 0x0306, 0x0401, 0x0403, 0x0502, 0x0601, 0x0801, 0x0802, 0x0901, 0x0902].contains t
    then 1
  else if [0x0301, 0x0303, 0x0305, 0x0402, 0x0407, 0x0501, 0x0503, 0x0701, 0x0903, 0x0904, 0x0905].contains t then 2
  else 3

/-- The types marked C in Table 14.7. -/
def caskCoalesced (t : Nat) : Bool :=
  [0x0201, 0x0202, 0x0301, 0x0303, 0x0402, 0x0501, 0x0503, 0x0804].contains t

/-- R484: a source of kind `k`. -/
def source (k n : Nat) : Nat := k * 2 ^ 28 + n

/-- A posting that is refused is counted in DROPPED of the next committed record. -/
def State.caskRefuse (s : State) : State := { s with cask.dropped := s.cask.dropped + 1 }

/-- A record enters the posting queue (R486), refused while the queue is full, after a failed commit (R488) and during
the power-loss sequence (R480); severities 2 and 3 send NOTICE code 6. -/
def State.caskEnter (s : State) (t src : Nat) (payload : Bytes) (flags suppressed : Nat) : State :=
  if s.obj 0x80000 0 = 2 || s.power.onHoldUp || 256 ≤ s.cask.queue.length then s.caskRefuse
  else
    let s' := { s with cask.queue := s.cask.queue ++
      [{ type := BitVec.ofNat 16 t, severity := BitVec.ofNat 8 (caskSeverity t), source := BitVec.ofNat 32 src,
         payload := payload, time := BitVec.ofNat 64 s.now, pace := BitVec.ofNat 64 s.pace,
         boot := BitVec.ofNat 32 (s.obj 0x00010 0), flags := BitVec.ofNat 8 flags,
         suppressed := BitVec.ofNat 32 suppressed }] }
    if 2 ≤ caskSeverity t then s'.notice 6 0 else s'

/-- The coalescing pair of a type and source. -/
def Cask.pairIdx (c : Cask) (t src : Nat) : Option Nat :=
  c.pairs.findIdx? (fun p => p.type.toNat = t && p.source.toNat = src)

/-- The time of the last committed record of a type and source. -/
def Cask.lastOf (c : Cask) (t src : Nat) : Option Nat :=
  (c.lastPost.find? (fun p => p.1.toNat = t && p.2.1.toNat = src)).map (fun p => p.2.2)

/-- R485, R486: an occurrence is posted, or counted in the coalescing table. -/
def State.caskPost (s : State) (t src : Nat) (payload : Bytes) (flags : Nat := 0) : State :=
  match s.cask.lastOf t src with
  | some t0 =>
    if caskCoalesced t && s.now < t0 + 1000000000 then
      match s.cask.pairIdx t src with
      | some i =>
        let f : Coalesced → Coalesced := fun p => { p with count := p.count + 1, payload := payload }
        { s with cask.pairs := s.cask.pairs.modify i f }
      | none =>
        if 64 ≤ s.cask.pairs.length then s.caskEnter t src payload flags 0
        else { s with cask.pairs := s.cask.pairs ++
          [{ type := BitVec.ofNat 16 t, source := BitVec.ofNat 32 src, start := t0, count := 1, payload := payload,
             severity := BitVec.ofNat 8 (caskSeverity t) }] }
    else s.caskEnter t src payload flags 0
  | none => s.caskEnter t src payload flags 0

/-! ### Partitions (R391, R464) -/

/-- The eight physical clusters that the sparing table attaches to a station, in ascending position. -/
def State.stationClusters (s : State) (st : Nat) : List Nat :=
  (s.health.sparing.find? st).getD ((List.range 8).map (fun i => 136 * (st / 16) + 8 * (st % 16) + i))

/-- The stations of a virtual interface in ascending physical number. -/
def State.stationsOf (s : State) (v : Nat) : List Nat :=
  (List.range 128).filter (fun st => bit (s.obj 0x60010 v) st)

/-- The virtual interface that owns a station. -/
def State.viOfStation (s : State) (st : Nat) : Option Nat :=
  (List.range 64).find? (fun v => bit (s.obj 0x60010 v) st)

/-- The positions of a die that are attached to a station. -/
def State.attachedOf (s : State) (d : Nat) : List Nat :=
  (List.range 16).flatMap (fun i => s.stationClusters (16 * d + i))

/-- The spares of a die, in ascending position. -/
def State.sparesOf (s : State) (d : Nat) : List Nat :=
  let used := s.attachedOf d
  (List.range 136).map (fun i => 136 * d + i) |>.filter (fun cl =>
    !used.contains cl && !s.health.repair.clusters.contains cl && !s.health.failedTest.contains cl
      && !s.health.absent.contains cl && !s.health.pendingRetire.contains cl)

/-- 00.007: the unused spares of a die. -/
def State.noteSpares (s : State) (d : Nat) : State := s.setObj 0x00007 d (s.sparesOf d).length

/-- The pseudo-channels of a lost compute die went with its stacks (R477): nothing that asks them is answered. -/
def State.stackLost (s : State) (p : Nat) : Bool :=
  s.health.lost.any (fun u => match u with
    | .die d => d.val == p / 128
    | _ => false)

/-- A Kiln is lost (R477). -/
def State.kilnLost (s : State) (k : Nat) : Bool :=
  s.health.lost.any (fun u => match u with
    | .kiln q => q.val == k
    | _ => false)

/-- The station that a physical cluster is attached to. -/
def State.stationOf (s : State) (cl : Nat) : Option Nat :=
  (List.range 128).find? (fun st => (s.stationClusters st).contains cl)

/-- Physical cluster of logical cluster `i` of a virtual interface. -/
def State.clusterOf (s : State) (v i : Nat) : Option Nat :=
  match (s.stationsOf v)[i / 8]? with
  | some st => (s.stationClusters st)[i % 8]?
  | none => none

/-- C = 8 × stations. -/
def State.clusterCount (s : State) (v : Nat) : Nat := 8 * (s.stationsOf v).length

def ctxKey (v c : Nat) : Nat := v * 4096 + c
def ctxVi (k : Nat) : Nat := k / 4096

def State.ctx? (s : State) (k : Nat) : Option Ctx := s.host.ctxs.find? k
def State.putCtx (s : State) (k : Nat) (c : Ctx) : State := { s with host.ctxs := s.host.ctxs.put k c }

/-- Change a context that exists. -/
def State.onCtx (s : State) (k : Nat) (f : Ctx → Ctx) : State :=
  match s.ctx? k with
  | some c => s.putCtx k (f c)
  | none => s

/-- Enabled virtual interfaces (60.000, R390). -/
def State.viEnabled (s : State) : Nat := 1 + s.host.numVfs

/-! ### Interrupts, rings and events (R411 to R415) -/

/-- An MSI-X message of vector `n` of function `v`. -/
def State.msi (s : State) (v n : Nat) : State :=
  { s with host.msix := s.host.msix ++ (if s.host.d3hot.contains v then [] else [fld (s.obj 0x60012 v) 16 12 + n]) }

/-- R415: full when another entry would overtake the head that the host last wrote. -/
def Ring.full (r : Ring) : Bool := r.size ≤ r.written - r.head

/-- R413: 1 in the first pass through the ring, inverted at each wrap. -/
def Ring.phase (r : Ring) : Nat := if r.size = 0 then 1 else (r.written / r.size + 1) % 2

/-- The host address of the next entry, entries of `w` bytes. -/
def Ring.next (r : Ring) (w : Nat) : Nat := r.base + w * (if r.size = 0 then 0 else r.written % r.size)

/-- The bytes of an event-ring entry, Table 12.14. -/
def Event.bytes (e : Event) (phase : Nat) : Bytes :=
  leBytes 16 (packFields [(1, phase), (39, e.detail.toNat), (8, e.type.toNat), (2, 0), (14, e.queue.toNat),
    (32, e.status.toNat), (32, e.cookie.toNat)])

/-- Bytes written at a host address. -/
def State.hostWrite (s : State) (a : Nat) (bs : Bytes) : State := { s with mem.host := memWrite s.mem.host a bs }

/-- An armed ring raises its vector and is disarmed (R415). -/
def State.ringVector (s : State) (k : Nat) (sel : Ctx → Ring) (upd : Ctx → Ring → Ctx) : State :=
  match s.ctx? k with
  | some c => if (sel c).armed then (s.putCtx k (upd c { sel c with armed := false })).msi (ctxVi k) c.vector else s
  | none => s

def mkEvent (cookie status queue type detail : Nat) : Event :=
  ⟨BitVec.ofNat 32 cookie, BitVec.ofNat 32 status, BitVec.ofNat 14 queue, BitVec.ofNat 8 type, BitVec.ofNat 39 detail⟩

/-- R415: a ring that has become full stops its queues, counted once in 60.103. -/
def State.noteStop (s : State) (k : Nat) : State :=
  match s.ctx? k with
  | some c => if c.evt.full && !c.evtStopped then (s.putCtx k { c with evtStopped := true }).bump 0x60103 (ctxVi k) else s
  | none => s

/-- Write an event that the ring of context `k` has room for. -/
def State.writeEvent (s : State) (k : Nat) (c : Ctx) (e : Event) : State :=
  let s := s.hostWrite (c.evt.next 16) (e.bytes c.evt.phase)
  let s := s.putCtx k { c with evt.written := c.evt.written + 1 }
  (s.ringVector k (·.evt) (fun c r => { c with evt := r })).noteStop k

/-- R413, R415: an event of context `k`; kept in order while the ring is full. -/
def State.event (s : State) (k : Nat) (e : Event) : State :=
  match s.ctx? k with
  | none => s
  | some c =>
    if c.heldEvents.isEmpty && !c.evt.full then s.writeEvent k c e
    else s.putCtx k { c with heldEvents := c.heldEvents ++ [e] }

/-- Events held by a full ring enter as space appears. -/
def State.drainEvents : Nat → Nat → State → State
  | 0, _, s => s
  | n + 1, k, s =>
    match s.ctx? k with
    | none => s
    | some c =>
      match c.heldEvents with
      | [] => s
      | e :: r => if c.evt.full then s else State.drainEvents n k (s.writeEvent k { c with heldEvents := r } e)

/-- The number that stands for "no queue applies" in events and records (Tables 12.14, 15.1). -/
def noQueue : Nat := 0x3FFF

/-- An event of the admin event ring of function `v`. -/
def State.adminEvent (s : State) (v : Nat) (e : Event) : State :=
  let r := s.host.adminEvent.get {} v
  if !(s.host.adminHeld.get [] v).isEmpty || r.full then
    { s with host.adminHeld := s.host.adminHeld.put v (s.host.adminHeld.get [] v ++ [e]) }
  else
    let s := s.hostWrite (r.next 16) (e.bytes r.phase)
    let s := { s with host.adminEvent := s.host.adminEvent.put v { r with written := r.written + 1, armed := false } }
    if r.armed then s.msi v (s.host.adminVector.get 0 v) else s

def State.drainAdmin : Nat → Nat → State → State
  | 0, _, s => s
  | n + 1, v, s =>
    match s.host.adminHeld.get [] v with
    | [] => s
    | e :: r =>
      if (s.host.adminEvent.get {} v).full then s
      else State.drainAdmin n v
        (State.adminEvent { s with host.adminHeld := s.host.adminHeld.set [] v [] } v e |>
          fun t => { t with host.adminHeld := t.host.adminHeld.set [] v r })

/-- The bytes of a notice, Table 12.16. -/
def noticeBytes (s : State) (type step item wide : Nat) : Bytes :=
  leBytes 64 (packFields [(8, type), (184, 0), (32, step), (32, item), (64, 0), (64, wide), (64, s.pace),
    (64, s.now)])

/-- R414: an event with its notice. DETAIL gives the notice's index, or bit 38 when the notice ring is full. -/
def State.wideEvent (s : State) (k type cookie status step item wide : Nat) : State :=
  match s.ctx? k with
  | none => s
  | some c =>
    if c.ntc.full then (s.bump 0x60104 (ctxVi k)).event k (mkEvent cookie status noQueue type (2 ^ 38))
    else
      let i := c.ntc.written % 65536
      let s := s.hostWrite (c.ntc.next 64) (noticeBytes s type step item wide)
      let s := s.putCtx k { c with ntc.written := c.ntc.written + 1 }
      (s.ringVector k (·.ntc) (fun c r => { c with ntc := r })).event k (mkEvent cookie status noQueue type i)

/-- R405: an illegal sequence is counted in 60.100[v] and recorded in 60.101[v]. -/
def State.illegal (s : State) (v cookie queue opcode reason : Nat) : State :=
  (s.bump 0x60100 v).setObj 0x60101 v
    (packFields [(32, cookie), (16, queue), (8, opcode), (8, reason), (64, s.now)])

/-! ### Memory objects and references (R394, R398, R399) -/

def objKey (k i : Nat) : Nat := k * 65536 + i

/-- Bytes of a page of the object. -/
def MemObj.pageBytes (o : MemObj) : Nat := if o.big then 2097152 else 65536

def MemObj.bytes (o : MemObj) : Nat := o.pages.length * o.pageBytes

/-- Kinds 0 and 1 hold fast-tier pages. -/
def MemObj.fast (o : MemObj) : Bool := o.kind < 2

/-- The handle of the object at `ok`: generation and index. -/
def MemObj.handle (o : MemObj) (ok : Nat) : Nat := o.gen.toNat * 65536 + ok % 65536

/-- Pages of the fast tier become zero; as a write of whole sectors this clears their marks (R294). -/
def State.clearPages (s : State) (pages : List Nat) (bytes : Nat) : State :=
  { s with mem.hbm := pages.foldl (fun m a => memZero m a bytes) s.mem.hbm,
           mem.poison := s.mem.poison.filter (fun x => !pages.any (fun a => decide (a ≤ x * 256) && decide (x * 256 < a + bytes))) }

/-- R399: release, in its order: generation, RELEASE event, pages cleared and returned. -/
def State.releaseObj (s : State) (ok : Nat) (o : MemObj) : State :=
  let k := ok / 65536
  let s := s.onCtx k (fun c => { c with objGen := c.objGen.put (ok % 65536) (o.gen + 1) })
  let s := match o.freeCookie with
    | some ck => s.event k (mkEvent ck.toNat 0 noQueue 8 (o.handle ok))
    | none => s
  let s := if o.fast then s.clearPages o.pages o.pageBytes else s
  { s with host.objects := s.host.objects.erase ok }

/-- R399: an object that takes no new device reference, since its host reference has been dropped. -/
def State.objStale (s : State) (ok : Nat) : Bool := (s.host.objects.find? ok).any (fun o => !o.hostRef)

/-- One device reference on the object. -/
def State.takeObj (s : State) (ok : Nat) : State :=
  match s.host.objects.find? ok with
  | some o => { s with host.objects := s.host.objects.put ok { o with refs := o.refs + 1 } }
  | none => s

/-- A device reference is dropped; at 0 and without the host reference the object is released. -/
def State.dropObj (s : State) (ok : Nat) : State :=
  match s.host.objects.find? ok with
  | some o =>
    if o.refs ≤ 1 && !o.hostRef then s.releaseObj ok { o with refs := 0 }
    else { s with host.objects := s.host.objects.put ok { o with refs := o.refs - 1 } }
  | none => s

/-- The host reference is dropped; without device references the object is released. -/
def State.dropObjHost (s : State) (ok : Nat) : State :=
  match s.host.objects.find? ok with
  | some o =>
    let o := { o with hostRef := false }
    if o.refs = 0 then s.releaseObj ok o else { s with host.objects := s.host.objects.put ok o }
  | none => s

/-! ### Free values -/

/-- The next free value, and the state that has used it. -/
def State.freeWord (s : State) : Word × State := (Config.freeWord s.free, { s with free := s.free + 1 })

end Sys2Proof.Machine
end

