-- ==== Sys2Proof/WellFormed.lean ====
section
/-!
DEFINITION. Which commands are well formed beyond the bounds of their operands' types: a thread instruction carries the
opcode of its row, an arbiter command names an instance of its class, a message and a packet are as long as they say.
-/

namespace Sys2Proof

/-- The opcode that Table 7.5 assigns to a thread instruction's row, and the word that the command carries. -/
def Instr.opcode? : Instr → Option (Nat × BitVec 64)
  | .iadd _ w => some (0x00, w)
  | .isub _ w => some (0x01, w)
  | .imul _ w => some (0x02, w)
  | .imulhi _ w => some (0x03, w)
  | .imad _ w => some (0x04, w)
  | .imin _ w => some (0x05, w)
  | .imax _ w => some (0x06, w)
  | .iabs _ w => some (0x07, w)
  | .and _ w => some (0x08, w)
  | .or _ w => some (0x09, w)
  | .xor _ w => some (0x0A, w)
  | .not _ w => some (0x0B, w)
  | .shl _ w => some (0x0C, w)
  | .shr _ w => some (0x0D, w)
  | .sar _ w => some (0x0E, w)
  | .popc _ w => some (0x0F, w)
  | .clz _ w => some (0x10, w)
  | .icmp _ w => some (0x11, w)
  | .sel _ w => some (0x12, w)
  | .mov _ w => some (0x13, w)
  | .movi _ w => some (0x14, w)
  | .idiv _ w => some (0x15, w)
  | .irem _ w => some (0x16, w)
  | .fadd _ w => some (0x20, w)
  | .fsub _ w => some (0x21, w)
  | .fmul _ w => some (0x22, w)
  | .ffma _ w => some (0x23, w)
  | .fmin _ w => some (0x24, w)
  | .fmax _ w => some (0x25, w)
  | .fabs _ w => some (0x26, w)
  | .fneg _ w => some (0x27, w)
  | .fcmp _ w => some (0x28, w)
  | .frcp _ w => some (0x29, w)
  | .frsq _ w => some (0x2A, w)
  | .fsqrt _ w => some (0x2B, w)
  | .fexp2 _ w => some (0x2C, w)
  | .flog2 _ w => some (0x2D, w)
  | .fsin _ w => some (0x2E, w)
  | .fcos _ w => some (0x2F, w)
  | .ftanh _ w => some (0x30, w)
  | .cvtF2f _ w => some (0x40, w)
  | .cvtF2i _ w => some (0x41, w)
  | .cvtI2f _ w => some (0x42, w)
  | .pack _ w => some (0x43, w)
  | .unpack _ w => some (0x44, w)
  | .shfl _ w => some (0x50, w)
  | .vote _ w => some (0x51, w)
  | .movu _ w => some (0x52, w)
  | .movs _ w => some (0x53, w)
  | .nop _ w => some (0x60, w)
  | .bra _ w => some (0x61, w)
  | .braAny _ w => some (0x62, w)
  | .pushm _ w => some (0x63, w)
  | .flipm _ w => some (0x64, w)
  | .clrm _ w => some (0x65, w)
  | .popm _ w => some (0x66, w)
  | .call _ w => some (0x67, w)
  | .ret _ w => some (0x68, w)
  | .exit _ w => some (0x69, w)
  | .trap _ w => some (0x6A, w)
  | .ld _ w _ => some (0x70, w)
  | .st _ w => some (0x71, w)
  | .ldNc _ w _ => some (0x72, w)
  | .atom _ w => some (0x73, w)
  | .mfence _ w => some (0x74, w)
  | .acqG _ w => some (0x80, w)
  | .relG _ w => some (0x81, w)
  | .bar _ w => some (0x82, w)
  | .mxIssue _ w => some (0x90, w)
  | .mxWait _ w => some (0x91, w)
  | .mxTest _ w => some (0x92, w)
  | .dmaStart _ w => some (0x93, w)
  | .dmaWait _ w => some (0x94, w)
  | .arbiterRequest _ _ _ _ _ => none
  | .arbiterDecision _ _ _ => none
  | .backoffExpire _ _ _ _ => none
  | .emergencyPreempt _ _ _ => none
  | .emergencyEnd _ _ _ => none
  | .arbiterControlWrite _ _ _ _ _ => none
  | .registerWrite _ _ _ _ => none
  | .revolutionBoundary => none
  | .memberMarkerPass _ => none
  | .markerReturnMaster => none
  | .stationMarkerPass _ _ => none
  | .injectorSlotPass _ _ _ => none
  | .stagingReadDone _ _ _ _ => none
  | .kilnRewriteDone _ _ _ _ => none
  | .stationClaim _ _ _ _ => none
  | .stationCapture _ _ _ => none
  | .latchCopyDone _ _ _ _ => none
  | .conveyorLoad _ => none
  | .conveyorUnload _ => none
  | .conveyorHalt _ => none
  | .conveyorResume _ => none
  | .conveyorClockChange _ => none
  | .spanConfigWrite _ => none
  | .spanNeighbourExchange _ _ _ _ _ => none
  | .spanIngress _ _ => none
  | .spanStarveTimeout => none
  | .markerReturnTimeout => none
  | .haltedLinkLoss _ => none
  | .sharedGrantWrite _ _ => none
  | .gradientInjectorPass _ _ _ => none
  | .contributionDue _ _ _ => none
  | .subtileRead _ _ _ _ => none
  | .addWindowPass _ _ _ _ _ => none
  | .returnLoad _ => none
  | .verdictRecordWrite _ => none
  | .verdictSlotRebuild => none
  | .mxHead _ => none
  | .weightTimeout _ => none
  | .mmaRow _ _ => none
  | .mmaCol _ _ => none
  | .loada _ => none
  | .epi _ _ => none
  | .mmaOs _ _ => none
  | .tieSet _ => none
  | .tieClr _ => none
  | .localWeightLoad _ _ => none
  | .epilogueStep _ _ => none
  | .accAdd _ => none
  | .mxCommandComplete _ => none
  | .groupStart _ _ => none
  | .kernelStartCore _ _ => none
  | .clusterStoreClear _ _ => none
  | .groupEnd _ => none
  | .illegalInstruction _ _ => none
  | .fenceComplete _ => none
  | .fenceTimeout _ => none
  | .barrierRelease _ => none
  | .dmaCopy _ _ _ => none
  | .transpose _ _ _ => none
  | .prefetch _ _ _ => none
  | .zero _ _ => none
  | .dmaTransferComplete _ _ => none
  | .groupParkAsync _ => none
  | .groupSelfWait _ => none
  | .replayGroup _ => none
  | .retry _ => none
  | .skip _ => none
  | .reissue _ => none
  | .abort _ => none
  | .kernelComplete _ => none
  | .specMergeDone _ => none
  | .specDiscard _ => none
  | .hbmParityRetry _ _ _ _ => none
  | .patrolScrubRead _ _ _ _ => none
  | .retrainWindowOpen _ _ _ => none
  | .retrainWindowEnd _ _ _ => none
  | .retrainTimeout _ _ => none
  | .migrationSectorCopy _ _ => none
  | .migrationSwitch _ _ => none
  | .missEntryAlloc _ _ _ => none
  | .prefetchIssue _ _ => none
  | .regulatorCharge _ _ _ => none
  | .lpLinkRetry _ _ => none
  | .lpRetrainWindow _ _ => none
  | .kilnTileTakeover _ => none
  | .kilnUpdateTile _ _ => none
  | .workingCopyWrite _ => none
  | .stripeFlushTimeout _ => none
  | .stripeWriteDone _ _ => none
  | .stepOpen _ => none
  | .stepOpenExecute => none
  | .stepClose _ => none
  | .stepCloseAbort _ => none
  | .stepCommit _ => none
  | .evalOpen _ => none
  | .evalClose _ => none
  | .updateLoad _ => none
  | .kilnRead _ _ => none
  | .kilnWrite _ _ => none
  | .kilnApply _ => none
  | .fabRead _ _ => none
  | .fabWrite _ => none
  | .fabWriteMask _ => none
  | .fabAtomic _ _ => none
  | .fabAtomicCont _ _ => none
  | .fabReadResp _ => none
  | .fabWriteAck _ => none
  | .fabAtomicResp _ => none
  | .fabMgmt _ _ => none
  | .fabReservedType _ => none
  | .fabRequestEgress _ _ => none
  | .fabTimeout _ _ _ => none
  | .frameReceive _ _ _ _ _ => none
  | .linkAck _ _ => none
  | .nak _ _ => none
  | .credit _ _ _ => none
  | .linkReplayTimeout _ => none
  | .fabPortDown _ _ => none
  | .fabPortUp _ _ => none
  | .regionKeys _ => none
  | .regionOpen _ => none
  | .regionClose _ => none
  | .nodeTopologyWrite _ _ => none
  | .queueTailDoorbell _ _ _ _ _ => none
  | .commandSubmit _ _ => none
  | .commandStart _ => none
  | .commandComplete _ => none
  | .nopCommand _ => none
  | .kernelLoad _ => none
  | .kernelUnload _ => none
  | .launch _ => none
  | .kernelAbort _ => none
  | .copy _ => none
  | .fill _ => none
  | .mapSync _ => none
  | .contextCreate _ => none
  | .contextDestroy _ => none
  | .queueCreate _ => none
  | .queueDestroy _ => none
  | .timelineCreate _ => none
  | .timelineDestroy _ => none
  | .setLayout _ => none
  | .memCreate _ => none
  | .memFree _ => none
  | .timelineSignal _ _ _ _ => none
  | .eventRingHeadDoorbell _ _ _ _ => none
  | .faultRingHeadDoorbell _ _ _ _ => none
  | .noticeRingHeadDoorbell _ _ _ _ => none
  | .txData _ _ _ => none
  | .rxData _ _ => none
  | .doorbell _ _ _ => none
  | .functionLevelReset _ => none
  | .vfEnable _ _ => none
  | .cxlMemRequest _ _ _ => none
  | .naloraRead _ => none
  | .naloraWrite _ => none
  | .naloraWriteG _ => none
  | .naloraStage _ => none
  | .naloraIdentify _ => none
  | .naloraResponse _ => none
  | .naloraNotice _ => none
  | .naloraReservedKind _ => none
  | .dictRead _ => none
  | .dictWrite _ => none
  | .dictWriteG _ => none
  | .keyRotate _ => none
  | .keyProvision _ => none
  | .fwActivate _ => none
  | .mbxMessageTimeout => none
  | .stagingTimeout _ => none
  | .journalCommit => none
  | .pageBudgetRefill => none
  | .plcaBeaconTimeout => none
  | .plcaIdWrite _ => none
  | .attestNonce _ => none
  | .attestReportReady => none
  | .caskExportReq _ _ _ => none
  | .caskExportReady => none
  | .fwLoad _ _ _ _ => none
  | .fwVerifyDone _ => none
  | .fwLoadAbandon => none
  | .microcodeSwitch _ => none
  | .handoverSelfCheck => none
  | .fwRevert => none
  | .recoveryLoader => none
  | .recoveryNotice => none
  | .healthPoll _ => none
  | .clusterSwap _ => none
  | .stationWithdraw _ => none
  | .laneErrorCheck _ _ => none
  | .fabPortRetryHourly _ _ => none
  | .spanLaneSpare _ _ => none
  | .brownHoldEnter _ => none
  | .brownHoldLeave => none
  | .powerLoss _ _ => none
  | .overvoltage _ _ => none
  | .powerReturn => none
  | .caskCommit _ _ => none
  | .caskCoalesceFlush _ => none
  | .powerSample _ _ => none
  | .powerExcursionLimit _ => none
  | .pLimitWrite _ => none
  | .forceSafeAssert => none
  | .forceSafeRelease => none
  | .referenceLoss => none
  | .referenceReturn => none
  | .coreRailDroop _ => none
  | .thermalThrottle _ _ => none
  | .thermalRecover _ _ => none
  | .dieStop _ => none
  | .dieResume _ => none
  | .thermalTrip _ _ => none
  | .perstNAssert => none
  | .perstNRelease _ _ => none
  | .hotReset => none
  | .romStart _ _ _ _ _ => none
  | .trainingDone _ => none
  | .selfTestDone _ => none
  | .conveyorStart => none
  | .cableInsert _ _ _ => none
  | .cableOvercurrent _ => none
  | .cableRemove _ => none
  | .presentNHigh => none
  | .plcaBeaconReceived => none
  | .overvoltageRelease => none
  | .holdUpEnergyExhausted => none
  | .tripSensorsBelowThrottle => none
  | .handoverNewImageStart => none
  | .laneLosesLock _ => none

/-- The instances of a class, Table 2.2 and R44. -/
def ArbClass.instances : ArbClass → Nat
  | .storeBank => 16384
  | .stationLatch => 128
  | .cacheSlice => 128
  | .hbmQueue => 1024
  | .fabricEgress => 32
  | .homeEndpoint => 128

/-- The grant units of a class in beats (Table 2.2): what an access touches in one store bank, at most a sector in 4 beats
(R284); a sector of a slice in 4; one tile copy in 64; one sector of a pseudo-channel, 8 cycles (6.7 ns) of data and at most
as much turnaround; one packet of at most 288 bytes; one store of 2 beats to a line. DESIGN CHOICE: a set of several grant
units (R265) is that many grants of one unit each, so that T of Table 2.2 holds and each counts for fairness (log entry
118). -/
def unitFits (c : ArbClass) (beats : Nat) : Bool :=
  match c with
  | .storeBank => decide (1 ≤ beats) && decide (beats ≤ 4)
  | .stationLatch => beats == 64
  | .cacheSlice => beats == 4
  | .hbmQueue => decide (8 ≤ beats) && decide (beats ≤ 16)
  | .fabricEgress => decide (1 ≤ beats) && decide (beats ≤ 9)
  | .homeEndpoint => beats == 2

/-- A Nalora message carries DATA_LEN bytes, at most 208 (Table 13.4). -/
def NalMsg.wf (m : NalMsg) : Bool :=
  if m.kind = 1 then m.data.isEmpty && decide (m.dataLen.toNat ≤ 208)
  else decide (m.data.length = m.dataLen.toNat) && decide (m.data.length ≤ 208)

/-- R367: the payload is LEN units of 8 bytes, at most 256 bytes; a READ gives the length requested and carries none. -/
def Packet.wf (p : Packet) : Bool :=
  decide (p.len.toNat ≤ 32) && (if p.type = 1 then p.payload.isEmpty else decide (p.payload.length = 8 * p.len.toNat))

/-- A packet of some type (Table 11.7). -/
def Packet.wfOf (p : Packet) (type : BitVec 8) : Bool := p.wf && decide (p.type = type)

/-- The command is one that the block can be given. -/
def Instr.wf (i : Instr) : Bool :=
  match i.opcode? with
  | some (o, w) => decide ((w >>> 56).toNat = o)
  | none =>
    match i with
    | .illegalInstruction _ w => !assignedOpcode (w >>> 56).toNat
    | .arbiterRequest c inst _ beats _ => decide (inst < c.instances) && unitFits c beats
    | .arbiterDecision c inst _ => decide (inst < c.instances)
    | .backoffExpire c inst _ _ => decide (inst < c.instances)
    | .emergencyPreempt c inst _ => decide (inst < c.instances)
    | .emergencyEnd c inst _ => decide (inst < c.instances)
    | .naloraRead m => m.wf && decide (m.kind = 1)
    | .naloraWrite m => m.wf && decide (m.kind = 2)
    | .naloraWriteG m => m.wf && decide (m.kind = 3)
    | .naloraStage m => m.wf && decide (m.kind = 4)
    | .naloraResponse m => m.wf && decide (m.kind = 5)
    | .naloraIdentify m => m.wf && decide (m.kind = 6)
    | .naloraNotice m => m.wf && decide (m.kind = 7)
    | .naloraReservedKind m => m.wf && (decide (m.kind = 0) || decide (8 ≤ m.kind.toNat))
    | .keyProvision m => m.wf && decide (m.kind = 2)
    | .fabMgmt p m => p.wfOf 9 && m.wf
    | .romStart _ sram a b _ => decide (sram.length = 32768) && a.all (fun x => decide (x.1 < 33554432)) && b.all (fun x => decide (x.1 < 33554432))
    | .fwVerifyDone f => f.all (fun x => decide (x.1 < 33554432))
    | .frameReceive _ f _ _ _ => f.wf
    | .fabRead p _ => p.wfOf 1
    | .fabWrite p => p.wfOf 2
    | .fabWriteMask p => p.wfOf 3
    | .fabAtomic p _ => p.wfOf 4
    | .fabAtomicCont p _ => p.wfOf 5
    | .fabReadResp p => p.wfOf 6
    | .fabWriteAck p => p.wfOf 7
    | .fabAtomicResp p => p.wfOf 8
    | .fabReservedType p => p.wf && (decide (p.type = 0) || decide (0x0A ≤ p.type.toNat))
    | _ => true

end Sys2Proof
end

