-- ==== Sys2Proof/Machine/Arbiter.lean ====
section
/-!
DEFINITION. The common arbiter (R33 to R47, R548): queues, decisions, back-off, emergencies and the control register.
Time is counted in beats of the instance, two to a port cycle at the fabric egress port and one to an instance cycle
elsewhere. A decision that falls due before the moment of a command is carried out first.
-/

namespace Sys2Proof.Machine

/-! ### Table 2.2 -/

def ArbClass.number : ArbClass → Nat
  | .storeBank => 0
  | .stationLatch => 1
  | .cacheSlice => 2
  | .hbmQueue => 3
  | .fabricEgress => 4
  | .homeEndpoint => 5

/-- Requesters M. -/
def requesters : ArbClass → Nat
  | .storeBank => 5
  | .stationLatch => 8
  | .cacheSlice => 132
  | .hbmQueue => 1027
  | .fabricEgress => 32
  | .homeEndpoint => 16384

def fairReset : ArbClass → Nat
  | .stationLatch => 8
  | _ => 16

/-- The class has an emergency requester (R40, R41). -/
def hasEmergency : ArbClass → Bool
  | .fabricEgress => false
  | .homeEndpoint => false
  | _ => true

/-- The die that carries an instance: compute dies 0 to 7, I/O dies 8 to 11. -/
def dieOf (c : ArbClass) (inst : Nat) : Nat :=
  match c with
  | .fabricEgress => 8 + inst / 8
  | _ => inst / (c.instances / 8)

def instKey (c : ArbClass) (inst : Nat) : Nat := ArbClass.number c * 65536 + inst
def classKey (die : Nat) (c : ArbClass) : Nat := die * 8 + ArbClass.number c
def prioKey (die : Nat) (c : ArbClass) (j : Nat) : Nat := classKey die c * 65536 + j

/-! ### Registers (R39, R42, R43) -/

/-- The instance cycle of a beat (R548). -/
def cycleOf (c : ArbClass) (t : Nat) : Nat :=
  match c with
  | .fabricEgress => t / 2
  | _ => t

/-- The value that a decision in beat `t` uses: a write in its own instance cycle comes too late for it (R39). -/
def TimedReg.at (r : TimedReg) (c : ArbClass) (t : Nat) : Nat := if cycleOf c r.at_ < cycleOf c t then r.new else r.old

/-- A write that completes in beat `t`. -/
def TimedReg.write (r : TimedReg) (c : ArbClass) (v t : Nat) : TimedReg := { new := v, old := r.at c t, at_ := t }

def Arbiters.fairReg (a : Arbiters) (die : Nat) (c : ArbClass) : TimedReg :=
  (Bank.find? a.fairN (classKey die c)).getD ⟨fairReset c, fairReset c, 0⟩

def Arbiters.prioReg (a : Arbiters) (die : Nat) (c : ArbClass) (j : Nat) : TimedReg :=
  (Bank.find? a.priority (prioKey die c j)).getD ⟨0x88888888, 0x88888888, 0⟩

/-- Priority value of a requester in cycle `t`. -/
def Arbiters.priorityOf (a : Arbiters) (die : Nat) (c : ArbClass) (req t : Nat) : Nat :=
  fld ((a.prioReg die c (req / 8)).at c t) (4 * (req % 8)) 4

/-! ### Back-off (R37) -/

/-- The first beat of the instance cycle after the one that beat `t` lies in (R33, R548). -/
def nextCycle (c : ArbClass) (t : Nat) : Nat :=
  match c with
  | .fabricEgress => 2 * (t / 2 + 1)
  | _ => t + 1

/-- Port or instance cycles between two moments. -/
def cyclesBetween (c : ArbClass) (a b : Nat) : Nat := cycleOf c b - cycleOf c a

/-- The back-off count of a requester at cycle `t`. -/
def Arb.backoffAt (x : Arb) (c : ArbClass) (req t : Nat) : Nat :=
  let b := x.backoff.get {} req
  b.value - cyclesBetween c b.at_ t

/-- A loss loads 2, or double the value loaded last, up to 1,024. -/
def Arb.lose (t : Nat) (x : Arb) (req : Nat) : Arb :=
  let v := if (x.backoff.get {} req).last = 0 then 2 else min 1024 (2 * (x.backoff.get {} req).last)
  { x with backoff := x.backoff.set {} req { value := v, at_ := t, last := v } }

/-! ### Decisions (R33 to R38) -/

/-- The head that has waited longest; of equals the one from the lower index. -/
def oldest (l : List Head) : Option Head :=
  l.foldl (fun a h => match a with
    | none => some h
    | some b => if h.arrived < b.arrived ∨ (h.arrived = b.arrived ∧ h.req < b.req) then some h else some b) none

/-- Position in round-robin order behind the requester granted last. -/
def Arb.turn (x : Arb) (m req : Nat) : Nat :=
  match x.lastGranted with
  | some g => (req + m - (g + 1) % m) % m
  | none => req

/-- The eligible head of highest priority, the first of equals in round-robin order. -/
def Arb.best (x : Arb) (m : Nat) (prio : Nat → Nat) (l : List Head) : Option Head :=
  l.foldl (fun a h => match a with
    | none => some h
    | some b =>
      if prio b.req < prio h.req ∨ (prio h.req = prio b.req ∧ x.turn m h.req < x.turn m b.req) then some h else some b) none

/-- The next request of a requester becomes its head in cycle `t`. -/
def Arb.promote (x : Arb) (req t : Nat) : Arb :=
  match x.queued.find? (fun h => h.req == req) with
  | some h => { x with heads := x.heads ++ [{ h with arrived := max h.arrived t }], queued := x.queued.erase h }
  | none => x

/-- A request at the end of its requester's queue; an empty queue makes it the head. -/
def Arb.enqueue (x : Arb) (h : Head) : Arb :=
  if x.heads.any (fun y => y.req == h.req) then { x with queued := x.queued ++ [h] } else { x with heads := x.heads ++ [h] }

/-- The classes whose ended grants have an effect of their own: a copy into a cluster, a sector returned. -/
def notesEnd (c : ArbClass) : Bool :=
  match c with
  | .stationLatch => true
  | .hbmQueue => true
  | _ => false

/-- The running grant reaches its end. -/
def Arb.finish (x : Arb) (c : ArbClass) : Arb :=
  match x.running with
  | some g => { x with running := none, idleFrom := g.since + g.left,
                       ended := if notesEnd c then x.ended ++ [(g.req, g.tag, g.since + g.left)] else x.ended }
  | none => x

/-- The grant of a decision made in cycle `t` starts at `start`. -/
def Arb.grant (x : Arb) (h : Head) (t start count : Nat) : Arb :=
  ({ x with heads := x.heads.filter (fun y => y.req != h.req), running := some ⟨h.req, h.beats, start, h.tag⟩,
            lastGranted := some h.req, count := count, backoff := x.backoff.erase h.req } : Arb).promote h.req t

/-- The decision made in cycle `t` for a grant that starts at `start`, among the heads that came before `t`. -/
def Arb.decide (a : Arbiters) (c : ArbClass) (die t start : Nat) (x : Arb) : Arb :=
  let present := x.heads.filter (fun h => Decidable.decide (h.arrived < t))
  let n := (a.fairReg die c).at c t
  let x := x.finish c
  if present.isEmpty then x
  else if n ≤ x.count + 1 then
    match oldest present with
    | some h => x.grant h t start 0
    | none => x
  else
    let able := present.filter (fun h => x.backoffAt c h.req t == 0)
    match x.best (requesters c) (fun r => a.priorityOf die c r t) able with
    | some h => (able.filter (fun y => y.req != h.req)).foldl (fun y l => Arb.lose t y l.req) (x.grant h t start (x.count + 1))
    | none => match oldest present with
      | some h => x.grant h t start (x.count + 1)
      | none => x

/-- What an instance does next: a decision in one cycle for a grant that starts in another, the end of a grant behind which
nothing is granted (settled in its last beat, as a decision is), the end of an emergency. -/
inductive ArbEvent where
  | decide (t start : Nat)
  | finish (t : Nat)
  | resume (t : Nat)
deriving DecidableEq, Repr

def ArbEvent.time : ArbEvent → Nat
  | .decide t _ => t
  | .finish t => t
  | .resume t => t

/-- The next event: a decision falls in the last beat of the running grant or, while the resource is idle, in the instance
cycle behind the first arrival. -/
def Arb.nextEvent (x : Arb) (c : ArbClass) : Option ArbEvent :=
  if x.emergency then some (.resume x.until_)
  else match x.running with
    | some g => some (if x.closed then .finish (g.since + g.left - 1) else .decide (g.since + g.left - 1) (g.since + g.left))
    | none =>
      if x.closed then none
      else (oldest x.heads).map (fun h =>
        .decide (max x.idleFrom (nextCycle c h.arrived)) (max x.idleFrom (nextCycle c h.arrived)))

/-- The emergency ends in cycle `t`: the interrupted grant, or one decided and not yet started, goes on. DESIGN CHOICE:
where none is running, the resource is free from `t` on, so that requests waiting behind the emergency are decided in that
very cycle (log entry 105). -/
def Arb.resume (x : Arb) (t : Nat) : Arb :=
  { x with emergency := false, idleFrom := max x.idleFrom t, uses := x.uses ++ [(x.since, t - x.since)],
           running := x.running.map (fun g => { g with since := t }) }

def Arb.apply (a : Arbiters) (c : ArbClass) (die : Nat) (x : Arb) : ArbEvent → Arb
  | .decide t start => x.decide a c die t start
  | .finish _ => x.finish c
  | .resume t => x.resume t

/-- Events one after another while `go` admits the next. -/
def Arb.run (a : Arbiters) (c : ArbClass) (die : Nat) (go : Arb → Nat → Bool) : Nat → Arb → Arb
  | 0, x => x
  | n + 1, x => match x.nextEvent c with
    | some e => if go x e.time then Arb.run a c die go n (x.apply a c die e) else x
    | none => x

/-- Every event takes a request, ends a grant or ends the emergency. -/
def Arb.fuel (x : Arb) : Nat := x.heads.length + x.queued.length + 3

/-- The instance as it stands when the events up to and including cycle `t` have happened. -/
def Arb.upTo (a : Arbiters) (c : ArbClass) (die t : Nat) (x : Arb) : Arb :=
  Arb.run a c die (fun _ e => Decidable.decide (e ≤ t)) x.fuel x

/-- The instance when the grant of a request has run to its end. -/
def Arb.served (a : Arbiters) (c : ArbClass) (die req tag : Nat) (x : Arb) : Arb :=
  Arb.run a c die (fun y _ => !y.ended.any (fun e => e.1 == req && e.2.1 == tag)) x.fuel x

/-! ### Emergencies (R40, R41, R45) -/

/-- The emergency requester of a class: cycles between the starts of two uses; the length of a use, where it is one cycle.
The debug port uses at most one beat in every 16 cycles; the marker passes a station once in 1,280 slots. -/
def emergencySpacing : ArbClass → Nat
  | .storeBank => 16
  | .stationLatch => 1280
  | .cacheSlice => 16
  | _ => 0

/-- R45: how long a refresh that starts in cycle `t` may last: with every earlier use that an interval of 3.9 µs (4,680
cycles) or longer takes in, it stays within 9 % of that interval. `u` cycles lie in the uses from `a` on. -/
def refreshRoom (uses : List (Nat × Nat)) (t : Nat) : Nat :=
  (uses.mapIdx (fun i x => (x.1, sumNat ((uses.drop i).map (·.2))))).foldl
    (fun m x => min m (max (421 - x.2) ((9 * (t - x.1) - 100 * x.2) / 91))) 421

/-- The length that an emergency use from cycle `t` on may have; 0: none may start. -/
def Arb.emergencyRoom (x : Arb) (c : ArbClass) (t : Nat) : Nat :=
  if !hasEmergency c || x.emergency then 0
  else match c with
    | .hbmQueue => refreshRoom x.uses t
    | _ => if x.uses.all (fun u => Decidable.decide (u.1 + emergencySpacing c ≤ t)) then 1 else 0

/-- The emergency requester takes the resource at the beat boundary `t`: the running grant stands where it is. -/
def Arb.preempt (x : Arb) (c : ArbClass) (t : Nat) : Arb :=
  { x with emergency := true, since := t, until_ := t + x.emergencyRoom c t,
           running := x.running.map (fun g => { g with left := g.left - (t - g.since) }) }

/-! ### Instances of the state -/

/-- An instance brought to cycle `t` and changed. -/
def State.onArb (s : State) (c : ArbClass) (inst : Nat) (t : Nat) (f : Arb → Arb) : State :=
  let x := (s.arb.insts.get {} (instKey c inst)).upTo s.arb c (dieOf c inst) t
  { s with arb.insts := s.arb.insts.set {} (instKey c inst) (f x) }

def State.arbOf (s : State) (c : ArbClass) (inst : Nat) : Arb := s.arb.insts.get {} (instKey c inst)

/-- PREEMPT_COUNT of a class on a die saturates at 0xFFFF. -/
def Arbiters.countPreempt (a : Arbiters) (die : Nat) (c : ArbClass) : Arbiters :=
  { a with preempts := a.preempts.set 0 (classKey die c) (min 0xFFFF (a.preempts.get 0 (classKey die c) + 1)) }

/-- Every instance of a class on a die brought to the cycle before `t`, so that a write acts on later decisions only. -/
def State.settleClass (s : State) (die : Nat) (c : ArbClass) (t : Nat) : State :=
  let one : Nat × Arb → Nat × Arb := fun y =>
    if y.1 / 65536 = ArbClass.number c ∧ dieOf c (y.1 % 65536) = die then (y.1, y.2.upTo s.arb c die (t - 1)) else y
  { s with arb.insts := s.arb.insts.map one }

/-- A die carries a class: fabric egress on the I/O dies, the others on the compute dies. -/
def carries (die : Nat) (c : ArbClass) : Bool := (8 ≤ die) == (c == .fabricEgress)

/-- The arbiter control register as it reads (Table 2.1); through a virtual interface it reads as 0. -/
def State.arbControl (s : State) (die : Nat) (c : ArbClass) (viaVf : Bool) : Nat :=
  if viaVf ∨ !carries die c then 0
  else packFields [(8, (s.arb.fairReg die c).new), (16, s.arb.preempts.get 0 (classKey die c)), (7, 0),
    (1, if s.arb.reject.get false (classKey die c) then 1 else 0)]

/-- A write to a priority register (R43). -/
def State.writePriority (s : State) (die : Nat) (c : ArbClass) (j value cycle : Nat) : State :=
  if !carries die c ∨ requesters c ≤ 8 * j then s
  else
    let s := s.settleClass die c cycle
    { s with arb.priority := s.arb.priority.put (prioKey die c j) ((s.arb.prioReg die c j).write c (value % 2 ^ 32) cycle) }

end Sys2Proof.Machine
end

