-- ==== Sys2Proof/Machine/Flags.lean ====
section
/-!
DEFINITION. Number formats and their arithmetic (Tables 6.1, 6.2, 6.8): decoding to exact values, rounding to nearest
even, IEEE binary32 operations, the saturating add32 of R115, narrow16, conversion with its counts (R190), pass groups
(R177, R200), block-scale factors (R181) and the histogram bins (R198).
-/

namespace Sys2Proof.Machine

/-- An exact value: not a number, an infinity with its sign, or (-1)^neg · m · 2^e. -/
inductive Val where
  | nan
  | inf (neg : Bool)
  | fin (neg : Bool) (m : Nat) (e : Int)
deriving DecidableEq, Repr

/-- A floating-point format: exponent and mantissa bits, bias, code of the largest finite magnitude, whether an
infinity and which NaN code it writes (Tables 6.1, 6.8). -/
structure Fmt where
  ebits : Nat
  mbits : Nat
  bias : Nat
  maxCode : Nat
  hasInf : Bool
  nanCode : Nat
deriving DecidableEq, Repr

def fmtV4 : Fmt := ⟨2, 1, 1, 0b0111, false, 0b1000⟩
def fmtV8e4 : Fmt := ⟨4, 3, 7, 0x7E, false, 0x7F⟩
def fmtV8e5 : Fmt := ⟨5, 2, 15, 0x7B, true, 0x7E⟩
def fmtBf16 : Fmt := ⟨8, 7, 127, 0x7F7F, true, 0x7FC0⟩
def fmtFp16 : Fmt := ⟨5, 10, 15, 0x7BFF, true, 0x7E00⟩
def fmtFp32 : Fmt := ⟨8, 23, 127, 0x7F7FFFFF, true, 0x7FC00000⟩

/-- The floating-point formats of Table 3.3 by code. -/
def fmtOf : Nat → Option Fmt
  | 1 => some fmtV4
  | 2 => some fmtV8e4
  | 3 => some fmtV8e5
  | 4 => some fmtBf16
  | 5 => some fmtFp16
  | 6 => some fmtFp32
  | _ => none

/-- Bits of an element of a format code (Table 3.4); 0 for a code that is no element format. -/
def elemBits : Nat → Nat
  | 1 => 4
  | 2 => 8
  | 3 => 8
  | 4 => 16
  | 5 => 16
  | 6 => 32
  | 8 => 8
  | 9 => 4
  | _ => 0

/-- Number of significant bits. -/
def bitLen (n : Nat) : Nat := if n = 0 then 0 else n.log2 + 1

/-- R173, R174: the value of an element of a floating-point format. -/
def Fmt.decode (f : Fmt) (c : Nat) : Val :=
  let w := f.ebits + f.mbits
  let neg := bit c w
  let mag := c % 2 ^ w
  let e := mag / 2 ^ f.mbits
  let m := mag % 2 ^ f.mbits
  if f = fmtV4 ∧ c % 16 = 8 then .nan
  else if f.hasInf ∧ e = 2 ^ f.ebits - 1 then (if m = 0 then .inf neg else .nan)
  else if f = fmtV8e4 ∧ mag = 0x7F then .nan
  else if e = 0 then .fin neg m (1 - (f.bias : Int) - f.mbits)
  else .fin neg (m + 2 ^ f.mbits) ((e : Int) - f.bias - f.mbits)

/-- R175: two's complement of `w` bits. -/
def signedOf (w c : Nat) : Int := if bit c (w - 1) then (c % 2 ^ w : Int) - 2 ^ w else (c % 2 ^ w : Int)

def intVal (i : Int) : Val := .fin (decide (i < 0)) i.natAbs 0

/-- The value of an element of a format code; an integer has no negative zero. -/
def decodeElem (code c : Nat) : Val :=
  match fmtOf code with
  | some f => f.decode c
  | none => if code = 8 then intVal (signedOf 8 c) else if code = 9 then intVal (signedOf 4 c) else .nan

/-- m · 2^e rounded to nearest even to `p` significant bits, not below 2^emin: the pair (m', e'). -/
def roundNe (p : Nat) (emin : Int) (m : Nat) (e : Int) : Nat × Int :=
  let t := max emin (e + bitLen m - p)
  if t ≤ e then (m * 2 ^ (e - t).toNat, t)
  else
    let k := (t - e).toNat
    if bitLen m + 1 < k then (0, t)
    else
      let q := m >>> k
      let r := m % 2 ^ k
      if r * 2 > 2 ^ k ∨ (r * 2 = 2 ^ k ∧ q % 2 = 1) then (q + 1, t) else (q, t)

/-- The magnitude code of m · 2^e rounded to nearest even with the format's spacing at the bottom and no upper exponent
limit (R190). -/
def Fmt.magCode (f : Fmt) (m : Nat) (e : Int) : Nat :=
  let emin : Int := 1 - (f.bias : Int) - f.mbits
  let r := roundNe (f.mbits + 1) emin m e
  if r.1 < 2 ^ f.mbits then r.1
  else ((r.2 - emin).toNat + 1) * 2 ^ f.mbits + (r.1 - 2 ^ f.mbits)

def Fmt.signed (f : Fmt) (neg : Bool) (mag : Nat) : Nat := if neg then 2 ^ (f.ebits + f.mbits) + mag else mag

/-- What a conversion counts: a saturation (MX_SAT_CONV) or a non-finite output (MX_NAN_OUT). -/
structure Conv1 where
  code : Nat
  sat : Bool := false
  nan : Bool := false
deriving DecidableEq, Repr

/-- R190, R191 to a floating-point format. -/
def Fmt.convert (f : Fmt) (v : Val) : Conv1 :=
  match v with
  | .nan => { code := f.nanCode, nan := true }
  | .inf neg =>
    if f.hasInf then { code := f.signed neg (f.maxCode + 1), nan := true }
    else { code := f.signed neg f.maxCode, sat := true }
  | .fin neg m e =>
    let c := f.magCode m e
    if f.maxCode < c then { code := f.signed neg f.maxCode, sat := true }
    else if c = 0 ∧ f = fmtV4 then { code := 0 }
    else { code := f.signed neg c }

/-- R190 to an integer of `w` bits. -/
def convertInt (w : Nat) (v : Val) : Conv1 :=
  let lim : Bool → Nat := fun neg => if neg then 2 ^ (w - 1) else 2 ^ (w - 1) - 1
  match v with
  | .nan => { code := 0, nan := true }
  | .inf neg => { code := lim neg, sat := true }
  | .fin neg m e =>
    let i := if 0 ≤ e then (if 64 < e ∧ 0 < m then 2 ^ 64 else m * 2 ^ e.toNat)
      else (roundNe (bitLen m + 2) 0 m e).1
    if neg then (if 2 ^ (w - 1) < i then { code := lim true, sat := true } else { code := (2 ^ w - i) % 2 ^ w })
    else if 2 ^ (w - 1) - 1 < i then { code := lim false, sat := true } else { code := i }

/-- R190, R191: an exact value to an element of a format code. -/
def convertElem (code : Nat) (v : Val) : Conv1 :=
  match fmtOf code with
  | some f => f.convert v
  | none => convertInt (elemBits code) v

/-! ### binary32 -/

def f32Nan : Word := 0x7FC00000#32
def f32Inf (neg : Bool) : Word := if neg then 0xFF800000#32 else 0x7F800000#32
def f32Max (neg : Bool) : Word := if neg then 0xFF7FFFFF#32 else 0x7F7FFFFF#32
def f32Zero (neg : Bool) : Word := if neg then 0x80000000#32 else 0#32

def val32 (w : Word) : Val := fmtFp32.decode w.toNat

def isNan32 (w : Word) : Bool := val32 w == .nan
def isInf32 (w : Word) : Bool := (w &&& 0x7FFFFFFF#32) == 0x7F800000#32
def isZero32 (w : Word) : Bool := (w &&& 0x7FFFFFFF#32) == 0#32
def finite32 (w : Word) : Bool := (w &&& 0x7F800000#32) != 0x7F800000#32
def neg32 (w : Word) : Bool := w.getLsbD 31

/-- m · 2^e rounded to binary32 to nearest even, beyond the largest finite value an infinity. -/
def ieee32 (neg : Bool) (m : Nat) (e : Int) : Word :=
  let c := fmtFp32.magCode m e
  if fmtFp32.maxCode < c then f32Inf neg else BitVec.ofNat 32 (fmtFp32.signed neg c)

/-- m · 2^e rounded to binary32 to nearest even, beyond the largest finite value that value, counted (R115, R178). -/
def sat32 (neg : Bool) (m : Nat) (e : Int) : Word × Bool :=
  let c := fmtFp32.magCode m e
  if fmtFp32.maxCode < c then (f32Max neg, true) else (BitVec.ofNat 32 (fmtFp32.signed neg c), false)

/-- The exact sum of two finite values as an integer times 2^e. -/
def sumExact (n1 : Bool) (m1 : Nat) (e1 : Int) (n2 : Bool) (m2 : Nat) (e2 : Int) : Int × Int :=
  let e := min e1 e2
  let a : Int := (m1 * 2 ^ (e1 - e).toNat : Nat)
  let b : Int := (m2 * 2 ^ (e2 - e).toNat : Nat)
  ((if n1 then -a else a) + (if n2 then -b else b), e)

/-- The sum of two values of binary32 before rounding: special results as codes, or the exact sum. -/
def addVal (a b : Val) : Val :=
  match a, b with
  | .nan, _ => .nan
  | _, .nan => .nan
  | .inf x, .inf y => if x = y then .inf x else .nan
  | .inf x, _ => .inf x
  | _, .inf y => .inf y
  | .fin n1 m1 e1, .fin n2 m2 e2 =>
    let s := sumExact n1 m1 e1 n2 m2 e2
    if s.1 = 0 then .fin (n1 && n2 && m1 = 0 && m2 = 0) 0 s.2 else .fin (decide (s.1 < 0)) s.1.natAbs s.2

/-- R176: the exact product of two values. -/
def mulVal (a b : Val) : Val :=
  match a, b with
  | .nan, _ => .nan
  | _, .nan => .nan
  | .inf x, .inf y => .inf (x ^^ y)
  | .inf x, .fin y m _ => if m = 0 then .nan else .inf (x ^^ y)
  | .fin x m _, .inf y => if m = 0 then .nan else .inf (x ^^ y)
  | .fin x m e, .fin y n f => .fin (x ^^ y) (m * n) (e + f)

/-- IEEE binary32 of an exact value; `nan` says which NaN is written. -/
def roundVal (nan : Word) : Val → Word
  | .nan => nan
  | .inf n => f32Inf n
  | .fin n m e => ieee32 n m e

/-- Of an exact value with saturation at the largest finite value. -/
def satVal : Val → Word × Bool
  | .nan => (f32Nan, false)
  | .inf n => (f32Inf n, false)
  | .fin n m e => sat32 n m e

/-- R115: add32, and whether it saturated. -/
def add32 (a b : Word) : Word × Bool := satVal (addVal (val32 a) (val32 b))

/-- R164: IEEE binary32 product with NaN results written as 0x7FC0_0000. -/
def mulIeee (a b : Word) : Word := roundVal f32Nan (mulVal (val32 a) (val32 b))
def addIeee (a b : Word) : Word := roundVal f32Nan (addVal (val32 a) (val32 b))
def negWord (a : Word) : Word := a ^^^ 0x80000000#32
def absWord (a : Word) : Word := a &&& 0x7FFFFFFF#32
def subIeee (a b : Word) : Word := addIeee a (negWord b)
def fmaVal (a b c : Word) : Val := addVal (mulVal (val32 a) (val32 b)) (val32 c)

/-- (m/d) · 2^e with one sticky bit below `k` bits of quotient. -/
def divSticky (m d k : Nat) (e : Int) : Nat × Int :=
  let q := (m <<< k) / d
  let r := (m <<< k) % d
  (2 * q + (if r = 0 then 0 else 1), e - k - 1)

/-- The exact quotient of two values, as far as rounding to binary32 can see it. -/
def divVal (a b : Val) : Val :=
  match a, b with
  | .nan, _ => .nan
  | _, .nan => .nan
  | .inf _, .inf _ => .nan
  | .inf x, .fin y _ _ => .inf (x ^^ y)
  | .fin x _ _, .inf y => .fin (x ^^ y) 0 0
  | .fin x m e, .fin y n f =>
    if n = 0 then (if m = 0 then .nan else .inf (x ^^ y))
    else
      let q := divSticky m n 64 (e - f)
      .fin (x ^^ y) q.1 q.2

def divIeee (a b : Word) : Word := roundVal f32Nan (divVal (val32 a) (val32 b))

/-- Integer square root, one bit after another from bit `k` down. -/
def isqrtFrom : Nat → Nat → Nat → Nat
  | 0, _, r => r
  | k + 1, n, r => isqrtFrom k n (if (r + 2 ^ k) * (r + 2 ^ k) ≤ n then r + 2 ^ k else r)

def isqrt (n : Nat) : Nat := isqrtFrom (bitLen n / 2 + 1) n 0

/-- The square root of m · 2^e with a sticky bit. -/
def sqrtSticky (m : Nat) (e : Int) : Nat × Int :=
  let k := if e % 2 = 0 then 128 else 129
  let n := m <<< k
  let r := isqrt n
  (2 * r + (if r * r = n then 0 else 1), (e - k) / 2 - 1)

def sqrtVal : Val → Val
  | .nan => .nan
  | .inf n => if n then .nan else .inf false
  | .fin n m e =>
    if m = 0 then .fin n 0 0
    else if n then .nan
    else
      let r := sqrtSticky m e
      .fin false r.1 r.2

def sqrtIeee (a : Word) : Word := roundVal f32Nan (sqrtVal (val32 a))

/-- Comparison of two numbers: none when one is a NaN. -/
def less32 (a b : Word) : Option Bool :=
  match addVal (val32 a) (val32 (negWord b)), val32 a, val32 b with
  | _, .nan, _ => none
  | _, _, .nan => none
  | _, .inf x, .inf y => some (x && !y)
  | .fin n m _, _, _ => some (n && m ≠ 0)
  | .inf n, _, _ => some n
  | .nan, _, _ => none

/-- Larger of two numbers, the first of equal ones. -/
def max32 (a b : Word) : Word := if less32 a b = some true then b else a
def min32 (a b : Word) : Word := if less32 b a = some true then b else a

/-! ### The wort line (R115) -/

def widen16 (c : Nat) : Word := BitVec.ofNat 32 (c % 65536 * 65536)

/-- R115: rounding to BF16, and whether it saturated. -/
def narrow16 (w : Word) : Nat × Bool :=
  match val32 w with
  | .nan => (0x7FC0, false)
  | .inf n => (fmtBf16.signed n 0x7F80, false)
  | .fin n m e =>
    let c := fmtBf16.magCode m e
    if fmtBf16.maxCode < c then (fmtBf16.signed n fmtBf16.maxCode, true) else (fmtBf16.signed n c, false)

/-! ### Block scales (R175, R181) -/

/-- The factor of two scale fields: overflow and underflow of the combined exponent beside it. -/
def scaleFactor (ea ew : Nat) : Val × Bool × Bool :=
  let t : Int := ((ea : Int) - 127) + ((ew : Int) - 127)
  if ea = 255 ∨ ew = 255 then (.nan, false, false)
  else if 127 < t then (val32 (f32Max false), true, false)
  else if t < -149 then (.fin false 0 0, false, true)
  else (.fin false 1 t, false, false)

/-! ### Pass groups (R177, R178, R200) -/

/-- ⌊log2 |p|⌋ of a non-zero finite product. -/
def log2Val (m : Nat) (e : Int) : Int := e + (bitLen m : Int) - 1

def isNegZero : Val → Bool
  | .fin n m _ => n && m == 0
  | _ => false

/-- R177 with a window of `win` positions below the leading bit: the exact group sum, not yet rounded. -/
def groupSum (win : Nat) (p : List Val) : Val :=
  if p.any (· == .nan) then .nan
  else if p.any (· == .inf false) && p.any (· == .inf true) then .nan
  else if p.any (· == .inf false) then .inf false
  else if p.any (· == .inf true) then .inf true
  else
    let nz := p.filterMap (fun v => match v with
      | .fin n m e => if m = 0 then none else some (n, m, e)
      | _ => none)
    match nz with
    | [] => .fin (p.all isNegZero) 0 0
    | x :: r =>
      let emax := r.foldl (fun a y => max a (log2Val y.2.1 y.2.2)) (log2Val x.2.1 x.2.2)
      let q := emax - win
      let kept : Bool × Nat × Int → Int := fun y =>
        let k : Nat := if q ≤ y.2.2 then y.2.1 * 2 ^ (y.2.2 - q).toNat else y.2.1 >>> (q - y.2.2).toNat
        if y.1 then -(k : Int) else (k : Int)
      let s := nz.foldl (fun a y => a + kept y) (0 : Int)
      if s = 0 then .fin false 0 0 else .fin (decide (s < 0)) s.natAbs q

/-- A subnormal result becomes +0 in the emulation of R200. -/
def flushSub (w : Word) : Word :=
  if (w &&& 0x7F800000#32) = 0#32 && (w &&& 0x007FFFFF#32) ≠ 0#32 then 0#32 else w

/-- R177, R178: the group sum in binary32 and whether it saturated. -/
def passGroup (p : List Val) : Word × Bool := satVal (groupSum 38 p)

/-- R200: the group sum of the emulation. -/
def passGroupEmu (p : List Val) : Word × Bool :=
  let r := satVal (groupSum 28 p)
  (flushSub r.1, r.2)

def add32z (a b : Word) : Word × Bool :=
  let r := add32 a b
  (flushSub r.1, r.2)

/-- R185: piece i of a finite binary32 operand, and R187 for the others: whole in pass (0, 0), +0 elsewhere. -/
def piece (w : Word) (i : Nat) : Val :=
  match val32 w with
  | .fin n m e => .fin n (if i = 0 then m / 65536 * 65536 else if i = 1 then m / 256 % 256 * 256 else m % 256) e
  | v => v

/-! ### Histogram (R198, Table 6.12) -/

def histBin (w : Word) : Nat :=
  if !finite32 w then 63
  else if isZero32 w then 0
  else
    let e : Int := (fld w.toNat 23 8 : Int) - 127
    if e < -30 then 1 else if 29 < e then 62 else (e + 32).toNat

end Sys2Proof.Machine
end

