-- ==== Sys2Proof/Machine/Float.lean ====
section
/-!
DEFINITION. The functions FRCP to FTANH of R212, correctly rounded: an exact result is rounded once, an irrational one
is computed in fixed point with 480 fraction bits and rounded with a sticky bit. PRESUMED (log entry 20): no binary32
operand brings one of these functions within 2^-200 of a rounding boundary without lying on it.
-/

namespace Sys2Proof.Machine

/-- Fraction bits of the fixed-point numbers below. -/
def fx : Nat := 480

/-- Sum of t^i / i! for i ≤ n, all in fixed point: `term` is the current term. -/
def expSeries : Nat → Nat → Nat → Nat → Nat → Nat
  | 0, _, _, _, acc => acc
  | n + 1, i, t, term, acc =>
    let term' := ((term * t) >>> fx) / i
    expSeries n (i + 1) t term' (acc + term')

/-- e^t for t in [0, 1]. -/
def fxExp (t : Nat) : Nat := expSeries 110 1 t (2 ^ fx) (2 ^ fx)

/-- Sum of z^(2i+1) / (2i+1): the inverse hyperbolic tangent of z in [0, 1/3]. -/
def atanhSeries : Nat → Nat → Nat → Nat → Nat → Nat
  | 0, _, _, _, acc => acc
  | n + 1, i, z2, pw, acc => atanhSeries n (i + 2) z2 ((pw * z2) >>> fx) (acc + pw / i)

def fxAtanh (z : Nat) : Nat := atanhSeries 160 1 ((z * z) >>> fx) z 0

/-- Natural logarithm of num/den in [1, 2]. -/
def fxLn (num den : Nat) : Nat := 2 * fxAtanh (((num - den) <<< fx) / (num + den))

def fxLn2 : Nat := fxLn 2 1

/-- 2^f for f in [0, 1). -/
def fxExp2 (f : Nat) : Nat := fxExp ((f * fxLn2) >>> fx)

/-- Alternating sum of x^(2i+1) / (2i+1), the arc tangent of 1/k (Machin). -/
def atanInvSeries : Nat → Nat → Nat → Int → Int → Nat → Int
  | 0, _, _, _, acc, _ => acc
  | n + 1, i, k2, sg, acc, pw => atanInvSeries n (i + 2) k2 (-sg) (acc + sg * ((pw / i : Nat) : Int)) (pw / k2)

/-- π in fixed point with 480 + 160 fraction bits, by Machin's formula. -/
def fxPi : Nat :=
  let one : Nat := 2 ^ (fx + 160)
  (16 * atanInvSeries 150 1 25 1 0 (one / 5) - 4 * atanInvSeries 60 1 57121 1 0 (one / 239)).toNat

/-- Alternating Taylor series: from term `term` = r^i/i!, adding every second one. -/
def trigSeries : Nat → Nat → Nat → Int → Nat → Int → Int
  | 0, _, _, _, _, acc => acc
  | n + 1, i, r2, sg, term, acc =>
    trigSeries n (i + 2) r2 (-sg) (((term * r2) >>> fx) / ((i + 1) * (i + 2))) (acc + sg * (term : Int))

def fxSin (r : Nat) : Nat := (trigSeries 80 1 ((r * r) >>> fx) 1 r 0).toNat
def fxCos (r : Nat) : Nat := (trigSeries 80 0 ((r * r) >>> fx) 1 (2 ^ fx) 0).toNat

/-- An irrational value v / 2^fx · 2^e as an exact one with a sticky bit. -/
def sticky (neg : Bool) (v : Nat) (e : Int) : Val := .fin neg (2 * v + 1) (e - fx - 1)

/-- Whether m · 2^e is an integer, and its floor with the fraction in fixed point. -/
def splitInt (m : Nat) (e : Int) : Nat × Nat :=
  if 0 ≤ e then (m * 2 ^ e.toNat, 0)
  else
    let k := (-e).toNat
    (m >>> k, (((m % 2 ^ k) <<< fx) >>> k))

/-- 2^x: exact at integers; an operand beyond ±256 gives the limit on its side. -/
def exp2Val : Val → Val
  | .nan => .nan
  | .inf n => if n then .fin false 0 0 else .inf false
  | .fin n m e =>
    if m = 0 then .fin false 1 0
    else if 9 < e + bitLen m then (if n then .fin false 1 (-400) else .inf false)
    else
      let s := splitInt m e
      if s.2 = 0 ∧ 0 ≤ e ∨ m % 2 ^ (-e).toNat = 0 then .fin false 1 (if n then -(s.1 : Int) else s.1)
      else if n then sticky false (fxExp2 (2 ^ fx - s.2)) (-(s.1 : Int) - 1)
      else sticky false (fxExp2 s.2) s.1

/-- log2 of a positive finite value: exact at powers of two. -/
def log2Fn (m : Nat) (e : Int) : Val :=
  let l := bitLen m
  let k : Int := e + l - 1
  if m = 2 ^ (l - 1) then intVal k
  else
    let f := ((fxLn m (2 ^ (l - 1))) <<< fx) / fxLn2
    let v : Int := k * 2 ^ fx + f
    sticky (decide (v < 0)) v.natAbs 0

/-- |x| modulo a quarter turn in fixed point, and the number of quarter turns modulo 4. -/
def quarter (m : Nat) (e : Int) : Nat × Nat :=
  let x := if 0 ≤ e + (fx + 160) then m * 2 ^ (e + (fx + 160)).toNat else m >>> (-(e + (fx + 160))).toNat
  let h := fxPi / 2
  ((x % h) >>> 160, x / h % 4)

def sinVal : Val → Val
  | .nan => .nan
  | .inf _ => .nan
  | .fin n m e =>
    if m = 0 then .fin n 0 0
    else
      let q := quarter m e
      sticky (n ^^ decide (2 ≤ q.2)) (if q.2 % 2 = 0 then fxSin q.1 else fxCos q.1) 0

def cosVal : Val → Val
  | .nan => .nan
  | .inf _ => .nan
  | .fin _ m e =>
    if m = 0 then .fin false 1 0
    else
      let q := quarter m e
      sticky (decide (q.2 = 1 ∨ q.2 = 2)) (if q.2 % 2 = 0 then fxCos q.1 else fxSin q.1) 0

/-- (1 - e^-2x) / (1 + e^-2x); beyond 16 the result lies within 2^-40 of 1. -/
def tanhVal : Val → Val
  | .nan => .nan
  | .inf n => .fin n 1 0
  | .fin n m e =>
    if m = 0 then .fin n 0 0
    else if 4 < e + bitLen m then sticky n (2 ^ fx - 2 ^ (fx - 40)) 0
    else if e + bitLen m < -60 then
      .fin n (m * 2 ^ 80 - 1) (e - 80)
    else
      let y := if 0 ≤ e + 1 + fx then m * 2 ^ (e + 1 + fx).toNat else m >>> (-(e + 1 + fx)).toNat
      let z := (y <<< fx) / fxLn2
      let k := z >>> fx
      let f := z % 2 ^ fx
      let t := if f = 0 then (2 ^ fx) >>> k else (fxExp2 (2 ^ fx - f)) >>> (k + 1)
      sticky n (((2 ^ fx - t) <<< fx) / (2 ^ fx + t)) 0

/-- FRCP: IEEE division of 1. -/
def rcpVal (v : Val) : Val := divVal (.fin false 1 0) v

/-- 1/√x of a positive finite value. -/
def rsqrtFin (m : Nat) (e : Int) : Val :=
  let k : Nat := if e % 2 = 0 then 400 else 401
  let r := isqrt (2 ^ k / m)
  .fin false (2 * r + (if r * r * m = 2 ^ k then 0 else 1)) ((-(e + k)) / 2 - 1)

end Sys2Proof.Machine
end

