-- ==== Sys2Proof/Machine/Epilogue.lean ====
section
/-!
DEFINITION. The arithmetic of the epilogue on one output: the activations of Table 5.13, correctly rounded (R165), the
reductions of Table 5.14 and the elementwise operations of Table 5.15. Irrational values are computed as in Float.lean.
-/

namespace Sys2Proof.Machine

/-- |x| = m · 2^e in fixed point, rounded down. -/
def fxOf (m : Nat) (e : Int) : Nat :=
  if 0 ≤ e + fx then m * 2 ^ (e + fx).toNat else m >>> (-(e + fx)).toNat

/-- e^-x in fixed point for a fixed-point x below 256. -/
def fxNegExp (x : Nat) : Nat :=
  let z := (x <<< fx) / fxLn2
  let f := z % 2 ^ fx
  if f = 0 then (2 ^ fx) >>> (z >>> fx) else (fxExp2 (2 ^ fx - f)) >>> ((z >>> fx) + 1)

/-- e^-|x| of a finite value, 2^-400 from 256 on. -/
def negExpOf (m : Nat) (e : Int) : Nat := if 8 < e + bitLen m then 2 ^ (fx - 400) else fxNegExp (fxOf m e)

/-- σ(x) = 1 / (1 + e^-x). -/
def sigmoidVal : Val → Val
  | .nan => .nan
  | .inf n => .fin false (if n then 0 else 1) 0
  | .fin n m e =>
    if m = 0 then .fin false 1 (-1)
    else
      let t := negExpOf m e
      sticky false (((if n then t else 2 ^ fx) <<< fx) / (2 ^ fx + t)) 0

/-- e^x. -/
def expVal : Val → Val
  | .nan => .nan
  | .inf n => if n then .fin false 0 0 else .inf false
  | .fin n m e =>
    if m = 0 then .fin false 1 0
    else if n then sticky false (negExpOf m e) 0
    else if 8 < e + bitLen m then .fin false 1 400
    else
      let z := ((fxOf m e) <<< fx) / fxLn2
      sticky false (fxExp2 (z % 2 ^ fx)) ((z >>> fx : Nat) : Int)

/-- The constants of Table 5.13 as the nearest binary32 values. -/
def geluC : Val := val32 0x3F4C422A#32
def geluK : Val := val32 0x3D372713#32

/-- u = c · (x + k · x³), exact. -/
def geluU (x : Val) : Val := mulVal geluC (addVal x (mulVal geluK (mulVal x (mulVal x x))))

def twice (v : Val) : Val := mulVal (.fin false 1 1) v

/-- 0.5 · v · (1 + tanh u) = v · σ(2u); the limits at the infinities. -/
def geluVal (v : Val) : Val :=
  match v with
  | .inf n => if n then .fin true 0 0 else .inf false
  | _ => mulVal v (sigmoidVal (twice (geluU v)))

/-- v · σ(v). -/
def siluVal (v : Val) : Val :=
  match v with
  | .inf n => if n then .fin true 0 0 else .inf false
  | _ => mulVal v (sigmoidVal v)

/-- Whether |x| is 256 or more. -/
def isLarge : Val → Bool
  | .fin _ m e => m ≠ 0 && decide (8 < e + bitLen m)
  | .inf _ => true
  | .nan => false

def signVal : Val → Bool
  | .fin n _ _ => n
  | .inf n => n
  | .nan => false

/-- A derivative far from the origin: 1 on the right, on the left a value too small to be seen. -/
def farSlope (neg : Bool) : Val := if neg then .fin true 1 (-400) else .fin false 1 0

/-- GELU′(a) = σ(2u) + 2·a·c·(1 + 3·k·a²)·σ(2u)·σ(−2u), by 1 − tanh²u = 4·σ(2u)·σ(−2u). -/
def geluSlope (a : Val) : Val :=
  match a with
  | .nan => .nan
  | .inf n => if n then .fin true 0 0 else .fin false 1 0
  | .fin n m e =>
    if isLarge (.fin n m e) then farSlope n
    else
      let x : Val := .fin n m e
      let p := sigmoidVal (twice (geluU x))
      let q := sigmoidVal (mulVal (.fin true 1 0) (twice (geluU x)))
      let k3 := mulVal (.fin false 3 0) (mulVal geluK (mulVal x x))
      addVal p (mulVal (mulVal (twice x) (mulVal geluC (addVal (.fin false 1 0) k3))) (mulVal p q))

/-- σ(a) · (1 + a · (1 − σ(a))). -/
def siluSlope (a : Val) : Val :=
  match a with
  | .nan => .nan
  | .inf n => if n then .fin true 0 0 else .fin false 1 0
  | .fin n m e =>
    if isLarge (.fin n m e) then farSlope n
    else
      let x : Val := .fin n m e
      mulVal (sigmoidVal x) (addVal (.fin false 1 0) (mulVal x (sigmoidVal (.fin (!n) m e))))

def isPos32 (w : Word) : Bool := !isNan32 w && !isZero32 w && !neg32 w

/-- R165: a NaN among the inputs of the formula. -/
def actNan (act : Nat) (v aux rb0 : Word) : Bool :=
  1 ≤ act && (isNan32 v || (act == 6 && isNan32 rb0) || (7 ≤ act && isNan32 aux))

/-- Table 5.13: the activation of v with aux and RB0[m]; a NaN input gives 0x7FC0_0000. -/
def activate (act : Nat) (v aux rb0 : Word) : Word :=
  if actNan act v aux rb0 then f32Nan
  else match act with
  | 1 => if isPos32 v then v else 0#32
  | 2 => roundVal f32Nan (geluVal (val32 v))
  | 3 => roundVal f32Nan (siluVal (val32 v))
  | 4 => roundVal f32Nan (sigmoidVal (val32 v))
  | 5 => roundVal f32Nan (tanhVal (val32 v))
  | 6 => roundVal f32Nan (expVal (val32 (subIeee v rb0)))
  | 7 => if isPos32 aux then v else 0#32
  | 8 => roundVal f32Nan (mulVal (val32 v) (geluSlope (val32 aux)))
  | 9 => roundVal f32Nan (mulVal (val32 v) (siluSlope (val32 aux)))
  | _ => v

/-- R166: the maximum, +0 above −0, NaN if an operand is NaN. -/
def redMax (a b : Word) : Word :=
  if isNan32 a || isNan32 b then f32Nan
  else if isZero32 a && isZero32 b then (if neg32 a then b else a)
  else max32 a b

/-- R166: the contribution of a row's values (v, aux) in ascending columns. DESIGN CHOICE: a sum starts from its first
term, so that a row of -0 alone gives -0 (log entry 124). -/
def reduceRow (red : Nat) (l : List (Word × Word)) (rscale : Word) : Word :=
  let term : Word × Word → Word := fun x =>
    if red = 2 then mulIeee x.1 x.1 else if red = 4 then mulIeee x.1 x.2 else x.1
  match l.map term with
  | [] => 0#32
  | x :: r =>
    if red = 3 then r.foldl redMax x else mulIeee (r.foldl addIeee x) rscale

/-- R166: the row buffer after a contribution. -/
def reduceInto (red : Nat) (acc : Bool) (old c : Word) : Word :=
  if !acc then c else if red = 3 then redMax old c else addIeee old c

/-- Table 5.15. -/
def elementwise (elem : Nat) (v aux rb rowv : Word) : Word :=
  match elem with
  | 1 => mulIeee v aux
  | 2 => addIeee v aux
  | 3 => mulIeee aux (subIeee v rb)
  | 4 => mulIeee rowv (subIeee v (mulIeee aux rb))
  | 5 => mulIeee v rowv
  | 6 => divIeee v rb
  | _ => v

end Sys2Proof.Machine
end

