-- ==== Sys2Proof/Machine/Commands.lean ====
section
/-!
DEFINITION. The commands of queues and how they end (R404, R405, R409), and the references that they hold on kernels and
timelines (R398).
-/

namespace Sys2Proof.Machine

/-! ### Queues and their commands -/

/-- The admin queue of a function among the queue numbers of `CmdRef`. -/
def adminQ : Nat := 16384

def queueKey (v q : Nat) : Nat := v * 16385 + q

/-- A queue; the admin queue of a function takes its ring from the admin block (Table 12.3). -/
def State.queueAt (s : State) (v q : Nat) : Option Queue :=
  if q = adminQ then
    let r := s.host.adminRing.get {} v
    some { s.host.queues.get {} (queueKey v q) with ring := r.base, z := r.size }
  else s.host.queues.find? (queueKey v q)

def State.putQueue (s : State) (v q : Nat) (x : Queue) : State :=
  { s with host.queues := s.host.queues.put (queueKey v q) x }

def State.cmd? (s : State) (r : CmdRef) : Option Cmd :=
  match s.queueAt r.v.val r.q.val with
  | some q => q.cmds.find? (fun c => c.n == r.n)
  | none => none

/-- Replace a command of a queue. -/
def State.putCmd (s : State) (r : CmdRef) (c : Cmd) : State :=
  match s.queueAt r.v.val r.q.val with
  | some q => s.putQueue r.v.val r.q.val { q with cmds := q.cmds.map (fun x => if x.n == r.n then c else x) }
  | none => s

def State.removeCmd (s : State) (r : CmdRef) : State :=
  match s.queueAt r.v.val r.q.val with
  | some q => s.putQueue r.v.val r.q.val { q with cmds := q.cmds.filter (fun x => x.n != r.n) }
  | none => s

/-- The context of a command of a context queue. -/
def State.cmdCtx (s : State) (r : CmdRef) : Nat :=
  match s.queueAt r.v.val r.q.val with
  | some q => ctxKey r.v.val q.ctx
  | none => 0

/-- The number of a queue as events and records name it; none for an admin queue. -/
def queueNumber (r : CmdRef) : Nat := if r.q.val = adminQ then noQueue else r.q.val

def Cmd.opcode (c : Cmd) : Nat := fld c.entry.toNat 0 8
/-- Operand bits lo + w - 1 : lo (operand bit b is entry bit 64 + b). -/
def Cmd.arg (c : Cmd) (lo w : Nat) : Nat := fld c.entry.toNat (64 + lo) w
def Cmd.flag (c : Cmd) (i : Nat) : Bool := bit c.entry.toNat i
def Cmd.waitEn (c : Cmd) : Bool := c.flag 16
def Cmd.sigEn (c : Cmd) : Bool := c.flag 17
def Cmd.cookie (c : Cmd) : Nat := fld c.entry.toNat 320 32
def Cmd.waitTl (c : Cmd) : Nat := fld c.entry.toNat 352 16
def Cmd.sigTl (c : Cmd) : Nat := fld c.entry.toNat 368 16
def Cmd.waitValue (c : Cmd) : Nat := fld c.entry.toNat 384 64
def Cmd.sigValue (c : Cmd) : Nat := fld c.entry.toNat 448 64
def Cmd.layer (c : Cmd) : Nat := fld c.entry.toNat 32 16
def Cmd.opId (c : Cmd) : Nat := fld c.entry.toNat 48 16

/-! ### References (R398, R399) -/

def State.takeKernel (s : State) (kk : Nat) : State :=
  match s.host.kernels.find? kk with
  | some k => { s with host.kernels := s.host.kernels.put kk { k with refs := k.refs + 1 } }
  | none => s

/-- A kernel without references is gone, and with it the reference on its code object (Table 12.6). -/
def State.settleKernel (s : State) (kk : Nat) (k : Kernel) : State :=
  if k.refs = 0 ∧ !k.hostRef then ({ s with host.kernels := s.host.kernels.erase kk } : State).dropObj k.obj
  else { s with host.kernels := s.host.kernels.put kk k }

def State.dropKernel (s : State) (kk : Nat) : State :=
  match s.host.kernels.find? kk with
  | some k => s.settleKernel kk { k with refs := k.refs - 1 }
  | none => s

def tlKey (v t : Nat) : Nat := v * 65536 + t

def State.takeTl (s : State) (tk : Nat) : State :=
  match s.host.timelines.find? tk with
  | some t => { s with host.timelines := s.host.timelines.put tk { t with refs := t.refs + 1 } }
  | none => s

def State.settleTl (s : State) (tk : Nat) (t : Timeline) : State :=
  if t.refs = 0 ∧ !t.hostRef then { s with host.timelines := s.host.timelines.erase tk }
  else { s with host.timelines := s.host.timelines.put tk t }

def State.dropTl (s : State) (tk : Nat) : State :=
  match s.host.timelines.find? tk with
  | some t => s.settleTl tk { t with refs := t.refs - 1 }
  | none => s

/-- The references of a command entry are dropped. -/
def State.dropRefs (s : State) (c : Cmd) : State :=
  let s := c.objs.foldl State.dropObj s
  let s := c.kernels.foldl State.dropKernel s
  c.timelines.foldl State.dropTl s

/-! ### How a command ends -/

/-- The effects of a command are performed: it completes with a status and a detail (R409). -/
def State.finish (s : State) (r : CmdRef) (status detail : Nat) : State :=
  match s.cmd? r with
  | some c => s.putCmd r { c with stage := .executed, busy := false, status := BitVec.ofNat 8 status,
                                  detail := BitVec.ofNat 39 detail }
  | none => s

/-- The command goes on until another event completes it. -/
def State.keepBusy (s : State) (r : CmdRef) : State :=
  match s.cmd? r with
  | some c => s.putCmd r { c with busy := true }
  | none => s

/-- R407: a queue that is being destroyed goes when its submitted commands have completed. -/
def State.settleQueue (s : State) (v q : Nat) : State :=
  match s.queueAt v q with
  | some x => match x.destroying with
    | some d =>
      if x.cmds.isEmpty then ({ s with host.queues := s.host.queues.erase (queueKey v q) } : State).finish d 0 0 else s
    | none => s
  | none => s

/-- R405: an illegal sequence has no effect, signals nothing and writes no event; the queue moves on. -/
def State.illegalCmd (s : State) (r : CmdRef) (reason : Nat) : State :=
  match s.cmd? r with
  | some c => (((s.illegal r.v.val c.cookie (queueNumber r) c.opcode reason).dropRefs c).removeCmd r).settleQueue r.v.val r.q.val
  | none => s

/-- A queue command acts when it has started and not yet acted. `body` has the entry and the context. -/
def runCmd (op : Nat) (r : CmdRef) (body : Cmd → Nat → State → State) (s : State) : Out :=
  match s.cmd? r with
  | none => .next s
  | some c =>
    if c.stage = .started ∧ c.opcode = op ∧ !c.busy then .next (body c (s.cmdCtx r) s) else .next s

end Sys2Proof.Machine
end

