-- ==== Sys2Proof/Machine/Operands.lean ====
section
/-!
DEFINITION. The operand forms: the fields of the instruction words of Tables 7.4, 8.2 and 8.5, the registers of a
thread group (Table 7.1), and addresses: the device page tables of R395 and R396 and bytes behind them.
-/

namespace Sys2Proof.Machine

/-! ### The instruction word, Table 7.4 -/

abbrev Instr64 := BitVec 64

def opcOf (w : Instr64) : Nat := (w.extractLsb' 56 8).toNat
def guardOf (w : Instr64) : Nat := (w.extractLsb' 53 3).toNat
def gnegOf (w : Instr64) : Bool := w.getLsbD 52
def dstOf (w : Instr64) : Nat := (w.extractLsb' 44 8).toNat
def srcAOf (w : Instr64) : Nat := (w.extractLsb' 36 8).toNat
def srcBOf (w : Instr64) : Nat := (w.extractLsb' 28 8).toNat
def srcCOf (w : Instr64) : Nat := (w.extractLsb' 20 8).toNat
def modOf (w : Instr64) : BitVec 2 := w.extractLsb' 16 2
/-- MOD[3]: SRCB names a u register. -/
def srcBUniform (w : Instr64) : Bool := w.getLsbD 19
/-- MOD[2]: IMM16 replaces SRCB. -/
def srcBImm (w : Instr64) : Bool := w.getLsbD 18
/-- IMM16 sign-extended to 32 bits. -/
def immOf (w : Instr64) : Word := (w.extractLsb' 0 16).signExtend 32
/-- The signed offset of a control instruction, in instructions. -/
def offsetOf (w : Instr64) : Int := (w.extractLsb' 0 28).toInt

/-! ### Registers of a group -/

def gidKey (g : Gid) : Nat := (g.cluster.val * 4 + g.core.val) * 16 + g.group.val

/-- gR of a lane. -/
def Group.reg (g : Group) (lane r : Nat) : Word := g.regs.get 0 (lane * 256 + r)
def Group.setReg (g : Group) (lane r : Nat) (v : Word) : Group := { g with regs := g.regs.set 0 (lane * 256 + r) v }

/-- pN over the lanes; p7 reads as 1. -/
def Group.pred (g : Group) (p : Nat) : Word := if p = 7 then 0xFFFFFFFF#32 else g.preds.get 0 p
/-- Writes of p7 are ignored. -/
def Group.setPred (g : Group) (p : Nat) (v : Word) : Group :=
  if p = 7 then g else { g with preds := g.preds.set 0 p v }

def Group.ureg (g : Group) (u : Nat) : Word := g.uregs.get 0 (u % 64)
def Group.setUreg (g : Group) (u : Nat) (v : Word) : Group := { g with uregs := g.uregs.set 0 (u % 64) v }

/-- R210: the threads in which an instruction acts. -/
def Group.acting (g : Group) (w : Instr64) : Word :=
  g.active &&& (if gnegOf w then ~~~ g.pred (guardOf w) else g.pred (guardOf w))

/-- The lanes of a mask in ascending order. -/
def lanesOf (m : Word) : List Nat := (List.range 32).filter (fun t => m.getLsbD t)

/-- The mask of some lanes. -/
def maskOf (l : List Nat) : Word := l.foldl (fun a t => a ||| (1#32 <<< t)) 0

/-- The lowest lane of a mask. -/
def lowest (m : Word) : Option Nat := (List.range 32).find? (fun t => m.getLsbD t)

/-- Write gR in the lanes of a mask. -/
def Group.setLanes (g : Group) (m : Word) (r : Nat) (f : Nat → Word) : Group :=
  (lanesOf m).foldl (fun a t => a.setReg t r (f t)) g

/-- Write pN in the lanes of a mask, the others unchanged. -/
def Group.setPredLanes (g : Group) (m : Word) (p : Nat) (v : Word) : Group :=
  g.setPred p ((g.pred p &&& ~~~ m) ||| (v &&& m))

/-- The second operand of a lane: IMM16, a u register or gB. -/
def Group.srcB (g : Group) (w : Instr64) (lane : Nat) : Word :=
  if srcBImm w then immOf w else if srcBUniform w then g.ureg (srcBOf w) else g.reg lane (srcBOf w)

/-- The general register that SRCB names, if it names one. -/
def srcBReg (w : Instr64) : List Nat := if srcBImm w || srcBUniform w then [] else [srcBOf w]

/-- R212: a uniform instruction is an integer or FP32 instruction with MOD[3] = 1 and DST naming a u register. -/
def isUniform (w : Instr64) : Bool := srcBUniform w && decide (opcOf w < 0x40) && Config.dstUniform w

/-- gA and gA+1 as a 64-bit address. -/
def Group.pair (g : Group) (lane r : Nat) : Nat := (g.reg lane r).toNat + 2 ^ 32 * (g.reg lane (r + 1)).toNat

/-! ### Addresses -/

/-- What an access does (DETAIL of Table 7.9). -/
inductive Acc where
  | load | store | atomic | fetch
deriving DecidableEq, Repr

def Acc.code : Acc → Nat
  | .load => 1
  | .store => 2
  | .atomic => 4
  | .fetch => 8

/-- Where a translated address lies: fast tier, host memory through CXL.cache (kind 2) or CXL.io (kind 3). -/
inductive Place where
  | fast (a : Nat)
  | host (a : Nat) (io : Bool)
deriving DecidableEq, Repr

/-- Why a translation fails, R396. -/
inductive Miss where
  | notMapped | permission
deriving DecidableEq, Repr

def Miss.cause : Miss → Nat
  | .notMapped => 0x10
  | .permission => 0x11

/-- Byte `o` of a memory object. -/
def MemObj.place (m : MemObj) (o : Nat) : Option Place :=
  match m.pages[o / m.pageBytes]? with
  | some p =>
    if m.kind < 2 then some (.fast (p + o % m.pageBytes)) else some (.host (p + o % m.pageBytes) (m.kind = 3))
  | none => none

def State.readPlace (s : State) (p : Place) (n : Nat) : Bytes :=
  match p with
  | .fast a => memRead s.mem.hbm a n
  | .host a _ => memRead s.mem.host a n

def State.writePlace (s : State) (p : Place) (bs : Bytes) : State :=
  match p with
  | .fast a => { s with mem.hbm := memWrite s.mem.hbm a bs }
  | .host a _ => { s with mem.host := memWrite s.mem.host a bs }

/-- An entry of the page tables of a context, Table 12.5: 0 (invalid) beyond the page-table object. -/
def State.ptEntry (s : State) (pt : MemObj) (o : Nat) : Nat :=
  match pt.place o with
  | some p => leNat (s.readPlace p 8)
  | none => 0

/-- R396: the page that a TYPE 2 entry names, for an address with offset `off` in it. -/
def State.ptPage (s : State) (k e : Nat) (big : Bool) (off : Nat) (a : Acc) : Except Miss Place :=
  match s.host.objects.find? (objKey k (fld e 40 16)) with
  | none => .error .notMapped
  | some m =>
    if m.gen.toNat ≠ fld e 32 8 ∨ m.big ≠ big then .error .notMapped
    else match m.place (fld e 12 20 * m.pageBytes + off) with
      | none => .error .notMapped
      | some p =>
        let ok := match a with
          | .load => bit e 4
          | .store => bit e 5
          | .atomic => bit e 6
          | .fetch => bit e 7
        if ok then .ok p else .error .permission

/-- R395: translation of a 48-bit device virtual address in three levels. -/
def State.translate (s : State) (k va : Nat) (a : Acc) : Except Miss Place :=
  match s.ctx? k with
  | none => .error .notMapped
  | some c =>
    match s.host.objects.find? c.pt with
    | none => .error .notMapped
    | some pt =>
      let e2 := s.ptEntry pt (8 * fld va 30 18)
      if fld e2 0 2 ≠ 1 ∨ pt.bytes < fld e2 12 20 * 256 + 4096 then .error .notMapped
      else
        let e1 := s.ptEntry pt (fld e2 12 20 * 256 + 8 * fld va 21 9)
        if fld e1 0 2 = 2 then s.ptPage k e1 true (fld va 0 21) a
        else if fld e1 0 2 ≠ 1 ∨ pt.bytes < fld e1 12 20 * 256 + 256 then .error .notMapped
        else
          let e0 := s.ptEntry pt (fld e1 12 20 * 256 + 8 * fld va 16 5)
          if fld e0 0 2 = 2 then s.ptPage k e0 false (fld va 0 16) a else .error .notMapped

/-- The object that an address lies in (for references and ranges), with the object's key and the offset. -/
def State.objectAt (s : State) (k va : Nat) : Option (Nat × Nat) :=
  match s.ctx? k with
  | none => none
  | some c =>
    match s.host.objects.find? c.pt with
    | none => none
    | some pt =>
      let e2 := s.ptEntry pt (8 * fld va 30 18)
      let e1 := s.ptEntry pt (fld e2 12 20 * 256 + 8 * fld va 21 9)
      let e0 := s.ptEntry pt (fld e1 12 20 * 256 + 8 * fld va 16 5)
      let big : Bool := fld e1 0 2 = 2
      let e := if big then e1 else e0
      match s.translate k va .load with
      | .error .notMapped => none
      | _ => some (objKey k (fld e 40 16), fld e 12 20 * (if big then 2097152 else 65536)
          + (if big then fld va 0 21 else fld va 0 16))

/-- Split `n` bytes from `va` where 64 KiB pages meet: at most `fuel` pieces. -/
def pieces : Nat → Nat → Nat → List (Nat × Nat)
  | 0, _, _ => []
  | fuel + 1, va, n =>
    if n = 0 then []
    else
      let l := min n (65536 - va % 65536)
      (va, l) :: pieces fuel (va + l) (n - l)

def piecesOf (va n : Nat) : List (Nat × Nat) := pieces (n / 65536 + 2) va n

/-- The first piece of a virtual range that an access may not touch, with its reason. -/
def State.rangeMiss (s : State) (k va n : Nat) (a : Acc) : Option (Nat × Miss) :=
  (piecesOf va n).findSome? (fun p => match s.translate k p.1 a with
    | .ok _ => none
    | .error m => some (p.1, m))

/-- Bytes of a virtual range; unmapped pieces read 0 (the caller checks `rangeMiss`). -/
def State.readVirt (s : State) (k va n : Nat) (a : Acc := .load) : Bytes :=
  (piecesOf va n).flatMap (fun p => match s.translate k p.1 a with
    | .ok pl => s.readPlace pl p.2
    | .error _ => List.replicate p.2 0)

/-- Store bytes in a virtual range, piece after piece. -/
def State.writeVirt (s : State) (k va : Nat) (bs : Bytes) : State :=
  ((piecesOf va bs.length).foldl (fun (a : State × Bytes) p => match s.translate k p.1 .store with
    | .ok pl => (a.1.writePlace pl (a.2.take p.2), a.2.drop p.2)
    | .error _ => (a.1, a.2.drop p.2)) (s, bs)).1

/-- Every byte of a virtual range lies in one memory object: its key and the offset of the first byte. -/
def State.oneObject (s : State) (k va n : Nat) : Option (Nat × Nat) :=
  match s.objectAt k va with
  | none => none
  | some o => if (piecesOf va n).all (fun p => s.objectAt k p.1 == some (o.1, o.2 + (p.1 - va))) then some o else none

/-! ### The cluster store -/

def storeAddr (cluster o : Nat) : Nat := cluster * 4194304 + o % 4194304

def State.storeRead (s : State) (cluster o n : Nat) : Bytes :=
  (List.range n).map (fun i => memGet s.mem.store (storeAddr cluster (o + i)))

def State.storeWrite (s : State) (cluster : Nat) : Nat → Bytes → State
  | _, [] => s
  | o, b :: r => State.storeWrite { s with mem.store := memSet s.mem.store (storeAddr cluster o) b } cluster (o + 1) r

/-- R281: bytes of the scratch area under a layout word. -/
def scratchBytes (layout : Word) : Nat :=
  4194304 - fld layout.toNat 4 4 * 262144 - fld layout.toNat 8 4 * 65536

/-- R281: the shadow area in bytes, and its entries (R271). -/
def shadowEntries (layout : Word) : Nat := fld layout.toNat 8 4 * 65536 / 80

def State.layoutOf (s : State) (k : Nat) : Word := ((s.ctx? k).map (·.layout)).getD 0

end Sys2Proof.Machine
end

