-- ==== Sys2Proof/Machine/Groups.lean ====
section
/-!
DEFINITION. Thread groups as the cores run them: finding and storing a group, parking with a fault record (R230 to R232),
the frame of every instruction (fetch, REG_RANGE, guard; R203, R209 to R211), and the self-wait detector (R240).
-/

namespace Sys2Proof.Machine

def State.group? (s : State) (gk : Nat) : Option Group := s.groups.find? gk
def State.putGroup (s : State) (gk : Nat) (g : Group) : State := { s with groups := s.groups.put gk g }

def coreKeyOf (gk : Nat) : Nat := gk / 16
def clusterKeyOf (gk : Nat) : Nat := gk / 64
def dieOfCluster (c : Nat) : Nat := c / 136

def State.core (s : State) (ck : Nat) : Core := s.cores.get {} ck
def State.putCore (s : State) (ck : Nat) (c : Core) : State := { s with cores := s.cores.put ck c }
def State.cluster (s : State) (c : Nat) : Cluster := s.clusters.get {} c
def State.putCluster (s : State) (c : Nat) (x : Cluster) : State := { s with clusters := s.clusters.put c x }

def State.launch? (s : State) (l : Nat) : Option Launch := s.host.launches.find? l

/-- R495: the die cycle counter. -/
def State.dieCycles (s : State) (d : Nat) : Nat := s.clock.dieAcc.get 0 d / 6400

/-- R12: the number of a cluster in the view of its virtual interface: logical for a virtual function; for the physical
function the die in bits 10:8 and the position in bits 7:0. -/
def State.clusterView (s : State) (v cl : Nat) : Nat :=
  if v = 0 then cl / 136 * 256 + cl % 136
  else ((List.range (s.clusterCount v)).find? (fun i => s.clusterOf v i == some cl)).getD 0

/-! ### Fault records -/

/-- The fields of Table 7.8 at parking. -/
def State.mkFault (s : State) (gk : Nat) (g : Group) (f : FaultInfo) (seq : BitVec 16) : FaultRec :=
  { info := f, seq := seq, time := BitVec.ofNat 64 s.now, pace := BitVec.ofNat 64 s.pace, active := g.active,
    pc := g.pc, layer := ((s.launch? g.launch).map (·.layer)).getD 0, op := ((s.launch? g.launch).map (·.op)).getD 0,
    ctx := g.ctx, gid := gk, mdepth := g.stack.length, mxCount := g.removed.length, instr := g.instr }

/-- The bytes of a fault record, Table 7.8. -/
def State.faultBytes (s : State) (r : FaultRec) : Bytes :=
  leBytes 64 (packFields [(64, r.instr.toNat), (12, 0), (4, r.mxCount), (32, r.info.detail.toNat), (16, r.seq.toNat),
    (8, r.info.cause.toNat), (4, 0), (1, if r.info.async then 1 else 0), (6, r.mdepth), (4, r.gid % 16),
    (2, r.gid / 16 % 4), (11, s.clusterView (ctxVi r.ctx) (clusterKeyOf r.gid)), (12, r.ctx % 4096), (16, r.op.toNat),
    (16, r.layer.toNat), (48, r.pc.toNat), (32, r.active.toNat), (32, r.info.lanes.toNat), (64, r.info.addr.toNat),
    (64, r.pace.toNat), (64, r.time.toNat)])

/-- The record enters the fault ring, and its event is posted (R232, Table 12.15). -/
def State.enterFault (s : State) (c : Ctx) (r : FaultRec) : State :=
  let s := s.hostWrite (c.flt.next 64) (s.faultBytes r)
  let s := s.putCtx r.ctx { c with flt := { c.flt with written := c.flt.written + 1 } }
  let s := s.ringVector r.ctx (·.flt) (fun c r => { c with flt := r })
  let cookie := ((s.group? r.gid).bind (fun g => s.launch? g.launch)).map (·.cookie.toNat)
  s.event r.ctx (mkEvent (cookie.getD 0) r.info.cause.toNat noQueue 2 r.seq.toNat)

/-- Write a record, or let it wait in the pending-fault slot while the ring is full (counted in 60.102); records of a
context enter in the order of parking. -/
def State.writeFault (s : State) (r : FaultRec) : State :=
  match s.ctx? r.ctx with
  | some c =>
    if c.faultWait.isEmpty && !c.flt.full then s.enterFault c r
    else (s.putCtx r.ctx { c with faultWait := c.faultWait ++ [r] }).bump 0x60102 (ctxVi r.ctx)
  | none => s

/-- Records that wait enter as a head-doorbell write makes room (R415). -/
def State.drainFaults : Nat → Nat → State → State
  | 0, _, s => s
  | n + 1, k, s =>
    match s.ctx? k with
    | none => s
    | some c =>
      match c.faultWait with
      | [] => s
      | r :: rest => if c.flt.full then s else State.drainFaults n k (s.enterFault { c with faultWait := rest } r)

/-- The next SEQ of a context. -/
def State.nextFaultSeq (s : State) (k : Nat) : BitVec 16 := ((s.ctx? k).map (·.faultSeq)).getD 0

/-- R237: a pending replay of a parked group that can no longer act is ignored and counted as an illegal sequence. -/
def State.ignoreReplay (s : State) (g : Group) : State :=
  match g.status, g.replay with
  | .parked, some x => s.illegalCmd x.2 5
  | _, _ => s

/-- R230, R232: the group parks with a record; a group already parked keeps its place and gets a further record. -/
def State.park (s : State) (gk : Nat) (f : FaultInfo) : State :=
  match s.group? gk with
  | none => s
  | some g =>
    let seq := s.nextFaultSeq g.ctx
    let r := s.mkFault gk g f seq
    let elapsed := if g.status = .parked then g.selfWait.start
      else s.dieCycles (dieOfCluster (clusterKeyOf gk)) - g.selfWait.start
    let sw : SelfWait := { g.selfWait with start := elapsed }
    let s := s.putGroup gk { g with status := .parked, record := some r, selfWait := sw, replay := none }
    let s := (s.ignoreReplay g).onCtx g.ctx (fun c => { c with faultSeq := seq + 1 })
    s.writeFault r

def mkFaultInfo (cause : Nat) (detail addr : Nat) (lanes : Word) (async : Bool := false) : FaultInfo :=
  { cause := BitVec.ofNat 8 cause, detail := BitVec.ofNat 32 detail, addr := BitVec.ofNat 64 addr, lanes := lanes,
    async := async }

/-- R231: the first of some asynchronous faults parks the group; each further one writes a further record. -/
def State.parkAll (s : State) (gk : Nat) (l : List FaultInfo) : State := l.foldl (fun t f => t.park gk f) s

/-- INSTR of Table 7.8 for a group that parks between two instructions: the word that code memory holds at PC. A group
that stalls has that word already. -/
def State.wordAtPc (s : State) (g : Group) : Group :=
  if g.status = .running then { g with instr := BitVec.ofNat 64 (leNat (s.readVirt g.ctx g.pc.toNat 8 .fetch)) } else g

/-- The group has no asynchronous fault left to record. -/
def State.takeAsync (s : State) (gk : Nat) (g : Group) : State :=
  (s.putGroup gk { s.wordAtPc g with async := [] }).parkAll gk g.async

/-! ### The self-wait detector, R240 -/

/-- The counter of the detector: die cycles since it armed; while the group is parked `start` holds the count itself. -/
def State.selfWaitCount (s : State) (gk : Nat) (g : Group) : Nat :=
  if !g.selfWait.armed then 0
  else if g.status = .parked then g.selfWait.start
  else s.dieCycles (dieOfCluster (clusterKeyOf gk)) - g.selfWait.start

def Group.disarm (g : Group) : Group := { g with selfWait := {} }

def State.armSelfWait (s : State) (gk : Nat) (g : Group) (addr : Nat) : Group :=
  if g.selfWait.armed then { g with selfWait.addr := BitVec.ofNat 32 addr }
  else { g with selfWait := ⟨true, s.dieCycles (dieOfCluster (clusterKeyOf gk)), none, 0, BitVec.ofNat 32 addr⟩ }

/-- 4,096 instructions in a row without a backward branch to the loop target disarm it. -/
def Group.countInstr (g : Group) : Group :=
  if g.selfWait.armed then
    (if 4096 ≤ g.selfWait.since + 1 then g.disarm else { g with selfWait.since := g.selfWait.since + 1 })
  else g

/-- A backward branch: the first one after arming is the loop target; another target disarms. -/
def Group.backBranch (g : Group) (target : BitVec 48) : Group :=
  if g.selfWait.armed then
    match g.selfWait.loop with
    | none => { g with selfWait.loop := some target, selfWait.since := 0 }
    | some t => if t = target then { g with selfWait.since := 0 } else g.disarm
  else g

/-! ### The frame of an instruction -/

/-- What an instruction does: go on at PC + 8, go on elsewhere, stall at the same PC, or fault precisely; `faultAt` is a
fault whose discovery has left a trace (a sector marked poisoned). -/
inductive Res where
  | next (s : State) (g : Group)
  | goto (s : State) (g : Group) (pc : BitVec 48)
  | hold (s : State) (g : Group)
  | fault (f : FaultInfo)
  | faultAt (s : State) (f : FaultInfo)

/-- Code address key of an instruction sector held by L0I: the context's virtual 256-byte sector. -/
def codeSector (ctx : Nat) (pc : BitVec 48) : Nat := ctx * 2 ^ 40 + pc.toNat / 256

/-- R396 on the fetch, unless the L0 instruction cache holds the sector (R241). -/
def State.fetchFault (s : State) (gk : Nat) (g : Group) : Option FaultInfo :=
  if (s.core (coreKeyOf gk)).l0i.contains (codeSector g.ctx g.pc) then none
  else match s.translate g.ctx g.pc.toNat .fetch with
    | .ok _ => none
    | .error m => some (mkFaultInfo m.cause 8 g.pc.toNat g.active)

/-- A sector of code enters the L0 instruction cache of 64 KiB, or is used again; the one used least recently of 256 leaves (R13,
log entry 27). -/
def l0iFill (l : List Nat) (k : Nat) : List Nat :=
  let l' := l.filter (· != k) ++ [k]
  if 256 < l'.length then l'.tail else l'

/-- The fetched sector enters the L0 instruction cache. -/
def State.fetched (s : State) (gk : Nat) (g : Group) : State :=
  let c := s.core (coreKeyOf gk)
  s.putCore (coreKeyOf gk) { c with l0i := l0iFill c.l0i (codeSector g.ctx g.pc) }

/-- R203: the first named general register at or above n. -/
def regRange (g : Group) (regs : List Nat) : Option Nat := regs.find? (fun r => g.nreg ≤ r)

/-- A cluster whose clock runs and which is present issues instructions. -/
def State.issues (s : State) (gk : Nat) (g : Group) : Bool :=
  g.status == .running && g.async.isEmpty && !(s.health.absent.contains (clusterKeyOf gk))
    && !(s.power.stopped.contains (dieOfCluster (clusterKeyOf gk)))

/-- Store what an instruction did. -/
def Res.finish (gk : Nat) (s : State) : Res → State
  | .next t g => t.putGroup gk { g.countInstr with pc := g.pc + 8 }
  | .goto t g pc => t.putGroup gk { (if pc ≤ g.pc then g.backBranch pc else g.countInstr) with pc := pc }
  | .hold t g => t.putGroup gk g
  | .fault f => s.park gk f
  | .faultAt t f => t.park gk f

/-- Every thread instruction: it issues only in a running group; fetch, decode and REG_RANGE come first; what follows is
`body` of the group with the word latched. -/
def runWord (gid : Gid) (w : Instr64) (regs : List Nat) (body : Group → State → Res) (s : State) : Out :=
  match s.group? (gidKey gid) with
  | none => .next s
  | some g0 =>
    if s.issues (gidKey gid) g0 then
      let g := { g0 with instr := w }
      match s.fetchFault (gidKey gid) g with
      | some f => .next ((s.putGroup (gidKey gid) g).park (gidKey gid) f)
      | none =>
        let t := (s.fetched (gidKey gid) g).putGroup (gidKey gid) g
        match regRange g regs with
        | some r => .next (t.park (gidKey gid) (mkFaultInfo 0x02 r 0 g.active))
        | none => .next ((body g t).finish (gidKey gid) t)
    else .next s

/-- R211: a core runs a word as the instruction of its OPC: a word of another opcode is not this instruction. -/
def runInstr (opc : Nat) (gid : Gid) (w : Instr64) (regs : List Nat) (body : Group → State → Res) (s : State) : Out :=
  if opcOf w = opc then runWord gid w regs body s else .next s

/-- R210: an instruction that is no control instruction passes without effect while A = 0. -/
def whenActive (g : Group) (s : State) (r : Res) : Res := if g.active = 0#32 then .next s g else r

def illegalOp (w : Instr64) (g : Group) : FaultInfo := mkFaultInfo 0x01 (opcOf w) 0 g.active

end Sys2Proof.Machine
end

