-- ==== Sys2Proof/Machine/FabricOps.lean ====
section
/-!
DEFINITION. The fabric as its source, its routers and its destination see it: routes (R373 to R375), frames on a port
(R371, R377), the issue of requests (R360, R365, R378, R381), their answers (R380, R383), and the checks of a
destination (R362, R376).
-/

namespace Sys2Proof.Machine

def State.port (s : State) (p : Nat) : Port := s.fab.ports.get {} p
def State.putPort (s : State) (p : Nat) (x : Port) : State := { s with fab.ports := s.fab.ports.set {} p x }

def Port.up (p : Port) : Bool := p.state = 2 || p.state = 3

/-- Own node number, 50.001. -/
def State.node (s : State) : Nat := s.obj 0x50001 0

/-- A byte of the topology object 50.030 (Table 11.12). -/
def State.topo (s : State) (i : Nat) : Nat := fld (s.obj 0x50030 0) (8 * i) 8

/-- Nodes of the topology. -/
def State.topoNodes (s : State) : Nat :=
  if s.topo 0 = 0 then s.topo 7
  else (List.range (s.topo 1)).foldl (fun a i => a * s.topo (2 + i)) 1

/-- B: ports of a bundle. -/
def State.bundleSize (s : State) : Nat := if s.topo 0 = 0 then 32 / (s.topo 7 - 1) else s.topo 6

/-- The ports that the topology uses. -/
def State.topoPorts (s : State) : Nat :=
  if s.topo 0 = 0 then (s.topo 7 - 1) * s.bundleSize else 2 * s.topo 1 * s.topo 6

def State.bundlePorts (s : State) (b : Nat) : List Nat :=
  (List.range s.bundleSize).map (fun i => s.bundleSize * b + i)

def State.livePorts (s : State) (b : Nat) : List Nat := (s.bundlePorts b).filter (fun p => (s.port p).up)

/-- Coordinate of a node in dimension `i`. -/
def State.coord (s : State) (n i : Nat) : Nat :=
  (n / (List.range i).foldl (fun a j => a * s.topo (2 + j)) 1) % s.topo (2 + i)

/-- R374: the first dimension in which own node and destination differ. -/
def State.nextDim (s : State) (dst : Nat) : Option Nat :=
  (List.range (s.topo 1)).find? (fun i => s.coord s.node i ≠ s.coord dst i)

/-- R374: + when the way up is not longer (a wrapped ring) or the destination lies above (an unwrapped one). -/
def State.goesUp (s : State) (dst i : Nat) : Bool :=
  let a := s.coord s.node i
  let b := s.coord dst i
  let n := s.topo (2 + i)
  if bit (s.topo 5) i then (b + n - a) % n ≤ (a + n - b) % n else a < b

/-- A route of one hop: the bundle, whether DETOUR is set from here on, and whether the hop crosses the dateline. -/
structure Hop where
  bundle : Nat
  detour : Bool
  wraps : Bool
deriving DecidableEq, Repr

/-- R374, R375: the bundle for a packet to `dst`, or none without a route. `dir`: the direction that it keeps in a
dimension. -/
def State.routeHop (s : State) (dst : Nat) (detour : Bool) (dir : Option (Nat × Bool)) : Option Hop :=
  if s.topo 0 = 0 then
    let m := s.topo 7
    let j := (dst + m - s.node % m - 1) % m
    if m < 2 ∨ m ≤ dst ∨ (s.livePorts j).isEmpty then none else some ⟨j, detour, false⟩
  else
    match s.nextDim dst with
    | none => none
    | some i =>
      let wrap := bit (s.topo 5) i
      let n := s.topo (2 + i)
      let a := s.coord s.node i
      let crosses : Bool → Bool := fun up => wrap && (if up then a + 1 == n else a == 0)
      let kept : Option Bool := if detour then (dir.filter (fun d => d.1 == i)).map (·.2) else none
      let up := kept.getD (s.goesUp dst i)
      let bundle : Bool → Nat := fun u => if u then 2 * i else 2 * i + 1
      if !(s.livePorts (bundle up)).isEmpty then some ⟨bundle up, detour, crosses up⟩
      else if wrap && !detour && !(s.livePorts (bundle (!up))).isEmpty then some ⟨bundle (!up), true, crosses (!up)⟩
      else none

/-- The direction in which a bundle of a torus or mesh leads: its dimension, and whether it is +. -/
def bundleDir (b : Nat) : Nat × Bool := (b / 2, b % 2 == 0)

/-- The direction in which a packet that came in at a port is going. -/
def State.arrivedDir (s : State) (port : Nat) : Nat × Bool :=
  let b := port / max s.bundleSize 1
  (b / 2, b % 2 == 1)

/-- The live port of a bundle that a flow uses (R374). -/
def State.flowPort (s : State) (b : Nat) (p : Packet) : Option Nat :=
  let l := s.livePorts b
  if l.isEmpty then none else l[(p.src.toNat + p.dst.toNat + p.cls.toNat) % l.length]?

/-- Requests are types 0x01 to 0x05 and the reserved types that a destination answers (Table 11.7). -/
def isRequest (p : Packet) : Bool :=
  (1 ≤ p.type.toNat && p.type.toNat ≤ 5) || 0x0A ≤ p.type.toNat

def sameFlow (p q : Packet) : Bool :=
  p.src == q.src && p.dst == q.dst && p.cls == q.cls && isRequest p == isRequest q

/-- R377: the virtual channel of a packet on a hop. -/
def vcOf (p : Packet) (wraps : Bool) : Nat :=
  if p.type.toNat = 9 then 5
  else if isRequest p then (if wraps || p.vc.toNat = 6 then 6 else p.cls.toNat)
  else if wraps || p.vc.toNat = 7 then 7 else 4

/-! ### The bytes of a packet (R367) -/

/-- Header bits 223:0 of Table 11.6. -/
def packetHeader (p : Packet) : Nat :=
  packFields [(4, 0), (6, p.len.toNat), (2, p.cls.toNat), (8, p.epoch.toNat), (16, p.seq.toNat), (16, p.job.toNat),
    (14, p.src.toNat), (14, p.dst.toNat), (48, p.offset.toNat), (64, p.key.toNat), (8, p.type.toNat), (8, p.incarn.toNat),
    (1, if p.detour then 1 else 0), (3, p.vc.toNat), (12, p.lseq.toNat)]

/-- CRC, header bits 255:224: CRC-32C over header bits 223:0 and the payload, the least significant byte first. -/
def packetCrc (p : Packet) : BitVec 32 := crc32c (leBytes 28 (packetHeader p) ++ p.payload)

/-- Blocks of 32 bytes of a packet's frame: 1 to 9 (Table 11.8). -/
def frameBlocks (p : Packet) : Nat := (32 + p.payload.length + 31) / 32

/-- A payload is a whole number of units of 8 bytes. -/
def padUnits (bs : Bytes) : Bytes := bs ++ List.replicate ((8 - bs.length % 8) % 8) 0

/-- A frame leaves a port: numbered with LSEQ and kept in the replay buffer (R371). -/
def State.txFrame (s : State) (port : Nat) (m : Moving) : State :=
  let x := s.port port
  let units : Int := (frameBlocks m.pkt : Nat)
  let vc := m.pkt.vc.toNat
  let x' : Port := { x with replay := x.replay ++ [{ m with pkt := { m.pkt with lseq := x.txSeq } }], txSeq := x.txSeq + 1,
                            credits := x.credits.set 0 vc (x.credits.get 0 vc - units) }
  (s.putPort port x').bump 0x50100 port

/-- The type of the response to a request type (R380, Table 11.7). -/
def responseType (type : Nat) : BitVec 8 := if type = 1 then 6 else if type = 4 ∨ type = 5 then 8 else 7

/-- A response of the router: status UNREACHABLE for a request without a route (R374), with the credit of the request
(R378). -/
def unreachable (p : Packet) : Packet :=
  { incarn := p.incarn, type := responseType p.type.toNat, key := 0x108#64, dst := p.src, src := p.dst, seq := p.seq,
    epoch := p.epoch, cls := p.cls }

/-- Frames that a replay buffer holds (R371). -/
def replayFrames : Nat := 1024

/-- Put a packet on its way: over a port, into the queue of those that wait for the old port of their flow (R375) or for
room in the replay buffer (R371), delivered to this node by the loop of IOD0 (R358), or answered UNREACHABLE. `fuel`
bounds the answer to an answer. -/
def State.sendPacket : Nat → Moving → State → State
  | 0, _, s => s
  | fuel + 1, m, s =>
    let p := m.pkt
    if p.dst.toNat = s.node then { s with fab.sent := s.fab.sent ++ [p] }
    else
      match s.routeHop p.dst.toNat p.detour m.dir with
      | none =>
        if isRequest p then State.sendPacket fuel { pkt := unreachable p } (s.bump 0x50114 0) else s.bump 0x50114 0
      | some h =>
        match s.flowPort h.bundle p with
        | none => s
        | some port =>
          let dir := if h.detour && s.topo 0 != 0 then some (bundleDir h.bundle) else none
          let elsewhere := s.fab.ports.any (fun x => x.1 ≠ port && x.2.replay.any (fun f => sameFlow p f.pkt))
          let behind := s.fab.delayed.any (fun f => sameFlow p f.pkt)
          if elsewhere || behind || decide (replayFrames ≤ (s.port port).replay.length) then
            { s with fab.delayed := s.fab.delayed ++ [{ m with pkt := { p with detour := h.detour }, dir := dir }] }
          else
            let vc := BitVec.ofNat 3 (vcOf { p with vc := m.vcIn } h.wraps)
            s.txFrame port { m with pkt := { p with detour := h.detour, vc := vc }, dir := dir }

def State.send (s : State) (p : Packet) : State := State.sendPacket 2 { pkt := p } s

/-- Packets sent anew, in this order. -/
def State.sendAll (s : State) (l : List Moving) : State := l.foldl (fun t m => State.sendPacket 2 m t) s

/-- Packets that waited leave when the old port of their flow has acknowledged and there is room (R375). -/
def State.releaseDelayed (s : State) : State := ({ s with fab.delayed := [] } : State).sendAll s.fab.delayed

/-! ### The source -/

/-- R357: the form of a global address. -/
inductive GForm where
  | local (va : Nat)
  | fabric (node window offset : Nat)
  | reserved
deriving DecidableEq, Repr

def gform (a : Nat) : GForm :=
  if a / 2 ^ 48 = 0 then .local a
  else if fld a 62 2 = 2 then .fabric (fld a 48 14) (fld a 36 12) (fld a 0 36)
  else .reserved

/-- Entry `w` of the sender key table of a context (R360). -/
def State.keyEntry (s : State) (k w : Nat) : KeyEntry :=
  match s.ctx? k with
  | some c => c.keys.get { key := 0, cls := 0, valid := false } w
  | none => { key := 0, cls := 0, valid := false }

/-- R359: the fabric carries requests. -/
def State.carriesRequests (s : State) : Bool := s.obj 0x50000 0 == 2 || s.obj 0x50000 0 == 3

/-- R360, R359, R384: why a request through a window cannot be issued: DETAIL of FAB_ADDR. -/
def State.fabAddrFault (s : State) (k window : Nat) : Option Nat :=
  let e := s.keyEntry k window
  if !e.valid then some (1 + window * 65536)
  else if s.obj 0x50020 (ctxVi k) = 0 then some (2 + window * 65536)
  else if !s.carriesRequests then some (3 + window * 65536)
  else none

/-- Beats of the fabric egress ports since start-up: two to a cycle of 1.5625 GHz (R548). -/
def State.portBeats (s : State) : Nat := s.now * 25 / 8

/-- A request of the module takes its epoch when issued and waits at the egress for a credit (R378, R381). `len`: the
units of 8 bytes that a READ asks for. -/
def State.fabIssue (s : State) (k : Nat) (gid : Option Nat) (type node window offset len : Nat) (payload : Bytes)
    (dest : List (Nat × Nat × Nat × Nat)) (dma : Option (Nat × Nat)) : State :=
  let e := s.keyEntry k window
  let payload := padUnits payload
  let len := if type = 1 then len else payload.length / 8
  let p : Packet := { incarn := BitVec.ofNat 8 (s.obj 0x50002 0), type := BitVec.ofNat 8 type, key := e.key,
                      offset := BitVec.ofNat 48 (window * 2 ^ 36 + offset), dst := BitVec.ofNat 14 node,
                      src := BitVec.ofNat 14 s.node, job := BitVec.ofNat 16 (s.obj 0x50020 (ctxVi k)),
                      epoch := BitVec.ofNat 8 s.fab.epoch, cls := e.cls, len := BitVec.ofNat 6 len, payload := payload }
  let launch : Option Launch := (gid.bind s.group?).bind (fun g => s.launch? g.launch)
  let cl := ((gid.map clusterKeyOf).or (dma.map (·.1))).getD 0
  let o : Outstanding := { dst := p.dst, cls := e.cls, seq := 0, epoch := s.fab.epoch, type := p.type, window := window,
                           ctx := k, gid := gid, cookie := launch.elim 0 (fun l => l.cookie), dest := dest, dma := dma,
                           pkt := p, die := dieOfCluster cl, since := s.portBeats, id := s.fab.nextId }
  { s with fab.waiting := s.fab.waiting ++ [o], fab.epochUsed := s.fab.epochUsed || decide (type ≠ 1),
           fab.nextId := s.fab.nextId + 1 }

/-- R378: a waiting request takes a credit and the next SEQ of its flow, and leaves. -/
def State.fabLeave (s : State) (n : Nat) (o : Outstanding) : State :=
  let flow := o.dst.toNat * 4 + o.cls.toNat
  let seq := s.fab.nextSeq.get 0 flow
  let o := { o with seq := seq, pkt := { o.pkt with seq := seq } }
  let d := o.dst.toNat
  let f := { s.fab with waiting := s.fab.waiting.eraseIdx n, outstanding := s.fab.outstanding ++ [o],
                        nextSeq := s.fab.nextSeq.set 0 flow (seq + 1), credits := s.fab.credits.set 1 d (s.fab.credits.get 1 d - 1) }
  ({ s with fab := f } : State).send o.pkt

/-- Serial arithmetic modulo 2^w (R79): a is newer than b. -/
def serialNewer (w a b : Nat) : Bool :=
  let d := (a + 2 ^ w - b % 2 ^ w) % 2 ^ w
  0 < d && d < 2 ^ (w - 1)

/-! ### The destination -/

/-- Table 11.5: the status of an arriving request, types 1 READ, 2 WRITE, 3 WRITE_MASK, 4 ATOMIC; `n` bytes from the
offset in the window. -/
def State.fabCheck (s : State) (p : Packet) (n : Nat) : Nat :=
  let w := fld p.offset.toNat 36 12
  let off := fld p.offset.toNat 0 36
  match s.fab.windows.find? w with
  | none => 1
  | some x =>
    if !x.valid then 1
    else if p.job.toNat ≠ s.obj 0x50020 x.v then 2
    else if p.key ≠ x.key then 3
    else if x.size * 65536 < off + n then 4
    else if !(if p.type.toNat = 1 then x.permR else if p.type.toNat = 4 then x.permA else x.permW) then 5
    else if (s.rangeMiss x.ctx (x.base + off) n
        (if p.type.toNat = 1 then .load else if p.type.toNat = 4 then .atomic else .store)).isSome then 6
    else 0

/-- Free entries of the shared pool, 50.131: requests are performed as they arrive, but for the parts of an incomplete
set, of which each source has one entry of its own (R378). -/
def State.poolFree (s : State) : Nat :=
  24576 - s.topoNodes - sumNat (s.fab.sources.map (fun x => x.2.parts.length - 1))

/-- R378: the credits that a response returns, and the credits that the source then holds. -/
def State.creditsFor (s : State) (src : Nat) : Nat × State :=
  let held := s.fab.granted.get 1 src
  if 4096 < s.poolFree ∧ held < 64 then (2, { s with fab.granted := s.fab.granted.set 1 src (held + 1) })
  else if s.poolFree < 1024 ∧ 1 < held then (0, { s with fab.granted := s.fab.granted.set 1 src (held - 1) })
  else (1, s)

/-- The response to a request: type, status, SEQ and data (R380, Table 11.6); `extra`: credits of the continuations that
it answers too. A WRITE_ACK carries the epoch of the request that SEQ names. -/
def State.respond (s : State) (p : Packet) (type status : Nat) (seq : BitVec 16) (data : Bytes) (extra : Nat := 0)
    (epoch : BitVec 8 := p.epoch) : State :=
  let c := s.creditsFor p.src.toNat
  let data := padUnits data
  c.2.send { incarn := p.incarn, type := BitVec.ofNat 8 type, key := BitVec.ofNat 64 (status + 256 * (c.1 + extra)), dst := p.src,
             src := BitVec.ofNat 14 s.node, seq := seq, epoch := epoch, cls := p.cls,
             len := BitVec.ofNat 6 (data.length / 8), payload := data }

/-- R363: a refusal is counted; statuses 2 and 3 write FAB_REFUSED once per 60 s for a source and window. -/
def State.refuse (s : State) (p : Packet) (status : Nat) : State :=
  let s := s.bump 0x50120 status
  let w := fld p.offset.toNat 36 12
  let recent := s.fab.refusedAt.any (fun x => x.1 == p.src.toNat && x.2.1 == w && s.now < x.2.2 + 60000000000)
  if (status = 2 ∨ status = 3) ∧ !recent then
    let others := s.fab.refusedAt.filter (fun x => !(x.1 == p.src.toNat && x.2.1 == w))
    let s := { s with fab.refusedAt := others ++ [(p.src.toNat, w, s.now)] }
    s.caskPost 0x0503 (source 0 0)
      (leBytes 128 (packFields [(8, status), (16, p.src.toNat), (16, w), (16, p.job.toNat)]))
  else s

/-- What R376 says of an arriving request. -/
inductive Arrival where
  | fresh | duplicate | stale
deriving DecidableEq, Repr

def State.arrival (s : State) (p : Packet) : Arrival :=
  match s.fab.sources.find? p.src.toNat with
  | none => .fresh
  | some x =>
    if p.incarn = x.incarn then
      match x.seq.find? p.cls.toNat with
      | none => .fresh
      | some q => if serialNewer 16 p.seq.toNat q.toNat then .fresh else .duplicate
    else if serialNewer 8 p.incarn.toNat x.incarn.toNat then .fresh else .stale

/-- R376: what a fresh request changes as it arrives. A destination without state for the source takes its INCARN and SEQ;
a newer INCARN resets the state, and with it the credits, of which the restarted source holds one again (R378). -/
def State.openSource (s : State) (p : Packet) : State :=
  let begin_ : Bank (BitVec 16) → State := fun seq =>
    { s with fab.sources := s.fab.sources.put p.src.toNat { incarn := p.incarn, seq := seq },
             fab.granted := s.fab.granted.erase p.src.toNat }
  match s.fab.sources.find? p.src.toNat with
  | some x => if x.incarn = p.incarn then s else begin_ []
  | none => begin_ [(p.cls.toNat, p.seq)]

/-- A request has been performed, or a part of a set admitted: its SEQ is the last one of its flow. -/
def State.notePerformed (s : State) (p : Packet) : State :=
  match s.fab.sources.find? p.src.toNat with
  | some x =>
    let y : SourceState := { x with seq := x.seq.put p.cls.toNat p.seq, epoch := x.epoch.put p.cls.toNat p.epoch }
    { s with fab.sources := s.fab.sources.put p.src.toNat y }
  | none => s

/-- The last SEQ performed of the flow of a packet, and the epoch of that request. -/
def State.flowSeq (s : State) (p : Packet) : BitVec 16 × BitVec 8 :=
  match s.fab.sources.find? p.src.toNat with
  | some x => (x.seq.get p.seq p.cls.toNat, x.epoch.get p.epoch p.cls.toNat)
  | none => (p.seq, p.epoch)

/-- R376, R380: a duplicate is counted and answered with a WRITE_ACK of the flow's current SEQ; a stale request is
dropped and counted; a fresh one goes on. -/
def State.arrive (s : State) (p : Packet) (fresh : State → State) : State :=
  match s.arrival p with
  | .stale => s.bump 0x50112 0
  | .duplicate => (s.bump 0x50110 0).respond p 7 0 (s.flowSeq p).1 [] 0 (s.flowSeq p).2
  | .fresh => fresh (s.openSource p)

end Sys2Proof.Machine
end

