-- ==== Sys2Proof/Machine/Tick.lean ====
section
/-!
DEFINITION. What passes by itself: one reference cycle of 6.4 ns, or one cycle of the internal oscillator, 10 ns, while
the reference is absent (R492, R493). DESIGN CHOICE: the block takes this step on an empty queue (log entry 2).
-/

namespace Sys2Proof.Machine

/-- Cycles of an arithmetic clock at stretch m in one tick, in 1/6,400 of a cycle: 1.1 GHz · m/64. -/
def clockStep (refPresent : Bool) (m : Nat) : Nat := if refPresent then 704 * m else 1100 * m

/-- Slots that the Pace advances in one tick, in 1/20,800 of a slot (R51): a slot for each conveyor cycle in
module-local mode, a slot time of k · 2.6 ns in span mode (R91). -/
def Conv.paceStep (c : Conv) (refPresent : Bool) : Nat :=
  if c.span.n = 1 then (if refPresent then 2288 * c.m else 3575 * c.m)
  else (if refPresent then 51200 else 80000) / (if c.k2 then 2 else 1)

/-- R51: the Pace advances while the conveyor runs; the last position is left only by REVOLUTION_BOUNDARY. -/
def Conv.tick (c : Conv) (refPresent : Bool) : Conv :=
  match c.state with
  | .running | .noticed => { c with acc := min (c.acc + c.paceStep refPresent) (c.span.slots * 20800 - 1) }
  | _ => c

/-- Lowest m that a supply cause requests (Table 16.3). -/
def Power.supplyM (p : Power) : Nat := min (min (if p.brown then 32 else 64) (if p.forceSafe then 16 else 64)) p.mPower

/-- Lowest m that a thermal cause requests of a die. -/
def Power.thermalM (p : Power) (d : Nat) : Nat :=
  min (p.mDie.get 64 d) (min (p.mStack.get 64 (2 * d)) (p.mStack.get 64 (2 * d + 1)))

/-- R495, R519: the counters of one die. -/
def Clock.tickDie (c : Clock) (p : Power) (d : Nat) : Clock :=
  if p.stopped.contains d then
    if c.refPresent then { c with stopRef := c.stopRef.set 0 d (c.stopRef.get 0 d + 1) } else c
  else
    let m := p.m.get 64 d
    let left := c.droopLeft.get 0 d
    let n := clockStep c.refPresent m - left
    let c := { c with dieAcc := c.dieAcc.set 0 d (c.dieAcc.get 0 d + n),
                      droopLeft := c.droopLeft.set 0 d (left - clockStep c.refPresent m) }
    if 64 ≤ m then c
    else
      let c := { c with stretchAcc := c.stretchAcc.set 0 d (c.stretchAcc.get 0 d + n) }
      if p.supplyM ≤ p.thermalM d then { c with supplyStretch := c.supplyStretch.set 0 d (c.supplyStretch.get 0 d + n) }
      else { c with thermalStretch := c.thermalStretch.set 0 d (c.thermalStretch.get 0 d + n) }

/-- R309: the settings of the buckets of a virtual interface as its objects hold them. -/
def State.bucketNew (s : State) (v : Nat) : BucketSet := ⟨s.obj 0x40050 v, s.obj 0x40051 v, s.obj 0x40052 v⟩

/-- The settings in force: those before a write, until the next reference cycle. -/
def State.bucketSet (s : State) (v : Nat) : BucketSet := (s.mem.bucketOld.find? v).getD (s.bucketNew v)

/-- R309: RATE or, in an evaluation window, EVAL_RATE; credited to each bucket that is not full. -/
def bucketRate (s : State) (v : Nat) : Nat :=
  let x := s.bucketSet v
  if s.steps.evalWindow && x.evalRate ≠ 0 then x.evalRate else x.rate

/-- One of the settings of a virtual interface is about to be written; those in force stay until the next reference cycle. -/
def State.keepBucket (s : State) (v : Nat) : State :=
  { s with mem.bucketOld := s.mem.bucketOld.put v (s.bucketSet v) }

/-- Written settings take effect: the levels of the buckets stay, up to the new depth (R309). -/
def State.turnBuckets (s : State) : State :=
  let shift : Bank Int → Nat × BucketSet → Bank Int := fun b x =>
    let less : Int := ((x.2.depth : Int) - (s.bucketNew x.1).depth) * 640000
    (List.range 8).foldl (fun c d => Bank.set c 0 (8 * x.1 + d) (min 0 (Bank.get c 0 (8 * x.1 + d) + less))) b
  { s with mem.bucket := s.mem.bucketOld.foldl shift s.mem.bucket, mem.bucketOld := [] }

/-- In one reference cycle RATE MB/s gives RATE · 4/625 bytes. -/
def State.creditBuckets (s : State) : State :=
  let credit : Bank Int → Nat × Int → Bank Int := fun b p => b.set 0 p.1 (min 0 (p.2 + 4 * bucketRate s (p.1 / 8)))
  { s with mem.bucket := s.mem.bucket.foldl credit s.mem.bucket }

/-- The Maltster's domain has no power: behind a power loss, or an overvoltage, once the hold-up energy is used up. -/
def Power.dark (p : Power) : Bool := p.hold == .off || (p.hold == .overvoltage && !p.onHoldUp)

/-- One cycle of the clock that the Maltster runs on. -/
def State.tick (s : State) : State :=
  if s.power.dark then s else
  let c := if s.clock.refPresent then { s.clock with refCycles := s.clock.refCycles + 1 }
    else { s.clock with oscNs := s.clock.oscNs + 10 }
  let s := { s with clock := (List.range 8).foldl (fun c d => c.tickDie s.power d) c }
  let s := { s with conv := s.conv.tick s.clock.refPresent }
  if s.clock.refPresent then s.turnBuckets.creditBuckets else s

end Sys2Proof.Machine
end

