-- ==== Sys2Proof/Machine/MemoryOps.lean ====
section
/-!
DEFINITION. What threads, DMA engines and matrix commands share of the memory tiers: the L0 data cache (R228), the
cluster cache (R285), the slices of the shared caches (R246, R286, R287), bandwidth regulation (R309), miss-tracking
entries (R46, R302), poison (R294), the tags of atomics (R240), prefetch (R308) and the shadow area of speculative tasks
(R271 to R273).
-/

namespace Sys2Proof.Machine

/-! ### Caches -/

/-- The key of the 256-byte sector that a place lies in. -/
def Place.sector : Place → Nat
  | .fast a => a / 256 * 3
  | .host a _ => a / 256 * 3 + 2

/-- The key of a sector of a cluster store. -/
def storeSector (o : Nat) : Nat := o / 256 * 3 + 1

def cacheGet (l : List (Nat × Bytes)) (k : Nat) : Option Bytes := (l.find? (fun x => x.1 == k)).map (·.2)

/-- Overwrite bytes at offset `o` of a line, if it is held. -/
def cachePatch (l : List (Nat × Bytes)) (k o : Nat) (bs : Bytes) : List (Nat × Bytes) :=
  l.map (fun x => if x.1 == k then (x.1, x.2.take o ++ bs ++ x.2.drop (o + bs.length)) else x)

def cacheDrop (l : List (Nat × Bytes)) (k : Nat) : List (Nat × Bytes) := l.filter (fun x => x.1 ≠ k)

/-- A line enters the L0 data cache, the oldest of 512 leaving. -/
def l0Fill (l : List (Nat × Bytes)) (k : Nat) (bs : Bytes) : List (Nat × Bytes) :=
  let l' := cacheDrop l k ++ [(k, bs)]
  if 512 < l'.length then l'.tail else l'

/-- Sets of a cluster cache of `units` × 256 KiB with 16 ways of 256 bytes. -/
def cacheSets (units : Nat) : Nat := units * 64

/-- A sector enters the cluster cache, the least recently used of a full set leaving (R285). -/
def clusterFill (units : Nat) (l : List (Nat × Bytes)) (k : Nat) (bs : Bytes) : List (Nat × Bytes) :=
  if units = 0 then l
  else
    let set : Nat → Nat := fun x => x / 3 % cacheSets units
    let l' := cacheDrop l k
    let inSet := l'.filter (fun x => set x.1 == set k)
    let l'' := if 16 ≤ inSet.length then cacheDrop l' ((inSet.head?.map (·.1)).getD 0) else l'
    l'' ++ [(k, bs)]

def State.cacheUnits (s : State) (k : Nat) : Nat := fld (s.layoutOf k).toNat 4 4

/-! ### Where a sector lies (R287 to R291) -/

/-- R289, R290: stack, logical channel and offset within the channel of a device physical address. -/
def State.channelOf (s : State) (a : Nat) : Nat × Nat × Nat :=
  if a < 2 ^ 40 then
    let g := a / 4096
    let q := g / 992
    let lam := (g % 992 + 31 * (q % 32)) % 992
    (lam % 16, lam / 16, q * 4096 + a % 4096)
  else
    let h := (a - 2 ^ 40) / 2 ^ 36
    let g := (a - 2 ^ 40) % 2 ^ 36 / 4096
    (h % 16, g % 62, (1024 - s.obj 0x40010 0) * 1048576 + g / 62 * 4096 + a % 4096)

/-- R291: the physical pseudo-channel p = 64h + pp that serves an address. -/
def State.pchanOf (s : State) (a : Nat) : Nat :=
  let c := s.channelOf a
  64 * c.1 + fld (s.obj 0x40020 c.1) (8 * c.2.1) 8

/-- R288: whether a device physical address exists. -/
def State.fastExists (s : State) (a : Nat) : Bool :=
  let ls := s.obj 0x40010 0
  if a < 2 ^ 40 then a < 992 * (1024 - ls) * 1048576
  else (a - 2 ^ 40) / 2 ^ 36 < 16 && (a - 2 ^ 40) % 2 ^ 36 < 62 * ls * 1048576

/-- The address of a place, device physical or of the host. -/
def Place.addr : Place → Nat
  | .fast a => a
  | .host a _ => a

/-- R287: the die and the slice that are the home of a sector: die ⌊h / 2⌋ and slice s xor (c mod 16) in the fast tier; of
host memory the slices of CD0, by address bits 11:8. -/
def State.homeOf (s : State) (p : Place) : Nat × Nat :=
  match p with
  | .fast a => let c := s.channelOf a; (c.1 / 2, (a / 256 % 16) ^^^ (c.2.1 % 16))
  | .host a _ => (0, a / 256 % 16)

/-- Host memory reached through CXL.io is outside the coherence domain and in no slice. -/
def Place.cached : Place → Bool
  | .fast _ => true
  | .host _ io => !io

/-! ### The slices of the shared caches (R286) -/

/-- The set of a slice of die `d` that takes a sector. DESIGN CHOICE: the granule number selects it, and a copy lies in
the slice of the same number as its home (log entry 27). -/
def State.setOf (s : State) (d : Nat) (p : Place) : Nat := (16 * d + (s.homeOf p).2) * 1536 + p.addr / 4096 % 1536

def State.lines (s : State) (k : Nat) : List SliceLine := s.mem.slices.get [] k
def State.putLines (s : State) (k : Nat) (l : List SliceLine) : State := { s with mem.slices := s.mem.slices.set [] k l }

/-- Die `d` holds the sector, as its home or as a copy. -/
def State.dieHas (s : State) (d : Nat) (p : Place) : Bool := (s.lines (s.setOf d p)).any (fun x => x.sector == p.sector)

def State.homeHas (s : State) (p : Place) : Bool := s.dieHas (s.homeOf p).1 p

/-- The line that leaves a set for another: a copy while eight ways hold copies, else the one used least recently. -/
def sliceVictim (l : List SliceLine) (copy : Bool) : Option SliceLine :=
  if copy && decide (8 ≤ (l.filter (·.copy)).length) then l.find? (·.copy)
  else if 16 ≤ l.length then l.head? else none

/-- R309: level of the bucket of v on die d, in 1/625 byte. -/
def State.bucketLevel (s : State) (v d : Nat) : Int := s.mem.bucket.get 0 (8 * v + d) + ((s.bucketSet v).depth * 640000 : Nat)

/-- The virtual interface is regulated: its rate in force is not 0. -/
def State.regulated (s : State) (v : Nat) : Bool := decide (v < 64) && bucketRate s v != 0

/-- 256 bytes are charged to a virtual interface that is regulated. -/
def State.charge (s : State) (v d : Nat) : State :=
  if s.regulated v then { s with mem.bucket := s.mem.bucket.set 0 (8 * v + d) (s.mem.bucket.get 0 (8 * v + d) - 160000) }
  else s

/-- A request of v on die d finds fewer than 256 bytes. -/
def State.bucketEmpty (s : State) (v d : Nat) : Bool := s.regulated v && decide (s.bucketLevel v d < 160000)

/-- Prefetches of clusters without a cluster cache whose sector leaves its home slice are unused (Table 9.11). -/
def State.unusedPrefetch (s : State) (sector : Nat) : State :=
  let units : Cluster → Nat := fun x => x.ctx.elim 0 (fun k => fld (s.layoutOf k).toNat 4 4)
  (s.clusters.filter (fun x => x.2.prefetched.contains sector && units x.2 == 0)).foldl (fun t x =>
    (t.putCluster x.1 { x.2 with prefetched := x.2.prefetched.erase sector }).bump 0x40113 x.1) s

/-- A line leaves set `k`. A home sector that is dirty is written back, which charges the bucket of its last writer on this
die, below 0 if need be (R309). -/
def State.lineOut (s : State) (k : Nat) (x : SliceLine) : State :=
  if x.copy then s
  else
    let s := if x.dirty ∧ x.sector % 3 = 0 then s.charge x.writer (k / 24576) else s
    s.unusedPrefetch x.sector

/-- A line enters set `k`, or is used again, as the one used last. -/
def State.lineIn (s : State) (k : Nat) (x : SliceLine) : State :=
  let l := (s.lines k).filter (fun y => y.sector != x.sector)
  match sliceVictim l x.copy with
  | some y => (s.lineOut k y).putLines k (l.filter (fun z => z.sector != y.sector) ++ [x])
  | none => s.putLines k (l ++ [x])

/-- The home line of a sector is used, and filled if the slice does not hold it. -/
def State.homeUse (s : State) (p : Place) : State :=
  let k := s.setOf (s.homeOf p).1 p
  s.lineIn k (((s.lines k).find? (fun y => y.sector == p.sector)).getD { sector := p.sector })

/-- A read of die `d` at the shared cache: its copy serves it; else the home does, and another die takes a copy. -/
def State.homeRead (s : State) (d : Nat) (p : Place) : State :=
  if !p.cached then s
  else if (s.homeOf p).1 = d then s.homeUse p
  else
    let s := if s.dieHas d p then s else s.homeUse p
    s.lineIn (s.setOf d p) { sector := p.sector, copy := true }

/-- R246: copies are invalidated before a write is performed at the home; the writer is noted (R309). -/
def State.homeWrite (s : State) (v : Nat) (p : Place) : State :=
  if !p.cached then s
  else
    let hd := (s.homeOf p).1
    let s := (List.range 8).foldl (fun t d =>
      if d ≠ hd ∧ t.dieHas d p then t.putLines (t.setOf d p) ((t.lines (t.setOf d p)).filter (fun y => y.sector != p.sector))
      else t) s
    s.lineIn (s.setOf hd p) { sector := p.sector, dirty := true, writer := v }

/-- A place `n` bytes further on. -/
def Place.plus : Place → Nat → Place
  | .fast a, n => .fast (a + n)
  | .host a io, n => .host (a + n) io

/-- Offset of a place within its sector. -/
def Place.inSector : Place → Nat
  | .fast a => a % 256
  | .host a _ => a % 256

/-- A write of `n` bytes is performed at the home of every sector that it touches. -/
def State.homeWrites (s : State) (v : Nat) (p : Place) (n : Nat) : State :=
  (List.range ((p.inSector + n + 255) / 256)).foldl (fun t i => t.homeWrite v (p.plus (256 * i))) s

/-! ### Poison and tags -/

def State.poisoned (s : State) (p : Place) : Bool :=
  match p with
  | .fast a => s.mem.poison.contains (a / 256)
  | .host _ _ => false

/-- A write of a whole sector clears its mark (R294). -/
def State.clearPoison (s : State) (p : Place) (n : Nat) : State :=
  match p with
  | .fast a =>
    let gone : Nat → Bool := fun x => decide (a ≤ x * 256) && decide (x * 256 + 256 ≤ a + n)
    { s with mem.poison := s.mem.poison.filter (fun x => !gone x), mem.latent := s.mem.latent.filter (fun x => !gone x.1) }
  | .host _ _ => s

/-- R294: an uncorrectable error of the fast tier: mark, count and Cask record; requesters of Table 14.7: 0 thread,
1 DMA, 2 injector, 3 host, 4 scrub. -/
def State.hbmUe (s : State) (a requester : Nat) : State :=
  let s := { s with mem.poison := insertNat (a / 256) s.mem.poison }
  let p := s.pchanOf a
  (s.bump 0x40103 p).caskPost 0x0402 (source 3 p) (leBytes 128 (packFields [(64, a), (8, requester)]))

/-- R465: an uncorrectable error of a cluster's arrays; the third within 24 hours makes it pending retirement. -/
def State.clusterUe (s : State) (cl : Nat) : State :=
  let day := 86400000000000
  let l := (s.health.ueTimes.get [] cl).filter (fun t => s.now < t + day) ++ [s.now]
  let s := { s with health.ueTimes := s.health.ueTimes.set [] cl l }
  if 3 ≤ l.length ∧ !s.health.pendingRetire.contains cl then
    let s := ({ s with health.pendingRetire := s.health.pendingRetire ++ [cl] } : State).noteSpares (cl / 136)
    s.caskPost 0x0601 (source 2 (cl / 136 * 256 + cl % 136)) (leBytes 128 1)
  else s

/-- The number of a 4-byte word for the tags of R240. -/
def Place.word : Place → Nat
  | .fast a => a / 4 * 2
  | .host a _ => a / 4 * 2 + 1

/-- A write to some bytes takes the tags of the words that it touches (R240). -/
def State.dropTags (s : State) (p : Place) (n : Nat) : State :=
  { s with mem.tags := (List.range ((p.inSector % 4 + n + 3) / 4)).foldl (fun t i => Bank.erase t (p.word + 2 * i)) s.mem.tags }

/-! ### The shadow area -/

/-- Bytes of a block seen by a speculative task: those of the entries with their mask bit set come first (R273). -/
def shadowOver (sh : List ShadowEntry) (global : Bool) (a : Nat) (bs : Bytes) : Bytes :=
  bs.mapIdx (fun i b =>
    match sh.find? (fun e => e.global == global && e.block == (a + i) / 64) with
    | some e => (Bank.find? e.bytes ((a + i) % 64)).getD b
    | none => b)

/-- The 64-byte blocks of a write that have no entry yet. -/
def shadowNeed (sh : List ShadowEntry) (global : Bool) (blocks : List Nat) : Nat :=
  ((blocks.dedup).filter (fun b => !sh.any (fun e => e.global == global && e.block == b))).length

/-- The blocks that `n` bytes from `a` touch. -/
def shadowBlocks (a n : Nat) : List Nat := (List.range ((a + n + 63) / 64 - a / 64)).map (fun i => a / 64 + i)

/-- One byte recorded: in the block's entry, or in a new entry at the end (R272). -/
def shadowByte (sh : List ShadowEntry) (global : Bool) (a : Nat) (b : Byte) : List ShadowEntry :=
  if sh.any (fun e => e.global == global && e.block == a / 64) then
    sh.map (fun e => if e.global == global && e.block == a / 64 then { e with bytes := e.bytes.put (a % 64) b } else e)
  else sh ++ [{ global := global, block := a / 64, bytes := [(a % 64, b)] }]

def shadowWrite (sh : List ShadowEntry) (global : Bool) : Nat → Bytes → List ShadowEntry
  | _, [] => sh
  | a, b :: r => shadowWrite (shadowByte sh global a b) global (a + 1) r

/-- Entries of the shadow area still free in a cluster of context `k`. -/
def State.shadowFree (s : State) (k cl : Nat) : Nat := shadowEntries (s.layoutOf k) - (s.cluster cl).shadow.length

/-- Whether a task that runs on the cluster is speculative and its condition unresolved (R271). -/
def State.shadowed (s : State) (cl : Nat) (spec : Bool) : Bool := spec && (s.cluster cl).cond.isSome

/-! ### Banks of the cluster store (R284) -/

/-- The bank that an offset of a cluster store lies in. -/
def bankOf (o : Nat) : Nat := ((o / 256) ^^^ (o / 4096)) % 16

/-- The beats that some accesses, offset and length, occupy in a bank: one for every 64 bytes touched there, rounded up. -/
def bankBeats (l : List (Nat × Nat)) (b : Nat) : Nat :=
  ((((l.flatMap (fun x => (List.range x.2).map (x.1 + ·))).filter (fun o => bankOf o == b)).dedup).length + 63) / 64

/-- The grants that some beats take in a bank: at most one sector, 4 beats, at a time. -/
def bankGrants (beats : Nat) : List Nat := List.replicate (beats / 4) 4 ++ (if beats % 4 = 0 then [] else [beats % 4])

/-- The accesses of one instruction, or of a transfer, are raised at the arbiters of the banks that they touch, by a core (0 to
3) or the DMA engine (4) of the cluster (R284, Table 2.2). -/
def State.raiseBanks (s : State) (cl req : Nat) (l : List (Nat × Nat)) : State :=
  match s.stationOf cl with
  | none => s
  | some st =>
    let i := (s.stationClusters st).idxOf cl
    let t := s.dieCycles (dieOfCluster cl)
    let one : State → Nat → State := fun u b =>
      u.onArb .storeBank ((8 * st + i) * 16 + b) (t - 1)
        (fun x => (bankGrants (bankBeats l b)).foldl (fun y n => y.enqueue ⟨req, t, n, 0⟩) x)
    (((l.flatMap (fun x => (shadowBlocks x.1 x.2).map (fun k => bankOf (64 * k)))).dedup)).foldl one s

/-! ### The home endpoint (R379) -/

/-- A store or a set of `units` grant units from a node is raised at the home endpoint of its line (R265, R379), which grants
it by its own clock, one request for each unit (log entry 118). -/
def State.raiseEndpoint (s : State) (p : Place) (node units : Nat) : State :=
  let h := s.homeOf p
  let t := s.dieCycles h.1
  s.onArb .homeEndpoint (16 * h.1 + h.2) (t - 1) (fun x => (List.replicate units (⟨node, t, 2, 0⟩ : Head)).foldl Arb.enqueue x)

/-- Stores of this node to some addresses of a context are raised at the home endpoints of their lines, one for each line. -/
def State.raiseLines (s : State) (k : Nat) (acc : Acc) (addrs : List Nat) : State :=
  ((addrs.map (· / 256)).dedup).foldl (fun t a => match t.translate k (256 * a) acc with
    | .ok p => if p.cached then t.raiseEndpoint p t.node 1 else t
    | .error _ => t) s

/-! ### Prefetch (R308) -/

/-- A prefetch of the sector is still in flight. -/
def Cluster.inFlight (x : Cluster) (k : Nat) : Bool := x.miss.any (fun e => e.owner == .prefetch && e.sector == k)

/-- Prefetched sectors that the cluster cache has lost again are classified as unused. -/
def State.settlePrefetch (s : State) (units cl : Nat) : State :=
  let x := s.cluster cl
  let gone : Nat → Bool := fun k => units != 0 && (cacheGet x.cache k).isNone && !x.inFlight k
  if x.prefetched.any gone then
    (s.putCluster cl { x with prefetched := x.prefetched.filter (fun k => !gone k) }).bumpBy 0x40113 cl
      (x.prefetched.filter gone).length
  else s

/-- Both caches of a core and its cluster emptied (R228, R285). -/
def State.fenceCaches (s : State) (ck : Nat) : State :=
  let s := s.putCore ck { s.core ck with l0d := [] }
  let x := s.cluster (ck / 4)
  (s.putCluster (ck / 4) { x with cache := [] }).settlePrefetch (x.ctx.elim 0 s.cacheUnits) (ck / 4)

/-- A line enters the cluster cache. -/
def State.fillCluster (s : State) (units cl k : Nat) (line : Bytes) : State :=
  let x := s.cluster cl
  (s.putCluster cl { x with cache := clusterFill units x.cache k line }).settlePrefetch units cl

/-- The first demand for a prefetched sector: late while the prefetch is in flight, else timely. -/
def State.demandPrefetched (s : State) (cl k : Nat) : State :=
  let x := s.cluster cl
  if x.prefetched.contains k then
    (s.putCluster cl { x with prefetched := x.prefetched.erase k }).bump (if x.inFlight k then 0x40112 else 0x40111) cl
  else s

/-- A tracker meets a miss of sector `a`: it continues its stride, or takes the new one. -/
def Tracker.meet (t : Tracker) (a : Nat) : Tracker :=
  let d := (a : Int) - t.last
  if d = t.stride then { t with last := a, misses := t.misses + 1 } else { last := a, stride := d, misses := 2 }

/-- The tracker that a miss trains: one whose stride it continues, else one within 4 KiB, else the one of the least
misses. -/
def trackerFor (b : Bank Tracker) (a : Nat) : Nat :=
  let at_ : Nat → Tracker := fun i => b.get {} i
  let near : Nat → Bool := fun i => let d := (a : Int) - (at_ i).last; (at_ i).misses != 0 && d != 0 && decide (d.natAbs ≤ 16)
  match (List.range 16).find? (fun i => near i && (a : Int) - (at_ i).last == (at_ i).stride) with
  | some i => i
  | none => match (List.range 16).find? near with
    | some i => i
    | none => (List.range 16).foldl (fun m i => if (at_ i).misses < (at_ m).misses then i else m) 0

/-- A sector miss of the cluster trains a tracker; sectors are counted by virtual address. One that a stream's latest demand
has reached already changes nothing. -/
def State.trainTracker (s : State) (cl a : Nat) : State :=
  let x := s.cluster cl
  if x.trackers.any (fun y => decide (3 ≤ y.2.misses) && y.2.last == a) then s
  else
    let i := trackerFor x.trackers a
    let t := x.trackers.get {} i
    let new : Tracker := if t.misses ≠ 0 ∧ ((a : Int) - t.last).natAbs ≤ 16 ∧ a ≠ t.last then t.meet a
      else { last := a, stride := 0, misses := 1 }
    s.putCluster cl { x with trackers := x.trackers.put i new }

/-- R308: a demand for the next sector of a stream, one that its prefetch has brought too, is the stream's latest demand. -/
def State.followStream (s : State) (cl a : Nat) : State :=
  let x := s.cluster cl
  let next : Tracker → Bool := fun t => decide (3 ≤ t.misses) && (t.last : Int) + t.stride == (a : Int)
  match List.find? (fun (y : Nat × Tracker) => next y.2) x.trackers with
  | some (i, t) => s.putCluster cl { x with trackers := x.trackers.put i { t with last := a, misses := t.misses + 1 } }
  | none => s

/-! ### Sector requests of a cluster (R46, R302, R309) -/

/-- Sectors of remote nodes that requests of the cluster wait for; each holds a miss-tracking entry. -/
def State.remoteSectors (s : State) (cl : Nat) : Nat :=
  let mine : Outstanding → Bool := fun o => o.gid.any (fun gk => clusterKeyOf gk == cl) || o.dma.any (fun x => x.1 == cl)
  (((s.fab.outstanding ++ s.fab.waiting).filter mine).map (fun o => (o.dst, o.pkt.key, o.pkt.offset.toNat / 256))).dedup.length

/-- Miss-tracking entries of the cluster in use. -/
def State.missUsed (s : State) (cl : Nat) : Nat := (s.cluster cl).miss.length + s.remoteSectors cl

/-- An entry is free, and the cluster holds fewer than 8 for the pseudo-channel. -/
def State.missRoom (s : State) (cl : Nat) (p : Option Nat) : Bool :=
  decide (s.missUsed cl < 128) && p.all (fun q => decide (((s.cluster cl).miss.filter (fun e => e.p == q)).length < 8))

def State.dropMiss (s : State) (cl : Nat) (e : MissEntry) : State :=
  s.putCluster cl { s.cluster cl with miss := (s.cluster cl).miss.erase e }

/-- A request of a miss-tracking owner begins to wait for an entry (R302). -/
def State.startWait (s : State) (cl : Nat) (o : MissOwner) : State :=
  let x := s.cluster cl
  s.putCluster cl { x with waits := x.waits ++ [(o, s.dieCycles (dieOfCluster cl))] }

/-- The waits of an owner end, since it asks again or is gone; their cycles are counted, those of each request. -/
def State.endWaits (s : State) (cl : Nat) (o : MissOwner) : State :=
  let x := s.cluster cl
  if x.waits.any (fun y => y.1 == o) then
    (s.putCluster cl { x with waits := x.waits.filter (fun y => y.1 != o) }).bumpBy 0x40116 cl
      (sumNat ((x.waits.filter (fun y => y.1 == o)).map (fun y => s.dieCycles (dieOfCluster cl) - y.2)))
  else s

/-- What the next read of a sector's array finds, where the command of the access does not say. -/
def State.latentAt (s : State) (a : Nat) : EccResult := s.mem.latent.get .clean (a / 256)

/-- The sector of a device physical address is read from its array into its home slice, with what the code finds (R292,
R294), for a requester of Table 14.7. -/
def State.arrayRead (s : State) (a : Nat) (ecc : EccResult) (requester : Nat := 0) : State :=
  let s := s.homeUse (.fast a)
  match ecc with
  | .clean => s
  | .corrected => s.bump 0x40102 (s.pchanOf a)
  | .uncorrectable => if s.poisoned (.fast a) then s
    else ({ s with mem.latent := s.mem.latent.erase (a / 256) } : State).hbmUe a requester

/-- The arrays read for `n` bytes of the fast tier that no slice holds, by an access whose command carries no outcome. -/
def State.readArrays (s : State) (a n requester : Nat) : State :=
  let mine : Nat × EccResult → Bool := fun x => decide (a / 256 ≤ x.1) && decide (x.1 * 256 < a + n)
    && !s.homeHas (.fast (256 * x.1))
  (s.mem.latent.filter mine).foldl (fun t x => t.arrayRead (256 * x.1) x.2 requester) s

/-- The sector of an access is read at its home slice, from its array when the slice does not hold it: whether the data are
poisoned or uncorrectable (R294), for a requester of Table 14.7. An uncorrectable error of the slice's own array is handled
alike, a corrected one is not counted (R286); one in a line of host memory that a slice holds enters viral (Table 12.1). -/
def State.homeFetch (s : State) (pl : Place) (ecc : EccResult) (requester : Nat) : Bool × State :=
  if s.poisoned pl then (true, s)
  else match pl with
    | .host _ io => if ecc = .uncorrectable ∧ !io then (true, { s with host.viral := true }) else (false, s)
    | .fast a =>
      if s.stackLost (s.pchanOf a) then (true, s)
      else if s.homeHas pl ∧ ecc ≠ .uncorrectable then (false, s.homeUse pl)
      else (ecc == .uncorrectable, s.arrayRead a ecc requester)

/-- A sector that an instruction or a transfer needs: its place and virtual sector number; whether the rest of the sector
must be read (not for a write of all of it); what a read of its array finds, for a requester of Table 14.7; whether it counts
as a miss. -/
structure SectorReq where
  place : Place
  va : Nat
  fetch : Bool := true
  ecc : EccResult := .clean
  requester : Nat := 0
  miss : Bool := true
deriving DecidableEq, Repr

/-- One sector request of a cluster of virtual interface `v`: whether the sector is had, and the state. It needs an entry; a
request that misses the shared caches is charged, and waits in its entry while the bucket holds too little; one that finds a
prefetch of the sector in flight takes what that brings. One that finds no entry waits from now on. -/
def State.obtain (s : State) (cl v : Nat) (o : MissOwner) (r : SectorReq) : Bool × State :=
  match r.place with
  | .host _ _ => if s.missRoom cl none then (true, s) else (false, s.startWait cl o)
  | .fast a =>
    let d := dieOfCluster cl
    let q := s.pchanOf a
    if s.stackLost q then (false, s) else
    match (s.cluster cl).miss.find? (fun e => (e.owner == o || e.owner == .prefetch) && e.sector == r.place.sector) with
    | some e => if e.stage = .waiting then (false, s) else (true, (s.dropMiss cl e).arrayRead a r.ecc r.requester)
    | none =>
      if !s.missRoom cl (some q) then (false, s.startWait cl o)
      else if s.dieHas d r.place || s.homeHas r.place || !r.fetch then (true, s)
      else if s.bucketEmpty v d then
        let e : MissEntry := { owner := o, sector := r.place.sector, addr := a, p := q, v := v, stage := .waiting }
        (false, s.putCluster cl { s.cluster cl with miss := (s.cluster cl).miss ++ [e] })
      else (true, (s.charge v d).arrayRead a r.ecc r.requester)

/-- The sector requests of one instruction or transfer step that have not been served: each is asked for, and trains a
tracker when it is had. Answers whether all are had, and the sectors that are. -/
def State.obtainAll (cl v : Nat) (o : MissOwner) : List SectorReq → List Nat → State → Bool × List Nat × State
  | [], got, s => (true, got, s)
  | r :: rest, got, s =>
    if got.contains r.place.sector then State.obtainAll cl v o rest got s
    else
      let x := s.obtain cl v o r
      if x.1 then
        let t := if r.miss then x.2.trainTracker cl r.va else x.2
        State.obtainAll cl v o rest (got ++ [r.place.sector]) t
      else
        let y := State.obtainAll cl v o rest got x.2
        (false, y.2)

/-- Demand accesses reach some sectors, by key and virtual number: each is classified against the prefetch table, and may
continue a stream (R308). -/
def State.demandAll (s : State) (cl : Nat) (sectors : List (Nat × Nat)) : State :=
  sectors.foldl (fun t x => (t.demandPrefetched cl x.1).followStream cl x.2) s

/-- One request for each sector among some accesses: what the accesses of a sector need, together. -/
def mergeReqs (l : List SectorReq) : List SectorReq :=
  l.foldl (fun acc r =>
    if acc.any (fun x => x.place.sector == r.place.sector) then
      acc.map (fun x => if x.place.sector == r.place.sector then { x with fetch := x.fetch && r.fetch, ecc := if x.ecc = .clean then r.ecc else x.ecc } else x)
    else acc ++ [r]) []

/-- Entries of an owner that is gone are free again, and its waits for others are over. -/
def State.freeMiss (s : State) (cl : Nat) (o : MissOwner) : State :=
  let s := s.endWaits cl o
  if (s.cluster cl).miss.any (fun e => e.owner == o) then
    s.putCluster cl { s.cluster cl with miss := (s.cluster cl).miss.filter (fun e => e.owner != o) }
  else s

/-- The data of a prefetch arrive: in the home slice, and in the cluster cache where the layout has one. -/
def State.prefetchArrive (s : State) (cl : Nat) (e : MissEntry) : State :=
  let units := (s.cluster cl).ctx.elim 0 s.cacheUnits
  let s := ((s.dropMiss cl e).arrayRead e.addr (s.latentAt e.addr)).homeRead (dieOfCluster cl) (.fast e.addr)
  if units = 0 then s else s.fillCluster units cl e.sector (memRead s.mem.hbm (e.addr / 256 * 256) 256)

/-! ### Stores as the coherence domain performs them -/

/-- Bytes written at a translated place by a cluster of virtual interface `v`: home, poison, tags, memory. -/
def State.domainWrite (s : State) (v : Nat) (p : Place) (bs : Bytes) : State :=
  (((s.homeWrites v p bs.length).clearPoison p bs.length).dropTags p bs.length).writePlace p bs

/-- Bytes of a whole sector written by several stores together clear its mark (R294). -/
def State.clearWhole (s : State) (sectors : List Nat) : State :=
  { s with mem.poison := s.mem.poison.filter (fun x => !sectors.contains x),
           mem.latent := s.mem.latent.filter (fun x => !sectors.contains x.1) }

/-- R228, R285: a store updates the lines that its core and its cluster hold. -/
def State.patchCaches (s : State) (ck sector o : Nat) (bs : Bytes) : State :=
  let c := s.core ck
  let s := s.putCore ck { c with l0d := cachePatch c.l0d sector o bs }
  let x := s.cluster (ck / 4)
  s.putCluster (ck / 4) { x with cache := cachePatch x.cache sector o bs }

end Sys2Proof.Machine
end

