-- ==== Sys2Proof/Machine/Records.lean ====
section
/-!
DEFINITION. Counter records (R496 to R506): the record area of a context, the latches of a record and its bytes; the
events of stations that records carry (R500); and the counts of a step (R194 to R196).
-/

namespace Sys2Proof.Machine

/-- R343: the step number after `st`. -/
def stepAfter (st : BitVec 32) : BitVec 32 := if st = 0xFFFFFFFE#32 then 0 else st + 1

/-! ### Latches -/

def State.stretchCycles (s : State) (d : Nat) : Nat := s.clock.stretchAcc.get 0 d / 6400
def State.stopCycles (s : State) (d : Nat) : Nat := s.clock.stopRef.get 0 d

/-- The start or end latch of a matrix-command record (R499). -/
def State.latchNow (s : State) (cl : Nat) : RecLatch :=
  let d := dieOfCluster cl
  { time := s.now, pace := BitVec.ofNat 64 s.pace, cycles := s.dieCycles d, stretch := s.stretchCycles d,
    stop := s.stopCycles d, steps := s.clock.stepNs, pf := (List.range 5).map (fun j => s.obj (0x40110 + j) cl),
    mtWait := s.obj 0x40116 cl }

/-- The dies that hold a cluster of a partition. -/
def State.diesOf (s : State) (v : Nat) : List Nat := ((s.stationsOf v).map (· / 16)).dedup

/-- The start latch of a queue-command record (R500): counters of every die, then the station events of the context,
then 40.120[v]. -/
def State.latchQueue (s : State) (k : Nat) : RecLatch :=
  let ev : Bank Nat := ((s.ctx? k).map (·.events)).getD []
  { time := s.now, pace := BitVec.ofNat 64 s.pace, steps := s.clock.stepNs,
    pf := (List.range 8).map s.dieCycles ++ (List.range 8).map s.stretchCycles ++ (List.range 8).map s.stopCycles
      ++ (List.range 14).map (fun j => Bank.get ev 0 j) ++ [s.obj 0x40120 (ctxVi k)] }

/-- An event of a station for an entry of a context: counted in the station's object and for the context. `j` is 0 to 6
for 30.100 to 30.106 and 7 to 13 for 30.120 to 30.126. -/
def State.stationEvent (s : State) (k st j : Nat) : State :=
  let s := s.bump (if j < 7 then 0x30100 + j else 0x30120 + (j - 7)) st
  s.onCtx k (fun c => { c with events := c.events.set 0 j (c.events.get 0 j + 1) })

/-! ### The record area (R504, R505) -/

def recordBase : Nat := 0xFFFF00000000

/-- The control block of a context's record area, if its translation allows reading and writing it. -/
def State.recordCtrl (s : State) (k : Nat) : Option (Place × Nat) :=
  match s.translate k recordBase .load, s.translate k recordBase .store with
  | .ok p, .ok _ => some (p, leNat (s.readPlace p 64))
  | _, _ => none

/-- MREC and QREC as the control block gives them now. -/
def State.recordEnabled (s : State) (k i : Nat) : Bool :=
  match s.recordCtrl k with
  | some (_, c) => bit c i
  | none => false

/-- R505: write the record that `mk` makes of its SEQ, or drop and count it. The module is the writer, and no regulator is
charged. -/
def State.writeRecord (s : State) (k : Nat) (mk : Nat → Bytes) : State :=
  match s.recordCtrl k with
  | none => s
  | some (p, c) =>
    let size := fld c 11 5
    let wr := fld c 384 64
    let rd := fld c 320 64
    let setCtrl : State → Nat → Nat → State := fun t lo x => t.domainWrite 64 p (leBytes 64 (setFld c lo 64 x))
    if size < 4 ∨ 22 < size then s
    else if (wr + 2 ^ 64 - rd) % 2 ^ 64 = 2 ^ size then setCtrl s 448 (fld c 448 64 + 1)
    else match s.translate k (recordBase + 0x1000 + 512 * (wr % 2 ^ size)) .store with
      | .error _ => setCtrl s 448 (fld c 448 64 + 1)
      | .ok r => (setCtrl s 384 (wr + 1)).domainWrite 64 r (mk wr)

/-- A 32-bit count of a record, and whether it saturated. -/
def sat32n (n : Nat) : Nat := min n 0xFFFFFFFF

/-- The fields of Table 15.1 that differ between the two kinds. -/
structure RecHead where
  ctx : Nat
  kind : Nat
  layer : Nat
  op : Nat
  cookie : Nat
  cluster : Nat := 0
  core : Nat := 0
  group : Nat := 0
  token : Nat := 0
  opcode : Nat
  queue : Nat := noQueue
  desc : Nat := 0
  cycles : Nat
  stretch : Nat
  stop : Nat
  step : Nat
  spec : Bool := false
  removed : Bool := false
  sat : Bool := false

/-- The header of a record (Table 15.1), 128 bytes, with the payload behind it. -/
def State.recordBytes (s : State) (l : RecLatch) (h : RecHead) (payload : Bytes) (seq : Nat) : Bytes :=
  let flag : Bool → Nat := fun b => if b then 1 else 0
  let flags := packFields [(1, flag (h.stretch ≠ 0)), (1, flag (h.stop ≠ 0)), (1, flag (s.clock.stepNs ≠ l.steps)),
    (1, flag h.sat), (1, flag h.spec), (1, flag h.removed)]
  leBytes 128 (packFields [(64, seq), (8, h.kind), (8, flags), (16, h.layer), (16, h.op), (12, h.ctx % 4096), (4, 0),
    (32, h.cookie), (11, h.cluster), (2, h.core), (4, h.group), (3, h.token), (8, h.opcode), (14, h.queue),
    (16, h.desc), (38, 0), (64, l.time), (64, s.now), (64, l.pace.toNat), (64, s.pace), (64, h.cycles),
    (32, sat32n h.stretch), (32, sat32n h.stop), (32, h.step)]) ++ payload

/-! ### Counts of a step (R194 to R196) -/

def StepCounts.add (a : StepCounts) (b : StepCounts) : StepCounts :=
  { sat := a.sat + b.sat, nan := a.nan + b.nan, nonfinite := a.nonfinite + b.nonfinite }

/-- Counts of ordinary commands, stations and Kilns for a step. -/
def State.countStep (s : State) (step : BitVec 32) (c : StepCounts) : State :=
  { s with steps.counts := s.steps.counts.set {} step.toNat ((s.steps.counts.get {} step.toNat).add c) }

/-- Counts of commands of tasks that are speculative on the step before. -/
def State.countSpec (s : State) (step : BitVec 32) (c : StepCounts) : State :=
  { s with steps.specCounts := s.steps.specCounts.set {} step.toNat ((s.steps.specCounts.get {} step.toNat).add c) }

/-- The counts of a step that enter the member record. -/
def State.stepCounts (s : State) (step : BitVec 32) : StepCounts :=
  (s.steps.counts.get {} step.toNat).add (s.steps.specCounts.get {} step.toNat)

end Sys2Proof.Machine
end

