-- ==== Sys2Proof/Machine/MatrixOps.lean ====
section
/-!
DEFINITION. The datapath of a matrix row: the descriptor of Table 5.6 and its checks at issue (R141, R151 to R154,
R199), the operands of a command in row slots, weight cells and cluster store (R138, R139, R147, R158, R183), its pass
groups (R176 to R188, R200) and the outputs of its epilogue step (R164 to R168).
-/

namespace Sys2Proof.Machine

/-! ### The descriptor, Table 5.6 -/

abbrev Desc := Nat

def dOp (d : Desc) : Nat := fld d 0 4
def dShape (d : Desc) : Nat := fld d 4 4
def dAfmt (d : Desc) : Nat := fld d 8 8
def dWfmt (d : Desc) : Nat := fld d 16 8
def dOfmt (d : Desc) : Nat := fld d 24 8
def dN0 (d : Desc) : Nat := fld d 32 7
def dLacc (d : Desc) : Nat := fld d 39 4
def dRowBase (d : Desc) : Nat := fld d 43 4
def dOutRow (d : Desc) : Nat := fld d 47 4
def dDest (d : Desc) : Nat := fld d 51 2
def dEpi (d : Desc) : Bool := bit d 53
def dAccIn (d : Desc) : Bool := bit d 54
def dWsrc (d : Desc) : Bool := bit d 55
def dWtrans (d : Desc) : Bool := bit d 56
def dAtrans (d : Desc) : Bool := bit d 57
def dEmu (d : Desc) : Bool := bit d 58
def dSplit (d : Desc) : Nat := fld d 59 2
def dBswDir (d : Desc) : Bool := bit d 61
def dBswBlock (d : Desc) : Nat := 16 * 2 ^ fld d 62 2
def dBswEn (d : Desc) : Bool := bit d 64
def dBsaDir (d : Desc) : Bool := bit d 65
def dBsaBlock (d : Desc) : Nat := 16 * 2 ^ fld d 66 2
def dBsaEn (d : Desc) : Bool := bit d 68
def dHist (d : Desc) : Bool := bit d 69
def dRedWrite (d : Desc) : Bool := bit d 70
def dRedAcc (d : Desc) : Bool := bit d 71
def dRed (d : Desc) : Nat := fld d 72 3
def dElem (d : Desc) : Nat := fld d 75 3
def dAct (d : Desc) : Nat := fld d 78 4
def dBiasEn (d : Desc) : Bool := bit d 82
def dBiasFmt (d : Desc) : Nat := if bit d 83 then 4 else 6
def dAuxFmt (d : Desc) : Nat := fld d 84 2
def pitchOf (p : Nat) : Nat := 64 * 2 ^ p
def dAuxPitch (d : Desc) : Nat := pitchOf (fld d 86 3)
def dAPitch (d : Desc) : Nat := pitchOf (fld d 89 3)
def dOutPitch (d : Desc) : Nat := pitchOf (fld d 92 3)
def dAccFinal (d : Desc) : Bool := bit d 95
def dAccWrite (d : Desc) : Bool := bit d 96
def dAccSel (d : Desc) : Bool := bit d 97
def dAccPitch (d : Desc) : Nat := fld d 98 3
def dTie (d : Desc) : Nat := fld d 101 8
def dAccAddr (d : Desc) : Nat := fld d 109 11
def dBswAddr (d : Desc) : Nat := fld d 120 14 * 256
def dBsaAddr (d : Desc) : Nat := fld d 134 14 * 256
def dRedAddr (d : Desc) : Nat := fld d 148 14 * 256
def dBiasAddr (d : Desc) : Nat := fld d 162 14 * 256
def dAuxAddr (d : Desc) : Nat := fld d 176 14 * 256
def dOutAddr (d : Desc) : Nat := fld d 190 14 * 256
def dAAddr (d : Desc) : Nat := fld d 204 14 * 256
def dWAddr (d : Desc) : Nat := fld d 218 14 * 256
def dEpiCol (d : Desc) : Bool := bit d 232
def dTile (d : Desc) : Nat := fld d 256 32
def dScale (d : Desc) : Word := BitVec.ofNat 32 (fld d 288 32)
def dRscale (d : Desc) : Word := BitVec.ofNat 32 (fld d 320 32)
def dRowv (d : Desc) : Nat := fld d 352 14 * 256
def dRbW (d : Desc) : Nat := fld d 366 1
def dRbR (d : Desc) : Nat := fld d 367 1
def dWPitch (d : Desc) : Nat := pitchOf (fld d 368 3)

/-- An MMA or MMA_OS with EPI = 1, or an EPI command. -/
def isEpiStep (d : Desc) : Bool := dOp d == 3 || ([0, 1, 4].contains (dOp d) && dEpi d)

/-- Commands that form dot products. -/
def isMma (d : Desc) : Bool := [0, 1, 4].contains (dOp d)

/-- AUX_FMT as a format code. -/
def auxCode (d : Desc) : Nat := match dAuxFmt d with
  | 1 => 4
  | 2 => 5
  | _ => 6

/-- Whether the epilogue reads aux. -/
def needsAux (d : Desc) : Bool := 7 ≤ dAct d || dRed d == 4 || [1, 2, 3, 4].contains (dElem d)

/-! ### Shapes (Table 5.3) -/

/-- Rows per lane, lanes, K, and the divisor of N. -/
def shapeOf (c : Nat) : Option (Nat × Nat × Nat × Nat) :=
  match c with
  | 0 => some (1, 32, 64, 1)
  | 1 => some (2, 32, 64, 1)
  | 2 => some (4, 32, 64, 1)
  | 3 => some (8, 32, 64, 1)
  | 4 => some (16, 32, 64, 1)
  | 5 => some (16, 32, 64, 2)
  | 6 => some (16, 32, 64, 4)
  | 7 => some (16, 32, 32, 1)
  | 8 => some (16, 16, 64, 1)
  | 9 => some (16, 8, 64, 1)
  | 10 => some (1, 16, 64, 1)
  | _ => none

/-- The columns of a tile of a format (Table 3.4). -/
def tileCols (fmt : Nat) : Nat := if elemBits fmt = 0 then 0 else 512 / elemBits fmt

/-- The geometry of a command: r, L, K, the columns N_t of its tile, N, and whether it reads columns. -/
structure Geo where
  r : Nat
  l : Nat
  k : Nat
  nt : Nat
  n : Nat
  col : Bool
  /-- the first column N0: the columns of aux, bias and outputs are absolute (R138, R164) -/
  n0 : Nat := 0
deriving DecidableEq, Repr

def geoOf (d : Desc) : Geo :=
  let s := (shapeOf (dShape d)).getD (1, 32, 64, 1)
  let col := dOp d == 1 || (dOp d == 3 && dEpiCol d)
  let nt := tileCols (dWfmt d)
  { r := s.1, l := s.2.1, k := s.2.2.1, nt := nt, n := (if col then 64 else nt) / s.2.2.2, col := col, n0 := dN0 d }

def Geo.rows (g : Geo) : Nat := g.r * g.l

/-- Lane and row-in-lane of command row m (R138). -/
def Geo.lane (g : Geo) (m : Nat) : Nat := m % g.l
def Geo.slot (g : Geo) (m : Nat) : Nat := m / g.l

/-! ### Checks at issue, Table 5.9 -/

/-- MACs per core and cycle of an operand pair, per pass for FP32 (Table 5.2). -/
def pairRate (a w : Nat) : Option Nat :=
  if a = 6 ∧ w = 6 then some 1024
  else if (a = 8 ∨ a = 9) ∧ (w = 8 ∨ w = 9) then some 2048
  else if 1 ≤ a ∧ a ≤ 5 ∧ 1 ≤ w ∧ w ≤ 5 then
    (if a = 1 ∧ w = 1 then some 4096 else if elemBits a = 16 ∨ elemBits w = 16 then some 1024 else some 2048)
  else none

/-- R199. -/
def emuPair (a w : Nat) : Bool :=
  let v8 : Nat → Bool := fun x => x == 2 || x == 3
  let h16 : Nat → Bool := fun x => x == 4 || x == 5
  (v8 a && v8 w) || (h16 a && h16 w) || (h16 a && v8 w) || (v8 a && h16 w) || (a == 8 && w == 8)

def isV48 (x : Nat) : Bool := x == 1 || x == 2 || x == 3

def badOp (d : Desc) : Bool :=
  dOp d == 5 || 8 ≤ dOp d || (dEmu d && dOp d != 4)
    || (isEpiStep d && (10 ≤ dAct d || 5 ≤ dRed d || dElem d == 7))

/-- Row slots that the rows of a lane take (R141). -/
def slotsUsed (d : Desc) (g : Geo) : Nat := if dOp d = 1 ∧ g.nt = 128 then 2 * g.r else g.r

def badShape (d : Desc) : Bool :=
  let g := geoOf d
  if dOp d = 6 ∨ dOp d = 7 then false
  else (shapeOf (dShape d)).isNone || (g.col && g.k == 32)
    || ([0, 1, 2].contains (dOp d) && 16 < dRowBase d + slotsUsed d g)
    || (dOp d != 2 && elemBits (dWfmt d) != 0
        && (dN0 d % g.n != 0 || (if g.col then 64 else g.nt) < dN0 d + g.n || 1024 < dLacc d * 64 + g.r * g.n))

def badFormat (d : Desc) : Bool :=
  let a := dAfmt d
  let w := dWfmt d
  if dOp d = 6 ∨ dOp d = 7 then false
  else (dOp d != 3 && elemBits a == 0)
    || (dOp d != 2 && elemBits w == 0)
    || (isMma d && ((pairRate a w).isNone || ((a == 6) != (dSplit d != 0)) || (dBswEn d && !isV48 w)))
    || (dOp d != 3 && dBsaEn d && !isV48 a)
    || (dOp d == 4 && dEmu d && (!emuPair a w || dBsaEn d || dBswEn d || dSplit d != 0))
    || (isEpiStep d && dAuxFmt d == 3)
    || (isEpiStep d && dDest d != 3 && elemBits (dOfmt d) == 0 && dOfmt d != 0x10)

/-- Bytes from the first to the last of `rows` rows of `cols` elements. -/
def extentOf (rows cols pitch bits : Nat) : Nat := (rows - 1) * pitch + (cols * bits + 7) / 8

/-- Number of scales of an array (Table 6.5): `lines` lines of `len` elements. -/
def scaleCount (lines len block : Nat) : Nat := lines * ((len + block - 1) / block)

/-- The areas of the cluster store that a command names: first byte and bytes. -/
def storeAreas (d : Desc) : List (Nat × Nat) :=
  let g := geoOf d
  let ab := elemBits (dAfmt d)
  let wb := elemBits (dWfmt d)
  let hi := dN0 d + g.n
  let a := if dOp d = 2 ∨ dOp d = 4 then
      [(dAAddr d, if dAtrans d then extentOf g.k g.rows (dAPitch d) ab else extentOf g.rows g.k (dAPitch d) ab)]
        ++ (if dBsaEn d then [(dBsaAddr d, if dBsaDir d then scaleCount 64 g.rows (dBsaBlock d)
            else scaleCount g.rows 64 (dBsaBlock d))] else [])
    else []
  let w := if dOp d = 4 ∨ (isMma d ∧ dWsrc d) then
      [(dWAddr d, if dWtrans d then extentOf 64 g.nt (dWPitch d) wb else extentOf g.nt 64 (dWPitch d) wb)]
        ++ (if dBswEn d then [(dBswAddr d, if dBswDir d then scaleCount 64 g.nt (dBswBlock d)
            else scaleCount g.nt 64 (dBswBlock d))] else [])
    else []
  let e := if isEpiStep d then
      (if dDest d = 0 then [(dOutAddr d, extentOf g.rows hi (dOutPitch d) (elemBits (dOfmt d)))] else [])
        ++ (if needsAux d then [(dAuxAddr d, extentOf g.rows hi (dAuxPitch d) (elemBits (auxCode d)))] else [])
        ++ (if dBiasEn d then [(dBiasAddr d, hi * elemBits (dBiasFmt d) / 8)] else [])
        ++ (if dRedWrite d then [(dRedAddr d, 4 * g.rows)] else [])
        ++ (if [4, 5].contains (dElem d) then [(dRowv d, 4 * g.rows)] else [])
    else []
  a ++ w ++ e

/-- Bytes of the accumulator buffer from ACC_ADDR on that a command writes (R160). -/
def accExtent (g : Geo) (pitch : Nat) : Nat :=
  (g.rows - 1) / 64 * g.n * pitchOf pitch + (g.n0 + g.n - 1) * pitchOf pitch + 256

def accOverrun (g : Geo) (addr pitch : Nat) : Bool := 524288 < addr * 256 + accExtent g pitch

def badAddr (scratch : Nat) (d : Desc) : Bool :=
  let g := geoOf d
  if dOp d = 6 then dAccPitch d < 2
  else if dOp d = 7 then false
  else (storeAreas d).any (fun x => scratch < x.1 + x.2)
    || (isEpiStep d && dDest d == 2 && (dAccPitch d < 2 || (!dAccSel d && accOverrun g (dAccAddr d) (dAccPitch d))))

/-- Table 5.8. -/
def badDest (d : Desc) : Bool :=
  let g := geoOf d
  isEpiStep d && (match dDest d with
    | 0 => dOfmt d == 0x10
    | 1 => dOfmt d == 0x10 || g.n != 64 || 16 < dOutRow d + g.r
    | 2 => !(dOp d == 0 || dOp d == 1) || dOfmt d != 6 || dBiasEn d || dAct d != 0 || dElem d != 0 || dRed d != 0
    | _ => false)

/-- R151: the lowest cause that applies. -/
def issueCause (scratch : Nat) (d : Desc) : Option Nat :=
  if badOp d then some 0x20
  else if badShape d then some 0x21
  else if badFormat d then some 0x22
  else if badAddr scratch d then some 0x23
  else if badDest d then some 0x24
  else none

/-! ### Timing counts (R142, Tables 5.2, 5.17) -/

def splitPasses (k : Nat) : List (Nat × Nat) :=
  match k with
  | 1 => [(1, 0), (0, 1), (0, 0)]
  | 2 => [(2, 0), (1, 1), (0, 2), (1, 0), (0, 1), (0, 0)]
  | 3 => [(2, 2), (2, 1), (1, 2), (2, 0), (1, 1), (0, 2), (1, 0), (0, 1), (0, 0)]
  | _ => [(0, 0)]

/-- Broadcast cycles: T of R142, four times as many for MMA_OS. -/
def busyCycles (d : Desc) : Nat :=
  let g := geoOf d
  let c := 64 * g.nt * 32 * (splitPasses (dSplit d)).length / ((pairRate (dAfmt d) (dWfmt d)).getD 1)
  let f := if g.col then c * g.n / 64 else c * g.n / max g.nt 1
  g.r * f * (if dOp d = 4 then 4 else 1)

def usefulMacs (d : Desc) : Nat :=
  let g := geoOf d
  g.rows * (if g.col then g.nt else g.k) * g.n

def twoSweeps (d : Desc) : Bool := dRed d != 0 && [3, 4, 6].contains (dElem d) && dRbR d == dRbW d

def epiCycles (d : Desc) : Nat :=
  let g := geoOf d
  g.r * g.n / 2 * (if twoSweeps d then 2 else 1)

/-! ### Operands -/

/-- The cluster store as a command sees it: with the shadow entries of its cluster when it is speculative (R273). -/
def State.storeView (s : State) (cl : Nat) (spec : Bool) (a n : Nat) : Bytes :=
  if spec then shadowOver (s.cluster cl).shadow false a (s.storeRead cl a n) else s.storeRead cl a n

/-- Element `i` of a format in bytes from `a` of the cluster store (R56). -/
def State.storeElem (s : State) (cl : Nat) (spec : Bool) (fmt a i : Nat) : Nat :=
  let b := elemBits fmt
  if b = 4 then fld (leNat (s.storeView cl spec (a + i / 2) 1)) (4 * (i % 2)) 4
  else leNat (s.storeView cl spec (a + i * (b / 8)) (b / 8))

/-- Element (m, e) of a stationary source: row m of the source, or element e of it transposed (R158). -/
def State.sourceElem (s : State) (cl : Nat) (spec : Bool) (d : Desc) (m e : Nat) : Nat :=
  if dAtrans d then s.storeElem cl spec (dAfmt d) (dAAddr d + e * dAPitch d) m
  else s.storeElem cl spec (dAfmt d) (dAAddr d + m * dAPitch d) e

/-- The scale index of element c of stationary row m among `rows` rows (Table 6.5). -/
def scaleIdxA (d : Desc) (rows m c : Nat) : Nat :=
  let b := dBsaBlock d
  if dBsaDir d then c * ((rows + b - 1) / b) + m / b else m * ((64 + b - 1) / b) + c / b

/-- The scale index of tile element (k, n) (Table 6.5). -/
def scaleIdxW (dir : Bool) (b nt k n : Nat) : Nat :=
  if dir then k * ((nt + b - 1) / b) + n / b else n * ((64 + b - 1) / b) + k / b

/-- The 64 scales of stationary row m as a number. -/
def State.rowScales (s : State) (cl : Nat) (spec : Bool) (d : Desc) (rows m : Nat) : Nat :=
  leNat ((List.range 64).map (fun c => BitVec.ofNat 8 (leNat (s.storeView cl spec (dBsaAddr d + scaleIdxA d rows m c) 1))))

/-- The code of an element and its block-scale field, 127 without scales. -/
abbrev Operand := Nat × Nat

def rowKey (lane slot : Nat) : Nat := lane * 16 + slot

/-- Operand A of a command: row m, contraction index i, from the row slots (R138, R139). -/
def Core.slotOperand (c : Core) (d : Desc) (g : Geo) (m i : Nat) : Operand :=
  let two := g.col && g.nt == 128
  let slot := if two then dRowBase d + 2 * g.slot m + i / 64 else dRowBase d + g.slot m
  let e := if two then i % 64 else i
  let b := elemBits (dAfmt d)
  let sc := if dBsaEn d then match c.rowScale.find? (rowKey (g.lane m) slot) with
      | some x => fld x (8 * e) 8
      | none => 127
    else 127
  (fld (c.rows.get 0 (rowKey (g.lane m) slot)) (b * e) b, sc)

/-- Operand A of MMA_OS, from the cluster store (R169): the elements that LOADA writes, +0 beyond K (R158). -/
def State.osOperand (s : State) (cl : Nat) (spec : Bool) (d : Desc) (g : Geo) (m i : Nat) : Operand :=
  (if i < g.k then s.sourceElem cl spec d m i else 0,
   if dBsaEn d then leNat (s.storeView cl spec (dBsaAddr d + scaleIdxA d g.rows m i) 1) else 127)

/-- Element (k, n) of a tile payload (R56). -/
def tileElem (fmt : Nat) (orient : Bool) (payload : Nat) (k n : Nat) : Nat :=
  let b := elemBits fmt
  fld payload (b * (if orient then k * tileCols fmt + n else n * 64 + k)) b

/-- A weight tile as a command reads it: format, orientation, payload, scales with their direction and block. -/
structure WTile where
  fmt : Nat
  orient : Bool
  payload : Nat
  scales : Option (Nat × Bool × Nat)

def WTile.operand (w : WTile) (k n : Nat) : Operand :=
  (tileElem w.fmt w.orient w.payload k n, match w.scales with
    | some (x, dir, b) => fld x (8 * scaleIdxW dir b (tileCols w.fmt) k n) 8
    | none => 127)

/-- The tile that WSRC = 1 or MMA_OS reads from the cluster store, stored K-major (R147). -/
def State.localPayload (s : State) (cl : Nat) (spec : Bool) (d : Desc) : Bytes :=
  let f := dWfmt d
  let elem : Nat → Nat → Nat := fun k n =>
    if dWtrans d then s.storeElem cl spec f (dWAddr d + k * dWPitch d) n
    else s.storeElem cl spec f (dWAddr d + n * dWPitch d) k
  leBytes 4096 (packFields ((List.range (tileCols f)).flatMap (fun n =>
    (List.range 64).map (fun k => (elemBits f, elem k n)))))

def State.localScales (s : State) (cl : Nat) (spec : Bool) (d : Desc) : Bytes :=
  if dBswEn d then s.storeView cl spec (dBswAddr d) 512 else []

/-! ### Pass groups -/

/-- A product of two operands with its block factor (R176), and whether the factor overflowed or underflowed. -/
def product (fa fw : Nat) (a w : Operand) : Val × Bool × Bool :=
  let p := mulVal (decodeElem fa a.1) (decodeElem fw w.1)
  if a.2 = 127 ∧ w.2 = 127 then (p, false, false)
  else
    let f := scaleFactor a.2 w.2
    (mulVal p f.1, f.2.1, f.2.2)

/-- R187: the product of pieces of two binary32 operands. -/
def pieceProduct (a w : Word) (i j : Nat) : Val :=
  if finite32 a && finite32 w then mulVal (piece a i) (piece w j)
  else if i = 0 ∧ j = 0 then mulVal (val32 a) (val32 w) else .fin false 0 0

/-- The sum of a pass group, with what it counts: a saturation, an overflow and an underflow of factors. -/
structure GroupOut where
  sum : Word
  sat : Bool
  ovf : Bool := false
  ufl : Bool := false
deriving DecidableEq, Repr

def groupOf (d : Desc) (ops : List (Operand × Operand)) : GroupOut :=
  let ps := ops.map (fun x => product (dAfmt d) (dWfmt d) x.1 x.2)
  let r := if dEmu d then passGroupEmu (ps.map (·.1)) else passGroup (ps.map (·.1))
  { sum := r.1, sat := r.2, ovf := ps.any (·.2.1), ufl := ps.any (·.2.2) }

def splitGroup (ops : List (Operand × Operand)) (i j : Nat) : GroupOut :=
  let r := passGroup (ops.map (fun x => pieceProduct (BitVec.ofNat 32 x.1.1) (BitVec.ofNat 32 x.2.1) i j))
  { sum := r.1, sat := r.2 }

/-- The pass groups of one output in their order (R139, R186, R200). DESIGN CHOICE: with EMU = 1 and K = 32 the second group is
that of the elements beyond K, which are +0 in A (log entry 38). -/
def groupsOf (d : Desc) (g : Geo) (ops : List (Operand × Operand)) : List GroupOut :=
  if dAfmt d = 6 then (splitPasses (dSplit d)).map (fun p => splitGroup ops p.1 p.2)
  else if dEmu d then [groupOf d (ops.take 32), groupOf d (ops.drop 32)]
  else if g.col && g.nt == 128 then [groupOf d (ops.take 64), groupOf d (ops.drop 64)]
  else [groupOf d ops]

/-- R179: group sums enter an accumulator; the count of saturations beside it. -/
def accumulate (init : Bool) (old : Word) (gs : List GroupOut) : Word × Nat :=
  match gs with
  | [] => (old, 0)
  | x :: r =>
    let one : Word × Nat → Word → Word × Nat := fun a g =>
      let t := add32 a.1 g
      (t.1, a.2 + (if t.2 then 1 else 0))
    (r.map (·.sum)).foldl one (if init then (x.sum, 0) else one (old, 0) x.sum)

/-- R200: the two group sums of a slice are combined first. -/
def accumulateEmu (init : Bool) (old : Word) (gs : List GroupOut) : Word × Nat :=
  match gs with
  | [x, y] =>
    let h := add32z x.sum y.sum
    let n := if h.2 then 1 else 0
    if init then (h.1, n)
    else
      let t := add32z old h.1
      (t.1, n + (if t.2 then 1 else 0))
  | _ => (old, 0)

def laccKey (d : Desc) (g : Geo) (m c : Nat) : Nat := g.lane m * 1024 + dLacc d * 64 + g.slot m * g.n + c

/-- The rows and block columns of a command, columns first (R138). -/
def outputsOf (g : Geo) : List (Nat × Nat) :=
  (List.range g.n).flatMap (fun c => (List.range g.rows).map (fun m => (m, c)))

/-- The operand pairs of output (m, c). -/
def pairsOf (d : Desc) (g : Geo) (a : Nat → Nat → Operand) (w : Nat → Nat → Operand) (m c : Nat) :
    List (Operand × Operand) :=
  let x := dN0 d + c
  if g.col then (List.range g.nt).map (fun i => (a m i, w x i)) else (List.range 64).map (fun i => (a m i, w i x))

/-- One output of a multiplication: the new accumulator, and the counts. -/
def mmaOutput (d : Desc) (g : Geo) (lacc : Bank Word) (a w : Nat → Nat → Operand) (m c : Nat) : Word × MxCounts :=
  let gs := groupsOf d g (pairsOf d g a w m c)
  let old := lacc.get 0 (laccKey d g m c)
  let r := if dEmu d then accumulateEmu (!dAccIn d) old gs else accumulate (!dAccIn d) old gs
  (r.1, { satAcc := r.2 + (gs.filter (·.sat)).length, scaleOvf := (gs.filter (·.ovf)).length,
          scaleUfl := (gs.filter (·.ufl)).length })

def MxCounts.add (a b : MxCounts) : MxCounts :=
  { satAcc := a.satAcc + b.satAcc, satConv := a.satConv + b.satConv, scaleOvf := a.scaleOvf + b.scaleOvf,
    scaleUfl := a.scaleUfl + b.scaleUfl, nanOut := a.nanOut + b.nanOut, busy := a.busy + b.busy, macs := a.macs + b.macs,
    wwait := a.wwait + b.wwait, haz := a.haz + b.haz, epiBusy := a.epiBusy + b.epiBusy, epiWait := a.epiWait + b.epiWait,
    loadaBytes := a.loadaBytes + b.loadaBytes, wloadLocal := a.wloadLocal + b.wloadLocal }

/-- A multiplication: the lane accumulators after it, the changed ones with their old values, and the counts. -/
def mmaBlock (d : Desc) (g : Geo) (lacc : Bank Word) (a w : Nat → Nat → Operand) :
    Bank Word × List (Nat × Word) × MxCounts :=
  (outputsOf g).foldl (fun t o =>
    let r := mmaOutput d g lacc a w o.1 o.2
    let k := laccKey d g o.1 o.2
    (t.1.set 0 k r.1, (k, lacc.get 0 k) :: t.2.1, t.2.2.add r.2)) (lacc, [], {})

/-! ### The epilogue step (R164) -/

def rbKey (b lane j : Nat) : Nat := b * 512 + lane * 16 + j

/-- A number of a format in the cluster store as binary32, exact. -/
def State.storeF32 (s : State) (cl : Nat) (spec : Bool) (fmt a i : Nat) : Word :=
  roundVal f32Nan (decodeElem fmt (s.storeElem cl spec fmt a i))

/-- What the epilogue reads for output (m, c): the value after ACT, and aux. -/
def State.epiValue (s : State) (cl : Nat) (spec : Bool) (core : Core) (d : Desc) (g : Geo) (rb0 : Word) (m c : Nat) :
    Word × Word :=
  let x := dN0 d + c
  let aux := if needsAux d then s.storeF32 cl spec (auxCode d) (dAuxAddr d + m * dAuxPitch d) x else 0#32
  let v := mulIeee (core.lacc.get 0 (laccKey d g m c)) (dScale d)
  let v := if dBiasEn d then addIeee v (s.storeF32 cl spec (dBiasFmt d) (dBiasAddr d) x) else v
  (activate (dAct d) v aux rb0, aux)

/-- One row of the epilogue: its outputs before conversion, and its reduction. The second of two sweeps recomputes v with the
completed row buffer, which EXP_ROW reads where it is RB0 (R168). -/
def State.epiRow (s : State) (cl : Nat) (spec : Bool) (core : Core) (d : Desc) (g : Geo) (m : Nat) : List Word × Word :=
  let old : Nat → Word := fun b => core.rb.get 0 (rbKey b (g.lane m) (g.slot m))
  let sweep : Word → List (Word × Word) := fun rb0 => (List.range g.n).map (fun c => s.epiValue cl spec core d g rb0 m c)
  let vs := sweep (old 0)
  let red := if dRed d = 0 then old (dRbW d)
    else reduceInto (dRed d) (dRedAcc d) (old (dRbW d)) (reduceRow (dRed d) vs (dRscale d))
  let rb := if twoSweeps d then red else old (dRbR d)
  let rowv := if [4, 5].contains (dElem d) then s.storeF32 cl spec 6 (dRowv d) m else 0#32
  let us := if twoSweeps d && dRbW d == 0 then sweep red else vs
  (us.map (fun v => elementwise (dElem d) v.1 v.2 rb rowv), red)

/-- The result of an epilogue step: rows of outputs, row buffers, counts and histogram, converted codes. -/
structure EpiOut where
  rows : List (List Word)
  reds : List Word
  codes : List (List Nat)
  counts : MxCounts
  hist : Bank Nat

/-- Conversion of outputs for DEST = 0 and 1 (R190); DEST = 2 keeps binary32. -/
def convertRow (fmt : Nat) (l : List Word) : List Conv1 := l.map (fun v => convertElem fmt (val32 v))

def countHist (h : Bank Nat) (v : Word) : Bank Nat := h.set 0 (histBin v) (min 0xFFFFFF (h.get 0 (histBin v) + 1))

def State.epilogue (s : State) (cl : Nat) (spec : Bool) (core : Core) (d : Desc) : EpiOut :=
  let g := geoOf d
  let rs := (List.range g.rows).map (fun m => s.epiRow cl spec core d g m)
  let outs := rs.map (·.1)
  let conv := if dDest d = 3 then [] else outs.map (convertRow (dOfmt d))
  let all := conv.flatten
  { rows := outs, reds := rs.map (·.2), codes := conv.map (·.map (·.code)),
    counts := { satConv := (all.filter (·.sat)).length, nanOut := (all.filter (·.nan)).length, epiBusy := epiCycles d },
    hist := if dHist d then outs.flatten.foldl countHist [] else [] }

/-- Codes of a format packed into bytes (R56). -/
def packCodes (fmt : Nat) (l : List Nat) : Bytes :=
  leBytes ((l.length * elemBits fmt + 7) / 8) (packFields (l.map (fun c => (elemBits fmt, c))))

end Sys2Proof.Machine
end

