-- ==== Sys2Proof/Machine/ThreadControl.lean ====
section
/-!
DEFINITION. The group and control instructions of Table 7.5: shuffles and votes (R218, R219), special values (R206),
branches and masks (R213 to R216), EXIT and TRAP (R217, R233), barriers (R229) and the waits on tokens (R222, R303).
-/

namespace Sys2Proof.Machine

/-! ### Shuffles and votes -/

/-- R218: the source lane of thread t for kind `k`, width W and operand x, if it is valid. DEDUCED: x, a register or the
sign-extended IMM16, is an unsigned number for every kind (log entry 30). -/
def shflSource (k W t x : Nat) : Option Nat :=
  let b := t - t % W
  match k with
  | 0 => some (b + x % W)
  | 1 => if x + b ≤ t then some (t - x) else none
  | 2 => if t + x < b + W then some (t + x) else none
  | _ => if b ≤ t ^^^ x ∧ t ^^^ x < b + W then some (t ^^^ x) else none

def execShfl (g : Gid) (w : BitVec 64) (s : State) : Out :=
  runInstr 0x50 g w ([dstOf w, srcAOf w] ++ srcBReg w) (fun gr t =>
    if 4 < fld (srcCOf w) 4 3 then .fault (illegalOp w gr)
    else
      let width := 2 ^ (1 + fld (srcCOf w) 4 3)
      let src : Nat → Option Nat := fun l =>
        match shflSource (modOf w).toNat width l (gr.srcB w l).toNat with
        | some q => if gr.active.getLsbD q then some q else none
        | none => none
      let gr1 := gr.setLanes (gr.acting w) (dstOf w) (fun l => gr.reg ((src l).getD l) (srcAOf w))
      let ok := maskOf ((lanesOf (gr.acting w)).filter (fun l => (src l).isSome))
      whenActive gr t (.next t (gr1.setPredLanes (gr.acting w) (srcCOf w % 8) ok))) s

/-- R219: the predicate that VOTE takes is named in SRCA bits 2:0. -/
def execVote (g : Gid) (w : BitVec 64) (s : State) : Out :=
  runInstr 0x51 g w (if (modOf w).toNat = 2 ∧ !Config.dstUniform w then [dstOf w] else []) (fun gr t =>
    let hit := gr.active &&& gr.pred (srcAOf w % 8)
    let all : Bool → Word := fun b => if b then 0xFFFFFFFF#32 else 0#32
    let gr' := match (modOf w).toNat with
      | 0 => gr.setPredLanes (gr.acting w) (dstOf w % 8) (all (hit ≠ 0#32))
      | 1 => gr.setPredLanes (gr.acting w) (dstOf w % 8) (all (hit = gr.active))
      | 2 =>
        if Config.dstUniform w then (if gr.acting w = 0#32 then gr else gr.setUreg (dstOf w) hit)
        else gr.setLanes (gr.acting w) (dstOf w) (fun _ => hit)
      | _ => gr.setPredLanes (gr.acting w) (dstOf w % 8) (maskOf ((lowest gr.active).toList))
    whenActive gr t (.next t gr')) s

/-- R219: gA of the lowest active thread into uD. -/
def execMovu (g : Gid) (w : BitVec 64) (s : State) : Out :=
  runInstr 0x52 g w [srcAOf w] (fun gr t =>
    match lowest gr.active with
    | none => .next t gr
    | some l => .next t (if (gr.acting w).getLsbD l then gr.setUreg (dstOf w) (gr.reg l (srcAOf w)) else gr)) s

/-- The oldest live step of a context (Table 7.2 code 13; R343): a closed step is older than an open one. -/
def State.oldestLive (s : State) (k : Nat) : Option LiveStep :=
  match s.steps.closed with
  | some c => if c.participants.contains k then some c
    else (match s.steps.open_ with
      | some o => if o.participants.contains k then some o else none
      | none => none)
  | none => match s.steps.open_ with
    | some o => if o.participants.contains k then some o else none
    | none => none

/-- R206: the group after the latch that a code makes. -/
def latchFor (s : State) (code : Nat) (g : Group) : Group :=
  if code = 7 then { g with latch := BitVec.ofNat 64 s.pace }
  else if code = 9 then { g with latch := BitVec.ofNat 64 s.now } else g

/-- The special values of Table 7.2 for a lane, read after the latch; none for a reserved code. -/
def specialValue (s : State) (gk : Nat) (g : Group) (lane code : Nat) : Option Word :=
  match code with
  | 0 => some (BitVec.ofNat 32 lane)
  | 1 => some (BitVec.ofNat 32 (gk % 16))
  | 2 => some (BitVec.ofNat 32 (gk / 16 % 4))
  | 3 => some (BitVec.ofNat 32 (s.clusterView (ctxVi g.ctx) (clusterKeyOf gk)))
  | 4 => some g.live
  | 5 => some g.active
  | 6 => some (g.latch.extractLsb' 0 16 |>.setWidth 32)
  | 7 => some (g.latch.extractLsb' 16 32)
  | 8 => some (g.latch.extractLsb' 48 16 |>.setWidth 32)
  | 9 => some (g.latch.extractLsb' 0 32)
  | 10 => some (g.latch.extractLsb' 32 32)
  | 11 => some (BitVec.ofNat 32 (s.dieCycles (dieOfCluster (clusterKeyOf gk)) - (s.core (coreKeyOf gk)).kStart))
  | 12 => some (BitVec.ofNat 32 g.gindex)
  | 13 => some (((s.oldestLive g.ctx).map (·.step)).getD 0xFFFFFFFF#32)
  | 14 => some (BitVec.ofNat 32 (g.ctx % 4096))
  | _ => none

/-- R206: MOVS; the code is SRCC, the class-specific selector of Table 7.4. -/
def execMovs (g : Gid) (w : BitVec 64) (s : State) : Out :=
  runInstr 0x53 g w (if Config.dstUniform w then [] else [dstOf w]) (fun gr t =>
    if 14 < srcCOf w then .fault (illegalOp w gr)
    else if gr.acting w = 0#32 then .next t gr
    else
      let gl := latchFor t (srcCOf w) gr
      let v : Nat → Word := fun l => (specialValue t (gidKey g) gl l (srcCOf w)).getD 0
      .next t (if Config.dstUniform w then gl.setUreg (dstOf w) (v ((lowest gr.active).getD 0))
        else gl.setLanes (gr.acting w) (dstOf w) v)) s

/-! ### Control -/

/-- The code object of the group's kernel: base and length. -/
def State.codeOf (s : State) (g : Group) : Nat × Nat :=
  match s.launch? g.launch with
  | some l => match s.host.kernels.find? l.kernel with
    | some k => (k.code, k.codeBytes)
    | none => (0, 0)
  | none => (0, 0)

/-- A branch to `target`; one outside the kernel's code object faults with ILLEGAL_OP (R209, Table 7.9). -/
def branchTo (w : Instr64) (g : Group) (s : State) (target : Int) : Res :=
  let c := s.codeOf g
  if (c.1 : Int) ≤ target ∧ target < c.1 + c.2 then .goto s g (BitVec.ofInt 48 target)
  else .fault (illegalOp w g)

/-- A taken branch, by the signed offset of its word. -/
def takeBranch (w : Instr64) (g : Group) (s : State) : Res := branchTo w g s ((g.pc.toNat : Int) + 8 + 8 * offsetOf w)

/-- A control instruction that acts for the whole group acts when a thread acts, and while A = 0. -/
def groupActs (g : Group) (w : Instr64) : Bool := g.active = 0#32 || g.acting w ≠ 0#32

def execNop (g : Gid) (w : BitVec 64) (s : State) : Out := runInstr 0x60 g w [] (fun gr t => .next t gr) s

/-- R215. -/
def execBra (g : Gid) (w : BitVec 64) (s : State) : Out :=
  runInstr 0x61 g w [] (fun gr t =>
    if gr.acting w = gr.active then takeBranch w gr t
    else if gr.acting w = 0#32 then .next t gr
    else .fault (mkFaultInfo 0x05 (gr.acting w).toNat 0 gr.active)) s

/-- R215. -/
def execBraAny (g : Gid) (w : BitVec 64) (s : State) : Out :=
  runInstr 0x62 g w [] (fun gr t => if gr.acting w = 0#32 then .next t gr else takeBranch w gr t) s

/-- Go on, or branch to the target when A has become 0 (Table 7.6). -/
def maskBranch (w : Instr64) (g : Group) (s : State) : Res :=
  if g.active = 0#32 then takeBranch w g s else .next s g

/-- PUSHM pN, target: pN is the guard predicate. -/
def execPushm (g : Gid) (w : BitVec 64) (s : State) : Out :=
  runInstr 0x63 g w [] (fun gr t =>
    if 32 ≤ gr.stack.length then .fault (mkFaultInfo 0x03 0 0 gr.active)
    else maskBranch w { gr with stack := (gr.active, gr.acting w) :: gr.stack, active := gr.acting w } t) s

def execFlipm (g : Gid) (w : BitVec 64) (s : State) : Out :=
  runInstr 0x64 g w [] (fun gr t =>
    if groupActs gr w then
      match gr.stack with
      | [] => .fault (mkFaultInfo 0x04 0 0 gr.active)
      | e :: _ => maskBranch w { gr with active := e.1 &&& ~~~ e.2 } t
    else .next t gr) s

/-- CLRM pN: pN is the guard predicate. -/
def execClrm (g : Gid) (w : BitVec 64) (s : State) : Out :=
  runInstr 0x65 g w [] (fun gr t => .next t { gr with active := gr.active &&& ~~~ gr.acting w }) s

def execPopm (g : Gid) (w : BitVec 64) (s : State) : Out :=
  runInstr 0x66 g w [] (fun gr t =>
    if groupActs gr w then
      match gr.stack with
      | [] => .fault (mkFaultInfo 0x04 0 0 gr.active)
      | e :: r => .next t { gr with active := e.1, stack := r }
    else .next t gr) s

/-- R216. -/
def execCall (g : Gid) (w : BitVec 64) (s : State) : Out :=
  runInstr 0x67 g w [] (fun gr t =>
    if dstOf w % 2 = 1 ∨ 62 < dstOf w then .fault (illegalOp w gr)
    else if groupActs gr w then
      let ret := gr.pc + 8
      let gr' := (gr.setUreg (dstOf w) (ret.extractLsb' 0 32)).setUreg (dstOf w + 1)
        ((ret.extractLsb' 32 16).setWidth 32)
      takeBranch w gr' t
    else .next t gr) s

/-- The address in uA (bits 31:0) and uA+1 (bits 15:0). -/
def retTarget (w : Instr64) (g : Group) : Nat :=
  (g.ureg (srcAOf w)).toNat + 2 ^ 32 * ((g.ureg (srcAOf w + 1)).toNat % 65536)

/-- R216. DEDUCED: the address is a branch target, so Table 7.9 holds of one outside the code object; one that is not a
multiple of 8 is taken as it stands (log entry 30). -/
def execRet (g : Gid) (w : BitVec 64) (s : State) : Out :=
  runInstr 0x68 g w [] (fun gr t => if groupActs gr w then branchTo w gr t (retTarget w gr) else .next t gr) s

/-- R217: EXIT waits for GROUP_END. -/
def execExit (g : Gid) (w : BitVec 64) (s : State) : Out :=
  runInstr 0x69 g w [] (fun gr t =>
    if groupActs gr w then
      if gr.stack.isEmpty && gr.active == gr.live then .hold t { gr.disarm with status := .exiting }
      else .fault (mkFaultInfo 0x06 gr.live.toNat 0 gr.active)
    else .next t gr) s

/-- R233: TRAP parks precisely with IMM16. -/
def execTrap (g : Gid) (w : BitVec 64) (s : State) : Out :=
  runInstr 0x6A g w [] (fun gr t =>
    if groupActs gr w then .fault (mkFaultInfo 0x08 (w.extractLsb' 0 16).toNat 0 gr.active) else .next t gr) s

/-- R211: a reserved opcode faults at decode. -/
def execIllegalInstruction (g : Gid) (w : BitVec 64) (s : State) : Out :=
  if assignedOpcode (opcOf w) then .next s
  else runWord g w [] (fun gr _ => .fault (illegalOp w gr)) s

/-! ### Tokens and barriers -/

/-- The token number in IMM16 bits 2:0. -/
def tokenOf (w : Instr64) : Nat := (w.extractLsb' 0 3).toNat

/-- R222. -/
def execMxWait (g : Gid) (w : BitVec 64) (s : State) : Out :=
  runInstr 0x91 g w [] (fun gr t =>
    if gr.acting w = 0#32 then .next t gr
    else if gr.mxTok.get 0 (tokenOf w) = 0 then .next t gr
    else .hold t { gr with status := .mxWait (tokenOf w) }) s

/-- R222: 1 into pD of every active thread if the counter is 0. -/
def execMxTest (g : Gid) (w : BitVec 64) (s : State) : Out :=
  runInstr 0x92 g w [] (fun gr t =>
    let v := if gr.mxTok.get 0 (tokenOf w) = 0 then 0xFFFFFFFF#32 else 0#32
    whenActive gr t (.next t (gr.setPredLanes (gr.acting w) (dstOf w % 8) v))) s

/-- R303. -/
def execDmaWait (g : Gid) (w : BitVec 64) (s : State) : Out :=
  runInstr 0x94 g w [] (fun gr t =>
    if gr.acting w = 0#32 then .next t gr
    else if gr.dmaTok.get 0 (tokenOf w) = 0 then .next t gr
    else .hold t { gr with status := .dmaWait (tokenOf w) }) s

/-- R229: the group waits at the barrier of scope MOD[0]. -/
def execBar (g : Gid) (w : BitVec 64) (s : State) : Out :=
  runInstr 0x82 g w [] (fun gr t =>
    if gr.acting w = 0#32 then .next t gr
    else .hold t { gr.disarm with status := .barrier ((modOf w).getLsbD 0) }) s

/-- How many groups of a launch run on core `core` of logical cluster `cl` of `c` (R408). -/
def placedOn (groups c cl core : Nat) : Nat :=
  let first := cl + c * core
  if c = 0 ∨ groups ≤ first then 0 else (groups - first - 1) / (4 * c) + 1

/-- The place of group `i` of a launch of virtual interface `v`: physical cluster and core. -/
def State.placeOf (s : State) (v i : Nat) : Option (Nat × Nat) :=
  let c := s.clusterCount v
  if c = 0 then none else (s.clusterOf v (i % c)).map (fun cl => (cl, i / c % 4))

/-- Logical number of a physical cluster in a partition. -/
def State.logicalOf (s : State) (v cl : Nat) : Option Nat :=
  (List.range (s.clusterCount v)).find? (fun i => s.clusterOf v i == some cl)

/-- R229: whether every group of the kernel in the barrier's scope has reached it or has ended. -/
def State.barrierComplete (s : State) (gk : Nat) (g : Group) (wide : Bool) : Bool :=
  match s.launch? g.launch with
  | none => false
  | some l =>
    let v := ctxVi l.ctx
    let c := s.clusterCount v
    match s.logicalOf v (clusterKeyOf gk) with
    | none => false
    | some cl =>
      let cores := if wide then [0, 1, 2, 3] else [gk / 16 % 4]
      let placed := sumNat (cores.map (placedOn l.groups c cl))
      let inScope : Nat → Bool := fun i => i % c == cl && cores.contains (i / c % 4)
      let ended := (l.ended.filter inScope).length
      let here := (s.groups.filter (fun x => x.2.launch == g.launch && inScope x.2.gindex
        && x.2.status == .barrier wide && x.2.pc == g.pc && x.2.async.isEmpty)).length
      placed == ended + here

/-- R229: the last group has arrived or ended; the groups that wait resume past the barrier. -/
def execBarrierRelease (g : Gid) (s : State) : Out :=
  match s.group? (gidKey g) with
  | none => .next s
  | some gr =>
    match gr.status with
    | .barrier wide =>
      if s.barrierComplete (gidKey g) gr wide then
        let key : Nat → Nat := fun k => if wide then clusterKeyOf k else coreKeyOf k
        let free : Nat × Group → Nat × Group := fun x =>
          if x.2.launch == gr.launch && key x.1 == key (gidKey g) && x.2.status == .barrier wide && x.2.pc == gr.pc
          then (x.1, { x.2 with status := .running, pc := x.2.pc + 8 }) else x
        .next { s with groups := s.groups.map free }
      else .next s
    | _ => .next s

end Sys2Proof.Machine
end

