-- ==== Sys2Proof/Machine/Matrix.lean ====
section
/-!
DEFINITION. The commands of a matrix row: issue (R151, R220, R221), the head of the queue and its weight-cell buffer
(R144 to R150), the engines (R138, R139, R158, R169), the epilogue step and the accumulator add unit (R160 to R168),
completion (R157, R195, R496) and removal by a fault (R155, R225).
-/

namespace Sys2Proof.Machine

def cidKey (c : Cid) : Nat := c.cluster.val * 4 + c.core.val

/-- Group key of group `n` of a core. -/
def groupKeyOn (ck n : Nat) : Nat := ck * 16 + n

/-- DETAIL of a matrix fault: descriptor address in 64-byte units and token (Table 7.9). -/
def mxDetail (addr token : Nat) : Nat := addr / 64 % 65536 + token * 65536

def State.coreCycles (s : State) (ck : Nat) : Nat := s.dieCycles (dieOfCluster (ck / 4))

/-! ### Weight-cell buffers -/

def Core.cell (c : Core) (i : Nat) : WeightCell := if i = 0 then c.cell0 else c.cell1
def Core.setCell (c : Core) (i : Nat) (x : WeightCell) : Core :=
  if i = 0 then { c with cell0 := x } else { c with cell1 := x }

/-- The free buffer that a claim takes: buffer 0 when both are free (R73). -/
def Core.freeCell (c : Core) : Option Nat :=
  if c.cell0.state = .free then some 0 else if c.cell1.state = .free then some 1 else none

/-- One use of a buffer is released; the last one frees it (R146). -/
def Core.releaseUse (c : Core) (i : Nat) : Core :=
  let x := c.cell i
  if x.uses ≤ 1 then c.setCell i {} else c.setCell i { x with uses := x.uses - 1 }

/-- Which scale block a code of Table 3.8 names. -/
def scaleBlockOf (c : Nat) : Nat := 16 * 2 ^ c

/-- The tile in a buffer as a command reads it; a local tile takes direction and block of its scales from the
descriptor. -/
def tileOf (x : WeightCell) (d : Desc) : WTile :=
  { fmt := dWfmt d, orient := x.orient, payload := leNat x.payload,
    scales := if !dBswEn d then none
      else if x.local_ then some (leNat x.scales, dBswDir d, dBswBlock d)
      else some (leNat x.scales, x.scDir, scaleBlockOf x.scBlock) }

/-! ### Removal and faults (R155, R225, R231) -/

/-- Groups of a core that wait for room in its queue try again. -/
def State.wakeIssue (s : State) (ck : Nat) : State :=
  let wake : Nat × Group → Nat × Group := fun x =>
    if coreKeyOf x.1 == ck && x.2.status == .mxStall then (x.1, { x.2 with status := .running }) else x
  { s with groups := s.groups.map wake }

/-- A command leaves the counter of its token. -/
def Group.lessToken (g : Group) (token : Nat) : Group :=
  { g with mxTok := g.mxTok.set 0 token (g.mxTok.get 0 token - 1) }

/-- R221, R222: the token of a completed command is posted. A group in MX.WAIT for it goes on at 0, unless a fault waits
to park it there (R230); one that stalls in MX.ISSUE tries again. -/
def State.postToken (s : State) (gk token : Nat) : State :=
  match s.group? gk with
  | none => s
  | some g0 =>
    let g := g0.lessToken token
    let g := if g.status = .mxWait token ∧ g.mxTok.get 0 token = 0 ∧ g.async.isEmpty
        then { g.countInstr with status := .running, pc := g.pc + 8 }
      else if g.status = .mxStall then { g with status := .running } else g
    s.putGroup gk g

/-- An asynchronous fault of a group: recorded at once for a parked group, else at its next boundary. -/
def State.faultAsync (s : State) (gk : Nat) (f : FaultInfo) : State :=
  match s.group? gk with
  | none => s
  | some g => if g.status = .parked then s.park gk f else s.putGroup gk { g with async := g.async ++ [f] }

/-- The step that a command of a task is attributed to (R195), and whether its task is speculative on the verdict of
the step before. -/
def State.stepOfTask (s : State) (launch ctx : Nat) : Option (BitVec 32 × Bool) :=
  let spec := match s.launch? launch with
    | some l => match l.cond with
      | some c => if c.kind = 1 ∧ l.outcome ≠ some true then some (stepAfter c.object) else none
      | none => none
    | none => none
  match spec with
  | some st => some (st, true)
  | none => (s.oldestLive ctx).map (fun x => (x.step, false))

/-- The counts of Table 5.17 and of Table 6.10 in their order. -/
def MxCounts.events (c : MxCounts) : List Nat :=
  [c.busy, c.macs, c.wwait, c.haz, c.epiBusy, c.epiWait, c.loadaBytes, c.wloadLocal]
def MxCounts.numeric (c : MxCounts) : List Nat := [c.satAcc, c.satConv, c.scaleOvf, c.scaleUfl, c.nanOut]

/-- R496, R501, R502: the record of a matrix command that ends now. -/
def State.mxRecord (s : State) (ck : Nat) (x : MxCmd) (removed : Bool) : State :=
  let core := s.core ck
  if !core.mrec || x.stage == .queued then s
  else
    let e := s.latchNow (ck / 4)
    let l := x.latch
    let launch : Option Launch := s.launch? x.launch
    let wide : List Nat := x.counts.events ++ x.counts.numeric ++ (List.range 5).map (fun j => e.pf.getD j 0 - l.pf.getD j 0)
      ++ [e.mtWait - l.mtWait]
    let sat := wide.any (fun n => decide (0xFFFFFFFF < n))
    let payload := leBytes 384 (packFields (wide.map (fun n => (32, sat32n n)) ++
      [(1024 - 32 * wide.length, 0)] ++ (List.range 64).map (fun i => (24, x.hist.get 0 i))))
    s.writeRecord x.ctx (s.recordBytes l
      { ctx := x.ctx, kind := 1, layer := launch.elim 0 (fun a => a.layer.toNat),
        op := launch.elim 0 (fun a => a.op.toNat), cookie := launch.elim 0 (fun a => a.cookie.toNat),
        cluster := s.clusterView (ctxVi x.ctx) (ck / 4), core := ck % 4, group := x.group % 16, token := x.token,
        opcode := dOp x.desc.toNat, desc := x.addr / 64, cycles := e.cycles - l.cycles,
        stretch := e.stretch - l.stretch, stop := e.stop - l.stop,
        step := (((s.stepOfTask x.launch x.ctx).map (·.1)).getD 0xFFFFFFFF#32).toNat, spec := x.spec, removed := removed,
        sat := sat } payload)

def needsCell (d : Desc) : Bool := dOp d == 0 || dOp d == 1

/-- R172: what a command still waits for enters its counts: behind its epilogue the accumulator add unit; at the head a hazard
or its counter set, else a buffer. -/
def MxCmd.settled (x : MxCmd) (now : Nat) : MxCmd :=
  if x.stage = .epilogued then { x with counts.epiWait := now - x.since }
  else if x.stage ≠ .head then x
  else match x.hazSince with
    | some t => { x with counts.haz := x.counts.haz + (now - t), hazSince := none, since := now }
    | none =>
      if needsCell x.desc.toNat && x.cell.isNone then { x with counts.wwait := x.counts.wwait + (now - x.since), since := now }
      else x

/-- Position of the first command that has not started. -/
def Core.headIdx (c : Core) : Option Nat := c.queue.findIdx? (fun x => x.stage == .queued || x.stage == .head)

/-- Change the command at position `i` of a queue. -/
def Core.setCmd (c : Core) (i : Nat) (x : MxCmd) : Core := { c with queue := c.queue.set i x }

/-- R497: the counter set of a command is held by an earlier one. -/
def Core.setHeld (c : Core) (x : MxCmd) : Bool :=
  c.queue.any (fun y => y.issue % 16 == x.issue % 16 && y.issue < x.issue)

/-! #### Hazards and engines (R156, Table 5.10) -/

/-- Row slots that an epilogue with DEST = 1 of a command will write (Table 5.10). -/
def epilogueSlots (d : Desc) : List Nat := if dDest d = 1 then (List.range (geoOf d).r).map (dOutRow d + ·) else []

/-- The first and the end of the accumulators of each lane that a command's block takes. -/
def blockRange (d : Desc) : Nat × Nat := (dLacc d * 64, dLacc d * 64 + (geoOf d).r * (geoOf d).n)

def overlaps (a b : Nat × Nat) : Bool := a.1 < b.2 && b.1 < a.2

/-- A command whose epilogue step has still to run. -/
def MxCmd.awaitsEpilogue (x : MxCmd) : Bool := x.stage == .multiplied && isEpiStep x.desc.toNat

/-- Table 5.10: whether command `x` may start after the earlier commands `l`: the slots it reads are written, and the
block it writes has been read. A multiplication is one command of the model, so no broadcast and no group sum of an
earlier one is outstanding: the other rows of the table never hold a command up. -/
def hazardFree (l : List MxCmd) (x : MxCmd) : Bool :=
  let d := x.desc.toNat
  let pending := (l.filter (·.awaitsEpilogue)).map (·.desc.toNat)
  let slots := if needsCell d then (List.range (slotsUsed d (geoOf d))).map (dRowBase d + ·) else []
  pending.all (fun e => !(epilogueSlots e).any (fun k => slots.contains k)) &&
    (!isMma d || pending.all (fun e => !overlaps (blockRange d) (blockRange e)))

/-- The epilogue engine is free for an EPI command: every earlier epilogue step has run, and its outputs have reached
the add unit (R156, R160). -/
def epilogueFree (l : List MxCmd) : Bool := l.all (fun y => !y.awaitsEpilogue && y.stage != .epilogued)

/-- The head command has what it needs of the weight cells. -/
def MxCmd.supplied (x : MxCmd) : Bool := !needsCell x.desc.toNat || x.cell.isSome

/-- MX_HAZ: whether a hazard of Table 5.10, or its counter set (R497), holds the head command is noted, and its wait
counted when that has cleared. DESIGN CHOICE: a
wait for an earlier epilogue step ('automatic' in Table 5.10) is none (log entry 125). -/
def Core.noteHazard (c : Core) (now : Nat) : Core :=
  match c.headIdx with
  | none => c
  | some j =>
    match c.queue[j]? with
    | none => c
    | some x =>
      if x.stage ≠ .head then c
      else match c.setHeld x || (x.supplied && !hazardFree (c.queue.take j) x), x.hazSince with
        | true, none => c.setCmd j { x with hazSince := some now }
        | false, some _ => c.setCmd j (x.settled now)
        | _, _ => c

def State.noteHazard (s : State) (ck : Nat) : State := s.putCore ck ((s.core ck).noteHazard (s.coreCycles ck))

/-- The module totals of Table 6.11: the counts of a command that completes or is removed (R197). -/
def State.countNumerics (s : State) (die : Nat) (c : MxCounts) : State :=
  ((((s.bumpBy 0x70100 die c.satAcc).bumpBy 0x70101 die c.satConv).bumpBy 0x70102 die c.scaleOvf).bumpBy
    0x70103 die c.scaleUfl).bumpBy 0x70104 die c.nanOut

/-- What one removed command leaves: its record, its counts in the module totals (R197), its entry in the removed list,
and a token counter less by one (R225). -/
def State.dropCmd (s : State) (ck : Nat) (x : MxCmd) (list : Bool) : State :=
  let x := x.settled (s.coreCycles ck)
  let s := (s.mxRecord ck x true).countNumerics (dieOfCluster (ck / 4)) x.counts
  match s.group? x.group with
  | some g =>
    let g := g.lessToken x.token
    s.putGroup x.group (if list then { g with removed := (g.removed ++ [(x.addr, x.token)]).take 8 } else g)
  | none => s

/-- The accumulators and row slots that the commands `gone` changed are as they were before, but for those that a later
command of `kept` has written since. TIE_SET and TIE_CLR have no effect before they complete, and no epilogue step runs
behind one that may still fault: nothing else is to be undone. -/
def Core.undoAll (c : Core) (gone kept : List MxCmd) : Core :=
  let lacc : Core → MxCmd → Core := fun c x =>
    let mine := x.undo.filter (fun p => !kept.any (fun y => x.issue < y.issue && y.undo.any (·.1 == p.1)))
    { c with lacc := mine.foldl (fun b p => b.set 0 p.1 p.2) c.lacc }
  let rows : Core → MxCmd → Core := fun c x =>
    let mine := x.undoRows.filter (fun p => !kept.any (fun y => x.issue < y.issue && y.undoRows.any (·.1 == p.1)))
    { c with rows := mine.foldl (fun b p => b.set 0 p.1 p.2.1) c.rows,
             rowScale := mine.foldl (fun b p => match p.2.2 with | some v => b.put p.1 v | none => b.erase p.1) c.rowScale }
  gone.reverse.foldl (fun c x => rows (lacc c x) x) c

/-- R155: the commands of the queue that `bad` selects are removed, with `list` into the removed lists of their groups and
without effect. -/
def State.removeCmds (s : State) (ck : Nat) (bad : MxCmd → Bool) (list : Bool) : State :=
  let gone := (s.core ck).queue.filter bad
  let s := gone.foldl (fun t x => t.dropCmd ck x list) s
  let core := s.core ck
  let kept := core.queue.filter (fun x => !bad x)
  ((s.putCore ck ({ core with queue := kept }.undoAll gone kept)).noteHazard ck).wakeIssue ck

/-- R155, R225: the command at position `i` faults: it and every later command of its group are removed, and the group
has the fault. -/
def State.mxFault (s : State) (ck i cause : Nat) (detail : Option Nat := none) : State :=
  match (s.core ck).queue[i]? with
  | none => s
  | some x =>
    let s := s.removeCmds ck (fun y => y.group == x.group && x.issue ≤ y.issue) true
    s.faultAsync x.group (mkFaultInfo cause (detail.getD (mxDetail x.addr x.token)) 0
      (((s.group? x.group).map (·.active)).getD 0) true)

/-! ### Issue -/

def Core.waiting (c : Core) : Nat := (c.queue.filter (fun x => x.stage == .queued || x.stage == .head)).length

/-- A command enters the queue of a core and raises its token. -/
def State.enqueueMx (s : State) (gk : Nat) (g : Group) (addr token : Nat) (desc : BitVec 512) : State × Group :=
  let ck := coreKeyOf gk
  let core := s.core ck
  let x : MxCmd := { desc := desc, addr := addr, group := gk, token := token,
                     launch := g.launch, ctx := g.ctx, spec := g.spec, issue := core.issued }
  (s.putCore ck { core with queue := core.queue ++ [x], issued := core.issued + 1 },
   { g with mxTok := g.mxTok.set 0 token (g.mxTok.get 0 token + 1) })

/-- The checks of R151 on the descriptor at `addr`: a cause, or the descriptor. -/
def State.checkDesc (s : State) (gk : Nat) (g : Group) (addr : Nat) : Except Nat (BitVec 512) :=
  let scratch := scratchBytes (s.layoutOf g.ctx)
  if addr % 64 ≠ 0 ∨ scratch < addr + 64 then .error 0x23
  else
    let d := leNat (s.storeView (clusterKeyOf gk) g.spec addr 64)
    match issueCause scratch d with
    | some c => .error c
    | none => if g.spec ∧ (dOp d = 6 ∨ dOp d = 7) then .error 0x31 else .ok (BitVec.ofNat 512 d)

/-- MX.ISSUE gA, token (R151, R220, R221). -/
def execMxIssue (gid : Gid) (w : BitVec 64) (s : State) : Out :=
  let gk := gidKey gid
  runInstr 0x90 gid w [srcAOf w] (fun g t =>
    match lowest g.active with
    | none => .next t g
    | some l =>
      if !(g.acting w).getLsbD l then .next t g
      else
        let addr := (g.reg l (srcAOf w)).toNat
        match t.checkDesc gk g addr with
        | .error 0x31 => .fault (mkFaultInfo 0x31 (opcOf w) 0 g.active)
        | .error c => .fault (mkFaultInfo c (mxDetail addr (tokenOf w)) 0 g.active)
        | .ok d =>
          if 8 ≤ (t.core (coreKeyOf gk)).waiting ∨ g.mxTok.get 0 (tokenOf w) = 63 then .hold t { g with status := .mxStall }
          else
            let r := t.enqueueMx gk g addr (tokenOf w) d
            .next r.1 r.2) s

/-! ### The head of the queue -/

/-- What a command that needs a latched tile finds (R146, R148). -/
inductive Found where
  | cell (i : Nat)
  | claimed
  | lost (j : Nat)
  | nothing
deriving DecidableEq, Repr

/-- R146: among buffers and lost-tile entries with the TILE_ID the one claimed first. -/
def Core.findTile (c : Core) (tile : Nat) : Found :=
  let cells : List (Nat × Found) := [0, 1].filterMap (fun i =>
    let x := c.cell i
    if x.state = .free ∨ x.local_ ∨ x.tileId.toNat ≠ tile then none
    else some (x.claim, if x.state = .ready then .cell i else .claimed))
  let lost : List (Nat × Found) := (c.lost.mapIdx (fun j x => (j, x))).filterMap (fun x =>
    if x.2.tileId.toNat = tile then some (x.2.claim, .lost x.1) else none)
  match cells ++ lost with
  | [] => .nothing
  | x :: r => (r.foldl (fun a y => if y.1 < a.1 then y else a) x).2

/-- R149: both buffers are READY with uses left and neither carries the command's tile. -/
def Core.blocked (c : Core) : Bool := c.cell0.state == .ready && c.cell1.state == .ready

/-- R148: one use of a lost-tile entry is consumed. -/
def Core.useLost (c : Core) (j : Nat) : Core :=
  match c.lost[j]? with
  | some x => if x.uses ≤ 1 then { c with lost := c.lost.eraseIdx j }
    else { c with lost := c.lost.set j { x with uses := x.uses - 1 } }
  | none => c

/-- A command uses buffer `i`. What it has waited for it at the head is counted (MX_WWAIT). -/
def MxCmd.takes (x : MxCmd) (now i : Nat) : MxCmd := { x.settled now with cell := some i }

/-- The head command uses buffer `i`. -/
def State.takeCell (s : State) (ck j : Nat) (x : MxCmd) (i : Nat) : State :=
  (s.putCore ck ((s.core ck).setCmd j (x.takes (s.coreCycles ck) i))).noteHazard ck

/-- A latched tile is found for the head command. -/
def State.headCell (s : State) (ck j : Nat) (x : MxCmd) (d : Desc) : State :=
  let core := s.core ck
  match core.findTile (dTile d) with
  | .cell i => if (core.cell i).needScale = dBswEn d then s.takeCell ck j x i else s.mxFault ck j 0x25
  | .claimed => s
  | .lost k => (s.putCore ck (core.useLost k)).mxFault ck j 0x26
  | .nothing => if core.blocked then s.mxFault ck j 0x28 else s

/-- MX_HEAD: the first command that has not started reaches the head, and a command that needs a weight-cell buffer
finds it, waits or faults. -/
def execMxHead (c : Cid) (s : State) : Out :=
  let ck := cidKey c
  match (s.core ck).headIdx with
  | none => .next s
  | some j =>
    match (s.core ck).queue[j]? with
    | none => .next s
    | some x =>
      let d := x.desc.toNat
      let y : MxCmd := if x.stage = .queued then
        { x with stage := .head, latch := s.latchNow c.cluster.val, since := s.coreCycles ck } else x
      let s := (s.putCore ck ((s.core ck).setCmd j y)).noteHazard ck
      if (s.core ck).setHeld y || y.supplied then .next s
      else if dWsrc d then .next (if (s.core ck).blocked then s.mxFault ck j 0x28 else s)
      else .next (s.headCell ck j (((s.core ck).queue[j]?).getD y) d)

/-- R150: the head command has waited 16,777,216 cycles without a usable buffer; the timer stops while the conveyor is
in notice or halted. -/
def execWeightTimeout (c : Cid) (s : State) : Out :=
  let ck := cidKey c
  match (s.core ck).headIdx with
  | none => .next s
  | some j =>
    match (s.core ck).queue[j]? with
    | none => .next s
    | some x =>
      if x.stage = .head ∧ needsCell x.desc.toNat ∧ x.cell.isNone ∧ s.conv.state ≠ .noticed ∧ s.conv.state ≠ .halted
      then .next (s.mxFault ck j 0x27) else .next s

/-- R147: whether a queued command still needs its tile from the cluster store. -/
def MxCmd.wantsLocal (x : MxCmd) : Bool := needsCell x.desc.toNat && dWsrc x.desc.toNat && x.cell.isNone

/-- R147: the tile of the `n`th queued command is loaded into a free buffer. The weight loader runs its loads in issue
order (R156). -/
def execLocalWeightLoad (c : Cid) (n : Fin 8) (s : State) : Out :=
  let ck := cidKey c
  let core := s.core ck
  match core.headIdx with
  | none => .next s
  | some h =>
    match core.queue[h + n.val]?, core.freeCell with
    | some x, some i =>
      let d := x.desc.toNat
      if x.wantsLocal && !((core.queue.take (h + n.val)).drop h).any (·.wantsLocal) then
        let cell : WeightCell :=
          { state := .ready, local_ := true, uses := 1, claim := core.claims, format := BitVec.ofNat 8 (dWfmt d),
            payload := s.localPayload c.cluster.val x.spec d, tileIn := true, needScale := dBswEn d, scaleIn := dBswEn d,
            scales := s.localScales c.cluster.val x.spec d }
        let y := x.takes (s.coreCycles ck) i
        let y := { y with counts.wloadLocal := y.counts.wloadLocal + 1 }
        .next ((s.putCore ck ({ core.setCell i cell with claims := core.claims + 1 }.setCmd (h + n.val) y)).noteHazard ck)
      else .next s
    | _, _ => .next s

/-! ### Starting on an engine -/

/-- The head command of a core, if it is of one of some ops and may start. -/
def Core.startable (c : Core) (ops : List Nat) : Option (Nat × MxCmd) :=
  match c.headIdx with
  | none => none
  | some j =>
    match c.queue[j]? with
    | none => none
    | some x =>
      let d := x.desc.toNat
      if x.stage == .head && ops.contains (dOp d) && !c.setHeld x && x.supplied && hazardFree (c.queue.take j) x
          && (dOp d != 3 || epilogueFree (c.queue.take j)) then some (j, x) else none

/-- A command leaves the queue for its engine. -/
def MxCmd.started (x : MxCmd) (now : Nat) (stage : MxStage) : MxCmd := { x with stage := stage, since := now }

/-- The stage of a multiplication that is over. -/
def afterMultiply (d : Desc) : MxStage := if isEpiStep d then .multiplied else .accDone

/-- A row or column read of the head command with its weight-cell buffer (R138, R139, R146). -/
def State.multiply (s : State) (ck : Nat) (op : Nat) (ecc : Option Bool) : State :=
  let core := s.core ck
  match core.startable [op] with
  | none => s
  | some (j, x) =>
    let d := x.desc.toNat
    let i := x.cell.getD 0
    match ecc with
    | some inCell =>
      let c := if inCell then core.setCell i {} else core.releaseUse i
      ((s.putCore ck c).clusterUe (ck / 4)).mxFault ck j 0x2B
    | none =>
      let g := geoOf d
      let r := mmaBlock d g core.lacc (core.slotOperand d g) ((tileOf (core.cell i) d).operand)
      let y := x.started (s.coreCycles ck) (afterMultiply d)
      let y := { y with counts := y.counts.add { r.2.2 with busy := busyCycles d, macs := usefulMacs d },
                        undo := r.2.1, released := true }
      (s.putCore ck (({ core with lacc := r.1 }.releaseUse i).setCmd j y)).wakeIssue ck

def execMmaRow (c : Cid) (ecc : Option Bool) (s : State) : Out := .next (s.multiply (cidKey c) 0 ecc)

def execMmaCol (c : Cid) (ecc : Option Bool) (s : State) : Out := .next (s.multiply (cidKey c) 1 ecc)

/-- R169: both operands come from the cluster store. -/
def execMmaOs (c : Cid) (ecc : Bool) (s : State) : Out :=
  let ck := cidKey c
  let cl := c.cluster.val
  let core := s.core ck
  match core.startable [4] with
  | none => .next s
  | some (j, x) =>
    let d := x.desc.toNat
    if ecc then .next ((s.clusterUe cl).mxFault ck j 0x2B)
    else
      let g := geoOf d
      let w : WTile := { fmt := dWfmt d, orient := false, payload := leNat (s.localPayload cl x.spec d),
                         scales := if dBswEn d then some (leNat (s.localScales cl x.spec d), dBswDir d, dBswBlock d)
                           else none }
      let r := mmaBlock d g core.lacc (s.osOperand cl x.spec d g) w.operand
      let y := x.started (s.coreCycles ck) (afterMultiply d)
      let y := { y with counts := y.counts.add { r.2.2 with busy := busyCycles d, macs := usefulMacs d }, undo := r.2.1 }
      .next ((s.putCore ck ({ core with lacc := r.1 }.setCmd j y)).wakeIssue ck)

/-- R158: row slots from the cluster store. -/
def execLoada (c : Cid) (s : State) : Out :=
  let ck := cidKey c
  let cl := c.cluster.val
  let core := s.core ck
  match core.startable [2] with
  | none => .next s
  | some (j, x) =>
    let d := x.desc.toNat
    let g := geoOf d
    let b := elemBits (dAfmt d)
    let row : Nat → Nat := fun m => packFields ((List.range 64).map (fun e =>
      (b, if e < g.k then s.sourceElem cl x.spec d m e else 0)))
    let put : Bank Nat × Bank Nat → Nat → Bank Nat × Bank Nat := fun t m =>
      let k := rowKey (g.lane m) (dRowBase d + g.slot m)
      (t.1.set 0 k (row m), if dBsaEn d then t.2.put k (s.rowScales cl x.spec d g.rows m) else t.2.erase k)
    let r := (List.range g.rows).foldl put (core.rows, core.rowScale)
    let keys := (List.range g.rows).map (fun m => rowKey (g.lane m) (dRowBase d + g.slot m))
    let y := { x.started (s.coreCycles ck) .accDone with
               counts.loadaBytes := g.rows * 64 * b / 8,
               undoRows := keys.map (fun k => (k, core.rows.get 0 k, core.rowScale.find? k)) }
    .next ((s.putCore ck ({ core with rows := r.1, rowScale := r.2 }.setCmd j y)).wakeIssue ck)

/-- TIE_SET and TIE_CLR leave the queue. The tie table changes for the core's later commands at once and for the other
cores when the command completes: in issue order, and without effect on an earlier command of the core that reaches the
add unit after them (R156, R162). DEDUCED: log entry 113. -/
def State.startTie (s : State) (ck op : Nat) : State :=
  match (s.core ck).startable [op] with
  | none => s
  | some (j, x) => (s.putCore ck ((s.core ck).setCmd j (x.started (s.coreCycles ck) .accDone))).wakeIssue ck

def execTieSet (c : Cid) (s : State) : Out := .next (s.startTie (cidKey c) 6)

def execTieClr (c : Cid) (s : State) : Out := .next (s.startTie (cidKey c) 7)

/-- The tie table after a TIE_SET or TIE_CLR; every other command leaves it. -/
def tieAfter (t : Bank (Nat × Nat)) (d : Desc) : Bank (Nat × Nat) :=
  if dOp d = 6 then t.put (dTie d) (dAccAddr d, dAccPitch d) else if dOp d = 7 then t.erase (dTie d) else t

/-! ### The epilogue -/

/-- The writes into the cluster store of an epilogue: output rows (DEST = 0) and the row buffer (RED_WRITE). -/
def epiWrites (d : Desc) (g : Geo) (o : EpiOut) : List (Nat × Bytes) :=
  let rows := if dDest d = 0 then o.codes.mapIdx (fun m l =>
      (dOutAddr d + m * dOutPitch d + dN0 d * elemBits (dOfmt d) / 8, packCodes (dOfmt d) l)) else []
  rows ++ (if dRedWrite d then [(dRedAddr d, (o.reds.take g.rows).flatMap (fun r => leBytes 4 r.toNat))] else [])

/-- Writes of a matrix command into its cluster's store; the issuing core's copies of the sectors are dropped. -/
def State.storeOutputs (s : State) (ck : Nat) (ws : List (Nat × Bytes)) : State :=
  ws.foldl (fun t w =>
    let t := t.storeWrite (ck / 4) w.1 w.2
    let touched : Nat × Bytes → Bool := fun l => (shadowBlocks w.1 w.2.length).any (fun b => storeSector (b * 64) == l.1)
    let c := t.core ck
    t.putCore ck { c with l0d := c.l0d.filter (fun l => !touched l) }) s

/-- The writes of a command: performed, or recorded in the shadow area of a speculative task; none while it has too few
entries (R271, R275). Those of a discarded task have no effect (R277). -/
def State.mxWrites (s : State) (ck : Nat) (x : MxCmd) (ws : List (Nat × Bytes)) : Except Nat State :=
  let cl := ck / 4
  if x.void then .ok s
  else if s.shadowed cl x.spec then
    let sh := (s.cluster cl).shadow
    let free := s.shadowFree x.ctx cl
    if free < shadowNeed sh false (ws.flatMap (fun w => shadowBlocks w.1 w.2.length)) then .error free
    else .ok (s.putCluster cl { s.cluster cl with shadow := ws.foldl (fun h w => shadowWrite h false w.1 w.2) sh })
  else .ok (s.storeOutputs ck ws)

/-- Bytes that an epilogue step writes into row slots (LOADA_BYTES of Table 5.17). -/
def slotBytes (d : Desc) (g : Geo) : Nat := if dDest d = 1 then g.rows * g.n * elemBits (dOfmt d) / 8 else 0

/-- Row slots written by DEST = 1 (Table 5.8). DESIGN CHOICE: output n lies at element n − N0 of its slot, also where one
half of a 4-bit tile is the upper one (N0 = 64) and n itself would lie beyond the slot's 64 elements (log entry 38). -/
def epiSlots (d : Desc) (g : Geo) (o : EpiOut) (core : Core) : Core :=
  if dDest d ≠ 1 then core
  else
    let put : Core → Nat × List Nat → Core := fun c x =>
      let k := rowKey (g.lane x.1) (dOutRow d + g.slot x.1)
      { c with rows := c.rows.set 0 k (packFields (x.2.map (fun v => (elemBits (dOfmt d), v)))), rowScale := c.rowScale.erase k }
    (o.codes.mapIdx (fun m l => (m, l))).foldl put core

/-- Row buffers after the reductions (R166). -/
def epiBuffers (d : Desc) (g : Geo) (o : EpiOut) (rb : Bank Word) : Bank Word :=
  if dRed d = 0 then rb
  else (o.reds.mapIdx (fun m r => (m, r))).foldl (fun b x => b.set 0 (rbKey (dRbW d) (g.lane x.1) (g.slot x.1)) x.2) rb

/-- The epilogue step of the command at position `j` (R164). With DEST = 2 its outputs wait for the add unit. -/
def State.runEpilogue (s : State) (ck j : Nat) (x : MxCmd) (ecc : Bool) : State :=
  let cl := ck / 4
  let core := s.core ck
  let d := x.desc.toNat
  let g := geoOf d
  if ecc then (s.clusterUe cl).mxFault ck j 0x2B
  else
    let o := s.epilogue cl x.spec core d
    let y := { x with counts := x.counts.add o.counts, hist := o.hist, since := s.coreCycles ck }
    if dDest d = 2 then
      let out := (List.range g.n).flatMap (fun c => (List.range g.rows).map (fun m =>
        (g.n0 + c, m, BitVec.ofNat 32 ((o.codes.getD m []).getD c 0))))
      ((s.putCore ck (core.setCmd j { y with stage := .epilogued, accOut := out })).noteHazard ck).wakeIssue ck
    else match s.mxWrites ck x (epiWrites d g o) with
      | .error free => s.mxFault ck j 0x32 (some free)
      | .ok t =>
        let c := epiSlots d g o (t.core ck)
        ((t.putCore ck ({ c with rb := epiBuffers d g o c.rb }.setCmd j { y with stage := .accDone, counts.loadaBytes := slotBytes d g })).noteHazard ck).wakeIssue ck

/-- EPI: an epilogue step on a block that an earlier command left (R153). -/
def execEpi (c : Cid) (ecc : Bool) (s : State) : Out :=
  let ck := cidKey c
  match (s.core ck).startable [3] with
  | none => .next s
  | some (j, x) =>
    let y := x.started (s.coreCycles ck) .multiplied
    .next ((s.putCore ck ((s.core ck).setCmd j y)).runEpilogue ck j y ecc)

/-- The epilogue step of the first multiplication that waits for it. Epilogue steps run in issue order (R156), and none
while the outputs of an earlier one wait for the add unit (R160). -/
def execEpilogueStep (c : Cid) (ecc : Bool) (s : State) : Out :=
  let ck := cidKey c
  match (s.core ck).queue.findIdx? (·.awaitsEpilogue) with
  | none => .next s
  | some j =>
    match (s.core ck).queue[j]? with
    | none => .next s
    | some x => .next (if epilogueFree ((s.core ck).queue.take j) then s.runEpilogue ck j x ecc else s)

/-! ### The accumulator add unit (R160 to R162) -/

/-- Word of the accumulator buffer of output (c, m): tiles of 64 values of k, columns `pitch` bytes apart. -/
def accWord (addr pitch n c m : Nat) : Nat := (addr * 256 + m / 64 * n * pitch + c * pitch + m % 64 * 4) / 4

/-- The adds or writes of a command in their order: the buffer and the saturations. -/
def applyAcc (write : Bool) (acc : Bank Word) (l : List (Nat × Word)) : Bank Word × Nat :=
  l.foldl (fun t x =>
    if write then (t.1.set 0 x.1 x.2, t.2)
    else
      let r := add32 (t.1.get 0 x.1) x.2
      (t.1.set 0 x.1 r.1, t.2 + (if r.2 then 1 else 0))) (acc, 0)

/-- ACC_ADDR and ACC_PITCH in force behind the earlier commands `l` of the core: those of the descriptor, or of the tie
entry. -/
def accTarget (cl : Cluster) (l : List MxCmd) (d : Desc) : Option (Nat × Nat) :=
  if dAccSel d then (l.foldl (fun t y => tieAfter t y.desc.toNat) cl.tie).find? (dTie d) else some (dAccAddr d, dAccPitch d)

/-- ACC_ADD: the first command whose outputs wait. -/
def execAccAdd (c : Cid) (s : State) : Out :=
  let ck := cidKey c
  let cl := s.cluster c.cluster.val
  match (s.core ck).queue.findIdx? (fun x => x.stage == .epilogued) with
  | none => .next s
  | some j =>
    match (s.core ck).queue[j]? with
    | none => .next s
    | some x =>
      let d := x.desc.toNat
      let g := geoOf d
      match accTarget cl ((s.core ck).queue.take j) d with
      | none => .next (s.mxFault ck j 0x2A)
      | some (addr, p) =>
        let l := x.accOut.map (fun o => (accWord addr (pitchOf p) g.n o.1 o.2.1, o.2.2))
        let units := (l.map (fun y => y.1 / 64)).dedup
        if accOverrun g addr p then .next (s.mxFault ck j 0x23)
        else if units.any (fun u => cl.final.contains u) then .next (s.mxFault ck j 0x29)
        else
          let reds := (List.range g.rows).flatMap (fun m =>
            leBytes 4 ((s.core ck).rb.get 0 (rbKey (dRbW d) (g.lane m) (g.slot m))).toNat)
          match s.mxWrites ck x (if dRedWrite d then [(dRedAddr d, reds)] else []) with
          | .error free => .next (s.mxFault ck j 0x32 (some free))
          | .ok t =>
            let r := if x.void then (cl.acc, 0) else applyAcc (dAccWrite d) cl.acc l
            let k := t.cluster c.cluster.val
            let held := if s.shadowed c.cluster.val x.spec && !k.merging then units.foldl (fun h u => insertNat u h) k.held else k.held
            let t := t.putCluster c.cluster.val { k with acc := r.1, held := held }
            let y := { x with stage := .accDone, accUnits := units, accOut := [], counts.satAcc := x.counts.satAcc + r.2,
                              counts.epiWait := t.coreCycles ck - x.since }
            .next (t.putCore ck ((t.core ck).setCmd j y))

/-! ### Completion (R157, R161, R194 to R197) -/

/-- The step counts of a completed command (R194, R195), and the sums of its launch (R503). The counts of a
discarded task enter no step (R196). -/
def State.countCommand (s : State) (launch ctx : Nat) (void : Bool) (c : MxCounts) : State :=
  let k : StepCounts := { sat := c.satAcc + c.satConv + c.scaleOvf, nan := c.nanOut }
  let s := match (if void then none else s.stepOfTask launch ctx) with
    | some (st, true) => s.countSpec st k
    | some (st, false) => s.countStep st k
    | none => s
  match s.launch? launch with
  | some l => { s with host.launches := s.host.launches.put launch { l with numeric := l.numeric.add c } }
  | none => s

/-- MX_COMMAND_COMPLETE: the oldest command of the core, when all its effects are performed. -/
def execMxCommandComplete (c : Cid) (s : State) : Out :=
  let ck := cidKey c
  match (s.core ck).queue with
  | [] => .next s
  | x :: rest =>
    if x.stage ≠ .accDone then .next s
    else
      let d := x.desc.toNat
      let cl := s.cluster c.cluster.val
      let final := if isEpiStep d ∧ dDest d = 2 ∧ dAccFinal d ∧ !x.void then x.accUnits.foldl (fun h u => insertNat u h) cl.final
        else cl.final
      let s := s.putCluster c.cluster.val { cl with final := final, tie := tieAfter cl.tie d }
      let s := (s.mxRecord ck x false).countNumerics (dieOfCluster c.cluster.val) x.counts
      let s := if dEmu d then s.bump 0x70105 (dieOfCluster c.cluster.val) else s
      let s := s.countCommand x.launch x.ctx x.void x.counts
      let s := s.putCore ck { s.core ck with queue := rest }
      .next (((s.postToken x.group x.token).noteHazard ck).wakeIssue ck)

end Sys2Proof.Machine
end

