-- ==== Sys2Proof/Machine/ThreadInt.lean ====
section
/-!
DEFINITION. The integer instructions of Table 7.5, R212: one vector operation over the acting threads, or once for the
group when it is a uniform instruction. What the manual gives no encoding or value for is a choice of `Config`.
-/

namespace Sys2Proof.Machine

/-- The result of one operation written: in uD for a uniform instruction, else in gD of every acting thread. -/
def aluWrite (g : Group) (w : Instr64) (f : Word → Word → Word → Word) : Group :=
  if isUniform w then
    let b := if srcBImm w then immOf w else g.ureg (srcBOf w)
    g.setUreg (dstOf w) (f (g.ureg (srcAOf w)) b (g.ureg (srcCOf w)))
  else g.setLanes (g.acting w) (dstOf w)
    (fun t => f (g.reg t (srcAOf w)) (g.srcB w t) (g.reg t (srcCOf w)))

/-- The general registers that an operation of one, two or three sources names. -/
def aluRegs (w : Instr64) (sources : Nat) : List Nat :=
  if isUniform w then []
  else [dstOf w, srcAOf w] ++ (if 2 ≤ sources then srcBReg w else []) ++ (if 3 ≤ sources then [srcCOf w] else [])

/-- An instruction of the vector units with `n` sources. -/
def aluInstr (opc n : Nat) (f : Word → Word → Word → Word) (g : Gid) (w : BitVec 64) (s : State) : Out :=
  runInstr opc g w (aluRegs w n) (fun gr t => whenActive gr t (.next t (aluWrite gr w f))) s

/-- A compare: pD of every acting thread. -/
def cmpInstr (opc : Nat) (rel : Word → Word → Bool) (g : Gid) (w : BitVec 64) (s : State) : Out :=
  runInstr opc g w (srcAOf w :: srcBReg w) (fun gr t =>
    let hit := maskOf ((lanesOf (gr.acting w)).filter (fun l => rel (gr.reg l (srcAOf w)) (gr.srcB w l)))
    whenActive gr t (.next t (gr.setPredLanes (gr.acting w) (dstOf w % 8) hit))) s

/-- Signed or unsigned, as the manual leaves open for the opcode and MOD[1:0]. -/
def signedFor (w : BitVec 64) : Bool := Config.intSigned (opcOf w) (modOf w)

def intMulHigh (sg : Bool) (a b : Word) : Word :=
  if sg then BitVec.ofInt 32 ((a.toInt * b.toInt) / 2 ^ 32) else BitVec.ofNat 32 (a.toNat * b.toNat / 2 ^ 32)

def intMin (sg : Bool) (a b : Word) : Word :=
  if (if sg then decide (a.toInt ≤ b.toInt) else decide (a.toNat ≤ b.toNat)) then a else b

def intMax (sg : Bool) (a b : Word) : Word :=
  if (if sg then decide (b.toInt ≤ a.toInt) else decide (b.toNat ≤ a.toNat)) then a else b

/-- IABS; no value is stated for the most negative number. -/
def intAbs (opc : Nat) (a : Word) : Word :=
  if a = 0x80000000#32 then Config.resultOpen opc a 0 else if a.toInt < 0 then -a else a

/-- Shifts; no result is stated for an amount of 32 or more. -/
def intShl (opc : Nat) (a b : Word) : Word := if b.toNat < 32 then a <<< b.toNat else Config.resultOpen opc a b
def intShr (opc : Nat) (a b : Word) : Word := if b.toNat < 32 then a >>> b.toNat else Config.resultOpen opc a b
def intSar (opc : Nat) (a b : Word) : Word := if b.toNat < 32 then a.sshiftRight b.toNat else Config.resultOpen opc a b

def popCount (a : Word) : Word := BitVec.ofNat 32 (lanesOf a).length
def leadingZeros (a : Word) : Word := BitVec.ofNat 32 (32 - bitLen a.toNat)

/-- IDIV: 0xFFFF_FFFF by 0; no value is stated for the quotient 2^31. -/
def intDiv (opc : Nat) (sg : Bool) (a b : Word) : Word :=
  if b = 0#32 then 0xFFFFFFFF#32
  else if sg then
    (if a = 0x80000000#32 ∧ b = 0xFFFFFFFF#32 then Config.resultOpen opc a b else BitVec.ofInt 32 (a.toInt.tdiv b.toInt))
  else BitVec.ofNat 32 (a.toNat / b.toNat)

/-- IREM: the dividend by 0. -/
def intRem (sg : Bool) (a b : Word) : Word :=
  if b = 0#32 then a
  else if sg then BitVec.ofInt 32 (a.toInt.tmod b.toInt) else BitVec.ofNat 32 (a.toNat % b.toNat)

def execIadd (g : Gid) (w : BitVec 64) (s : State) : Out := aluInstr 0x00 2 (fun a b _ => a + b) g w s
def execIsub (g : Gid) (w : BitVec 64) (s : State) : Out := aluInstr 0x01 2 (fun a b _ => a - b) g w s
def execImul (g : Gid) (w : BitVec 64) (s : State) : Out := aluInstr 0x02 2 (fun a b _ => a * b) g w s
def execImulhi (g : Gid) (w : BitVec 64) (s : State) : Out :=
  aluInstr 0x03 2 (fun a b _ => intMulHigh (signedFor w) a b) g w s
def execImad (g : Gid) (w : BitVec 64) (s : State) : Out := aluInstr 0x04 3 (fun a b c => a * b + c) g w s
def execImin (g : Gid) (w : BitVec 64) (s : State) : Out := aluInstr 0x05 2 (fun a b _ => intMin (signedFor w) a b) g w s
def execImax (g : Gid) (w : BitVec 64) (s : State) : Out := aluInstr 0x06 2 (fun a b _ => intMax (signedFor w) a b) g w s
def execIabs (g : Gid) (w : BitVec 64) (s : State) : Out := aluInstr 0x07 1 (fun a _ _ => intAbs (opcOf w) a) g w s
def execAnd (g : Gid) (w : BitVec 64) (s : State) : Out := aluInstr 0x08 2 (fun a b _ => a &&& b) g w s
def execOr (g : Gid) (w : BitVec 64) (s : State) : Out := aluInstr 0x09 2 (fun a b _ => a ||| b) g w s
def execXor (g : Gid) (w : BitVec 64) (s : State) : Out := aluInstr 0x0A 2 (fun a b _ => a ^^^ b) g w s
def execNot (g : Gid) (w : BitVec 64) (s : State) : Out := aluInstr 0x0B 1 (fun a _ _ => ~~~ a) g w s
def execShl (g : Gid) (w : BitVec 64) (s : State) : Out := aluInstr 0x0C 2 (fun a b _ => intShl (opcOf w) a b) g w s
def execShr (g : Gid) (w : BitVec 64) (s : State) : Out := aluInstr 0x0D 2 (fun a b _ => intShr (opcOf w) a b) g w s
def execSar (g : Gid) (w : BitVec 64) (s : State) : Out := aluInstr 0x0E 2 (fun a b _ => intSar (opcOf w) a b) g w s
def execPopc (g : Gid) (w : BitVec 64) (s : State) : Out := aluInstr 0x0F 1 (fun a _ _ => popCount a) g w s
def execClz (g : Gid) (w : BitVec 64) (s : State) : Out := aluInstr 0x10 1 (fun a _ _ => leadingZeros a) g w s
def execMov (g : Gid) (w : BitVec 64) (s : State) : Out := aluInstr 0x13 1 (fun a _ _ => a) g w s
def execIdiv (g : Gid) (w : BitVec 64) (s : State) : Out :=
  aluInstr 0x15 2 (fun a b _ => intDiv (opcOf w) (signedFor w) a b) g w s
def execIrem (g : Gid) (w : BitVec 64) (s : State) : Out := aluInstr 0x16 2 (fun a b _ => intRem (signedFor w) a b) g w s

/-- ICMP writes pD (bits 2:0 of DST); which relation a selector names is left open. -/
def execIcmp (g : Gid) (w : BitVec 64) (s : State) : Out :=
  cmpInstr 0x11 (Config.compare (opcOf w) (modOf w) (w.extractLsb' 20 8)) g w s

/-- SEL gives gA where the predicate in SRCC bits 2:0 is 1 and the second operand elsewhere. A uniform SEL has no
predicate of one value for the group: it tests the lowest active thread's. -/
def execSel (g : Gid) (w : BitVec 64) (s : State) : Out :=
  runInstr 0x12 g w (aluRegs w 2) (fun gr t =>
    let p := gr.pred (srcCOf w % 8)
    let gr' :=
      if isUniform w then aluWrite gr w (fun a b _ => if p.getLsbD ((lowest gr.active).getD 0) then a else b)
      else gr.setLanes (gr.acting w) (dstOf w)
        (fun l => if p.getLsbD l then gr.reg l (srcAOf w) else gr.srcB w l)
    whenActive gr t (.next t gr')) s

/-- MOVI writes IMM16, sign-extended. -/
def execMovi (g : Gid) (w : BitVec 64) (s : State) : Out :=
  runInstr 0x14 g w (if isUniform w then [] else [dstOf w]) (fun gr t =>
    whenActive gr t (.next t (aluWrite gr w (fun _ _ _ => immOf w)))) s

end Sys2Proof.Machine
end

