-- ==== Sys2Proof/Machine/ThreadMem.lean ====
section
/-!
DEFINITION. Memory instructions of thread groups: LD, ST, LD.NC (R226 to R228, R250 to R252), ATOM (R261 to R266),
MFENCE with its completion and timeout (R254 to R259, R381, R382), ACQ.G and REL.G (R238, R239), and their faults.
Every instruction is checked for all acting threads before any access (R227).
-/

namespace Sys2Proof.Machine

/-- R226: bytes per thread. -/
def accessBytes (w : Instr64) : Nat := 2 ^ (Config.accessLog (modOf w) (w.extractLsb' 20 7)).val

/-- SRCC bit 7: 1 = global. -/
def spaceGlobal (w : Instr64) : Bool := w.getLsbD 27

/-- General registers that hold `n` bytes from register `r`. -/
def dataRegs (r n : Nat) : List Nat := (List.range ((n + 3) / 4)).map (r + ·)

/-- A fault of one lane: cause, DETAIL, ADDR. -/
abbrev LaneFault := Nat × Nat × Nat

/-- R226, R283, R396, R357, R360, R294: why the access of one lane cannot be performed. `ue`: its read is found
uncorrectable. -/
def State.laneFault (s : State) (g : Group) (global : Bool) (a n : Nat) (acc : Acc) (ue : Bool) :
    Option LaneFault :=
  if a % n ≠ 0 then some (0x12, acc.code, a)
  else if !global then
    if scratchBytes (s.layoutOf g.ctx) < a + n then some (0x13, a, a)
    else if ue then some (0x14, acc.code, a) else none
  else match gform a with
    | .reserved => some (0x38, 0, a)
    | .fabric _ win _ => (s.fabAddrFault g.ctx win).map (fun d => (0x38, d, a))
    | .local va => match s.translate g.ctx va acc with
      | .error m => some (m.cause, acc.code, a)
      | .ok p =>
        if acc = .load then
          if s.poisoned p then some (0x15, acc.code, a) else if ue then some (0x14, acc.code, a) else none
        else match p with
          | .host _ io => if acc = .atomic ∧ io then some (0x30, 0, a) else none
          | .fast _ => none

/-- The faulting lanes give one fault: that of the lowest, with the mask of all (Table 7.8). -/
def gatherFaults (l : List (Nat × Option LaneFault)) : Option FaultInfo :=
  let bad := l.filterMap (fun x => x.2.map (fun f => (x.1, f)))
  match bad with
  | [] => none
  | (_, f) :: _ => some (mkFaultInfo f.1 f.2.1 f.2.2 (maskOf (bad.map (·.1))))

/-- The address of a lane. -/
def laneAddr (g : Group) (w : Instr64) (global : Bool) (l : Nat) : Nat :=
  if global then g.pair l (srcAOf w) else (g.reg l (srcAOf w)).toNat % 4194304

/-- What an uncorrectable read leaves behind before the group parks. -/
def State.noteUe (s : State) (gk : Nat) (g : Group) (global : Bool) (a : Nat) : State :=
  if !global then s.clusterUe (clusterKeyOf gk)
  else match gform a with
    | .local va => match s.translate g.ctx va .load with
      | .ok (.fast p) => s.hbmUe p 0
      | _ => s
    | _ => s

/-! ### Loads -/

/-- The bytes that a load of a lane reads: through L0 and the cluster cache, or at the shared cache for LD.NC. -/
def State.loadBytes (s : State) (gk : Nat) (g : Group) (global nc : Bool) (a n : Nat) : Bytes × State :=
  let ck := coreKeyOf gk
  let cl := clusterKeyOf gk
  if !global then
    let k := storeSector a
    if nc then (s.storeRead cl a n, s)
    else match cacheGet (s.core ck).l0d k with
      | some line => ((line.drop (a % 256)).take n, s)
      | none =>
        let line := s.storeRead cl (a / 256 * 256) 256
        ((line.drop (a % 256)).take n, s.putCore ck { s.core ck with l0d := l0Fill (s.core ck).l0d k line })
  else match s.translate g.ctx a .load with
    | .error _ => (List.replicate n 0, s)
    | .ok p =>
      let base : Place := match p with
        | .fast x => .fast (x / 256 * 256)
        | .host x io => .host (x / 256 * 256) io
      if nc then (s.readPlace p n, s.homeRead (dieOfCluster cl) p)
      else match cacheGet (s.core ck).l0d p.sector with
        | some line => ((line.drop p.inSector).take n, s)
        | none =>
          let units := s.cacheUnits g.ctx
          let isFast : Bool := match p with
            | .fast _ => true
            | .host _ _ => false
          match if isFast then cacheGet (s.cluster cl).cache p.sector else none with
          | some line =>
            let s := s.fillCluster units cl p.sector line
            ((line.drop p.inSector).take n, s.putCore ck { s.core ck with l0d := l0Fill (s.core ck).l0d p.sector line })
          | none =>
            let line := s.readPlace base 256
            let s := s.homeRead (dieOfCluster cl) p
            let s := if isFast then s.fillCluster units cl p.sector line else s
            ((line.drop p.inSector).take n, s.putCore ck { s.core ck with l0d := l0Fill (s.core ck).l0d p.sector line })

/-- The words of a lane's data registers after a load of `n` bytes. -/
def loadedWords (signed : Bool) (n : Nat) (bs : Bytes) : List Word :=
  if n < 4 then
    let v := leNat bs
    [if signed then BitVec.ofInt 32 (signedOf (8 * n) v) else BitVec.ofNat 32 v]
  else (List.range (n / 4)).map (fun i => BitVec.ofNat 32 (leNat ((bs.drop (4 * i)).take 4)))

/-- Write consecutive registers of a lane. -/
def Group.setWords (g : Group) (lane r : Nat) (ws : List Word) : Group :=
  (ws.mapIdx (fun i v => (i, v))).foldl (fun a x => a.setReg lane (r + x.1) x.2) g

/-- R240: the tags of the 4-byte words that a lane's access touches. -/
def State.tagsOf (s : State) (g : Group) (a n : Nat) : List WordTag :=
  match gform a with
  | .local va => match s.translate g.ctx va .load with
    | .ok p => (List.range ((n + 3) / 4)).filterMap (fun i => s.mem.tags.find? (p.word + 2 * i))
    | .error _ => []
  | _ => []

/-- R240 after a load of some lanes, `n` bytes each. -/
def State.observeTags (s : State) (gk : Nat) (g : Group) (n : Nat) (lanes : List (Nat × Nat)) : Group :=
  let own : Nat × Nat → Bool := fun x => (s.tagsOf g x.2 n).any (fun t => t.gid == gk)
  let other : Nat × Nat → Bool := fun x => (s.tagsOf g x.2 n).any (fun t => t.gid == gk && t.lane != x.1)
  match lanes.find? other with
  | some x => s.armSelfWait gk g x.2
  | none => if lanes.any own then g else g.disarm

/-- Remote parts of a load: one READ for each 64-byte block that a lane touches (R368). -/
def State.remoteLoad (s : State) (gk : Nat) (g : Group) (w : Instr64) (n : Nat) (lanes : List (Nat × Nat)) : State :=
  let blocks := (lanes.map (fun x => x.2 / 64)).dedup
  blocks.foldl (fun t b =>
    match gform (b * 64) with
    | .fabric node win off =>
      let dest := (lanes.filter (fun x => x.2 / 64 == b)).map (fun x => (x.1, dstOf w, n, x.2 % 64))
      t.fabIssue g.ctx (some gk) 1 node win off 8 [] dest none
    | _ => t) s

def isFabric (a : Nat) : Bool := match gform a with
  | .fabric _ _ _ => true
  | _ => false

/-- R273: a speculative task sees its cluster's shadow entries. -/
def State.overlay (s : State) (gk : Nat) (g : Group) (global : Bool) (a : Nat) (bs : Bytes) : Bytes :=
  if g.spec then shadowOver (s.cluster (clusterKeyOf gk)).shadow global a bs else bs

/-- R276: a memory instruction of a task whose shadow area is being merged stalls. -/
def State.mergeStall (s : State) (gk : Nat) (g : Group) : Bool := g.spec && (s.cluster (clusterKeyOf gk)).merging

/-- The sectors that a load names, each read once, so that lanes that read the same bytes get the value of one read (R252). -/
def State.loadSectors (gk : Nat) (g : Group) (global nc : Bool) : List Nat → State → State × List (Nat × Bytes)
  | [], s => (s, [])
  | b :: r, s =>
    let x := s.loadBytes gk g global nc b 256
    let y := State.loadSectors gk g global nc r x.2
    (y.1, (b, x.1) :: y.2)

/-- `n` bytes at an address, from the sectors that have been read. -/
def lineBytes (lines : List (Nat × Bytes)) (a n : Nat) : Bytes :=
  ((((lines.find? (fun y => y.1 == a / 256 * 256)).map (·.2)).getD []).drop (a % 256)).take n

/-- The loads of the lanes that act, in ascending order. -/
def State.loadLanes (gk : Nat) (w : Instr64) (global nc : Bool) (n : Nat) (lanes : List (Nat × Nat)) (s : State) (g : Group) :
    State × Group :=
  let r := State.loadSectors gk g global nc ((lanes.map (fun x => x.2 / 256 * 256)).dedup) s
  let signed := Config.loadSigned (modOf w) (w.extractLsb' 20 7)
  (r.1, lanes.foldl (fun h x => h.setWords x.1 (dstOf w)
    (loadedWords signed n (r.1.overlay gk g global x.2 (lineBytes r.2 x.2 n)))) g)

/-- Requests to remote sectors that find too few miss-tracking entries free. -/
def State.farFull (s : State) (cl : Nat) (addrs : List Nat) : Bool :=
  !addrs.isEmpty && decide (128 < s.missUsed cl + ((addrs.map (· / 256)).dedup).length)

/-- Where the sectors of this node are had and those of remote nodes find no entries, these wait (R302). -/
def State.farWait (s : State) (cl : Nat) (o : MissOwner) (near : Bool) : State := if near then s.startWait cl o else s

/-- The sector requests of a load: the sectors that neither the L0 data cache nor the cluster cache holds; every one for
LD.NC. -/
def State.loadReqs (s : State) (gk : Nat) (g : Group) (nc : Bool) (ce : List Nat) (lanes : List (Nat × Nat)) : List SectorReq :=
  let held : Place → Bool := fun p => !nc && ((cacheGet (s.core (coreKeyOf gk)).l0d p.sector).isSome
    || (cacheGet (s.cluster (clusterKeyOf gk)).cache p.sector).isSome)
  mergeReqs (lanes.filterMap (fun x => match s.translate g.ctx x.2 .load with
    | .ok p => if held p then none else some { place := p, va := x.2 / 256, ecc := if ce.contains x.1 then .corrected else .clean }
    | .error _ => none))

/-- The sectors of some lanes' accesses, by key and virtual number. -/
def State.laneSectors (s : State) (g : Group) (acc : Acc) (lanes : List (Nat × Nat)) : List (Nat × Nat) :=
  (lanes.filterMap (fun x => (s.translate g.ctx x.2 acc).toOption.map (fun p => (p.sector, x.2 / 256)))).dedup

/-- The lanes' sectors are reached and those that are not held are asked for, for the group: whether all are had, and the
group with the sectors that are. -/
def State.groupObtain (s : State) (gk : Nat) (g : Group) (sectors : List (Nat × Nat)) (reqs : List SectorReq) :
    Bool × Group × State :=
  let cl := clusterKeyOf gk
  let r := State.obtainAll cl (ctxVi g.ctx) (.group gk) reqs g.got
    ((s.endWaits cl (.group gk)).demandAll cl sectors)
  (r.1, { g with got := if r.1 then [] else r.2.1 }, r.2.2)

/-- LD and LD.NC. `ecc`: the lane, if any, whose read finds an uncorrectable error, and those whose error is corrected; what
an uncorrectable read finds is marked, counted and recorded before the group parks (R294, R465). While a sector waits for a
miss-tracking entry or for the bucket, or remote sectors for entries, the group stalls at the instruction (R302, R309). -/
def loadInstr (opc : Nat) (nc : Bool) (gid : Gid) (w : BitVec 64) (ecc : ReadEcc) (s : State) : Out :=
  let n := accessBytes w
  let gk := gidKey gid
  let cl := clusterKeyOf gk
  let global := spaceGlobal w
  runInstr opc gid w (dataRegs (dstOf w) n ++ (srcAOf w :: if global then [srcAOf w + 1] else [])) (fun g t =>
    if g.acting w = 0#32 then .next t g
    else if t.mergeStall gk g then .hold t { g with status := .merge }
    else
      let lanes := (lanesOf (g.acting w)).map (fun l => (l, laneAddr g w global l))
      match gatherFaults (lanes.map (fun x => (x.1, t.laneFault g global x.2 n .load (ecc.ue == some x.1)))) with
      | some f =>
        if f.cause = 0x14 then .faultAt (t.noteUe gk g global f.addr.toNat) f else .fault f
      | none =>
        let near := lanes.filter (fun x => !(global && isFabric x.2))
        let far := lanes.filter (fun x => global && isFabric x.2)
        let q := if global then
            t.groupObtain gk g (t.laneSectors g .load near) (t.loadReqs gk g nc ecc.ce near)
          else (true, g, t)
        if !q.1 || t.farFull cl (far.map (·.2)) then .hold (q.2.2.farWait cl (.group gk) q.1) q.2.1
        else
          let r := State.loadLanes gk w global nc n near q.2.2 q.2.1
          let g' := if global then t.observeTags gk r.2 n near else r.2.disarm
          if !global then .next (r.1.raiseBanks cl (gk / 16 % 4) (near.map (fun x => (x.2, n)))) g'
          else if far.isEmpty then .next r.1 g'
          else .next (r.1.remoteLoad gk g w n far) { g' with status := .remote }) s

def execLd (g : Gid) (w : BitVec 64) (ecc : ReadEcc) (s : State) : Out := loadInstr 0x70 false g w ecc s

def execLdNc (g : Gid) (w : BitVec 64) (ecc : ReadEcc) (s : State) : Out := loadInstr 0x72 true g w ecc s

/-! ### Stores -/

/-- The bytes that a lane stores from register `r` on. -/
def storeBytes (g : Group) (lane r n : Nat) : Bytes :=
  ((List.range ((n + 3) / 4)).flatMap (fun i => leBytes 4 (g.reg lane (r + i)).toNat)).take n

/-- Bytes stored by a group of core `ck` at a local address, in memory and in the copies that it holds. -/
def State.storeLocal (s : State) (gk : Nat) (g : Group) (global : Bool) (a : Nat) (bs : Bytes) : State :=
  if !global then (s.storeWrite (clusterKeyOf gk) a bs).patchCaches (coreKeyOf gk) (storeSector a) (a % 256) bs
  else match s.translate g.ctx a .store with
    | .error _ => s
    | .ok p => (s.domainWrite (ctxVi g.ctx) p bs).patchCaches (coreKeyOf gk) p.sector p.inSector bs

/-- The bytes of a 64-byte block that some stores write, as a table by byte: later stores lie over earlier ones. -/
def blockBytes (b : Nat) (stores : List (Nat × Bytes)) : Bank Byte :=
  stores.foldl (fun t x => (x.2.mapIdx (fun i v => (x.1 + i, v))).foldl
    (fun u y => if y.1 / 64 = b then Bank.put u (y.1 % 64) y.2 else u) t) []

/-- R368: the request for the bytes of a block: WRITE when they are whole units of 8 bytes in one run, else
WRITE_MASK with 64 data bytes and the mask. -/
def blockRequest (t : Bank Byte) : Nat × Nat × Bytes :=
  let keys := t.map (·.1)
  let lo := keys.head?.getD 0
  if lo % 8 = 0 ∧ keys.length % 8 = 0 ∧ keys = (List.range keys.length).map (lo + ·) then (2, lo, t.map (·.2))
  else
    let data := (List.range 64).map (fun i => t.get 0#8 i)
    (3, 0, data ++ leBytes 8 (keys.foldl (fun m i => m + 2 ^ i) 0))

/-- Stores of lanes to remote nodes: one request for each 64-byte block that they touch. A register number of 1,022
names none. -/
def State.remoteStore (s : State) (gk : Nat) (g : Group) (stores : List (Nat × Nat × Bytes)) : State :=
  let blocks := ((stores.flatMap (fun x => shadowBlocks x.2.1 x.2.2.length))).dedup
  blocks.foldl (fun t b =>
    match gform (b * 64) with
    | .fabric node win off =>
      let r := blockRequest (blockBytes b (stores.map (·.2)))
      let dest := (stores.filter (fun x => (shadowBlocks x.2.1 x.2.2.length).contains b)).map (fun x => (x.1, 1022, 0, x.2.1 % 64))
      t.fabIssue g.ctx (some gk) r.1 node win (off + r.2.1) (r.2.2.length / 8) r.2.2 dest none
    | _ => t) s

/-- The bytes of a sector that some local stores of `n` bytes cover, together. -/
def coverOf (sector : Nat) (stores : List (Nat × Nat)) : Nat :=
  (((stores.filter (fun x => x.1 / 256 == sector)).flatMap (fun x => (List.range x.2).map (x.1 + ·))).dedup).length

/-- The sector requests of the stores of a group: the rest of a sector that they write in part must be read. -/
def State.storeReqs (s : State) (gk : Nat) (g : Group) (acc : Acc) (stores : List (Nat × Nat)) : List SectorReq :=
  mergeReqs (stores.filterMap (fun x => match s.translate g.ctx x.1 acc with
    | .ok p => some { place := p, va := x.1 / 256, fetch := decide (coverOf (x.1 / 256) stores < 256), ecc := s.latentAt p.addr,
                      miss := (cacheGet (s.cluster (clusterKeyOf gk)).cache p.sector).isNone }
    | .error _ => none))

/-- Sectors of the fast tier that some stores of a context write whole, by device physical sector number. -/
def State.wholeSectors (s : State) (k : Nat) (stores : List (Nat × Nat)) : List Nat :=
  stores.filterMap (fun x => if coverOf (x.1 / 256) stores < 256 then none
    else match s.translate k x.1 .store with
      | .ok (.fast a) => some (a / 256)
      | _ => none)

/-- ST: stores of the acting lanes in ascending order (R252). -/
def execSt (gid : Gid) (w : BitVec 64) (s : State) : Out :=
  let n := accessBytes w
  let gk := gidKey gid
  let cl := clusterKeyOf gk
  let global := spaceGlobal w
  runInstr 0x71 gid w (dataRegs (srcBOf w) n ++ (srcAOf w :: if global then [srcAOf w + 1] else [])) (fun g t =>
    if g.acting w = 0#32 then .next t g
    else if t.mergeStall gk g then .hold t { g with status := .merge }
    else
      let lanes := (lanesOf (g.acting w)).map (fun l => (l, laneAddr g w global l))
      match gatherFaults (lanes.map (fun x => (x.1, t.laneFault g global x.2 n .store false))) with
      | some f => .fault f
      | none =>
        let all := lanes.map (fun x => (x.1, x.2, storeBytes g x.1 (srcBOf w) n))
        let stores := all.map (·.2)
        if t.shadowed cl g.spec then
          let need := shadowNeed (t.cluster cl).shadow global (stores.flatMap (fun x => shadowBlocks x.1 n))
          let free := t.shadowFree g.ctx cl
          if free < need then .fault (mkFaultInfo 0x32 free 0 (g.acting w))
          else
            let sh := stores.foldl (fun h x => shadowWrite h global x.1 x.2) (t.cluster cl).shadow
            .next (t.putCluster cl { t.cluster cl with shadow := sh }) g.disarm
        else
          let near := stores.filter (fun x => !(global && isFabric x.1))
          let far := all.filter (fun x => global && isFabric x.2.1)
          let runs := near.map (fun x => (x.1, x.2.length))
          let q := if global then
              t.groupObtain gk g (t.laneSectors g .store (lanes.filter (fun x => !isFabric x.2))) (t.storeReqs gk g .store runs)
            else (true, g, t)
          if !q.1 || t.farFull cl (far.map (·.2.1)) then .hold (q.2.2.farWait cl (.group gk) q.1) q.2.1
          else
            let u := near.foldl (fun u x => u.storeLocal gk g global x.1 x.2) q.2.2
            let u := if global then (u.clearWhole (t.wholeSectors g.ctx runs)).raiseLines g.ctx .store (runs.map (·.1)) else u.raiseBanks cl (gk / 16 % 4) runs
            .next (u.remoteStore gk g far) q.2.1.disarm) s

/-! ### Fences -/

/-- Requests that carry an epoch at or before `e` and are not acknowledged by a response or a WRITE_ACK; a READ carries none (R381). -/
def State.unacked (s : State) (e : Nat) : List Outstanding :=
  (s.fab.outstanding ++ s.fab.waiting).filter (fun o => decide (o.epoch ≤ e) && o.type != 1 && !o.acked)

/-- A .SYS fence of release or full kind takes its epoch: e, the epochs open then, and the module's next epoch (R381);
none while 16 epochs are open. An epoch is open until every request up to it is acknowledged. -/
def State.openEpoch (s : State) : Option (Nat × State) :=
  let live := s.fab.openEpochs.filter (fun e => !(s.unacked e).isEmpty)
  if s.fab.epochUsed then
    if 16 ≤ live.length then none
    else some (s.fab.epoch, { s with fab := { s.fab with openEpochs := live ++ [s.fab.epoch],
                                                         epoch := s.fab.epoch + 1, epochUsed := false } })
  else some (s.fab.epoch, s)

/-- The group begins a fence that the fabric must complete, `kind` 4 for the release part of an ATOM. -/
def startSysFence (kind : Nat) (g : Group) (s : State) : Res :=
  match s.openEpoch with
  | none => .hold s { g with status := .fence, fence := some ⟨kind, 3, none⟩ }
  | some (e, t) => .hold t { g with status := .fence, fence := some ⟨kind, 3, some e⟩ }

/-- R254 to R259, R381. Every fence empties the L0 data cache of the core and the cluster cache. -/
def execMfence (gid : Gid) (w : BitVec 64) (s : State) : Out :=
  let gk := gidKey gid
  let kind := (w.extractLsb' 20 2).toNat
  runInstr 0x74 gid w [] (fun g t =>
    if kind = 3 then .fault (illegalOp w g)
    else if g.acting w = 0#32 then .next t g
    else if t.mergeStall gk g then .hold t { g with status := .merge }
    else
      let u := t.fenceCaches (coreKeyOf gk)
      if (modOf w).toNat = 3 ∧ kind ≠ 2 then startSysFence kind g u else .next u g) s

/-- The fence of a group takes the epoch that it stalled for, when one can be opened. -/
def State.retryEpoch (s : State) (f : Fence) : Fence × State :=
  match f.epoch with
  | some _ => (f, s)
  | none => match s.openEpoch with
    | some (e, t) => ({ f with epoch := some e }, t)
    | none => (f, s)

/-- R381, R259: every request at or before the fence's epoch is acknowledged and the flush read has completed. The
release part of an ATOM leaves the mark `kind` 5, and the ATOM then runs. -/
def execFenceComplete (gid : Gid) (s : State) : Out :=
  let gk := gidKey gid
  match s.group? gk with
  | none => .next s
  | some g =>
    match g.fence with
    | none => .next s
    | some f =>
      if g.status ≠ .fence then .next s
      else
        let r := s.retryEpoch f
        match r.1.epoch with
        | none => .next s
        | some e =>
          if (r.2.unacked e).isEmpty then
            let g' : Group := if f.kind = 4 then { g with status := .running, fence := some { r.1 with kind := 5 } }
              else { g.countInstr with status := .running, fence := none, pc := g.pc + 8 }
            .next (r.2.putGroup gk g')
          else .next (r.2.putGroup gk { g with fence := some r.1 })

/-- R382: the nodes with unacknowledged requests give DETAIL and the bitmap in ADDR. -/
def fenceTimeoutInfo (g : Group) (l : List Outstanding) : FaultInfo :=
  let nodes := ((l.map (fun o => o.dst.toNat)).dedup).mergeSort (fun a b => decide (a ≤ b))
  let bits := ((nodes.map (· / 256)).dedup).foldl (fun a i => a + 2 ^ i) 0
  mkFaultInfo 0x3B (nodes.head?.getD 0 + 65536 * min 0xFFFF nodes.length) bits g.active

/-- R382: 4 ms have passed and the fence is incomplete. An asynchronous fault found
meanwhile parks the group instead, at the fence (R230). -/
def execFenceTimeout (gid : Gid) (s : State) : Out :=
  let gk := gidKey gid
  match s.group? gk with
  | none => .next s
  | some g =>
    match g.fence with
    | none => .next s
    | some f =>
      let l := s.unacked (f.epoch.getD s.fab.epoch)
      if g.status ≠ .fence ∨ (l.isEmpty ∧ f.epoch.isSome) then .next s
      else if !g.async.isEmpty then .next (s.takeAsync gk { g with fence := none })
      else .next ((s.putGroup gk { g with fence := none }).park gk (fenceTimeoutInfo g l))

/-! ### Atomics -/

/-- The new value of Table 8.6 for an operand of `w` bits: `v` is the operand, `c` the new value of CAS. -/
def atomNew (aop w old v c : Nat) : Nat :=
  let m := 2 ^ w
  match aop with
  | 0 => (old + v) % m
  | 1 => (addIeee (BitVec.ofNat 32 old) (BitVec.ofNat 32 v)).toNat
  | 2 => if signedOf w v < signedOf w old then v else old
  | 3 => if signedOf w old < signedOf w v then v else old
  | 4 => min old v
  | 5 => max old v
  | 6 => old &&& v
  | 7 => old ||| v
  | 8 => old ^^^ v
  | 9 => v
  | _ => if old = v then c else old

/-- Whether the operation writes the word: a CAS that fails does not. -/
def atomWrites (aop old v : Nat) : Bool := aop ≠ 0xA || old == v

/-- R240: the words that an atomic writes carry the tag of the group and lane. -/
def State.setTags (s : State) (p : Place) (n gk lane : Nat) : State :=
  { s with mem.tags := (List.range (n / 4)).foldl (fun t i => Bank.put t (p.word + 2 * i) ⟨gk, lane⟩) s.mem.tags }

/-- What a lane's operation at the home found: the old value, and whether memory changed. -/
structure AtomDone where
  lane : Nat
  old : Nat
  changed : Bool
  /-- a failed CAS that met a tag of the group written by another lane -/
  armTag : Bool
deriving DecidableEq, Repr

/-- One lane's operation at the home of a local address (R264). -/
def State.atomLane (s : State) (gk : Nat) (v : Nat) (p : Place) (n lane aop x c : Nat) : AtomDone × State :=
  let old := leNat (s.readPlace p n)
  let new := atomNew aop (8 * n) old x c
  let tags := (List.range (n / 4)).filterMap (fun i => s.mem.tags.find? (p.word + 2 * i))
  let failed := !atomWrites aop old x
  let arm := failed && tags.any (fun t => t.gid == gk && t.lane != lane)
  if failed then (⟨lane, old, false, arm⟩, s)
  else (⟨lane, old, old ≠ new, false⟩, (s.domainWrite v p (leBytes n new)).setTags p n gk lane)

/-- An atomic invalidates the copies of its line in the core and its cluster (R261, R285). -/
def State.dropCopies (s : State) (ck : Nat) (p : Place) : State :=
  let c := s.core ck
  let s := s.putCore ck { c with l0d := cacheDrop c.l0d p.sector }
  let x := s.cluster (ck / 4)
  s.putCluster (ck / 4) { x with cache := cacheDrop x.cache p.sector }

/-- R265: grant units of the home endpoint that a set of some acting threads takes. -/
def setUnits (aop lanes : Nat) : Nat := if aop = 1 ∨ aop = 9 ∨ aop = 0xA then (lanes + 7) / 8 else 1

/-- The sets of an atomic on this node: one for each address (R264). -/
def State.raiseSets (s : State) (g : Group) (aop : Nat) (addrs : List Nat) : State :=
  (addrs.dedup).foldl (fun t a => match t.translate g.ctx a .atomic with
    | .ok p => t.raiseEndpoint p t.node (setUnits aop (addrs.count a))
    | .error _ => t) s

/-- The operations of the acting lanes on local addresses, in ascending lane order: lane, address, operand, new value. -/
def State.atomLanes (gk : Nat) (g : Group) (n aop : Nat) :
    List (Nat × Nat × Nat × Nat) → State → List AtomDone × State
  | [], s => ([], s)
  | (l, a, x, c) :: r, s =>
    match s.translate g.ctx a .atomic with
    | .error _ => State.atomLanes gk g n aop r s
    | .ok p =>
      let d := s.atomLane gk (ctxVi g.ctx) p n l aop x c
      let rest := State.atomLanes gk g n aop r (d.2.dropCopies (coreKeyOf gk) p)
      (d.1 :: rest.1, rest.2)

/-- R369: the control word and the operands of a set, in parts of at most 256 bytes. -/
def setPayload (aop n : Nat) (ops : List (Nat × Nat × Nat)) : Bytes :=
  leBytes 8 (packFields [(32, (maskOf (ops.map (·.1))).toNat), (4, aop), (1, if n = 8 then 1 else 0)]) ++
    ops.flatMap (fun o => leBytes n o.2.1 ++ (if aop = 0xA then leBytes n o.2.2 else []))

/-- Cut bytes into parts of at most 256. -/
def parts256 : Nat → Bytes → List Bytes
  | 0, _ => []
  | f + 1, b => if b.length ≤ 256 then [b] else b.take 256 :: parts256 f (b.drop 256)

/-- The sets of the lanes that name remote addresses: one request for each address, continued when it is long. A
register number from 512 on names predicate `dst - 512` (ACQ.G). -/
def State.remoteSets (s : State) (gk : Nat) (g : Group) (n aop dst : Nat) (ops : List (Nat × Nat × Nat × Nat)) : State :=
  let addrs := (ops.map (·.2.1)).dedup
  addrs.foldl (fun t a =>
    match gform a with
    | .fabric node win off =>
      let mine := ops.filter (fun o => o.2.1 == a)
      let body := parts256 4 (setPayload aop n (mine.map (fun o => (o.1, o.2.2.1, o.2.2.2))))
      let dest := mine.mapIdx (fun i o => (o.1, dst, n, i * n))
      (body.mapIdx (fun i b => (i, b))).foldl (fun u b =>
        u.fabIssue g.ctx (some gk) (if b.1 = 0 then 4 else 5) node win off (b.2.length / 8) b.2
          (if b.1 = 0 then dest else []) none) t
    | _ => t) s

/-- R240 after an atomic: a change of memory disarms; a failed compare-and-swap may arm. -/
def State.atomDetector (s : State) (gk : Nat) (g : Group) (done : List AtomDone) (addr : Nat → Nat) : Group :=
  if done.any (·.changed) then g.disarm
  else match done.find? (·.armTag) with
    | some d => s.armSelfWait gk g (addr d.lane)
    | none => g

/-- The old values enter gD, and gD+1 for 64-bit operands. -/
def Group.setOld (g : Group) (r n : Nat) (done : List AtomDone) : Group :=
  done.foldl (fun a d => a.setWords d.lane r (loadedWords false n (leBytes n d.old))) g

/-- Faults of the acting lanes of an atomic; ATOM_SPACE reports AOP. -/
def State.atomFault (s : State) (g : Group) (aop n : Nat) (lanes : List (Nat × Nat)) : Option FaultInfo :=
  (gatherFaults (lanes.map (fun x => (x.1, s.laneFault g true x.2 n .atomic false)))).map
    (fun f => if f.cause = 0x30 then { f with detail := BitVec.ofNat 32 aop } else f)

/-- The sectors of local atomics are asked for. -/
def State.atomObtain (s : State) (gk : Nat) (g : Group) (lanes : List (Nat × Nat)) (n : Nat) : Bool × Group × State :=
  s.groupObtain gk g (s.laneSectors g .atomic lanes) (s.storeReqs gk g .atomic (lanes.map (fun x => (x.2, n))))

/-- R261 to R266. A release ordering at .SYS first waits as a fence; an acquire or release ordering empties the caches
as a fence does. -/
def execAtom (gid : Gid) (w : BitVec 64) (s : State) : Out :=
  let gk := gidKey gid
  let cl := clusterKeyOf gk
  let aop := fld (srcCOf w) 0 4
  let wide := bit (srcCOf w) 4
  let order := fld (srcCOf w) 5 2
  let imm := srcBImm w
  let n := if wide then 8 else 4
  let k := n / 4
  let operands := if imm then [] else dataRegs (srcBOf w) (n * (if aop = 0xA then 2 else 1))
  runInstr 0x73 gid w (dataRegs (dstOf w) n ++ [srcAOf w, srcAOf w + 1] ++ operands) (fun g t =>
    if 0xB ≤ aop ∨ (aop = 1 ∧ wide) ∨ (imm ∧ (wide ∨ aop = 0xA)) then .fault (illegalOp w g)
    else if !spaceGlobal w then .fault (mkFaultInfo 0x30 aop 0 g.active)
    else if g.acting w = 0#32 then .next t g
    else if t.mergeStall gk g then .hold t { g with status := .merge }
    else if g.spec then .fault (mkFaultInfo 0x31 (opcOf w) 0 g.active)
    else
      let lanes := (lanesOf (g.acting w)).map (fun l => (l, g.pair l (srcAOf w)))
      match t.atomFault g aop n lanes with
      | some f => .fault f
      | none =>
        let fenced := g.fence.any (fun f => f.kind == 5)
        if 2 ≤ order ∧ (modOf w).toNat = 3 ∧ !fenced then startSysFence 4 g (t.fenceCaches (coreKeyOf gk))
        else
          let opAt : Nat → Nat → Nat := fun l r => if wide then g.pair l r else (g.reg l r).toNat
          let x : Nat → Nat := fun l => if imm then (immOf w).toNat else opAt l (srcBOf w)
          let c : Nat → Nat := fun l => if aop = 0xA then opAt l (srcBOf w + k) else 0
          let ops := lanes.map (fun y => (y.1, y.2, x y.1, c y.1))
          let far := ops.filter (fun o => isFabric o.2.1)
          let near := ops.filter (fun o => !isFabric o.2.1)
          let q := t.atomObtain gk { g with fence := none } (near.map (fun o => (o.1, o.2.1))) n
          if !q.1 || t.farFull cl (far.map (·.2.1)) then .hold (q.2.2.farWait cl (.group gk) q.1) { q.2.1 with fence := g.fence }
          else
            let r := State.atomLanes gk g n aop near (q.2.2.raiseSets g aop (near.map (·.2.1)))
            let u := if order = 0 then r.2 else r.2.fenceCaches (coreKeyOf gk)
            let g' := u.atomDetector gk (q.2.1.setOld (dstOf w) n r.1) r.1 (fun l => g.pair l (srcAOf w))
            if far.isEmpty then .next u g'
            else .next (u.remoteSets gk g n aop (dstOf w) far)
              { g' with status := .remote, atoms := far.map (fun o => (o.1, o.2.2.1, o.2.2.2)) }) s

/-! ### Locks -/

/-- The tag of Table 7.11. -/
def State.lockTag (s : State) (gk : Nat) (g : Group) (lane : Nat) : Nat :=
  packFields [(5, lane), (4, gk % 16), (2, gk / 16 % 4), (11, s.clusterView (ctxVi g.ctx) (clusterKeyOf gk)), (9, 0),
    (1, 1)]

/-- The lowest lane of each address among some lanes. -/
def lowestOfEach (lanes : List (Nat × Nat)) : List (Nat × Nat) :=
  lanes.filter (fun x => !lanes.any (fun y => y.2 == x.2 && y.1 < x.1))

/-- R238: ACQ.G pD, gA. -/
def execAcqG (gid : Gid) (w : BitVec 64) (s : State) : Out :=
  let gk := gidKey gid
  runInstr 0x80 gid w [srcAOf w, srcAOf w + 1] (fun g t =>
    if g.acting w = 0#32 then .next t g
    else if t.mergeStall gk g then .hold t { g with status := .merge }
    else if g.spec then .fault (mkFaultInfo 0x31 (opcOf w) 0 g.active)
    else
      let lanes := (lanesOf (g.acting w)).map (fun l => (l, g.pair l (srcAOf w)))
      match t.atomFault g 0xA 4 lanes with
      | some f => .fault f
      | none =>
        let ops := (lowestOfEach lanes).map (fun y => (y.1, y.2, 0, t.lockTag gk g y.1))
        let far := ops.filter (fun o => isFabric o.2.1)
        let near := ops.filter (fun o => !isFabric o.2.1)
        let q := t.atomObtain gk g (near.map (fun o => (o.1, o.2.1))) 4
        if !q.1 || t.farFull (clusterKeyOf gk) (far.map (·.2.1)) then
          .hold (q.2.2.farWait (clusterKeyOf gk) (.group gk) q.1) q.2.1
        else
          let r := State.atomLanes gk g 4 0xA near (q.2.2.raiseSets g 0xA (near.map (·.2.1)))
          let took := maskOf ((r.1.filter (fun d => d.old == 0)).map (·.lane))
          let g' := (q.2.1.setPredLanes (g.acting w) (dstOf w % 8) took).disarm
          let u := r.2.fenceCaches (coreKeyOf gk)
          if far.isEmpty then .next u g'
          else .next (u.remoteSets gk g 4 0xA (512 + dstOf w % 8) far) { g' with status := .remote }) s

/-- The lock word that a lane of REL.G finds at a local address. -/
def State.lockWord (s : State) (g : Group) (a : Nat) : Option (Place × Nat) :=
  match s.translate g.ctx a .atomic with
  | .ok p => some (p, leNat (s.readPlace p 4))
  | .error _ => none

/-- The lock words on remote nodes are read before any word is written, since REL.G is all or none (R227): one READ of 8
bytes for each lane. A register number of 1,021 says that the value is kept for the check. -/
def State.readLocks (s : State) (gk : Nat) (g : Group) (far : List (Nat × Nat)) : State :=
  far.foldl (fun t x => match gform x.2 with
    | .fabric node win off => t.fabIssue g.ctx (some gk) 1 node win (off / 8 * 8) 1 [] [(x.1, 1021, 4, off % 8)] none
    | _ => t) s

/-- R239: REL.G gA. With words on remote nodes the instruction first reads those, then runs again with what they hold. When
every word holds its tag, 0 is stored into each of them, and none is written otherwise (R227, log entry 76). -/
def execRelG (gid : Gid) (w : BitVec 64) (s : State) : Out :=
  let gk := gidKey gid
  runInstr 0x81 gid w [srcAOf w, srcAOf w + 1] (fun g t =>
    if g.acting w = 0#32 then .next t g
    else if t.mergeStall gk g then .hold t { g with status := .merge }
    else if g.spec then .fault (mkFaultInfo 0x31 (opcOf w) 0 g.active)
    else
      let lanes := (lanesOf (g.acting w)).map (fun l => (l, g.pair l (srcAOf w)))
      match t.atomFault g 0xA 4 lanes with
      | some f => .fault f
      | none =>
        let near := lanes.filter (fun x => !isFabric x.2)
        let far := lanes.filter (fun x => isFabric x.2)
        let q := t.atomObtain gk g near 4
        if !q.1 || t.farFull (clusterKeyOf gk) (far.map (·.2)) then
          .hold (q.2.2.farWait (clusterKeyOf gk) (.group gk) q.1) q.2.1
        else if !far.isEmpty && g.locks.isNone then
          .hold (q.2.2.readLocks gk g far) { q.2.1 with status := .remote, locks := some [] }
        else
          let seen : Nat × Nat → Option Nat := fun x =>
            if isFabric x.2 then ((g.locks.getD []).find? (fun y => y.1 == x.1)).map (·.2) else (t.lockWord g x.2).map (·.2)
          let bad := lanes.filterMap (fun x => match seen x with
            | some v => if v = t.lockTag gk g x.1 then none else some (x.1, v, x.2)
            | none => none)
          match bad with
          | (_, v, a) :: _ => .fault (mkFaultInfo 0x09 v a (maskOf (bad.map (·.1))))
          | [] =>
            let put : State → Nat × Nat → State := fun v y => match v.lockWord g y.2 with
              | some (p, _) => v.domainWrite (ctxVi g.ctx) p (leBytes 4 0)
              | none => v
            let u := (near.foldl put q.2.2).fenceCaches (coreKeyOf gk)
            .next ((u.raiseLines g.ctx .atomic (near.map (·.2))).remoteStore gk g (far.map (fun y => (y.1, y.2, leBytes 4 0)))) { q.2.1.disarm with locks := none }) s

end Sys2Proof.Machine
end

