-- ==== Sys2Proof/Machine/HostOps.lean ====
section
/-!
DEFINITION. What the families share of the host interface: the end of groups (R242, R243), and the outcome of speculation
conditions (R269, R276, R277).
-/

namespace Sys2Proof.Machine

/-! ### The end of groups (R242, R243) -/

/-- Groups of a cluster that stall in DMA.START try again. -/
def State.wakeDma (s : State) (cl : Nat) : State :=
  let wake : Nat × Group → Nat × Group := fun x =>
    if clusterKeyOf x.1 == cl && x.2.status == .dmaStall then (x.1, { x.2 with status := .running }) else x
  { s with groups := s.groups.map wake }

/-- R242: the slots of a group that has ended are freed when all its transfers have. -/
def State.freeDmaSlots (s : State) (gk : Nat) : State :=
  let x := s.cluster (clusterKeyOf gk)
  let mine := x.dma.filter (fun y => y.2.gid == gk)
  if mine.isEmpty || mine.any (fun y => !y.2.finished) then s
  else (s.putCluster (clusterKeyOf gk) { x with dma := x.dma.filter (fun y => y.2.gid != gk) }).wakeDma (clusterKeyOf gk)

/-- Requests of a transfer that ends before its answers: reads that have not left are withdrawn, those that have left stay
for their answers to return their credits (R378), writes stay to be acknowledged. -/
def State.detachDma (s : State) (cl slot : Nat) : State :=
  let mine : Outstanding → Bool := fun o => o.dma == some (cl, slot)
  let free : Outstanding → Outstanding := fun o => if mine o then { o with dma := none, dest := [] } else o
  { s with fab.outstanding := s.fab.outstanding.map free,
           fab.waiting := (s.fab.waiting.filter (fun o => !(mine o && o.type == 1))).map free }

/-- A group ends: its registers are gone, a suspended transfer of it ends, its outstanding requests and miss-tracking
entries belong to no group, a replay that it had pending is ignored and counted (R237), and its launch counts it. -/
def State.endGroup (s : State) (gk : Nat) (aborted : Bool) : State :=
  match s.group? gk with
  | none => s
  | some g =>
    let s := s.ignoreReplay g
    let leave : Outstanding → Outstanding := fun o => if o.gid = some gk then { o with gid := none } else o
    let s := { s with groups := s.groups.erase gk, fab.outstanding := s.fab.outstanding.map leave,
                      fab.waiting := s.fab.waiting.map leave }
    let cl := s.cluster (clusterKeyOf gk)
    let mine : Nat × DmaSlot → Bool := fun x => x.2.gid == gk && x.2.suspended
    let stop : Nat × DmaSlot → Nat × DmaSlot := fun x => if mine x then (x.1, { x.2 with finished := true }) else x
    let s := (cl.dma.filter mine).foldl (fun t x => (t.detachDma (clusterKeyOf gk) x.1).freeMiss (clusterKeyOf gk) (.dma x.1)) s
    let s := s.putCluster (clusterKeyOf gk) { s.cluster (clusterKeyOf gk) with dma := cl.dma.map stop }
    let s := (s.freeMiss (clusterKeyOf gk) (.group gk)).freeDmaSlots gk
    match s.launch? g.launch with
    | some l =>
      let l := { l with ended := insertNat g.gindex l.ended, aborted := l.aborted + (if aborted then 1 else 0) }
      { s with host.launches := s.host.launches.put g.launch l }
    | none => s

/-- Groups of a launch, by key. -/
def State.groupsOf (s : State) (launch : Nat) : List Nat := (s.groups.filter (fun x => x.2.launch == launch)).map (·.1)

/-- R243: the launch starts no further group; queued matrix commands are removed, commands that run complete, and every
group ends. -/
def State.abortLaunch (s : State) (id : Nat) : State :=
  match s.launch? id with
  | none => s
  | some l =>
    let s := { s with host.launches := s.host.launches.put id { l with stopped := true } }
    (s.groupsOf id).foldl (fun t gk =>
      (t.removeCmds (coreKeyOf gk) (fun x => x.group == gk && x.launch == id
        && (x.stage == .queued || x.stage == .head)) false).endGroup gk true) s

/-! ### Speculation (R268 to R279) -/

/-- Two conditions that resolve together. -/
def sameCond (a b : SpecCond) : Bool :=
  a.kind == b.kind && a.object == b.object && (a.kind == 1 || (a.value == b.value && a.tag == b.tag && a.v == b.v))

/-- Weight-cell buffers latched with an uncommitted generation: kept on a commit, freed on a discard (R163). -/
def WeightCell.resolve (x : WeightCell) (committed : Bool) : WeightCell :=
  if !x.uncommitted then x else if committed then { x with uncommitted := false } else {}

def State.resolveCells (s : State) (cl : Nat) (committed : Bool) : State :=
  (List.range 4).foldl (fun t n =>
    let c := t.core (cl * 4 + n)
    if c.cell0.uncommitted || c.cell1.uncommitted then
      t.putCore (cl * 4 + n) { c with cell0 := c.cell0.resolve committed, cell1 := c.cell1.resolve committed }
    else t) s

/-- A condition commits: the clusters that ran its tasks begin their merge (R276). -/
def State.commitSpec (s : State) (p : SpecCond → Bool) : State :=
  let hit : Launch → Bool := fun l => l.outcome.isNone && l.cond.any p
  let mark : Nat × Launch → Nat × Launch := fun x => if hit x.2 then (x.1, { x.2 with outcome := some true }) else x
  let s := { s with host.launches := s.host.launches.map mark }
  let ids := (s.clusters.filter (fun x => x.2.cond.any p)).map (·.1)
  ids.foldl (fun t cl =>
    (t.putCluster cl { t.cluster cl with merging := true, held := [] }).resolveCells cl true) s

/-- Units of 256 bytes of the accumulator buffer set to +0. -/
def zeroUnits (acc : Bank Word) (units : List Nat) : Bank Word := acc.filter (fun x => !units.contains (x.1 / 64))

/-- A cluster drops the shadow entries of a discarded condition and clears the units held for it (R163, R277). -/
def State.discardCluster (s : State) (cl : Nat) : State :=
  let c := s.cluster cl
  (s.putCluster cl { c with cond := none, merging := false, shadow := [], held := [], acc := zeroUnits c.acc c.held,
                            final := c.final.filter (fun u => !c.held.contains u) }).resolveCells cl false

/-- R277: a launch is discarded: its queued matrix commands are removed, its groups end as by ABORT. Commands and transfers
that are running complete (R242), and what they write from then on has no effect. -/
def State.discardLaunch (s : State) (id : Nat) : State :=
  match s.launch? id with
  | none => s
  | some l =>
    let s := { s with host.launches := s.host.launches.put id { l with stopped := true, outcome := some false } }
    let cores := (s.cores.filter (fun x => x.2.queue.any (fun y => y.launch == id))).map (·.1)
    let s := cores.foldl (fun t ck => t.removeCmds ck (fun x => x.launch == id && (x.stage == .queued || x.stage == .head)) false) s
    let voidCmd : Nat × Core → Nat × Core := fun x =>
      if x.2.queue.any (fun y => y.launch == id) then
        (x.1, { x.2 with queue := x.2.queue.map (fun y => if y.launch = id then { y with void := true } else y) }) else x
    let voidDma : Nat × Cluster → Nat × Cluster := fun x =>
      if x.2.dma.any (fun y => y.2.launch == id) then
        (x.1, { x.2 with dma := x.2.dma.map (fun y => if y.2.launch = id then (y.1, { y.2 with void := true }) else y) }) else x
    let s := { s with cores := s.cores.map voidCmd, clusters := s.clusters.map voidDma }
    (s.groupsOf id).foldl (fun t gk => t.endGroup gk true) s

/-- A condition discards. -/
def State.discardSpec (s : State) (p : SpecCond → Bool) : State :=
  let ids := (s.host.launches.filter (fun x => x.2.outcome.isNone && x.2.cond.any p)).map (·.1)
  let s := ids.foldl State.discardLaunch s
  ((s.clusters.filter (fun x => x.2.cond.any p && !x.2.merging)).map (·.1)).foldl State.discardCluster s

/-! ### The end of a context (R401) -/

/-- No device reference of a context is left but that on its page tables. -/
def State.ctxQuiet (s : State) (k : Nat) (c : Ctx) : Bool :=
  s.host.launches.all (fun x => x.2.ctx != k) && c.conv.isNone && c.nextConv.isNone && c.ret.isNone && c.nextRet.isNone
    && c.upd.isNone && c.nextUpd.isNone
    && s.fab.windows.all (fun x => x.2.ctx != k)
    && s.host.queues.all (fun x => x.1 / 16385 != ctxVi k || x.2.ctx != k % 4096 || x.1 % 16385 == adminQ || x.2.cmds.isEmpty)
    && s.host.objects.all (fun x => x.1 / 65536 != k || x.1 == c.pt)

/-- A destroyed context without device references is released: its page tables and queues go, and CONTEXT_RELEASE is
posted to the admin event ring. -/
def State.settleCtx (s : State) (k : Nat) : State :=
  match s.ctx? k with
  | none => s
  | some c =>
    match c.destroyCookie with
    | none => s
    | some ck =>
      if s.ctxQuiet k c then
        let s := s.dropObj c.pt
        let mine : Nat × Queue → Bool := fun x => x.1 / 16385 == ctxVi k && x.2.ctx == k % 4096 && x.1 % 16385 != adminQ
        let s := { s with host.ctxs := s.host.ctxs.erase k, host.queues := s.host.queues.filter (fun x => !mine x) }
        s.adminEvent (ctxVi k) (mkEvent ck.toNat 0 noQueue 9 (k % 4096))
      else s

/-- Every destroyed context that has become quiet. -/
def State.settleAll (s : State) : State :=
  ((s.host.ctxs.filter (fun x => x.2.destroyCookie.isSome)).map (·.1)).foldl State.settleCtx s

/-! ### Ranges of device addresses -/

/-- Cut a range where 256-byte sectors meet. -/
def sectorPieces : Nat → Nat → Nat → List (Nat × Nat)
  | 0, _, _ => []
  | fuel + 1, va, n =>
    if n = 0 then []
    else
      let l := min n (256 - va % 256)
      (va, l) :: sectorPieces fuel (va + l) (n - l)

/-- Stores of the domain over a virtual range of a context, sector after sector. -/
def State.storeAs (s : State) (writer k va : Nat) (bs : Bytes) : State :=
  ((sectorPieces (bs.length / 256 + 2) va bs.length).foldl (fun (a : State × Bytes) p =>
    match a.1.translate k p.1 .store with
    | .ok pl => (a.1.domainWrite writer pl (a.2.take p.2), a.2.drop p.2)
    | .error _ => (a.1, a.2.drop p.2)) (s, bs)).1

def State.storeRange (s : State) (k va : Nat) (bs : Bytes) : State := s.storeAs (ctxVi k) k va bs

/-- The arrays read for a range of a context (R292, R294). -/
def State.readRange (s : State) (k va n : Nat) : State :=
  (piecesOf va n).foldl (fun t p => match t.translate k p.1 .load with
    | .ok (.fast a) => t.readArrays a p.2 1
    | _ => t) s

/-- An operand range that a command reads or writes lies in objects of the context: else RANGE (Table 12.11). -/
def State.inRange (s : State) (k va n : Nat) (a : Acc) : Bool :=
  0 < n && va + n ≤ 2 ^ 48 && (s.rangeMiss k va n a).isNone

/-! ### Timelines (R412, R269) -/

/-- A signal: a greater value is taken, and conditions that it fulfils commit; a lower one is counted. -/
def State.signalTl (s : State) (v t value : Nat) : State :=
  match s.host.timelines.find? (tlKey v t) with
  | none => s
  | some x =>
    if x.value.toNat < value then
      let s := { s with host.timelines := s.host.timelines.put (tlKey v t) { x with value := BitVec.ofNat 64 value } }
      s.commitSpec (fun c => c.kind == 2 && c.v == v && c.object.toNat == t && decide (c.value.toNat ≤ value))
    else if value < x.value.toNat then s.bump 0x60105 v
    else s

end Sys2Proof.Machine
end

