-- ==== Sys2Proof/Machine/Kernels.lean ====
section
/-!
DEFINITION. The life of thread groups and kernels: how a kernel comes to a core and its groups to their slots (R16, R202
to R205, R241, R270, R282, R408), how groups end or park between instructions (R217, R230, R231, R240), replay (R234 to
R237), the completion of a kernel (R242, R278), and merge and discard of speculative tasks (R269, R276, R277).
-/

namespace Sys2Proof.Machine

/-! ### Placing a kernel -/

/-- The kernel image that a launch runs. -/
def State.kernelOf (s : State) (l : Launch) : Option Kernel := s.host.kernels.find? l.kernel

/-- Groups resident on a core. -/
def State.residents (s : State) (ck : Nat) : List (Nat × Group) := s.groups.filter (fun x => coreKeyOf x.1 == ck)

/-- Whether every group that a launch places on a core has ended; a stopped launch starts no further one. -/
def State.coreDone (s : State) (ck launch : Nat) : Bool :=
  match s.launch? launch with
  | none => true
  | some l =>
    let v := ctxVi l.ctx
    let c := s.clusterCount v
    match s.logicalOf v (ck / 4) with
    | none => true
    | some cl =>
      let here : Nat → Bool := fun i => i % c == cl && i / c % 4 == ck % 4
      l.stopped || decide (placedOn l.groups c cl (ck % 4) ≤ (l.ended.filter here).length)

/-- R282: the context whose kernels a cluster runs has been cleared in. -/
def State.clusterReady (s : State) (cl k : Nat) : Bool := (s.cluster cl).ctx == some k

/-- R282: another context takes the cluster when every group on it has ended and no condition of it is pending; every
byte of the cluster store becomes 0 and the cluster cache is emptied. DESIGN CHOICE: the accumulator buffer, its marks and
the tie table stay as the earlier context left them (log entry 108). -/
def execClusterStoreClear (cluster : Fin 1088) (launch : Nat) (s : State) : Out :=
  let cl := cluster.val
  let x := s.cluster cl
  match s.launch? launch with
  | none => .next s
  | some l =>
    if (s.logicalOf (ctxVi l.ctx) cl).isNone || x.ctx == some l.ctx || s.groups.any (fun g => clusterKeyOf g.1 == cl)
        || x.cond.isSome || l.stopped then .next s
    else
      let s := { s with mem.store := memZero s.mem.store (cl * 4194304) 4194304 }
      .next (s.putCluster cl { x with ctx := some l.ctx, cache := [], shadow := [], cleared := true })

/-- The number of a context is given to a new one: no cluster and no core counts as having run it (R171, R282). -/
def State.forgetCtx (s : State) (k : Nat) : State :=
  let cl : Nat × Cluster → Nat × Cluster := fun x => if x.2.ctx = some k then (x.1, { x.2 with ctx := none }) else x
  let core : Nat × Core → Nat × Core := fun x => if x.2.lastCtx = some k then (x.1, { x.2 with lastCtx := none }) else x
  { s with clusters := s.clusters.map cl, cores := s.cores.map core }

/-- R204, R241, R285, R504: a kernel starts on a core. R171: for another context than the core ran before, row slots,
lane accumulators and row buffers read as 0. -/
def execKernelStartCore (c : Cid) (launch : Nat) (s : State) : Out :=
  let ck := cidKey c
  let core := s.core ck
  match s.launch? launch with
  | none => .next s
  | some l =>
    if l.stopped || core.kernel == some launch || !s.clusterReady (ck / 4) l.ctx || !(s.residents ck).isEmpty
        || !(core.kernel.elim true (s.coreDone ck)) then .next s
    else
      let same := core.lastCtx == some l.ctx
      let core := { core with kernel := some launch, lastCtx := some l.ctx, kStart := s.coreCycles ck, l0d := [], l0i := [],
                              mrec := s.recordEnabled l.ctx 0, rows := if same then core.rows else [],
                              rowScale := if same then core.rowScale else [], lacc := if same then core.lacc else [],
                              rb := if same then core.rb else [] }
      let s := s.putCore ck core
      .next ((s.putCluster (ck / 4) { s.cluster (ck / 4) with cache := [] }).settlePrefetch (s.cacheUnits l.ctx) (ck / 4))

/-! ### Groups start -/

/-- R203: NREG rounded up to a multiple of 8. -/
def roundNreg (n : Nat) : Nat := (n + 7) / 8 * 8

/-- R16: groups of a kernel that a core holds. -/
def groupCapacity (n : Nat) : Nat := min 16 (2048 / n)

/-- A group number of a core that no group holds, and for which no matrix command or transfer of an ended group is still
under way. -/
def State.freeGroup (s : State) (ck : Nat) : Option Nat :=
  (List.range 16).find? (fun n =>
    (s.group? (groupKeyOn ck n)).isNone && !(s.core ck).queue.any (fun x => x.group == groupKeyOn ck n)
      && !(s.cluster (ck / 4)).dma.any (fun x => x.2.gid == groupKeyOn ck n))

/-- The live threads of group `i` of a launch (R408). -/
def liveOf (l : Launch) (i : Nat) : Word :=
  if i + 1 = l.groups ∧ l.lastLive ≠ 0 then BitVec.ofNat 32 (2 ^ l.lastLive - 1) else 0xFFFFFFFF#32

/-- R205: a group as it starts. -/
def startGroup (l : Launch) (id i : Nat) (k : Kernel) : Group :=
  { launch := id, ctx := l.ctx, gindex := i, nreg := roundNreg k.nreg, live := liveOf l i, active := liveOf l i,
    uregs := (l.args.mapIdx (fun j v => (j, v))).foldl (fun b x => b.set 0 x.1 x.2) [],
    pc := BitVec.ofNat 48 (k.code + k.entry), spec := l.cond.isSome && l.outcome.isNone }

/-- R270: whether the cluster may run a task with this condition. -/
def condFits (cl : Cluster) (l : Launch) : Bool :=
  match l.cond with
  | none => true
  | some c =>
    if l.outcome.isSome then true
    else match cl.cond with
      | none => true
      | some d => sameCond c d && !cl.merging

/-- A group of a launch is placed (R408); one that starts while its cluster still merges the task's stores stalls for the
merge like the others (R276): on an absent cluster it ends as by an abort (R466). -/
def execGroupStart (launch index : Nat) (s : State) : Out :=
  match s.launch? launch with
  | none => .next s
  | some l =>
    let c := s.clusterCount (ctxVi l.ctx)
    if l.stopped || l.groups ≤ index || l.started.contains index
        || (decide (4 * c ≤ index) && !l.started.contains (index - 4 * c)) then .next s
    else match s.placeOf (ctxVi l.ctx) index, s.kernelOf l with
      | some (cl, n), some k =>
        let ck := cl * 4 + n
        let l1 := { l with started := l.started ++ [index] }
        if s.health.absent.contains cl then
          let l2 := { l1 with ended := insertNat index l1.ended, aborted := l1.aborted + 1 }
          .next { s with host.launches := s.host.launches.put launch l2 }
        else
          let x := s.cluster cl
          match s.freeGroup ck with
          | none => .next s
          | some g =>
            if (s.core ck).kernel == some launch && s.clusterReady cl l.ctx && condFits x l
                && decide ((s.residents ck).length < groupCapacity (roundNreg k.nreg)) then
              let s := { s with host.launches := s.host.launches.put launch l1 }
              let g0 := startGroup l launch index k
              let late := x.merging && l.cond.any (fun c => x.cond.any (sameCond c))
              let s := s.putGroup (groupKeyOn ck g) (if late then { g0 with spec := true } else g0)
              .next (if l.cond.isSome && l.outcome.isNone then s.putCluster cl { x with cond := l.cond } else s)
            else .next s
      | _, _ => .next s

/-! ### Between two instructions -/

/-- R217: requests of a group that a remote node has not acknowledged. -/
def State.groupUnacked (s : State) (gk : Nat) : Bool :=
  (s.fab.outstanding ++ s.fab.waiting).any (fun o => o.gid == some gk && o.type != 1)

/-- R217: a waiting EXIT ends its group; a pending fault parks it instead. -/
def execGroupEnd (g : Gid) (s : State) : Out :=
  let gk := gidKey g
  match s.group? gk with
  | none => .next s
  | some x =>
    if x.status ≠ .exiting then .next s
    else if !x.async.isEmpty then .next (s.takeAsync gk x)
    else if x.mxTok.isEmpty && x.dmaTok.isEmpty && !s.groupUnacked gk then .next (s.endGroup gk false)
    else .next s

/-- A boundary of instructions: the group runs, or stalls in an instruction that PC names without having begun it. -/
def atBoundary (g : Group) : Bool :=
  match g.status with
  | .fence | .remote | .parked => false
  | _ => true

/-- R230: a group with an asynchronous fault parks at its next instruction boundary. -/
def execGroupParkAsync (g : Gid) (s : State) : Out :=
  let gk := gidKey g
  match s.group? gk with
  | none => .next s
  | some x => .next (if atBoundary x && !x.async.isEmpty then s.takeAsync gk x else s)

/-- R240: the counter of an armed detector has reached 65,536; an asynchronous fault goes first (R230). -/
def execGroupSelfWait (g : Gid) (s : State) : Out :=
  let gk := gidKey g
  match s.group? gk with
  | none => .next s
  | some x =>
    if x.selfWait.armed && decide (65536 ≤ s.selfWaitCount gk x) && atBoundary x && x.async.isEmpty then
      .next ((s.putGroup gk (s.wordAtPc x)).park gk (mkFaultInfo 0x07 x.selfWait.addr.toNat 0 x.active))
    else .next s

/-! ### Replay -/

/-- The group of a context that is parked with the record of a SEQ and has no replay pending. -/
def State.parkedWith (s : State) (k seq : Nat) : Option Nat :=
  (List.find? (fun (x : Nat × Group) => x.2.ctx == k && x.2.status == .parked && x.2.replay.isNone
    && x.2.record.any (fun r => r.seq.toNat == seq)) s.groups).map (·.1)

/-- REPLAY_GROUP (R234): the mode takes effect at the group's next boundary (R237); the command completes with it. -/
def execReplayGroup (r : CmdRef) (s : State) : Out :=
  runCmd 0x14 r (fun c k t =>
    let mode := c.arg 16 3
    match t.parkedWith k (c.arg 0 16) with
    | none => t.illegalCmd r 5
    | some gk =>
      if 3 < mode then t.illegalCmd r 5
      else match t.group? gk with
        | some g => (t.putGroup gk { g with replay := some (mode, r) }).keepBusy r
        | none => t) s

/-- A group with this replay pending. -/
def State.replaying (s : State) (gk mode : Nat) : Option Group :=
  match s.group? gk with
  | some g => if g.status = .parked ∧ g.replay.map (·.1) = some mode then some g else none
  | none => none

/-- The replay of a group has acted: its command completes. -/
def State.doneReplay (s : State) (g : Group) : State :=
  match g.replay with
  | some x => s.finish x.2 0 0
  | none => s

/-- A parked group goes on at an address; the self-wait counter counts on. -/
def State.resume (s : State) (gk : Nat) (g : Group) (pc : BitVec 48) : State :=
  let now := s.dieCycles (dieOfCluster (clusterKeyOf gk))
  (s.doneReplay g).putGroup gk { g with status := .running, replay := none, record := none, pc := pc, removed := [], got := [],
                                        locks := none, selfWait.start := now - g.selfWait.start }

/-- R307: the suspended transfers of a group go on at their faulting sectors. -/
def State.resumeDma (s : State) (gk : Nat) : State :=
  let cl := s.cluster (clusterKeyOf gk)
  let go : Nat × DmaSlot → Nat × DmaSlot := fun x => if x.2.gid == gk then (x.1, { x.2 with suspended := false }) else x
  s.putCluster (clusterKeyOf gk) { cl with dma := cl.dma.map go }

/-- A DMA token counter falls; a group in DMA.WAIT for it goes on at 0, one that stalls in DMA.START tries again. -/
def State.dropDmaToken (s : State) (gk token : Nat) : State :=
  match s.group? gk with
  | none => s
  | some g =>
    let n := g.dmaTok.get 0 token - 1
    let g := { g with dmaTok := g.dmaTok.set 0 token n }
    s.putGroup gk (if g.status = .dmaWait token ∧ n = 0 then { g.countInstr with status := .running, pc := g.pc + 8 } else g)

/-- A transfer of a cluster ends; its slot is free, or waits for the other transfers of a group that has ended (R242). -/
def State.endDma (s : State) (cl slot : Nat) (d : DmaSlot) : State :=
  let x := s.cluster cl
  let s := (s.detachDma cl slot).freeMiss cl (.dma slot)
  match s.group? d.gid with
  | some _ => ((s.putCluster cl { s.cluster cl with dma := x.dma.erase slot }).dropDmaToken d.gid d.token).wakeDma cl
  | none => (s.putCluster cl { s.cluster cl with dma := x.dma.put slot { d with finished := true } }).freeDmaSlots d.gid

/-- R307: SKIP ends the suspended transfers of a group. -/
def State.skipDma (s : State) (gk : Nat) : State :=
  let cl := clusterKeyOf gk
  ((s.cluster cl).dma.filter (fun x => x.2.gid == gk && x.2.suspended)).foldl (fun t x => t.endDma cl x.1 x.2) s

/-- R234 mode 0. -/
def execRetry (g : Gid) (s : State) : Out :=
  match s.replaying (gidKey g) 0 with
  | none => .next s
  | some x => .next ((s.resume (gidKey g) x x.pc).resumeDma (gidKey g))

/-- R234 mode 1: past the instruction of a precise fault; at PC after an asynchronous one. -/
def execSkip (g : Gid) (s : State) : Out :=
  let gk := gidKey g
  match s.replaying gk 1 with
  | none => .next s
  | some x =>
    let async := x.record.any (fun r => r.info.async)
    let s := if async then s.skipDma gk else s
    match s.group? gk with
    | none => .next s
    | some y => .next (s.resume gk y (if async then y.pc else y.pc + 8))

/-- R235: the commands of the removed list one after another, each with the checks of R151. A failed check parks the group
again; a full queue or counter leaves the rest for later. True when the list has become empty. -/
def State.reissueAll : Nat → Nat → State → State × Bool
  | 0, _, s => (s, false)
  | n + 1, gk, s =>
    match s.group? gk with
    | none => (s, false)
    | some g =>
      match g.removed with
      | [] => (s, true)
      | (addr, token) :: rest =>
        match s.checkDesc gk g addr with
        | .error c =>
          let s := (s.doneReplay g).putGroup gk { g with replay := none }
          (s.park gk (mkFaultInfo c (mxDetail addr token) 0 g.active true), false)
        | .ok d =>
          if 8 ≤ (s.core (coreKeyOf gk)).waiting ∨ g.mxTok.get 0 token = 63 then (s, false)
          else
            let r := s.enqueueMx gk { g with removed := rest } addr token d
            State.reissueAll n gk (r.1.putGroup gk r.2)

/-- R234 mode 2. -/
def execReissue (g : Gid) (s : State) : Out :=
  let gk := gidKey g
  match s.replaying gk 2 with
  | none => .next s
  | some _ =>
    let r := State.reissueAll 9 gk s
    if r.2 then
      match r.1.group? gk with
      | some y => .next ((r.1.resume gk y y.pc).resumeDma gk)
      | none => .next r.1
    else .next r.1

/-- R234 mode 3. -/
def execAbort (g : Gid) (s : State) : Out :=
  match s.replaying (gidKey g) 3 with
  | none => .next s
  | some x => .next (((s.doneReplay x).putGroup (gidKey g) { x with replay := none }).endGroup (gidKey g) true)

/-! ### The end of a kernel -/

/-- R242: every group has ended, no matrix command and no transfer of the launch is left, and no write of an ended group of
its context waits for a remote node. -/
def State.launchQuiet (s : State) (id : Nat) (l : Launch) : Bool :=
  (if l.stopped then l.started.all (fun i => l.ended.contains i) else decide (l.groups ≤ l.ended.length))
    && (s.groupsOf id).isEmpty && s.cores.all (fun x => x.2.queue.all (fun y => y.launch != id))
    && s.clusters.all (fun x => x.2.dma.all (fun y => y.2.launch != id))
    && (s.fab.outstanding ++ s.fab.waiting).all (fun o => !(o.ctx == l.ctx && o.gid.isNone && o.type != 1))

/-- R278: the condition of a launch is resolved and every cluster has merged. -/
def State.launchResolved (s : State) (l : Launch) : Bool :=
  match l.cond with
  | none => true
  | some c => l.outcome.isSome && (l.outcome == some false || s.clusters.all (fun x => !x.2.cond.any (sameCond c)))

/-- DETAIL of a LAUNCH (Table 12.15). -/
def launchDetail (l : Launch) : Nat :=
  let spec := match l.cond with
    | none => 0
    | some _ => if l.outcome = some true then 1 else 2
  packFields [(16, l.aborted), (2, spec), (16, (l.cond.elim 0 (fun c => c.tag.toNat)))]

/-- What the record of the LAUNCH carries (R503). -/
def State.noteTask (s : State) (id : Nat) (l : Launch) : State :=
  match s.cmd? l.cmd with
  | some c => s.putCmd l.cmd { c with sums := l.numeric, aborted := l.aborted, spec := l.cond.isSome,
                                      taskStep := (s.stepOfTask id l.ctx).map (·.1) }
  | none => s

/-- KERNEL_COMPLETE: the launch's command completes, and with it the aborts that waited for this launch alone. -/
def execKernelComplete (launch : Nat) (s : State) : Out :=
  match s.launch? launch with
  | none => .next s
  | some l =>
    if s.launchQuiet launch l && s.launchResolved l then
      let s := s.noteTask launch l
      let s := { s with host.launches := s.host.launches.erase launch }
      let s := s.finish l.cmd 0 (launchDetail l)
      .next (l.aborters.foldl (fun t r =>
        if t.host.launches.any (fun x => x.2.aborters.contains r) then t else t.finish r 0 0) s)
    else .next s

/-! ### Speculation -/

/-- A shadow entry as the stores of its written bytes, in ascending order: runs of one byte. -/
def ShadowEntry.stores (e : ShadowEntry) : List (Nat × Bytes) := e.bytes.map (fun x => (e.block * 64 + x.1, [x.2]))

/-- A merged store reaches the lines that the cluster holds: the cluster cache is updated as by any store of the cluster, and
the L0 data caches give the line up, so that a load of the task's threads finds the store (R250). DESIGN CHOICE: the entry
names no core, so every core's line goes (log entry 106). -/
def State.mergedLine (s : State) (cl sector o : Nat) (bs : Bytes) : State :=
  let x := s.cluster cl
  let s := s.putCluster cl { x with cache := cachePatch x.cache sector o bs }
  (List.range 4).foldl (fun t n =>
    let c := t.core (cl * 4 + n)
    if (cacheGet c.l0d sector).isSome then t.putCore (cl * 4 + n) { c with l0d := cacheDrop c.l0d sector } else t) s

/-- The sector requests of a merge: the sectors of the local global entries (Table 8.10). -/
def State.mergeReqsOf (s : State) (k : Nat) (l : List ShadowEntry) : List SectorReq :=
  mergeReqs ((l.filter (·.global)).flatMap (fun e => e.stores.filterMap (fun x => match gform x.1 with
    | .local va => match s.translate k va .store with
      | .ok p => some { place := p, va := va / 256, ecc := s.latentAt p.addr, miss := false }
      | .error _ => none
    | _ => none)))

/-- R276: one entry performed as a store of the cluster. A byte whose address is not mapped for stores is dropped. -/
def State.mergeEntry (s : State) (cl k : Nat) (e : ShadowEntry) : State :=
  if !e.global then e.stores.foldl (fun t x => (t.storeWrite cl x.1 x.2).mergedLine cl (storeSector x.1) (x.1 % 256) x.2) s
  else match gform (e.block * 64) with
    | .local _ => e.stores.foldl (fun t x => match t.translate k x.1 .store with
        | .ok p => (t.domainWrite (ctxVi k) p x.2).mergedLine cl p.sector p.inSector x.2
        | .error _ => t) s
    | .fabric node win off =>
      if (s.fabAddrFault k win).isSome then s
      else
        let r := blockRequest e.bytes
        s.fabIssue k none r.1 node win (off + r.2.1) (r.2.2.length / 8) r.2.2 [] none
    | .reserved => s

/-- R273: a remote read that a speculative task of a cluster has issued is unanswered. Its response is seen through the shadow
area, which the merge therefore leaves until then (log entry 126). -/
def State.specReads (s : State) (cl : Nat) : Bool :=
  let spec : Outstanding → Bool := fun o => match o.dma with
    | some (c, n) => c == cl && ((s.cluster c).dma.find? n).any (·.spec)
    | none => o.gid.any (fun gk => clusterKeyOf gk == cl && (s.group? gk).any (·.spec))
  (s.fab.outstanding ++ s.fab.waiting).any (fun o => o.type == 1 && spec o)

/-- R276: the merge of a cluster is over: its stalled groups resume as ordinary groups. Global entries go through the
cluster's miss-tracking entries; while a sector waits for one, or for the bucket, the merge goes on. -/
def execSpecMergeDone (cluster : Fin 1088) (s : State) : Out :=
  let cl := cluster.val
  let x := s.cluster cl
  let k := x.ctx.getD 0
  let q := State.obtainAll cl (ctxVi k) .other (s.mergeReqsOf k x.shadow) x.got (s.endWaits cl .other)
  if !x.merging || s.specReads cl then .next s
  else if !q.1 then .next (q.2.2.putCluster cl { q.2.2.cluster cl with got := q.2.1 })
  else
    let s := q.2.2.putCluster cl { q.2.2.cluster cl with got := [] }
    let s := x.shadow.foldl (fun t e => t.mergeEntry cl (x.ctx.getD 0) e) s
    let plainSlot : Nat × DmaSlot → Nat × DmaSlot := fun y => (y.1, { y.2 with spec := false })
    let s := s.putCluster cl { s.cluster cl with cond := none, merging := false, shadow := [], held := [],
                                                 dma := (s.cluster cl).dma.map plainSlot }
    let plainCmd : MxCmd → MxCmd := fun y => { y with spec := false }
    let s := (List.range 4).foldl (fun t n =>
      let c := t.core (cl * 4 + n)
      if c.queue.isEmpty then t else t.putCore (cl * 4 + n) { c with queue := c.queue.map plainCmd }) s
    let plain : Nat × Group → Nat × Group := fun y =>
      if clusterKeyOf y.1 == cl then
        (y.1, { y.2 with spec := false, status := if y.2.status = .merge then .running else y.2.status })
      else y
    .next { s with groups := s.groups.map plain }

/-- Unresolved launches of a context with this tag and kind. -/
def State.taggedWith (s : State) (k tag kind : Nat) : List Nat :=
  (s.host.launches.filter (fun x => x.2.ctx == k && x.2.outcome.isNone
    && x.2.cond.any (fun c => c.tag.toNat == tag && c.kind == kind))).map (·.1)

/-- SPEC_DISCARD (R268, R269): the KIND 2 tasks of the context with the tag. -/
def execSpecDiscard (r : CmdRef) (s : State) : Out :=
  runCmd 0x15 r (fun c k t =>
    let tag := c.arg 0 16
    if !(t.taggedWith k tag 1).isEmpty then t.illegalCmd r 5
    else
      let ids := t.taggedWith k tag 2
      let cls := (t.clusters.filter (fun x => x.2.ctx == some k && !x.2.merging
        && x.2.cond.any (fun d => d.kind == 2 && d.tag.toNat == tag))).map (·.1)
      (cls.foldl State.discardCluster (ids.foldl State.discardLaunch t)).finish r 0 0) s

end Sys2Proof.Machine
end

