-- ==== Sys2Proof/Machine/HostQueues.lean ====
section
/-!
DEFINITION. Queues and the commands of this chapter that run in them: doorbells and submission (R398 to R406), start and
completion (R404, R409, R500, R503), NOP, kernels and launches (R408, R410), COPY, FILL and MAP_SYNC.
-/

namespace Sys2Proof.Machine

/-! ### Doorbells and submission -/

/-- A function that is enabled (R390). -/
def State.hasVi (s : State) (v : Nat) : Bool := v < s.viEnabled

/-- R402: bytes of host memory that come with a doorbell write lie there before it. -/
def State.placeHost (s : State) (mem : List (Nat × Bytes)) : State := mem.foldl (fun t x => t.hostWrite x.1 x.2) s

def Queue.entries (q : Queue) : Nat := 64 * 2 ^ q.z

/-- R402. -/
def Queue.tailOk (q : Queue) (t : BitVec 32) : Bool :=
  (t - q.head).toNat ≤ q.entries && (q.tail - q.head).toNat ≤ (t - q.head).toNat

/-- R526 to R528: the host port has trained and presents BAR0; the recovery loader's BAR0 ignores writes. -/
def State.barOpen (s : State) : Bool :=
  (s.boot.phase == .trained || s.boot.phase == .tested || s.boot.phase == .stopped || s.boot.phase == .started)
    && s.power.hold == .none && !s.health.lost.contains (.iod 0)

/-- QUEUE_TAIL_DOORBELL: `mem` is what the host has written into its memory before. -/
def execQueueTailDoorbell (v : Fin 64) (q : Fin 16385) (value : BitVec 32) (bytes : Nat) (mem : List (Nat × Bytes))
    (s : State) : Out :=
  let s := s.placeHost mem
  if !s.hasVi v.val || !s.barOpen then .next s
  else match s.queueAt v.val q.val with
    | none => .next s
    | some x =>
      if bytes < 8 || !x.tailOk value then
        .next (s.illegal v.val 0 (if q.val = adminQ then noQueue else q.val) 0 6)
      else if x.destroying.isSome then .next s
      else .next (s.putQueue v.val q.val { x with tail := value })

/-- Entry `n` of a queue's ring. -/
def State.ringEntry (s : State) (q : Queue) (n : Nat) : BitVec 512 :=
  BitVec.ofNat 512 (leNat (memRead s.mem.host (q.ring + 64 * (n % q.entries)) 64))

/-- The codes of Table 12.10 for a context queue, for an admin queue, for the physical function, and the guarded ones. -/
def ctxOpcode (o : Nat) : Bool :=
  o == 0 || (0x10 ≤ o && o ≤ 0x18) || (0x20 ≤ o && o ≤ 0x25) || (0x28 ≤ o && o ≤ 0x2F) || (0x30 ≤ o && o ≤ 0x32)
def adminOpcode (o : Nat) : Bool := o == 0 || (0x80 ≤ o && o ≤ 0x88) || (0x90 ≤ o && o ≤ 0x94)
def pfOpcode (o : Nat) : Bool := o == 0x24 || o == 0x25 || (0x90 ≤ o && o ≤ 0x94)
def guardedOpcode (o : Nat) : Bool := 0x92 ≤ o && o ≤ 0x94

/-- R405: the reason for which an entry is an illegal sequence; 0 for none. -/
def entryReason (v : Nat) (admin : Bool) (e : BitVec 512) : Nat :=
  let o := fld e.toNat 0 8
  if !ctxOpcode o && !adminOpcode o then 1
  else if !(if admin then adminOpcode o else ctxOpcode o) then 2
  else if v ≠ 0 && pfOpcode o then 3
  else if e.getLsbD 19 != guardedOpcode o then 4
  else 0

/-- The address operands of a command of a context queue (Table 12.10). -/
def addressOperands (c : Cmd) : List Nat :=
  match c.opcode with
  | 0x10 => [c.arg 0 48]
  | 0x12 => [c.arg 0 48]
  | 0x16 => [c.arg 0 48, c.arg 64 48]
  | 0x17 => [c.arg 0 48]
  | 0x18 => [c.arg 0 48]
  | 0x20 => [c.arg 0 48]
  | 0x22 => [c.arg 0 48]
  | 0x23 => [c.arg 0 48]
  | 0x28 => [c.arg 64 48]
  | 0x2D => [c.arg 64 48]
  | 0x2E => c.arg 64 48 :: (if c.arg 112 1 = 1 then [c.arg 128 48] else [])
  | 0x2F => [c.arg 0 48]
  | 0x30 => [c.arg 0 48]
  | 0x31 => [c.arg 64 48]
  | _ => []

/-- The speculation condition of a LAUNCH (Table 8.8). -/
def launchCond (c : Cmd) (v : Nat) : SpecCond :=
  { kind := c.arg 128 2, tag := BitVec.ofNat 16 (c.arg 144 16), object := BitVec.ofNat 32 (c.arg 160 32),
    value := BitVec.ofNat 64 (c.arg 192 64), v := v }

/-- The non-zero handles in the REFS of a LAUNCH's argument block (R408). -/
def State.launchRefs (s : State) (k : Nat) (c : Cmd) : List Nat :=
  if c.opcode = 0x12 ∧ s.inRange k (c.arg 0 48) 128 .load then
    let b := s.readVirt k (c.arg 0 48 + 64) 64
    ((List.range 16).map (fun i => leNat ((b.drop (4 * i)).take 4))).filter (· ≠ 0)
  else []

/-- A memory object of context `k` by handle, with its key. -/
def State.objByHandle (s : State) (k h : Nat) : Option (Nat × MemObj) :=
  match s.host.objects.find? (objKey k (h % 65536)) with
  | some o => if o.handle (objKey k (h % 65536)) = h then some (objKey k (h % 65536), o) else none
  | none => none

/-- The first status that is not 0. -/
def firstStatus (l : List Nat) : Nat := (l.find? (· ≠ 0)).getD 0

/-- Timelines of WAIT_TL, SIG_TL and a KIND 2 condition: number and the status when it does not exist. -/
def cmdTimelines (c : Cmd) (v : Nat) : List (Nat × Nat) :=
  (if c.waitEn then [(c.waitTl, 1)] else []) ++ (if c.sigEn then [(c.sigTl, 1)] else []) ++
    (if c.opcode = 0x12 ∧ (launchCond c v).kind = 2 then [((launchCond c v).object.toNat, 8)] else [])

/-- R398, R399: the objects, kernels and timelines on which a command takes references, and the status that refuses it. -/
def State.cmdRefs (s : State) (v k : Nat) (admin : Bool) (c : Cmd) : Nat × Cmd :=
  let tls := cmdTimelines c v
  let tlStatus : Nat × Nat → Nat := fun x =>
    match (if x.1 < 65536 then s.host.timelines.find? (tlKey v x.1) else none) with
    | none => x.2
    | some t => if t.hostRef then 0 else 2
  let objs := if admin then [] else
    ((addressOperands c).filterMap (fun a => (s.objectAt k a).map (·.1)))
  let objStatus : Nat → Nat := fun ok => match s.host.objects.find? ok with
    | some o => if o.hostRef then 0 else 2
    | none => 1
  let refs := if admin then [] else s.launchRefs k c
  let refStatus : Nat → Nat := fun h => match s.objByHandle k h with
    | some x => if x.2.hostRef then 0 else 2
    | none => 1
  let kern := if !admin && c.opcode == 0x12 then [k * 65536 + c.arg 96 16] else []
  let kernStatus : Nat → Nat := fun kk => match s.host.kernels.find? kk with
    | some x => if x.hostRef then 0 else 2
    | none => 1
  let st := firstStatus (tls.map tlStatus ++ kern.map kernStatus ++ objs.map objStatus ++ refs.map refStatus)
  if st ≠ 0 then (st, c)
  else (0, { c with objs := (objs ++ refs.map (fun h => objKey k (h % 65536))).dedup, kernels := kern,
                    timelines := ((tls.map (fun x => tlKey v x.1))).dedup })

/-- R415: a full event ring lets no further command of its queues be submitted; admin queues are served from the end of
start-up on (R526). -/
def State.submitBlocked (s : State) (v q : Nat) (x : Queue) : Bool :=
  if q = adminQ then !s.boot.adminServed || !(s.host.adminHeld.get [] v).isEmpty || (s.host.adminEvent.get {} v).full
  else match s.ctx? (ctxKey v x.ctx) with
    | none => true
    | some c => c.destroyCookie.isSome || c.evt.full || !c.heldEvents.isEmpty

/-- The module has read `n` entries: the head count rises and is reported. -/
def State.advanceHead (s : State) (v q n : Nat) : State :=
  match s.queueAt v q with
  | none => s
  | some x =>
    let h := x.head + BitVec.ofNat 32 n
    let s := s.putQueue v q { x with head := h }
    if x.report = 0 then s else s.hostWrite x.report (leBytes 4 h.toNat)

/-- The conveyor program that will be in force behind the next boundary. -/
def Ctx.convNow (c : Ctx) : Option ConvProg :=
  match c.nextConv with
  | some p => some p
  | none => c.conv.filter (fun p => !p.unload)

def Ctx.retNow (c : Ctx) : Option RetProg :=
  match c.nextRet with
  | some p => some p
  | none => c.ret.filter (fun p => !p.unload)

/-- R341: the contexts that have a return program loaded. -/
def State.participantsNow (s : State) : List Nat :=
  (s.host.ctxs.filter (fun (x : Nat × Ctx) => x.2.retNow.isSome)).map (·.1)

/-- R341, R400: the first STEP_OPEN of a step fixes the participants as it is submitted. -/
def State.noteOpen (s : State) (q : Nat) (c : Cmd) : State :=
  if q = adminQ ∨ c.opcode ≠ 0x28 ∨ (s.steps.submitted.find? (c.arg 0 32)).isSome then s
  else { s with steps.submitted := s.steps.submitted.put (c.arg 0 32) s.participantsNow }

/-- The command as it enters: with its references, or refused with a status. -/
def State.enterCmd (s : State) (v q : Nat) (x : Queue) (c : Cmd) : State :=
  let r := s.cmdRefs v (ctxKey v x.ctx) (q == adminQ) c
  let c' : Cmd := if r.1 = 0 then r.2 else { c with stage := .executed, status := BitVec.ofNat 8 r.1 }
  let s := c'.objs.foldl State.takeObj s
  let s := c'.kernels.foldl State.takeKernel s
  let s := c'.timelines.foldl State.takeTl s
  match s.queueAt v q with
  | some y => s.putQueue v q { y with cmds := y.cmds ++ [c'] }
  | none => s

/-- COMMAND_SUBMIT: the module reads the next entry of a ring. -/
def execCommandSubmit (v : Fin 64) (q : Fin 16385) (s : State) : Out :=
  match s.queueAt v.val q.val with
  | none => .next s
  | some x =>
    let avail := (x.tail - x.head).toNat
    if avail = 0 || x.destroying.isSome || !s.hasVi v.val || s.submitBlocked v.val q.val x then .next s
    else
      let e := s.ringEntry x x.head.toNat
      let reason := entryReason v.val (q.val == adminQ) e
      let qn := if q.val = adminQ then noQueue else q.val
      if reason ≠ 0 then
        .next ((s.illegal v.val (fld e.toNat 320 32) qn (fld e.toNat 0 8) reason).advanceHead v.val q.val 1)
      else if e.getLsbD 19 && decide (avail < 2) then .next s
      else
        let g := if e.getLsbD 19 then some (s.ringEntry x (x.head.toNat + 1)) else none
        let c : Cmd := { n := x.head.toNat, entry := e, guard_ := g }
        .next (((s.noteOpen q.val c).enterCmd v.val q.val x c).advanceHead v.val q.val (if e.getLsbD 19 then 2 else 1))

/-! ### Start and completion -/

/-- The commands of the queue before one. -/
def earlier (q : Queue) (n : Nat) : List Cmd := q.cmds.takeWhile (fun c => c.n != n)

/-- The engine of a command: kernels, copies, the conveyor, steps and the Kilns, the fabric; none for the others. DESIGN
CHOICE: log entry 114. -/
def engineOf (opcode : Nat) : Option Nat :=
  if 0x10 ≤ opcode ∧ opcode ≤ 0x15 then some 0
  else if opcode = 0x16 ∨ opcode = 0x17 then some 1
  else if 0x20 ≤ opcode ∧ opcode ≤ 0x25 then some 2
  else if 0x28 ≤ opcode ∧ opcode ≤ 0x2F then some 3
  else if 0x30 ≤ opcode ∧ opcode ≤ 0x32 then some 4
  else none

/-- R404: a command of a queue of function `v` may start as far as its own queue and its timeline go. -/
def State.mayStart (s : State) (v : Nat) (q : Queue) (c : Cmd) : Bool :=
  let before := earlier q c.n
  let order := if c.flag 18 then before.isEmpty else before.all (fun x => x.stage != .submitted)
  let waited := !c.waitEn || (s.host.timelines.find? (tlKey v c.waitTl)).any (fun t => decide (c.waitValue ≤ t.value.toNat))
  c.stage == .submitted && order && waited

/-- R404: a queue of number `m` goes before queue `n` on an engine: by priority, else by whose turn it is. -/
def Queue.before (x y : Queue) (m n e : Nat) : Bool :=
  decide (y.priority < x.priority) || (x.priority == y.priority &&
    (decide (x.turns.get 0 e < y.turns.get 0 e) || (x.turns.get 0 e == y.turns.get 0 e && decide (m < n))))

/-- The queues of the context of a queue of function `v`. -/
def State.siblings (s : State) (v : Nat) (q : Queue) : Bank Queue :=
  s.host.queues.filter (fun x => x.1 / 16385 == v && x.1 % 16385 != adminQ && x.2.ctx == q.ctx)

/-- Another queue of the context competes for the engine of a command and goes before its queue. -/
def State.outranked (s : State) (r : CmdRef) (q : Queue) (c : Cmd) : Bool :=
  match engineOf c.opcode with
  | none => false
  | some e => (s.siblings r.v.val q).any (fun x => x.1 != queueKey r.v.val r.q.val && x.2.before q (x.1 % 16385) r.q.val e
      && x.2.cmds.any (fun y => engineOf y.opcode == some e && s.mayStart r.v.val x.2 y))

/-- The queue has had its turn on the engine of a command. -/
def State.takeTurn (s : State) (r : CmdRef) (q : Queue) (c : Cmd) : Queue :=
  match engineOf c.opcode with
  | none => q
  | some e =>
    let last := ((s.siblings r.v.val q).map (fun x => x.2.turns.get 0 e)).foldl max 0
    { q with turns := q.turns.set 0 e (last + 1) }

/-- COMMAND_START (R404); QREC is read and the start latches are taken (R500, R504). -/
def execCommandStart (r : CmdRef) (s : State) : Out :=
  match s.queueAt r.v.val r.q.val, s.cmd? r with
  | some q, some c =>
    if !s.mayStart r.v.val q c then .next s
    else if r.q.val = adminQ then .next (s.putCmd r { c with stage := .started })
    else if s.outranked r q c then .next s
    else
      let k := s.cmdCtx r
      .next ((s.putQueue r.v.val r.q.val (s.takeTurn r q c)).putCmd r
        { c with stage := .started, qrec := s.recordEnabled k 1, latch := s.latchQueue k })
  | _, _ => .next s

/-- Differences of two latch lists. -/
def latchDiff (a b : List Nat) : List Nat := (List.range a.length).map (fun i => a.getD i 0 - b.getD i 0)

/-- R500, R503: the record of a command of a context queue. -/
def State.queueRecord (s : State) (r : CmdRef) (c : Cmd) : State :=
  if !c.qrec then s
  else
    let k := s.cmdCtx r
    let e := s.latchQueue k
    let d := latchDiff e.pf c.latch.pf
    let dies := s.diesOf (ctxVi k)
    let most : Nat → Nat := fun o => (dies.map (fun i => d.getD (o + i) 0)).foldl max 0
    let events := (d.drop 24).take 14
    let sat := (events ++ c.sums.numeric).any (fun n => decide (0xFFFFFFFF < n))
    let payload := leBytes 384 (packFields (events.map (fun n => (32, sat32n n)) ++
      [(64, c.sums.macs), (64, c.sums.busy)] ++ c.sums.numeric.map (fun n => (32, sat32n n)) ++
      [(64, d.getD 38 0), (32, c.aborted)]))
    let step := if c.opcode = 0x12 then c.taskStep else (s.oldestLive k).map (·.step)
    s.writeRecord k (s.recordBytes c.latch
      { ctx := k, kind := 2, layer := c.layer, op := c.opId, cookie := c.cookie, opcode := c.opcode,
        queue := queueNumber r, cycles := most 0, stretch := most 8, stop := most 16,
        step := (step.getD 0xFFFFFFFF#32).toNat, spec := c.spec, sat := sat } payload)

/-- COMMAND_COMPLETE (R404): the record, the signal, the event with its interrupt, then the references go. -/
def execCommandComplete (r : CmdRef) (s : State) : Out :=
  match s.cmd? r with
  | none => .next s
  | some c =>
    if c.stage ≠ .executed then .next s
    else
      let v := r.v.val
      let s := if r.q.val = adminQ then s else s.queueRecord r c
      let s := if c.sigEn then s.signalTl v c.sigTl c.sigValue else s
      let ev := mkEvent c.cookie c.status.toNat (queueNumber r) 1 c.detail.toNat
      let s := if c.flag 15 || c.status ≠ 0 then
          (if r.q.val = adminQ then s.adminEvent v ev else s.event (s.cmdCtx r) ev) else s
      let s := (s.removeCmd r).dropRefs c
      .next ((s.settleQueue v r.q.val).settleAll)

/-! ### Commands of context queues -/

def execNopCommand (r : CmdRef) (s : State) : Out := runCmd 0 r (fun _ _ t => t.finish r 0 0) s

/-- The kernels of a context, and the lowest free kernel number. -/
def State.freeKernel (s : State) (k : Nat) : Option Nat :=
  (List.range 1024).find? (fun i => (s.host.kernels.find? (k * 65536 + i)).isNone)

/-- The fields of Table 12.12. -/
def imageKernel (h addr : Nat) : Kernel :=
  { nreg := fld h 463 9, scratchKib := fld h 451 12, shadowKib := fld h 441 10, accKib := fld h 431 10,
    streams := fld h 422 9, codeBytes := fld h 384 32, entry := fld h 320 64, code := addr + fld h 256 64, obj := 0 }

/-- R410: the first check of an image header that fails, 0 when none does. -/
def imageStatus (h : Nat) (layout : Word) (x : Kernel) : Nat :=
  if fld h 480 32 ≠ 0x494B5253 ∨ fld h 472 8 ≠ 1 then 0x10
  else if x.nreg = 0 ∨ 256 < x.nreg then 0x11
  else if scratchBytes layout < x.scratchKib * 1024 then 0x12
  else if fld layout.toNat 8 4 * 65536 < x.shadowKib * 1024 then 0x13
  else if 512 < x.accKib then 0x14
  else if 256 < x.streams then 0x15
  else 0

/-- The memory object that holds the code, if one holds all of it and ENTRY lies in it. -/
def State.codeObject (s : State) (k : Nat) (x : Kernel) : Option Nat :=
  if x.codeBytes = 0 ∨ 2 ^ 48 < x.code + x.codeBytes ∨ x.codeBytes ≤ x.entry then none
  else (s.oneObject k x.code x.codeBytes).map (·.1)

/-- KERNEL_LOAD (R410). -/
def execKernelLoad (r : CmdRef) (s : State) : Out :=
  runCmd 0x10 r (fun c k t =>
    let addr := c.arg 0 48
    if !t.inRange k addr 64 .load then t.finish r 5 0
    else
      let h := leNat (t.readVirt k addr 64)
      let x := imageKernel h addr
      let st := imageStatus h (t.layoutOf k) x
      if st ≠ 0 then t.finish r st 0
      else match t.codeObject k x with
        | none => t.finish r 0x16 0
        | some ok =>
          if !(t.host.objects.find? ok).any (·.hostRef) then t.finish r 2 0
          else match t.freeKernel k with
            | none => t.finish r 3 0
            | some n =>
              let t := t.takeObj ok
              let t := { t with host.kernels := t.host.kernels.put (k * 65536 + n) { x with obj := ok } }
              t.finish r 0 n) s

/-- KERNEL_UNLOAD (R398); a second one for the same kernel is an illegal sequence (R400). -/
def execKernelUnload (r : CmdRef) (s : State) : Out :=
  runCmd 0x11 r (fun c k t =>
    let kk := k * 65536 + c.arg 0 16
    match t.host.kernels.find? kk with
    | none => t.finish r 1 0
    | some x =>
      if x.hostRef then (t.settleKernel kk { x with hostRef := false }).finish r 0 0 else t.illegalCmd r 5) s

/-- R268, R408: what becomes of a launch's condition: refused, none, or a condition with its outcome so far. -/
inductive CondState where
  | refused
  | plain
  | cond (c : SpecCond) (outcome : Option Bool)

def State.condState (s : State) (c : Cmd) (v : Nat) : CondState :=
  let x := launchCond c v
  if c.arg 130 14 ≠ 0 ∧ x.kind ≠ 0 then .refused
  else if x.kind = 0 then (if c.arg 130 14 = 0 then .plain else .refused)
  else if x.kind = 3 then .refused
  else if x.kind = 2 then
    match s.host.timelines.find? (tlKey v x.object.toNat) with
    | some t => .cond x (if x.value.toNat ≤ t.value.toNat then some true else none)
    | none => .refused
  else
    let live := s.steps.open_.any (fun y => y.step == x.object) || s.steps.closed.any (fun y => y.step == x.object)
    if live then .cond x none
    else match s.steps.lastFinal with
      | some (st, result, _) =>
        if st ≠ x.object then .refused else if result = 1 then .plain else .cond x (some false)
      | none => .refused

/-- LAUNCH (R408). The command completes when its kernel does (R242). -/
def execLaunch (r : CmdRef) (s : State) : Out :=
  runCmd 0x12 r (fun c k t =>
    let groups := c.arg 64 32
    let args := c.arg 0 48
    match t.condState c (ctxVi k) with
    | .refused => t.finish r 8 0
    | st =>
      if groups = 0 ∨ args % 128 ≠ 0 ∨ !t.inRange k args 128 .load then t.finish r 5 0
      else
        let b := t.readVirt k args 64
        let l : Launch :=
          { ctx := k, kernel := k * 65536 + c.arg 96 16, groups := groups, lastLive := c.arg 48 5,
            args := (List.range 16).map (fun i => BitVec.ofNat 32 (leNat ((b.drop (4 * i)).take 4))),
            cond := match st with
              | .cond x _ => some x
              | _ => none,
            outcome := match st with
              | .cond _ o => o
              | _ => none,
            stopped := match st with
              | .cond _ (some false) => true
              | _ => false,
            cmd := r, cookie := BitVec.ofNat 32 c.cookie, layer := BitVec.ofNat 16 c.layer, op := BitVec.ofNat 16 c.opId,
            queue := r.q.val }
        let t := { t with host.launches := t.host.launches.put t.host.nextLaunch l, host.nextLaunch := t.host.nextLaunch + 1 }
        t.keepBusy r) s

/-- KERNEL_ABORT (R243): it completes when every running launch of the kernel has completed. -/
def execKernelAbort (r : CmdRef) (s : State) : Out :=
  runCmd 0x13 r (fun c k t =>
    let kk := k * 65536 + c.arg 0 16
    if (t.host.kernels.find? kk).isNone then t.finish r 1 0
    else
      let ids := (t.host.launches.filter (fun x => x.2.kernel == kk)).map (·.1)
      if ids.isEmpty then t.finish r 0 0
      else
        let join : State → Nat → State := fun u id => match u.launch? id with
          | some l => { u with host.launches := u.host.launches.put id { l with aborters := l.aborters ++ [r] } }
          | none => u
        ((ids.foldl State.abortLaunch t |> ids.foldl join).keepBusy r)) s

/-- COPY (R407): device addresses of the context. -/
def execCopy (r : CmdRef) (s : State) : Out :=
  runCmd 0x16 r (fun c k t =>
    let n := c.arg 128 32
    if t.inRange k (c.arg 0 48) n .load && t.inRange k (c.arg 64 48) n .store then
      (((t.readRange k (c.arg 0 48) n).storeRange k (c.arg 64 48) (t.readVirt k (c.arg 0 48) n))).finish r 0 0
    else t.finish r 5 0) s

/-- `n` bytes of a 32-bit pattern repeated. -/
def patternBytes (p n : Nat) : Bytes := (List.range n).map (fun i => BitVec.ofNat 8 (p >>> (8 * (i % 4))))

/-- FILL (R407). -/
def execFill (r : CmdRef) (s : State) : Out :=
  runCmd 0x17 r (fun c k t =>
    let n := c.arg 64 32
    if t.inRange k (c.arg 0 48) n .store then
      (t.storeRange k (c.arg 0 48) (patternBytes (c.arg 128 32) n)).finish r 0 0
    else t.finish r 5 0) s

/-- MAP_SYNC (R397). DESIGN CHOICE: loads and stores translate at each access, so that what it drops is the code that the
context's cores hold, translated before (log entry 27). -/
def execMapSync (r : CmdRef) (s : State) : Out :=
  runCmd 0x18 r (fun c k t =>
    let hit : Nat → Bool := fun i => i / 2 ^ 40 == k && (c.arg 64 48 == 0 || (decide (c.arg 0 48 < (i % 2 ^ 40 + 1) * 256)
      && decide (i % 2 ^ 40 * 256 < c.arg 0 48 + c.arg 64 48)))
    ({ t with cores := t.cores.map (fun x => (x.1, { x.2 with l0i := x.2.l0i.filter (fun i => !hit i) })) } : State).finish r 0 0) s

end Sys2Proof.Machine
end

