-- ==== Sys2Proof/Machine/HostObjects.lean ====
section
/-!
DEFINITION. The objects of the host interface: contexts (R401, R411), queues (R402, R407), timelines (R412), layout
words (R410), memory objects (R394, R399), and function-level resets (R389).
-/

namespace Sys2Proof.Machine

/-! ### Fast-tier pages -/

/-- The places that live objects hold: first byte and bytes. -/
def State.usedPages (s : State) : List (Nat × Nat) :=
  s.host.objects.flatMap (fun x => if x.2.fast then x.2.pages.map (fun p => (p, x.2.pageBytes)) else [])

/-- The first `n` free pages of a size from `base`, in ascending order. -/
def pickPages (used : List (Nat × Nat)) (size limit : Nat) : Nat → Nat → Nat → List Nat
  | 0, _, _ => []
  | fuel + 1, base, n =>
    if n = 0 ∨ limit < base + size then []
    else if used.any (fun u => decide (u.1 < base + size) && decide (base < u.1 + u.2)) then
      pickPages used size limit fuel (base + size) n
    else base :: pickPages used size limit fuel (base + size) (n - 1)

/-- The range of a kind: the interleaved range, or the stack-local range of a stack (Table 9.4). -/
def State.kindRange (s : State) (kind stack : Nat) : Nat × Nat :=
  if kind = 0 then (0, 992 * (1024 - s.obj 0x40010 0) * 1048576)
  else (2 ^ 40 + stack * 2 ^ 36, 2 ^ 40 + stack * 2 ^ 36 + 62 * s.obj 0x40010 0 * 1048576)

/-- `n` free pages, if there are so many. -/
def State.allocPages (s : State) (kind stack n : Nat) (big : Bool) : Option (List Nat) :=
  let size := if big then 2097152 else 65536
  let r := s.kindRange kind stack
  let l := pickPages s.usedPages size r.2 ((r.2 - r.1) / size + 1) r.1 n
  if l.length = n then some l else none

/-- Bytes of fast tier that the objects of a virtual interface hold. -/
def State.fastHeld (s : State) (v : Nat) : Nat :=
  sumNat (s.host.objects.map (fun x => if x.2.fast && x.1 / 65536 / 4096 == v then x.2.bytes else 0))

/-- The index of a new object: the lowest that no context of the virtual interface uses, else the lowest that its own
context does not use. -/
def State.freeIndex (s : State) (k : Nat) : Option Nat :=
  let taken : Nat → Bool := fun i => s.host.objects.any (fun x => x.1 % 65536 == i && ctxVi (x.1 / 65536) == ctxVi k)
  let own : Nat → Bool := fun i => (s.host.objects.find? (objKey k i)).isSome
  ((List.range 65536).find? (fun i => i ≠ 0 && !taken i)).or ((List.range 65536).find? (fun i => i ≠ 0 && !own i))

/-- Create a fast-tier object of context `k`: a status, or its key and the new state. -/
def State.newFast (s : State) (k kind stack n : Nat) (big : Bool) (gen : BitVec 8) (i : Nat) : Except Nat State :=
  let bytes := (if big then 2097152 else 65536) * n
  if s.obj 0x60011 (ctxVi k) < s.fastHeld (ctxVi k) + bytes then .error 4
  else match s.allocPages kind stack n big with
    | none => .error 4
    | some pages =>
      let o : MemObj := { kind := kind, stack := stack, big := big, gen := gen, pages := pages }
      let s := s.clearPages pages o.pageBytes
      .ok { s with host.objects := s.host.objects.put (objKey k i) o }

/-! ### Contexts -/

/-- R410: fields outside Table 9.2. -/
def badLayout (w : Nat) : Bool := 8 < fld w 8 4 || 8 < fld w 4 4

/-- Contexts of a virtual interface, and of the module. -/
def State.ctxCount (s : State) (v : Nat) : Nat := (s.host.ctxs.filter (fun x => ctxVi x.1 == v)).length

/-- The status of a create block (Table 12.13, Table 12.11), 0 when it is sound. -/
def State.createStatus (s : State) (v b : Nat) : Nat :=
  let sizes := [fld b 300 4, fld b 296 4, fld b 292 4]
  let bases := [fld b 448 64, fld b 384 64, fld b 320 64]
  let pt := fld b 272 8
  if sizes.any (fun x => decide (8 < x)) || bases.any (fun x => x % 4096 != 0)
      || decide (fld (s.obj 0x60012 v) 0 12 ≤ fld b 280 12) then 6
  else if badLayout (fld b 224 32) then 7
  else if pt = 0 ∨ 128 < pt then 5
  else if s.obj 0x60013 v ≤ s.ctxCount v ∨ 4096 ≤ s.host.ctxs.length ∨ 1048576 ≤ s.host.objects.length then 3
  else 0

/-- A context as its create block gives it. -/
def ctxOfBlock (b pt : Nat) : Ctx :=
  { layout := BitVec.ofNat 32 (16 * fld b 228 8), pt := pt,
    evt := { base := fld b 448 64, size := 256 * 2 ^ fld b 300 4 },
    flt := { base := fld b 384 64, size := 16 * 2 ^ fld b 296 4 },
    ntc := { base := fld b 320 64, size := 16 * 2 ^ fld b 292 4 }, vector := fld b 280 12 }

/-- The lowest free context number of function `v`. -/
def State.freeCtx (s : State) (v : Nat) : Option Nat :=
  (List.range 4096).find? (fun x => (s.ctx? (ctxKey v x)).isNone)

/-- Context `k`, number `x` of its function, made from block `b`, with its object at index `i`. -/
def State.placeCtx (s : State) (r : CmdRef) (b k x i : Nat) : State :=
  match s.newFast k 0 0 (fld b 272 8) true 0 i with
  | .error e => s.finish r e 0
  | .ok u => (((u.takeObj (objKey k i)).forgetCtx k).putCtx k (ctxOfBlock b (objKey k i))).finish r 0 (x + 4096 * i)

/-- CONTEXT_CREATE (R411): the page-table object is made of PT_2M pages of 2 MiB. -/
def execContextCreate (r : CmdRef) (s : State) : Out :=
  runCmd 0x80 r (fun c _ t =>
    let v := r.v.val
    let b := leNat (memRead t.mem.host (c.arg 0 48) 64)
    let st := t.createStatus v b
    if st ≠ 0 then t.finish r st 0
    else match t.freeCtx v with
      | none => t.finish r 3 0
      | some x => match t.freeIndex (ctxKey v x) with
        | none => t.finish r 3 0
        | some i => t.placeCtx r b (ctxKey v x) x i) s

/-- R364: a window is closed: its references go. -/
def State.closeWindow (s : State) (w : Nat) : State :=
  match s.fab.windows.find? w with
  | some x => x.objs.foldl State.dropObj { s with fab.windows := s.fab.windows.erase w }
  | none => s

/-- A window closes with its context; a REGION_CLOSE that waited for it completes. -/
def State.endWindow (s : State) (w : Nat) : State :=
  match (s.fab.windows.find? w).bind (·.closing) with
  | some r => (s.closeWindow w).finish r 0 0
  | none => s.closeWindow w

/-- R401 step 1: entries of the context's queues that are not submitted are dropped. -/
def State.dropEntries (s : State) (k : Nat) : State :=
  let f : Nat × Queue → Nat × Queue := fun x =>
    if x.1 / 16385 == ctxVi k && x.2.ctx == k % 4096 && x.1 % 16385 != adminQ then (x.1, { x.2 with head := x.2.tail }) else x
  { s with host.queues := s.host.queues.map f }

/-- R401 step 2: kernels are aborted, speculative tasks of both kinds discarded. -/
def State.stopTasks (s : State) (k : Nat) : State :=
  let ids := (s.host.launches.filter (fun x => x.2.ctx == k)).map (·.1)
  let stop : State → Nat → State := fun t id => match t.launch? id with
    | some l => if l.cond.isSome && l.outcome.isNone then t.discardLaunch id else t.abortLaunch id
    | none => t
  let s := ids.foldl stop s
  let cls := (s.clusters.filter (fun x => x.2.ctx == some k && x.2.cond.isSome && !x.2.merging)).map (·.1)
  cls.foldl State.discardCluster s

/-- R401 step 3: the programs are unloaded at the next revolution boundary. -/
def Ctx.unloadAll (c : Ctx) : Ctx :=
  { c with conv := c.conv.map (fun p => { p with unload := true }), nextConv := c.nextConv.map (fun p => { p with unload := true }),
           ret := c.ret.map (fun p => { p with unload := true }), nextRet := c.nextRet.map (fun p => { p with unload := true }),
           upd := c.upd.map (fun p => { p with unload := true }), nextUpd := c.nextUpd.map (fun p => { p with unload := true }) }

/-- R401 in its order; the cookie is that of the CONTEXT_RELEASE event. -/
def State.destroyCtx (s : State) (k : Nat) (cookie : BitVec 32) : State :=
  let s := s.onCtx k (fun c => { c with destroyCookie := some cookie, hostRef := false })
  let s := (s.dropEntries k).stopTasks k
  let ws := (s.fab.windows.filter (fun x => x.2.ctx == k)).map (·.1)
  let s := (ws.foldl State.endWindow s).onCtx k Ctx.unloadAll
  let s := ((s.host.kernels.filter (fun x => x.1 / 65536 == k)).map (·.1)).foldl (fun t kk =>
    match t.host.kernels.find? kk with
    | some x => t.settleKernel kk { x with hostRef := false }
    | none => t) s
  let s := ((s.host.objects.filter (fun x => x.1 / 65536 == k)).map (·.1)).foldl State.dropObjHost s
  s.settleCtx k

/-- CONTEXT_DESTROY (R401); a second one for the same context is an illegal sequence. -/
def execContextDestroy (r : CmdRef) (s : State) : Out :=
  runCmd 0x81 r (fun c _ t =>
    let k := ctxKey r.v.val (c.arg 0 12)
    match t.ctx? k with
    | none => t.finish r 1 0
    | some x =>
      if x.destroyCookie.isSome then t.illegalCmd r 5
      else (t.destroyCtx k (BitVec.ofNat 32 c.cookie)).finish r 0 0) s

/-- A live context that an admin command names: its key, or the status of the command (R393, R399). -/
def State.liveCtx (s : State) (v x : Nat) : Except Nat Ctx :=
  match s.ctx? (ctxKey v x) with
  | none => .error 1
  | some c => if c.destroyCookie.isSome then .error 2 else .ok c

/-! ### Queues and timelines -/

/-- Queues of a virtual interface, without its admin queue. -/
def State.queueCount (s : State) (v : Nat) : Nat :=
  (s.host.queues.filter (fun x => x.1 / 16385 == v && x.1 % 16385 != adminQ)).length

/-- Queues of the module without the admin queues (Table 12.4). -/
def State.queueTotal (s : State) : Nat := (s.host.queues.filter (fun x => x.1 % 16385 != adminQ)).length

/-- QUEUE_CREATE (R402). -/
def execQueueCreate (r : CmdRef) (s : State) : Out :=
  runCmd 0x82 r (fun c _ t =>
    let v := r.v.val
    match t.liveCtx v (c.arg 0 12) with
    | .error e => t.finish r e 0
    | .ok _ =>
      if 10 < c.arg 12 4 ∨ c.arg 64 48 % 4096 ≠ 0 then t.finish r 6 0
      else if t.obj 0x60014 v ≤ t.queueCount v ∨ 16384 ≤ t.queueTotal then t.finish r 3 0
      else match (List.range 16384).find? (fun q => (t.host.queues.find? (queueKey v q)).isNone) with
        | none => t.finish r 3 0
        | some q =>
          let x : Queue := { ctx := c.arg 0 12, z := c.arg 12 4, priority := c.arg 16 4, ring := c.arg 64 48,
                             report := c.arg 128 48 }
          (t.putQueue v q x).finish r 0 q) s

/-- QUEUE_DESTROY (R407). -/
def execQueueDestroy (r : CmdRef) (s : State) : Out :=
  runCmd 0x83 r (fun c _ t =>
    let v := r.v.val
    let q := c.arg 0 14
    match t.host.queues.find? (queueKey v q) with
    | none => t.finish r 1 0
    | some x =>
      if x.destroying.isSome then t.illegalCmd r 5
      else ((t.putQueue v q { x with head := x.tail, destroying := some r }).keepBusy r).settleQueue v q) s

/-- TIMELINE_CREATE (R412). -/
def execTimelineCreate (r : CmdRef) (s : State) : Out :=
  runCmd 0x84 r (fun c _ t =>
    let v := r.v.val
    let mine := (t.host.timelines.filter (fun x => x.1 / 65536 == v)).length
    if t.obj 0x60015 v ≤ mine ∨ 65536 ≤ t.host.timelines.length then t.finish r 3 0
    else match (List.range 65536).find? (fun i => (t.host.timelines.find? (tlKey v i)).isNone) with
      | none => t.finish r 3 0
      | some i =>
        let x : Timeline := { value := BitVec.ofNat 64 (c.arg 64 64) }
        ({ t with host.timelines := t.host.timelines.put (tlKey v i) x } : State).finish r 0 i) s

/-- TIMELINE_DESTROY (R412): the host reference is dropped. -/
def execTimelineDestroy (r : CmdRef) (s : State) : Out :=
  runCmd 0x85 r (fun c _ t =>
    let tk := tlKey r.v.val (c.arg 0 16)
    match t.host.timelines.find? tk with
    | none => t.finish r 1 0
    | some x => if x.hostRef then (t.settleTl tk { x with hostRef := false }).finish r 0 0 else t.illegalCmd r 5) s

/-- SET_LAYOUT (R410). -/
def execSetLayout (r : CmdRef) (s : State) : Out :=
  runCmd 0x86 r (fun c _ t =>
    let k := ctxKey r.v.val (c.arg 0 12)
    match t.liveCtx r.v.val (c.arg 0 12) with
    | .error e => t.finish r e 0
    | .ok x =>
      let w := 16 * c.arg 36 8
      if badLayout w || (x.layout.toNat != w && t.host.kernels.any (fun y => y.1 / 65536 == k)) then t.finish r 7 0
      else (t.putCtx k { x with layout := BitVec.ofNat 32 w }).finish r 0 0) s

/-! ### Memory objects -/

/-- The host pages of a list of `n` addresses. -/
def State.hostPages (s : State) (a n : Nat) : List Nat :=
  (List.range n).map (fun i => leNat (memRead s.mem.host (a + 8 * i) 8))

/-- MEM_CREATE (R394). -/
def execMemCreate (r : CmdRef) (s : State) : Out :=
  runCmd 0x87 r (fun c _ t =>
    let v := r.v.val
    let k := ctxKey v (c.arg 0 12)
    match t.liveCtx v (c.arg 0 12) with
    | .error e => t.finish r e 0
    | .ok x =>
      let kind := c.arg 12 2
      let big := c.arg 18 1 = 1
      let n := c.arg 20 20
      if n = 0 then t.finish r 5 0
      else if 1048576 ≤ t.host.objects.length then t.finish r 3 0
      else match t.freeIndex k with
        | none => t.finish r 3 0
        | some i =>
          let gen := x.objGen.get 0 i
          let h := gen.toNat * 65536 + i
          if kind < 2 then
            match t.newFast k kind (c.arg 14 4) n big gen i with
            | .error e => t.finish r e 0
            | .ok u => u.finish r 0 h
          else
            let pages := t.hostPages (c.arg 64 48) n
            let o : MemObj := { kind := kind, big := big, gen := gen, pages := pages }
            if pages.any (fun p => p % o.pageBytes != 0) then t.finish r 5 0
            else ({ t with host.objects := t.host.objects.put (objKey k i) o } : State).finish r 0 h) s

/-- The object of a virtual interface with a handle: one with its host reference before one without. -/
def State.objOfVi (s : State) (v h : Nat) : Option (Nat × MemObj) :=
  let is : Nat × MemObj → Bool := fun x => ctxVi (x.1 / 65536) == v && x.2.handle x.1 == h
  (s.host.objects.filter (fun x => is x && x.2.hostRef)).head?.or ((s.host.objects.filter is).head?)

/-- An object of a virtual interface that had this handle has been released: its index has a later generation since (R399). -/
def State.wasFreed (s : State) (v h : Nat) : Bool :=
  s.host.ctxs.any (fun x => ctxVi x.1 == v && decide (h / 65536 < (x.2.objGen.get 0 (h % 65536)).toNat))

/-- MEM_FREE (R399); a second FREE of the same handle is an illegal sequence (R400). -/
def execMemFree (r : CmdRef) (s : State) : Out :=
  runCmd 0x88 r (fun c _ t =>
    match t.objOfVi r.v.val (c.arg 0 32) with
    | none => if t.wasFreed r.v.val (c.arg 0 32) then t.illegalCmd r 5 else t.finish r 1 0
    | some (ok, o) =>
      if !o.hostRef then t.illegalCmd r 5
      else
        let o := { o with freeCookie := some (BitVec.ofNat 32 c.cookie) }
        (({ t with host.objects := t.host.objects.put ok o } : State).dropObjHost ok).finish r 0 0) s

/-! ### Resets (R389) -/

/-- Masters that an end of a channel names (R416). -/
def State.mailEnd (s : State) (ch : Nat) (b : Bool) : Nat := fld (s.obj 0x60020 0) (16 * ch + (if b then 8 else 0)) 8

/-- MBX_MODE: stamped above 16 enabled virtual interfaces (R419). -/
def State.mailStamped (s : State) : Bool := 16 < s.viEnabled

/-- The direction that a master reads, function 0 to 63 or the Maltster: end A reads B-to-A (1), end B reads A-to-B (0). -/
def State.mailReads (s : State) (master ch : Nat) : Option Nat :=
  if 0x40 < master then none
  else if s.mailEnd ch false = master then some 1 else if s.mailEnd ch true = master then some 0 else none

/-- The direction that a master posts into; none is NOT_BOUND. -/
def State.mailPosts (s : State) (master ch : Nat) : Option Nat :=
  if 0x40 < master then none
  else if s.mailEnd ch false = master then some 0
  else if s.mailStamped || s.mailEnd ch true = master then some 1 else none

/-- The mailbox queues that a function reads are emptied (R420). -/
def State.clearMail (s : State) (v : Nat) : State :=
  let reads : Nat → Bool := fun key => if key % 2 = 1 then s.mailEnd (key / 2) false == v else s.mailEnd (key / 2) true == v
  { s with host.mail := s.host.mail.filter (fun x => !reads x.1) }

/-- The admin queue, the admin event ring and the BAR registers of a function as they are at reset: the admin queue's commands
are gone with their references, and the function's timelines read 0 (log entry 49). -/
def State.resetBar (s : State) (v : Nat) : State :=
  let s := ((s.host.queues.find? (queueKey v adminQ)).elim [] (fun q => q.cmds)).foldl State.dropRefs s
  let s := { s with host.timelines := s.host.timelines.map (fun (x : Nat × Timeline) => if x.1 / 65536 = v then (x.1, { x.2 with value := 0 }) else x) }
  let s := { s with host.queues := s.host.queues.erase (queueKey v adminQ), host.adminRing := s.host.adminRing.erase v,
                    host.adminEvent := s.host.adminEvent.erase v }
  { s with host.adminVector := s.host.adminVector.erase v, host.adminHeld := s.host.adminHeld.erase v,
           host.mailPending := s.host.mailPending.filter (fun x => x.1 ≠ v),
           host.txOverflow := s.host.txOverflow.filter (fun x => x.2 ≠ v),
           host.rxUnderflow := s.host.rxUnderflow.filter (fun x => x.2 ≠ v) }

/-- Every context that `p` selects is destroyed. -/
def State.destroyWhere (s : State) (p : Nat → Bool) : State :=
  ((s.host.ctxs.filter (fun x => p x.1 && x.2.destroyCookie.isNone)).map (·.1)).foldl (fun t k => t.destroyCtx k 0) s

/-- FUNCTION_LEVEL_RESET (R389): of the physical function it clears VF Enable and destroys every context. -/
def execFunctionLevelReset (v : Fin 64) (s : State) : Out :=
  if v.val = 0 then
    let s := ({ s with host.numVfs := 0 } : State).destroyWhere (fun _ => true)
    .next ((List.range 64).foldl State.resetBar (s.clearMail 0))
  else .next (((s.destroyWhere (fun k => ctxVi k == v.val)).clearMail v.val).resetBar v.val)

/-- VF_ENABLE (R390, R419); the recovery loader presents no virtual functions (R528). -/
def execVfEnable (on : Bool) (numVfs : Fin 64) (s : State) : Out :=
  .next (if s.barOpen then { s with host.numVfs := if on then numVfs.val else 0 } else s)

end Sys2Proof.Machine
end

