-- ==== Sys2Proof/Machine/Latches.lean ====
section
/-!
DEFINITION. Stations and the latches of weight cells (R72 to R82, R144, R148): the claims of an entry in cores, misses,
retries and losses, and the commands STATION_CLAIM, STATION_CAPTURE and LATCH_COPY_DONE.
-/

namespace Sys2Proof.Machine

/-! ### Places on the ring (R48, R97, R98) -/

def stationPos (st : Nat) : Nat := 10 * st + 5
def injectorPos (j : Nat) : Nat := 80 * j + 2
def gradInjectorPos (k : Nat) : Nat := 160 * k + 158

/-- The conveyor moves. -/
def State.moving (s : State) : Bool := s.conv.state == .running || s.conv.state == .noticed

/-- The numbers from 2 up to `p` that `taken` does not hold, `n` of them. -/
def takeSlots (p n : Nat) (taken : List Nat) : List Nat :=
  (((List.range (p - 2)).map (2 + ·)).filter (fun i => !taken.contains i)).take n

/-- The slots of allocation `v`, and of the shared range under 64. DESIGN CHOICE: as long as no write has laid them out
otherwise, the shared range comes first, then the virtual interfaces in ascending order (log entry 51). -/
def State.slotsFor (s : State) (v : Nat) : List Nat :=
  match s.conv.alloc.find? v with
  | some l => l
  | none =>
    if v = 64 then (List.range (s.obj 0x30011 0)).map (2 + ·)
    else
      let first := 2 + s.obj 0x30011 0 + sumNat ((List.range v).map (fun u => s.obj 0x30010 u))
      (List.range (s.obj 0x30010 v)).map (first + ·)

/-- An allocation takes `n` slots; every other one keeps the slots that it has (R97). -/
def State.layoutSlots (s : State) (v n : Nat) : State :=
  let others := ((List.range 65).filter (· != v)).map (fun u => (u, s.slotsFor u))
  let mine := takeSlots s.conv.span.slots n (others.flatMap (·.2))
  { s with conv.alloc := Bank.put (others.filter (fun x => !x.2.isEmpty)) v mine }

/-- Slots that all allocations take together. -/
def State.slotsTaken (s : State) : Nat :=
  2 + s.obj 0x30011 0 + sumNat ((List.range 64).map (fun u => s.obj 0x30010 u))

/-- The wort slots of a virtual interface (R113); as long as no write has laid them out otherwise, the virtual interfaces
come in ascending order (log entry 51). -/
def State.wortFor (s : State) (v : Nat) : List Nat :=
  match s.wort.alloc.find? v with
  | some l => l
  | none =>
    let first := 2 + sumNat ((List.range v).map (fun u => s.obj 0x30013 u))
    (List.range (s.obj 0x30013 v)).map (first + ·)

/-- A wort allocation takes `n` slots; every other one keeps the slots that it has (R97, R113). -/
def State.layoutWort (s : State) (v n : Nat) : State :=
  let others := ((List.range 64).filter (· != v)).map (fun u => (u, s.wortFor u))
  let mine := takeSlots s.conv.span.slots n (others.flatMap (·.2))
  { s with wort.alloc := Bank.put (others.filter (fun x => !x.2.isEmpty)) v mine }

/-- Wort slots that all allocations take together. -/
def State.wortTaken (s : State) : Nat := 2 + sumNat ((List.range 64).map (fun u => s.obj 0x30013 u))

/-- The physical slot that an entry names (R66, R98). -/
def State.phys (s : State) (p : ConvProg) (shared : Bool) (slot : Nat) : Option Nat :=
  if shared then (s.slotsFor 64)[slot]? else p.map[slot]?

def State.station (s : State) (st : Nat) : Station := s.conv.stn.get {} st
def State.putStation (s : State) (st : Nat) (x : Station) : State := { s with conv.stn := s.conv.stn.put st x }
def State.gristSlot (s : State) (n : Nat) : Slot := s.conv.slots.get {} n
def State.putGrist (s : State) (n : Nat) (x : Slot) : State := { s with conv.slots := s.conv.slots.set {} n x }

/-- A slot whose bits changed on the way fails its CRC from then on. -/
def State.spoilGrist (s : State) (n : Nat) (crcFail : Bool) : State :=
  if crcFail then s.putGrist n { s.gristSlot n with bad := true } else s

def bitsOf (b : BitVec 8) : List Nat := (List.range 8).filter (fun i => b.getLsbD i)
def maskOf8 (l : List Nat) : BitVec 8 := l.foldl (fun a i => a ||| (1#8 <<< i)) 0

/-- The loaded conveyor program of a context. -/
def State.convOf (s : State) (k : Nat) : Option ConvProg := (s.ctx? k).bind (·.conv)

def State.staEntry (s : State) (k n : Nat) : Option StaEntry := (s.convOf k).bind (fun p => p.sta[n]?)

/-! ### Buffers of a core -/

def coresOf (e : StaEntry) : List Nat := (List.range 4).filter (fun n => e.cores.getLsbD n)

/-- The tag of the buffer that an entry fills: the tile itself, or the weight tile that a scale entry serves. -/
def StaEntry.tag (e : StaEntry) : BitVec 32 := if e.kind = 1 then e.scTile else e.tileId

/-- The buffers of a core that satisfy `p`, in the order of their claims. -/
def Core.cellsWhere (c : Core) (p : WeightCell → Bool) : List Nat :=
  let l := [0, 1].filter (fun i => p (c.cell i))
  if c.cell1.claim < c.cell0.claim then l.reverse else l

/-- A buffer that carries the entry's tag and can take its claim: for a scale entry one claimed for the tile, for a tile
entry one that only a scale entry has claimed. -/
def Core.joinCell (c : Core) (e : StaEntry) : Option Nat :=
  (c.cellsWhere (fun x => x.state == .claimed && !x.local_ && x.tileId == e.tag
    && (if e.kind = 1 then x.needScale && !x.scaleClaim else x.uses == 0))).head?

/-- R73: the claim of one core, the buffer that it takes, and the number that the buffer carries. -/
def Core.claimFor (c : Core) (e : StaEntry) (needScale : Bool) : Option (Core × Nat × Nat) :=
  match c.joinCell e with
  | some i =>
    let x := c.cell i
    some (c.setCell i (if e.kind = 1 then { x with scaleClaim := true } else { x with uses := e.uses }), i, x.claim)
  | none =>
    match c.freeCell with
    | none => none
    | some i =>
      let x : WeightCell := { state := .claimed, tileId := e.tag, uses := if e.kind = 1 then 0 else e.uses,
                              claim := c.claims, needScale := needScale || e.kind == 1, scaleClaim := e.kind == 1 }
      some ({ c.setCell i x with claims := c.claims + 1 }, i, c.claims)

/-- The claim of a buffer is released; a buffer that another entry claims too stays claimed. -/
def Core.dropClaim (c : Core) (e : StaEntry) (i : Nat) : Core :=
  let x := c.cell i
  if e.kind = 1 then c.setCell i (if x.uses = 0 then {} else { x with scaleClaim := false })
  else c.setCell i (if x.scaleClaim then { x with uses := 0 } else {})

/-- R148: an entry of the lost-tile list, the oldest of eight leaving. -/
def Core.enterLost (c : Core) (x : LostTile) : Core :=
  let l := c.lost ++ [x]
  { c with lost := if 8 < l.length then l.tail else l }

/-- R78, R148: the latch of a claimed buffer is lost: the buffer becomes free and is listed. -/
def Core.loseCell (c : Core) (e : StaEntry) (i : Nat) : Core :=
  let x := c.cell i
  (c.setCell i {}).enterLost ⟨e.tag, if x.uses = 0 then e.uses else x.uses, x.claim⟩

/-- R78, R148: a latch without a claimed buffer is lost: the entry's tile and uses are listed. -/
def Core.loseEntry (c : Core) (e : StaEntry) : Core :=
  { c.enterLost ⟨e.tag, e.uses, c.claims⟩ with claims := c.claims + 1 }

/-- Change every named core of a cluster. -/
def State.onCores (s : State) (cl : Nat) (e : StaEntry) (f : Core → Core) : State :=
  (coresOf e).foldl (fun t n => t.putCore (cl * 4 + n) (f (t.core (cl * 4 + n)))) s

/-- R73: one free buffer of every named core of a cluster, or none at all; the buffers by core. -/
def State.claimCluster (s : State) (cl : Nat) (e : StaEntry) (needScale : Bool) : Option (State × List (Nat × Nat × Nat)) :=
  (coresOf e).foldl (fun a n => a.bind (fun x =>
    ((x.1.core (cl * 4 + n)).claimFor e needScale).map (fun y => (x.1.putCore (cl * 4 + n) y.1, x.2 ++ [(n, y.2)]))))
    (some (s, []))

/-- A tile has block scales when the program has a scale entry that serves it in that cluster. -/
def ConvProg.hasScales (p : ConvProg) (e : StaEntry) (i : Nat) : Bool :=
  p.sta.any (fun x => x.kind == 1 && x.scTile == e.tileId && x.lstation == e.lstation && x.clusters.getLsbD i
    && (x.cores &&& e.cores) != 0)

/-! ### Claims and their copies (R75, R76, R552) -/

/-- A claimed buffer of a core still carries the number of a claim: it has not been lost with another entry's claim. -/
def Core.claims_ (c : Core) (i number : Nat) : Bool := (c.cell i).state == .claimed && (c.cell i).claim == number

/-- Change the buffers that a claim still holds in some clusters of its station. DESIGN CHOICE: a buffer that a tile entry
and a scale entry share is lost as a whole with the first of their two claims; the other one then holds it no more, its copy
writes nothing there, and its own loss is not listed a second time (log entry 121). -/
def State.onCells (s : State) (st : Nat) (c : Claim) (l : List Nat) (f : Core → Nat → Core) : State :=
  (c.cells.filter (fun x => l.contains x.1)).foldl (fun t x => match (t.stationClusters st)[x.1]? with
    | some cl =>
      let core := t.core (cl * 4 + x.2.1)
      if core.claims_ x.2.2.1 x.2.2.2 then t.putCore (cl * 4 + x.2.1) (f core x.2.2.1) else t
    | none => t) s

/-- The claims of some clusters are released (R75). -/
def State.releaseCells (s : State) (st : Nat) (c : Claim) (l : List Nat) : State :=
  s.onCells st c l (fun x i => x.dropClaim c.e i)

/-- The buffers that a claim holds in some clusters are lost (R78). -/
def State.loseCells (s : State) (st : Nat) (c : Claim) (l : List Nat) : State :=
  s.onCells st c l (fun x i => x.loseCell c.e i)

/-- The moment of a station in cycles of its die. -/
def State.stationCycle (s : State) (st : Nat) : Nat := s.dieCycles (st / 16)

/-- A matching slot raises one copy request per cluster at the latch arbiter, 64 beats each (R75, Table 2.2). -/
def State.raiseCopies (s : State) (st : Nat) (c : Claim) (l : List Nat) : State :=
  let t := s.stationCycle st
  s.onArb .stationLatch st (t - 1) (fun x => l.foldl (fun y i => y.enqueue ⟨i, t, 64, c.id⟩) x)

/-- A request leaves a queue without a grant (R552). -/
def Arb.withdraw (x : Arb) (req tag t : Nat) : Arb :=
  let other : Head → Bool := fun h => !(h.req == req && h.tag == tag)
  if x.heads.any (fun h => !other h) then ({ x with heads := x.heads.filter other } : Arb).promote req t
  else { x with queued := x.queued.filter other }

/-- The requests of a claim for some clusters are withdrawn. -/
def State.withdrawCopies (s : State) (st : Nat) (c : Claim) (l : List Nat) : State :=
  let t := s.stationCycle st
  s.onArb .stationLatch st t (fun x => l.foldl (fun y i => y.withdraw i c.id t) x)

/-- The clusters of a claim whose copies have been granted. -/
def State.grantedCopies (s : State) (st : Nat) (c : Claim) : List Nat :=
  let x := (s.onArb .stationLatch st (s.stationCycle st) id).arbOf .stationLatch st
  (bitsOf c.copies).filter (fun i => x.running.any (fun g => g.req == i && g.tag == c.id)
    || x.ended.any (fun g => g.1 == i && g.2.1 == c.id))

/-- A claim of a station is replaced, or removed. -/
def State.replaceClaim (s : State) (st : Nat) (c : Claim) (d : Option Claim) : State :=
  let stn := s.station st
  s.putStation st { stn with claims := stn.claims.flatMap (fun x => if x == c then d.toList else [x]) }

/-- R552: a claim is cancelled. Copies that have not been granted are withdrawn and their buffers released, or lost where
`lose` says so; those that have been granted run to their end. -/
def State.cancelClaim (s : State) (st : Nat) (lose : Bool) (c : Claim) : State :=
  let run := if c.captured.isSome then s.grantedCopies st c else []
  let stop := (bitsOf (if c.captured.isSome then c.copies else c.clusters)).filter (fun i => !run.contains i)
  let d : Option Claim := if run.isEmpty then none else some { c with copies := maskOf8 run, dropped := some lose }
  let s := (s.replaceClaim st c d).withdrawCopies st c stop
  if lose then s.loseCells st c stop else s.releaseCells st c stop

/-! ### Misses, retries and losses -/

/-- The named cores of the clusters in `l`, which hold no claimed buffer for an entry, learn that its latch is lost; an
absent cluster has no cores to tell. -/
def State.tellLatchLost (s : State) (st : Nat) (e : StaEntry) (l : List Nat) : State :=
  l.foldl (fun t i => match (t.stationClusters st)[i]? with
    | some cl => if t.health.absent.contains cl then t else t.onCores cl e (·.loseEntry e)
    | none => t) s

/-- The clusters in `l` lose their latch of an entry (R78), counted once. -/
def State.loseLatches (s : State) (st k : Nat) (e : StaEntry) (l : List Nat) : State :=
  if l.isEmpty then s else (s.tellLatchLost st e l).stationEvent k st 6

/-- R77: clusters that missed go on the retry list; those that find it full are lost. -/
def State.retryLatches (s : State) (st k entry : Nat) (e : StaEntry) (gen : BitVec 16) (cause : MissCause) (l : List Nat) :
    State :=
  let stn := s.station st
  let room := 64 - stn.retry.length
  let new : List Retry := (l.take room).map (fun i => ⟨k, entry, gen, i, cause⟩)
  (s.putStation st { stn with retry := stn.retry ++ new }).loseLatches st k e (l.drop room)

/-- R474: entries that name a lost tile, by the grist buffer of its injector entries. -/
def State.tileLost (s : State) (tile : BitVec 32) : Bool := s.health.lostTiles.any (fun x => x.2 == tile.toNat)

/-- The station reads the entries that its record of the station index names (R67). -/
def ConvProg.indexed (p : ConvProg) (l entry : Nat) : Bool :=
  p.index[l]?.any (fun x => decide (x.1 ≤ entry) && decide (entry < x.1 + x.2))

/-- The run in which an entry is due in revolution `rev`. -/
def ConvProg.dueRun (p : ConvProg) (entry : Nat) (e : StaEntry) (rev : Nat) : Option ConvRun :=
  if p.indexed e.lstation entry then p.runs.find? (fun r => r.startRev + e.revOffset == rev && !r.staFired.contains entry)
  else none

def ConvProg.fire (p : ConvProg) (entry rev : Nat) (e : StaEntry) : ConvProg :=
  { p with runs := p.runs.map (fun r =>
      if r.startRev + e.revOffset == rev then { r with staFired := insertNat entry r.staFired } else r) }

/-- R70: the generation that an entry asks for. -/
def StaEntry.expected (e : StaEntry) (gen : BitVec 16) : BitVec 16 := if e.genSel = 1 then e.genExpl else gen

/-- R85: the notice has passed and the revolution lies at or behind the notice revolution. -/
def State.stopsFiring (s : State) (stn : Station) (rev : Nat) : Bool :=
  stn.noticed && s.conv.halt.any (fun h => decide (h.1 ≤ rev))

/-- The claim of some clusters for one pass of slot `n`. A cluster of a die that heat has stopped claims nothing and is retried
(R520); the miss counts as one that found no weight cell (DEDUCED, log entry 55). -/
def State.claimEntry (s : State) (st k entry n rev : Nat) (p : ConvProg) (e : StaEntry) (gen : BitVec 16) (fetched : Bool)
    (l : List Nat) : State :=
  let gone : Nat → Bool := fun i => ((s.stationClusters st)[i]?).elim true (fun cl => s.health.absent.contains cl)
  let s := s.loseLatches st k e (l.filter gone)
  let l := l.filter (fun i => !gone i)
  if l.isEmpty then s
  else if s.tileLost e.tileId then s.loseLatches st k e l
  else if !fetched || decide (4 ≤ (s.station st).claims.length) then
    (s.stationEvent k st 1).retryLatches st k entry e gen .noCapture l
  else
    let one : State × List (Nat × Nat × Nat × Nat) × List Nat → Nat → State × List (Nat × Nat × Nat × Nat) × List Nat := fun a i =>
      match (a.1.stationClusters st)[i]?.bind (fun cl =>
          if a.1.power.stopped.contains (cl / 136) then none else a.1.claimCluster cl e (p.hasScales e i)) with
      | some t => (t.1, a.2.1 ++ t.2.map (fun x => (i, x)), a.2.2)
      | none => (a.1.stationEvent k st 2, a.2.1, a.2.2 ++ [i])
    let r := l.foldl one (s, [], [])
    let s := r.1.retryLatches st k entry e gen .noCell r.2.2
    let stn := s.station st
    let c : Claim := { id := stn.nextClaim, ctx := k, entry := entry, e := e, slot := n, rev := rev, gen := gen,
                       clusters := maskOf8 (r.2.1.map (·.1)), cells := r.2.1 }
    s.putStation st { stn with claims := stn.claims ++ [c], nextClaim := stn.nextClaim + 1 }

/-- Slots that pass in the claim lead of 128 conveyor cycles (R73): one a cycle in module-local mode, one in a slot time of
k · 2.6 ns in span mode. -/
def Conv.leadSlots (c : Conv) : Nat :=
  if c.span.n = 1 then 128 else (819200 + 286 * c.m * (if c.k2 then 2 else 1) - 1) / (286 * c.m * (if c.k2 then 2 else 1))

/-- R51: the revolution of slot `n` as the station claims it: the last marker to pass the station before the slot has passed
at the claim, or passes within the lead. -/
def State.claimRev (s : State) (st n : Nat) : Nat :=
  (s.station st).keptRev + (if n < s.conv.leadSlots then 1 else 0)

/-- STATION_CLAIM (R73, R77): the first firing of an entry, or the claims of its clusters on the retry list. An entry of
shared grist without the grant of R98 has no latch. -/
def execStationClaim (st : Fin 128) (ctx entry : Nat) (fetched : Bool) (s : State) : Out :=
  match s.convOf ctx with
  | none => .next s
  | some p =>
    match p.sta[entry]?.bind (fun e => (s.phys p e.sharedRef e.slot).map (fun n => (e, n))) with
    | none => .next s
    | some (e, n) =>
      let stn := s.station st.val
      let rev := s.claimRev st.val n
      if !s.moving || (s.stationsOf (ctxVi ctx))[e.lstation]? ≠ some st.val then .next s
      else
        match (if s.stopsFiring stn rev then none else p.dueRun entry e rev) with
        | some r =>
          let s := s.onCtx ctx (fun c => { c with conv := some (p.fire entry rev e) })
          if e.sharedRef && s.obj 0x30012 (ctxVi ctx) != 1 then .next (s.loseLatches st.val ctx e (bitsOf e.clusters))
          else .next (s.claimEntry st.val ctx entry n rev p e (e.expected r.gen) fetched (bitsOf e.clusters))
        | none =>
          let mine := stn.retry.filter (fun x => x.ctx == ctx && x.entry == entry)
          match mine with
          | [] => .next s
          | x :: _ =>
            let now := mine.filter (fun y => y.gen == x.gen)
            let s := s.putStation st.val { stn with retry := stn.retry.filter (fun y => !now.contains y) }
            .next (s.claimEntry st.val ctx entry n rev p e x.gen fetched (now.map (·.cluster)))

/-! ### Arrival -/

/-- Table 3.3: a FORMAT that goes with KIND. -/
def formatFits (kind format : Nat) : Bool :=
  (kind == 1 && [1, 2, 3, 4, 5, 6, 8, 9].contains format) || (kind == 5 && format == 0x10)

/-- What a station makes of an arriving slot for one claim (R75, R79, R82). -/
inductive Verdict1 where
  | match_ | crc | notPresent | superseded | format
deriving DecidableEq, Repr

def judgeSlot (x : Slot) (e : StaEntry) (gen : BitVec 16) : Verdict1 :=
  if x.bad then .crc
  else if x.kind.toNat ≠ (if e.kind = 1 then 5 else 1) then .notPresent
  else if !formatFits x.kind.toNat x.format.toNat then .format
  else if x.tileId ≠ e.tileId then .notPresent
  else if x.poison then .notPresent
  else if x.gen = gen then .match_
  else if serialNewer 16 x.gen.toNat gen.toNat then .superseded
  else .notPresent

/-- The step whose commit makes a generation current, while it awaits its decision. -/
def State.stepMaking (s : State) (gen : BitVec 16) : Option (BitVec 32) :=
  ([s.steps.deciding, s.steps.closed, s.steps.open_].filterMap id |>.find? (fun x => x.gen + 1 == gen)).map (·.step)

/-- R25, R80: whether a cluster may latch generation `gen` of an entry. -/
def State.mayLatch (s : State) (e : StaEntry) (gen : BitVec 16) (cl : Nat) : Bool :=
  if e.genSel = 1 || !serialNewer 16 gen.toNat s.steps.gen.toNat then true
  else match (s.cluster cl).cond, s.stepMaking gen with
    | some c, some st => c.kind == 1 && c.object == st
    | _, _ => false

/-- A whole claim misses: its buffers are released and its clusters retry. -/
def State.missClaim (s : State) (st : Nat) (c : Claim) (event : Nat) (cause : MissCause) : State :=
  let s := ((s.replaceClaim st c none).stationEvent c.ctx st event).releaseCells st c (bitsOf c.clusters)
  s.retryLatches st c.ctx c.entry c.e c.gen cause (bitsOf c.clusters)

/-- R79: the generation asked for has been superseded, so a claim and the retries for the same latch are lost. -/
def State.supersedeClaim (s : State) (st : Nat) (c : Claim) : State :=
  let s := (s.replaceClaim st c none).stationEvent c.ctx st 3
  let stn := s.station st
  let gone := stn.retry.filter (fun r => r.ctx == c.ctx && r.entry == c.entry && r.gen == c.gen)
  let s := s.putStation st { stn with retry := stn.retry.filter (fun r => !gone.contains r) }
  ((s.loseCells st c (bitsOf c.clusters)).tellLatchLost st c.e (gone.map (·.cluster))).stationEvent c.ctx st 6

/-- The arriving slot meets one claim. -/
def State.meetClaim (s : State) (st : Nat) (x : Slot) (c : Claim) : State :=
  match judgeSlot x c.e c.gen with
  | .crc => s.missClaim st c 4 .crc
  | .format => s.missClaim st c 4 .format
  | .notPresent => s.missClaim st c 3 .notPresent
  | .superseded => s.supersedeClaim st c
  | .match_ =>
    let ok : Nat → Bool := fun i => ((s.stationClusters st)[i]?).any (fun cl => s.mayLatch c.e c.gen cl)
    let yes := (bitsOf c.clusters).filter ok
    let no := (bitsOf c.clusters).filter (fun i => !ok i)
    let d : Option Claim := if yes.isEmpty then none
      else some { c with clusters := maskOf8 yes, captured := some x, copies := maskOf8 yes }
    let s := ((s.replaceClaim st c d).releaseCells st c no).raiseCopies st c yes
    let s := if no.isEmpty then s else s.stationEvent c.ctx st 3
    s.retryLatches st c.ctx c.entry c.e c.gen .notPresent no

/-- R62: the retries that ask for another pass of the slot. -/
def State.asksExtension (s : State) (st n : Nat) (x : Slot) : Option Nat :=
  ((s.station st).retry.find? (fun r =>
    (r.cause == .noCapture || r.cause == .noCell || r.cause == .crc) && r.gen == x.gen
      && (match s.convOf r.ctx, s.staEntry r.ctx r.entry with
        | some p, some e => e.tileId == x.tileId && s.phys p e.sharedRef e.slot == some n
        | _, _ => false))).map (·.ctx)

/-- STATION_CAPTURE (R75, R62). The slot's revolution is that of the last marker to pass the station (R51). -/
def execStationCapture (st : Fin 128) (slot : Fin 76800) (crcFail : Bool) (s : State) : Out :=
  if !s.moving || s.conv.span.slots ≤ slot.val then .next s
  else
    let s := s.spoilGrist slot.val crcFail
    let x := s.gristSlot slot.val
    let stn := s.station st.val
    let here := stn.claims.filter (fun c => c.slot == slot.val && c.rev == stn.keptRev && c.captured.isNone)
    let s := here.foldl (fun t c => t.meetClaim st.val x c) s
    if !x.bad && x.revLeft = 1 && (x.kind = 1 || x.kind = 5) then
      match s.asksExtension st.val slot.val x with
      | some k => .next ((s.putGrist slot.val { x with revLeft := 2 }).stationEvent k st.val 5)
      | none => .next s
    else .next s

/-! ### Copies -/

/-- Bytes of the sub-blocks that a scale entry names (R57). -/
def scaleBytes (e : StaEntry) (payload : Bytes) : Bytes :=
  (payload.drop (256 * e.scFirst)).take (if e.scTwo then 512 else 256)

/-- R69: READY when the tile is in and, if it has block scales, its scales as well. -/
def WeightCell.settle (x : WeightCell) : WeightCell :=
  if x.tileIn && (!x.needScale || x.scaleIn) then { x with state := .ready } else x

/-- A copy writes the tile, or the scale sub-blocks, into the claimed buffer of one core. -/
def Core.copyIn (c : Core) (e : StaEntry) (x : Slot) (uncommitted : Bool) (i : Nat) : Core :=
  let w := c.cell i
  let w := if e.kind = 1 then
      { w with scales := scaleBytes e x.payload, scBlock := e.scBlock, scDir := e.scDir, scaleIn := true }
    else { w with payload := x.payload, format := x.format, orient := x.orient, gen := x.gen, tileIn := true }
  c.setCell i { w with uncommitted := w.uncommitted || uncommitted }.settle

/-- The latch arbiter of a station when the grant of cluster `i` for a claim or a contribution has run to its end, none when
it does not. -/
def State.latchEnded (s : State) (st i tag : Nat) : Option Arb :=
  let x := (s.arbOf .stationLatch st).served s.arb .stationLatch (dieOf .stationLatch st) i tag
  if x.ended.any (fun g => g.1 == i && g.2.1 == tag) then
    some { x with ended := x.ended.filter (fun g => !(g.1 == i && g.2.1 == tag)) }
  else none

/-- LATCH_COPY_DONE (R76): one copy that the latch arbiter has granted ends; the capture buffer is freed after the last. The
buffer that a cancelled copy wrote is then freed or lost (R552). -/
def execLatchCopyDone (st : Fin 128) (ctx entry : Nat) (i : Fin 8) (s : State) : Out :=
  let st := st.val
  match (s.station st).claims.find? (fun c => c.ctx == ctx && c.entry == entry && c.copies.getLsbD i.val) with
  | none => .next s
  | some c =>
    match c.captured, s.latchEnded st i.val c.id with
    | some x, some a =>
      let left := c.copies &&& ~~~(1#8 <<< i.val)
      let s := { s with arb.insts := s.arb.insts.set {} (instKey .stationLatch st) a }
      let s := s.replaceClaim st c (if left = 0 then none else some { c with copies := left })
      match c.dropped with
      | some true => .next (s.loseCells st c [i.val])
      | some false => .next (s.releaseCells st c [i.val])
      | none =>
        let unc := c.e.genSel == 0 && serialNewer 16 c.gen.toNat s.steps.gen.toNat
        .next ((s.onCells st c [i.val] (fun w b => w.copyIn c.e x unc b)).stationEvent ctx st 0)
    | _, _ => .next s

/-! ### Losses -/

/-- The revolution in which an entry first looked for its slot, 0 when its run is over. -/
def ConvProg.dueRev (p : ConvProg) (e : StaEntry) (gen : BitVec 16) : Nat :=
  ((p.runs.find? (fun r => e.expected r.gen == gen)).map (fun r => r.startRev + e.revOffset)).getD 0

/-- Whether a pending latch of an entry is lost when position `q` retires slot `n` with contents `x` in revolution `rev`:
it asks for that tile, and the slot had been due at the station before. -/
def State.latchDies (s : State) (st q n rev : Nat) (x : Slot) (k entry : Nat) (gen : BitVec 16) : Bool :=
  match s.convOf k, s.staEntry k entry with
  | some p, some e =>
    s.phys p e.sharedRef e.slot == some n && e.tileId == x.tileId && gen == x.gen
      && decide (p.dueRev e gen * s.conv.span.slots + stationPos st < rev * s.conv.span.slots + q)
  | _, _ => false

/-- R78 at one station: claims that have not captured, and retries, counted once for each entry. DESIGN CHOICE: a claim that
has captured its slot no longer needs it; its copies are made although the slot is retired (log entry 121). -/
def State.retireAt (q n rev : Nat) (x : Slot) (s : State) (st : Nat) : State :=
  let stn := s.station st
  let dead := stn.claims.filter (fun c => c.captured.isNone && s.latchDies st q n rev x c.ctx c.entry c.gen)
  let gone := stn.retry.filter (fun r => s.latchDies st q n rev x r.ctx r.entry r.gen)
  if dead.isEmpty && gone.isEmpty then s
  else
    let s := s.putStation st { stn with claims := stn.claims.filter (fun c => !dead.contains c),
                                        retry := stn.retry.filter (fun r => !gone.contains r) }
    let s := dead.foldl (fun t c => t.loseCells st c (bitsOf c.clusters)) s
    let s := gone.foldl (fun t r => (t.staEntry r.ctx r.entry).elim t (fun e => t.tellLatchLost st e [r.cluster])) s
    let keys := (dead.map (fun c => (c.ctx, c.entry)) ++ gone.map (fun r => (r.ctx, r.entry))).dedup
    keys.foldl (fun t y => t.stationEvent y.1 st 6) s

/-- R78: the latches that a retirement loses. -/
def State.retireLatches (s : State) (q n rev : Nat) (x : Slot) : State :=
  (s.conv.stn.map (·.1)).foldl (State.retireAt q n rev x) s

/-- A claim is cancelled, and counted when it is lost. -/
def State.cancelOne (st : Nat) (lose : Bool) (s : State) (c : Claim) : State :=
  let t := s.cancelClaim st lose c
  if lose then t.stationEvent c.ctx st 6 else t

/-- The pending latches that satisfy `p` are cancelled. A latch not yet made counts as lost when `lose` says so, and the
core takes it into its lost-tile list; otherwise its buffers are released. -/
def State.cancelAt (p : Nat → StaEntry → Bool) (lose : Bool) (s : State) (st : Nat) : State :=
  let stn := s.station st
  let dead := stn.claims.filter (fun c => p c.ctx c.e && c.dropped.isNone)
  let gone := stn.retry.filter (fun r => (s.staEntry r.ctx r.entry).any (p r.ctx))
  if dead.isEmpty && gone.isEmpty then s
  else
    let s := s.putStation st { stn with retry := stn.retry.filter (fun r => !gone.contains r) }
    let s := dead.foldl (State.cancelOne st lose) s
    if lose then
      gone.foldl (fun t r => match t.staEntry r.ctx r.entry with
        | some e => t.loseLatches st r.ctx e [r.cluster]
        | none => t) s
    else s

def State.cancelLatches (s : State) (p : Nat → StaEntry → Bool) (lose : Bool) : State :=
  (s.conv.stn.map (·.1)).foldl (State.cancelAt p lose) s

end Sys2Proof.Machine
end

