-- ==== Sys2Proof/Machine/Injectors.lean ====
section
/-!
DEFINITION. Injectors and the grist store (R59 to R64, R85, R86, R550): staging, filling, deferring, refreshing,
retiring, and the commands INJECTOR_SLOT_PASS and STAGING_READ_DONE.
-/

namespace Sys2Proof.Machine

def State.injector (s : State) (j : Nat) : Injector := s.conv.inj.get {} j
def State.putInjector (s : State) (j : Nat) (x : Injector) : State := { s with conv.inj := s.conv.inj.put j x }

/-- Fast-tier address of a grist address of a context. -/
def State.gristAt (s : State) (k va : Nat) : Option Nat :=
  match s.translate k va .load with
  | .ok (.fast a) => some a
  | _ => none

/-- R334: buffer A holds even generations, buffer B odd ones. -/
def bufferOf (gristA : Nat) (gen : BitVec 16) : Nat := gristA + 4096 * (gen.toNat % 2)

/-- The stack whose object holds a grist buffer; its injector fills from it. -/
def State.stackOf (s : State) (k va : Nat) : Option Nat :=
  match s.objectAt k va with
  | some (ok, _) => (s.host.objects.find? ok).map (·.stack)
  | none => none

def InjEntry.expected (e : InjEntry) (gen : BitVec 16) : BitVec 16 := if e.genSel = 1 then e.genExpl else gen

def State.injEntry (s : State) (k n : Nat) : Option InjEntry := (s.convOf k).bind (fun p => p.inj[n]?)

/-! ### Which generation may be injected (R63, R550, R474) -/

/-- Whether an update-map entry of the member names the grist buffers of a weight tile, or of a scale tile, whose scales a
Kiln writes too (compared as fast-tier addresses). -/
def State.kilnWrites (s : State) (k gristA : Nat) : Bool :=
  let a := s.gristAt k gristA
  let names : Nat → MapEntry → Bool := fun x m => s.gristAt x m.gristA == a || (m.scaleA != 0 && s.gristAt x m.scaleA == a)
  a.isSome && s.host.ctxs.any (fun x => x.2.upd.any (fun u => u.entries.any (names x.1)))

/-- The generation that the Kiln of injector `j` last reported for a buffer. -/
def State.reportedGen (s : State) (j a : Nat) : Option (BitVec 16) := (s.kilns.get {} (j / 2)).reported.find? a

/-- What an injection does: wait, put the tile on, or put it on poisoned. -/
inductive Inject where
  | defer | good | poison
deriving DecidableEq, Repr

/-- R63, R550: a committed read generation is in its buffer; an uncommitted one is when the Kiln has reported it for a step
that has not failed. DESIGN CHOICE: an explicit generation of a Kiln-written tile, for whose buffer no generation has been
reported yet, is injected as the buffer stands (log entry 120). -/
def State.injectable (s : State) (j k : Nat) (e : InjEntry) (gen : BitVec 16) (src : Nat) : Inject :=
  if e.genSel = 0 then
    if !serialNewer 16 gen.toNat s.steps.gen.toNat
        || (s.reportedGen j src = some gen && !(s.kilns.get {} (j / 2)).failed.contains src) then .good else .defer
  else if !s.kilnWrites k e.gristA then .good
  else match s.reportedGen j src with
    | none => .good
    | some g => if g = gen then .good else if serialNewer 16 gen.toNat g.toNat then .defer else .poison

/-- R474: the tile of a grist buffer pair has been declared lost. -/
def State.gristLost (s : State) (k gristA : Nat) : Bool :=
  match s.gristAt k gristA with
  | some a => s.health.lostTiles.any (fun x => x.1 == a)
  | none => false

/-! ### Filling and retiring -/

/-- The header that an injector writes (R60). -/
def injHeader (e : InjEntry) (gen : BitVec 16) (owner left : Nat) (poison : Bool) : Slot :=
  { kind := if e.format = 0x10 then 5 else 1, format := e.format, orient := e.orient, poison := poison, shared := e.shared,
    tileId := e.tileId, gen := gen, owner := BitVec.ofNat 6 owner, pgroup := e.pgroup, revLeft := BitVec.ofNat 12 left }

/-- The bytes of a buffer, in the canonical form of a slot's payload: no zero bytes behind the last other one. -/
def trimBytes (bs : Bytes) : Bytes := (bs.reverse.dropWhile (· == 0)).reverse

def State.bufferBytes (s : State) (src : Nat) : Bytes := trimBytes (s.readPlace (.fast src) 4096)

/-- A sector of a buffer is uncorrectable (R294). -/
def State.bufferBad (s : State) (src : Nat) : Bool := (List.range 16).any (fun i => s.poisoned (.fast (src + 256 * i)))

/-- The slot is filled with the bytes of a buffer, and the injector keeps what it wrote. -/
def State.fillSlot (s : State) (j n : Nat) (e : InjEntry) (r : InjSlot) (poison : Bool) (payload : Bytes) : State :=
  let x := injHeader e r.gen s.conv.span.index r.last.toNat poison
  let inj := s.injector j
  ((s.putGrist n { x with payload := payload }).putInjector j { inj with filled := inj.filled.put n r }).bump 0x30110 j

/-- The slot is retired: an empty header, counted in `counter`. -/
def State.retireSlot (s : State) (j n counter : Nat) : State :=
  let inj := s.injector j
  ((s.putGrist n {}).putInjector j { inj with filled := inj.filled.erase n }).bump counter j

/-- R60, R63: the entries of all running programs that are due at injector `j` in slot `n`, earliest first. -/
def State.dueEntries (s : State) (j n rev : Nat) : List (Nat × Nat × ConvRun × InjEntry) :=
  let all := s.host.ctxs.flatMap (fun x => match x.2.conv with
    | none => []
    | some p => p.runs.flatMap (fun r => (p.inj.mapIdx (fun i e => (x.1, i, r, e))).filter (fun y =>
        !r.injDone.contains y.2.1 && s.phys p y.2.2.2.shared y.2.2.2.slot == some n
          && decide (r.startRev + y.2.2.2.revOffset ≤ rev) && s.stackOf x.1 y.2.2.2.gristA == some j)))
  all.mergeSort (fun a b => a.2.2.1.startRev + a.2.2.2.revOffset ≤ b.2.2.1.startRev + b.2.2.2.revOffset)

/-- An entry has been injected in its run. -/
def State.injected (s : State) (k entry : Nat) (r : ConvRun) : State :=
  s.onCtx k (fun c => { c with conv := c.conv.map (fun p => { p with runs := p.runs.map (fun q =>
    if q == r then { q with injDone := insertNat entry q.injDone } else q) }) })

/-- R63: the tile is staged in the generation that its entry asks for. -/
def Injector.stagedTile (x : Injector) (k entry : Nat) (gen : BitVec 16) : Option Staged :=
  x.staged.find? (fun y => y.ctx == k && y.entry == entry && y.gen == gen)

def Injector.unstage (x : Injector) (y : Staged) : Injector := { x with staged := x.staged.erase y }

/-- Ask the Kiln of a stack to rewrite the working copy in a slot's buffer (R64). -/
def State.askRewrite (s : State) (j n : Nat) : State :=
  let k := s.kilns.get {} (j / 2)
  { s with kilns := s.kilns.put (j / 2) { k with rewrites := if k.rewrites.contains (j, n) then k.rewrites else k.rewrites ++ [(j, n)] } }

/-- One due entry at an empty slot: injected, or none when it must wait. -/
def State.tryInject (s : State) (j n : Nat) (y : Nat × Nat × ConvRun × InjEntry) : Option State :=
  let e := y.2.2.2
  let gen := e.expected y.2.2.1.gen
  match (s.injector j).stagedTile y.1 y.2.1 gen, s.gristAt y.1 (bufferOf e.gristA gen) with
  | some tile, some src =>
    let lost := s.gristLost y.1 e.gristA
    match (if lost then Inject.poison else s.injectable j y.1 e gen src) with
    | .defer => none
    | r =>
      let rec_ : InjSlot := { ctx := y.1, entry := y.2.1, tileId := e.tileId, gen := gen, src := src,
                              last := BitVec.ofNat 12 e.residency, rewriting := tile.ue && !lost && r == .good,
                              poison := r == .poison }
      let s := s.putInjector j ((s.injector j).unstage tile)
      let s := (s.fillSlot j n e rec_ (tile.ue || r == .poison) tile.payload).injected y.1 y.2.1 y.2.2.1
      some (if rec_.rewriting then s.askRewrite j n else s)
  | _, _ => none

/-- The first entry that can be injected; each of the others counts a deferral. -/
def State.tryEntries (j n : Nat) : List (Nat × Nat × ConvRun × InjEntry) → State → State
  | [], s => s
  | y :: r, s =>
    match s.tryInject j n y with
    | some t => t.bumpBy 0x30111 j r.length
    | none => State.tryEntries j n r (s.bump 0x30111 j)

/-- R81, R86: a tile comes back into its slot; an uncorrectable buffer makes it poisoned, to be rewritten (R64). -/
def State.reinject (s : State) (j : Nat) (a : Reinject) : State :=
  match s.injEntry a.ctx a.entry with
  | none => s
  | some e =>
    let poison := a.poison || s.gristLost a.ctx e.gristA
    let ue := !poison && s.bufferBad a.src
    let r : InjSlot := { ctx := a.ctx, entry := a.entry, tileId := e.tileId, gen := a.gen, src := a.src, last := a.rev,
                         ext := a.ext, rewriting := a.rewriting || ue, poison := poison }
    let s := s.fillSlot j a.slot e r (r.rewriting || poison) (s.bufferBytes a.src)
    if ue && !a.rewriting then s.askRewrite j a.slot else s

/-- What an injector does with a slot that is free, or that another tile occupies. DESIGN CHOICE: a slot whose CRC fails and
whose KIND reads 0 is free (log entry 123). -/
def State.injectorFill (s : State) (j n rev : Nat) : State :=
  let inj := s.injector j
  if inj.noticed then s
  else
    let due := s.dueEntries j n rev
    if (s.gristSlot n).kind ≠ 0 then s.bumpBy 0x30111 j due.length
    else match inj.again.find? (fun a => a.slot == n && decide (a.fromRev ≤ rev)) with
      | some a =>
        let s := s.putInjector j { inj with again := inj.again.filter (fun b => b != a) }
        (s.reinject j a).bumpBy 0x30111 j due.length
      | none => State.tryEntries j n due s

/-- R81: the tile of generation `gen` that follows a slot whose generation was discarded. -/
def State.followTile (s : State) (f : InjSlot) (gen : BitVec 16) (n rev : Nat) : Option Reinject :=
  (s.injEntry f.ctx f.entry).bind (fun e => (s.gristAt f.ctx (bufferOf e.gristA gen)).map (fun a =>
    { slot := n, fromRev := rev, ctx := f.ctx, entry := f.entry, rev := BitVec.ofNat 12 e.residency, ext := 0,
      gen := gen, src := a }))

/-- The tile that comes back in place of a slot that its discard retires, in revolution `rev`. -/
def State.addFollower (s : State) (j n rev : Nat) (f : InjSlot) : State :=
  match f.again.bind (fun gen => s.followTile f gen n rev) with
  | some a => s.putInjector j { s.injector j with again := (s.injector j).again ++ [a] }
  | none => s

/-- R62: a station has asked for another pass, and the injector has honoured fewer than 8 such requests. -/
def extends_ (x : Slot) (f : InjSlot) : Bool := x.revLeft = 2 && f.last = 1 && decide (f.ext < 8)

/-- R86: what is left of a tile that a halt retires: its residency after this pass, and its extensions. A pass in which the
slot would be refreshed, or waits for a rewrite, does not count (R64). -/
def haltLeft (x : Slot) (f : InjSlot) : Nat × Nat :=
  if x.bad || (f.rewriting && !f.rewritten) then (f.last.toNat, f.ext)
  else if f.rewriting then (x.revLeft.toNat, f.ext)
  else if x.revLeft = 2 && f.last = 1 then (if extends_ x f then (1, f.ext + 1) else (0, f.ext))
  else (x.revLeft.toNat - 1, f.ext)

def Injector.addAgain (x : Injector) (a : Reinject) : Injector := { x with again := x.again ++ [a] }

/-- R85, R86: the halt retires a slot; a tile whose residency has not run out comes back in HALT_REV. -/
def State.haltRetire (s : State) (j n : Nat) (x : Slot) (f : InjSlot) : State :=
  let l := haltLeft x f
  let s := s.retireSlot j n 0x30112
  match s.conv.halt with
  | some (_, h) =>
    if f.retire then s.addFollower j n h f
    else if l.1 = 0 then s
    else s.putInjector j ((s.injector j).addAgain
      { slot := n, fromRev := h, ctx := f.ctx, entry := f.entry, rev := BitVec.ofNat 12 l.1, ext := l.2, gen := f.gen,
        src := f.src, rewriting := f.rewriting && !f.rewritten, poison := f.poison })
  | none => s

/-- R53, R64: header and payload written anew from the buffer. -/
def State.refreshSlot (s : State) (j n : Nat) (f : InjSlot) (left : BitVec 12) (poison : Bool) : State :=
  match s.injEntry f.ctx f.entry with
  | none => s
  | some e =>
    (s.putGrist n { injHeader e f.gen s.conv.span.index left.toNat poison with payload := s.bufferBytes f.src }).bump 0x30113 j

def State.putFilled (s : State) (j n : Nat) (f : InjSlot) : State :=
  let inj := s.injector j
  s.putInjector j { inj with filled := inj.filled.put n f }

/-- R64: the slot is refreshed and keeps `left`. A buffer that the Kiln still rewrites, or in which an uncorrectable sector
has come up since, gives a poisoned slot; the rewrite is asked for once. -/
def State.refresh (s : State) (j n : Nat) (f : InjSlot) (left : BitVec 12) : State :=
  let pending := f.rewriting && !f.rewritten
  let poison := f.poison || (s.injEntry f.ctx f.entry).any (fun e => s.gristLost f.ctx e.gristA)
  let ue := !poison && s.bufferBad f.src
  let g : InjSlot := { f with rewriting := pending || ue, rewritten := false, last := left }
  let s := (s.refreshSlot j n f left (poison || g.rewriting)).putFilled j n g
  if ue && !pending then s.askRewrite j n else s

/-- R61, R62: an ordinary return: REV_LEFT falls, or the slot is retired and its pending latches are lost. -/
def State.countPass (s : State) (j n rev : Nat) (x : Slot) (f : InjSlot) : State :=
  let extended := x.revLeft = 2 && f.last = 1
  let left := x.revLeft - 1
  if left = 0 || x.revLeft = 0 || (extended && !extends_ x f) then
    (s.retireSlot j n 0x30112).retireLatches (injectorPos j) n rev x
  else
    (s.putGrist n { x with revLeft := left }).putFilled j n { f with last := left, ext := if extended then f.ext + 1 else f.ext }

/-- A slot that this injector filled returns. DESIGN CHOICE: behind the halt notice R85 retires it whatever its kind, so that
a reserved kind counts in INJ_RETIRE there, not in INJ_BADKIND (log entry 122). -/
def State.injectorReturn (s : State) (j n rev : Nat) (x : Slot) (f : InjSlot) : State :=
  let inj := s.injector j
  if x.kind = 0 && !x.bad then s.putInjector j { inj with filled := inj.filled.erase n }
  else if inj.noticed then s.haltRetire j n x f
  else if f.retire then ((s.retireSlot j n 0x30112).retireLatches (injectorPos j) n rev x).addFollower j n rev f
  else if x.bad then s.refresh j n f f.last
  else if x.kind ≠ 1 && x.kind ≠ 5 then (s.retireSlot j n 0x30114).retireLatches (injectorPos j) n rev x
  else if !formatFits x.kind.toNat x.format.toNat then (s.retireSlot j n 0x30112).retireLatches (injectorPos j) n rev x
  else if f.rewriting then (if f.rewritten then s.refresh j n f x.revLeft else s)
  else s.countPass j n rev x f

/-- INJECTOR_SLOT_PASS. Slot 0 carries the marker, whose notice stops the injector (R85) and whose count is the revolution of
the slots behind it (R51). -/
def execInjectorSlotPass (j : Fin 16) (slot : Fin 76800) (crcFail : Bool) (s : State) : Out :=
  let n := slot.val
  let inj := s.injector j.val
  if !s.moving || s.conv.span.slots ≤ n || n = 1 then .next s
  else if n = 0 then
    .next (s.putInjector j.val (if crcFail then { inj with keptRev := inj.keptRev + 1 }
      else { inj with keptRev := s.conv.marker.rev.toNat, noticed := inj.noticed || s.conv.marker.haltNotice }))
  else
    let s := s.spoilGrist n crcFail
    let x := s.gristSlot n
    let s := match inj.filled.find? n with
      | some f => s.injectorReturn j.val n inj.keptRev x f
      | none => if !x.bad && x.kind ≠ 0 && x.kind ≠ 1 && x.kind ≠ 5 then
          (s.retireSlot j.val n 0x30114).retireLatches (injectorPos j.val) n inj.keptRev x else s
    .next (s.injectorFill j.val n inj.keptRev)

/-- STAGING_READ_DONE (R63): the buffer of the generation that the entry asks for in its next run is read, once it holds
that generation. An uncorrectable read marks the sector (R294, R64); a corrected one is counted (R292). -/
def execStagingReadDone (j : Fin 16) (ctx entry : Nat) (ecc : EccResult) (s : State) : Out :=
  let inj := s.injector j.val
  match s.convOf ctx, s.injEntry ctx entry with
  | some p, some e =>
    let run := p.runs.find? (fun r => !r.injDone.contains entry)
    let gen := e.expected ((run.map (·.gen)).getD s.steps.gen)
    match s.gristAt ctx (bufferOf e.gristA gen) with
    | none => .next s
    | some a =>
      if s.stackOf ctx e.gristA ≠ some j.val || decide (64 ≤ inj.staged.length) || (inj.stagedTile ctx entry gen).isSome
          || (!s.gristLost ctx e.gristA && s.injectable j.val ctx e gen a == .defer) then .next s
      else
        let bad := s.bufferBad a
        let tile : Staged := { ctx := ctx, entry := entry, gen := gen, ue := bad || ecc == .uncorrectable,
                               payload := s.bufferBytes a }
        let t := s.putInjector j.val { inj with staged := inj.staged ++ [tile] }
        match ecc with
        | .uncorrectable => .next (if bad then t else t.hbmUe a 2)
        | .corrected => .next (t.bump 0x40102 (t.pchanOf a))
        | .clean => .next t
  | _, _ => .next s

end Sys2Proof.Machine
end

