-- ==== Sys2Proof/Machine/StepOps.lean ====
section
/-!
DEFINITION. What a step is made of in one member: its record and its final verdict (R125 to R127, R551), its decision
(R28, R29, R128, R163, R320, R347 to R350), the unloading of programs (R66, R107, R327), the start of a step (R66, R96,
R354) and SPAN_BROKEN (R95, R132, R133).
-/

namespace Sys2Proof.Machine

/-! ### Live steps -/

/-- The steps that this member has opened and not yet decided, oldest first. -/
def Steps.undecided (t : Steps) : List LiveStep := [t.deciding, t.closed, t.open_].filterMap id

/-- The live steps: open, or closed and without a final verdict. -/
def Steps.live (t : Steps) : List LiveStep := [t.closed, t.open_].filterMap id

def State.stepOf (s : State) (st : BitVec 32) : Option LiveStep := s.steps.undecided.find? (fun x => x.step == st)

/-- Change the record of an undecided step. -/
def State.onStep (s : State) (st : BitVec 32) (f : LiveStep → LiveStep) : State :=
  let g : LiveStep → LiveStep := fun x => if x.step == st then f x else x
  { s with steps.deciding := s.steps.deciding.map g, steps.closed := s.steps.closed.map g,
           steps.open_ := s.steps.open_.map g }

/-- The value that is not a step number (R343). -/
def noStep : BitVec 32 := 0xFFFFFFFF#32

/-! ### The member record and DONE (R126, Table 4.9) -/

def State.kilnAt (s : State) (k : Nat) : Kiln := s.kilns.get {} k
def State.putKiln (s : State) (k : Nat) (x : Kiln) : State := { s with kilns := s.kilns.put k x }

/-- A Kiln has written every update and copy of a step. -/
def Kiln.doneWith (k : Kiln) (st : BitVec 32) : Bool :=
  k.input.all (fun t => t.step != st) && k.park.all (fun t => t.step != st)
    && k.jobs.all (fun j => j.step != st) && k.exported.all (fun x => x.1 != st) && k.stripes.isEmpty

/-- A context has added or drained every contribution and retired or copied every gradient slot of a step; a program that
does not run in the step has none. -/
def RetProg.doneWith (p : RetProg) (st : BitVec 32) : Bool :=
  match p.runs.find? (fun r => r.step == st) with
  | some r => (List.range p.gate.length).all r.retired.contains && (List.range p.rsta.length).all r.added.contains
  | none => true

/-- R126. -/
def State.stepDone (s : State) (x : LiveStep) : Bool :=
  x.participants.all (fun k => ((s.ctx? k).bind (·.ret)).elim true (fun p => p.doneWith x.step))
    && (List.range 8).all (fun k => (s.kilnAt k).doneWith x.step)

/-- R194: what the member writes of a step. -/
def State.memberRecord (s : State) (x : LiveStep) : MemberRec :=
  let c := s.stepCounts x.step
  { poisoned := x.poisoned, sharedLost := x.sharedLost, done := s.stepDone x,
    nonfinite := BitVec.ofNat 32 (satCount 32 c.nonfinite), nanCount := BitVec.ofNat 32 (satCount 32 c.nan),
    satCount := BitVec.ofNat 32 (satCount 32 c.sat) }

/-! ### A final verdict (R127, R551) -/

def verdictFinal (v : Verdict) : Bool := v.state == 1 || v.state == 2

/-- Table 4.8 as a number. -/
def verdictSummary (v : Verdict) : Nat :=
  packFields [(32, v.step.toNat), (2, v.state.toNat), (6, v.finalizer.toNat), (8, v.spanN.toNat), (16, v.cause.toNat),
    (64, v.doneMap.toNat), (48, v.decideRev.toNat), (16, 0), (64, v.total.toNat), (32, v.threshold.toNat)]

/-- The member keeps a final verdict that it has read or written; of two for one step the lower DECIDE_REV. -/
def State.holdFinal (s : State) (v : Verdict) : State :=
  let keep : State := { s with verdict.held := some v, verdict.last := verdictSummary v,
                               steps.lastFinal := some (v.step, v.state.toNat, v.decideRev.toNat) }
  match s.steps.live.find? (fun x => x.step == v.step) with
  | some x =>
    let drop : Option LiveStep → Option LiveStep := fun o => if o.any (fun y => y.step == v.step) then none else o
    let t := keep.bump (if v.state = 1 then 0x30140 else 0x30141) 0
    { t with steps.deciding := some x, steps.closed := drop t.steps.closed, steps.open_ := drop t.steps.open_ }
  | none =>
    if s.verdict.held.any (fun h => h.step == v.step && decide (v.decideRev < h.decideRev)) && s.verdict.decided ≠ some v.step
    then keep else s

/-! ### Verdict events (R350, Table 10.10) -/

def State.verdictEvent (s : State) (x : LiveStep) (result origin cause decideRev : Nat) : State :=
  x.participants.foldl (fun t k =>
    t.event k (mkEvent x.step.toNat (result * 2 ^ 24 + origin * 2 ^ 16 + cause) noQueue 3 decideRev)) s

/-! ### Commit (R28, R320, R334, R348) -/

/-- `l` with the members of `m` flipped. -/
def flipIn (l m : List Nat) : List Nat := l.filter (fun b => !m.contains b) ++ m.filter (fun b => !l.contains b)

/-- Every PENDING block flips ACTIVE. -/
def Kiln.commit (k : Kiln) : Kiln := { k with activeB := flipIn k.activeB k.pending, pending := [], undone := [] }

def State.onKilns (s : State) (f : Nat → Kiln → Kiln) : State := { s with kilns := s.kilns.map (fun x => (x.1, f x.1 x.2)) }

/-- The counts of tasks that were speculative on a step become counts of the next one, or are removed (R196). -/
def State.mergeCounts (s : State) (st : BitVec 32) (keep : Bool) : State :=
  let n := stepAfter st
  let c := s.steps.specCounts.get {} n.toNat
  let s := if keep then s.countStep n c else s
  { s with steps.specCounts := s.steps.specCounts.erase n.toNat, steps.counts := s.steps.counts.erase st.toNat }

/-- STEP_COMMIT commands that wait for the boundary complete (R346). -/
def State.finishCommits (s : State) (st : BitVec 32) : State :=
  let now := s.steps.commitWait.filter (fun x => x.1 == st)
  now.foldl (fun t x => t.finish x.2 0 0) { s with steps.commitWait := s.steps.commitWait.filter (fun x => x.1 != st) }

/-- The commit of a step. -/
def State.commitStep (s : State) (x : LiveStep) (decideRev : Nat) : State :=
  let s := s.onKilns (fun _ k => k.commit)
  let s := { s with steps.gen := s.steps.gen + 1, steps.deciding := none, steps.lastCommitted := x.step,
                    steps.brokenStep := none }
  let s := (s.mergeCounts x.step true).commitSpec (fun c => c.kind == 1 && c.object == x.step)
  (s.verdictEvent x 1 0 0 decideRev).finishCommits x.step

/-! ### Discard (R29, R81, R128, R134, R163, R349) -/

/-- The Kiln drops what belongs to a discarded step and to its generation `old`. -/
def Kiln.discard (st : BitVec 32) (old : BitVec 16) (broken : Bool) (k : Kiln) : Kiln :=
  let stays : KilnTile → Bool := fun t => t.step != st && t.slot.gen != old && t.slot.gen != old + 1
  { k with pending := [], undone := if broken then k.undone ++ k.pending else [], input := k.input.filter stays,
           park := k.park.filter stays, jobs := k.jobs.filter (fun j => j.step != st),
           exported := k.exported.filter (fun x => x.1 != st), parts := k.parts.filter (fun x => x.2.1 != old),
           scaleParts := k.scaleParts.filter (fun x => x.2.1 != old),
           failed := (k.failed ++ (k.reported.filter (fun x => x.2 == old)).map (·.1)).dedup }

/-- KILN_APPLY commands of which no update is left to write complete (Table 10.9). -/
def State.settleApplies (s : State) : State :=
  let left : Nat → BitVec 32 → Bool := fun k tile => s.kilns.any (fun (x : Nat × Kiln) =>
    !x.2.stripes.isEmpty || x.2.jobs.any (fun j => j.ctx == k && j.tileId == tile)
      || (x.2.input ++ x.2.park).any (fun t => t.applied && t.ctx == k && t.slot.tileId == tile))
  let waits : CmdRef × Nat × List (BitVec 32) → Bool := fun x => x.2.2.any (left x.2.1)
  (s.steps.applyWait.filter (fun x => !waits x)).foldl (fun t x => t.finish x.1 0 0)
    { s with steps.applyWait := s.steps.applyWait.filter waits }

/-- Runs that read the discarded generation read the one that stays current; their returns open again (R134). -/
def ConvProg.regen (old new : BitVec 16) (p : ConvProg) : ConvProg :=
  { p with runs := p.runs.map (fun r => if r.gen == old then { r with gen := new } else r) }

def RetProg.regen (st : BitVec 32) (old new : BitVec 16) (p : RetProg) : RetProg :=
  let one : RetRun → RetRun := fun r => if r.gen == old then { step := r.step, startRev := r.startRev, gen := new } else r
  { p with runs := (p.runs.filter (fun r => r.step != st)).map one }

/-- A cancelled claim whose copies were not captured looks for the tile of another generation (R81). -/
def State.carryClaim (st : Nat) (new : BitVec 16) (s : State) (c : Claim) : State :=
  let t := s.cancelClaim st false c
  if c.captured.isSome then t else t.retryLatches st c.ctx c.entry c.e new .notPresent (bitsOf c.clusters)

/-- R81 at a station: pending claims and retries for the old generation become retries for the new one; what a
speculative task was latching is dropped (R163, R552). -/
def State.carryAt (old new : BitVec 16) (s : State) (st : Nat) : State :=
  let stn := s.station st
  let reads : Nat → Nat → Bool := fun k n => (s.staEntry k n).any (fun e => e.genSel == 0)
  let mine := stn.claims.filter (fun c => c.gen == old && c.e.genSel == 0 && c.dropped.isNone)
  let put : Retry → Retry := fun r => if r.gen == old && reads r.ctx r.entry then { r with gen := new } else r
  mine.foldl (State.carryClaim st new) (s.putStation st { stn with retry := stn.retry.map put })

/-- R29, R81 at an injector: slots of the old generation are retired at their next pass, and those that read it by GEN_SEL 0
are injected again; tiles staged for it are dropped. -/
def State.carryInjector (old new : BitVec 16) (s : State) (j : Nat) : State :=
  let inj := s.injector j
  let reads : Nat → Nat → Bool := fun k n => (s.injEntry k n).any (fun e => e.genSel == 0)
  let mark : Nat × InjSlot → Nat × InjSlot := fun x =>
    if x.2.again == some old then (x.1, { x.2 with again := some new })
    else if x.2.gen == old && !x.2.retire then
      (x.1, { x.2 with retire := true, again := if reads x.2.ctx x.2.entry then some new else none })
    else x
  let turn : Reinject → Reinject := fun a =>
    match s.injEntry a.ctx a.entry with
    | some e =>
      if a.gen == old && e.genSel == 0 then
        { a with gen := new, src := (s.gristAt a.ctx (bufferOf e.gristA new)).getD a.src, rev := BitVec.ofNat 12 e.residency,
                 ext := 0, rewriting := false }
      else a
    | none => a
  let keeps : Staged → Bool := fun y => !(y.gen == old && reads y.ctx y.entry)
  s.putInjector j { inj with filled := inj.filled.map mark, again := inj.again.map turn, staged := inj.staged.filter keeps }

/-- R128, R134: gradient slots of the step, and those that name the old generation, are retired at their next pass;
the contributions that belong to them are cancelled. -/
def State.dropGradients (s : State) (gone : BitVec 32 → Bool) : State :=
  let mark : Nat × GradSlot → Nat × GradSlot := fun x => if gone x.2.step then (x.1, { x.2 with retire := true }) else x
  { s with wort.inj := s.wort.inj.map (fun x => (x.1, x.2.map mark)),
           wort.contrib := s.wort.contrib.map (fun x => (x.1, x.2.filter (fun c => !gone c.step))), wort.tally := [],
           wort.parked := s.wort.parked.map (fun x => (x.1, x.2.filter (fun y =>
             !((s.wort.inj.get [] x.1).any (fun z => z.1 == y.n && gone z.2.step))))) }

/-- R81, R134, R349: what reads generation `old` of the later steps reads `new` from now on. -/
def State.carryGen (st : BitVec 32) (old new : BitVec 16) (s : State) : State :=
  let fix : Nat × Ctx → Nat × Ctx := fun c =>
    (c.1, { c.2 with conv := c.2.conv.map (·.regen old new), ret := c.2.ret.map (·.regen st old new) })
  let turn : LiveStep → LiveStep := fun y => if y.gen == old then { y with gen := new } else y
  let s := { s with host.ctxs := s.host.ctxs.map fix, steps.closed := s.steps.closed.map turn,
                    steps.open_ := s.steps.open_.map turn }
  let s := (s.conv.stn.map (·.1)).foldl (State.carryAt old new) s
  (s.conv.inj.map (·.1)).foldl (State.carryInjector old new) s

/-- The discard of a step. The later steps, one or two, fall back by one generation. A step that has its final verdict and
waits for DECIDE_REV while a later one is discarded (R132) keeps its place and its PENDING blocks. -/
def State.discardStep (s : State) (x : LiveStep) (origin cause decideRev : Nat) : State :=
  let old := x.gen + 1
  let waits := s.steps.deciding.any (fun d => d.step != x.step)
  let later := (s.steps.live.filter (fun y => y.gen == old || y.gen == old + 1)).map (·.step)
  let s := s.onKilns (fun _ k =>
    let y := k.discard x.step old (origin == 1)
    if waits then { y with pending := k.pending, undone := k.undone } else y)
  let s := s.dropGradients (fun st => st == x.step || later.contains st)
  let s := ({ s with steps.deciding := if waits then s.steps.deciding else none } : State).carryGen x.step old x.gen
  let s := s.carryGen x.step (old + 1) old
  let s := (s.mergeCounts x.step false).discardSpec (fun c => c.kind == 1 && c.object == x.step)
  (s.verdictEvent x 2 origin cause decideRev).settleApplies

/-- VERDICT_DECISION (R128, R551) at the boundary of revolution `r`; slot 1 returns to kind 0x00 (R125). -/
def State.decideVerdict (s : State) (r : Nat) : State :=
  match s.steps.deciding, s.verdict.held with
  | some x, some v =>
    if v.step == x.step && verdictFinal v && decide (v.decideRev.toNat ≤ r) then
      let s := if v.decideRev.toNat < r then s.bump 0x30144 0 else s
      let s := if v.state = 1 then s.commitStep x v.decideRev.toNat
        else s.discardStep x (if x.aborted then 2 else 0) v.cause.toNat v.decideRev.toNat
      let s : State := { s with verdict.decided := some x.step, verdict.lastDecide := r }
      if s.verdict.slot1.step == x.step then { s with verdict.slot1 := {}, verdict.kept := none, verdict.crcBad := false } else s
    else s
  | _, _ => s

/-! ### Unloading (R66, R107, R162, R327, R401) -/

/-- The update map goes: its object references are dropped, and its working copies are not written. -/
def State.unloadUpd (s : State) (k : Nat) : State :=
  let objs := ((s.ctx? k).bind (·.upd)).elim [] (fun (u : UpdMap) => u.objs)
  let s := s.onCtx k (fun c => { c with upd := c.nextUpd, nextUpd := none })
  objs.foldl State.dropObj (s.onKilns (fun _ x => { x with jobs := x.jobs.filter (fun j => j.ctx != k) }))

/-- The return program goes, and with it the update map: its gradient slots are retired at their next pass and are not
updated. -/
def State.unloadRet (s : State) (k : Nat) : State :=
  let mark : Nat × GradSlot → Nat × GradSlot := fun x => if x.2.ctx == k then (x.1, { x.2 with retire := true }) else x
  let s := { s with wort.inj := s.wort.inj.map (fun (x : Nat × List (Nat × GradSlot)) => (x.1, x.2.map mark)),
                    wort.contrib := s.wort.contrib.map (fun (x : Nat × List Contribution) =>
                      (x.1, x.2.filter (fun c => c.ctx != k))) }
  let s := s.onKilns (fun _ x => { x with input := x.input.filter (fun t => t.ctx != k), park := x.park.filter (fun t => t.ctx != k) })
  (s.onCtx k (fun c => { c with ret := c.nextRet, nextRet := none })).unloadUpd k

/-- The conveyor program goes: pending entries are cancelled, its slots are retired at their next pass, the tie tables
of the context's clusters are cleared. DESIGN CHOICE: weight-cell buffers that are READY keep their tile and its uses
(log entry 108). -/
def State.unloadConv (s : State) (k : Nat) : State :=
  let s := s.cancelLatches (fun c _ => c == k) false
  let mark : Nat × InjSlot → Nat × InjSlot := fun x => if x.2.ctx == k then (x.1, { x.2 with retire := true, again := none }) else x
  let inj : Injector → Injector := fun x =>
    { x with filled := x.filled.map mark, staged := x.staged.filter (fun y => y.ctx != k), again := x.again.filter (fun a => a.ctx != k) }
  let tie : Nat × Cluster → Nat × Cluster := fun x => if x.2.ctx == some k then (x.1, { x.2 with tie := [] }) else x
  let s := { s with conv.inj := s.conv.inj.map (fun (x : Nat × Injector) => (x.1, inj x.2)), clusters := s.clusters.map tie }
  let objs := ((s.ctx? k).bind (·.conv)).elim [] (fun (p : ConvProg) => p.objs)
  let s := s.onCtx k (fun c => { c with conv := c.nextConv, nextConv := none })
  (objs.foldl State.dropObj s).unloadRet k

/-- The unloads of a context that take effect now; CONVEYOR_UNLOAD commands complete. -/
def State.unloadNow (s : State) (k : Nat) : State :=
  match s.ctx? k with
  | none => s
  | some c =>
    let s := if c.conv.any (·.unload) then s.unloadConv k
      else if c.ret.any (·.unload) then s.unloadRet k
      else if c.upd.any (·.unload) then s.unloadUpd k
      else s
    c.unloadCmds.foldl (fun t r => t.finish r 0 0) (s.onCtx k (fun c => { c with unloadCmds := [] }))

/-- PROGRAM_UNLOAD_EFFECT of every context: twice, since a program that waited may be unloaded as well. -/
def State.unloadAll (s : State) : State :=
  let ks := s.host.ctxs.map (·.1)
  (ks.foldl State.unloadNow (ks.foldl State.unloadNow s)).settleAll

/-! ### The start of a step (R66, R96, R107, R148, R327, R354) -/

def ConvProg.start (st : BitVec 32) (r : Nat) (gen : BitVec 16) (p : ConvProg) : ConvProg :=
  { p with runs := (p.runs ++ [({ step := st, startRev := r, gen := gen } : ConvRun)]).drop (p.runs.length - 1) }

def RetProg.start (st : BitVec 32) (r : Nat) (gen : BitVec 16) (p : RetProg) : RetProg :=
  { p with runs := (p.runs ++ [({ step := st, startRev := r, gen := gen } : RetRun)]).drop (p.runs.length - 1) }

/-- R327: a map starts with the next step that opens behind its loading. -/
def UpdMap.startUnless (st : BitVec 32) (u : UpdMap) : UpdMap := if u.skip = some st then u else { u with waits := false }

/-- R327: an update map that waits behind another takes its place; the old one's object references are dropped. -/
def State.turnMap (st : BitVec 32) (s : State) (k : Nat) : State :=
  match s.ctx? k with
  | none => s
  | some c =>
    if c.nextUpd.any (fun u => u.skip != some st) && c.upd.any (fun u => !u.unload) then
      (c.upd.elim [] (fun (u : UpdMap) => u.objs)).foldl State.dropObj (s.putCtx k { c with upd := c.nextUpd, nextUpd := none })
    else s

/-- A program loaded behind the STEP_OPEN of a step waits for the next one (R66). -/
def ConvProg.startUnless (st : BitVec 32) (r : Nat) (gen : BitVec 16) (p : ConvProg) : ConvProg :=
  if p.skip = some st then p else p.start st r gen

def RetProg.startUnless (st : BitVec 32) (r : Nat) (gen : BitVec 16) (p : RetProg) : RetProg :=
  if p.skip = some st then p else p.start st r gen

/-- The step whose STEP_OPEN has executed and that has not started yet. -/
def Steps.opened (t : Steps) : Option (BitVec 32) := (t.open_.filter (fun x => x.startRev.isNone)).map (·.step)

/-- Every loaded program starts in revolution `r`; in an evaluation window the return programs rest. -/
def State.startStep (s : State) (st : BitVec 32) (r : Nat) : State :=
  let gen := ((s.stepOf st).map (·.gen)).getD s.steps.gen
  let go : Nat × Ctx → Nat × Ctx := fun x =>
    (x.1, { x.2 with conv := x.2.conv.map (·.startUnless st r gen),
                     ret := if st = noStep then x.2.ret else x.2.ret.map (·.startUnless st r gen),
                     upd := if st = noStep then x.2.upd else x.2.upd.map (·.startUnless st) })
  let s := if st = noStep then s else (s.host.ctxs.map (·.1)).foldl (State.turnMap st) s
  let s := { s with host.ctxs := s.host.ctxs.map go, conv.namedStep := none, conv.stepReady := false, conv.allReady := false,
                    cores := s.cores.map (fun (x : Nat × Core) => (x.1, { x.2 with lost := [] })) }
  if st = noStep then
    let reqs := s.steps.evalReq
    reqs.foldl (fun t c => t.finish c 0 0)
      { s with steps.evalWindow := true, steps.evalStart := some r, steps.evalReq := [] }
  else s.onStep st (fun x => { x with startRev := some r })

/-! ### SPAN_BROKEN (R95, R132) -/

/-- A step without a final verdict fails. An abort of it that has not taken effect finds its verdict final (R345). -/
def State.failBroken (s : State) (x : LiveStep) : State :=
  let x := (s.stepOf x.step).getD x
  let t := x.abortPending.foldl (fun t r => t.illegalCmd r 5) ((s.bump 0x30141 0).discardStep x 1 0 0)
  let drop : Option LiveStep → Option LiveStep := fun o => if o.any (fun y => y.step == x.step) then none else o
  { t with steps.closed := drop t.steps.closed, steps.open_ := drop t.steps.open_,
           steps.lastFinal := some (x.step, 2, 0), steps.brokenStep := if s.steps.brokenStep.isSome then s.steps.brokenStep else some (x.step, s.stepDone x) }

/-- SPAN_BROKEN: the conveyors stop with what they carry, every pending entry is cancelled, steps without a final verdict
fail. Cause 0: no slot at UP or a lost link; cause 1: the marker did not return. DESIGN CHOICE: a CONVEYOR_HALT that waits
goes on waiting (log entry 57). -/
def State.breakSpan (s : State) (cause : Nat) : State :=
  let s := s.cancelLatches (fun _ _ => true) true
  let s := { s with conv.state := .broken, conv.slots := [], conv.halt := none, conv.entering := none, wort.slots := [],
                    wort.inj := [], wort.parked := [], wort.contrib := [], wort.tally := [], verdict.slot1 := {},
                    verdict.kept := none }
  let clear : Nat × Injector → Nat × Injector := fun x => (x.1, { x.2 with filled := [], again := [] })
  let s := { s with conv.inj := s.conv.inj.map clear, conv.haltRequested := false, conv.haltOwn := false }
  let s := { s.onKilns (fun _ k => { k with undone := [] }) with steps.brokenStep := none }
  let s := s.steps.live.foldl State.failBroken s
  s.caskPost 0x0304 (source 0 0) (leBytes 128 (packFields [(8, cause), (32, s.steps.lastCommitted.toNat)]))

end Sys2Proof.Machine
end

