-- ==== Sys2Proof/Machine/Programs.lean ====
section
/-!
DEFINITION. The programs of a context: conveyor program (R65 to R71, Tables 3.6 to 3.9), return program (R107 to R113,
Tables 4.3 to 4.6) and update map (R327, R328, Tables 10.4 to 10.6), read from memory and checked, and the commands
CONVEYOR_LOAD, CONVEYOR_UNLOAD, RETURN_LOAD and UPDATE_LOAD.
-/

namespace Sys2Proof.Machine

/-! ### Reading -/

/-- Record `i` of `w` bytes from byte `off` of a program. -/
def recordAt (b : Bytes) (off w i : Nat) : Nat := leNat ((b.drop (off + w * i)).take w)

def recordsAt (b : Bytes) (off n : Nat) : List Nat := (List.range n).map (recordAt b off 32)

/-- The list is in nondecreasing order of `key`, compared field by field. -/
def lexLe : List Nat → List Nat → Bool
  | [], _ => true
  | _, [] => true
  | a :: r, b :: t => decide (a < b) || (a == b && lexLe r t)

def sortedBy {α : Type} (key : α → List Nat) : List α → Bool
  | [] => true
  | [_] => true
  | x :: y :: r => lexLe (key x) (key y) && sortedBy key (y :: r)

/-- Two different positions of a list that `p` relates. -/
def anyPair {α : Type} (p : α → α → Bool) : List α → Bool
  | [] => false
  | x :: r => r.any (fun y => p x y || p y x) || anyPair p r

/-- The lowest code whose check fails, 0 when none does. -/
def firstCode (l : List (Nat × Bool)) : Nat := ((l.find? (·.2)).map (·.1)).getD 0

/-- The station index of a program: 128 records of 8 bytes, the count in bits 31:0 and the first entry above (R67). -/
def indexAt (b : Bytes) (off : Nat) : List (Nat × Nat) :=
  (List.range 128).map (fun i => let r := recordAt b off 8 i; (fld r 32 32, fld r 0 32))

/-! ### The conveyor program -/

def convEntryInj (n : Nat) : InjEntry :=
  { tileId := BitVec.ofNat 32 (fld n 224 32), revOffset := fld n 192 32, slot := fld n 175 17, genSel := fld n 173 2,
    residency := fld n 161 12, shared := bit n 160, format := BitVec.ofNat 8 (fld n 152 8), orient := bit n 151,
    pgroup := BitVec.ofNat 12 (fld n 139 12), gristA := fld n 80 48, genExpl := BitVec.ofNat 16 (fld n 64 16) }

def convEntrySta (n : Nat) : StaEntry :=
  { tileId := BitVec.ofNat 32 (fld n 224 32), revOffset := fld n 192 32, slot := fld n 175 17, genSel := fld n 173 2,
    genExpl := BitVec.ofNat 16 (fld n 157 16), lstation := fld n 150 7, clusters := BitVec.ofNat 8 (fld n 142 8),
    cores := BitVec.ofNat 4 (fld n 138 4), uses := fld n 130 8, kind := fld n 128 2, scFirst := fld n 124 4,
    scTwo := bit n 123, scBlock := fld n 121 2, scDir := bit n 120, scTile := BitVec.ofNat 32 (fld n 88 32),
    sharedRef := bit n 87 }

/-- The program that the bytes spell, slots not yet assigned. -/
def parseConv (b : Bytes) : ConvProg :=
  let h := leNat (b.take 64)
  { spanN := fld h 464 8, slots := fld h 447 17, stations := fld h 440 7, stepRevs := fld h 320 32,
    inj := (recordsAt b (fld h 256 64) (fld h 384 32)).map convEntryInj,
    sta := (recordsAt b (fld h 128 64) (fld h 352 32)).map convEntrySta, map := [], index := indexAt b (fld h 192 64) }

/-- MAGIC and VERSION as the header gives them. -/
def badMagic (b : Bytes) (magic : Nat) : Bool :=
  let h := leNat (b.take 64)
  fld h 480 32 != magic || fld h 472 8 != 1

/-- The entries of a program lie within its bytes, each of 32 bytes; so does the station index, which is as long as 32 of
them. -/
def entriesFit (b : Bytes) (l : List (Nat × Nat)) : Bool := l.all (fun x => decide (x.1 + 32 * x.2 ≤ b.length))

def convEntriesFit (b : Bytes) : Bool :=
  let h := leNat (b.take 64)
  entriesFit b [(fld h 256 64, fld h 384 32), (fld h 128 64, fld h 352 32), (fld h 192 64, 32)]

/-- Table 3.3. -/
def convFormat (f : Nat) : Bool := (1 ≤ f && f ≤ 6) || f == 8 || f == 9 || f == 0x10

/-- Slots that the programs of other contexts of the virtual interface hold. -/
def State.convTaken (s : State) (k : Nat) : List Nat :=
  s.host.ctxs.flatMap (fun x => if x.1 ≠ k ∧ ctxVi x.1 = ctxVi k then
    (x.2.conv.elim [] (·.map)) ++ (x.2.nextConv.elim [] (·.map)) else [])

def State.convFree (s : State) (k : Nat) : List Nat :=
  let taken := s.convTaken k
  (s.slotsFor (ctxVi k)).filter (fun n => !taken.contains n)

/-- The object of two 4 KiB buffers that lie together in one grist-store object (R394, 0x3A, 0x55). -/
def State.gristObject (s : State) (k va : Nat) : Option Nat :=
  match s.oneObject k va 8192 with
  | some (ok, _) =>
    let exists_ : Bool := [va, va + 4096].all (fun a => (s.gristAt k a).any (fun p => s.fastExists p))
    if va % 4096 = 0 ∧ (s.host.objects.find? ok).any (fun o => o.kind == 1) ∧ exists_ then some ok else none
  | none => none

/-- R71, Table 3.9: the code that refuses the program, 0 for none. -/
def State.convCode (s : State) (k : Nat) (p : ConvProg) (magic : Bool) : Nat :=
  let v := ctxVi k
  let shared := s.obj 0x30011 0
  let stations := (s.stationsOf v).length
  let span : InjEntry → Nat × Nat := fun e => (e.revOffset, e.revOffset + e.residency)
  firstCode [
    (0x30, magic || p.slots == 0 || p.sta.any (fun e => decide (2 ≤ e.kind))),
    (0x31, !sortedBy (fun (e : InjEntry) => [e.revOffset, e.slot]) p.inj
      || !sortedBy (fun (e : StaEntry) => [e.lstation, e.revOffset, e.slot]) p.sta
      || p.inj.any (fun e => decide (p.stepRevs ≤ e.revOffset) || (!e.shared && decide (p.slots ≤ e.slot)))
      || p.sta.any (fun e => decide (p.stepRevs ≤ e.revOffset) || (!e.sharedRef && decide (p.slots ≤ e.slot)))),
    (0x32, decide ((s.convFree k).length < p.slots)),
    (0x33, decide (stations < p.stations + 1)
      || p.sta.any (fun e => decide (p.stations < e.lstation) || decide (stations ≤ e.lstation) || e.cores == 0)),
    (0x34, p.inj.any (fun e => decide (2 ≤ e.genSel)) || p.sta.any (fun e => decide (2 ≤ e.genSel))),
    (0x35, p.inj.any (fun e => !convFormat e.format.toNat)),
    (0x36, p.inj.any (fun e => e.shared && (v != 0 || e.genSel == 0 || decide (shared ≤ e.slot)))
      || p.sta.any (fun e => e.sharedRef && (s.obj 0x30012 v != 1 || e.genSel == 0 || decide (shared ≤ e.slot)))),
    (0x37, p.spanN != s.conv.span.n),
    (0x38, p.inj.any (fun e => e.residency == 0)),
    (0x39, anyPair (fun (a b : StaEntry) => a.lstation == b.lstation && a.revOffset == b.revOffset && a.slot == b.slot
        && a.sharedRef == b.sharedRef) p.sta
      || anyPair (fun (a b : InjEntry) => a.slot == b.slot && a.shared == b.shared && decide ((span a).1 < (span b).2)
        && decide ((span b).1 < (span a).2)) p.inj),
    (0x3A, p.inj.any (fun e => (s.gristObject k e.gristA).isNone)),
    (0x3B, p.sta.any (fun e => e.uses == 0))]

/-- A newly loaded program that replaces one: the old ones go at the next boundary. -/
def Ctx.replaceConv (c : Ctx) (p : ConvProg) : Ctx :=
  if c.conv.isSome then
    { c with conv := c.conv.map (fun x => { x with unload := true }), ret := c.ret.map (fun x => { x with unload := true }),
             upd := c.upd.map (fun x => { x with unload := true }), nextConv := some p, nextRet := none, nextUpd := none }
  else { c with conv := some p }

/-- A program that waited is given up: its object references are dropped. -/
def State.dropWaiting (s : State) (k : Nat) : State :=
  match s.ctx? k with
  | none => s
  | some c =>
    let objs := c.nextConv.elim [] (fun (p : ConvProg) => p.objs) ++ c.nextUpd.elim [] (fun (u : UpdMap) => u.objs)
    objs.foldl State.dropObj (s.putCtx k { c with nextConv := none, nextRet := none, nextUpd := none })

/-- A return program that waited is given up, and the update map behind it. -/
def State.dropWaitingRet (s : State) (k : Nat) : State :=
  match s.ctx? k with
  | none => s
  | some c =>
    (c.nextUpd.elim [] (fun (u : UpdMap) => u.objs)).foldl State.dropObj (s.putCtx k { c with nextRet := none, nextUpd := none })

/-- An unload takes effect at a revolution boundary; while the conveyor stands, it stands at one. -/
def State.unloadSoon (s : State) (k : Nat) : State := if s.moving then s else (s.unloadNow k).settleAll

/-- The objects that the grist tiles of a conveyor program lie in (R399). -/
def State.convObjects (s : State) (k : Nat) (p : ConvProg) : List Nat :=
  (p.inj.filterMap (fun e => s.gristObject k e.gristA)).dedup

/-- CONVEYOR_LOAD. -/
def execConveyorLoad (r : CmdRef) (s : State) : Out :=
  runCmd 0x20 r (fun c k t =>
    let n := c.arg 64 32
    if !t.inRange k (c.arg 0 48) n .load then t.finish r 5 0
    else
      let b := t.readVirt k (c.arg 0 48) n
      if badMagic b 0x47524953 then t.finish r 0x30 0
      else if !convEntriesFit b then t.finish r 5 0
      else
        let p := parseConv b
        let code := t.convCode k p false
        if code ≠ 0 then t.finish r code 0
        else
          let objs := t.convObjects k p
          if objs.any t.objStale then t.finish r 2 0 else
          let p := { p with map := (t.convFree k).take p.slots, cookie := BitVec.ofNat 32 c.cookie, objs := objs,
                              skip := t.steps.opened }
          let t := objs.foldl State.takeObj (t.dropWaiting k)
          ((t.onCtx k (fun x => x.replaceConv p)).unloadSoon k).finish r 0 0) s

/-- CONVEYOR_UNLOAD: it completes when the unload has taken effect. -/
def execConveyorUnload (r : CmdRef) (s : State) : Out :=
  runCmd 0x21 r (fun _ k t =>
    if ((t.ctx? k).bind (·.conv)).isNone then t.finish r 0 0
    else
      let t := (t.dropWaiting k).onCtx k (fun x => { x.unloadAll with unloadCmds := x.unloadCmds ++ [r] })
      (t.keepBusy r).unloadSoon k) s

/-! ### The return program -/

def retGate (n : Nat) : GateEntry :=
  { tileId := BitVec.ofNat 32 (fld n 224 32), revOffset := fld n 192 32, slot := fld n 175 17, kiln := fld n 172 3,
    pgroup := BitVec.ofNat 12 (fld n 160 12), format := BitVec.ofNat 8 (fld n 152 8), owner := fld n 146 6,
    kind := fld n 144 2, waitRevs := fld n 132 12 }

def retStation (n : Nat) : RstaEntry :=
  { tileId := BitVec.ofNat 32 (fld n 224 32), revOffset := fld n 192 32, slot := fld n 175 17, lstation := fld n 168 7,
    clusters := BitVec.ofNat 8 (fld n 160 8), accAddr := fld n 149 11, accPitch := fld n 146 3,
    format := BitVec.ofNat 8 (fld n 138 8) }

def parseRet (b : Bytes) : RetProg :=
  let h := leNat (b.take 64)
  { spanN := fld h 464 8, slots := fld h 447 17, replicated := bit h 446, member := fld h 440 6, stepRevs := fld h 320 32,
    gate := (recordsAt b (fld h 256 64) (fld h 384 32)).map retGate,
    rsta := (recordsAt b (fld h 128 64) (fld h 352 32)).map retStation, map := [], index := indexAt b (fld h 192 64) }

def State.retFree (s : State) (k : Nat) : List Nat :=
  let taken := s.host.ctxs.flatMap (fun x => if x.1 ≠ k ∧ ctxVi x.1 = ctxVi k then
    (x.2.ret.elim [] (·.map)) ++ (x.2.nextRet.elim [] (·.map)) else [])
  (s.wortFor (ctxVi k)).filter (fun n => !taken.contains n)

/-- Columns of a gradient tile: 32 in BF16, 16 in FP32. -/
def gradCols (format : BitVec 8) : Nat := if format = 4 then 32 else 16

def gradFormat (f : BitVec 8) : Bool := f == 4 || f == 6

/-- R112, Table 4.6, with the conveyor program that it goes with. -/
def State.retCode (s : State) (k : Nat) (p : RetProg) (conv : ConvProg) (magic : Bool) : Nat :=
  let stations := (s.stationsOf (ctxVi k)).length
  firstCode [
    (0x40, magic || p.slots == 0 || p.gate.any (fun e => decide (2 ≤ e.kind))),
    (0x41, !sortedBy (fun (e : GateEntry) => [e.revOffset, e.slot]) p.gate
      || !sortedBy (fun (e : RstaEntry) => [e.lstation, e.revOffset, e.slot]) p.rsta || p.stepRevs != conv.stepRevs
      || p.gate.any (fun e => decide (p.stepRevs ≤ e.revOffset) || decide (p.slots ≤ e.slot))
      || p.rsta.any (fun e => decide (p.stepRevs ≤ e.revOffset) || decide (p.slots ≤ e.slot))),
    (0x42, decide ((s.retFree k).length < p.slots)),
    (0x43, p.rsta.any (fun e => decide (stations ≤ e.lstation) || e.clusters == 0)),
    (0x44, p.gate.any (fun e => !gradFormat e.format) || p.rsta.any (fun e => !gradFormat e.format)),
    (0x45, p.spanN != s.conv.span.n || p.member != s.conv.span.index),
    (0x47, anyPair (fun (a b : GateEntry) => a.tileId == b.tileId || (a.slot == b.slot && a.revOffset == b.revOffset)) p.gate
      || anyPair (fun (a b : RstaEntry) => a.tileId == b.tileId && (a.lstation == b.lstation || a.format != b.format)) p.rsta
      || p.gate.any (fun g => p.rsta.any (fun e => g.tileId == e.tileId && (g.slot != e.slot || g.format != e.format)))),
    (0x48, (p.replicated && p.spanN == 1) || p.gate.any (fun e => decide (p.spanN ≤ e.owner)
      || (e.kind == 0 && e.owner != p.member) || (e.kind == 1 && (!p.replicated || e.owner == p.member)))),
    (0x49, p.gate.any (fun e => e.waitRevs == 0)),
    (0x4A, p.rsta.any (fun e => decide (e.accPitch < 2)
      || decide (524288 < e.accAddr * 256 + (gradCols e.format - 1) * (64 * 2 ^ e.accPitch) + 256)))]

def Ctx.replaceRet (c : Ctx) (p : RetProg) : Ctx :=
  if c.ret.isSome ∨ c.nextConv.isSome then
    { c with ret := c.ret.map (fun x => { x with unload := true }), upd := c.upd.map (fun x => { x with unload := true }),
             nextRet := some p, nextUpd := none }
  else { c with ret := some p }

/-- RETURN_LOAD. -/
def execReturnLoad (r : CmdRef) (s : State) : Out :=
  runCmd 0x22 r (fun c k t =>
    let n := c.arg 64 32
    match (t.ctx? k).bind (·.convNow) with
    | none => t.finish r 0x46 0
    | some conv =>
      if !t.inRange k (c.arg 0 48) n .load then t.finish r 5 0
      else
        let b := t.readVirt k (c.arg 0 48) n
        if badMagic b 0x574F5254 then t.finish r 0x40 0
        else if !convEntriesFit b then t.finish r 5 0
        else
          let p := parseRet b
          let code := t.retCode k p conv false
          if code ≠ 0 then t.finish r code 0
          else
            let p := { p with map := (t.retFree k).take p.slots, skip := conv.skip }
            let gone := ((t.ctx? k).bind (·.nextUpd)).elim [] (fun (u : UpdMap) => u.objs)
            let t := gone.foldl State.dropObj (t.onCtx k (fun x => x.replaceRet p))
            (t.unloadSoon k).finish r 0 0) s

/-! ### The update map -/

def mapEntryOf (n : Nat) : MapEntry :=
  { tileId := BitVec.ofNat 32 (fld n 224 32), master := fld n 192 32, gristA := fld n 144 48, scaleA := fld n 96 48,
    exportA := fld n 48 48, partN0 := fld n 41 7, parts := fld n 37 4, scFirst := fld n 33 4 }

/-- The gate entry of a gradient tile. -/
def RetProg.gateOf (p : RetProg) (tile : BitVec 32) : Option GateEntry := p.gate.find? (fun g => g.tileId == tile)

/-- Master blocks of a gradient tile: two for BF16, one for FP32 (R327). -/
def gradBlocks (format : BitVec 8) : Nat := if format = 4 then 2 else 1

/-- R328, Table 10.6, behind NO_RETURN, UMAP_FORMAT and MAP_SIZE. -/
def State.updCode (s : State) (k : Nat) (p : RetProg) (l : List MapEntry) : Nat :=
  let blocks := fld (s.obj 0x30021 (ctxVi k)) 0 25
  let gate : MapEntry → GateEntry := fun e =>
    (p.gateOf e.tileId).getD ⟨0, 0, 0, 0, 0, 4, 0, 0, 0⟩
  let last : MapEntry → Nat := fun e => e.master + gradBlocks (gate e).format
  let exportOk : Nat → Bool := fun va => va == 0 || (va % 8192 == 0 && (s.oneObject k va 8192).isSome)
  firstCode [
    (0x51, !sortedBy (fun (e : MapEntry) => [e.tileId.toNat]) l || anyPair (fun (a b : MapEntry) => a.tileId == b.tileId) l),
    (0x53, p.gate.any (fun g => !l.any (fun e => e.tileId == g.tileId)) || l.any (fun e => (p.gateOf e.tileId).isNone)),
    (0x54, l.any (fun e => decide (blocks < last e)) || anyPair (fun (a b : MapEntry) =>
      (gate a).kiln == (gate b).kiln && decide (a.master < last b) && decide (b.master < last a)) l),
    (0x55, l.any (fun e => (s.gristObject k e.gristA).isNone || (e.scaleA != 0 && (s.gristObject k e.scaleA).isNone)
      || !exportOk e.exportA)),
    (0x56, l.any (fun e => e.parts == 0 || decide (8 < e.parts) || e.partN0 % gradCols (gate e).format != 0
        || (l.filter (fun f => f.gristA == e.gristA)).length != e.parts)
      || anyPair (fun (a b : MapEntry) => a.gristA == b.gristA && ((gate a).kiln != (gate b).kiln || a.parts != b.parts)) l)]

def Ctx.replaceUpd (c : Ctx) (u : UpdMap) : Ctx :=
  if c.upd.isSome ∨ c.nextRet.isSome then { c with nextUpd := some u } else { c with upd := some u }

/-- The objects that the entries of an update map name (R399). -/
def State.mapObjects (s : State) (k : Nat) (l : List MapEntry) : List Nat :=
  let named : MapEntry → List Nat := fun e => [s.gristObject k e.gristA,
    (if e.scaleA = 0 then none else s.gristObject k e.scaleA),
    (if e.exportA = 0 then none else (s.oneObject k e.exportA 8192).map (·.1))].filterMap id
  (l.flatMap named).dedup

/-- UPDATE_LOAD. A map that replaces another starts with the next step. -/
def execUpdateLoad (r : CmdRef) (s : State) : Out :=
  runCmd 0x23 r (fun c k t =>
    let n := c.arg 64 32
    match (t.ctx? k).bind (·.retNow) with
    | none => t.finish r 0x52 0
    | some p =>
      if !t.inRange k (c.arg 0 48) n .load then t.finish r 5 0
      else
        let b := t.readVirt k (c.arg 0 48) n
        let h := leNat (b.take 64)
        if badMagic b 0x4B494C4E then t.finish r 0x50 0
        else if 16777216 < fld h 416 32 then t.finish r 0x57 0
        else if !entriesFit b [(fld h 320 64, fld h 416 32)] then t.finish r 5 0
        else
          let l := (recordsAt b (fld h 320 64) (fld h 416 32)).map mapEntryOf
          let code := t.updCode k p l
          if code ≠ 0 then t.finish r code 0
          else
            let objs := t.mapObjects k l
            if objs.any t.objStale then t.finish r 2 0 else
            let gone := ((t.ctx? k).bind (·.nextUpd)).elim [] (fun (u : UpdMap) => u.objs)
            let t := gone.foldl State.dropObj (objs.foldl State.takeObj t)
            (t.onCtx k (fun x => x.replaceUpd { entries := l, objs := objs, waits := true, skip := t.steps.opened })).finish r 0 0) s

end Sys2Proof.Machine
end

