-- ==== Sys2Proof/Machine/Conveyor.lean ====
section
/-!
DEFINITION. The Pace and the conveyor controller (R49 to R51, R58, R84 to R96, R99, R102, R125, R133, R354): revolution
boundaries, markers, halts, the conveyor clock, span formation and breaks, and the shared grant.
-/

namespace Sys2Proof.Machine

/-- This member writes the markers and opens verdict collection. -/
def Conv.controls (c : Conv) : Bool := c.span.n == 1 || c.span.index == c.span.master

/-! ### The conveyor clock (R49, R87, R90, R92, R100) -/

/-- m of the slowest compute die. -/
def State.slowestDie (s : State) : Nat := ((List.range 8).map (fun d => s.power.m.get 64 d)).foldl min 64

/-- The m at which the conveyor clock runs: that of the slowest die, within the range of the mode. -/
def State.convClock (s : State) : Nat :=
  let m := s.slowestDie
  if s.conv.span.n = 1 then max 16 m
  else if s.conv.k2 then min 32 (max 16 m) else max 32 m

/-- R90: the depth of a delay line in 1/1,000 of a slot, for a link latency in units of 10 ps; the line holds 768 slots. -/
def delayDepth (m k latency : Nat) : Nat :=
  min 768000 (1200000 - 8192000000 / (286 * m * k) - latency * 1000 / (260 * k))

def State.setDelays (s : State) : State :=
  if s.conv.span.n = 1 then { s with conv.upDelay := 0, conv.downDelay := 0 }
  else
    let k := if s.conv.k2 then 2 else 1
    { s with conv.upDelay := delayDepth s.conv.m k s.conv.upNbr.latency10ps,
             conv.downDelay := delayDepth s.conv.m k s.conv.downNbr.latency10ps }

/-- The conveyor clock takes the rate that R49 and R92 give now, and the delay lines follow it (R90, R100). -/
def State.setClock (s : State) : State := ({ s with conv.m := s.convClock } : State).setDelays

/-- CONVEYOR_CLOCK_CHANGE, at a slot boundary (R87). -/
def execConveyorClockChange (m : Fin 65) (s : State) : Out := if m.val = s.convClock then .next s.setClock else .next s

/-! ### Revolution boundaries -/

/-- R99: pending entries with SHARED_REF = 1 of the virtual interfaces that lost the grant. -/
def State.cancelShared (s : State) : State :=
  if s.conv.withdrawn.isEmpty then s
  else
    let hit : Nat → StaEntry → Bool := fun k e => s.conv.withdrawn.contains (ctxVi k) && e.sharedRef
    { s.cancelLatches hit true with conv.withdrawn := [] }

/-- An evaluation window may start: one is asked for, no step is live, and the last decision has been carried out. -/
def Steps.evalDue (t : Steps) : Bool := !t.evalReq.isEmpty && t.undecided.isEmpty && !t.evalWindow

/-- R96, R354: the controller names the step or window that starts; in module-local mode it starts at this boundary, in
span mode one revolution later, once the bits of every member are in. -/
def State.nameStep (s : State) (r : Nat) : State :=
  let due : Option (BitVec 32) := match s.steps.open_ with
    | some x => some x.step
    | none => if s.steps.evalDue then some noStep else none
  match due with
  | none => s
  | some st =>
    if s.conv.span.n = 1 then (if s.conv.stepReady then { s with conv.namedStep := some (st, r) } else s)
    else if s.conv.controls && s.conv.namedStep.isNone && s.conv.allReady then
      { s with conv.namedStep := some (st, r + 1), conv.allReady := false }
    else s

/-- A named step whose start revolution has come starts. -/
def State.startNamed (s : State) (r : Nat) : State :=
  match s.conv.namedStep with
  | some (st, q) => if q ≤ r then s.startStep st r else s
  | none => s

/-- VERDICT_OPEN (R125). The controller writes the summary as slot 1 of revolution `r` passes position 0. -/
def State.openVerdict (s : State) (r : Nat) : State :=
  if !s.conv.controls || s.verdict.slot1.collecting || s.steps.deciding.isSome
      || (s.verdict.decided.isSome && decide (r ≤ s.verdict.lastDecide)) then s
  else match s.steps.live.find? (fun x => !x.collecting && x.startRev.any (fun q => decide (q ≤ r))) with
    | none => s
    | some x =>
      let v : Verdict := { collecting := true, step := x.step, spanN := BitVec.ofNat 8 s.conv.span.n,
                           threshold := BitVec.ofNat 32 (s.obj 0x30016 0) }
      ({ s with verdict.slot1 := v, verdict.kept := some v, verdict.crcBad := false, verdict.openRev := r } : State).onStep x.step
        (fun y => { y with collecting := true })

/-- R84: a halt request is announced in the marker of this boundary. -/
def State.announceHalt (s : State) (r : Nat) : State :=
  if s.conv.controls && s.conv.haltRequested && s.conv.halt.isNone then
    { s with conv.halt := some (r, r + 2), conv.state := .noticed, conv.haltRequested := false }
  else s

/-- R58, R102: fresh markers of the controller. -/
def State.freshMarkers (s : State) (r : Nat) : State :=
  if !s.conv.controls then s
  else
    let c := s.conv
    let old := c.marker
    let step : BitVec 32 × BitVec 48 := match c.namedStep with
      | some (st, q) => (st, BitVec.ofNat 48 q)
      | none => (old.step, old.stepRev)
    let m : Marker :=
      { rev := BitVec.ofNat 48 r, spanN := BitVec.ofNat 8 c.span.n, master := BitVec.ofNat 6 c.span.master, k2 := c.k2,
        k2Next := c.k2Next, spanId := if c.span.n = 1 then 0 else c.span.spanId, haltNotice := c.halt.isSome,
        haltRev := BitVec.ofNat 48 (c.halt.elim 0 (·.2)), step := step.1, stepRev := step.2 }
    { s with conv.marker := m, conv.markerBad := false, wort.markerBad := false,
             wort.marker := { rev := BitVec.ofNat 48 r, spanId := m.spanId, spanN := 0 } }

/-- R85: the conveyor halts at HALT_REV:0, and the halt commands complete. -/
def State.haltNow (s : State) : State :=
  s.conv.haltCmds.foldl (fun t r => t.finish r 0 0)
    { s with conv.state := .halted, conv.haltCmds := [], conv.haltOwn := false, conv.haltRequested := false }

/-- Live lanes of a span connector, 0 UP and 1 DOWN. -/
def State.liveLanes (s : State) (dir : Nat) : Nat := 64 - 4 * (s.health.spanSpared.get [] dir).length

/-- A connector that stops forwarding: fewer than 32 live lanes (R472). -/
def State.connectorDead (s : State) (dir : Nat) : Bool := s.conv.span.n != 1 && decide (s.liveLanes dir < 32)

/-- A lane group of a connector is out of use at both ends; the end whose lane had degraded writes SPAN_LANE_SPARED. A
connector left with fewer than 32 live lanes stops forwarding. -/
def State.spareGroup (dir : Nat) (s : State) (g : Nat) : State :=
  let degraded := s.health.spanDegraded.get [] dir
  let spared := insertNat g (s.health.spanSpared.get [] dir)
  let h := { s.health with spanSpared := Bank.set s.health.spanSpared [] dir spared,
                           spanDegraded := Bank.set s.health.spanDegraded [] dir (eraseNat g degraded) }
  let s : State := { s with health := h }
  let live : Nat := s.liveLanes dir
  let s : State := if degraded.contains g then s.caskPost 0x0306 (source 7 (256 * dir + g)) (leBytes 128 live) else s
  if (32 : Nat) ≤ live then s
  else if dir = 0 then { s with conv.upNbr.trained := false } else { s with conv.downNbr.trained := false }

/-- The lane groups that were named in a link control block are out of use from this boundary on (R472). -/
def State.spareNamed (s : State) : State :=
  let t := s.health.spanNamed.foldl (fun t x => x.2.foldl (State.spareGroup x.1) t) s
  { t with health.spanNamed := [] }

/-- What every member does at the boundary at which revolution `r` begins. -/
def State.boundaryActions (s : State) (r : Nat) : State :=
  let s := ((s.decideVerdict r).cancelShared).unloadAll
  let s := (s.spareNamed.nameStep r).startNamed r
  if s.conv.halt.any (fun h => decide (h.2 ≤ r)) then ((s.openVerdict r).freshMarkers r).haltNow
  else ((s.openVerdict r).announceHalt r).freshMarkers r

/-- REVOLUTION_BOUNDARY. The multiplier is the one that the marker before this boundary announced (R91). A
member whose UP carries nothing starves before the boundary (R95, R472). -/
def execRevolutionBoundary (s : State) : Out :=
  let r := s.conv.rev + 1
  let go : State := { s with conv.rev := r, conv.acc := 0, conv.k2 := s.conv.marker.k2Next }
  let go := if go.conv.k2 = s.conv.k2 then go else go.setClock
  if s.moving then .next (if s.connectorDead 0 then s else go.boundaryActions r)
  else if s.conv.state == .forming && s.conv.controls && s.conv.upNbr.trained && s.conv.downNbr.trained then
    .next (go.freshMarkers r)
  else .next s

/-! ### Markers -/

/-- R92, R472, R514: the member needs the k = 2 regime. -/
def State.needsK2 (s : State) : Bool :=
  decide (s.slowestDie < 32) || s.power.forceSafe || s.health.spanDegraded.any (fun x => !x.2.isEmpty)
    || s.health.spanNamed.any (fun x => !x.2.isEmpty) || s.health.spanSpared.any (fun x => !x.2.isEmpty)

/-- R58: the STATUS byte that this member writes. -/
def State.ownStatus (s : State) : Byte :=
  let b : Bool → Nat → Nat := fun x w => if x then w else 0
  BitVec.ofNat 8 (1 + b s.power.brown 2 + b s.needsK2 4 + b s.conv.haltOwn 8 + b s.conv.stepReady 16)

def Marker1.withStatus (m : Marker) (i : Nat) (x : Byte) : Marker :=
  let l := m.status ++ List.replicate (64 - m.status.length) 0
  { m with status := l.set i x }

def statusOf (m : Marker) (i : Nat) : Byte := (m.status[i]?).getD 0

/-- R133 at Pace lock: a step that SPAN_BROKEN discarded here and a neighbour committed. -/
def State.rollForward (s : State) : Option State :=
  let wanted : BitVec 32 → Bool := fun st => s.conv.upNbr.lastCommitted == st || s.conv.downNbr.lastCommitted == st
  match s.steps.brokenStep with
  | some (st, complete) =>
    if !wanted st then some s
    else if complete then
      let t := s.onKilns (fun _ k => { k with activeB := flipIn k.activeB k.undone, undone := [] })
      some (({ t with steps.gen := t.steps.gen + 1, steps.lastCommitted := st, steps.brokenStep := none,
                      steps.lastFinal := some (st, 1, 0) } : State).bump 0x30142 0)
    else none
  | none => some s

/-- The place of this member behind the pace master (R90). -/
def Conv.behind (c : Conv) : Nat := (c.span.index + c.span.n - c.span.master) % c.span.n

/-- The member takes the Pace that the marker gives as it passes position 0 (R89, R90); the pace master keeps its own. -/
def Conv.joinPace (c : Conv) (m : Marker) : Conv :=
  if c.controls then c
  else { c with rev := m.rev.toNat, acc := 1200 * c.behind * 20800, k2 := m.k2, k2Next := m.k2Next }

/-- PACE_LOCK (R89). -/
def State.paceLock (s : State) (m : Marker) : State :=
  match s.rollForward with
  | none =>
    let st := s.steps.brokenStep.elim 0 (fun x => x.1.toNat)
    s.caskPost 0x0305 (source 0 0) (leBytes 128 st)
  | some t =>
    let before := t.pace
    let c := t.conv.span
    let t := { t with conv := { t.conv.joinPace m with locked := true, state := .running } }
    let t := { t.setClock with steps.next := none, steps.brokenStep := none }
    t.caskPost 0x0302 (source 0 0) (leBytes 128 (packFields [(32, c.spanId.toNat), (8, c.n), (8, c.index), (8, c.master),
      (64, before), (64, t.pace)]))

/-- A member that forms counts good markers; the fourth in a row gives Pace lock, once both neighbours have exchanged their
identities with it. -/
def State.countMarker (s : State) (m : Marker) : State :=
  if m.spanId ≠ s.conv.span.spanId then { s with conv.goodMarkers := 0, conv.lastMarker := none }
  else
    let n := if s.conv.lastMarker = some (m.rev.toNat - 1) then s.conv.goodMarkers + 1 else 1
    let s := { s with conv.goodMarkers := n, conv.lastMarker := some m.rev.toNat }
    if 4 ≤ n ∧ s.conv.upNbr.trained ∧ s.conv.downNbr.trained then { s with conv.goodMarkers := 0 }.paceLock m else s

/-- PACE_DISAGREE (R58). -/
def State.paceDisagree (s : State) (src kept marker : Nat) : State :=
  s.caskPost 0x0301 src (leBytes 128 (packFields [(64, kept), (64, marker)]))

/-- A running member takes what the marker says: its count, K2_NEXT, the named step and the halt notice. -/
def State.takeMarker (s : State) (m : Marker) : State :=
  let s := if s.conv.mismatch && m.rev.toNat ≠ s.conv.rev then s.paceDisagree (source 0 0) s.conv.rev m.rev.toNat else s
  let fresh := s.conv.marker.step ≠ m.step || s.conv.marker.stepRev ≠ m.stepRev
  let named := if fresh && decide (s.conv.rev ≤ m.stepRev.toNat) then some (m.step, m.stepRev.toNat) else s.conv.namedStep
  let c := { s.conv with rev := m.rev.toNat, mismatch := false, k2Next := m.k2Next, namedStep := named }
  let c := if m.haltNotice && c.halt.isNone then
      { c with halt := some (m.rev.toNat, m.haltRev.toNat), state := .noticed, haltOwn := false } else c
  { s with conv := c }

/-- The member writes its STATUS byte into the marker that passes position 0. -/
def State.passMarker (s : State) (m : Marker) : State :=
  let m := Marker1.withStatus m s.conv.span.index s.ownStatus
  { s with conv.marker := m, conv.markerBad := false, conv.haltOwn := s.conv.haltOwn && !m.haltNotice }

/-- MEMBER_MARKER_PASS: the marker at position 0. The controller's is the one that it wrote, another member's the one that
entered at UP; one that fails its CRC passes unchanged. -/
def execMemberMarkerPass (crcFail : Bool) (s : State) : Out :=
  let forming := s.conv.state == .forming
  if !s.moving && !forming then .next s
  else if s.conv.controls then .next (s.passMarker s.conv.marker)
  else match s.conv.entering with
    | none => .next s
    | some (m, bad) =>
      let s := { s with conv.entering := none }
      if bad || crcFail then
        .next { s with conv.goodMarkers := 0, conv.lastMarker := none, conv.mismatch := true, conv.markerBad := true }
      else .next ((if forming then s.countMarker m else s.takeMarker m).passMarker m)

/-- What the pace master reads from the STATUS bytes of the returned marker (R84, R91, R96). -/
def State.readStatusBytes (s : State) (m : Marker) : State :=
  let l := (List.range s.conv.span.n).map (statusOf m)
  let slow := l.any (fun b => b.getLsbD 1 || b.getLsbD 2)
  let quiet := if slow then 0 else s.conv.quiet + 1
  let k2Next := if slow then true else if 2 ≤ quiet then false else s.conv.k2Next
  { s with conv.quiet := quiet, conv.k2Next := k2Next,
           conv.haltRequested := s.conv.haltRequested || (s.conv.halt.isNone && l.any (fun b => b.getLsbD 3)),
           conv.allReady := l.all (fun b => b.getLsbD 4) && s.conv.stepReady }

/-- MARKER_RETURN_MASTER (R84, R89, R91, R96): the marker that entered at UP has gone round the span. -/
def execMarkerReturnMaster (s : State) : Out :=
  let forming := s.conv.state == .forming
  if s.conv.span.n = 1 || !s.conv.controls || !(s.moving || forming) then .next s
  else match s.conv.entering with
    | none => .next s
    | some (m, bad) =>
      let s := { s with conv.entering := none }
      if bad then .next (if forming then { s with conv.goodMarkers := 0, conv.lastMarker := none } else s)
      else
        let s := s.readStatusBytes m
        .next (if forming then s.countMarker m else { s with conv.lastMarker := some m.rev.toNat })

/-- STATION_MARKER_PASS (R58, R85): the marker that passed position 0 last. -/
def execStationMarkerPass (st : Fin 128) (crcFail : Bool) (s : State) : Out :=
  let x := s.station st.val
  let m := s.conv.marker
  if !s.moving then .next s
  else if crcFail || s.conv.markerBad then .next (s.putStation st.val { x with keptRev := x.keptRev + 1, unsure := true })
  else
    let s := if x.unsure && m.rev.toNat ≠ x.keptRev + 1 then s.paceDisagree (source 9 st.val) (x.keptRev + 1) m.rev.toNat else s
    .next (s.putStation st.val { x with keptRev := m.rev.toNat, unsure := false, noticed := x.noticed || m.haltNotice })

/-! ### Halt and resume (R84, R86) -/

/-- A halt is asked for, by CONVEYOR_HALT or by the Maltster. -/
def State.askHalt (s : State) : State :=
  if s.conv.span.n = 1 then { s with conv.haltRequested := true } else { s with conv.haltOwn := true }

/-- CONVEYOR_HALT. A conveyor that does not move has nothing to halt. -/
def execConveyorHalt (r : CmdRef) (s : State) : Out :=
  runCmd 0x24 r (fun _ _ t =>
    match t.conv.state with
    | .running => (({ t.askHalt with conv.haltCmds := t.conv.haltCmds ++ [r] } : State).keepBusy r)
    | .noticed => (({ t with conv.haltCmds := t.conv.haltCmds ++ [r] } : State).keepBusy r)
    | _ => t.finish r 0 0) s

/-- R86: the step start revolutions of all programs move on by `d`, those of steps that start at the resume excepted. -/
def State.shiftRuns (s : State) (h d : Nat) : State :=
  let at_ : Nat → Nat := fun r => if r < h then r + d else r
  let conv : ConvProg → ConvProg := fun p => { p with runs := p.runs.map (fun r => { r with startRev := at_ r.startRev }) }
  let ret : RetProg → RetProg := fun p => { p with runs := p.runs.map (fun r => { r with startRev := at_ r.startRev }) }
  let f : Nat × Ctx → Nat × Ctx := fun x => (x.1, { x.2 with conv := x.2.conv.map conv, ret := x.2.ret.map ret })
  { s with host.ctxs := s.host.ctxs.map f }

/-- The conveyor starts again in revolution HALT_REV; stations and injectors forget the notice. DESIGN CHOICE: the notice
clears in the marker that stands in slot 0 (log entry 57). -/
def State.resumeNow (s : State) : State :=
  let clear : Bank Injector := s.conv.inj.map (fun x => (x.1, { x.2 with noticed := false }))
  let stn : Bank Station := s.conv.stn.map (fun x => (x.1, { x.2 with noticed := false }))
  let s := match s.conv.halt with
    | some (v, h) => s.shiftRuns h (h - v)
    | none => s
  { s with conv.state := .running, conv.halt := none, conv.inj := clear, conv.stn := stn,
           wort.resumeRev := s.conv.halt.elim s.wort.resumeRev (·.2),
           conv.marker := { s.conv.marker with haltNotice := false } }

/-- CONVEYOR_RESUME. A member of a span that has no Pace lock forms the span (R89). -/
def execConveyorResume (r : CmdRef) (s : State) : Out :=
  runCmd 0x25 r (fun _ _ t =>
    let t := if t.conv.state == .halted || t.conv.state == .broken then
        (if t.conv.span.n ≠ 1 && !t.conv.locked then
          { t with conv.state := .forming, conv.goodMarkers := 0, conv.lastMarker := none, conv.halt := none, conv.entering := none }
        else if t.conv.state == .halted then t.resumeNow
        else if t.conv.locked then t
        else { t with conv.state := .running, conv.locked := true, conv.halt := none, steps.next := none })
      else t
    t.finish r 0 0) s

/-! ### The span (R88 to R90, R94, R95, R133) -/

/-- The object value of Table 3.16. -/
def spanCfgOf (value : Nat) : SpanCfg :=
  { spanId := BitVec.ofNat 32 (fld value 0 32), n := fld value 32 8, index := fld value 40 8, master := fld value 48 8 }

/-- R88, R97, R113: whether 30.001 takes the value now. -/
def State.spanAccepted (s : State) (value : Nat) : Bool :=
  let c := spanCfgOf value
  let p := c.slots
  (s.conv.state == .halted || s.conv.state == .broken) && 1 ≤ c.n && c.n ≤ 64 && c.index < c.n && c.master < c.n
    && s.slotsTaken ≤ p && s.wortTaken ≤ p

/-- R133: the programs of a context that no longer match are unloaded, with PROGRAM_UNLOADED. -/
def State.dropMismatched (s : State) (k : Nat) : State :=
  match s.ctx? k with
  | none => s
  | some c =>
    let n := s.conv.span.n
    let oldConv : ConvProg → Bool := fun p => p.spanN != n
    let oldRet : RetProg → Bool := fun p => p.spanN != n || p.member != s.conv.span.index
    let badConv := c.conv.any oldConv || c.nextConv.any oldConv
    let badRet := c.ret.any oldRet || c.nextRet.any oldRet
    let cookie := (c.nextConv.or c.conv).elim 0 (fun (p : ConvProg) => p.cookie.toNat)
    let flag : Bool → Nat → Nat := fun b w => if b then w else 0
    if !badConv && !badRet then s
    else
      let item := flag badConv 1 + flag (badConv && c.ret.isSome || badRet) 2 + flag c.upd.isSome 4
      let s := if c.nextConv.any oldConv then s.dropWaiting k
        else if c.nextRet.any oldRet then s.dropWaitingRet k else s
      let s := if c.conv.any oldConv then s.unloadConv k else if c.ret.any oldRet then s.unloadRet k else s
      s.wideEvent k 5 cookie 0 ((s.steps.live.head?).elim noStep.toNat (fun (x : LiveStep) => x.step.toNat)) item 0

/-- A write of 30.001 (R88): the span is to be formed anew, and nothing lies on the conveyor. Where P changes, the slots of
the allocations are laid out anew (log entry 51). -/
def State.writeSpan (s : State) (value : Nat) : State :=
  let value := value % 2 ^ 56
  let s := s.setObj 0x30001 0 value
  let clear : Bank Injector := s.conv.inj.map (fun x => (x.1, { x.2 with filled := [], again := [], noticed := false }))
  let s := if (spanCfgOf value).n = s.conv.span.n then s else { s with conv.alloc := [], wort.alloc := [] }
  let s := { s with conv.span := spanCfgOf value, conv.heldPace := s.pace, conv.locked := false, conv.goodMarkers := 0, conv.lastMarker := none,
                    conv.upNbr := {}, conv.downNbr := {}, conv.k2 := false, conv.k2Next := false, conv.quiet := 0 }
  let s := { s with conv.slots := [], conv.inj := clear, conv.namedStep := none, steps.next := none, conv.entering := none,
                    conv.marker.k2Next := false }
  ((s.host.ctxs.map (·.1)).foldl State.dropMismatched s.setClock).settleAll

/-- SPAN_CONFIG_WRITE: the effect of an accepted guarded write. -/
def execSpanConfigWrite (value : BitVec 64) (s : State) : Out :=
  if s.spanAccepted value.toNat then .next (s.writeSpan value.toNat) else .next s

/-- SPAN_NEIGHBOUR_EXCHANGE: UP leads to the lower span index, DOWN to the higher one; a connector without live lanes
exchanges nothing. -/
def execSpanNeighbourExchange (down : Bool) (spanId : BitVec 32) (index : BitVec 6) (lastCommitted : BitVec 32)
    (latency10ps : Nat) (s : State) : Out :=
  let c := s.conv.span
  if s.conv.state ≠ .forming then .next s
  else
    let want := if down then (c.index + 1) % c.n else (c.index + c.n - 1) % c.n
    if !(s.pins.cables.get {} (if down then 1 else 0)).lanesUp || decide (s.liveLanes (if down then 1 else 0) < 32) then .next s
    else
      let set : Neighbour → State → State := fun x t =>
        if down then { t with conv.downNbr := x } else { t with conv.upNbr := x }
      if spanId = c.spanId ∧ index.toNat = want then
        .next (set { trained := true, lastCommitted := lastCommitted, latency10ps := latency10ps } s).setDelays
      else .next ((set {} (s.setObj 0x30002 0 ((s.obj 0x30002 0 + 1) % 2 ^ 32))).caskPost 0x0303
        (source 7 (if down then 256 else 0)) (leBytes 128 (packFields [(32, c.spanId.toNat), (8, c.index),
          (32, spanId.toNat), (8, index.toNat)])))

/-- A slot enters at UP. A tile that it held when it left this member and holds no more has been retired on the way, so that
the latches that still wait for it are lost (R78). DESIGN CHOICE: a member learns of such a retirement as the slot comes back
(log entry 121). -/
def State.enterTile (s : State) (n : Nat) (y : Slot) : State :=
  let x := s.gristSlot n
  let same := x.kind == y.kind && x.tileId == y.tileId && x.gen == y.gen
  let t := s.putGrist n y
  if x.kind = 0 || same || y.bad then t else t.retireLatches 0 n s.conv.rev x

/-- The connector that something enters by: 0 UP, 1 DOWN. -/
def Ingress1.dir : Ingress → Nat
  | .tile _ _ | .marker _ _ | .verdict _ _ => 0
  | .wort _ _ | .wortMarker _ _ => 1

/-- SPAN_INGRESS (R93, R94): what enters lies in its slot from now on, with the CRC that came with it. While the span forms
it carries markers only (R89). Nothing enters by a connector below 32 live lanes (R472). -/
def execSpanIngress (slot : Fin 76800) (x : Ingress) (s : State) : Out :=
  let n := slot.val
  if s.conv.span.n = 1 || !(s.moving || s.conv.state == .forming) || s.conv.span.slots ≤ n || s.connectorDead (Ingress1.dir x) then .next s
  else match x with
    | .marker m bad => .next (if n = 0 then { s with conv.entering := some (m, bad) } else s)
    | .wortMarker m bad => .next (if n = 0 && !s.conv.controls then
        { s with wort.marker := if bad then s.wort.marker else m, wort.markerBad := bad } else s)
    | .tile y crc => .next (if 2 ≤ n && s.moving then s.enterTile n (slotWithCrc y crc) else s)
    | .wort y crc => .next (if 2 ≤ n && s.moving then
        { s with wort.slots := s.wort.slots.set {} n (slotWithCrc y crc) } else s)
    | .verdict v bad => .next (if n = 1 && s.moving then { s with verdict.slot1 := v, verdict.crcBad := bad } else s)

/-- SPAN_STARVE_TIMEOUT (R95). -/
def execSpanStarveTimeout (s : State) : Out :=
  if s.conv.span.n ≠ 1 ∧ s.moving then .next (s.breakSpan 0) else .next s

/-- MARKER_RETURN_TIMEOUT (R95). -/
def execMarkerReturnTimeout (s : State) : Out :=
  if s.conv.span.n ≠ 1 ∧ s.moving ∧ s.conv.controls then .next (s.breakSpan 1) else .next s

/-- HALTED_LINK_LOSS (R95). -/
def execHaltedLinkLoss (down : Bool) (s : State) : Out :=
  if s.conv.span.n ≠ 1 ∧ s.conv.state = .halted then
    let s := s.breakSpan 0
    .next (if down then { s with conv.downNbr.trained := false } else { s with conv.upNbr.trained := false })
  else .next s

/-! ### The shared grant (R98, R99) -/

/-- A write of 30.012[v]; a withdrawal takes effect at the next boundary. -/
def State.writeGrant (s : State) (v value : Nat) : State :=
  let t := s.setObj 0x30012 v value
  if s.obj 0x30012 v = 1 ∧ value ≠ 1 then { t with conv.withdrawn := insertNat v t.conv.withdrawn } else t

/-- SHARED_GRANT_WRITE: the effect of an accepted guarded write. -/
def execSharedGrantWrite (v : Fin 64) (value : BitVec 8) (s : State) : Out := .next (s.writeGrant v.val value.toNat)

end Sys2Proof.Machine
end

