-- ==== Sys2Proof/Machine/WortLine.lean ====
section
/-!
DEFINITION. The wort line: gradient injectors (R105, R106, R121 to R123, R128, R130, R131, R134, R135), station adds
(R114 to R120), and the verdict slot (R125 to R127, R551).
-/

namespace Sys2Proof.Machine

def State.wortSlot (s : State) (n : Nat) : Slot := s.wort.slots.get {} n
def State.putWort (s : State) (n : Nat) (x : Slot) : State := { s with wort.slots := s.wort.slots.set {} n x }

def State.retOf (s : State) (k : Nat) : Option RetProg := (s.ctx? k).bind (·.ret)

/-- Change one run of a context's return program. -/
def State.onRetRun (s : State) (k : Nat) (st : BitVec 32) (f : RetRun → RetRun) : State :=
  s.onCtx k (fun c => { c with ret := c.ret.map (fun p => { p with runs := p.runs.map (fun r => if r.step == st then f r else r) }) })

/-- The member's record of a step carries POISONED. -/
def State.poisonStep (s : State) (st : BitVec 32) : State := s.onStep st (fun x => { x with poisoned := true })

/-! ### Gradient injectors -/

/-- R130 with R90 and R101: whether the halt notice has passed gradient injector `k` when wort slot `n` of revolution
`rev` does, both counted in 1/6,400 of the slot time at full clock. -/
def State.gradNoticed (s : State) (k n rev : Nat) : Bool :=
  match s.conv.halt with
  | none => false
  | some (v, _) =>
    let c := s.conv
    let p := gradInjectorPos k
    if c.span.n = 1 then decide (v * 1280 + p ≤ rev * 1280 + (1279 - p) + n)
    else
      let up := 1200 * ((c.span.index + c.span.n - c.span.master) % c.span.n)
      let down := 1200 * ((c.span.master + c.span.n - c.span.index) % c.span.n)
      let w := 286 * c.m * (if c.k2 then 2 else 1)
      decide ((v * c.span.slots + up) * w + p * 6400 ≤ (rev * c.span.slots + down + n) * w + (1279 - p) * 6400)

def State.gradSlots (s : State) (k : Nat) : List (Nat × GradSlot) := s.wort.inj.get [] k

/-- Keep or forget what injector `k` knows of a slot. -/
def State.putGrad (s : State) (k n : Nat) (x : Option GradSlot) : State :=
  let l := (s.gradSlots k).filter (fun y => y.1 != n)
  { s with wort.inj := s.wort.inj.set [] k (l ++ (x.map (fun y => (n, y))).toList) }

/-- The park area holds 320 MiB of parked slots and tiles (R130, R347). -/
def parkCapacity : Nat := 335544320 / 4160

/-- The units of the park area that the tile in place `i` lies in. -/
def parkUnitsAt (i : Nat) : List Nat := (List.range ((4160 * i + 4415) / 256 - 4160 * i / 256)).map (4160 * i / 256 + ·)

/-- Units hold values again. -/
def Kiln.restore (x : Kiln) (units : List Nat) : Kiln :=
  { x with lostUnits := x.lostUnits.filter (fun u => !units.contains u),
           restored := if x.allLost then units.foldl (fun l u => insertNat u l) x.restored else x.restored }

/-- A tile goes to the park area, whose units of its place are written. -/
def Kiln.parkTile (x : Kiln) (t : KilnTile) : Kiln := { x.restore (parkUnitsAt x.park.length) with park := x.park ++ [t] }

def State.parkedSlots (s : State) (k : Nat) : List ParkedSlot := s.wort.parked.get [] k

/-- A tile is handed to the Kiln: into the input queue, or behind it into the park area; none while the park area is full
(R347). -/
def State.handTile (s : State) (k : Nat) (t : KilnTile) : Option State :=
  let x := s.kilnAt k
  if parkCapacity ≤ x.park.length + (s.parkedSlots k).length then none
  else if x.input.length < 64 then some (s.putKiln k { x with input := x.input ++ [t] })
  else some (s.putKiln k (x.parkTile t))

/-- An empty header; the injector forgets the slot. -/
def State.emptyWort (s : State) (k n : Nat) : State := (s.putWort n {}).putGrad k n none

/-- R111: the member's expected count for a tile of a context. -/
def RetProg.expected (p : RetProg) (tile : BitVec 32) : Nat := (p.rsta.filter (fun e => e.tileId == tile)).length

/-- R104: a gradient slot. -/
def gradSlot (x : Slot) : Bool := x.kind == 2 && gradFormat x.format && !x.orient && !x.shared

/-- R103, R104: a kind or header that the wort line does not carry. -/
def wortInvalid (x : Slot) : Bool := x.kind != 0 && !gradSlot x

/-- R120: the member's tally for the gradient slot `x` that lies in wort slot `n`. DEDUCED: it is kept for a tile and a
generation, and starts anew when the slot carries another (log entry 112). -/
def State.tallyOf (s : State) (n : Nat) (x : Slot) : Nat :=
  let t := s.wort.tally.get {} n
  if t.tile = x.tileId ∧ t.gen = x.gen then t.count else 0

def State.putTally (s : State) (n : Nat) (x : Slot) (c : Nat) : State :=
  { s with wort.tally := s.wort.tally.set {} n { tile := x.tileId, gen := x.gen, count := c } }

/-- R121. -/
def State.gradComplete (s : State) (x : Slot) (n e : Nat) : Bool :=
  (List.range s.conv.span.n).all (fun i => i == x.owner.toNat || x.bitmap.getLsbD i)
    && s.tallyOf n x + x.stnCount.toNat == e

/-- R122: an incomplete pass. -/
def State.gradLap (s : State) (k n : Nat) (x : Slot) (g : GradSlot) : State :=
  let s := s.bump 0x30132 k
  if x.revLeft ≠ 0 then s.putWort n { x with revLeft := x.revLeft - 1 }
  else if g.stalled then s
  else ((s.bump 0x30133 k).putGrad k n (some { g with stalled := true })).wideEvent g.ctx 4 0 0 g.step.toNat x.tileId.toNat
    x.bitmap.toNat

/-- The gradient slot is retired for good: its gate entry is done. -/
def State.gradRetire (s : State) (k n : Nat) (g : GradSlot) : State :=
  ((s.emptyWort k n).bump 0x30131 k).onRetRun g.ctx g.step (fun r => { r with retired := insertNat g.entry r.retired })

/-- A slot of this injector comes back: complete, incomplete, or one revolution behind its handing over (R121 to R123). -/
def State.gradReturn (s : State) (k n : Nat) (x : Slot) (g : GradSlot) : State :=
  match s.retOf g.ctx with
  | none => s.emptyWort k n
  | some p =>
    if g.handed then s.gradRetire k n g
    else if s.gradComplete x n (p.expected x.tileId) then
      match s.handTile k { ctx := g.ctx, step := g.step, slot := x } with
      | none => (s.bump 0x30153 k).gradLap k n x g
      | some t => if p.replicated then t.putGrad k n (some { g with handed := true }) else t.gradRetire k n g
    else s.gradLap k n x g

/-- R123: copy entries of injector `k` that name wort slot `n` and its tile: context, entry, step. -/
def State.copyEntries (s : State) (k n : Nat) (x : Slot) : List (Nat × Nat × BitVec 32) :=
  if !gradSlot x || !(List.range s.conv.span.n).all (fun i => x.bitmap.getLsbD i) then []
  else s.host.ctxs.flatMap (fun c => match c.2.ret with
    | none => []
    | some p => p.runs.flatMap (fun r => ((p.gate.mapIdx (fun i e => (i, e))).filter (fun y =>
        y.2.kind == 1 && y.2.kiln == k && p.map[y.2.slot]? == some n && y.2.tileId == x.tileId && r.gen == x.gen && !r.retired.contains y.1)).map
          (fun y => (c.1, y.1, r.step))))

def State.copyOne (k : Nat) (x : Slot) (s : State) (y : Nat × Nat × BitVec 32) : State :=
  match s.handTile k { ctx := y.1, step := y.2.2, slot := x } with
  | none => s.bump 0x30153 k
  | some t => (t.bump 0x30138 k).onRetRun y.1 y.2.2 (fun r => { r with retired := insertNat y.2.1 r.retired })

/-- R106: gate entries of injector `k` that are due in slot `n`, earliest first. -/
def State.dueGates (s : State) (k n rev : Nat) : List (Nat × Nat × RetRun × GateEntry) :=
  let all := s.host.ctxs.flatMap (fun x => match x.2.ret with
    | none => []
    | some p => p.runs.flatMap (fun r => (p.gate.mapIdx (fun i e => (x.1, i, r, e))).filter (fun y =>
        y.2.2.2.kind == 0 && y.2.2.2.kiln == k && !r.opened.contains y.2.1 && p.map[y.2.2.2.slot]? == some n
          && decide (r.startRev + y.2.2.2.revOffset ≤ rev))))
  all.mergeSort (fun a b => a.2.2.1.startRev + a.2.2.2.revOffset ≤ b.2.2.1.startRev + b.2.2.2.revOffset)

/-- The gradient slot opens with +0 in every element; the tally starts at 0. -/
def State.openGrad (s : State) (k n : Nat) (y : Nat × Nat × RetRun × GateEntry) : State :=
  let e := y.2.2.2
  let r := y.2.2.1
  let x : Slot := { kind := 2, format := e.format, tileId := e.tileId, owner := BitVec.ofNat 6 e.owner, pgroup := e.pgroup,
                    gen := r.gen, revLeft := BitVec.ofNat 12 e.waitRevs }
  let s := ((s.putWort n x).bump 0x30130 k).putGrad k n (some { ctx := y.1, entry := y.2.1, step := r.step })
  (s.putTally n x 0).onRetRun y.1 r.step
    (fun q => { q with opened := insertNat y.2.1 q.opened })

/-- Opening at an empty slot; entries that must wait count a deferral. The place of a parked slot is kept for it (R131). -/
def State.gradOpen (s : State) (k n rev : Nat) : State :=
  match s.dueGates k n rev with
  | [] => s
  | y :: r => if (s.wortSlot n).kind ≠ 0 ∨ (s.parkedSlots k).any (fun p => p.n == n) then s.bumpBy 0x30134 k (r.length + 1) else (s.openGrad k n y).bumpBy 0x30134 k r.length

/-- R130: the slot goes to the park area, whatever its state. -/
def State.gradPark (s : State) (k n : Nat) (x : Slot) : State :=
  let p : ParkedSlot := { n := n, x := x, fromRev := s.conv.halt.elim 0 (·.2) }
  ({ s.putWort n {} with wort.parked := s.wort.parked.set [] k (s.parkedSlots k ++ [p]) } : State).bump 0x30137 k

def State.unpark (s : State) (k n : Nat) : State :=
  { s with wort.parked := s.wort.parked.set [] k ((s.parkedSlots k).filter (fun y => y.n != n)) }

/-- R131: a parked slot opens again in its own wort slot. DESIGN CHOICE: it does not count in GI_OPEN (log entry 61). -/
def State.gradReopen (s : State) (k n : Nat) (x : Slot) : State := (s.putWort n x).unpark k n

/-- A slot whose kind or header the wort line does not carry is retired and counted (R103). -/
def State.gradBadkind (s : State) (k n : Nat) : State := (s.emptyWort k n).bump 0x30135 k

/-- A partial sum that comes back with a failed CRC is lost, and its step fails (R135). -/
def State.gradCrc (s : State) (k n : Nat) (g : GradSlot) : State := ((s.emptyWort k n).bump 0x30136 k).poisonStep g.step

/-- What the injector does with a slot that it owns or that carries nothing valid, before it opens or copies. -/
def State.gradMeet (s : State) (k n : Nat) (x : Slot) : State :=
  match (s.gradSlots k).find? (fun y => y.1 == n) with
  | some (_, g) =>
    if x.bad then s.gradCrc k n g
    else if wortInvalid x then (s.gradBadkind k n).poisonStep g.step
    else if g.retire then s.emptyWort k n
    else if x.kind = 0 then s
    else s.gradReturn k n x g
  | none => if !x.bad && wortInvalid x then s.gradBadkind k n else s

/-- R130: behind the halt notice the injector parks what it owns, and retires what the wort line does not carry. DESIGN
CHOICE: a slot marked for retirement (R128, R134) is emptied, counted neither as parked nor as retired; with a failed CRC it
counts in GI_CRC (log entry 61). -/
def State.gradHalt (s : State) (k n : Nat) (x : Slot) : State :=
  match (s.gradSlots k).find? (fun y => y.1 == n) with
  | some (_, g) =>
    if !x.bad && wortInvalid x then (s.gradBadkind k n).poisonStep g.step
    else if g.retire then (if x.bad then s.gradCrc k n g else s.emptyWort k n)
    else if x.kind = 0 && !x.bad then s
    else s.gradPark k n x
  | none => if !x.bad && wortInvalid x then s.gradBadkind k n else s

/-- R131 at a slot that is parked: it opens again in revolution HALT_REV, or is dropped when its step was discarded. -/
def State.gradUnpark (s : State) (k n rev : Nat) (p : ParkedSlot) : State :=
  if (s.gradSlots k).any (fun y => y.1 == n && y.2.retire) then (s.putGrad k n none).unpark k n
  else if p.fromRev ≤ rev ∧ (s.wortSlot n).kind = 0 then s.gradReopen k n p.x
  else s

/-- The copies that an injector takes of a slot (R123). -/
def State.gradCopy (s : State) (k n : Nat) (x : Slot) : State :=
  if x.bad then s else (s.copyEntries k n x).foldl (State.copyOne k x) s

/-- R101: the injector takes its wort revolution from the wort marker. -/
def State.gradMarkerPass (s : State) (k : Nat) (crcFail : Bool) : State :=
  let old := s.wort.injRev.get 0 k
  { s with wort.injRev := s.wort.injRev.set 0 k (if crcFail || s.wort.markerBad then old + 1 else s.wort.marker.rev.toNat) }

/-- GRADIENT_INJECTOR_PASS. A slot that a lost Kiln owns counts as failed (R477). -/
def execGradientInjectorPass (k : Fin 8) (slot : Fin 76800) (crcFail : Bool) (s : State) : Out :=
  let n := slot.val
  let q := k.val
  let rev := s.wort.injRev.get 0 q
  if !s.moving || n = 1 || s.conv.span.slots ≤ n then .next s
  else if n = 0 then .next (s.gradMarkerPass q crcFail)
  else
    let known := (s.gradSlots q).any (fun y => y.1 == n)
    let lost := s.health.lost.contains (.kiln k) && known
    let s := if crcFail || lost then s.putWort n { s.wortSlot n with bad := true } else s
    let x := s.wortSlot n
    match (s.parkedSlots q).find? (fun y => y.n == n) with
    | some p =>
      let s := if !x.bad && wortInvalid x then (s.putWort n {}).bump 0x30135 q else s
      .next (if s.gradNoticed q n rev then s else ((s.gradUnpark q n rev p).gradCopy q n x).gradOpen q n rev)
    | none =>
      if s.gradNoticed q n rev then .next ((s.gradHalt q n x).gradCopy q n x)
      else .next (((s.gradMeet q n x).gradCopy q n x).gradOpen q n rev)

/-! ### Contributions -/

def State.contribs (s : State) (st : Nat) : List Contribution := s.wort.contrib.get [] st

def State.putContribs (s : State) (st : Nat) (l : List Contribution) : State :=
  { s with wort.contrib := s.wort.contrib.set [] st l }

def State.rstaEntry (s : State) (k n : Nat) : Option RstaEntry := (s.retOf k).bind (fun p => p.rsta[n]?)

/-- The station reads the entries that its record of the station index names. -/
def RetProg.indexed (p : RetProg) (l entry : Nat) : Bool :=
  p.index[l]?.any (fun x => decide (x.1 ≤ entry) && decide (entry < x.1 + x.2))

/-- The run in which a return station entry is due and has not yet taken a buffer. -/
def RetProg.dueRun (p : RetProg) (n rev : Nat) (e : RstaEntry) : Option RetRun :=
  p.runs.find? (fun r => decide (r.startRev + e.revOffset ≤ rev) && !r.taken.contains n)

/-- CONTRIBUTION_DUE (R114). -/
def execContributionDue (st : Fin 128) (ctx entry : Nat) (s : State) : Out :=
  match s.retOf ctx, s.rstaEntry ctx entry with
  | some p, some e =>
    match p.dueRun entry s.conv.rev e with
    | some r =>
      if (s.stationsOf (ctxVi ctx))[e.lstation]? ≠ some st.val || !p.indexed e.lstation entry then .next s
      else if (s.contribs st.val).length < 8 then
        let stn := s.station st.val
        let c : Contribution := { ctx := ctx, entry := entry, step := r.step, lateCounted := r.late.contains entry, id := stn.nextClaim }
        let s := s.putStation st.val { stn with nextClaim := stn.nextClaim + 1 }
        .next ((s.putContribs st.val (s.contribs st.val ++ [c])).onRetRun ctx r.step
          (fun q => { q with taken := insertNat entry q.taken }))
      else if r.waited.contains entry then .next s
      else .next ((s.stationEvent ctx st.val 10).onRetRun ctx r.step (fun q => { q with waited := insertNat entry q.waited }))
    | none => .next s
  | _, _ => .next s

/-- Units of 256 bytes of a sub-tile, column by column. -/
def subtileUnits (e : RstaEntry) : List Nat :=
  (List.range (gradCols e.format)).map (fun n => (e.accAddr * 256 + n * (64 * 2 ^ e.accPitch)) / 256)

/-- The values of a sub-tile, K-major. -/
def subtileWords (acc : Bank Word) (e : RstaEntry) : List Word :=
  (List.range (gradCols e.format)).flatMap (fun n =>
    (List.range 64).map (fun k => acc.get 0 ((e.accAddr * 256 + n * (64 * 2 ^ e.accPitch)) / 4 + k)))

/-- R115: element by element; the saturations beside the sums. -/
def addLists (a b : List Word) : List Word × Nat :=
  let l := (a.zip b).map (fun x => add32 x.1 x.2)
  (l.map (·.1), (l.filter (·.2)).length)

/-- Saturations of a station enter 30.124 and the step's saturation count. -/
def State.countAddSat (s : State) (k st : Nat) (step : BitVec 32) (n : Nat) : State :=
  if n = 0 then s
  else
    let s := (s.bumpBy 0x30124 st n).onCtx k (fun c => { c with events := c.events.set 0 11 (c.events.get 0 11 + n) })
    s.countStep step { sat := n }

/-- One contribution of a station is replaced, or removed. -/
def State.replaceContrib (s : State) (st : Nat) (c : Contribution) (d : Option Contribution) : State :=
  s.putContribs st ((s.contribs st).flatMap (fun x => if x == c then d.toList else [x]))

/-- R119: the contribution is lost; the window counts it without adding, and the step is poisoned. -/
def State.loseContrib (s : State) (st : Nat) (c : Contribution) : State :=
  (s.replaceContrib st c (some { c with lost := true, armed := true, sum := [] })).poisonStep c.step

/-- The next cluster of a contribution, in ascending order. -/
def nextCluster (e : RstaEntry) (c : Contribution) : Option Nat :=
  (bitsOf e.clusters).find? (fun i => !c.read.getLsbD i)

/-- Reading the sub-tile of one cluster: its marks are cleared, its values added. -/
def State.readSubtile (s : State) (st : Nat) (e : RstaEntry) (c : Contribution) (i cl : Nat) : State :=
  let x := s.cluster cl
  let units := subtileUnits e
  let ws := subtileWords x.acc e
  let r := if c.read = 0 then (ws, 0) else addLists c.sum ws
  let read := c.read ||| (1#8 <<< i)
  let d := { c with asked := false, read := read, sum := r.1, armed := (bitsOf e.clusters).all (fun j => read.getLsbD j) }
  let s := s.putCluster cl { x with final := x.final.filter (fun u => !units.contains u) }
  (s.replaceContrib st c (some d)).countAddSat c.ctx st c.step r.2

/-- R114: each read of a sub-tile is one 64-beat grant of the station latch arbiter, asked for once the sub-tile may be read.
The state in which the request stands, and whether its grant has run to its end. -/
def State.subtileGrant (s : State) (st : Nat) (c : Contribution) (i : Nat) : State × Option Contribution :=
  let t := s.stationCycle st
  let d := { c with asked := true }
  let s := if c.asked then s
    else (s.onArb .stationLatch st (t - 1) (·.enqueue ⟨i, t, 64, c.id⟩)).replaceContrib st c (some d)
  match s.latchEnded st i c.id with
  | some a => ({ s with arb.insts := s.arb.insts.set {} (instKey .stationLatch st) a }, some d)
  | none => (s, none)

/-- SUBTILE_READ (R114, R119, R161, R466). -/
def execSubtileRead (st : Fin 128) (ctx entry : Nat) (uncorrectable : Bool) (s : State) : Out :=
  match (s.contribs st.val).find? (fun c => c.ctx == ctx && c.entry == entry && !c.armed), s.rstaEntry ctx entry with
  | some c, some e =>
    match nextCluster e c with
    | none => .next s
    | some i =>
      match (s.stationClusters st.val)[i]? with
      | none => .next (s.loseContrib st.val c)
      | some cl =>
        let x := s.cluster cl
        if s.health.absent.contains cl then .next (s.loseContrib st.val c)
        else if (subtileUnits e).any (fun u => !x.final.contains u || x.held.contains u) then .next s
        else match s.subtileGrant st.val c i with
          | (t, none) => .next t
          | (t, some d) =>
            if uncorrectable then .next ((t.loseContrib st.val d).clusterUe cl) else .next (t.readSubtile st.val e d i cl)
  | _, _ => .next s

/-! ### The add window -/

/-- Element `i` of a gradient payload widened to FP32. -/
def gradElem (format : BitVec 8) (payload i : Nat) : Word :=
  if format = 4 then widen16 (fld payload (16 * i) 16) else BitVec.ofNat 32 (fld payload (32 * i) 32)

/-- R115 in the add window: the new payload and the saturations. -/
def addPayload (format : BitVec 8) (payload : Bytes) (sum : List Word) : Bytes × Nat :=
  let p := leNat payload
  let one : Nat → Word → Nat × Nat := fun i c =>
    let y := add32 (gradElem format p i) c
    let sat : Bool → Nat := fun b => if b then 1 else 0
    if format = 4 then
      let z := narrow16 y.1
      (z.1, sat y.2 + sat z.2)
    else (y.1.toNat, sat y.2)
  let l := sum.mapIdx one
  let w := if format = 4 then 16 else 32
  (trimBytes (leBytes 4096 (packFields (l.map (fun x => (w, x.1))))), sumNat (l.map (·.2)))

/-- R117: the slot carries what the entry asks for. -/
def contribMatches (x : Slot) (e : RstaEntry) (gen : BitVec 16) : Bool :=
  gradSlot x && x.tileId == e.tileId && x.format == e.format && x.gen == gen

/-- One contribution meets a slot in the add window (R117 to R119). -/
def State.meetWindow (st n rev : Nat) (late bufferUe : Bool) (s : State) (c : Contribution) : State :=
  match s.retOf c.ctx, s.rstaEntry c.ctx c.entry with
  | some p, some e =>
    match p.runs.find? (fun r => r.step == c.step) with
    | none => s
    | some r =>
      let x := s.wortSlot n
      if p.map[e.slot]? ≠ some n || decide (rev < r.startRev + e.revOffset) || x.bad then s
      else if !contribMatches x e r.gen then (if c.armed then s.stationEvent c.ctx st 9 else s)
      else if !c.armed || late then
        if c.lateCounted then s
        else (s.stationEvent c.ctx st 8).replaceContrib st c (some { c with lateCounted := true })
      else
        let s := (s.replaceContrib st c none).onRetRun c.ctx c.step (fun q => { q with added := insertNat c.entry q.added })
        if c.lost || bufferUe then
          ((s.putWort n { x with stnCount := x.stnCount + 1 }).stationEvent c.ctx st 12).poisonStep c.step
        else
          let y := addPayload x.format x.payload c.sum
          ((s.putWort n { x with stnCount := x.stnCount + 1, payload := y.1 }).stationEvent c.ctx st 7).countAddSat c.ctx st
            c.step y.2
  | _, _ => s

/-- R118: an entry that still waits for a buffer misses its matching slot, counted once. -/
def State.missWindow (st n rev : Nat) (s : State) (k : Nat) : State :=
  match s.retOf k with
  | none => s
  | some p =>
    let x := s.wortSlot n
    let here := (s.stationsOf (ctxVi k)).idxOf st
    let hits : List (RetRun × Nat) := p.runs.flatMap (fun r => (r.waited.filter (fun i => !r.taken.contains i && !r.late.contains i
      && p.rsta[i]?.any (fun e => e.lstation == here && p.map[e.slot]? == some n && decide (r.startRev + e.revOffset ≤ rev)
        && contribMatches x e r.gen))).map (fun i => (r, i)))
    hits.foldl (fun t y => (t.stationEvent k st 8).onRetRun k y.1.step (fun q => { q with late := insertNat y.2 q.late })) s

/-- TALLY_FOLD (R120) at station 0.S00. Between a halt notice and the end of revolution HALT_REV an empty slot may be a
parked one, whose tally is kept (R130). -/
def State.tallyFold (s : State) (n : Nat) : State :=
  let x := s.wortSlot n
  if x.bad then s
  else if !gradSlot x then
    if s.conv.halt.isSome || decide ((s.station 0).wortRev ≤ s.wort.resumeRev) then s
    else { s with wort.tally := s.wort.tally.set {} n {} }
  else
    let t := s.tallyOf n x + x.stnCount.toNat
    let e := ((s.host.ctxs.filterMap (fun c => c.2.ret)).find? (fun p => p.map.contains n)).elim 0 (fun p => p.expected x.tileId)
    let i := s.conv.span.index
    let bitmap := if t = e then x.bitmap ||| (1#64 <<< i) else x.bitmap
    (s.putTally n x t).putWort n { x with stnCount := 0, bitmap := bitmap }

/-- R102: a station counts wort revolutions from the wort marker in slot 0. -/
def State.wortMarkerPass (s : State) (st : Nat) (crcFail : Bool) : State :=
  let x := s.station st
  if crcFail || s.wort.markerBad then s.putStation st { x with wortRev := x.wortRev + 1, wortUnsure := true }
  else
    let m := s.wort.marker.rev.toNat
    let s := if x.wortUnsure && m ≠ x.wortRev + 1 then s.paceDisagree (source 9 st) (x.wortRev + 1) m else s
    s.putStation st { x with wortRev := m, wortUnsure := false }

/-- ADD_WINDOW_PASS. `late`: the contribution was armed less than 16 cycles before (R116). `bufferUe`: the read of its buffer
is uncorrectable (R119). -/
def execAddWindowPass (st : Fin 128) (slot : Fin 76800) (late bufferUe crcFail : Bool) (s : State) : Out :=
  let n := slot.val
  let rev := (s.station st.val).wortRev
  if !s.moving || s.conv.span.slots ≤ n || n = 1 then .next s
  else if n = 0 then .next (s.wortMarkerPass st.val crcFail)
  else
    let s := if crcFail then s.putWort n { s.wortSlot n with bad := true } else s
    let mine := (s.contribs st.val).filter (fun c => match s.retOf c.ctx, s.rstaEntry c.ctx c.entry with
      | some p, some e => p.map[e.slot]? == some n
      | _, _ => false)
    if (s.wortSlot n).bad then
      match mine with
      | c :: _ => .next (s.stationEvent c.ctx st.val 13)
      | [] => .next (s.bump 0x30126 st.val)
    else
      let s := (s.host.ctxs.map (·.1)).foldl (State.missWindow st.val n rev) s
      let s := mine.foldl (State.meetWindow st.val n rev late bufferUe) s
      .next (if st.val = 0 then s.tallyFold n else s)

/-! ### The verdict slot -/

/-- Sum of SAT_COUNT and NAN_COUNT over the records present. -/
def Verdict1.total (l : Bank MemberRec) : Nat := sumNat (l.map (fun x => x.2.satCount.toNat + x.2.nanCount.toNat))

/-- CAUSE (Table 4.8) of the records: non-finite, above the threshold, shared tile lost, poisoned. -/
def causeOf (l : Bank MemberRec) (threshold : Nat) : Nat :=
  let b : Bool → Nat → Nat := fun x w => if x then w else 0
  b (l.any (fun x => x.2.nonfinite != 0)) 1 + b (decide (Verdict1.total l > threshold)) 2
    + b (l.any (fun x => x.2.sharedLost)) 4 + b (l.any (fun x => x.2.poisoned)) 8

/-- CAUSE of one failing record. -/
def ownCause (x : MemberRec) : Nat :=
  let b : Bool → Nat → Nat := fun y w => if y then w else 0
  b (x.nonfinite != 0) 1 + b x.sharedLost 4 + b x.poisoned 8

/-- VERDICT_FINALIZE (R127): the verdict behind the member's own record, final or still collecting. -/
def finalize (v : Verdict) (own : Nat) (r : MemberRec) (rev : Nat) : Verdict :=
  if verdictFinal v then v
  else
    let fin : Nat → Verdict := fun cause =>
      { v with state := if cause = 0 then 1 else 2, cause := BitVec.ofNat 16 cause, finalizer := BitVec.ofNat 6 own,
               total := BitVec.ofNat 64 (Verdict1.total v.records), decideRev := BitVec.ofNat 48 (rev + 2) }
    if ownCause r ≠ 0 then fin (ownCause r)
    else if (List.range v.spanN.toNat).all (fun i => v.doneMap.getLsbD i) then fin (causeOf v.records v.threshold.toNat)
    else v

/-- The member's record is written, and its DONE bit while the verdict is not final. -/
def withRecord (v : Verdict) (own : Nat) (r : MemberRec) : Verdict :=
  { v with records := v.records.set {} own r,
           doneMap := if r.done && !verdictFinal v then v.doneMap ||| (1#64 <<< own) else v.doneMap }

/-- VERDICT_WRITE_BACK (R551): the summary of the held verdict over the one that arrived. -/
def writeBack (held v : Verdict) : Verdict :=
  if held.step = v.step ∧ (!verdictFinal v ∨ held.decideRev < v.decideRev) then { held with records := v.records }
  else v

/-- R345: the aborts of a step take effect, or are illegal when the verdict stands. -/
def State.settleAborts (s : State) (x : LiveStep) (stands : Bool) : State :=
  let s := x.abortPending.foldl (fun t r => if stands then t.illegalCmd r 5 else t.finish r 0 0) s
  s.onStep x.step (fun y => { y with abortPending := [], aborted := y.aborted || !stands, poisoned := y.poisoned || !stands })

/-- What a member does as slot 1, good, leaves it in revolution `rev`. -/
def State.passVerdict (s : State) (rev : Nat) : State :=
  let s := if verdictFinal s.verdict.slot1 then s.holdFinal s.verdict.slot1 else s
  let v := match s.verdict.held with
    | some h => writeBack h s.verdict.slot1
    | none => s.verdict.slot1
  match s.stepOf v.step with
  | none => { s with verdict.slot1 := v }
  | some x =>
    let own := s.conv.span.index
    let plain := s.memberRecord x
    let first := finalize (withRecord v own plain) own plain rev
    let aborting := !x.abortPending.isEmpty
    let s := if aborting then s.settleAborts x (verdictFinal first) else s
    let v' := if aborting && !verdictFinal first then
        (let r := { plain with poisoned := true }
         finalize (withRecord v own r) own r rev)
      else first
    let s := { s with verdict.slot1 := v' }
    if verdictFinal v' then s.holdFinal v' else s

/-- The revolution of slot 1 as it leaves position 1,279: that of the marker before it (R51). In one module that marker has
reached position 0 again, where the controller has written the next one. -/
def State.slot1Rev (s : State) : Nat := s.conv.marker.rev.toNat - (if s.conv.span.n = 1 then 1 else 0)

/-- VERDICT_RECORD_WRITE (R126, R127, R551): slot 1 leaves position 1,279. -/
def execVerdictRecordWrite (crcFail : Bool) (s : State) : Out :=
  let rev := s.slot1Rev
  if !s.moving then .next s
  else if crcFail || s.verdict.crcBad then .next (({ s with verdict.crcBad := true } : State).bump 0x30143 0)
  else if !s.verdict.slot1.collecting || (s.conv.controls && decide (rev < s.verdict.openRev)) then .next s
  else
    let s := s.passVerdict rev
    .next (if s.conv.controls then { s with verdict.kept := some s.verdict.slot1 } else s)

/-- VERDICT_SLOT_REBUILD (R551): the controller rewrites a damaged slot 1 from its copy. In a span the slot came in
damaged and is counted here; in one module the pass that damaged it has been counted. Without a verdict the copy is of kind
0x00. -/
def execVerdictSlotRebuild (s : State) : Out :=
  if s.moving && s.conv.controls && s.verdict.crcBad then
    let t : State := { s with verdict.slot1 := s.verdict.kept.getD {}, verdict.crcBad := false }
    .next (if s.conv.span.n = 1 then t else t.bump 0x30143 0)
  else .next s

end Sys2Proof.Machine
end

