-- ==== Sys2Proof/Machine/KilnOps.lean ====
section
/-!
DEFINITION. What the Kiln commands share: parameter groups and step-size entries (R322 to R326), the update rules
(R330), working copies and their block scales (R332, R333, R335, R336), masters in their two banks (R319, R320), stripes
and lost units (R311 to R314), and lost masters and tiles (R473 to R475).
-/

namespace Sys2Proof.Machine

/-! ### Step-size entries (R323, R324) -/

def negVal (v : Val) : Val := mulVal (.fin true 1 0) v

def isZeroVal : Val → Bool
  | .fin _ m _ => m == 0
  | _ => false

/-- rne32 of R330 on an exact value that is not zero; a zero becomes +0. -/
def rne32 (v : Val) : Word × Bool := if isZeroVal v then (0#32, false) else satVal v

/-- d := rne32(1 - eta*lambda). -/
def decayOf (eta lambda : Word) : Word := (rne32 (addVal (.fin false 1 0) (negVal (mulVal (val32 eta) (val32 lambda))))).1

/-- Table 10.3. -/
def groupEntryOf (n : Nat) : GroupEntry :=
  let eta := BitVec.ofNat 32 (fld n 160 32)
  let lambda := BitVec.ofNat 32 (fld n 128 32)
  { eta := eta, lambda := lambda, clip := BitVec.ofNat 32 (fld n 96 32), wcScale := BitVec.ofNat 32 (fld n 64 32),
    wcFmt := BitVec.ofNat 8 (fld n 56 8), gradFmt := BitVec.ofNat 8 (fld n 48 8), wcBlock := fld n 11 2, wcDir := bit n 10,
    wcEn := bit n 9, rule := fld n 2 2, export_ := bit n 1, frozen := bit n 0, invalid := false,
    decay := decayOf eta lambda }

/-- Elements of a block of working-copy scales. -/
def GroupEntry.block (e : GroupEntry) : Nat := 16 * 2 ^ e.wcBlock

/-- R324. -/
def GroupEntry.bad (e : GroupEntry) : Bool :=
  !finite32 e.eta || (e.rule == 1 && !finite32 e.lambda)
    || (e.rule == 3 && (!finite32 e.clip || (neg32 e.clip && !isZero32 e.clip)))
    || !finite32 e.wcScale || neg32 e.wcScale || isZero32 e.wcScale
    || !(decide (1 ≤ e.wcFmt.toNat) && decide (e.wcFmt.toNat ≤ 6)) || !gradFormat e.gradFmt
    || (e.wcEn && (decide (3 < e.wcFmt.toNat) || e.wcBlock == 3))
    || (e.wcEn && e.wcDir && decide (gradCols e.gradFmt < e.block))

/-- An entry as a Kiln latches it. -/
def latchEntry (n : Nat) : GroupEntry :=
  let e := groupEntryOf n
  { e with invalid := e.bad }

/-- R322: the group that a logical number of virtual interface `v` names, if the allocation holds it. -/
def State.physGroup (s : State) (v g : Nat) : Option Nat :=
  let a := s.obj 0x30014 v
  if g < fld a 0 13 then some ((fld a 16 12 + g) % 4096) else none

/-- The table that a STEP_OPEN or KILN_WRITE of context `k` names, within the allocation (R323). -/
def State.readTable (s : State) (k table count : Nat) : List GroupEntry :=
  (List.range (min count (fld (s.obj 0x30014 (ctxVi k)) 0 13))).map (fun i => latchEntry (leNat (s.readVirt k (table + 32 * i) 32)))

def groupKey (k g : Nat) : Nat := k * 4096 + g

/-- R325: the entry latched for a step. -/
def Kiln.entryOf (x : Kiln) (st : BitVec 32) (k g : Nat) : Option GroupEntry :=
  (x.tables.find? (fun t => t.step == st)).bind (fun t => Bank.find? t.entries (groupKey k g))

/-- The entry of a group latched last (R338). -/
def Kiln.lastEntry (x : Kiln) (k g : Nat) : Option GroupEntry :=
  x.tables.reverse.findSome? (fun t => Bank.find? t.entries (groupKey k g))

/-- R323, R324, R326: a group without an entry and an invalid entry are frozen; groups of the physical function take the
bit of 30.019. -/
def State.groupFrozen (s : State) (v phys : Nat) : Option GroupEntry → Bool
  | none => true
  | some e => e.invalid || (if v = 0 then bit (s.obj 0x30019 0) phys else e.frozen)

/-! ### The update rules (R330) -/

/-- The term that a rule subtracts: eta times what the rule makes of the gradient. -/
def ruleTerm (e : GroupEntry) (g : Word) : Val :=
  let x : Val := match e.rule with
    | 2 => if isZero32 g then .fin false 0 0 else .fin (neg32 g) 1 0
    | 3 => val32 (min32 (max32 g (negWord e.clip)) e.clip)
    | _ => val32 g
  mulVal (val32 e.eta) x

/-- The new master and whether it saturated. A master that is no finite number has no stated result: a free value. -/
def newMaster (e : GroupEntry) (w g : Word) : Word × Bool :=
  if !finite32 w then (Config.resultOpen 0x100 w g, false)
  else
    let t := ruleTerm e g
    let base := if e.rule = 1 then mulVal (val32 w) (val32 e.decay) else val32 w
    let v := addVal base (negVal t)
    if isZeroVal v && w = f32Zero true && isZeroVal t then (f32Zero true, false) else rne32 v

/-! ### Working copies (R332, R333) -/

/-- Columns of a weight tile in a working-copy format (Table 3.4). -/
def wcCols (fmt : BitVec 8) : Nat := 512 / elemBits fmt.toNat

/-- a ≤ m · 2^e for a magnitude a. -/
def magLe (a : Word) (m : Nat) (e : Int) : Bool :=
  match val32 a with
  | .fin _ n f => let s := sumExact false m e true n f; decide (0 ≤ s.1)
  | _ => false

/-- The scale field of a block: e + 127 for the smallest e with a_max ≤ F_max · 2^e. -/
def scaleField (fmt : BitVec 8) (amax : Word) : Nat :=
  match (fmtOf fmt.toNat).map (fun (f : Fmt) => f.decode f.maxCode) with
  | some (.fin _ m e) =>
    if isZero32 amax then 127
    else ((List.range 255).find? (fun (i : Nat) => magLe amax m (e + Int.ofNat i - 127))).getD 254
  | _ => 127

/-- The largest magnitude of some values. -/
def maxMag (l : List Word) : Word := l.foldl (fun a x => max32 a (absWord x)) 0#32

/-- What a Kiln writes of a part: bytes of the tile, scale bytes by index, and the saturations. -/
structure WcPart where
  bytes : Bytes
  scales : List (Nat × Nat)
  sat : Nat
deriving DecidableEq, Repr

/-- The blocks of a part: index of the scale (Table 6.5) and the elements as positions in the part. -/
def partBlocks (e : GroupEntry) (n0 cols : Nat) : List (Nat × List Nat) :=
  let b := e.block
  if e.wcDir then
    (List.range 64).flatMap (fun k => (List.range (cols / b)).map (fun j =>
      (k * ((wcCols e.wcFmt + b - 1) / b) + (n0 / b + j), (List.range b).map (fun i => 64 * (b * j + i) + k))))
  else
    (List.range cols).flatMap (fun n => (List.range (64 / b)).map (fun j =>
      ((n0 + n) * (64 / b) + j, (List.range b).map (fun i => 64 * n + (b * j + i)))))

/-- The block of element (k, n) of a part, as its scale index. -/
def blockOf (e : GroupEntry) (n0 i : Nat) : Nat :=
  scaleIdxW e.wcDir e.block (wcCols e.wcFmt) (i % 64) (n0 + i / 64)

/-- R332: the masters of a part, K-major, as a working copy. -/
def wcPart (e : GroupEntry) (n0 cols : Nat) (ws : List Word) : WcPart :=
  let vs := ws.map (fun w => mulIeee w e.wcScale)
  let scales := if e.wcEn then
      (partBlocks e n0 cols).map (fun x => (x.1, scaleField e.wcFmt (maxMag (x.2.map (fun i => vs.getD i 0#32)))))
    else []
  let one : Nat → Word → Conv1 := fun i v =>
    let sc := if e.wcEn then (Bank.find? scales (blockOf e n0 i)).getD 127 else 127
    convertElem e.wcFmt.toNat (mulVal (val32 v) (.fin false 1 (127 - (sc : Int))))
  let l := vs.mapIdx one
  let bits := elemBits e.wcFmt.toNat
  { bytes := leBytes (ws.length * bits / 8) (packFields (l.map (fun c => (bits, c.code)))), scales := scales,
    sat := (l.filter (·.sat)).length }

/-! ### Masters (R319, R320) -/

def masterKey (copy block i : Nat) : Nat := (copy * 21635072 + block) * 1024 + i

/-- Element `i` of a copy (0: A, 1: B) of a block; undefined before KILN_WRITE. -/
def Kiln.master (x : Kiln) (k copy block i : Nat) : Word :=
  (Bank.find? x.masters (masterKey copy block i)).getD (Config.masterBefore k copy (block * 1024 + i))

def Kiln.activeCopy (x : Kiln) (block : Nat) : Nat := if x.activeB.contains block then 1 else 0

/-- The copy written last: the alternate one while PENDING is set. -/
def Kiln.newestCopy (x : Kiln) (block : Nat) : Nat :=
  if x.pending.contains block then 1 - x.activeCopy block else x.activeCopy block

/-- The 1,024 masters of a copy. -/
def Kiln.blockWords (x : Kiln) (k copy block : Nat) : List Word := (List.range 1024).map (x.master k copy block)

/-- A copy of a block is written. -/
def Kiln.putBlock (x : Kiln) (copy block : Nat) (ws : List Word) : Kiln :=
  { x with masters := (ws.mapIdx (fun i w => (masterKey copy block i, w))).foldl (fun b y => Bank.put b y.1 y.2) x.masters }

/-- First unit of a copy of a block (R319). -/
def unitBase (copy block : Nat) : Nat := (if copy = 0 then 1310720 else 347471872) + 16 * block

def unitsOf (copy : Nat) (blocks : List Nat) : List Nat :=
  blocks.flatMap (fun b => (List.range 16).map (unitBase copy b + ·))

/-! ### Stripes (R311 to R314) -/

/-- The unit numbers of a Kiln end here; from here on a number names the parity unit of a stripe. -/
def unitCount : Nat := 693633024

/-- Number ⌊u/7⌋ of the stripe that a data unit, or a parity unit, lies in among the stripes of its Kiln. -/
def stripeOf (u : Nat) : Nat := if u < unitCount then u / 7 else u - unitCount

/-- The stripe σ of R311. -/
def stripeNumber (k i : Nat) : Nat := 2 * i + k % 2

/-- The package of a unit among the eight of its pair: data units in ascending order beside the parity unit. -/
def packageOf (k u : Nat) : Nat :=
  let par := stripeNumber k (stripeOf u) % 8
  if u < unitCount then (if u % 7 < par then u % 7 else u % 7 + 1) else par

/-- Packages of the Kiln's pair that satisfy `p`. -/
def State.packagesOf (s : State) (k : Nat) (p : LpPackage → Bool) : List Nat :=
  (List.range 8).filter (fun i => p (s.mem.lp.get {} (8 * (k / 2) + i)))

/-- Failed packages of the Kiln's pair. -/
def State.failedPackages (s : State) (k : Nat) : List Nat := s.packagesOf k (·.failed)

/-- Packages of the pair in a retraining window (R314). -/
def State.retrainingPackages (s : State) (k : Nat) : List Nat := s.packagesOf k (·.retraining)

/-- Stripes that are lost when `units` are read and those of `bad` fail their CRC: two packages of the stripe cannot be
read, and one of them was asked for; or two packages of the pair have failed. -/
def lostStripes (k : Nat) (failed units bad : List Nat) : List Nat :=
  ((units.map stripeOf).dedup).filter (fun i =>
    let gone := ((bad.filter (fun u => stripeOf u == i)).map (packageOf k) ++ failed).dedup
    decide (2 ≤ failed.length) || (decide (2 ≤ gone.length)
      && units.any (fun u => stripeOf u == i && gone.contains (packageOf k u))))

/-- The data units of a stripe of a Kiln. -/
def stripeUnits (i : Nat) : List Nat := (List.range 7).map (7 * i + ·)

/-- Block, copy and first element of a master unit. -/
def unitPlace (u : Nat) : Nat × Nat × Nat :=
  if u < 347471872 then (0, (u - 1310720) / 16, (u - 1310720) % 16 * 64)
  else (1, (u - 347471872) / 16, (u - 347471872) % 16 * 64)

/-- A number of `n` words, the first lowest. -/
def packWords (ws : List Word) : Nat := packFields (ws.map (fun w => (32, w.toNat)))

def xorUnits (l : List (BitVec 2048)) : BitVec 2048 := l.foldl (· ^^^ ·) 0

def unitCrc (v : BitVec 2048) : BitVec 32 := crc32c (leBytes 256 v.toNat)

/-- The 4,160 bytes of a parked slot: its header and its payload (R130). -/
def slotImage (x : Slot) : Bytes := leBytes 64 (slotHeader x) ++ (x.payload ++ List.replicate 4096 0).take 4096

/-- A byte of the park area. DESIGN CHOICE: the ith oldest parked tile lies at byte 4,160 · i (log entry 69). -/
def Kiln.parkByte (x : Kiln) (k b : Nat) : Byte :=
  match x.park[b / 4160]? with
  | some t => (slotImage t.slot).getD (b % 4160) 0
  | none => BitVec.ofNat 8 (fld (Config.parkUnit k (b / 256)).toNat (8 * (b % 256)) 8)

/-- The units that a parked tile lies in; none for a tile that is not parked. -/
def Kiln.parkUnits (x : Kiln) (t : KilnTile) : List Nat := if x.park.contains t then parkUnitsAt (x.park.idxOf t) else []

/-- The 256 bytes that a data unit holds for the Kiln: masters, or part of the park area (R319). -/
def Kiln.unitValue (x : Kiln) (k u : Nat) : BitVec 2048 :=
  if u < 1310720 then BitVec.ofNat 2048 (leNat ((List.range 256).map (fun i => x.parkByte k (256 * u + i))))
  else
    let p := unitPlace u
    BitVec.ofNat 2048 (packWords ((List.range 64).map (fun i => x.master k p.1 p.2.1 (p.2.2 + i))))

/-- What the slow tier holds of a data unit: that of the write buffer where its new content has not been written yet. -/
def Kiln.storedData (x : Kiln) (k u : Nat) : BitVec 2048 :=
  ((x.stripes.get [] (stripeOf u)).find? (u % 7)).getD (x.unitValue k u)

/-- What the slow tier holds of a unit. The parity unit is the exclusive-or of the stripe's other seven (R311); one that a
stripe write has written stands as written. -/
def Kiln.stored (x : Kiln) (k u : Nat) : BitVec 2048 :=
  if u < unitCount then x.storedData k u
  else
    let i := u - unitCount
    let whole := xorUnits ((stripeUnits i).map (x.storedData k))
    if 7 * i < 1310720 then whole else (x.parity.find? i).getD whole

/-- The stored CRC of a unit: that of its content (R311), or what a stripe write or a rebuild has written. -/
def Kiln.storedCrc (x : Kiln) (k u : Nat) : BitVec 32 :=
  if u < 1310720 then unitCrc (x.stored k u) else (x.crcs.find? u).getD (unitCrc (x.stored k u))

/-- A unit rebuilt from the other seven of its stripe (R312). -/
def Kiln.rebuild (x : Kiln) (k u : Nat) : BitVec 2048 :=
  let i := stripeOf u
  xorUnits (((stripeUnits i ++ [unitCount + i]).filter (· != u)).map (x.stored k))

/-- A unit is written back. -/
def Kiln.putUnit (x : Kiln) (u : Nat) (v : BitVec 2048) : Kiln :=
  if unitCount ≤ u then { x with parity := x.parity.put (u - unitCount) v }
  else
    let b := x.stripes.get [] (stripeOf u)
    if (Bank.find? b (u % 7)).isSome then { x with stripes := x.stripes.put (stripeOf u) (b.put (u % 7) v) }
    else if u < 1310720 then x
    else
      let p := unitPlace u
      let put : Bank Word → Nat → Bank Word := fun m i =>
        m.put (masterKey p.1 p.2.1 (p.2.2 + i)) (BitVec.ofNat 32 (fld v.toNat (32 * i) 32))
      { x with masters := (List.range 64).foldl put x.masters }

def unitFails (r : UnitRead) : Bool := unitCrc r.data != r.crc

/-- R312: the unit is written back when the rebuilt one matches the stored CRC, the CRC when the rebuilt unit is the one that
was read. -/
def Kiln.heal (k : Nat) (x : Kiln) (r : UnitRead) : Kiln :=
  let v := x.rebuild k r.unit
  if unitCrc v = r.crc then x.putUnit r.unit v
  else if v = r.data then { x with crcs := x.crcs.put r.unit (unitCrc v) }
  else x

/-- A unit is lost. -/
def Kiln.unitLost (x : Kiln) (u : Nat) : Bool := x.lostUnits.contains u || (x.allLost && !x.restored.contains u)

/-- The masters of lost units are undefined from now on. -/
def Kiln.forgetUnits (x : Kiln) (units : List Nat) : Kiln :=
  let gone : Nat → Bool := fun key => units.any (fun u =>
    let p := unitPlace u
    decide (1310720 ≤ u) && decide (masterKey p.1 p.2.1 p.2.2 ≤ key) && decide (key < masterKey p.1 p.2.1 p.2.2 + 64))
  { x with masters := x.masters.filter (fun m => !gone m.1), restored := x.restored.filter (fun u => !units.contains u) }

/-- STRIPE_LOST: the stripe is counted, its units are lost but for those that wait in the write buffers, a record is posted
(R312). -/
def State.loseStripe (k : Nat) (s : State) (i : Nat) : State :=
  let x := s.kilnAt k
  let units := (stripeUnits i).filter (fun u => (Bank.find? (x.stripes.get [] i) (u % 7)).isNone)
  if units.all x.unitLost then s
  else
    let y := x.forgetUnits units
    let y := if x.allLost then y else { y with lostUnits := units.foldl (fun l u => insertNat u l) y.lostUnits }
    ((s.putKiln k y).bump 0x40133 k).caskPost 0x0406 (source 5 k) (leBytes 128 (stripeNumber k i))

/-- Blocks of a list with a lost unit in either copy (R473). -/
def Kiln.lostOf (x : Kiln) (blocks : List Nat) : List Nat :=
  blocks.filter (fun b => (unitsOf 0 [b] ++ unitsOf 1 [b]).any x.unitLost)

/-- The units read whose CRC fails, when some units are asked for: of a stripe of which one of them cannot be had, since its
CRC fails or its package, one of `down`, does not answer, the other units are read too (R312, R314). -/
def badReads (k : Nat) (down units : List Nat) (reads : SlowReads) : List UnitRead :=
  let fails := reads.bad.filter (fun r => unitFails r && !down.contains (packageOf k r.unit))
  let again := ((units.filter (fun u => down.contains (packageOf k u) || fails.any (fun r => r.unit == u))).map stripeOf).dedup
  fails.filter (fun r => units.contains r.unit || again.contains (stripeOf r.unit))

/-- R314: a unit can be had only through a package that retrains, so the read waits. -/
def State.unitsWait (s : State) (k : Nat) (units : List Nat) (reads : SlowReads) : Bool :=
  let hold := s.retrainingPackages k
  let failed := s.failedPackages k
  let bad := (badReads k (failed ++ hold) units reads).map (·.unit)
  !hold.isEmpty && decide (failed.length < 2) && ((units.map stripeOf).dedup).any (fun i =>
    let gone := ((bad.filter (fun u => stripeOf u == i)).map (packageOf k) ++ failed).dedup
    let all := (gone ++ hold).dedup
    decide (gone.length < 2) && decide (2 ≤ all.length)
      && units.any (fun u => stripeOf u == i && all.contains (packageOf k u)))

/-- Where the data of some stripes are to go: the write buffers, which keep what the slow tier still holds (R313). -/
def Kiln.fill (x : Kiln) (k : Nat) (units : List Nat) : Kiln :=
  let one : Bank (Bank (BitVec 2048)) → Nat → Bank (Bank (BitVec 2048)) := fun b u =>
    let l := b.get [] (stripeOf u)
    if (Bank.find? l (u % 7)).isSome then b else b.put (stripeOf u) (l.put (u % 7) (x.unitValue k u))
  { x with stripes := units.foldl one x.stripes }

/-- R317: the 16 write buffers have room for some units. -/
def Kiln.roomFor (x : Kiln) (units : List Nat) : Bool :=
  ((x.stripes.map (·.1)) ++ units.map stripeOf).dedup.length ≤ 16

/-- R313: a stripe leaves the write buffers. A whole one gives its parity; one of fewer units takes the old units and the old
parity as they were read. The CRCs of the units written and of the parity go with it. -/
def Kiln.writeStripe (x : Kiln) (k i : Nat) : Kiln :=
  let b := x.stripes.get [] i
  let units := b.map (fun y => 7 * i + y.1)
  let old := x.stored k (unitCount + i)
  let par := if 7 ≤ b.length then xorUnits ((stripeUnits i).map (x.unitValue k))
    else b.foldl (fun p y => p ^^^ y.2 ^^^ x.unitValue k (7 * i + y.1)) old
  let crcs := units.foldl (fun c u => Bank.put c u (unitCrc (x.unitValue k u))) x.crcs
  { x with stripes := Bank.erase x.stripes i, flush := eraseNat i x.flush, parity := x.parity.put i par,
           crcs := Bank.put crcs (unitCount + i) (unitCrc par) }

/-! ### The packages (R311) -/

/-- Unit σ of package `q`, as the slow tier holds it: the parity unit of its stripe, or a data unit. -/
def State.packageUnit (s : State) (q i : Nat) : BitVec 2048 × BitVec 32 :=
  let k := 2 * (q / 8) + i % 2
  let par := i % 8
  let u := if q % 8 = par then unitCount + i / 2 else 7 * (i / 2) + (if q % 8 < par then q % 8 else q % 8 - 1)
  ((s.kilnAt k).stored k u, (s.kilnAt k).storedCrc k u)

/-- Units of a package's data area. -/
def packageUnits : Nat := 198180864

/-- Unit `m` of the metadata area of package `q`: the CRC of data-area unit u at offset 4u of the area, little-endian; behind
756 MiB nothing is stored. -/
def State.metadataUnit (s : State) (q m : Nat) : BitVec 2048 :=
  BitVec.ofNat 2048 (packWords ((List.range 64).map (fun i =>
    if 64 * m + i < packageUnits then (s.packageUnit q (64 * m + i)).2 else 0)))

/-- The parity of stripe `m` of the metadata areas of a package's pair: by the rule of the data stripes the exclusive-or of the
metadata units of the other seven packages. DESIGN CHOICE: it stands beside the CRCs, since package m mod 8 holds CRCs at
that place too (log entry 69). -/
def State.metadataParity (s : State) (j m : Nat) : BitVec 2048 :=
  xorUnits (((List.range 8).filter (· != m % 8)).map (fun i => s.metadataUnit (8 * j + i) m))

/-! ### Map entries -/

/-- The entry of a gradient tile in the update map that has started (R327). -/
def State.mapEntry (s : State) (k : Nat) (tile : BitVec 32) : Option MapEntry :=
  ((s.ctx? k).bind (·.upd)).bind (fun u => if u.waits then none else u.entries.find? (fun m => m.tileId == tile))

/-- The gate entry of a gradient tile of a context. -/
def State.gateEntry (s : State) (k : Nat) (tile : BitVec 32) : Option GateEntry := (s.retOf k).bind (fun p => p.gateOf tile)

/-- First block of the allocation of a virtual interface (R321). -/
def State.masterFirst (s : State) (v : Nat) : Nat := fld (s.obj 0x30021 v) 32 25
def State.masterCount (s : State) (v : Nat) : Nat := fld (s.obj 0x30021 v) 0 25

/-- The block positions of a map entry (R327). -/
def State.blocksOf (s : State) (k : Nat) (m : MapEntry) (format : BitVec 8) : List Nat :=
  (List.range (gradBlocks format)).map (fun i => s.masterFirst (ctxVi k) + m.master + i)

/-- R329, step 4: the geometry of the working copy agrees with PART_N0 and PARTS, and scales have their tile. -/
def wcFits (e : GroupEntry) (m : MapEntry) (format : BitVec 8) : Bool :=
  !(e.wcEn && m.scaleA == 0) && m.parts * gradCols format == wcCols e.wcFmt
    && decide (m.partN0 + gradCols format ≤ wcCols e.wcFmt)

/-! ### Writing a working copy (R335, R336) -/

/-- The fast-tier address of the buffer of a generation. -/
def State.bufferAt (s : State) (k gristA : Nat) (gen : BitVec 16) : Option Nat := s.gristAt k (bufferOf gristA gen)

/-- R335: no slot filled from the buffer circulates, no entry that reads the older generation from it is pending, and no
re-injection from it. -/
def State.released (s : State) (a : Nat) (gen : BitVec 16) : Bool :=
  s.conv.inj.all (fun (x : Nat × Injector) => x.2.filled.all (fun (y : Nat × InjSlot) => y.2.src != a) && x.2.again.all (fun r => r.src != a))
    && s.host.ctxs.all (fun (x : Nat × Ctx) => match x.2.conv with
      | none => true
      | some p => p.runs.all (fun r => (p.inj.mapIdx (fun i e => (i, e))).all (fun y =>
          let old := y.2.expected r.gen
          !(old + 2 == gen && !r.injDone.contains y.1 && s.bufferAt x.1 y.2.gristA old == some a))))

/-- R335, R24: the buffers that a part goes to, that of its tile and, with block scales, that of its scale tile, have been
released. -/
def State.partReady (s : State) (k gristA scaleA : Nat) (gen : BitVec 16) : Bool :=
  let free : Nat → Bool := fun va => (s.bufferAt k va gen).elim true (fun a => s.released a gen)
  free gristA && (scaleA == 0 || free scaleA)

/-- Bytes that a Kiln writes at a grist address of a context; a Kiln is not regulated, so that no bucket is charged for them
(R309). -/
def State.gristWrite (s : State) (k va : Nat) (bs : Bytes) : State :=
  match s.gristAt k va with
  | some a => s.domainWrite 64 (.fast a) bs
  | none => s

/-- The scale bytes of a part, in the sub-blocks from SC_FIRST on. -/
def State.writeScales (s : State) (k : Nat) (m : MapEntry) (gen : BitVec 16) (l : List (Nat × Nat)) : State :=
  if m.scaleA = 0 then s
  else l.foldl (fun t x =>
    if 256 * m.scFirst + x.1 < 4096 then t.gristWrite k (bufferOf m.scaleA gen + 256 * m.scFirst + x.1) [BitVec.ofNat 8 x.2]
    else t) s

/-- A part of a tile and its scales. -/
def State.writePart (s : State) (k : Nat) (m : MapEntry) (gen : BitVec 16) (e : GroupEntry) (p : WcPart) : State :=
  (s.gristWrite k (bufferOf m.gristA gen + m.partN0 * 64 * elemBits e.wcFmt.toNat / 8) p.bytes).writeScales k m gen p.scales

/-- Scale bytes of a part in its scale tile, by the group entry latched for it. -/
def scaleBytesOf (e : GroupEntry) (m : MapEntry) (format : BitVec 8) : List Nat :=
  if e.wcEn then (partBlocks e m.partN0 (gradCols format)).map (fun x => 256 * m.scFirst + x.1) else []

/-- What the map entry of another part claims of a scale tile: its own scale bytes, or the first sub-block of a tile whose
scales no latched entry describes. -/
def State.scaleClaim (s : State) (x : Kiln) (st : BitVec 32) (k : Nat) (m : MapEntry) : List Nat :=
  match s.gateEntry k m.tileId with
  | none => []
  | some g => match x.entryOf st k g.pgroup.toNat with
    | some e => scaleBytesOf e m g.format
    | none => (List.range 256).map (256 * m.scFirst + ·)

/-- R336: the scale bytes that go with the part of a frozen group. Its latched entry names them; where none does, they are
those of two sub-blocks from SC_FIRST on that no other part claims (log entry 66). -/
def State.frozenScales (s : State) (x : Kiln) (st : BitVec 32) (k : Nat) (m : MapEntry) (format : BitVec 8)
    (e : Option GroupEntry) : List Nat :=
  let own := e.elim [] (fun y => scaleBytesOf y m format)
  let others := ((s.ctx? k).bind (·.upd)).elim [] (fun (u : UpdMap) => u.entries.filter (fun y =>
    y.scaleA == m.scaleA && y.tileId != m.tileId))
  let taken := (others.filter (fun y => y.gristA != m.gristA || y.scFirst != m.scFirst)).flatMap (s.scaleClaim x st k)
    ++ (others.filter (fun y => y.gristA == m.gristA)).flatMap (fun y => match s.gateEntry k y.tileId with
      | some g => (x.entryOf st k g.pgroup.toNat).elim [] (fun z => scaleBytesOf z y g.format)
      | none => [])
  if own.isEmpty then ((List.range 512).map (256 * m.scFirst + ·)).filter (fun i => decide (i < 4096) && !taken.contains i)
  else own.filter (fun i => decide (i < 4096))

/-- R336: the part of a frozen group is copied from the buffer of the generation before, with its scale bytes. -/
def State.copyPart (s : State) (q : Nat) (st : BitVec 32) (k : Nat) (m : MapEntry) (gen : BitVec 16) (format : BitVec 8)
    (e : Option GroupEntry) : State :=
  let w := 4096 / max m.parts 1
  let o := m.partN0 / gradCols format * w
  let copy : Nat → State → Nat × Nat → State := fun va t y =>
    match t.gristAt k (bufferOf va (gen - 1)) with
    | some a => (t.readArrays (a + y.1) y.2 2).gristWrite k (bufferOf va gen + y.1) (t.readPlace (.fast (a + y.1)) y.2)
    | none => t
  let l := s.frozenScales (s.kilnAt q) st k m format e
  let s := copy m.gristA s (o, w)
  if m.scaleA = 0 then s else (l.map (fun i => (i, 1))).foldl (copy m.scaleA) s

/-- One more part of a tile is written; the parts so far, or none when they are all. -/
def addPart (b : Bank (BitVec 16 × List (BitVec 32))) (a need : Nat) (gen : BitVec 16) (tile : BitVec 32) :
    Bank (BitVec 16 × List (BitVec 32)) × Bool :=
  let l := match Bank.find? b a with
    | some (g, l) => if g = gen then l else []
    | none => []
  let l := if l.contains tile then l else l ++ [tile]
  if l.length < need then (Bank.put b a (gen, l), false) else (Bank.erase b a, true)

/-- The Kiln reports a tile to the injector of its stack (R336). -/
def State.report (s : State) (j a : Nat) (gen : BitVec 16) : State :=
  let y := s.kilnAt j
  s.putKiln j { y with reported := Bank.put y.reported a gen, failed := y.failed.filter (· != a) }

/-- The map entries whose scales go to a scale tile. -/
def State.scaleEntries (s : State) (a : Nat) : Nat :=
  sumNat (s.host.ctxs.map (fun (x : Nat × Ctx) => (x.2.upd.elim [] (fun (u : UpdMap) => u.entries.filter (fun m =>
    m.scaleA != 0 && s.gristAt x.1 m.scaleA == some a))).length))

/-- R336 for a scale tile: it is written once every map entry that it serves has written its scales. -/
def State.scaleDone (s : State) (q k : Nat) (m : MapEntry) (gen : BitVec 16) : State :=
  match s.gristAt k m.scaleA, s.bufferAt k m.scaleA gen with
  | some a, some b =>
    if m.scaleA = 0 then s
    else
      let j := (s.stackOf k m.scaleA).elim q (fun (h : Nat) => h / 2)
      let x := s.kilnAt j
      let r := addPart x.scaleParts b (s.scaleEntries a) gen m.tileId
      let s := s.putKiln j { x with scaleParts := r.1 }
      if r.2 then s.report j b gen else s
  | _, _ => s

/-- R317: the part tracker of 4,096 entries has room for a tile. -/
def Kiln.tracks (x : Kiln) (a parts : Nat) : Bool :=
  decide (parts ≤ 1) || (Bank.find? x.parts a).isSome || decide (x.parts.length < 4096)

/-- R336: a part is written; when it is the last one of the tile, the tile is reported to the injector of its stack. -/
def State.partDone (s : State) (q k : Nat) (m : MapEntry) (gen : BitVec 16) : State :=
  match s.bufferAt k m.gristA gen with
  | none => s
  | some a =>
    let s := s.scaleDone q k m gen
    let x := s.kilnAt q
    if !x.tracks a m.parts then s
    else
      let r := addPart x.parts a m.parts gen m.tileId
      let s := s.putKiln q { x with parts := r.1 }
      if r.2 then s.report ((s.stackOf k m.gristA).elim q (fun (h : Nat) => h / 2)) a gen else s

/-! ### Lost masters and tiles (R473 to R475) -/

/-- A running injector entry that names a grist buffer pair: context and entry. -/
def State.injectorsOf (s : State) (a : Nat) : List (Nat × InjEntry) :=
  s.host.ctxs.flatMap (fun (x : Nat × Ctx) => (x.2.conv.elim [] (fun (p : ConvProg) => p.inj.filter (fun e =>
    s.gristAt x.1 e.gristA == some a))).map (fun e => (x.1, e)))

/-- Whether the lost tile of a buffer pair is shared grist. -/
def State.sharedTile (s : State) (a : Nat) : Bool := (s.injectorsOf a).any (fun y => y.2.shared)

/-- The record of every live step: SHARED_LOST for shared grist, else POISONED. -/
def State.failLive (s : State) (shared : Bool) : State :=
  s.steps.live.foldl (fun t x => t.onStep x.step (fun y =>
    if shared then { y with sharedLost := true } else { y with poisoned := true })) s

/-- R475: who receives SHARED_TILE_LOST. -/
def State.tellLost (s : State) (a tile : Nat) : State :=
  let step := (s.steps.live.head?.map (·.step)).getD noStep
  let names : Nat → Bool := fun k => s.obj 0x30012 (ctxVi k) == 1
    || (ctxVi k == 0 && (s.injectorsOf a).any (fun y => y.1 == k))
  ((s.host.ctxs.map (·.1)).filter names).foldl (fun t k => t.wideEvent k 7 0 0 step.toNat tile 0) s

/-- A tile is lost: `a` is the address of buffer A, `blocks` the lost blocks of Kiln `q`; cause 0 stripe, 1 no map entry. The
list of lost blocks takes what it has room for; TILE_LOST tells it once, and further blocks of the tile only enter the list. -/
def State.declareLost (s : State) (q a : Nat) (tile : BitVec 32) (blocks : List Nat) (cause : Nat) : State :=
  let names := s.injectorsOf a
  let id := (names.head?.map (fun y => y.2.tileId)).getD tile
  let known := s.health.lostTiles.contains (a, id.toNat)
  let old := s.health.lostBlocks.get [] q
  let new := blocks.filter (fun b => !old.contains b)
  let room := new.take (4096 - old.length)
  let s := { s with health.lostBlocks := s.health.lostBlocks.set [] q (old ++ room),
                    health.lostOverflow := s.health.lostOverflow || decide (room.length < new.length) }
  let s := if room.length < new.length then s.failLive false else s
  if known then s
  else
    let shared := s.sharedTile a
    let s := ({ s with health.lostTiles := s.health.lostTiles ++ [(a, id.toNat)] } : State).failLive shared
    let s := s.cancelLatches (fun _ e => e.tileId == id) true
    let s := s.caskPost 0x0408 (source 5 q) (leBytes 128 (packFields [(32, id.toNat), (8, if shared then 1 else 0),
      (16, blocks.length), (8, cause)]))
    if shared then s.tellLost a id.toNat else s

/-- A gradient tile that is not updated (R329, step 4). -/
def State.refuseTile (s : State) (q : Nat) (st : BitVec 32) : State := (s.bump 0x30155 q).poisonStep st

/-- Parked tiles with a unit in a lost stripe cannot be read back. DESIGN CHOICE: they are not updated, as tiles without
masters (log entry 69). -/
def State.loseParked (s : State) (q : Nat) : State :=
  let x := s.kilnAt q
  let gone := x.park.filter (fun t => (x.parkUnits t).any x.unitLost)
  if gone.isEmpty then s
  else
    let y := { x.restore (gone.flatMap x.parkUnits) with park := x.park.filter (fun t => !gone.contains t) }
    gone.foldl (fun t g => t.refuseTile q g.step) (s.putKiln q y)

/-- R473: the tiles whose map entries name a block with a lost unit are declared lost. -/
def State.noteLost (s : State) (q : Nat) : State :=
  let s := s.loseParked q
  let entries := s.host.ctxs.flatMap (fun (x : Nat × Ctx) => (x.2.upd.elim [] (fun (u : UpdMap) => u.entries)).map (fun m => (x.1, m)))
  entries.foldl (fun t y => match t.gateEntry y.1 y.2.tileId, t.gristAt y.1 y.2.gristA with
    | some g, some a =>
      let lost := (t.kilnAt q).lostOf (t.blocksOf y.1 y.2 g.format)
      if g.kiln == q && !lost.isEmpty then t.declareLost q a y.2.tileId lost 0 else t
    | _, _ => t) s

/-- Units are read: corrections of the links and failed CRCs are counted by package, lost stripes are found, and the other bad
units rebuilt (R312, R314). -/
def State.readUnits (s : State) (k : Nat) (units : List Nat) (reads : SlowReads) : State :=
  let bad := badReads k (s.failedPackages k ++ s.retrainingPackages k) units reads
  let lost := lostStripes k (s.failedPackages k) units (bad.map (·.unit))
  let q := 8 * (k / 2)
  let s := reads.linkCorrected.foldl (fun t i => t.bump 0x40130 (q + i.val)) s
  let s := bad.foldl (fun t r => t.bump 0x40131 (q + packageOf k r.unit)) s
  let heal := bad.filter (fun r => !lost.contains (stripeOf r.unit))
  let s := s.putKiln k (heal.foldl (Kiln.heal k) (s.kilnAt k))
  let t := (lost.foldl (State.loseStripe k) s).bumpBy 0x40132 k heal.length
  if lost.isEmpty then t else t.noteLost k

/-- Stripes of a Kiln. -/
def stripeCount : Nat := 99090432

/-- R314: with a second failed package every stripe of a Kiln of the pair is lost, each counted and recorded (R312). -/
def State.loseAll (s : State) (k : Nat) : State :=
  let x := s.kilnAt k
  let before := (x.lostUnits.map stripeOf).dedup
  if x.allLost then s
  else
    let s := s.putKiln k { x with masters := [], lostUnits := [], allLost := true, restored := [] }
    let one : State → Nat → State := fun t i =>
      if before.contains i then t else (t.bump 0x40133 k).caskPost 0x0406 (source 5 k) (leBytes 128 (stripeNumber k i))
    ((List.range stripeCount).foldl one s).noteLost k

/-- R347: a tile waits while the decision of an older step has not taken effect. -/
def State.tileWaits (s : State) (t : KilnTile) : Bool := (s.steps.undecided.head?.map (·.step)).any (fun st => st != t.step)

/-- Elements of a gradient tile in FP32, K-major; a direction of KILN_APPLY holds FP32 in the same shape (R353). -/
def KilnTile.words (t : KilnTile) : List Word :=
  let p := leNat t.slot.payload
  (List.range (64 * gradCols t.slot.format)).map (fun i =>
    if t.applied then BitVec.ofNat 32 (fld p (32 * i) 32) else gradElem t.slot.format p i)

/-- R329, step 1: NaN elements, and whether every element is finite. -/
def nanCount (ws : List Word) : Nat := (ws.filter isNan32).length
def allFinite (ws : List Word) : Bool := ws.all finite32

/-- A tile with a non-finite element is counted. -/
def State.countNonfinite (s : State) (q : Nat) (st : BitVec 32) (ws : List Word) : State :=
  ((s.bump 0x70112 q).bumpBy 0x70111 q (nanCount ws)).countStep st { nonfinite := 1, nan := nanCount ws }

/-- Saturations of working copies that belong to no step (R332): those of a rewrite and of KILN_WRITE. -/
def State.countSat (s : State) (q n : Nat) : State := if n = 0 then s else s.bumpBy 0x70110 q n

def State.countKilnSat (s : State) (q : Nat) (st : BitVec 32) (n : Nat) : State :=
  if n = 0 then s else (s.bumpBy 0x70110 q n).countStep st { sat := n }

end Sys2Proof.Machine
end

