-- ==== Sys2Proof/Machine/Kiln.lean ====
section
/-!
DEFINITION. The Kilns (R329 to R338, R347, R351, R353, R355): taking over and updating gradient tiles, working copies,
rewrites, stripes, and the commands KILN_READ, KILN_WRITE and KILN_APPLY.
-/

namespace Sys2Proof.Machine

/-! ### Taking over a tile (R329, steps 1 to 4; R347, R353) -/

/-- R353: the gradient, widened, goes into the export buffer, and the tile waits for KILN_APPLY. -/
def State.exportTile (s : State) (q : Nat) (t : KilnTile) : State :=
  let s := match s.mapEntry t.ctx t.slot.tileId with
    | some m => if m.exportA = 0 then s else s.storeAs 64 t.ctx m.exportA (t.words.flatMap (fun (w : Word) => leBytes 4 w.toNat))
    | none => s
  let x := s.kilnAt q
  s.putKiln q { x with exported := x.exported ++ [(t.step, t.ctx, t.slot.tileId)] }

/-- What the checks of steps 1 to 4 find. -/
inductive TileCheck where
  | nonfinite | frozen | refused | export_ | update
deriving DecidableEq, Repr

/-- Steps 1 to 4 of R329; a tile of an EXPORT group passes behind steps 1 and 3. -/
def State.checkTile (s : State) (q : Nat) (t : KilnTile) : TileCheck :=
  let g := t.slot.pgroup.toNat
  let e := (s.kilnAt q).entryOf t.step t.ctx g
  if !allFinite t.words then .nonfinite
  else match s.physGroup (ctxVi t.ctx) g, e with
    | some phys, some e =>
      if s.groupFrozen (ctxVi t.ctx) phys (some e) then .frozen
      else if e.export_ && !t.applied then .export_
      else match s.mapEntry t.ctx t.slot.tileId with
        | none => .refused
        | some m => if !wcFits e m t.slot.format || s.gristLost t.ctx m.gristA then .refused else .update
    | _, _ => .frozen

/-- What is counted of a tile's group and format (R322, R329). -/
def State.countTile (s : State) (q : Nat) (t : KilnTile) (c : TileCheck) : State :=
  let g := t.slot.pgroup.toNat
  let v := ctxVi t.ctx
  if c = .nonfinite then s.countNonfinite q t.step t.words
  else
    let s := match (s.kilnAt q).entryOf t.step t.ctx g with
      | some e => if e.gradFmt = t.slot.format then s else s.bump 0x30156 q
      | none => s
    match s.physGroup v g with
    | none => s.bump 0x30162 v
    | some phys =>
      if c = .frozen then s.bump 0x30160 phys
      else if c = .refused then s.refuseTile q t.step
      else s

/-- A checked tile stays in its place, or goes to the park area to wait for a decision (R347). -/
def State.settleTile (s : State) (q : Nat) (old new : KilnTile) (parked : Bool) : State :=
  let x := s.kilnAt q
  let put : List KilnTile → List KilnTile := fun l => l.map (fun t => if t == old then new else t)
  if parked then
    (s.putKiln q { x with park := put x.park }).bumpBy 0x30152 q (if s.tileWaits new then 1 else 0)
  else if s.tileWaits new && decide (x.park.length + (s.parkedSlots q).length < parkCapacity) then
    (s.putKiln q { x.parkTile new with input := x.input.erase old }).bump 0x30152 q
  else s.putKiln q { x with input := put x.input }

def State.dropTile (s : State) (q : Nat) (t : KilnTile) : State :=
  let x := s.kilnAt q
  s.putKiln q { x with input := x.input.erase t, park := x.park.erase t }

/-- KILN_TILE_TAKEOVER: the first tile that has not been checked. In brown-hold tiles wait (R351). -/
def execKilnTileTakeover (k : Fin 8) (s : State) : Out :=
  let q := k.val
  let x := s.kilnAt q
  match (x.input ++ x.park).find? (fun t => !t.checked) with
  | none => .next s
  | some t =>
    if s.power.brown then .next s
    else
      let c := s.checkTile q t
      let s := s.countTile q t c
      match c with
      | .nonfinite => .next (s.dropTile q t)
      | .refused => .next (s.dropTile q t)
      | .frozen => .next (s.settleTile q t { t with checked := true, frozen := true } (!x.input.contains t))
      | .export_ =>
        if s.tileWaits t then .next (s.settleTile q t { t with checked := true } (!x.input.contains t))
        else .next ((s.dropTile q t).exportTile q t)
      | .update => .next (s.settleTile q t { t with checked := true } (!x.input.contains t))

/-! ### Updating a tile (R329, step 5; R330, R312) -/

/-- The new masters of a tile: block by block, with the saturations. -/
def newBlocks (x : Kiln) (q : Nat) (e : GroupEntry) (blocks : List Nat) (gs : List Word) : List (Nat × List Word) × Nat :=
  let one : Nat → Nat → List (Word × Bool) := fun i b =>
    (x.blockWords q (x.activeCopy b) b).mapIdx (fun j w => newMaster e w (gs.getD (1024 * i + j) 0#32))
  let l := blocks.mapIdx (fun i b => (b, one i b))
  (l.map (fun y => (y.1, y.2.map (·.1))), sumNat (l.map (fun y => (y.2.filter (·.2)).length)))

/-- The alternate copies are written, PENDING is set, and the units enter the stripe write buffers. -/
def Kiln.writeAlternate (x : Kiln) (k : Nat) (l : List (Nat × List Word)) : Kiln :=
  let units := l.flatMap (fun y => unitsOf (1 - x.activeCopy y.1) [y.1])
  let z := l.foldl (fun a y => a.putBlock (1 - x.activeCopy y.1) y.1 y.2) (x.fill k units)
  { z.restore units with pending := l.foldl (fun p y => insertNat y.1 p) z.pending }

/-- The units of the ACTIVE copies of some blocks. -/
def Kiln.activeUnits (x : Kiln) (blocks : List Nat) : List Nat := blocks.flatMap (fun b => unitsOf (x.activeCopy b) [b])

/-- The generation that a step writes: that of its read generation and 1 more (R334, R335). -/
def State.writeGen (s : State) (t : KilnTile) : BitVec 16 := ((s.stepOf t.step).map (·.gen)).getD t.slot.gen + 1

/-- The tile's working-copy part waits for its buffer. -/
def State.addJob (s : State) (q : Nat) (t : KilnTile) (frozen : Bool) : State :=
  match s.mapEntry t.ctx t.slot.tileId with
  | none => s
  | some m =>
    let x := s.kilnAt q
    let j : WcJob := { ctx := t.ctx, tileId := t.slot.tileId, gen := s.writeGen t, gristA := m.gristA, frozen := frozen, step := t.step }
    s.putKiln q { x with jobs := x.jobs ++ [j] }

/-- One tile: masters read, the rule applied, masters written, the working copy converted. A lost block loses the tile. -/
def State.updateTile (s : State) (q : Nat) (t : KilnTile) (reads : SlowReads) (e : GroupEntry) (m : MapEntry) : State :=
  let blocks := s.blocksOf t.ctx m t.slot.format
  let s := s.readUnits q ((s.kilnAt q).activeUnits blocks) reads
  let lost := (s.kilnAt q).lostOf blocks
  if !lost.isEmpty then
    match s.gristAt t.ctx m.gristA with
    | some a => (s.declareLost q a t.slot.tileId lost 0).refuseTile q t.step
    | none => s.refuseTile q t.step
  else
    let x := s.kilnAt q
    let r := newBlocks x q e blocks t.words
    let p := wcPart e m.partN0 (gradCols t.slot.format) (r.1.flatMap (·.2))
    let s := (((s.putKiln q (x.writeAlternate q r.1)).bump 0x30150 q).bumpBy 0x30151 q t.words.length)
    let s := if t.applied then s.bump 0x30157 q else s
    (s.countKilnSat q t.step (r.2 + p.sat)).addJob q t false

/-- A tile that is parked is read back, the CRC of its units checked (R312). -/
def State.readParked (s : State) (q : Nat) (t : KilnTile) (reads : SlowReads) : State :=
  let units := (s.kilnAt q).parkUnits t
  if units.isEmpty then s else s.readUnits q units { reads with linkCorrected := [] }

/-- KILN_UPDATE_TILE: parked tiles come first, in arrival order (R347). It waits while the stripe write buffers are full,
while its masters can be had only through a package that retrains, and in brown-hold. -/
def execKilnUpdateTile (k : Fin 8) (reads : SlowReads) (s : State) : Out :=
  let q := k.val
  let x := s.kilnAt q
  match (x.park ++ x.input).find? (fun t => t.checked && !s.tileWaits t) with
  | none => .next s
  | some t =>
    let units := x.parkUnits t
    if s.power.brown || (!units.isEmpty && s.unitsWait q units reads) then .next s
    else
      let s := s.readParked q t reads
      let x := s.kilnAt q
      if !(x.park ++ x.input).contains t then .next s
      else if t.frozen then .next ((s.dropTile q t).addJob q t true)
      else match x.entryOf t.step t.ctx t.slot.pgroup.toNat, s.mapEntry t.ctx t.slot.tileId with
        | some e, some m =>
          if e.export_ && !t.applied then .next ((s.dropTile q t).exportTile q t)
          else
            let blocks := s.blocksOf t.ctx m t.slot.format
            if s.unitsWait q (x.activeUnits blocks) reads then .next s
            else if x.roomFor (blocks.flatMap (fun b => unitsOf (1 - x.activeCopy b) [b])) then
              .next (((s.dropTile q t).updateTile q t reads e m).settleApplies)
            else .next s
        | _, _ => .next ((s.dropTile q t).refuseTile q t.step)

/-! ### Working copies (R335, R336, R338) -/

/-- The masters of a map entry's part, from the copies that `sel` names. -/
def State.partWords (s : State) (q k : Nat) (m : MapEntry) (format : BitVec 8) (sel : Kiln → Nat → Nat) : List Word :=
  let x := s.kilnAt q
  (s.blocksOf k m format).flatMap (fun b => x.blockWords q (sel x b) b)

/-- One waiting part is written. -/
def State.doJob (s : State) (q : Nat) (j : WcJob) : State :=
  let x := s.kilnAt q
  let s := s.putKiln q { x with jobs := x.jobs.erase j }
  match s.mapEntry j.ctx j.tileId, s.gateEntry j.ctx j.tileId with
  | some m, some g =>
    let e := x.entryOf j.step j.ctx g.pgroup.toNat
    let s := match j.frozen, e with
      | false, some e =>
        s.writePart j.ctx m j.gen e (wcPart e m.partN0 (gradCols g.format) (s.partWords q j.ctx m g.format Kiln.newestCopy))
      | _, _ => s.copyPart q j.step j.ctx m j.gen g.format e
    s.partDone q j.ctx m j.gen
  | _, _ => s

/-- Whether the buffers that a part goes to have been released. -/
def State.jobReady (s : State) (j : WcJob) : Bool :=
  s.partReady j.ctx j.gristA ((s.mapEntry j.ctx j.tileId).elim 0 (fun m => m.scaleA)) j.gen

/-- Whether the part tracker has room for the tile of a part (R317). -/
def State.jobTracked (s : State) (q : Nat) (j : WcJob) : Bool :=
  match s.bufferAt j.ctx j.gristA j.gen, s.mapEntry j.ctx j.tileId with
  | some a, some m => (s.kilnAt q).tracks a m.parts
  | _, _ => true

/-- Parts that wait for their buffer are counted once in 30.154. -/
def State.countWaits (s : State) (q : Nat) : State :=
  let x := s.kilnAt q
  let late : WcJob → Bool := fun j => !j.counted && !s.jobReady j
  (s.putKiln q { x with jobs := x.jobs.map (fun j => if late j then { j with counted := true } else j) }).bumpBy 0x30154 q
    (x.jobs.filter late).length

/-- WORKING_COPY_WRITE: the first part whose buffer has been released and that the part tracker takes. -/
def execWorkingCopyWrite (k : Fin 8) (s : State) : Out :=
  if s.power.brown then .next s
  else
    let s := s.countWaits k.val
    match (s.kilnAt k.val).jobs.find? (fun j => s.jobReady j && s.jobTracked k.val j) with
    | none => .next s
    | some j => .next ((s.doJob k.val j).settleApplies)

/-- The map entries of all contexts that name a buffer: context and entry. -/
def State.entriesAt (s : State) (a : Nat) : List (Nat × MapEntry) :=
  s.host.ctxs.flatMap (fun (x : Nat × Ctx) => (x.2.upd.elim [] (fun (u : UpdMap) => u.entries.filter (fun m =>
    s.gristAt x.1 m.gristA == some a || s.gristAt x.1 (m.gristA + 4096) == some a))).map (fun m => (x.1, m)))

/-- One part of a rewrite: from the ACTIVE masters, with the group entry latched last (R338). -/
def State.rewritePart (gen : BitVec 16) (s : State) (y : Nat × MapEntry) : State :=
  match s.gateEntry y.1 y.2.tileId with
  | none => s
  | some g =>
    match (s.kilnAt g.kiln).lastEntry y.1 g.pgroup.toNat with
    | none => s
    | some e =>
      let p := wcPart e y.2.partN0 (gradCols g.format) (s.partWords g.kiln y.1 y.2 g.format Kiln.activeCopy)
      (s.writePart y.1 y.2 gen e p).countSat g.kiln p.sat

/-- Lost blocks of a map entry, found when its ACTIVE masters are read. -/
def State.entryLost (s : State) (y : Nat × MapEntry) : List Nat :=
  match s.gateEntry y.1 y.2.tileId with
  | none => []
  | some g => (s.kilnAt g.kiln).lostOf (s.blocksOf y.1 y.2 g.format)

/-- The units of the ACTIVE masters of some map entries, as one Kiln holds them. -/
def State.entryUnits (s : State) (q : Nat) (l : List (Nat × MapEntry)) : List Nat :=
  l.flatMap (fun y => match s.gateEntry y.1 y.2.tileId with
    | some g => if g.kiln = q then (s.kilnAt q).activeUnits (s.blocksOf y.1 y.2 g.format) else []
    | none => [])

/-- The Kiln that holds the masters of some parts of one tile. -/
def State.kilnOfParts (s : State) (k : Nat) (l : List (Nat × MapEntry)) : Nat :=
  ((l.head?.bind (fun y => s.gateEntry y.1 y.2.tileId)).map (·.kiln)).getD k

/-- KILN_REWRITE_DONE: the Kiln of stack `j` has rewritten the buffer of a slot, or found that it cannot (R64, R338, R473). -/
def execKilnRewriteDone (k : Fin 8) (j : Fin 16) (slot : Fin 76800) (reads : SlowReads) (s : State) : Out :=
  let x := s.kilnAt k.val
  let inj := s.injector j.val
  let n := slot.val
  let known : Option (Nat × Nat × Nat × BitVec 16) := match Bank.find? inj.filled n with
    | some f => some (f.ctx, f.entry, f.src, f.gen)
    | none => (inj.again.find? (fun a => a.slot == n && a.rewriting)).map (fun a => (a.ctx, a.entry, a.src, a.gen))
  if j.val / 2 ≠ k.val ∨ !x.rewrites.contains (j.val, n) ∨ s.power.brown then .next s
  else match known with
    | none => .next (s.putKiln k.val { x with rewrites := x.rewrites.erase (j.val, n) })
    | some (ctx, entry, src, gen) =>
      let parts := s.entriesAt src
      let q := s.kilnOfParts k.val parts
      let units := s.entryUnits q parts
      if s.unitsWait q units reads then .next s else
      let s := s.readUnits q units reads
      let lost := parts.flatMap s.entryLost
      let x := s.kilnAt k.val
      let s := s.putKiln k.val { x with rewrites := x.rewrites.erase (j.val, n) }
      let settle : State → Bool → State := fun t ok =>
        let i := t.injector j.val
        let f : InjSlot → InjSlot := fun y => if ok then { y with rewritten := true } else { y with rewriting := false }
        let g : Reinject → Reinject := fun y => if y.slot == n then { y with rewriting := false } else y
        t.putInjector j.val { i with filled := i.filled.map (fun (y : Nat × InjSlot) => if y.1 == n && y.2.rewriting then (y.1, f y.2) else y),
                                     again := i.again.map g }
      if parts.isEmpty ∨ !lost.isEmpty then
        match (s.injEntry ctx entry).bind (fun e => s.gristAt ctx e.gristA), (s.injEntry ctx entry).map (·.tileId) with
        | some a, some tile => .next (settle (s.declareLost k.val a tile lost (if parts.isEmpty then 1 else 0)) false)
        | _, _ => .next (settle s false)
      else .next (settle (parts.foldl (State.rewritePart gen) s) true)

/-! ### Stripes (R313, Table 10.7) -/

/-- STRIPE_FLUSH_TIMEOUT: the first stripe of the write buffers that is not whole is to be written as it is. -/
def execStripeFlushTimeout (k : Fin 8) (s : State) : Out :=
  let x := s.kilnAt k.val
  match List.find? (fun (y : Nat × Bank (BitVec 2048)) => decide (y.2.length < 7) && !x.flush.contains y.1) x.stripes with
  | some y => if s.power.brown then .next s else .next (s.putKiln k.val { x with flush := insertNat y.1 x.flush })
  | none => .next s

/-- What the write of a stripe of fewer than seven units reads: the old units and the old parity (R313). -/
def Kiln.stripeReads (x : Kiln) (i : Nat) : List Nat :=
  let b := x.stripes.get [] i
  if 7 ≤ b.length then [] else b.map (fun y => 7 * i + y.1) ++ [unitCount + i]

/-- A stripe of the write buffers is written. -/
def State.putStripe (q : Nat) (reads : SlowReads) (s : State) (i : Nat) : State :=
  let s := s.readUnits q ((s.kilnAt q).stripeReads i) reads
  s.putKiln q ((s.kilnAt q).writeStripe q i)

/-- STRIPE_WRITE_DONE: the first stripe that is being written leaves the write buffers. Writes to a package that retrains are
deferred (R314); in brown-hold none is made (R351). -/
def execStripeWriteDone (k : Fin 8) (reads : SlowReads) (s : State) : Out :=
  let x := s.kilnAt k.val
  match List.find? (fun (y : Nat × Bank (BitVec 2048)) => decide (7 ≤ y.2.length) || x.flush.contains y.1) x.stripes with
  | some y =>
    if s.power.brown || !(s.retrainingPackages k.val).isEmpty then .next s
    else .next ((State.putStripe k.val reads s y.1).settleApplies)
  | none => .next s

/-! ### Commands (R353, R355) -/

/-- The blocks of a KILN_READ or KILN_WRITE, and whether they lie in the caller's allocation. -/
def Cmd.kilnBlocks (c : Cmd) : List Nat := (List.range (c.arg 32 25)).map (c.arg 7 25 + ·)

def State.ownBlocks (s : State) (k : Nat) (c : Cmd) : Bool := c.arg 7 25 + c.arg 32 25 ≤ s.masterCount (ctxVi k)

/-- The blocks that a command names, on the Kiln. -/
def State.blockRange (s : State) (k : Nat) (c : Cmd) : List Nat :=
  c.kilnBlocks.map (s.masterFirst (ctxVi k) + ·)

/-- KILN_READ: the ACTIVE copies of a range of blocks, the CRC of every unit checked (R312). -/
def execKilnRead (r : CmdRef) (reads : SlowReads) (s : State) : Out :=
  runCmd 0x2D r (fun c k t =>
    let n := c.arg 32 25
    let q := c.arg 0 3
    if n = 0 ∨ !t.inRange k (c.arg 64 48) (4096 * n) .store then t.finish r 5 0
    else if !t.ownBlocks k c then t.illegalCmd r 5
    else if t.kilnLost q || t.unitsWait q ((t.kilnAt q).activeUnits (t.blockRange k c)) reads then t
    else
      let t := t.readUnits q ((t.kilnAt q).activeUnits (t.blockRange k c)) reads
      let x := t.kilnAt q
      let first := t.masterFirst (ctxVi k)
      let one : State → Nat → State := fun u i =>
        let b := first + c.arg 7 25 + i
        u.storeAs 64 k (c.arg 64 48 + 4096 * i) ((x.blockWords q (x.activeCopy b) b).flatMap (fun w => leBytes 4 w.toNat))
      ((List.range n).foldl one t).finish r 0 0) s

/-- One block of KILN_WRITE: its ACTIVE copy is written and PENDING cleared; lost units of it hold values again. -/
def State.writeBlock (q : Nat) (s : State) (b : Nat) (ws : List Word) : State :=
  let x := s.kilnAt q
  let y := x.putBlock (x.activeCopy b) b ws
  let s := s.putKiln q { y.restore (unitsOf 0 [b] ++ unitsOf 1 [b]) with
                                pending := eraseNat b y.pending, undone := eraseNat b y.undone }
  { s with health.lostBlocks := s.health.lostBlocks.set [] q (eraseNat b (s.health.lostBlocks.get [] q)) }

/-- R476: a lost tile all of whose blocks hold values again is no longer lost. -/
def State.foundTiles (s : State) (q k first count : Nat) : State :=
  let restored : Nat → Bool := fun a =>
    let l := (s.entriesAt a).filter (fun y => y.1 == k && (s.gateEntry y.1 y.2.tileId).any (fun g => g.kiln == q))
    let blocks := l.flatMap (fun y => match s.gateEntry y.1 y.2.tileId with
      | some g => s.blocksOf y.1 y.2 g.format
      | none => [])
    blocks.any (fun b => decide (first ≤ b) && decide (b < first + count))
      && blocks.all (fun b => !(s.health.lostBlocks.get [] q).contains b) && ((s.kilnAt q).lostOf blocks).isEmpty
  { s with health.lostTiles := s.health.lostTiles.filter (fun x => !restored x.1),
           health.lostOverflow := s.health.lostOverflow && decide (4096 ≤ (s.health.lostBlocks.get [] q).length) }

/-- The map entries whose blocks lie wholly in a range of Kiln `q`, with their gate entries. -/
def State.entriesIn (s : State) (q k first count : Nat) : List (MapEntry × GateEntry) :=
  (((s.ctx? k).bind (·.upd)).elim [] (fun (u : UpdMap) => u.entries)).filterMap (fun m =>
    (s.gateEntry k m.tileId).bind (fun g =>
      if g.kiln == q && (s.blocksOf k m g.format).all (fun b => decide (first ≤ b) && decide (b < first + count))
      then some (m, g) else none))

/-- The working-copy settings of an entry can be carried out. -/
def GroupEntry.writable (e : GroupEntry) (m : MapEntry) (format : BitVec 8) : Bool :=
  !({ e with eta := 0, rule := 0, gradFmt := format } : GroupEntry).bad && wcFits e m format

/-- WC = 1: the current generation's working copies of the map entries whose blocks lie wholly in the range. DESIGN CHOICE: a
tile for whose group the table has no entry, or settings that give it no working copy, keeps the one that it has (log
entry 70). -/
def State.writeCopies (s : State) (q k first count : Nat) (table : List GroupEntry) : State :=
  let gen := s.steps.gen
  (s.entriesIn q k first count).foldl (fun t y => match table[y.2.pgroup.toNat]? with
    | none => t
    | some e =>
      if e.writable y.1 y.2.format then
        let p := wcPart e y.1.partN0 (gradCols y.2.format) (t.partWords q k y.1 y.2.format Kiln.activeCopy)
        ((t.writePart k y.1 gen e p).partDone q k y.1 gen).countSat q p.sat
      else t) s

/-- R335: the parts that a KILN_WRITE with WC = 1 would write to buffers that have not been released. -/
def State.copiesHeld (s : State) (q k first count : Nat) : Nat :=
  ((s.entriesIn q k first count).filter (fun y =>
    !s.partReady k y.1.gristA y.1.scaleA s.steps.gen)).length

/-- KILN_WRITE waits for its working-copy buffers, counted once in 30.154 (R335). -/
def State.holdWrite (s : State) (q n : Nat) (r : CmdRef) : State :=
  if s.steps.writeWait.contains r then s
  else ({ s with steps.writeWait := s.steps.writeWait ++ [r] } : State).bumpBy 0x30154 q n

/-- The masters of a KILN_WRITE are written, in stripes (R313). -/
def State.writeRange (s : State) (q first : Nat) (words : List (List Word)) (reads : SlowReads) : State :=
  let blocks := (List.range words.length).map (first + ·)
  let units := (s.kilnAt q).activeUnits blocks
  let s := s.putKiln q ((s.kilnAt q).fill q units)
  let s := (blocks.zip words).foldl (fun u x => u.writeBlock q x.1 x.2) s
  ((units.map stripeOf).dedup).foldl (State.putStripe q reads) s

/-- KILN_WRITE: legal only while no step is live; in brown-hold, and while a package of the pair retrains, it waits (R351,
R314). -/
def execKilnWrite (r : CmdRef) (reads : SlowReads) (s : State) : Out :=
  runCmd 0x2E r (fun c k t =>
    let n := c.arg 32 25
    let q := c.arg 0 3
    let wc : Bool := c.arg 112 1 = 1
    let entries := c.arg 176 13
    if n = 0 ∨ !t.inRange k (c.arg 64 48) (4096 * n) .load
        ∨ (wc ∧ 0 < entries ∧ !t.inRange k (c.arg 128 48) (32 * entries) .load) then t.finish r 5 0
    else if !t.ownBlocks k c ∨ !t.steps.live.isEmpty then t.illegalCmd r 5
    else if t.kilnLost q ∨ t.power.brown ∨ !(t.retrainingPackages q).isEmpty then t
    else
      let first := t.masterFirst (ctxVi k) + c.arg 7 25
      let held := if wc then t.copiesHeld q k first n else 0
      if 0 < held then t.holdWrite q held r
      else
        let b := t.readVirt k (c.arg 64 48) (4096 * n)
        let words := (List.range n).map (fun i =>
          (List.range 1024).map (fun j => BitVec.ofNat 32 (leNat ((b.drop (4096 * i + 4 * j)).take 4))))
        let t := (t.writeRange q first words reads).foundTiles q k first n
        let t := if wc then t.writeCopies q k first n (t.readTable k (c.arg 128 48) entries) else t
        ({ t with steps.writeWait := t.steps.writeWait.erase r } : State).finish r 0 0) s

/-- One entry of a KILN_APPLY list (R353): an exported tile takes its direction; another is an illegal sequence. -/
def State.applyEntry (r : CmdRef) (c : Cmd) (k : Nat) (s : State) (n : Nat) : State :=
  let tile := BitVec.ofNat 32 (fld n 96 32)
  let refuse := s.illegal r.v.val c.cookie (queueNumber r) c.opcode 5
  match s.gateEntry k tile with
  | none => refuse
  | some g =>
    let x := s.kilnAt g.kiln
    match x.exported.find? (fun y => y.2.1 == k && y.2.2 == tile && s.steps.live.any (fun z => z.step == y.1)) with
    | none => refuse
    | some y =>
      let t : KilnTile := { ctx := k, step := y.1, checked := true, applied := true,
                            slot := { kind := 2, format := g.format, tileId := tile, pgroup := g.pgroup,
                                      gen := ((s.stepOf y.1).map (·.gen)).getD 0,
                                      payload := trimBytes (s.readVirt k (fld n 48 48) (256 * gradCols g.format)) } }
      let chk := s.checkTile g.kiln t
      if chk = .nonfinite then s.countNonfinite g.kiln y.1 t.words
      else
        let s := s.putKiln g.kiln { x with exported := x.exported.erase y }
        if chk = .update then
          let z := s.kilnAt g.kiln
          s.putKiln g.kiln (z.parkTile t)
        else s.countTile g.kiln t chk

/-- The park areas have room for `n` directions (R347). -/
def State.parkRoom (s : State) (n : Nat) : Bool :=
  (List.range 8).all (fun q => decide ((s.kilnAt q).park.length + (s.parkedSlots q).length + n ≤ parkCapacity))

/-- KILN_APPLY: it completes when every listed update is written. DESIGN CHOICE: it waits while the park areas have no room
for its directions (log entry 71). -/
def execKilnApply (r : CmdRef) (s : State) : Out :=
  runCmd 0x2F r (fun c k t =>
    let n := c.arg 64 32
    if n = 0 ∨ !t.inRange k (c.arg 0 48) (16 * n) .load then t.finish r 5 0
    else if !t.parkRoom n then t
    else
      let b := t.readVirt k (c.arg 0 48) (16 * n)
      let list := (List.range n).map (fun i => leNat ((b.drop (16 * i)).take 16))
      let t := list.foldl (State.applyEntry r c k) t
      let wait := (r, k, list.map (fun x => BitVec.ofNat 32 (fld x 96 32)))
      (({ t with steps.applyWait := t.steps.applyWait ++ [wait] } : State).keepBusy r).settleApplies) s

end Sys2Proof.Machine
end

