-- ==== Sys2Proof/Machine/FabricLink.lean ====
section
/-!
DEFINITION. The links of the fabric: frames, acknowledgements, replay and credits of a port (R371), ports that go down and
come up (R372, R375, R471), what a port learns of time (R507, R508), and the node number and topology (R386).
-/

namespace Sys2Proof.Machine

/-! ### FABRIC_STATE (Table 11.12) -/

/-- 0 without ports of a topology, 2 with all of them up, 3 with some; with none, training until the first has come up,
isolated afterwards. -/
def State.fabricState (s : State) : Nat :=
  let n := s.topoPorts
  let ups := ((List.range n).filter (fun p => (s.port p).up)).length
  if n = 0 then 0 else if ups = n then 2 else if ups ≠ 0 then 3 else if s.obj 0x50000 0 ≤ 1 then 1 else 4

/-- R508: a module with no port up is its own time reference; an offset that the loss of the reference has spoilt stays so
until the next measurement (R493). -/
def State.ownReference (s : State) : State :=
  if (List.range 32).any (fun p => (s.port p).up) then s
  else (s.setObj 0x70011 0 s.node).setObj 0x70010 0
    (if s.clock.refPresent && s.obj 0x70010 0 != 0x80000000 then 0 else 0x80000000)

def State.noteFabric (s : State) : State := (s.setObj 0x50000 0 s.fabricState).ownReference

/-! ### A port goes down (R372, R375) -/

/-- SOURCE of a fabric port; `lane` 12 when none applies (Table 14.6). -/
def portSource (p lane : Nat) : Nat := source 6 (p + 256 * lane)

/-- R535: the cable of the port's connector is in place and its lanes may train. -/
def State.cabled (s : State) (p : Nat) : Bool := (s.pins.cables.get {} (2 + p / 8)).lanesUp

/-- Packets that a dead port held are sent on, in LSEQ order, before those that wait behind them. -/
def State.reroute (s : State) (held : List Moving) : State :=
  ({ s with fab.delayed := [] } : State).sendAll (held.map (fun f => { f with resent := 0 }) ++ s.fab.delayed)

/-- The port goes down; it retrains, has failed with a second degraded lane, or has no cable. Cause 0: lock, 1: resend limit. -/
def State.portDown (s : State) (p cause : Nat) : State :=
  let x := s.port p
  if !x.up then s
  else
    let st := if !s.cabled p then 0 else if 2 ≤ (s.health.fabDegraded.get [] p).length then 4 else 1
    let s := (s.putPort p { state := st }).bump 0x50106 p
    let s := s.caskPost 0x0501 (portSource p 12) (leBytes 128 cause)
    (s.reroute x.replay).noteFabric

/-- FAB_PORT_DOWN: lock is lost, or one frame has been resent 8 times without acknowledgement. -/
def execFabPortDown (p : Fin 32) (resendLimit : Bool) (s : State) : Out :=
  if resendLimit && (s.port p.val).replay.all (fun f => decide (f.resent < 8)) then .next s
  else .next (s.portDown p.val (if resendLimit then 1 else 0))

/-! ### A port comes up (R471, R507, R508) -/

/-- R507, R508: the offset is kept, and the neighbour's time reference adopted when it is ahead or ranks lower. -/
def State.measureTime (s : State) (p : Nat) (pr : Probe) : State :=
  let s := { s with clock.probes := s.clock.probes.put p pr.theta }
  let follow : State → Int → State := fun t rest =>
    (t.setObj 0x70011 0 pr.nbrRef.toNat).setObj 0x70010 0 ((pr.nbrOffset + BitVec.ofInt 32 (rest.tdiv 5)).toNat)
  if 32 < pr.theta then
    let d := pr.theta.toNat / 5
    let back : Nat × Int → Nat × Int := fun x => if x.1 = p then x else (x.1, x.2 - 5 * (d : Int))
    follow { s with clock.stepNs := s.clock.stepNs + d, clock.probes := s.clock.probes.map back } (pr.theta - 5 * (d : Int))
  else if -32 ≤ pr.theta ∧ pr.nbrRef.toNat < s.obj 0x70011 0 then follow s pr.theta
  else s

/-- Training of a port ends: it is up on four lanes, or on three with its degraded lane spared. -/
def State.portTrained (s : State) (p : Nat) : State :=
  match s.health.fabDegraded.get [] p with
  | [] => (s.putPort p { state := 2 }).noteFabric
  | [l] => ((s.putPort p { state := 3 }).caskPost 0x0502 (portSource p l) (leBytes 128 3)).noteFabric
  | _ => s

/-- FAB_PORT_UP: of a port that trains, and then the exchange of probes; of a port that is up, the exchange alone. -/
def execFabPortUp (p : Fin 32) (pr : Probe) (s : State) : Out :=
  let x := s.port p.val
  let t := if x.state = 1 ∧ p.val < s.topoPorts ∧ s.cabled p.val then s.portTrained p.val else s
  .next (if (t.port p.val).up then t.measureTime p.val pr else t)

/-! ### Frames (R371) -/

/-- A packet that came in at a port, as the router sees it. -/
def State.movingFrom (s : State) (port : Nat) (f : Packet) : Moving :=
  { pkt := f, vcIn := f.vc, dir := if f.detour && s.topo 0 != 0 then some (s.arrivedDir port) else none }

/-- FRAME_RECEIVE: a frame with the CRC that it carries, and the codewords that FEC corrected and could not correct since
the last one; a frame that an uncorrectable codeword touches fails its CRC (R370). The frame is accepted, acknowledged and
its units returned, and forwarded when it is for another node, or it is rejected with one NAK. A packet for this node takes
effect by the command of its type. -/
def execFrameReceive (p : Fin 32) (f : Packet) (crc : BitVec 32) (corrected uncorrectable : Nat) (s : State) : Out :=
  let x := s.port p.val
  if !x.up then .next s
  else
    let s := (s.bumpBy 0x50104 p.val corrected).bumpBy 0x50105 p.val uncorrectable
    if uncorrectable ≠ 0 ∨ crc ≠ packetCrc f then .next ((s.putPort p.val { x with nakSent := true }).bump 0x50102 p.val)
    else if f.lseq ≠ x.rxSeq then .next (s.putPort p.val { x with nakSent := true })
    else
      let x' : Port := { x with rxSeq := x.rxSeq + 1, nakSent := false, ackSent := some f.lseq,
                                returned := x.returned.set 0 f.vc.toNat (x.returned.get 0 f.vc.toNat + frameBlocks f) }
      let t := (s.putPort p.val x').bump 0x50101 p.val
      .next (if f.type = 0 ∨ f.dst.toNat = t.node then t else State.sendPacket 2 (t.movingFrom p.val f) t)

/-- LINK_ACK: the frames up to LSEQ leave the replay buffer. -/
def execLinkAck (p : Fin 32) (lseq : BitVec 12) (s : State) : Out :=
  let x := s.port p.val
  let kept := x.replay.filter (fun f => serialNewer 12 f.pkt.lseq.toNat lseq.toNat)
  if kept.length = x.replay.length then .next s
  else .next (s.putPort p.val { x with replay := kept }).releaseDelayed

/-- Every unacknowledged frame is sent again. -/
def State.resendAll (s : State) (p : Nat) : State :=
  let x := s.port p
  if x.replay.isEmpty then s
  else (s.putPort p { x with replay := x.replay.map (fun f => { f with resent := f.resent + 1 }) }).bumpBy 0x50103 p x.replay.length

/-- NAK: the receiver expects LSEQ, the oldest frame that it has not accepted. -/
def execNak (p : Fin 32) (lseq : BitVec 12) (s : State) : Out :=
  let x := s.port p.val
  let kept := x.replay.filter (fun f => f.pkt.lseq == lseq || serialNewer 12 f.pkt.lseq.toNat lseq.toNat)
  let t := if kept.length = x.replay.length then s
    else (s.putPort p.val { x with replay := kept }).releaseDelayed
  .next (t.resendAll p.val)

/-- LINK_REPLAY_TIMEOUT: 2 µs have passed without an acknowledgement. -/
def execLinkReplayTimeout (p : Fin 32) (s : State) : Out := .next (s.resendAll p.val)

/-- CREDIT: link credits of a virtual channel come back. -/
def execCredit (p : Fin 32) (vc : Fin 8) (units : Nat) (s : State) : Out :=
  let x := s.port p.val
  .next (s.putPort p.val { x with credits := x.credits.set 0 vc.val (x.credits.get 0 vc.val + (units : Int)) })

/-! ### Node number and topology (R386) -/

/-- Every port goes down; those of the topology that have a cable retrain, on all their lanes. -/
def State.retrainAll (s : State) : State :=
  let s := { s with fab.ports := [], fab.delayed := [], health.fabDegraded := [] }
  let s := (List.range s.topoPorts).foldl (fun t p => t.putPort p { state := if s.cabled p then 1 else 0 }) s
  (s.setObj 0x50000 0 0).noteFabric

/-- Whether 50.030 names a topology of Table 11.9: a full mesh of M nodes, of which M = 1 is the default, or 1 to 3 dimensions
of 2 to 32 nodes with bundles of B ports, on at most 32 ports and 16,384 nodes. -/
def topologyOk (value : Nat) : Bool :=
  let byte : Nat → Nat := fun i => fld value (8 * i) 8
  let sizes := (List.range (byte 1)).map (fun i => byte (2 + i))
  if byte 0 = 0 then decide (1 ≤ byte 7) && decide (byte 7 ≤ 33)
  else byte 0 == 1 && decide (1 ≤ byte 1) && decide (byte 1 ≤ 3) && sizes.all (fun n => decide (2 ≤ n) && decide (n ≤ 32))
    && decide (sizes.foldl (· * ·) 1 ≤ 16384) && decide (1 ≤ byte 6) && decide (2 * byte 1 * byte 6 ≤ 32)

/-- The values that the two objects take (Table 11.12). -/
def topologyValueOk (topology : Bool) (value : Nat) : Bool := if topology then topologyOk value else value % 65536 < 16384

/-- Whether a write to 50.001 or 50.030 is accepted. -/
def State.topologyAccepted (s : State) (topology : Bool) (value : Nat) : Bool :=
  s.fab.windows.isEmpty && topologyValueOk topology value

/-- A write takes effect; bytes 8 to 15 of 50.030 are reserved and stay 0 (R5). -/
def State.writeTopology (s : State) (topology : Bool) (value : Nat) : State :=
  (if topology then s.setObj 0x50030 0 (value % 2 ^ 64) else s.setObj 0x50001 0 (value % 65536)).retrainAll

/-- NODE_TOPOLOGY_WRITE. -/
def execNodeTopologyWrite (topology : Bool) (value : BitVec 128) (s : State) : Out :=
  .next (if s.topologyAccepted topology value.toNat then s.writeTopology topology value.toNat else s)

end Sys2Proof.Machine
end

