-- ==== Sys2Proof/Machine/Objects.lean ====
section
/-!
DEFINITION. The object dictionary as a reader and a writer meet it: the type, access code and extent of every object of
Tables 13.8 to 13.13 (R436 to R439), the values that are computed when they are read, and when a write is accepted and
which values it takes (R391, R438, R447 checks 5 and 6).
-/

namespace Sys2Proof.Machine

/-! ### Hashes and records of the Cask (R483) -/

/-- SHA3-256 as 32 bytes. -/
def sha3Bytes (bs : Bytes) : Bytes := leBytes 32 (Config.sha3 bs).toNat

/-- A committed record, Table 14.5: bits 2015:0, then the CRC. -/
def CaskRecord.bytes (r : CaskRecord) : Bytes :=
  let body := leBytes 252 (packFields [(16, 0x4B43), (16, r.type.toNat), (8, r.severity.toNat), (8, r.flags.toNat),
    (112, 0), (32, r.boot.toNat), (64, r.seq.toNat), (64, r.time.toNat), (64, r.pace.toNat), (32, r.source.toNat),
    (32, r.suppressed.toNat), (16, 0), (16, r.dropped.toNat), (384, 0), (1024, leNat r.payload), (128, r.prevHash.toNat)])
  body ++ leBytes 4 (crc32c body).toNat

/-- Record positions of the ring (R482). -/
def caskPositions : Nat := 131072

/-- The latest record. -/
def Cask.head (c : Cask) : Option CaskRecord :=
  if c.nextSeq = 0 then none else c.records.find? ((c.nextSeq - 1) % caskPositions)

def Cask.headPos (c : Cask) : Nat := (c.nextSeq - 1) % caskPositions
def Cask.headHash (c : Cask) : Nat := (c.head.map (fun r => (Config.sha3 r.bytes).toNat)).getD 0

/-! ### Firmware images (R454, Table 13.21) -/

/-- `n` bytes of an image from byte `off`; beyond what was written the flash is erased. -/
def imageBytes (b : Bytes) (off n : Nat) : Bytes :=
  (b.drop off).take n ++ List.replicate (n - (b.length - off)) Config.erasedByte

/-- A field of the header, by its byte offset and size. -/
def imageNum (b : Bytes) (off n : Nat) : Nat := leNat (imageBytes b off n)

def imageMagic (b : Bytes) : Nat := imageNum b 0 4
def imageFormat (b : Bytes) : Nat := imageNum b 4 2
def imageVersion (b : Bytes) : Nat := imageNum b 8 4
def imageSvn (b : Bytes) : Nat := imageNum b 12 2
def imageSteppings (b : Bytes) : Nat := imageNum b 14 1
def imageBodyLen (b : Bytes) : Nat := imageNum b 16 4
def imageBodyDigest (b : Bytes) : Nat := imageNum b 20 32
def imageSigner (b : Bytes) : Bytes := imageBytes b 52 1312
def imageSignature (b : Bytes) : Nat := imageNum b 1364 2420

/-- The body behind the 4,096-byte header. -/
def imageBody (b : Bytes) : Bytes := imageBytes b 4096 (imageBodyLen b)

/-- Check 1 of R455: MAGIC, FORMAT, and a body in range, within the slot. -/
def imageFramed (b : Bytes) : Bool :=
  imageMagic b == 0x4E414C46 && imageFormat b == 1 && decide (1 ≤ imageBodyLen b ∧ imageBodyLen b ≤ 29356032)

/-- ML-DSA-44 verification of FIPS 204: the signature that the key's holder gives in the deterministic variant verifies,
others as FIPS 204 lays down (log entry 129). -/
def mlDsaVerifies (pk msg ctx : Bytes) (sig : BitVec 19360) : Bool :=
  sig == Config.mlDsaSign pk msg ctx || Config.mlDsaOther pk msg ctx sig

/-- Check 3: the signature over SHA3-256 of header bytes 0 to 1,363, with an empty context string. -/
def imageSigned (b : Bytes) : Bool :=
  mlDsaVerifies (imageSigner b) (sha3Bytes (imageBytes b 0 1364)) [] (BitVec.ofNat 19360 (imageSignature b))

/-- Check 6: the image is for this stepping. -/
def imageForStepping (b : Bytes) : Bool := bit (imageSteppings b) (if Config.steppingB1 then 1 else 0)

/-- R455, Table 13.22: the number of the first check that fails, 0 when none does; check 5 compares with A0.003. -/
def State.imageReason (s : State) (b : Bytes) : Nat :=
  if !imageFramed b then 1
  else if !s.mgmt.signers.contains (Config.sha3 (imageSigner b)) then 2
  else if !imageSigned b then 3
  else if imageBodyDigest b ≠ (Config.sha3 (imageBody b)).toNat then 4
  else if imageSvn b < s.obj 0xA0003 0 then 5
  else if !imageForStepping b then 6
  else 0

/-- The image that the Maltster runs, in the code bank in use. -/
def Firmware.running (f : Firmware) : Bytes := if f.second then f.bank1 else f.bank0

/-- The image in a slot: 0 slot A, 1 slot B. -/
def Firmware.slot (f : Firmware) (i : Nat) : Bytes := if i = 0 then f.slotA else f.slotB
def Firmware.putSlot (f : Firmware) (i : Nat) (x : Bytes) : Firmware := if i = 0 then { f with slotA := x } else { f with slotB := x }

/-- An image is read into a code bank: the second, or the first. -/
def Firmware.putBank (f : Firmware) (second : Bool) (x : Bytes) : Firmware :=
  if second then { f with bank1 := x } else { f with bank0 := x }

/-! ### Types, access codes, extents -/

inductive Access where
  | ro | rw | rwg | wo | wog
deriving DecidableEq, Repr

/-- An object: bytes of its value, access code, elements of an array, and whether it is a BLOB. -/
structure ObjInfo where
  size : Nat
  acc : Access
  len : Option Nat := none
  blob : Bool := false
deriving DecidableEq, Repr

def scal (n : Nat) (a : Access) : Option ObjInfo := some { size := n, acc := a }
def arr (n : Nat) (a : Access) (k : Nat) : Option ObjInfo := some { size := n, acc := a, len := some k }
def blob (n : Nat) (a : Access) : Option ObjInfo := some { size := n, acc := a, blob := true }
def blobs (n : Nat) (a : Access) (k : Nat) : Option ObjInfo := some { size := n, acc := a, len := some k, blob := true }

/-- Groups 00, 10 and 20. -/
def objLow (o : Nat) : Option ObjInfo :=
  match o with
  | 0x00000 | 0x00001 | 0x00003 => scal 16 .ro
  | 0x00002 | 0x00005 | 0x00011 | 0x00022 | 0x00030 | 0x00041 => scal 1 .ro
  | 0x00004 | 0x00012 => scal 8 .ro
  | 0x00006 | 0x00007 => arr 1 .ro 8
  | 0x00010 => scal 4 .ro
  | 0x00020 | 0x00021 => scal 1 .rw
  | 0x00023 => scal 2 .rw
  | 0x00024 => scal 4 .rwg
  | 0x00031 => blob 1312 .ro
  | 0x00032 => blob 4096 .ro
  | 0x00033 => blob 8 .ro
  | 0x00040 => blob 32 .wo
  | 0x00042 => blob 2676 .ro
  | 0x00100 | 0x00101 | 0x00102 | 0x00103 | 0x00104 | 0x00105 => scal 8 .ro
  | 0x10000 | 0x10001 | 0x10002 | 0x10010 | 0x10011 | 0x10012 | 0x10013 | 0x10021 => scal 4 .ro
  | 0x10003 => scal 1 .ro
  | 0x10020 => scal 4 .rw
  | 0x10022 => scal 2 .ro
  | 0x10030 | 0x10031 => arr 4 .ro 8
  | 0x10100 | 0x10101 => scal 8 .ro
  | 0x10102 => arr 8 .ro 8
  | 0x20000 | 0x20001 | 0x20002 => scal 4 .ro
  | 0x20003 => scal 1 .ro
  | 0x20010 | 0x20013 => arr 4 .ro 8
  | 0x20011 => arr 4 .ro 16
  | 0x20012 => arr 4 .ro 4
  | 0x20020 | 0x20021 => scal 4 .rw
  | 0x20100 => arr 8 .ro 8
  | 0x20101 => scal 8 .ro
  | _ => none

/-- Groups 30 and 40: settings and states. -/
def objMid (o : Nat) : Option ObjInfo :=
  match o with
  | 0x30000 => scal 1 .ro
  | 0x30001 => blob 8 .rwg
  | 0x30002 => scal 4 .ro
  | 0x30010 | 0x30013 | 0x30014 => arr 4 .rwg 64
  | 0x30011 | 0x30016 => scal 4 .rwg
  | 0x30012 => arr 1 .rwg 64
  | 0x30015 => blob 64 .ro
  | 0x30017 => blob 32 .ro
  | 0x30018 => scal 2 .ro
  | 0x30019 => blob 512 .rwg
  | 0x30021 => arr 8 .rwg 64
  | 0x40001 => arr 2 .ro 16
  | 0x40002 => arr 2 .ro 32
  | 0x40010 => scal 2 .rwg
  | 0x40011 => scal 8 .ro
  | 0x40020 => blobs 64 .ro 16
  | 0x40021 => arr 1 .ro 16
  | 0x40030 => arr 4 .rw 64
  | 0x40040 | 0x40042 => scal 2 .rw
  | 0x40041 => scal 4 .rw
  | 0x40043 => scal 1 .rw
  | 0x40050 | 0x40051 | 0x40052 => arr 4 .rwg 64
  | 0x40060 => blob 16 .ro
  | 0x40061 => scal 4 .ro
  | 0x40120 => arr 8 .ro 64
  | 0x40130 | 0x40131 => arr 8 .ro 32
  | 0x40132 | 0x40133 => arr 8 .ro 8
  | 0x40134 => arr 1 .ro 32
  | 0x30160 => arr 8 .ro 4096
  | 0x30161 | 0x30162 => arr 8 .ro 64
  | _ =>
    if 0x30100 ≤ o ∧ o ≤ 0x30106 ∨ 0x30120 ≤ o ∧ o ≤ 0x30126 then arr 8 .ro 128
    else if 0x30110 ≤ o ∧ o ≤ 0x30114 then arr 8 .ro 16
    else if 0x30130 ≤ o ∧ o ≤ 0x30138 ∨ 0x30150 ≤ o ∧ o ≤ 0x30157 then arr 8 .ro 8
    else if 0x30140 ≤ o ∧ o ≤ 0x30144 then scal 8 .ro
    else if 0x40100 ≤ o ∧ o ≤ 0x40105 then arr 8 .ro 1024
    else if 0x40110 ≤ o ∧ o ≤ 0x40116 ∧ o ≠ 0x40115 then arr 8 .ro 1088
    else none

/-- Groups 50 to A0. -/
def objHigh (s : State) (o : Nat) : Option ObjInfo :=
  match o with
  | 0x50000 | 0x50002 => scal 1 .ro
  | 0x50001 => scal 2 .rwg
  | 0x50020 => arr 2 .rwg 64
  | 0x50021 => arr 4 .rwg 64
  | 0x50030 => blob 16 .rwg
  | 0x50031 => blob 32 .ro
  | 0x50110 | 0x50111 | 0x50112 | 0x50113 | 0x50114 | 0x50130 => scal 8 .ro
  | 0x50120 => arr 8 .ro 10
  | 0x50131 => scal 2 .ro
  | 0x60000 | 0x60002 => scal 1 .ro
  | 0x60010 => blobs 16 .rwg 64
  | 0x60011 => arr 8 .rwg 64
  | 0x60012 | 0x60015 => arr 4 .rwg 64
  | 0x60013 | 0x60014 => arr 2 .rwg 64
  | 0x60020 => blob 512 .rwg
  | 0x60100 | 0x60102 | 0x60103 | 0x60104 | 0x60105 => arr 8 .ro 64
  | 0x60101 => blobs 16 .ro 64
  | 0x60110 => arr 8 .ro 256
  | 0x70000 | 0x70001 => scal 8 .ro
  | 0x70010 => scal 4 .ro
  | 0x70011 => scal 2 .ro
  | 0x70110 | 0x70111 | 0x70112 => arr 8 .ro 8
  | 0x80000 | 0x80022 => scal 1 .ro
  | 0x80001 => scal 4 .ro
  | 0x80002 => scal 8 .ro
  | 0x80003 => blob 40 .ro
  | 0x80010 => blob 33554432 .ro
  | 0x80020 => blob 48 .wo
  | 0x80021 => blob s.cask.exported.length .ro
  | 0x90000 => scal 1 .ro
  | 0x90001 => arr 1 .ro 8
  | 0x90002 => arr 4 .ro 8
  | 0x90003 => blobs 8 .ro 8
  | 0x90004 => arr 8 .ro 8
  | 0x90010 => blob 64 .wog
  | 0x90020 => scal 8 .ro
  | 0x90021 => blob 16 .ro
  | 0xA0000 | 0xA0006 | 0xA0011 | 0xA0012 => scal 1 .ro
  | 0xA0001 | 0xA0005 | 0xA0013 | 0xA0021 | 0xA0022 | 0xA0023 => scal 4 .ro
  | 0xA0002 | 0xA0003 | 0xA0014 => scal 2 .ro
  | 0xA0004 => blob 32 .ro
  | 0xA0010 => blob 33554432 .wo
  | 0xA0020 => blob 8 .wog
  | _ =>
    if 0x50100 ≤ o ∧ o ≤ 0x50106 then arr 8 .ro 32
    else if 0x70100 ≤ o ∧ o ≤ 0x70105 then arr 8 .ro 8
    else none

/-- Every object of the dictionary (R439). -/
def State.objInfo (s : State) (o : Nat) : Option ObjInfo := ((objLow o).or (objMid o)).or (objHigh s o)

/-- R436: the index lies within the array; a status of 50.120 is 1 to 9. -/
def ObjInfo.indexOk (x : ObjInfo) (o i : Nat) : Bool :=
  match x.len with
  | none => i == 0
  | some n => decide (i < n) && !(o == 0x50120 && i == 0)

/-- R440, R446: the RWG objects in ascending order. -/
def rwgObjects : List Nat :=
  [0x00024, 0x30001, 0x30010, 0x30011, 0x30012, 0x30013, 0x30014, 0x30016, 0x30019, 0x30021, 0x40010, 0x40050, 0x40051,
   0x40052, 0x50001, 0x50020, 0x50021, 0x50030, 0x60010, 0x60011, 0x60012, 0x60013, 0x60014, 0x60015, 0x60020]

/-- Table 13.16: the bit of the scope that a guarded object belongs to. -/
def guardScope (o : Nat) : Option Nat :=
  if [0x30010, 0x30013, 0x30014, 0x30021, 0x40010, 0x40050, 0x40051, 0x40052, 0x50020, 0x50021, 0x60010, 0x60011, 0x60012,
      0x60013, 0x60014, 0x60015, 0x60020].contains o then some 0
  else if [0x30001, 0x30016, 0x50001, 0x50030].contains o then some 1
  else if [0x30011, 0x30012, 0x30019].contains o then some 2
  else if o = 0x00024 ∨ o = 0x90010 then some 3
  else if o = 0xA0020 then some 4
  else none

/-! ### Values -/

def convStateCode : ConvState → Nat
  | .stopped => 0
  | .running => 1
  | .noticed => 2
  | .halted => 3
  | .forming => 4
  | .broken => 5

/-- 30.017, Table 10.11. -/
def State.stepState (s : State) : Nat :=
  let none_ := 0xFFFFFFFF
  let opened : Option LiveStep := s.steps.open_.bind (fun x => if x.shut then none else some x)
  let shut : Option LiveStep := s.steps.closed.or (s.steps.open_.bind (fun x => if x.shut then some x else none))
  let last := s.steps.lastFinal
  packFields [(32, (s.steps.next.map BitVec.toNat).getD none_), (32, (opened.map (fun x => x.step.toNat)).getD none_),
    (32, (shut.map (fun x => x.step.toNat)).getD none_), (32, (last.map (fun x => x.1.toNat)).getD none_),
    (8, (last.map (fun x => x.2.1)).getD 0), (8, if s.steps.evalWindow then 1 else 0), (48, (last.map (fun x => x.2.2)).getD 0)]

/-- 40.060, Table 9.14: the migration of the lowest stack that has one. -/
def State.migrationValue (s : State) : Nat :=
  match s.mem.migration.head? with
  | none => 0
  | some (_, m) => packFields [(16, m.source), (16, m.target), (64, m.copied), (8, if m.switching then 2 else 1)]

/-- R451: the identity is ready. -/
def State.idReady (s : State) : Bool := s.obj 0x00030 0 == 1

/-- A key slot as the guard sees it: none while the key store is closed (R450). -/
def State.keySlot (s : State) (i : Nat) : KeySlot := if s.idReady then s.mgmt.keys.get {} i else {}

def keyId (k : BitVec 256) : Nat := (Config.kmac256 k [] (ascii "NALORA KEY ID")).toNat % 2 ^ 64

/-- 10.003: brown-hold, or a limit that stretches (R512 to R514). -/
def State.supplyState (s : State) : Nat :=
  if s.power.brown then 1 else if s.power.limitActing || s.power.forceSafe then 2 else 0

/-- 20.003 (R522). -/
def State.thermalState (s : State) : Nat :=
  if s.power.hot.contains .inlet || s.power.hot.contains .flow then 2
  else if (List.range 8).any (fun d => decide (s.power.thermalM d < 64)) then 1 else 0

/-- The value of element `i` of an object: computed from the state, or held by the bank of values. -/
def State.objVal (s : State) (o i : Nat) : Nat :=
  match o with
  | 0x00012 => s.now - s.boot.startNs
  | 0x00031 => s.mgmt.idKey.toNat
  | 0x00033 => (Config.sha3 (leBytes 1312 s.mgmt.idKey.toNat)).toNat % 2 ^ 64
  | 0x10000 => s.power.inputMv
  | 0x10003 => s.supplyState
  | 0x10102 => s.clock.supplyStretch.get 0 i / 6400
  | 0x20003 => s.thermalState
  | 0x20100 => s.clock.thermalStretch.get 0 i / 6400
  | 0x30000 => convStateCode s.conv.state
  | 0x30001 => packFields [(32, s.conv.span.spanId.toNat), (8, s.conv.span.n), (8, s.conv.span.index), (8, s.conv.span.master)]
  | 0x30015 => s.verdict.last
  | 0x30017 => s.stepState
  | 0x30018 => s.steps.gen.toNat
  | 0x40011 => 992 * (1024 - s.obj 0x40010 0) * 1048576
  | 0x40021 => ([62, 63].filter (fun j => fld (s.obj 0x40020 i) (8 * j) 8 ≠ 0xFF)).length
  | 0x40060 => s.migrationValue
  | 0x50031 => leNat ((List.range 32).map (fun p => BitVec.ofNat 8 (s.port p).state))
  | 0x50131 => s.poolFree
  | 0x60000 => s.viEnabled
  | 0x60002 => if 16 < s.viEnabled then 1 else 0
  | 0x70000 => s.now % 2 ^ 64
  | 0x70001 => s.pace
  | 0x80002 => s.cask.nextSeq
  | 0x80003 => if s.cask.nextSeq = 0 then 0 else packFields [(64, s.cask.headPos), (256, s.cask.headHash)]
  | 0x90001 => if !s.idReady then 2 else if (s.keySlot i).active then 1 else 0
  | 0x90002 => (s.keySlot i).scope.toNat
  | 0x90003 => if (s.keySlot i).active then keyId (s.keySlot i).key else 0
  | 0xA0001 => if s.mgmt.fw.runs then imageVersion s.mgmt.fw.running else 0
  | 0xA0002 => if s.mgmt.fw.runs then imageSvn s.mgmt.fw.running else 0
  | 0xA0004 => if s.mgmt.fw.runs then (Config.sha3 (imageBytes s.mgmt.fw.running 0 1364)).toNat else 0
  | _ => s.obj o i

/-- `n` bytes of the record memory from byte `off` (80.010): a position without a record reads 0. -/
def State.caskBytes (s : State) (off n : Nat) : Bytes :=
  let first := off / 256
  let blocks := (List.range ((off % 256 + n + 255) / 256)).flatMap (fun i =>
    match s.cask.records.find? (first + i) with
    | some r => r.bytes
    | none =>
      if s.cask.torn ∧ first + i = s.cask.nextSeq % caskPositions then
        (List.range 256).map (Config.tornByte s.cask.nextSeq)
      else List.replicate 256 0)
  (blocks.drop (off % 256)).take n

/-- `n` bytes of a value from byte `off`; a write-only object returns 0 (Table 0.2). -/
def State.objBytes (s : State) (o i off n : Nat) : Bytes :=
  match o with
  | 0x00040 | 0x80020 | 0x90010 | 0xA0010 | 0xA0020 => List.replicate n 0
  | 0x80010 => s.caskBytes off n
  | 0x80021 => (s.cask.exported.drop off).take n
  | 0x00042 => ((s.mgmt.report ++ List.replicate (2676 - s.mgmt.report.length) 0).drop off).take n
  | _ => leBytes n (s.objVal o i >>> (8 * off))

/-! ### When a write is accepted, and which values (R391, R438, R447) -/

/-- The Maltster runs an image or the recovery loader. -/
def State.serves (s : State) : Bool :=
  s.boot.phase != .held && s.boot.phase != .rom && (s.power.hold == .none || s.power.hold == .tripped)

/-- The recovery loader never changes keys or settings (R460). -/
def State.recovering (s : State) : Bool := s.boot.phase == .recovery

def State.hasContext (s : State) (v : Nat) : Bool := s.host.ctxs.any (fun x => ctxVi x.1 == v)

/-- Partition objects of a virtual interface. -/
def partitionObject (o : Nat) : Bool :=
  [0x30010, 0x30013, 0x30014, 0x30021, 0x40050, 0x40051, 0x40052, 0x50020, 0x50021, 0x60010, 0x60011, 0x60012, 0x60013,
   0x60014, 0x60015].contains o

/-- A loaded program names slots of the shared range (R98). -/
def ConvProg.namesShared (p : ConvProg) : Bool := p.inj.any (·.shared) || p.sta.any (·.sharedRef)

/-- Check 5: the object accepts a write at this moment. DEDUCED: 30.011 is an allocation too (R97), so it changes only while
no loaded program names its slots (log entry 51). -/
def State.objAccepts (s : State) (o i : Nat) : Bool :=
  if partitionObject o then !s.hasContext i
  else match o with
    | 0x30001 => s.conv.state == .halted || s.conv.state == .broken
    | 0x30011 => s.host.ctxs.all (fun x => !(x.2.conv.any (·.namesShared) || x.2.nextConv.any (·.namesShared)))
    | 0x40010 => s.viEnabled == 1 && s.host.objects.all (fun x => !x.2.fast)
    | 0x50001 | 0x50030 => s.fab.windows.isEmpty
    | 0x60020 => s.viEnabled == 1
    | 0xA0020 => s.obj 0xA0011 0 == 3 && s.obj 0xA0000 0 != 1 && !s.power.brown
    | _ => true

/-- Two ranges overlap; an empty range overlaps nothing. -/
def rangesMeet (a b : Nat × Nat) : Bool := decide (0 < a.2 ∧ 0 < b.2 ∧ a.1 < b.1 + b.2 ∧ b.1 < a.1 + a.2)

/-- The range of an allocation object: first and count. -/
def allocRange (o v : Nat) : Nat × Nat :=
  match o with
  | 0x30021 => (fld v 32 25, fld v 0 25)
  | 0x60012 => (fld v 16 12, fld v 0 12)
  | _ => (fld v 16 12, fld v 0 13)

/-- What an allocation object divides. -/
def allocLimit (o : Nat) : Nat :=
  match o with
  | 0x30021 => 21635072
  | 0x60012 => 2048
  | _ => 4096

def State.othersSum (s : State) (o i : Nat) : Nat := sumNat ((List.range 64).map (fun u => if u = i then 0 else s.obj o u))

/-- Check 6: the value lies in its range and overlaps no other allocation. -/
def State.rangeOk (s : State) (o i v : Nat) : Bool :=
  match o with
  | 0x00020 => decide (1 ≤ v ∧ v ≤ 16)
  | 0x00021 => decide (16 ≤ v)
  | 0x10020 => decide (1000 ≤ v ∧ v ≤ 4700)
  | 0x20020 => decide (20000 ≤ v ∧ v ≤ 45000)
  | 0x20021 => decide (6000 ≤ v ∧ v ≤ 20000)
  | 0x30001 =>
    let c := spanCfgOf v
    decide (1 ≤ c.n ∧ c.n ≤ 64 ∧ c.index < c.n ∧ c.master < c.n ∧ s.slotsTaken ≤ c.slots ∧ s.wortTaken ≤ c.slots)
  | 0x30010 => decide (s.othersSum o i + v + s.obj 0x30011 0 + 2 ≤ s.conv.span.slots)
  | 0x30011 => decide (s.othersSum 0x30010 64 + v + 2 ≤ s.conv.span.slots)
  | 0x30013 => decide (s.othersSum o i + v + 2 ≤ s.conv.span.slots)
  | 0x30014 | 0x30021 | 0x50021 | 0x60012 =>
    let r := allocRange o v
    decide (r.1 + r.2 ≤ allocLimit o) && (List.range 64).all (fun u => u == i || !rangesMeet r (allocRange o (s.obj o u)))
  | 0x40010 => decide (v ≤ 512)
  | 0x40030 => decide (fld v 1 6 ≤ 32)
  | 0x40040 => decide (1 ≤ v ∧ v ≤ 168)
  | 0x40042 => decide (1 ≤ v ∧ v ≤ 1440)
  | 0x40043 => decide (2 ≤ v ∧ v ≤ 40)
  | 0x40051 => decide (1 ≤ v ∧ v ≤ 16384)
  | 0x50001 | 0x50030 => topologyValueOk (o == 0x50030) v
  | 0x60010 =>
    (List.range 64).all (fun u => u == i || (v &&& s.obj o u) == 0) && s.health.withdrawn.all (fun st => !bit v st)
  | 0x60011 => v % 2097152 == 0
  | 0x60013 => decide (s.othersSum o i + v ≤ 4096)
  | 0x60014 => decide (s.othersSum o i + v ≤ 16384)
  | 0x60015 => decide (s.othersSum o i + v ≤ 65536)
  | _ => true

/-- R5: reserved bits of a written value are ignored. -/
def liveBits (o v : Nat) : Nat :=
  match o with
  | 0x00024 => v % 16
  | 0x30001 => v % 2 ^ 56
  | 0x30014 | 0x50021 => v % 2 ^ 13 + fld v 16 12 * 65536
  | 0x30021 => v % 2 ^ 25 + fld v 32 25 * 2 ^ 32
  | 0x40030 => v % 128
  | 0x50030 => v % 2 ^ 64
  | 0x60012 => v % 4096 + fld v 16 12 * 65536
  | _ => v

/-! ### Effects of accepted writes on settings -/

/-- A value that persists is set, and waits for the commit to flash (R443). -/
def State.setPersistent (s : State) (o i v : Nat) : State :=
  let s := s.setObj o i v
  { s with mgmt.unsaved := insertNat (okey o i) s.mgmt.unsaved }

/-- The logical pages of the dictionary store that some values lie in. -/
def pagesOf (keys : List Nat) : List Nat := (keys.map (fun k => (Config.pageOf k).val)).dedup

/-- A physical page is free: it holds nothing, a version that a later one that counts has replaced, or one that an
interrupted transaction has left. -/
def Mgmt.pageFree (m : Mgmt) (i : Nat) : Bool :=
  match m.pages.find? i with
  | none => true
  | some x => (!x.named && m.journal.isNone) || m.pages.any (fun y => y.2.page == x.page && y.2.named && decide (x.seq < y.2.seq))

/-- The next free one of the 8,192 physical pages, round robin (log entry 130). -/
def Mgmt.nextFree (m : Mgmt) : Nat → Nat → Nat
  | 0, i => i
  | n + 1, i => if m.pageFree i then i else m.nextFree n ((i + 1) % 8192)

/-- R442, R444: the new version of a logical page, with the values that it is to hold, is programmed into a free physical
page; no commit record names it yet. -/
def Mgmt.program (store : Bank Nat) (m : Mgmt) (page : Nat) : Mgmt :=
  let i := m.nextFree 8192 m.pageNext
  let values := store.filter (fun x => (Config.pageOf x.1).val == page)
  let x : PageVersion := { page := page, seq := m.pageSeq, crc := crc32c (Config.pageBytes page m.pageSeq values) }
  { m with pages := m.pages.put i x, pageSeq := m.pageSeq + 1, pageNext := (i + 1) % 8192, pageBudget := m.pageBudget - 1,
           pageDebt := if m.pageBudget = 0 then m.pageDebt + 1 else m.pageDebt }

/-- R442: one commit record names the page versions with sequence numbers from `first` on: they count now. -/
def Mgmt.commitRecord (m : Mgmt) (first : Nat) : Mgmt :=
  { m with pages := m.pages.map (fun x => if first ≤ x.2.seq then (x.1, { x.2 with named := true }) else x) }

/-- Values are stored in flash in one transaction: the pages that they lie in, and some others, then the commit record. -/
def Mgmt.save (m : Mgmt) (values : List (Nat × Nat)) (others : List Nat := []) : Mgmt :=
  let store := values.foldl (fun (b : Bank Nat) x => Bank.put b x.1 x.2) m.store
  let t := ((pagesOf (values.map (·.1)) ++ others).dedup.foldl (Mgmt.program store) m).commitRecord m.pageSeq
  { m with store := store, pages := t.pages, pageSeq := t.pageSeq, pageNext := t.pageNext, pageBudget := t.pageBudget,
           pageDebt := t.pageDebt }

/-- Values that the module itself keeps are set, and stored in flash in one transaction. -/
def State.keepAll (s : State) (l : List (Nat × Nat × Nat)) : State :=
  let s := l.foldl (fun (t : State) x => t.setObj x.1 x.2.1 x.2.2) s
  { s with mgmt := s.mgmt.save (l.map (fun x => (okey x.1 x.2.1, x.2.2))) }

/-- The repair list changes, in one transaction with some values of the same repair (R469). -/
def State.keepRepair (s : State) (r : RepairList) (l : List (Nat × Nat × Nat) := []) : State :=
  let s := l.foldl (fun (t : State) x => t.setObj x.1 x.2.1 x.2.2) s
  { s with health.repair := r, mgmt := s.mgmt.save (l.map (fun x => (okey x.1 x.2.1, x.2.2))) [Config.repairPage.val] }

/-- A value that the module itself keeps in flash at once. -/
def State.setKept (s : State) (o i v : Nat) : State := s.keepAll [(o, i, v)]

/-- A value is set and stored in a page that the transaction in progress has programmed. -/
def State.putStored (s : State) (o i v : Nat) : State :=
  let s := s.setObj o i v
  { s with mgmt.store := s.mgmt.store.put (okey o i) v }

/-- The effect of an accepted write on a setting (RW and RWG objects). -/
def State.applySetting (s : State) (o i v : Nat) : State :=
  let s := match o with
    | 0x00020 => { s.setObj o i v with mgmt.plcaWritten := true }
    | 0x30001 => s.writeSpan v
    | 0x30010 => (s.layoutSlots i v).setObj o i v
    | 0x30011 => (s.layoutSlots 64 v).setObj o i v
    | 0x30012 => s.writeGrant i v
    | 0x30013 => (s.layoutWort i v).setObj o i v
    | 0x40050 => (s.keepBucket i).setObj o i v
    | 0x40051 => (s.keepBucket i).setObj o i v
    | 0x40052 => (s.keepBucket i).setObj o i v
    | 0x50001 => s.writeTopology false v
    | 0x50030 => s.writeTopology true v
    | _ => s.setObj o i v
  { s with mgmt.unsaved := insertNat (okey o i) s.mgmt.unsaved }

end Sys2Proof.Machine
end

