-- ==== Sys2Proof/Machine/MemoryTiers.lean ====
section
/-!
DEFINITION. The memory tiers as machines of their own (R46, R293, R295, R297 to R302, R308, R309, R314): the queues of the
pseudo-channels, parity retries, retraining windows, patrol scrub, migration, miss tracking, prefetch, bandwidth regulation
and slow-tier packages.
-/

namespace Sys2Proof.Machine

def State.pchan (s : State) (p : Nat) : Pchan := s.mem.pchan.get {} p
def State.putPchan (s : State) (p : Nat) (x : Pchan) : State := { s with mem.pchan := s.mem.pchan.set {} p x }

/-! ### Where a pseudo-channel's sectors lie (R289 to R291) -/

/-- The logical channel that the map of a stack assigns to a pseudo-channel. -/
def State.mappedTo (s : State) (p : Nat) : Option Nat :=
  (List.range 62).find? (fun c => fld (s.obj 0x40020 (p / 64)) (8 * c) 8 == p % 64)

/-- The device physical address of an offset in logical channel `c` of stack `h`: the inverse of R289 and R290. -/
def State.channelAddr (s : State) (h c offset : Nat) : Nat :=
  let rows := (1024 - s.obj 0x40010 0) * 256
  let q := offset / 4096
  if q < rows then (q * 992 + (16 * c + h + 992 - 31 * (q % 32) % 992) % 992) * 4096 + offset % 4096
  else 2 ^ 40 + h * 2 ^ 36 + ((q - rows) * 62 + c) * 4096 + offset % 4096

/-- The free spares of a stack: positions listed in bytes 62 and 63 of its map. -/
def State.freeSpares (s : State) (h : Nat) : List Nat :=
  ([62, 63].map (fun i => fld (s.obj 0x40020 h) (8 * i) 8)).filter (· != 0xFF)

/-! ### The queue of a pseudo-channel (R46, R298, R300) -/

/-- The migration of its stack has copied the last sector of this pseudo-channel and waits to switch the map. -/
def State.switching (s : State) (p : Nat) : Bool :=
  (s.mem.migration.find? (p / 64)).any (fun m => m.source == p && m.switching)

/-- Arrivals for the pseudo-channel enter its hold queue: in a retraining window (R298), and between the last sector of a
migration and the switch of the channel map (R300). -/
def State.holds (s : State) (p : Nat) : Bool := (s.pchan p).window.isSome || s.switching p

/-- The cluster behind a source tag of the queue: tag 8 st + i is the ith cluster of station st. -/
def State.tagCluster (s : State) (r : Nat) : Option Nat := if r < 1024 then (s.stationClusters (r / 8))[r % 8]? else none

/-- R302: the data of a cluster's request have returned. Its entry is free, a prefetch fills its sector; of an instruction
or a transfer, the entry stays with its owner. -/
def State.missReturn (s : State) (p cl : Nat) : State :=
  match (s.cluster cl).miss.find? (fun e => e.p == p && e.queued) with
  | none => s
  | some e => match e.owner with
    | .other => s.dropMiss cl e
    | .prefetch => s.prefetchArrive cl e
    | _ => s.putCluster cl { s.cluster cl with miss := (s.cluster cl).miss.map (fun y => if y = e then { y with queued := false } else y) }

/-- The queue brought to cycle `t` and changed; the sectors of the grants that have ended return to their clusters. -/
def State.onPchan (s : State) (p t : Nat) (f : Arb → Arb) : State :=
  let s := s.onArb .hbmQueue p t id
  let done := (s.arbOf .hbmQueue p).ended.filter (fun e => decide (e.2.2 ≤ t))
  let take : Arb → Arb := fun x => { x with ended := x.ended.filter (fun e => decide (t < e.2.2)) }
  let s := { s with arb.insts := s.arb.insts.set {} (instKey .hbmQueue p) (f (take (s.arbOf .hbmQueue p))) }
  done.foldl (fun u e => match u.tagCluster e.1 with
    | some cl => u.missReturn p cl
    | none => u) s

/-- An instance of any class brought to cycle `t` and changed. -/
def State.onInst (s : State) (c : ArbClass) (inst t : Nat) (f : Arb → Arb) : State :=
  if c = .hbmQueue then s.onPchan inst t f else s.onArb c inst t f

/-- A request is admitted: to the hold queue of 256 entries while arrivals are held, where one that finds it full stays with
its source and is counted; else to the pseudo-channel queue. -/
def State.letIn (s : State) (p : Nat) (h : Head) : Bool × State :=
  let x := s.pchan p
  if s.holds p then
    if x.held.length < 256 then (true, s.putPchan p { x with held := x.held ++ [h] }) else (false, s.bump 0x40105 p)
  else (true, s.onPchan p (h.arrived - 1) (fun a => a.enqueue h))

/-- A request of a requester to a pseudo-channel. That of a cluster is one of its miss-tracking entries for the
pseudo-channel that has not been sent to it yet (R46, R302). -/
def State.requestPchan (s : State) (p : Nat) (h : Head) : State :=
  if h.req < 1024 then
    match s.tagCluster h.req with
    | none => s
    | some cl =>
      match (s.cluster cl).miss.find? (fun e => e.p == p && !e.queued && e.stage != .waiting) with
      | none => s
      | some e =>
        let r := s.letIn p h
        if r.1 then
          let x := r.2.cluster cl
          r.2.putCluster cl { x with miss := x.miss.erase e ++ [{ e with queued := true }] }
        else r.2
  else (s.letIn p h).2

/-! ### Migration (R300, R301) -/

/-- The spares of a stack that no running migration has taken. -/
def State.openSpares (s : State) (h : Nat) : List Nat :=
  (s.freeSpares h).filter (fun t => !(s.mem.migration.find? h).any (fun m => m.target % 64 == t))

/-- The pseudo-channels of a stack that wait for their migration: those that have failed, then those that R295 selects. -/
def State.migrateNext (s : State) (h : Nat) : Option (Nat × Nat) :=
  let l := (List.range 64).map (64 * h + ·)
  match l.find? (fun p => (s.pchan p).failed && (s.mappedTo p).isSome && !(s.pchan p).noSpare) with
  | some p => some (p, 0)
  | none => (l.find? (fun p => (s.pchan p).selected && (s.mappedTo p).isSome)).map (fun p => (p, 1))

/-- A migration of the stack starts, if none runs, a pseudo-channel waits for one and a spare is free; reason 0: failed,
1: CE_LIMIT. -/
def State.startMigration (s : State) (h : Nat) : State :=
  match s.mem.migration.find? h, s.migrateNext h, s.openSpares h with
  | none, some (p, reason), t :: _ =>
    let target := 64 * h + t
    let s := s.putPchan p { s.pchan p with selected := false }
    ({ s with mem.migration := s.mem.migration.put h { source := p, target := target } } : State).caskPost 0x0403 (source 3 p)
      (leBytes 128 (packFields [(16, p), (16, target), (8, reason)]))
  | _, _, _ => s

/-- A pseudo-channel becomes failed and is listed (R469). Where its stack has no spare left for it, the record of R301 is written, once. -/
def State.failPchan (s : State) (p : Nat) : State :=
  if (s.pchan p).failed then s
  else
    let h := p / 64
    let mine := (s.mem.migration.find? h).any (fun m => m.source == p)
    let ahead := ((List.range 64).filter (fun i => (s.pchan (64 * h + i)).failed && !(s.pchan (64 * h + i)).noSpare
      && (s.mappedTo (64 * h + i)).isSome && !(s.mem.migration.find? h).any (fun m => m.source == 64 * h + i))).length
    let s := (s.putPchan p { s.pchan p with failed := true }).keepRepair
      { s.health.repair with channels := insertNat p s.health.repair.channels }
    if (s.mappedTo p).isNone || mine then s
    else if (s.openSpares h).length ≤ ahead then
      (s.putPchan p { s.pchan p with noSpare := true }).caskPost 0x0405 (source 3 p) (leBytes 128 p)
    else s.startMigration h

/-- Bytes of a pseudo-channel. -/
def pchanBytes : Nat := 2 ^ 30

/-- MIGRATION_SECTOR_COPY: the next sector in ascending order; one that reads uncorrectable keeps its mark, a corrected one
is counted (R292). -/
def execMigrationSectorCopy (h : Fin 16) (ecc : EccResult) (s : State) : Out :=
  match s.mem.migration.find? h.val with
  | none => .next s
  | some m =>
    if pchanBytes ≤ m.copied then .next s
    else
      let next : Migration :=
        { m with copied := m.copied + 256, poisoned := m.poisoned + (if ecc = .uncorrectable then 1 else 0),
                 switching := decide (pchanBytes ≤ m.copied + 256) }
      let s := { s with mem.migration := s.mem.migration.put h.val next }
      match ecc, s.mappedTo m.source with
      | .uncorrectable, some c => .next (s.hbmUe (s.channelAddr h.val c m.copied) 4)
      | .corrected, _ => .next (s.bump 0x40102 m.source)
      | _, _ => .next s

/-- The channel map of a stack with logical channel `c` at position `t`, the spare `t` used. -/
def switchMap (map c t : Nat) : Nat :=
  let m := setFld map (8 * c) 8 t
  let m := if fld m (8 * 62) 8 = t then setFld m (8 * 62) 8 0xFF else m
  if fld m (8 * 63) 8 = t then setFld m (8 * 63) 8 0xFF else m

/-- Nothing that was admitted to a pseudo-channel is still in flight. -/
def State.drained (s : State) (p : Nat) : Bool :=
  let x := s.arbOf .hbmQueue p
  x.heads.isEmpty && x.queued.isEmpty && x.running.isNone

/-- Held requests of pseudo-channel `p` enter the queue of `q` in arrival order, `q` taking requests from cycle `t` on. DESIGN
CHOICE: a request has waited since it arrived in the hold queue, so that the order of R34 counts that time too (log entry 127). -/
def State.releaseHeld (s : State) (p q t : Nat) : State :=
  let l := (s.pchan p).held
  (s.putPchan p { s.pchan p with held := [] }).onPchan q t (fun a =>
    l.foldl Arb.enqueue { a with closed := false, idleFrom := max a.idleFrom t })

/-- The requests of a pseudo-channel that still wait at their clusters: they reach the one that the map names when they are
admitted (R291). -/
def State.repoint (s : State) (p q : Nat) : State :=
  let f : MissEntry → MissEntry := fun e => if e.p = p ∧ !e.queued then { e with p := q } else e
  { s with clusters := s.clusters.map (fun x => (x.1, { x.2 with miss := x.2.miss.map f })) }

/-- MIGRATION_SWITCH in a cycle of the stack's controller: once the writes in flight at the source and the target are done,
the map changes in one step and the arrivals that were held go to the target; the repair list keeps the map (R469), and the
stack's next migration starts. -/
def execMigrationSwitch (h : Fin 16) (cycle : Nat) (s : State) : Out :=
  match s.mem.migration.find? h.val with
  | none => .next s
  | some m =>
    match s.mappedTo m.source with
    | none => .next s
    | some c =>
      let s := (s.onPchan m.source cycle id).onPchan m.target cycle id
      if !m.switching || !s.drained m.source || !s.drained m.target then .next s
      else
        let map := switchMap (s.obj 0x40020 h.val) c (m.target % 64)
        let s := { (s.setObj 0x40020 h.val map).setObj 0x40061 0 ((s.obj 0x40061 0 + 1) % 2 ^ 32) with
                   mem.migration := s.mem.migration.erase h.val }
        let s := s.keepRepair { s.health.repair with maps := s.health.repair.maps.put h.val map }
        let s := s.caskPost 0x0404 (source 3 m.source) (leBytes 128 (packFields [(16, m.source), (16, m.target), (32, m.poisoned)]))
        .next (((s.repoint m.source m.target).releaseHeld m.source m.target cycle).startMigration h.val)

/-! ### Retraining windows (R293, R297 to R299) -/

/-- Some pseudo-channel of a stack is in a window. -/
def State.stackBusy (s : State) (h : Nat) : Bool := (List.range 64).any (fun i => (s.pchan (64 * h + i)).window.isSome)

/-- A window opens in cycle `t`: arrivals go to the hold queue and nothing is granted from now on. A window of it that had
fallen due is the same training. -/
def State.openWindow (s : State) (p : Nat) (cause : RetrainCause) (t : Nat) : State :=
  let s := (s.putPchan p { s.pchan p with window := some cause }).bump 0x40104 p
  let s := { s with mem.due := s.mem.due.set [] (p / 64) ((s.mem.due.get [] (p / 64)).filter (fun x => x.1 != p)) }
  s.onPchan p (t - 1) (fun a => { a with closed := true })

/-- A window ends in cycle `t`: the requests that it held enter the queue, unless a switch of the map holds them on; the
oldest window of the stack that has fallen due opens once no other is open. -/
def State.closeWindow1 (s : State) (p t : Nat) : State :=
  let s := s.putPchan p { s.pchan p with window := none }
  let s := if s.switching p then s.onPchan p (t - 1) (fun a => { a with closed := false, idleFrom := max a.idleFrom t })
    else s.releaseHeld p p (t - 1)
  match s.mem.due.get [] (p / 64) with
  | x :: _ => if s.stackBusy (p / 64) then s else s.openWindow x.1 x.2 t
  | [] => s

/-- The key of a transfer. -/
def transferKey (x : HbmTransfer) : Nat := x.number * requesters .hbmQueue + x.req

/-- R293: a failed transfer escalates: it waits in the hold queue, behind a window that opens at once. -/
def State.escalate (s : State) (p : Nat) (r : HbmTransfer) (t : Nat) : State :=
  let x := s.pchan p
  let s := s.putPchan p { x with retries := x.retries.erase (transferKey r), escalated := insertNat (transferKey r) x.escalated,
                                 held := x.held ++ [⟨r.req, t, 16, r.number⟩] }
  let s := s.bump 0x40101 p
  if x.window.isSome then s else s.openWindow p .escalation t

/-- HBM_PARITY_RETRY: the outcome of the retry of a transfer, 64 controller cycles after it failed. The fourth retry that
fails escalates; a transfer that still fails behind its window makes the pseudo-channel failed. -/
def execHbmParityRetry (p : Fin 1024) (req : HbmTransfer) (passes : Bool) (cycle : Nat) (s : State) : Out :=
  let x := s.pchan p.val
  if requesters .hbmQueue ≤ req.req then .next s
  else if x.escalated.contains (transferKey req) then
    if x.window.isSome then .next s
    else
      let s := s.putPchan p.val { x with escalated := eraseNat (transferKey req) x.escalated, retries := x.retries.erase (transferKey req) }
      .next (if passes then s else s.failPchan p.val)
  else
    let s := s.bump 0x40100 p.val
    let n := x.retries.get 0 (transferKey req)
    if passes then .next (s.putPchan p.val { x with retries := x.retries.erase (transferKey req) })
    else if n < 3 then .next (s.putPchan p.val { x with retries := x.retries.set 0 (transferKey req) (n + 1) })
    else .next (s.escalate p.val req cycle)

/-- Time and stack temperature of the last training of a pseudo-channel, that of the start-up or a later one. -/
def State.trainedAt (s : State) (p : Nat) : Nat × Int :=
  (s.pchan p).trained.getD (s.mem.startTrained, s.mem.startMc.get 0 (p / 64))

/-- R297: whether a window of this cause is due. -/
def State.windowDue (s : State) (p : Nat) (cause : RetrainCause) : Bool :=
  match cause with
  | .escalation => false
  | .periodic => decide ((s.trainedAt p).1 + s.obj 0x40042 0 * 60000000000 ≤ s.now)
  | .temperature mC => decide (s.obj 0x40043 0 * 1000 ≤ (mC - (s.trainedAt p).2).natAbs)

/-- RETRAIN_WINDOW_OPEN: a periodic or temperature window that is due opens while no pseudo-channel of the stack is in any
window, and waits else. The window of an escalation has opened with it (R293). -/
def execRetrainWindowOpen (p : Fin 1024) (cause : RetrainCause) (cycle : Nat) (s : State) : Out :=
  if (s.pchan p.val).window.isSome ∨ !s.windowDue p.val cause then .next s
  else if !s.stackBusy (p.val / 64) then .next (s.openWindow p.val cause cycle)
  else
    let l := s.mem.due.get [] (p.val / 64)
    .next (if l.any (fun x => x.1 == p.val) then s
      else { s with mem.due := s.mem.due.set [] (p.val / 64) (l ++ [(p.val, cause)]) })

/-- RETRAIN_WINDOW_END: training has succeeded, at this stack temperature. -/
def execRetrainWindowEnd (p : Fin 1024) (mC : Int) (cycle : Nat) (s : State) : Out :=
  if (s.pchan p.val).window.isSome then
    .next ((s.putPchan p.val { s.pchan p.val with trained := some (s.now, mC) }).closeWindow1 p.val cycle)
  else .next s

/-- RETRAIN_TIMEOUT: 500 µs have passed; the pseudo-channel resumes with its last good values and is failed. -/
def execRetrainTimeout (p : Fin 1024) (cycle : Nat) (s : State) : Out :=
  .next (if (s.pchan p.val).window.isSome then (s.closeWindow1 p.val cycle).failPchan p.val else s)

/-! ### Patrol scrub (R295) -/

/-- PATROL_SCRUB_READ of one sector; `last` ends the pass. Corrected errors of the pass beyond CE_LIMIT select the
pseudo-channel for migration, as long as its stack has a spare. -/
def execPatrolScrubRead (p : Fin 1024) (offset : Nat) (result : EccResult) (last : Bool) (s : State) : Out :=
  match s.mappedTo p.val with
  | none => .next s
  | some c =>
    let x := s.pchan p.val
    let n := x.scrubErrors + (if result = .corrected then 1 else 0)
    let s := s.putPchan p.val { x with scrubErrors := if last then 0 else n }
    let s := match result with
      | .clean => s
      | .corrected => s.bump 0x40102 p.val
      | .uncorrectable => s.hbmUe (s.channelAddr (p.val / 64) c (offset / 256 * 256 % pchanBytes)) 4
    let h := p.val / 64
    let moving := (s.mem.migration.find? h).any (fun m => m.source == p.val)
    if s.obj 0x40041 0 < n ∧ !x.failed ∧ !x.selected ∧ !moving ∧ !(s.openSpares h).isEmpty then
      .next ((s.putPchan p.val { s.pchan p.val with selected := true }).startMigration h)
    else .next s

/-! ### Miss tracking and prefetch (R302, R308) -/

/-- MISS_ENTRY_ALLOC: a request of a cluster to a pseudo-channel that waited for a miss-tracking entry obtains one; the
cycles that it waited are counted. While none is free for it, it waits on. -/
def execMissEntryAlloc (cluster : Fin 1088) (p : Fin 1024) (waited : Nat) (s : State) : Out :=
  let cl := cluster.val
  if s.missRoom cl (some p.val) then
    let x := s.cluster cl
    .next ((s.putCluster cl { x with miss := x.miss ++ [{ owner := .other, p := p.val }] }).bumpBy 0x40116 cl waited)
  else .next s

/-- The first cluster of v on die d with a request that waits for the bucket. -/
def State.bucketWaiter (s : State) (v d : Nat) : Option (Nat × MissEntry) :=
  ((s.clusters.filter (fun x => dieOfCluster x.1 == d)).findSome? (fun x =>
    (x.2.miss.find? (fun e => e.stage == .waiting && e.v == v)).map (fun e => (x.1, e))))

/-- REGULATOR_CHARGE: a request of v on die d that waits in its miss-tracking entry is charged once the bucket holds 256
bytes; the nanoseconds that it waited are counted. DESIGN CHOICE: of several, the one of the lowest cluster, the oldest of its
entries first (log entry 107). -/
def execRegulatorCharge (v : Fin 64) (d : Fin 8) (waitedNs : Nat) (s : State) : Out :=
  match s.bucketWaiter v.val d.val with
  | none => .next s
  | some (cl, e) =>
    if s.bucketEmpty v.val d.val then .next s
    else
      let x := s.cluster cl
      let s := s.putCluster cl { x with miss := x.miss.map (fun y => if y = e then { y with stage := .charged } else y) }
      .next ((s.charge v.val d.val).bumpBy 0x40120 v.val waitedNs)

/-- The prefetch engine's target: DIST sectors ahead of the latest demand of the stream, in the direction of its stride. -/
def prefetchTarget (t : Tracker) (dist : Nat) : Option Nat :=
  let a := (t.last : Int) + (if t.stride < 0 then -(dist : Int) else dist)
  if t.misses < 3 ∨ t.stride = 0 ∨ a < 0 then none else some a.toNat

/-- The oldest entry leaves a full prefetch table unused. -/
def State.roomPrefetch (s : State) (cl : Nat) : State :=
  let x := s.cluster cl
  if x.prefetched.length < 256 then s else (s.putCluster cl { x with prefetched := x.prefetched.tail }).bump 0x40113 cl

/-- R302: a prefetch is sent only while fewer than 32 entries hold prefetches and at least 16 are free, within the cap of
R46. -/
def State.prefetchRoom (s : State) (cl p : Nat) : Bool :=
  decide (((s.cluster cl).miss.filter (fun e => e.owner == .prefetch)).length < 32) && decide (s.missUsed cl + 16 ≤ 128)
    && s.missRoom cl (some p)

/-- A prefetch enters the prefetch table; an older one of the same sector leaves it unused. -/
def State.tablePrefetch (s : State) (cl k : Nat) : State :=
  let x := s.cluster cl
  let s := if x.prefetched.contains k then (s.putCluster cl { x with prefetched := x.prefetched.erase k }).bump 0x40113 cl
    else s.roomPrefetch cl
  s.putCluster cl { s.cluster cl with prefetched := (s.cluster cl).prefetched ++ [k] }

/-- PREFETCH_ISSUE of a trained tracker. A sector that a slice holds arrives at once; another is on its way until its
request has been served. -/
def execPrefetchIssue (cluster : Fin 1088) (tracker : Fin 16) (s : State) : Out :=
  let cl := cluster.val
  match (s.cluster cl).ctx with
  | none => .next s
  | some k =>
    let ctrl := s.obj 0x40030 (ctxVi k)
    let dist := if fld ctrl 1 6 = 0 then 8 else fld ctrl 1 6
    match prefetchTarget ((s.cluster cl).trackers.get {} tracker.val) dist with
    | none => .next s
    | some a =>
      if !bit ctrl 0 then .next s
      else match s.translate k (256 * a) .load with
        | .ok (.fast p) =>
          let d := dieOfCluster cl
          let q := s.pchanOf p
          let had := s.dieHas d (.fast p) || s.homeHas (.fast p)
          if !s.prefetchRoom cl q || (!had && s.bucketEmpty (ctxVi k) d) then .next (s.bump 0x40114 cl)
          else
            let e : MissEntry := { owner := .prefetch, sector := (Place.fast p).sector, addr := p, p := q, v := ctxVi k }
            let s := (s.bump 0x40110 cl).tablePrefetch cl e.sector
            if had then .next (s.prefetchArrive cl e)
            else
              let s := s.charge (ctxVi k) d
              .next (s.putCluster cl { s.cluster cl with miss := (s.cluster cl).miss ++ [e] })
        | _ => .next s

/-! ### The slow tier's packages (R314) -/

def State.lp (s : State) (q : Nat) : LpPackage := s.mem.lp.get {} q
def State.putLp (s : State) (q : Nat) (x : LpPackage) : State := { s with mem.lp := s.mem.lp.set {} q x }

/-- A package becomes failed; reason 0: retraining failed, 1: second escalation within one hour. -/
def State.failLp (s : State) (q reason : Nat) : State :=
  let s := (s.putLp q { s.lp q with failed := true, retraining := false, attempts := [] }).setObj 0x40134 q 1
  let s := (s.keepRepair { s.health.repair with packages := insertNat q s.health.repair.packages }).caskPost 0x0407
    (source 4 q) (leBytes 128 reason)
  let j := q / 8
  if decide (2 ≤ (State.failedPackages s (2 * j)).length) then ((s.loseAll (2 * j)).loseAll (2 * j + 1)) else s

/-- LP_LINK_RETRY: a transfer whose fourth retry fails escalates: the package is retrained, or failed. -/
def execLpLinkRetry (q : Fin 32) (passes : LinkTry) (s : State) : Out :=
  let x := s.lp q.val
  let n := x.attempts.get 0 passes.transfer
  if x.failed ∨ x.retraining then .next s
  else if passes.passes then .next (s.putLp q.val { x with attempts := x.attempts.erase passes.transfer })
  else if n < 3 then .next (s.putLp q.val { x with attempts := x.attempts.set 0 passes.transfer (n + 1) })
  else if x.escalatedAt.any (fun t => decide (s.now < t + 3600000000000)) then .next (s.failLp q.val 1)
  else .next (s.putLp q.val { x with attempts := [], retraining := true, escalatedAt := some s.now })

/-- LP_RETRAIN_WINDOW: the window of a package ends. -/
def execLpRetrainWindow (q : Fin 32) (succeeds : Bool) (s : State) : Out :=
  let x := s.lp q.val
  if !x.retraining then .next s
  else if succeeds then .next (s.putLp q.val { x with retraining := false })
  else .next (s.failLp q.val 0)

end Sys2Proof.Machine
end

