-- ==== Sys2Proof/Machine/ArbiterCommands.lean ====
section
/-!
DEFINITION. The commands of the common arbiter (R33 to R47): a request, a decision, the end of a back-off, an emergency and
its end, and a write to the control register. At a pseudo-channel they act on the queue of R46 and R298.
-/

namespace Sys2Proof.Machine

/-- ARBITER_REQUEST: a request enters its requester's queue; it becomes the head at once if the queue is empty. Decisions of
earlier cycles come first. A grant unit that the class does not have (Table 2.2) is no request. -/
def execArbiterRequest (c : ArbClass) (inst req beats cycle : Nat) (s : State) : Out :=
  if requesters c ≤ req ∨ !unitFits c beats then .next s
  else if c = .hbmQueue then .next (s.requestPchan inst ⟨req, cycle, beats, 0⟩)
  else .next (s.onArb c inst (cycle - 1) (fun x => x.enqueue ⟨req, cycle, beats, 0⟩))

/-- ARBITER_DECISION: the decision that falls in this cycle. -/
def execArbiterDecision (c : ArbClass) (inst cycle : Nat) (s : State) : Out := .next (s.onInst c inst cycle id)

/-- BACKOFF_EXPIRE: a count that has reached 0; the value loaded last stays for the next loss. -/
def execBackoffExpire (c : ArbClass) (inst req cycle : Nat) (s : State) : Out :=
  .next (s.onInst c inst (cycle - 1) (fun x =>
    if x.backoffAt c req cycle = 0 then
      { x with backoff := x.backoff.set {} req { x.backoff.get {} req with value := 0, at_ := 0 } } else x))

/-- EMERGENCY_PREEMPT at a beat boundary: the running grant stands where it is (R40). The debug port and the Pace marker take
one cycle, refresh as long as R45 leaves it; a use beyond the share does not take place. DESIGN CHOICE: a grant that two
refreshes interrupt counts twice in PREEMPT_COUNT, once for each interruption (log entry 119). -/
def execEmergencyPreempt (c : ArbClass) (inst cycle : Nat) (s : State) : Out :=
  let s := s.onInst c inst (cycle - 1) id
  let x := s.arbOf c inst
  if x.emergencyRoom c cycle = 0 then .next s
  else
    let s := if x.running.any (fun g => decide (g.since < cycle)) then { s with arb := s.arb.countPreempt (dieOf c inst) c } else s
    .next { s with arb.insts := s.arb.insts.set {} (instKey c inst) (x.preempt c cycle) }

/-- EMERGENCY_END: the interrupted grant resumes at its interrupted beat. -/
def execEmergencyEnd (c : ArbClass) (inst cycle : Nat) (s : State) : Out :=
  .next (s.onInst c inst (cycle - 1) (fun x => if x.emergency && decide (x.since < cycle) then x.resume cycle else x))

/-- ARBITER_CONTROL_WRITE (R39, R42). A write with a FAIR_N outside 4 to 64 sets N_REJECT, also when it clears the bit. -/
def execArbiterControlWrite (die : Fin 12) (c : ArbClass) (viaVf : Bool) (value : BitVec 32) (cycle : Nat) (s : State) : Out :=
  let n := fld value.toNat 0 8
  let k := classKey die.val c
  if viaVf ∨ !carries die.val c then .next s
  else
    let s := s.settleClass die.val c cycle
    let s := if bit value.toNat 31 then { s with arb.reject := s.arb.reject.set false k false } else s
    if 4 ≤ n ∧ n ≤ 64 then .next { s with arb.fairN := s.arb.fairN.put k ((s.arb.fairReg die.val c).write c n cycle) }
    else .next { s with arb.reject := s.arb.reject.set false k true }

end Sys2Proof.Machine
end

