-- ==== Sys2Proof/Machine/Cask.lean ====
section
/-!
DEFINITION. The controller of the Cask (R482 to R488): it commits the records of its posting queue in order, each with the
hash of the one before, and posts what the coalescing table gathered.
-/

namespace Sys2Proof.Machine

/-- The first 16 bytes of SHA3-256 of the record before; 0 in the first record. -/
def Cask.chainHash (c : Cask) : Nat := if c.nextSeq = 0 then 0 else c.headHash % 2 ^ 128

/-- A posted record as the controller writes it (R486): SEQ, FLAGS bit 0 on hold-up energy, PREV_HASH and DROPPED. -/
def State.sealRecord (s : State) (r : CaskRecord) : CaskRecord :=
  { r with seq := BitVec.ofNat 64 s.cask.nextSeq, flags := r.flags ||| (if s.power.onHoldUp then 1#8 else 0#8),
           prevHash := BitVec.ofNat 128 s.cask.chainHash, dropped := BitVec.ofNat 16 (satCount 16 s.cask.dropped) }

/-- The posting time of the last committed record of a coalesced type and source. -/
def Cask.noteTime (c : Cask) (r : CaskRecord) : List (BitVec 16 × BitVec 32 × Nat) :=
  if caskCoalesced r.type.toNat then
    c.lastPost.filter (fun x => !(x.1 == r.type && x.2.1 == r.source)) ++ [(r.type, r.source, r.time.toNat)]
  else c.lastPost

/-- A record is committed: it extends the chain at the next position. -/
def State.commitRecord (s : State) (r : CaskRecord) (rest : List CaskRecord) : State :=
  let x := s.sealRecord r
  let c := s.cask
  { s with cask := { c with records := c.records.put (c.nextSeq % caskPositions) x, nextSeq := c.nextSeq + 1, queue := rest,
                            dropped := 0, torn := false, lastPost := c.noteTime x } }

/-- CASK_COMMIT: the outcome of the read-back of the record at the front, and of its one retry (R486, R488). -/
def execCaskCommit (firstOk secondOk : Bool) (s : State) : Out :=
  match s.cask.queue with
  | [] => .next s
  | r :: rest =>
    if s.obj 0x80000 0 = 2 || s.power.dark then .next s
    else if firstOk || secondOk then .next (s.commitRecord r rest)
    else
      let c := { s.cask with torn := true, records := s.cask.records.erase (s.cask.nextSeq % caskPositions) }
      .next (({ s with cask := c } : State).setObj 0x80000 0 2)

/-- CASK_COALESCE_FLUSH: the second of a pair is over, and one record tells what it gathered (R485). -/
def execCaskCoalesceFlush (n : Nat) (s : State) : Out :=
  match s.cask.pairs[n]? with
  | none => .next s
  | some p =>
    if s.power.dark || decide (s.now < p.start + 1000000000) then .next s
    else
      let s := { s with cask.pairs := s.cask.pairs.eraseIdx n }
      .next (s.caskEnter p.type.toNat p.source.toNat p.payload 0 p.count)

end Sys2Proof.Machine
end

