-- ==== Sys2Proof/Machine/Dma.lean ====
section
/-!
DEFINITION. The DMA engine of a cluster: DMA.START (R283, R303, R304), the transfers of Table 9.10 sector by sector
(R305, R306), their faults (R307, R275, R385) and their completion.
-/

namespace Sys2Proof.Machine

/-! ### The stream descriptor, Table 9.9 -/

def smSrc (d : Nat) : Nat := fld d 448 64
def smDst (d : Nat) : Nat := fld d 384 64
def smRowBytes (d : Nat) : Nat := fld d 352 32
def smRows (d : Nat) : Nat := fld d 336 16
def smSrcPitch (d : Nat) : Nat := fld d 288 32
def smDstPitch (d : Nat) : Nat := fld d 256 32
def smMode (d : Nat) : Nat := fld d 12 4
/-- Bits of a TRANSPOSE element. -/
def smElemBits (d : Nat) : Nat := if fld d 10 2 = 3 then 4 else 8 * 2 ^ fld d 10 2
def smSrcGlobal (d : Nat) : Bool := bit d 9
def smDstGlobal (d : Nat) : Bool := bit d 8
def smCache (d : Nat) : Bool := bit d 7

/-- Columns of a TRANSPOSE source. -/
def smCols (d : Nat) : Nat := smRowBytes d * 8 / smElemBits d

/-- R304: descriptors that fault with ILLEGAL_OP. -/
def badStream (d : Nat) : Bool :=
  4 ≤ smMode d || smRows d == 0 || smRowBytes d == 0 || (smMode d != 1 && fld d 10 2 == 3)
    || (smMode d == 1 && (smRows d % 64 != 0 || smRowBytes d * 8 % (64 * smElemBits d) != 0))

def smReads (d : Nat) : Bool := smMode d != 3
def smWrites (d : Nat) : Bool := smMode d == 0 || smMode d == 1 || smMode d == 3

/-- Rows and bytes of a row at the destination. -/
def smDstShape (d : Nat) : Nat × Nat :=
  if smMode d = 1 then (smCols d, smRows d * smElemBits d / 8) else (smRows d, smRowBytes d)

/-- The first scratch offset of an area behind the scratch area, R283. -/
def areaMiss (scratch base pitch rows bytes : Nat) : Option Nat :=
  if scratch < base + (rows - 1) * pitch + bytes then some (max base (min scratch (base + (rows - 1) * pitch))) else none

/-- R283: a scratch address of a descriptor outside the scratch area. -/
def streamRange (scratch d : Nat) : Option Nat :=
  let src := if smReads d && !smSrcGlobal d then
    areaMiss scratch (smSrc d % 4194304) (smSrcPitch d) (smRows d) (smRowBytes d) else none
  let dst := if smWrites d && !smDstGlobal d then
    areaMiss scratch (smDst d % 4194304) (smDstPitch d) (smDstShape d).1 (smDstShape d).2 else none
  src.or dst

/-- Slots that a launch holds on a cluster, and the lowest free slot. -/
def Cluster.slotsOf (c : Cluster) (launch : Nat) : Nat := (c.dma.filter (fun x => x.2.launch == launch)).length
def Cluster.freeSlot (c : Cluster) : Option Nat := (List.range 256).find? (fun i => (Bank.find? c.dma i).isNone)

/-- STREAMS of the kernel of a group (R303). -/
def State.streamsOf (s : State) (g : Group) : Nat :=
  match s.launch? g.launch with
  | some l => (s.kernelOf l).elim 0 (fun k => k.streams)
  | none => 0

/-- DMA.START gA, token. -/
def execDmaStart (gid : Gid) (w : BitVec 64) (s : State) : Out :=
  let gk := gidKey gid
  let cl := clusterKeyOf gk
  runInstr 0x93 gid w [srcAOf w] (fun g t =>
    match lowest g.active with
    | none => .next t g
    | some l =>
      if !(g.acting w).getLsbD l then .next t g
      else
        let addr := (g.reg l (srcAOf w)).toNat
        let scratch := scratchBytes (t.layoutOf g.ctx)
        if addr % 64 ≠ 0 then .fault (mkFaultInfo 0x12 1 addr (maskOf [l]))
        else if scratch < addr + 64 then .fault (mkFaultInfo 0x13 addr addr (maskOf [l]))
        else
          let d := leNat (t.storeView cl g.spec addr 64)
          if badStream d then .fault (illegalOp w g)
          else match streamRange scratch d with
            | some o => .fault (mkFaultInfo 0x13 o o (maskOf [l]))
            | none =>
              let x := t.cluster cl
              match x.freeSlot with
              | none => .hold t { g with status := .dmaStall }
              | some i =>
                if t.streamsOf g ≤ x.slotsOf g.launch ∨ g.dmaTok.get 0 (tokenOf w) = 63 then
                  .hold t { g with status := .dmaStall }
                else
                  let slot : DmaSlot := { desc := BitVec.ofNat 512 d, gid := gk, token := tokenOf w, launch := g.launch,
                                          ctx := g.ctx, spec := g.spec }
                  .next (t.putCluster cl { x with dma := x.dma.put i slot })
                    { g with dmaTok := g.dmaTok.set 0 (tokenOf w) (g.dmaTok.get 0 (tokenOf w) + 1) }) s

/-! ### Sectors of a transfer -/

/-- A run of bytes within one 256-byte sector: whether it is global, its address and its length. -/
structure Piece where
  global : Bool
  addr : Nat
  n : Nat
deriving DecidableEq, Repr

/-- A run of at most 256 bytes cut where sectors meet. -/
def cutSector (global : Bool) (a n : Nat) : List Piece :=
  let l := 256 - a % 256
  if n ≤ l then [⟨global, a, n⟩] else [⟨global, a, l⟩, ⟨global, a + l, n - l⟩]

/-- One unit of progress: pieces read, pieces written, how far it takes the transfer. -/
structure Chunk where
  reads : List Piece
  writes : List Piece
  step : Nat

def scratchOr (global : Bool) (a : Nat) : Nat := if global then a % 2 ^ 64 else a % 4194304

/-- Row by row, cut where a sector of the source or the destination ends. -/
def rowChunk (d b : Nat) : Option Chunk :=
  let i := b / smRowBytes d
  let o := b % smRowBytes d
  if smRows d ≤ i then none
  else
    let src := scratchOr (smSrcGlobal d) (smSrc d + i * smSrcPitch d + o)
    let dst := scratchOr (smDstGlobal d) (smDst d + i * smDstPitch d + o)
    let n := smRowBytes d - o
    let n := if smReads d then min n (256 - src % 256) else n
    let n := if smWrites d then min n (256 - dst % 256) else n
    some { reads := if smReads d then [⟨smSrcGlobal d, src, n⟩] else [],
           writes := if smWrites d then [⟨smDstGlobal d, dst, n⟩] else [], step := n }

/-- R306: one returned row of a 64 × 64 tile. -/
def tileChunk (d b : Nat) : Option Chunk :=
  let eb := smElemBits d
  let tc := smCols d / 64
  let tile := b / 64
  if smRows d / 64 * tc ≤ tile then none
  else
    let i0 := tile / tc * 64
    let j := tile % tc * 64 + b % 64
    let dst := scratchOr (smDstGlobal d) (smDst d + j * smDstPitch d + i0 * eb / 8)
    let reads := (List.range 64).flatMap (fun e =>
      cutSector (smSrcGlobal d) (scratchOr (smSrcGlobal d) (smSrc d + (i0 + e) * smSrcPitch d + j * eb / 8)) ((eb + 7) / 8))
    some { reads := reads, writes := cutSector (smDstGlobal d) dst (8 * eb), step := 1 }

def chunkAt (d b : Nat) : Option Chunk := if smMode d = 1 then tileChunk d b else rowChunk d b

/-- What is written, from what was read: zeros, the bytes themselves, or 64 elements packed. -/
def chunkData (d b : Nat) (c : Chunk) (read : Bytes) : Bytes :=
  if smMode d = 3 then List.replicate c.step 0
  else if smMode d = 1 ∧ smElemBits d = 4 then
    let half := b % 2
    let nib := read.map (fun x => fld x.toNat (4 * half) 4)
    leBytes 32 (packFields (nib.map (fun x => (4, x))))
  else read

/-! ### Reading and writing one sector -/

/-- Why a sector faults: cause, DETAIL bits beyond those of R307, ADDR. -/
abbrev DmaFault := Nat × Option Nat × Nat × Nat

def mkDmaFault (cause acc addr : Nat) (detail : Option Nat := none) : DmaFault := (cause, detail, acc, addr)

/-- Whether a piece lies on a remote node. -/
def Piece.remote (p : Piece) : Bool := p.global && isFabric p.addr

/-- A read of one piece on this node: its bytes, or a fault. `ue`: the read is found uncorrectable. -/
def State.dmaRead (s : State) (cl : Nat) (d : DmaSlot) (p : Piece) (ue : Bool) : (Bytes ⊕ DmaFault) × State :=
  let view : Bytes → Bytes := fun bs => if d.spec then shadowOver (s.cluster cl).shadow p.global p.addr bs else bs
  if !p.global then
    if ue then (.inr (mkDmaFault 0x14 1 p.addr), s.clusterUe cl)
    else (.inl (view (s.storeRead cl p.addr p.n)), s.raiseBanks cl 4 [(p.addr, p.n)])
  else match gform p.addr with
    | .local va => match s.translate d.ctx va .load with
      | .error m => (.inr (mkDmaFault m.cause 1 p.addr), s)
      | .ok pl =>
        if s.poisoned pl then (.inr (mkDmaFault 0x15 1 p.addr), s)
        else if ue then
          (.inr (mkDmaFault 0x14 1 p.addr), match pl with
            | .fast a => s.hbmUe a 1
            | .host _ _ => s)
        else
          let units := s.cacheUnits d.ctx
          let bs := s.readPlace pl p.n
          match pl with
          | .host _ _ => (.inl (view bs), s)
          | .fast a =>
            if !smCache d.desc.toNat then (.inl (view bs), s.homeRead (dieOfCluster cl) pl)
            else
              let x := s.cluster cl
              let line := (cacheGet x.cache pl.sector).getD (memRead s.mem.hbm (a / 256 * 256) 256)
              let s := (s.homeRead (dieOfCluster cl) pl).fillCluster units cl pl.sector line
              (.inl (view ((line.drop (a % 256)).take p.n)), s)
    | .fabric _ win _ => (.inr (mkDmaFault 0x38 1 p.addr ((s.fabAddrFault d.ctx win).or (some 0))), s)
    | .reserved => (.inr (mkDmaFault 0x38 1 p.addr (some 0)), s)

/-- A write of one piece on this node. The writes of a transfer update the copies in the cluster cache, and drop those in
the L0 data cache of the group's core (R250, R253). -/
def State.dmaWrite (s : State) (cl : Nat) (d : DmaSlot) (p : Piece) (bs : Bytes) : State ⊕ DmaFault :=
  let ck := coreKeyOf d.gid
  let forget : State → Nat → State := fun t k =>
    t.putCore ck { t.core ck with l0d := cacheDrop (t.core ck).l0d k }
  if d.void then .inl s
  else if s.shadowed cl d.spec then
    let x := s.cluster cl
    let free := s.shadowFree d.ctx cl
    let miss : Option DmaFault := if !p.global then none else match gform p.addr with
      | .local va => match s.translate d.ctx va .store with
        | .error m => some (mkDmaFault m.cause 2 p.addr)
        | .ok _ => none
      | .fabric _ win _ => (s.fabAddrFault d.ctx win).map (fun x => mkDmaFault 0x38 2 p.addr (some x))
      | .reserved => some (mkDmaFault 0x38 2 p.addr (some 0))
    match miss with
    | some f => .inr f
    | none =>
      if free < shadowNeed x.shadow p.global (shadowBlocks p.addr p.n) then .inr (mkDmaFault 0x32 2 p.addr (some free))
      else .inl (s.putCluster cl { x with shadow := shadowWrite x.shadow p.global p.addr bs })
  else if !p.global then
    .inl (forget ((s.raiseBanks cl 4 [(p.addr, p.n)]).storeWrite cl p.addr bs) (storeSector p.addr))
  else match gform p.addr with
    | .local va => match s.translate d.ctx va .store with
      | .error m => .inr (mkDmaFault m.cause 2 p.addr)
      | .ok pl =>
        let t := (s.raiseLines d.ctx .store [va]).domainWrite (ctxVi d.ctx) pl bs
        let x := t.cluster cl
        .inl (forget (t.putCluster cl { x with cache := cachePatch x.cache pl.sector pl.inSector bs }) pl.sector)
    | _ => .inr (mkDmaFault 0x38 2 p.addr (some 0))

/-- The group that answers for a transfer's requests, none once it has ended. -/
def State.ownerOf (s : State) (d : DmaSlot) : Option Nat := (s.group? d.gid).map (fun _ => d.gid)

/-- The requests for a remote read piece (R368), or why it cannot be made. -/
def State.dmaRemoteRead (s : State) (cl slot idx : Nat) (d : DmaSlot) (p : Piece) : State ⊕ DmaFault :=
  match gform p.addr with
  | .fabric node win off =>
    match s.fabAddrFault d.ctx win with
    | some x => .inr (mkDmaFault 0x38 1 p.addr (some x))
    | none =>
      let lo := off / 8 * 8
      let len := (off + p.n - lo + 7) / 8
      .inl (s.fabIssue d.ctx (s.ownerOf d) 1 node win lo len [] [(idx, 0, p.n, off - lo)] (some (cl, slot)))
  | _ => .inr (mkDmaFault 0x38 1 p.addr (some 0))

/-- The requests for a remote write piece: one WRITE of whole units of 8 bytes, else a WRITE_MASK for each block. -/
def State.dmaRemoteWrite (s : State) (cl slot : Nat) (d : DmaSlot) (p : Piece) (bs : Bytes) : (State × Nat) ⊕ DmaFault :=
  match gform p.addr with
  | .fabric node win off =>
    match s.fabAddrFault d.ctx win with
    | some x => .inr (mkDmaFault 0x38 2 p.addr (some x))
    | none =>
      if off % 8 = 0 ∧ p.n % 8 = 0 then
        .inl (s.fabIssue d.ctx (s.ownerOf d) 2 node win off (p.n / 8) bs [] (some (cl, slot)), 1)
      else
        let blocks := shadowBlocks off p.n
        .inl (blocks.foldl (fun t b =>
          let r := blockRequest (blockBytes b [(off, bs)])
          t.fabIssue d.ctx (s.ownerOf d) r.1 node win (b * 64 + r.2.1) (r.2.2.length / 8) r.2.2 [] (some (cl, slot))) s,
          blocks.length)
  | _ => .inr (mkDmaFault 0x38 2 p.addr (some 0))

def State.putSlot (s : State) (cl slot : Nat) (d : DmaSlot) : State :=
  let x := s.cluster cl
  s.putCluster cl { x with dma := x.dma.put slot d }

def State.slot? (s : State) (cl slot : Nat) : Option DmaSlot := Bank.find? (s.cluster cl).dma slot

/-- R307: the transfer is suspended and its group has an asynchronous fault; of a group that has ended, it ends. -/
def State.suspendDma (s : State) (cl slot : Nat) (d : DmaSlot) (f : DmaFault) : State :=
  match s.group? d.gid with
  | none => s.endDma cl slot d
  | some g =>
    let detail := f.2.1.getD (16 + d.token * 65536 + f.2.2.1)
    let s := s.putSlot cl slot { d with suspended := true, fetched := [], writing := false }
    s.faultAsync d.gid (mkFaultInfo f.1 detail f.2.2.2 g.active true)

/-- Read the pieces of a sector one after another. -/
def State.dmaReadAll (cl : Nat) (d : DmaSlot) (ue : Bool) : List (Nat × Piece) → State → (Bytes ⊕ DmaFault) × State
  | [], s => (.inl [], s)
  | (i, p) :: r, s =>
    let x : (Bytes ⊕ DmaFault) × State := if p.remote then (.inl (d.fetched.get [] i), s) else s.dmaRead cl d p (ue && i == 0)
    match x.1 with
    | .inr f => (.inr f, x.2)
    | .inl bs =>
      let y := State.dmaReadAll cl d ue r x.2
      match y.1 with
      | .inr f => (.inr f, y.2)
      | .inl rest => (.inl (bs ++ rest), y.2)

/-- Write the pieces of a sector; the number of remote requests made. -/
def State.dmaWriteAll (cl slot : Nat) (d : DmaSlot) : List Piece → Bytes → State → (Nat ⊕ DmaFault) × State
  | [], _, s => (.inl 0, s)
  | p :: r, bs, s =>
    let one : (State × Nat) ⊕ DmaFault :=
      if p.remote && !d.void && !s.shadowed cl d.spec then s.dmaRemoteWrite cl slot d p (bs.take p.n)
      else match s.dmaWrite cl d p (bs.take p.n) with
        | .inl t => .inl (t, 0)
        | .inr f => .inr f
    match one with
    | .inr f => (.inr f, s)
    | .inl t =>
      let y := State.dmaWriteAll cl slot d r (bs.drop p.n) t.1
      match y.1 with
      | .inr f => (.inr f, y.2)
      | .inl k => (.inl (k + t.2), y.2)

/-- Ask for the remote pieces of a sector that have not arrived. -/
def State.dmaFetch (cl slot : Nat) (d : DmaSlot) : List (Nat × Piece) → State → (Nat ⊕ DmaFault) × State
  | [], s => (.inl 0, s)
  | (i, p) :: r, s =>
    match s.dmaRemoteRead cl slot i d p with
    | .inr f => (.inr f, s)
    | .inl t =>
      let y := State.dmaFetch cl slot d r t
      match y.1 with
      | .inr f => (.inr f, y.2)
      | .inl k => (.inl (k + 1), y.2)

/-- The place of a global piece on this node. -/
def State.piecePlace (s : State) (d : DmaSlot) (acc : Acc) (p : Piece) : Option Place :=
  if !p.global then none
  else match gform p.addr with
    | .local va => (s.translate d.ctx va acc).toOption
    | _ => none

/-- The sectors that a step's accesses reach, by key and virtual number, whether or not a cache holds them (R308). -/
def State.chunkDemands (s : State) (cl : Nat) (d : DmaSlot) (c : Chunk) : List (Nat × Nat) :=
  let at_ : Acc → Piece → Option (Nat × Nat) := fun acc p => (s.piecePlace d acc p).map (fun pl => (pl.sector, p.addr / 256))
  (c.reads.filterMap (at_ .load) ++
    (if d.void || s.shadowed cl d.spec then [] else c.writes.filterMap (at_ .store))).dedup

/-- The sector requests of a step: sectors of this node that it reads, but those that the cluster cache holds for a
transfer with CACHE = 1, and sectors that it writes. -/
def State.chunkReqs (s : State) (cl : Nat) (d : DmaSlot) (c : Chunk) (ce : Bool) : List SectorReq :=
  let w := d.desc.toNat
  let one (acc : Acc) (f : Piece → Place → Option SectorReq) : Piece → Option SectorReq := fun p =>
    (s.piecePlace d acc p).bind (f p)
  let rd : Piece → Place → Option SectorReq := fun p pl =>
    if smCache w && (cacheGet (s.cluster cl).cache pl.sector).isSome then none
    else some { place := pl, va := p.addr / 256, ecc := if ce then .corrected else .clean, requester := 1 }
  let wr : Piece → Place → Option SectorReq := fun p pl => 
    some { place := pl, va := p.addr / 256, fetch := decide (p.n < 256), ecc := s.latentAt pl.addr, requester := 1 }
  mergeReqs (c.reads.filterMap (one .load rd) ++
    (if d.void || s.shadowed cl d.spec then [] else c.writes.filterMap (one .store wr)))

/-- What one turn on a transfer did: it goes on at once, waits for answers, is suspended or is over. -/
inductive DmaTurn where
  | more (s : State)
  | stop (s : State)

/-- One sector of the transfer in a slot. While a sector waits for a miss-tracking entry or for the bucket, or a remote
sector for an entry, the transfer pauses (R302, R309). -/
def State.dmaTurn (s : State) (cl slot : Nat) (d : DmaSlot) (ecc : ReadEcc) : DmaTurn :=
  let w := d.desc.toNat
  match chunkAt w d.progress with
  | none => .stop (s.putSlot cl slot { d with written := true })
  | some c =>
    let next : DmaSlot := { d with progress := d.progress + c.step, fetched := [], writing := false, got := [] }
    if d.writing then .more (s.putSlot cl slot next)
    else
      let reads := c.reads.mapIdx (fun i p => (i, p))
      let missing := reads.filter (fun x => x.2.remote && (Bank.find? d.fetched x.1).isNone)
      if !missing.isEmpty then
        if s.farFull cl (missing.map (·.2.addr)) then .stop (s.startWait cl (.dma slot))
        else match State.dmaFetch cl slot d missing s with
        | (.inr f, t) => .stop (t.suspendDma cl slot d f)
        | (.inl k, t) => .stop (t.putSlot cl slot { d with pendingReq := k })
      else
        let reqs := s.chunkReqs cl d c (ecc.ce.contains d.progress)
        let q := State.obtainAll cl (ctxVi d.ctx) (.dma slot) reqs d.got (s.demandAll cl (s.chunkDemands cl d c))
        if !q.1 || s.farFull cl ((c.writes.filter (·.remote)).map (·.addr)) then
          .stop ((q.2.2.farWait cl (.dma slot) q.1).putSlot cl slot { d with got := q.2.1 })
        else match State.dmaReadAll cl d (ecc.ue == some d.progress) reads q.2.2 with
        | (.inr f, t) => .stop (t.suspendDma cl slot { d with got := [] } f)
        | (.inl bs, t) =>
          match State.dmaWriteAll cl slot d c.writes (chunkData w d.progress c bs) t with
          | (.inr f, u) => .stop (u.suspendDma cl slot { d with got := [] } f)
          | (.inl 0, u) => .more (u.putSlot cl slot next)
          | (.inl k, u) => .stop (u.putSlot cl slot { d with pendingReq := k, writing := true })

/-- Turns until the transfer waits, is suspended or is over. -/
def State.dmaRun (cl slot : Nat) (ue : ReadEcc) : Nat → State → State
  | 0, s => s
  | n + 1, s =>
    match s.slot? cl slot with
    | none => s
    | some d => match s.dmaTurn cl slot d ue with
      | .more t => State.dmaRun cl slot ue n t
      | .stop t => t

/-- R276: the DMA engine stalls with its task while the shadow area is merged. A transfer of one mode runs as far as it
can; `ecc`: the progress at which a read finds an uncorrectable error, and those at which it finds a corrected one. -/
def State.dmaGo (s : State) (mode : Nat) (cluster : Fin 1088) (slot : Fin 256) (ue : ReadEcc) : State :=
  match s.slot? cluster.val slot.val with
  | none => s
  | some d =>
    if smMode d.desc.toNat = mode ∧ !d.suspended ∧ !d.finished ∧ !d.written ∧ d.pendingReq = 0 ∧ !(d.spec && (s.cluster cluster.val).merging)
    then State.dmaRun cluster.val slot.val ue (smRows d.desc.toNat * smRowBytes d.desc.toNat + 1)
      (s.endWaits cluster.val (.dma slot.val))
    else s

def execDmaCopy (cluster : Fin 1088) (slot : Fin 256) (ue : ReadEcc) (s : State) : Out := .next (s.dmaGo 0 cluster slot ue)

def execTranspose (cluster : Fin 1088) (slot : Fin 256) (ue : ReadEcc) (s : State) : Out :=
  .next (s.dmaGo 1 cluster slot ue)

def execPrefetch (cluster : Fin 1088) (slot : Fin 256) (ue : ReadEcc) (s : State) : Out :=
  .next (s.dmaGo 2 cluster slot ue)

def execZero (cluster : Fin 1088) (slot : Fin 256) (s : State) : Out := .next (s.dmaGo 3 cluster slot {})

/-- R305: every write is performed: the slot is free and the token counter falls. -/
def execDmaTransferComplete (cluster : Fin 1088) (slot : Fin 256) (s : State) : Out :=
  match s.slot? cluster.val slot.val with
  | some d => .next (if d.written ∧ !d.finished then s.endDma cluster.val slot.val d else s)
  | none => .next s

end Sys2Proof.Machine
end

