-- ==== Sys2Proof/Machine/Fabric.lean ====
section
/-!
DEFINITION. Packets and windows of the fabric: the requests that arrive and are checked and performed (R362 to R364, R368,
R369, R376), the answers that come back (R380, R383 to R385), the egress (R378), and region windows with their keys
(R360, R361, R364).
-/

namespace Sys2Proof.Machine

/-! ### Requests at their destination -/

/-- Window and offset of a request. -/
def Packet1.window (p : Packet) : Nat := fld p.offset.toNat 36 12
def Packet1.offset (p : Packet) : Nat := fld p.offset.toNat 0 36

/-- Answer a request with a refusal. -/
def State.refuseWith (s : State) (p : Packet) (type status : Nat) (extra : Nat := 0) : State :=
  (s.refuse p status).respond p type status p.seq [] extra

/-- A packet for this node that came by the loop of IOD0 (R358) is on its way no more. -/
def State.landed (s : State) (p : Packet) : State := { s with fab.sent := s.fab.sent.erase p }

/-- A request reaches its destination, which the fabric carries it to in FABRIC_STATE 2 and 3 only (R359). -/
def State.reaches (s : State) (p : Packet) (fresh : State → State) : State :=
  if p.dst.toNat ≠ s.node ∨ !s.carriesRequests then s else (s.landed p).arrive p fresh

/-- A request for this node that passes the checks of R376 and R362 goes on; another is refused. -/
def State.atHome (s : State) (p : Packet) (type n : Nat) (perform : Window → State → State) : State :=
  s.reaches p (fun t =>
    let st := t.fabCheck p n
    match t.fab.windows.find? (Packet1.window p) with
    | some x => if st ≠ 0 then t.refuseWith p type st else perform x t
    | none => t.refuseWith p type st)

/-- A remote node's access reads its sector. The requester that the record of an error names is not given for it. -/
def State.remoteFetch (s : State) (pl : Place) (ecc : EccResult) : Bool × State :=
  match ecc with
  | .uncorrectable => s.freeWord.2.homeFetch pl ecc (s.freeWord.1.toNat % 256)
  | _ => s.homeFetch pl ecc 0

/-- FAB_READ. -/
def execFabRead (p : Packet) (ecc : EccResult) (s : State) : Out :=
  let n := 8 * p.len.toNat
  .next (s.atHome p 6 n (fun x t =>
    let va := x.base + Packet1.offset p
    match t.translate x.ctx va .load with
    | .error _ => t.refuseWith p 6 6
    | .ok pl =>
      let r := t.remoteFetch pl ecc
      if r.1 then r.2.refuseWith p 6 7 else (r.2.notePerformed p).respond p 6 0 p.seq (r.2.readVirt x.ctx va n)))

/-- A write of the source of a packet enters the order of the home of its line (R379). -/
def State.raiseWrite (s : State) (p : Packet) (k va : Nat) : State :=
  match s.translate k va .store with
  | .ok pl => s.raiseEndpoint pl p.src.toNat 1
  | .error _ => s

/-- FAB_WRITE. -/
def execFabWrite (p : Packet) (s : State) : Out :=
  .next (s.atHome p 7 p.payload.length (fun x t =>
    let va := x.base + Packet1.offset p
    (((t.raiseWrite p x.ctx va).storeRange x.ctx va p.payload).notePerformed p).respond p 7 0 p.seq []))

/-- FAB_WRITE_MASK: 64 data bytes, then the mask. -/
def execFabWriteMask (p : Packet) (s : State) : Out :=
  let data := p.payload.take 64
  let mask := leNat ((p.payload.drop 64).take 8)
  let bytes := (data.mapIdx (fun i b => (i, b))).filter (fun x => bit mask x.1)
  .next (s.atHome p 7 64 (fun x t =>
    let va := x.base + Packet1.offset p
    ((bytes.foldl (fun u b => u.storeRange x.ctx (va + b.1) [b.2]) (t.raiseWrite p x.ctx va)).notePerformed p).respond p 7 0
      p.seq []))

/-! ### Atomic sets (R264, R369) -/

/-- The control word of a set. -/
structure SetCtl where
  lanes : Nat
  aop : Nat
  n : Nat
deriving DecidableEq, Repr

def setCtl (b : Bytes) : SetCtl :=
  let w := leNat (b.take 8)
  { lanes := (lanesOf (BitVec.ofNat 32 (fld w 0 32))).length, aop := fld w 32 4, n := if bit w 36 then 8 else 4 }

/-- Bytes of the whole payload of a set, and the parts that it comes in. -/
def setBytes (c : SetCtl) : Nat := 8 + c.lanes * c.n * (if c.aop = 0xA then 2 else 1)
def setParts (c : SetCtl) : Nat := (setBytes c + 255) / 256

/-- Operations of Table 8.6 that exist. -/
def setLegal (c : SetCtl) : Bool := c.aop < 0xB && !(c.aop == 1 && c.n == 8)

/-- The operations of a set one after another; the old values in ascending lane order. -/
def State.performLanes (v : Nat) (pl : Place) (n aop : Nat) : Nat → Bytes → State → Bytes × State
  | 0, _, s => ([], s)
  | k + 1, ops, s =>
    let x := leNat (ops.take n)
    let c := leNat ((ops.drop n).take n)
    let old := leNat (s.readPlace pl n)
    let t := if atomWrites aop old x then s.domainWrite v pl (leBytes n (atomNew aop (8 * n) old x c)) else s
    let y := State.performLanes v pl n aop k (ops.drop (if aop = 0xA then 2 * n else n)) t
    (leBytes n old ++ y.1, y.2)

/-- A complete set is performed at the home endpoint of its line and answered; data that are poisoned or uncorrectable
refuse it, and then an operation that does not exist (Table 11.5). -/
def State.performSet (s : State) (p : Packet) (x : Window) (body : Bytes) (ecc : EccResult) : State :=
  let c := setCtl body
  let extra := setParts c - 1
  match s.translate x.ctx (x.base + Packet1.offset p) .atomic with
  | .error _ => s.refuseWith p 8 6 extra
  | .ok (.host _ true) => s.refuseWith p 8 5 extra
  | .ok pl =>
    let f := s.remoteFetch pl ecc
    if f.1 then f.2.refuseWith p 8 7 extra
    else if !setLegal c then f.2.refuseWith p 8 9 extra
    else
      let t := (f.2.raiseEndpoint pl p.src.toNat (setUnits c.aop c.lanes)).notePerformed p
      let r := State.performLanes x.v pl c.n c.aop c.lanes (body.drop 8) t
      r.2.respond p 8 0 p.seq r.1 extra

/-- The parts kept of a set of a flow. -/
def State.keptParts (s : State) (p : Packet) : List Packet :=
  match s.fab.sources.find? p.src.toNat with
  | some x => x.parts.filter (fun q => q.cls == p.cls)
  | none => []

def State.keepParts (s : State) (p : Packet) (l : List Packet) : State :=
  match s.fab.sources.find? p.src.toNat with
  | some x =>
    let y : SourceState := { x with parts := x.parts.filter (fun q => q.cls != p.cls) ++ l }
    { s with fab.sources := s.fab.sources.put p.src.toNat y }
  | none => s

/-- Parts of a set that has been admitted through a window are still coming. -/
def State.windowBusy (s : State) (w : Nat) : Bool :=
  s.fab.sources.any (fun x => x.2.parts.any (fun q => Packet1.window q == w))

/-- R364: a window that waited for its admitted requests closes. -/
def State.settleWindow (s : State) (w : Nat) : State :=
  match s.fab.windows.find? w with
  | none => s
  | some x => match x.closing with
    | none => s
    | some r => if s.windowBusy w then s else (s.closeWindow w).finish r 0 0

/-- Perform a set whose parts have all arrived, or keep them; `p`: the part that has just arrived. -/
def State.joinSet (s : State) (x : Window) (l : List Packet) (p : Packet) (ecc : EccResult) : State :=
  match l with
  | [] => s
  | q :: _ =>
    let body := l.flatMap (·.payload)
    if setLegal (setCtl body) ∧ body.length < setBytes (setCtl body) then (s.keepParts q l).notePerformed p
    else (((s.keepParts q []).notePerformed p).performSet q x body ecc).settleWindow (Packet1.window q)

/-- FAB_ATOMIC: the checks of Table 11.5 up to PAGE at the first part, the others when the set is performed. -/
def execFabAtomic (p : Packet) (ecc : EccResult) (s : State) : Out :=
  let c := setCtl p.payload
  .next (s.reaches p (fun t =>
    let t := t.keepParts p []
    let st := t.fabCheck p c.n
    match t.fab.windows.find? (Packet1.window p) with
    | some x => if st ≠ 0 then t.refuseWith p 8 st (setParts c - 1) else t.joinSet x [p] p ecc
    | none => t.refuseWith p 8 st (setParts c - 1)))

/-- FAB_ATOMIC_CONT: one that continues no set, as its set has been refused, goes without an answer. -/
def execFabAtomicCont (p : Packet) (ecc : EccResult) (s : State) : Out :=
  .next (s.reaches p (fun t =>
    match t.keptParts p with
    | [] => t
    | q :: r =>
      match t.fab.windows.find? (Packet1.window q) with
      | some x => t.joinSet x (q :: r ++ [p]) p ecc
      | none => (t.keepParts p []).refuseWith q 8 1 (setParts (setCtl q.payload) - 1)))

/-- FAB_RESERVED_TYPE (Table 11.7): type 0 at the receiving port, the others at their destination. -/
def execFabReservedType (p : Packet) (s : State) : Out :=
  if p.type = 0 then .next (s.bump 0x50113 0)
  else if p.type.toNat < 0x0A then .next s
  else .next (s.reaches p (fun t => (t.bump 0x50113 0).refuseWith p 7 9))

/-! ### Answers at the source -/

/-- R378: credits come back. -/
def State.takeCredits (s : State) (p : Packet) (withdrawn : Nat) : State :=
  let n := fld p.key.toNat 8 8 - withdrawn
  { s with fab.credits := s.fab.credits.set 1 p.src.toNat (min 64 (s.fab.credits.get 1 p.src.toNat + n)) }

/-- The global address that a request names first, and the lanes that it serves (Table 7.8). -/
def Outstanding1.addr (o : Outstanding) : Nat :=
  let a := o.pkt.offset.toNat
  let a := if o.dma.isSome ∨ o.type = 4 then a else a / 64 * 64 + ((o.dest.head?).map (fun d => d.2.2.2)).getD 0
  2 ^ 63 + o.dst.toNat * 2 ^ 48 + a

/-- Cause and DETAIL of Table 11.11 for a status. -/
def statusFault (o : Outstanding) (status : Nat) : Nat × Nat :=
  if status = 8 ∨ 0x0A ≤ status then (0x3A, o.dst.toNat * 65536) else (0x39, status + o.dst.toNat * 65536)

/-- R383: the group of a request that failed; its event, when it has ended. -/
def State.failRequest (s : State) (o : Outstanding) (cause detail : Nat) : State :=
  match o.gid.bind (fun gk => (s.group? gk).map (fun g => (gk, g))) with
  | none => s.wideEvent o.ctx 6 o.cookie.toNat cause 0xFFFFFFFF detail (Outstanding1.addr o)
  | some (gk, g) =>
    let zero : Group → Nat × Nat × Nat × Nat → Group := fun a d =>
      if d.2.1 < 256 then a.setWords d.1 d.2.1 (List.replicate ((d.2.2.1 + 3) / 4) 0) else a
    let g' := if o.type = 1 then o.dest.foldl zero g else g
    let lanes := if o.dest.isEmpty then g.active else maskOf (o.dest.map (·.1))
    (s.putGroup gk g').faultAsync gk (mkFaultInfo cause detail (Outstanding1.addr o) lanes true)

/-- The global address of a byte of a remote read, `o` bytes into its response. -/
def Outstanding1.byteAddr (o : Outstanding) (b : Nat) : Nat := 2 ^ 63 + o.dst.toNat * 2 ^ 48 + o.pkt.offset.toNat + b

/-- A request of a transfer is answered: data kept, as the shadow entries of a speculative task show them (R273), or the
transfer suspended (R385). One whose group has ended posts its failure and ends (R242, R383). -/
def State.answerDma (s : State) (o : Outstanding) (cl slot : Nat) (fault : Option (Nat × Nat)) (data : Bytes) : State :=
  match s.slot? cl slot with
  | none => s
  | some d =>
    let d := { d with pendingReq := d.pendingReq - 1 }
    if d.suspended then s.putSlot cl slot d
    else match fault with
      | some f =>
        let s := if (s.group? d.gid).isNone then s.failRequest { o with gid := none } f.1 f.2 else s
        s.suspendDma cl slot d (f.1, none, if o.type = 1 then 1 else 2, Outstanding1.addr o)
      | none =>
        let seen : Nat → Bytes → Bytes := fun b bs =>
          if d.spec then shadowOver (s.cluster cl).shadow true (Outstanding1.byteAddr o b) bs else bs
        s.putSlot cl slot (o.dest.foldl (fun d x =>
          { d with fetched := d.fetched.put x.1 (seen x.2.2.2 ((data.drop x.2.2.2).take x.2.2.1)) }) d)

/-- Loaded bytes, or the old values of a set, enter the registers of their lanes. Register 512 + p names predicate p, 1,021
the lock words that a REL.G has read. `seen`: the bytes as the task sees them (R273). -/
def fillLane (w : Instr64) (seen : Nat → Bytes → Bytes) (data : Bytes) (g : Group) (d : Nat × Nat × Nat × Nat) : Group :=
  let bs := seen d.2.2.2 ((data.drop d.2.2.2).take d.2.2.1)
  if d.2.1 = 1021 then { g with locks := g.locks.map (fun l => l ++ [(d.1, leNat bs)]) }
  else if d.2.1 < 256 then
    g.setWords d.1 d.2.1 (loadedWords (Config.loadSigned (modOf w) (w.extractLsb' 20 7)) d.2.2.1 bs)
  else if d.2.1 < 520 then g.setPredLanes (1#32 <<< d.1) (d.2.1 - 512) (if leNat bs = 0 then 1#32 <<< d.1 else 0)
  else g

/-- An acquire that names a remote address takes place when its response arrives: a remote ATOM with acquire order, or ACQ.G
(R237, R262). -/
def acquiresAt (w : Instr64) : Bool := opcOf w == 0x80 || (opcOf w == 0x73 && bit (srcCOf w) 5)

/-- A group whose last remote read or set has been answered goes on; an acquire empties its caches once more (R262). -/
def State.settleRemote (s : State) (gk : Nat) : State :=
  match s.group? gk with
  | none => s
  | some g =>
    let left := (s.fab.outstanding ++ s.fab.waiting).any (fun o => o.gid == some gk && o.dma.isNone && (o.type == 1 || o.type == 4))
    if g.status = .remote ∧ !left then
      (if acquiresAt g.instr then s.fenceCaches (coreKeyOf gk) else s).putGroup gk { g with status := .running, atoms := [] }
    else s

/-- Whether the old values of a set show that an ATOM of the group has changed memory (R240). -/
def Group.changedBy (g : Group) (o : Outstanding) (data : Bytes) : Bool :=
  let aop := fld (srcCOf g.instr) 0 4
  o.type == 4 && o.dest.any (fun d => g.atoms.any (fun a =>
    let old := leNat ((data.drop d.2.2.2).take d.2.2.1)
    a.1 == d.1 && atomWrites aop old a.2.1 && atomNew aop (8 * d.2.2.1) old a.2.1 a.2.2 != old))

/-- What an answer does for its request, which is no longer outstanding; the first part speaks for a whole set, a later part
for a failure of its own (R383). `fault`: cause and DETAIL of a failure. -/
def State.answer (s : State) (o : Outstanding) (fault : Option (Nat × Nat)) (data : Bytes) : State :=
  if o.type = 5 ∧ fault.isNone then s
  else match o.dma with
  | some (cl, slot) => s.answerDma o cl slot fault data
  | none =>
    let t := match fault with
      | some f => s.failRequest o f.1 f.2
      | none => match o.gid.bind (fun gk => (s.group? gk).map (fun g => (gk, g))) with
        | none => s
        | some (gk, g) =>
          let seen : Nat → Bytes → Bytes := fun b bs => if o.type = 1 then s.overlay gk g true (Outstanding1.byteAddr o b) bs else bs
          let h := o.dest.foldl (fillLane g.instr seen data) g
          s.putGroup gk (if g.changedBy o data then h.disarm else h)
    (o.gid.elim t t.settleRemote)

/-- The outstanding request of some types that an answer names. -/
def State.outstandingOf (s : State) (dst : BitVec 14) (cls : BitVec 2) (seq : BitVec 16) (types : List (BitVec 8)) :
    Option Outstanding :=
  s.fab.outstanding.find? (fun o => o.dst == dst && o.cls == cls && o.seq == seq && types.contains o.type)

/-- The requests that the answer of a destination to a request leaves behind: itself and, of a set, its continuations. -/
def State.answeredBy (s : State) (o : Outstanding) (x : Outstanding) : Bool :=
  let cont : Nat → Bool := fun i => s.fab.outstanding.any (fun y => y.dst == o.dst && y.cls == o.cls && y.type == 5
    && y.seq == o.seq + BitVec.ofNat 16 i)
  let seqs : List (BitVec 16) := if o.type ≠ 4 then [] else if !cont 1 then [] else if !cont 2 then [o.seq + 1] else [o.seq + 1, o.seq + 2]
  x.dst == o.dst && x.cls == o.cls && (x.seq == o.seq || (x.type == 5 && seqs.contains x.seq))

/-- A request is no longer outstanding, with its continuations unless a router answered for it alone (R380); continuations
that have not left are withdrawn. The number withdrawn comes too. -/
def State.acknowledged (s : State) (o : Outstanding) (alone : Bool) : Nat × State :=
  let gone : Outstanding → Bool := fun x => if alone then x == o else s.answeredBy o x
  let late : Outstanding → Bool := fun x => o.type == 4 && x.dst == o.dst && x.cls == o.cls && x.type == 5 && x.gid == o.gid
    && x.pkt.offset == o.pkt.offset
  ((s.fab.waiting.filter late).length,
    { s with fab.outstanding := s.fab.outstanding.filter (fun x => !gone x), fab.waiting := s.fab.waiting.filter (fun x => !late x) })

/-- Status UNREACHABLE, or one that is handled as it (Table 11.5). -/
def unreachableStatus (status : Nat) : Bool := status == 8 || decide (0x0A ≤ status)

/-- A response to one request. -/
def State.answerOne (s : State) (p : Packet) (types : List (BitVec 8)) : State :=
  let s := s.landed p
  match s.outstandingOf p.src p.cls p.seq types with
  | none => s.bump 0x50111 0
  | some o =>
    let status := fld p.key.toNat 0 8
    let r := s.acknowledged o (unreachableStatus status)
    (r.2.takeCredits p (if unreachableStatus status then 0 else r.1)).answer o
      (if status = 0 then none else some (statusFault o status)) p.payload

/-- FAB_READ_RESP. -/
def execFabReadResp (p : Packet) (s : State) : Out :=
  .next (if p.dst.toNat = s.node then s.answerOne p [1] else s)

/-- FAB_ATOMIC_RESP. -/
def execFabAtomicResp (p : Packet) (s : State) : Out :=
  .next (if p.dst.toNat = s.node then s.answerOne p [4, 5] else s)

/-- FAB_WRITE_ACK: status 0 acknowledges every request of the flow up to SEQ, a refusal its own write alone (R380). A read
or a set stays until its response brings its data. -/
def execFabWriteAck (p : Packet) (s : State) : Out :=
  if p.dst.toNat ≠ s.node then .next s
  else if fld p.key.toNat 0 8 ≠ 0 then .next (s.answerOne p [2, 3])
  else
    let s := s.landed p
    let upTo : Outstanding → Bool := fun o => o.dst == p.src && o.cls == p.cls && !serialNewer 16 o.seq.toNat p.seq.toNat
    let mine : Outstanding → Bool := fun o => upTo o && (o.type == 2 || o.type == 3)
    let l := s.fab.outstanding.filter mine
    let rest := (s.fab.outstanding.filter (fun o => !mine o)).map (fun o => if upTo o then { o with acked := true } else o)
    if s.fab.outstanding.all (fun o => !upTo o || o.acked) then .next (s.bump 0x50111 0)
    else
      let t := ({ s with fab.outstanding := rest } : State).takeCredits p 0
      .next (l.foldl (fun u o => u.answer o none []) t)

/-- FAB_TIMEOUT: 4 ms have passed since a read or set was sent. The credits of its requests are the source's again, as no
later response returns them. -/
def execFabTimeout (dst : BitVec 14) (cls : BitVec 2) (seq : BitVec 16) (s : State) : Out :=
  match s.outstandingOf dst cls seq [1, 4, 5] with
  | none => .next s
  | some o =>
    let n := (s.fab.outstanding.filter (s.answeredBy o)).length
    let t := (s.acknowledged o false).2
    let t := { t with fab.credits := t.fab.credits.set 1 dst.toNat (min 64 (t.fab.credits.get 1 dst.toNat + n)) }
    .next (t.answer o (some (0x3C, dst.toNat * 65536)) [])

/-! ### Egress (R365, R369, R378) -/

/-- A waiting request may leave next: the requests of a group leave a flow in order, and the parts of a set together. -/
def State.mayLeave (s : State) (n : Nat) (o : Outstanding) : Bool :=
  let flow : Outstanding → Bool := fun x => x.dst == o.dst && x.cls == o.cls
  let first : Nat → Outstanding → Bool := fun i x => s.fab.waiting.findIdx? (fun y => flow y && y.gid == x.gid) == some i
  let open_ := (s.fab.waiting.mapIdx (fun i x => (i, x))).any (fun y => flow y.2 && y.2.type == 5 && first y.1 y.2)
  first n o && (o.type == 5 || !open_)

/-- The fabric port over which a waiting request would leave; none for this node's own loop and without a route. -/
def State.egressPort (s : State) (o : Outstanding) : Option Nat :=
  if o.dst.toNat = s.node then none
  else (s.routeHop o.dst.toNat false none).bind (fun h => s.flowPort h.bundle o.pkt)

/-- Its requester at the egress arbiter: 8 compute dies by 4 ordering classes (Table 2.2). -/
def egressReq (o : Outstanding) : Nat := o.die * 4 + o.cls.toNat

/-- The requests that stand at the arbiter of a port: those that hold a credit and may leave next in their flow. -/
def State.egressHeads (s : State) (port : Nat) : List Head :=
  let l := s.fab.waiting.mapIdx (fun i o => (i, o))
  (l.filter (fun x => s.egressPort x.2 == some port && s.fab.credits.get 1 x.2.dst.toNat != 0 && s.mayLeave x.1 x.2)).map
    (fun x => ⟨egressReq x.2, x.2.since, frameBlocks x.2.pkt, x.2.id + 1⟩)

/-- The arbiter of a port with these requests in its queues; those that stand there no more have left them. -/
def Arb.restock (x : Arb) (l : List Head) : Arb :=
  let stays : Head → Bool := fun h => h.tag == 0 || l.any (fun y => y.tag == h.tag)
  let old := (x.heads ++ x.queued).filter stays
  let x' : Arb := { x with heads := x.heads.filter stays, queued := [] }
  let x' := (x.queued.filter stays).foldl Arb.enqueue x'
  (l.filter (fun h => !old.any (fun y => y.tag == h.tag))).foldl Arb.enqueue x'

/-- The arbiter of a port up to its next grant to one of the requests of this node, and the number of that request. -/
def State.egressGrant (s : State) (port : Nat) : Option Nat × Arb :=
  let l := s.egressHeads port
  let here : Arb → Head → Bool := fun y h => (y.heads ++ y.queued).any (fun z => z.tag == h.tag)
  let x := (s.arbOf .fabricEgress port).restock l
  let y := Arb.run s.arb .fabricEgress (dieOf .fabricEgress port) (fun y _ => l.all (here y)) x.fuel x
  ((l.find? (fun h => !here y h)).map (·.tag), y)

/-- A request without a credit for its destination waits, and its requester backs off as after a loss (R378, R37). -/
def State.egressBackoff (s : State) (o : Outstanding) : State :=
  match s.egressPort o with
  | none => s
  | some port =>
    let t := s.portBeats
    s.onArb .fabricEgress port t (fun x =>
      if x.backoffAt .fabricEgress (egressReq o) t = 0 then x.lose t (egressReq o) else x)

/-- FAB_REQUEST_EGRESS: the nanoseconds that the request waited for its credit are counted in 50.130. Of the requests that
could leave over a port, the one that its arbiter grants leaves. -/
def execFabRequestEgress (n : Nat) (waitedNs : Nat) (s : State) : Out :=
  match s.fab.waiting[n]? with
  | none => .next s
  | some o =>
    if !s.carriesRequests ∨ !s.mayLeave n o then .next s
    else if s.fab.credits.get 1 o.dst.toNat = 0 then .next (s.egressBackoff o)
    else match s.egressPort o with
      | none => .next ((s.fabLeave n o).bumpBy 0x50130 0 waitedNs)
      | some port =>
        let r := s.egressGrant port
        if r.1 ≠ some (o.id + 1) ∨ replayFrames ≤ (s.port port).replay.length then .next s
        else
          let s := { s with arb.insts := s.arb.insts.set {} (instKey .fabricEgress port) r.2 }
          .next ((s.fabLeave n o).bumpBy 0x50130 0 waitedNs)

/-! ### Windows and keys (R360, R361, R364) -/

/-- An entry of Table 11.2. -/
def keyEntryOf (b : Nat) : KeyEntry :=
  { key := BitVec.ofNat 64 (fld b 64 64), cls := BitVec.ofNat 2 (fld b 1 2), valid := bit b 0 }

/-- REGION_KEYS: 4,096 entries of 16 bytes. -/
def execRegionKeys (r : CmdRef) (s : State) : Out :=
  runCmd 0x30 r (fun c k t =>
    let a := c.arg 0 48
    if !t.inRange k a 65536 .load then t.finish r 5 0
    else
      let entry : Nat → KeyEntry := fun i => keyEntryOf (leNat (t.readVirt k (a + 16 * i) 16))
      let zero : KeyEntry := { key := 0, cls := 0, valid := false }
      let keys : Bank KeyEntry := ((List.range 4096).map (fun i => (i, entry i))).filter (fun x => x.2 ≠ zero)
      (t.onCtx k (fun x => { x with keys := keys })).finish r 0 0) s

/-- The objects that a range covers, or none when a page of it lies in no object. -/
def State.coveredObjects (s : State) (k va n : Nat) : Option (List Nat) :=
  let l := (piecesOf va n).map (fun p => (s.objectAt k p.1).map (·.1))
  if l.all (·.isSome) then some ((l.filterMap id).dedup) else none

/-- The refusal of Table 11.4, or the objects that the window covers. -/
def State.openStatus (s : State) (v k w b : Nat) : Except Nat (List Nat) :=
  let alloc := s.obj 0x50021 v
  let first := fld alloc 16 12
  let size := fld b 123 21
  let base := fld b 144 48
  if w < first ∨ first + fld alloc 0 13 ≤ w then .error 0x60
  else if (s.fab.windows.find? w).isSome then .error 0x61
  else if base % 65536 ≠ 0 ∨ size = 0 ∨ 1048576 < size then .error 0x62
  else match s.coveredObjects k base (size * 65536) with
    | none => .error 0x63
    | some l => if s.obj 0x50020 v = 0 then .error 0x64 else .ok l

/-- REGION_OPEN. -/
def execRegionOpen (r : CmdRef) (s : State) : Out :=
  runCmd 0x31 r (fun c k t =>
    let w := c.arg 0 12
    let a := c.arg 64 48
    if !t.inRange k a 32 .load then t.finish r 5 0
    else
      let b := leNat (t.readVirt k a 32)
      match t.openStatus r.v.val k w b with
      | .error e => t.finish r e 0
      | .ok objs =>
        if objs.any t.objStale then t.finish r 2 0 else
        let x : Window := { key := BitVec.ofNat 64 (fld b 192 64), base := fld b 144 48, size := fld b 123 21, ctx := k,
                            v := r.v.val, permA := bit b 3, permW := bit b 2, permR := bit b 1, objs := objs }
        let t := objs.foldl State.takeObj t
        ({ t with fab.windows := t.fab.windows.put w x } : State).finish r 0 0) s

/-- REGION_CLOSE: arriving requests are refused at once; admitted ones have been performed as they arrived, but for a set
whose parts are still coming. A window that the context has not open is an illegal sequence (R405). -/
def execRegionClose (r : CmdRef) (s : State) : Out :=
  runCmd 0x32 r (fun c k t =>
    let w := c.arg 0 12
    match t.fab.windows.find? w with
    | none => t.illegalCmd r 5
    | some x =>
      if x.ctx ≠ k ∨ !x.valid then t.illegalCmd r 5
      else if t.windowBusy w then
        ({ t with fab.windows := t.fab.windows.put w { x with valid := false, closing := some r } } : State).keepBusy r
      else (t.closeWindow w).finish r 0 0) s

end Sys2Proof.Machine
end

