-- ==== Sys2Proof/Machine/Firmware.lean ====
section
/-!
DEFINITION. What the Maltster signs and runs: attestation reports (R453), signed exports of the Cask (R489, R490), the load
and verification of a firmware image (R454 to R456), the live handover (R457, R458) and the recovery loader (R460).
-/

namespace Sys2Proof.Machine

/-- R485, Table 14.7: KEY_USE. -/
def State.noteKeyUse (s : State) (use : Nat) (nonce : BitVec 256) : State :=
  s.caskPost 0x0804 (source 0 0) (leBytes 128 (packFields [(8, use), (64, nonce.toNat)]))

/-! ### Attestation (R453, Table 13.20) -/

/-- SHA3-256 over the values of every RWG object in ascending order of group, item and index. -/
def State.guardDigest (s : State) : Nat :=
  let values := rwgObjects.flatMap (fun o => match s.objInfo o with
    | some x => (List.range (x.len.getD 1)).flatMap (fun i => leBytes x.size (s.objVal o i))
    | none => [])
  (Config.sha3 values).toNat

/-- The first 256 bytes of a report. -/
def State.reportBody (s : State) (nonce : BitVec 256) : Bytes :=
  leBytes 256 (packFields [(32, 0x41545354), (16, 1), (8, s.obj 0x00002 0), (8, s.obj 0x00005 0), (16, s.node),
    (16, s.objVal 0xA0002 0), (16, s.objVal 0xA0003 0), (16, 0), (128, s.obj 0x00003 0), (32, s.objVal 0xA0001 0),
    (32, s.obj 0xA0005 0), (256, s.objVal 0xA0004 0), (256, s.guardDigest),
    (512, packFields ((List.range 8).map (fun i => (64, s.obj 0x90004 i)))),
    (64, fld (s.objVal 0x80003 0) 0 64), (256, fld (s.objVal 0x80003 0) 64 256), (64, s.now), (64, s.pace),
    (256, nonce.toNat)])

/-- A snapshot for a signature. -/
def State.snapshot (s : State) (nonce : BitVec 256) (body : Bytes) : Signing :=
  { nonce := nonce, time := s.now, pace := BitVec.ofNat 64 s.pace, headPos := BitVec.ofNat 64 (fld (s.objVal 0x80003 0) 0 64),
    headHash := BitVec.ofNat 256 (fld (s.objVal 0x80003 0) 64 256), body := body }

/-- A write of 00.040: its status, 7 while a report is generated. -/
def State.startReport (s : State) (nonce : BitVec 256) : Nat × State :=
  if s.obj 0x00041 0 = 1 then (7, s)
  else if !s.idReady then (0, s.setObj 0x00041 0 3)
  else (0, ({ s with mgmt.attest := some (s.snapshot nonce (s.reportBody nonce)) } : State).setObj 0x00041 0 1)

/-- ATTEST_NONCE. -/
def execAttestNonce (nonce : BitVec 256) (s : State) : Out := .next (if s.recovering then s else (s.startReport nonce).2)

/-- The signature over SHA3-256 of some bytes. -/
def signature (body : Bytes) (ctx : String) : Bytes := leBytes 2420 (Config.sign (sha3Bytes body) (ascii ctx)).toNat

/-- ATTEST_REPORT_READY. -/
def execAttestReportReady (s : State) : Out :=
  match s.mgmt.attest with
  | none => .next s
  | some x =>
    let s := { s with mgmt.attest := none, mgmt.report := x.body ++ signature x.body "NALORA ATTEST" }
    .next ((s.setObj 0x00041 0 2).noteKeyUse 0 x.nonce)

/-! ### Signed export (R489, R490, Table 14.8) -/

/-- The records of the range in chain order, or none where it holds no committed record or runs past the head. -/
def State.exportRange (s : State) (first count : Nat) : Option (List CaskRecord) :=
  match s.cask.records.find? first with
  | none => none
  | some r =>
    let n := r.seq.toNat
    if s.cask.nextSeq < n + count then none
    else
      let l := (List.range count).filterMap (fun i => s.cask.records.find? ((n + i) % caskPositions))
      if l.length = count then some l else none

def State.exportHeader (s : State) (first count : Nat) (nonce : BitVec 256) : Bytes :=
  leBytes 128 (packFields [(32, 0x4341534B), (16, 1), (16, 0), (128, s.obj 0x00003 0), (64, s.pace), (64, s.now), (64, count),
    (64, first), (64, fld (s.objVal 0x80003 0) 0 64), (256, fld (s.objVal 0x80003 0) 64 256), (256, nonce.toNat)])

/-- A write of 80.020: its status, 7 while an export is generated. -/
def State.startExport (s : State) (first count : Nat) (nonce : BitVec 256) : Nat × State :=
  if s.obj 0x80022 0 = 1 then (7, s)
  else if !s.idReady ∨ count = 0 ∨ 4096 < count then (0, s.setObj 0x80022 0 3)
  else match s.exportRange first count with
    | none => (0, s.setObj 0x80022 0 3)
    | some l =>
      let body := s.exportHeader first count nonce ++ l.flatMap CaskRecord.bytes
      let c := { s.cask with export_ := some (s.snapshot nonce body), exportFirst := first, exportCount := count }
      (0, ({ s with cask := c } : State).setObj 0x80022 0 1)

/-- CASK_EXPORT_REQ. -/
def execCaskExportReq (first count : BitVec 64) (nonce : BitVec 256) (s : State) : Out :=
  .next (if s.recovering then s else (s.startExport first.toNat count.toNat nonce).2)

/-- CASK_EXPORT_READY. -/
def execCaskExportReady (s : State) : Out :=
  match s.cask.export_ with
  | none => .next s
  | some x =>
    let s := { s with cask.export_ := none, cask.exported := x.body ++ signature x.body "NALORA CASK" }
    .next ((s.setObj 0x80022 0 2).noteKeyUse 1 x.nonce)

/-! ### Firmware load (R455, R456) -/

/-- A0.000 changes: NOTICE code 4 (R435). -/
def State.setFwState (s : State) (v : Nat) : State :=
  if s.obj 0xA0000 0 = v then s else (s.setObj 0xA0000 0 v).notice 4 0xA0000

/-- ACTIVE_SLOT, A0.006. -/
def State.activeSlot (s : State) : Nat := s.obj 0xA0006 0

/-- Bytes of A0.010. -/
def imageLimit : Nat := 33554432

/-- A0.010 takes a segment at this moment (R456): a first one starts a load, the others come from its owner at ascending
offsets; none is taken while verification or a handover runs. -/
def State.loadAccepts (s : State) (requester : BitVec 16) (offset : Nat) : Bool :=
  let st := s.obj 0xA0011 0
  if s.obj 0xA0000 0 = 1 ∨ st = 2 then false
  else if st = 1 then requester == s.mgmt.fw.loadOwner && decide (s.mgmt.fw.loadNext ≤ offset) && offset != 0
  else offset == 0

/-- An erased slot takes data at ascending offsets. -/
def writeSlot (b : Bytes) (offset : Nat) (data : Bytes) : Bytes := imageBytes b 0 offset ++ data

/-- The inactive slot, which a load is written into (R458). -/
def State.loadSlot (s : State) : Nat := 1 - s.activeSlot

/-- A segment that A0.010 takes; the first one erases the slot, the last one starts verification. -/
def State.takeSegment (s : State) (requester : BitVec 16) (offset : Nat) (data : Bytes) (last : Bool) : State :=
  let fresh : Bool := s.obj 0xA0011 0 != 1
  let old := if fresh then [] else s.mgmt.fw.slot s.loadSlot
  let fw := { s.mgmt.fw.putSlot s.loadSlot (writeSlot old offset data) with
    loadOwner := requester, loadNext := offset + data.length, loadBytes := offset + data.length }
  let s := if fresh then ((s.setObj 0xA0012 0 0).setObj 0xA0013 0 0).setObj 0xA0014 0 0 else s
  ({ s with mgmt.fw := fw } : State).setObj 0xA0011 0 (if last then 2 else 1)

/-- A segment written to A0.010: its status. -/
def State.loadSegment (s : State) (requester : BitVec 16) (offset : Nat) (data : Bytes) (last : Bool) : Nat × State :=
  if !s.loadAccepts requester offset then (6, s)
  else if imageLimit < offset + data.length then (4, s)
  else (0, s.takeSegment requester offset data last)

/-- FW_LOAD. -/
def execFwLoad (requester : BitVec 16) (offset : Nat) (data : Bytes) (last : Bool) (s : State) : Out :=
  .next (s.loadSegment requester offset data last).2

/-- What a slot reads when some of its bytes read otherwise than they were written. -/
def readSlot (b : Bytes) (errs : FlashErrors) : Bytes := errs.foldl (fun (x : Bytes) e => x.set e.1 e.2) b

/-- The recovery loader has a valid image: both slots take it, and the module restarts (R460). -/
def State.recovered (s : State) (b : Bytes) : State :=
  let fw : Firmware := { s.mgmt.fw with slotA := b, slotB := b }
  let s := ({ s with mgmt.fw := fw } : State).keepAll [(0xA0006, 0, 0), (0xA0023, 0, s.obj 0xA0023 0 + 1)]
  (s.caskPost 0x0905 (source 12 0) (leBytes 128 (imageVersion b)) 2)

/-- A rejected image records its reason in A0.012 (R455). -/
def State.noteReject (s : State) (reason : Nat) : State := if reason = 0 then s else s.setObj 0xA0012 0 reason

/-- Verification of a loaded image ends. -/
def State.verified (s : State) (b : Bytes) : State :=
  let r := s.imageReason b
  if r ≠ 0 then (s.setObj 0xA0011 0 4).setObj 0xA0012 0 r
  else ((s.setObj 0xA0011 0 3).setObj 0xA0013 0 (imageVersion b)).setObj 0xA0014 0 (imageSvn b)

/-- FW_LOAD_ABANDON: nothing has come for 60 s. -/
def execFwLoadAbandon (s : State) : Out := .next (if s.obj 0xA0011 0 = 1 then s.setObj 0xA0011 0 0 else s)

/-! ### Live handover (R457, R458) -/

/-- The staged image: the one in the inactive slot. -/
def State.staged (s : State) : Bytes := s.mgmt.fw.slot s.loadSlot

/-- The handover to the staged image is accepted. -/
def State.startHandover (s : State) (commitSvn : Bool) : State :=
  let old := s.objVal 0xA0001 0
  let s := { s with mgmt.fw := { s.mgmt.fw with commitSvn := commitSvn, newStarted := false, switched := [] } }
  (s.setFwState 1).caskPost 0x0901 (source 12 0)
    (leBytes 128 (packFields [(32, old), (32, imageVersion s.staged), (16, imageSvn s.staged)]))

def State.inHandover (s : State) : Bool := s.obj 0xA0000 0 == 1

/-- An image takes over in the other code bank: for 50 ms requests wait in the queue (Table 13.23). -/
def Firmware.takeOver (f : Firmware) (now : Nat) : Firmware := { f with second := !f.second, quietUntil := now + 50000000 }

/-- HANDOVER_NEW_IMAGE_START: the staged image is read into the idle code bank and checked again; a valid one starts, once
the request in progress is finished. One that the second check rejects does not start, and FW_REVERT ends the handover
(log entry 131). -/
def execHandoverNewImageStart (s : State) : Out :=
  if s.inHandover && !s.mgmt.fw.newStarted && s.mgmt.journal.isNone then
    let fw := s.mgmt.fw.putBank (!s.mgmt.fw.second) s.staged
    let r := s.imageReason s.staged
    .next (if r = 0 then { s with mgmt.fw := { fw.takeOver s.now with newStarted := true } }
      else ({ s with mgmt.fw := fw } : State).noteReject r)
  else .next s

/-- MICROCODE_SWITCH: a unit runs the new image's microcode; after a failed handover, the old one's again. -/
def execMicrocodeSwitch (u : McUnit) (s : State) : Out :=
  let l := s.mgmt.fw.switched
  if s.inHandover then
    .next (if s.mgmt.fw.newStarted && !l.contains u then { s with mgmt.fw.switched := l ++ [u] } else s)
  else .next { s with mgmt.fw.switched := l.filter (· ≠ u) }

/-- HANDOVER_SELF_CHECK: the self-check passes once every unit has switched. -/
def execHandoverSelfCheck (s : State) : Out :=
  if s.inHandover && s.mgmt.fw.newStarted && s.mgmt.fw.switched.length == 4 then
    let fw := s.mgmt.fw
    let svn := if fw.commitSvn then imageSvn fw.running else s.obj 0xA0003 0
    let s := { s with mgmt.fw := { fw with newStarted := false, switched := [] } }
    let s := s.keepAll [(0xA0006, 0, 1 - s.activeSlot), (0xA0003, 0, svn), (0xA0021, 0, s.obj 0xA0021 0 + 1)]
    .next ((s.setFwState 0).caskPost 0x0902 (source 12 0)
      (leBytes 128 (packFields [(32, imageVersion fw.running), (8, s.activeSlot), (16, svn)])))
  else .next s

/-- FW_REVERT: the self-check has failed; the old image in the other code bank takes over again, and the microcode of the
units that had switched goes back by MICROCODE_SWITCH. -/
def execFwRevert (s : State) : Out :=
  if s.inHandover then
    let failed := imageVersion s.staged
    let fw := if s.mgmt.fw.newStarted then s.mgmt.fw.takeOver s.now else s.mgmt.fw
    let s := { s with mgmt.fw := { fw with newStarted := false } }
    let s := ((s.setKept 0xA0022 0 (s.obj 0xA0022 0 + 1)).setObj 0xA0011 0 4).setObj 0xA0012 0 7
    .next ((s.setFwState 2).caskPost 0x0903 (source 12 0) (leBytes 128 failed))
  else .next s

/-- RECOVERY_NOTICE: to 0xFFFF, once per second while the loader waits. -/
def execRecoveryNotice (s : State) : Out := .next (if s.recovering then s.noticeTo 0xFFFF 5 0 else s)

end Sys2Proof.Machine
end

