-- ==== Sys2Proof/Machine/HostPort.lean ====
section
/-!
DEFINITION. What a host writes and reads through BAR0 and CXL.mem: timelines (R412), head doorbells (R415), mailboxes and
doorbells (R416 to R420), and requests to device memory (R387, R388, R294).
-/

namespace Sys2Proof.Machine

/-! ### Timelines and head doorbells -/

/-- TIMELINE_SIGNAL (R392, R412). -/
def execTimelineSignal (v : Fin 64) (t : BitVec 16) (value : BitVec 64) (bytes : Nat) (s : State) : Out :=
  if !s.hasVi v.val || !s.barOpen || (s.host.timelines.find? (tlKey v.val t.toNat)).isNone then .next s
  else if bytes < 8 then .next (s.illegal v.val 0 noQueue 0 6)
  else .next (s.signalTl v.val t.toNat value.toNat)

/-- R415: the head count of a doorbell write, as the ring's new head, if it is acceptable. -/
def Ring.newHead (r : Ring) (value : BitVec 64) : Option Nat :=
  let d := (value.setWidth 32 - BitVec.ofNat 32 r.head).toNat
  if d ≤ r.written - r.head then some (r.head + d) else none

/-- A head doorbell on a ring: the new ring and whether its vector is raised at once; none for an illegal write. -/
def Ring.doorbell (r : Ring) (value : BitVec 64) (bytes : Nat) : Option (Ring × Bool) :=
  if bytes < 8 then none
  else match r.newHead value with
    | none => none
    | some h =>
      let arm := value.getLsbD 32
      let more := h < r.written
      some ({ r with head := h, armed := if arm then !more else r.armed }, arm && more)

/-- The reason of an ignored head doorbell (R405): 6 when R392 rejects its width, 5 when R415 rejects its count. -/
def doorbellReason (bytes : Nat) : Nat := if bytes < 8 then 6 else 5

/-- A head doorbell of a ring of a context. -/
def State.headDoorbell (s : State) (v ctx : Nat) (value : BitVec 64) (bytes : Nat) (sel : Ctx → Ring)
    (upd : Ctx → Ring → Ctx) : State :=
  if !s.barOpen then s else
  match s.ctx? (ctxKey v ctx) with
  | none => s
  | some c =>
    match (sel c).doorbell value bytes with
    | none => s.illegal v 0 noQueue 0 (doorbellReason bytes)
    | some (r, raise) =>
      let s := s.putCtx (ctxKey v ctx) (upd c r)
      if raise then s.msi v c.vector else s

/-- Space in an event ring ends the stop of its queues. -/
def State.endStop (s : State) (k : Nat) : State :=
  s.onCtx k (fun c => if c.evt.full then c else { c with evtStopped := false })

/-- EVENT_RING_HEAD_DOORBELL; number 4,096 is the admin event ring. -/
def execEventRingHeadDoorbell (v : Fin 64) (ctx : Fin 4097) (value : BitVec 64) (bytes : Nat) (s : State) : Out :=
  if !s.hasVi v.val || !s.barOpen then .next s
  else if ctx.val = 4096 then
    match (s.host.adminEvent.get {} v.val).doorbell value bytes with
    | none => .next (s.illegal v.val 0 noQueue 0 (doorbellReason bytes))
    | some (r, raise) =>
      let s := { s with host.adminEvent := s.host.adminEvent.put v.val r }
      let s := if raise then s.msi v.val (s.host.adminVector.get 0 v.val) else s
      .next (State.drainAdmin (s.host.adminHeld.get [] v.val).length v.val s)
  else
    let k := ctxKey v.val ctx.val
    let s := s.headDoorbell v.val ctx.val value bytes (·.evt) (fun c r => { c with evt := r })
    let n := (s.ctx? k).elim 0 (fun c => c.heldEvents.length)
    .next ((State.drainEvents n k s).endStop k)

/-- FAULT_RING_HEAD_DOORBELL. -/
def execFaultRingHeadDoorbell (v : Fin 64) (ctx : Fin 4096) (value : BitVec 64) (bytes : Nat) (s : State) : Out :=
  if !s.hasVi v.val then .next s
  else
    let k := ctxKey v.val ctx.val
    let s := s.headDoorbell v.val ctx.val value bytes (·.flt) (fun c r => { c with flt := r })
    let n := (s.ctx? k).elim 0 (fun c => c.faultWait.length)
    .next (State.drainFaults n k s)

/-- NOTICE_RING_HEAD_DOORBELL. -/
def execNoticeRingHeadDoorbell (v : Fin 64) (ctx : Fin 4096) (value : BitVec 64) (bytes : Nat) (s : State) : Out :=
  if !s.hasVi v.val then .next s
  else .next (s.headDoorbell v.val ctx.val value bytes (·.ntc) (fun c r => { c with ntc := r }))

/-! ### Mailboxes -/

def State.mailQueue (s : State) (ch dir : Nat) : List (BitVec 32 × BitVec 8) := s.host.mail.get [] (2 * ch + dir)

def State.putMail (s : State) (ch dir : Nat) (l : List (BitVec 32 × BitVec 8)) : State :=
  { s with host.mail := s.host.mail.set [] (2 * ch + dir) l }

def insertPair (a : Nat × Nat) (l : List (Nat × Nat)) : List (Nat × Nat) := if l.contains a then l else l ++ [a]

/-- Whether what a master writes or reads on a channel reaches it: the Maltster always, a function through BAR0. -/
def State.mailReaches (s : State) (master : Nat) : Bool := master == 0x40 || s.barOpen

/-- A dropped post: counted, and TX_OVERFLOW of its master set. -/
def State.dropPost (s : State) (master ch : Nat) : State :=
  ({ s with host.txOverflow := insertPair (ch, master) s.host.txOverflow } : State).bump 0x60110 ch

/-- TX_DATA (R417, R419, R420). -/
def execTxData (master : BitVec 8) (ch : Fin 256) (word : BitVec 32) (s : State) : Out :=
  if !s.mailReaches master.toNat then .next s else
  match s.mailPosts master.toNat ch.val with
  | none => .next (s.dropPost master.toNat ch.val)
  | some d =>
    let l := s.mailQueue ch.val d
    if 16 ≤ l.length then .next (s.dropPost master.toNat ch.val)
    else .next (s.putMail ch.val d (l ++ [(word, master)]))

/-- A wake event at a reader: the Maltster's domain runs; a function's pending bit is set and its first vector raised. -/
def State.wake (s : State) (reader ch : Nat) : State :=
  if reader = 0x40 then { s with host.maltsterAwake := true }
  else if reader < s.viEnabled then
    if s.host.mailPending.contains (reader, ch) then s
    else
      let s := { s with host.mailPending := s.host.mailPending ++ [(reader, ch)] }
      if fld (s.obj 0x60012 reader) 0 12 = 0 then s else s.msi reader 0
  else s

/-- DOORBELL (R417, R419, R420). -/
def execDoorbell (master : BitVec 8) (ch : Fin 256) (value : BitVec 32) (s : State) : Out :=
  if !value.getLsbD 0 || !s.mailReaches master.toNat then .next s
  else match s.mailPosts master.toNat ch.val with
    | none => .next (s.bump 0x60110 ch.val)
    | some d => .next (s.wake (s.mailEnd ch.val (d == 0)) ch.val)

/-! ### What BAR0 reads (R392) -/

/-- The status register of a mailbox channel as a master sees it (Table 12.17). -/
def State.mailStatus (s : State) (master ch : Nat) : Nat :=
  let rx := ((s.mailReads master ch).elim [] (s.mailQueue ch))
  let tx := ((s.mailPosts master ch).elim [] (s.mailQueue ch))
  packFields [(5, tx.length), (3, 0), (5, rx.length), (3, 0), (1, if s.host.txOverflow.contains (ch, master) then 1 else 0),
    (1, if s.host.rxUnderflow.contains (ch, master) then 1 else 0), (1, if (s.mailPosts master ch).isNone then 1 else 0), (5, 0),
    (8, (rx.head?.map (fun x => x.2.toNat)).getD 0xFF)]

/-- Word `i` of the information page. DESIGN CHOICE: its fields lie at multiples of 8 in the order of Table 12.3 (log entry 128). -/
def State.infoWord (s : State) (v i : Nat) : Nat :=
  match i with
  | 0 => 8 * ((List.range 128).filter (bit (s.obj 0x60010 v))).length
  | 1 => s.obj 0x60011 v
  | 2 => s.obj 0x60012 v
  | 3 => s.obj 0x60013 v
  | 4 => s.obj 0x60014 v
  | 5 => s.obj 0x60015 v
  | 6 => v
  | 7 => s.obj 0x00002 0
  | _ => 0

/-- Word `i` of the admin block: the ring's host address, its size code and its tail; the event ring's host address, its size
code, its vector and its head (log entry 128). -/
def State.adminWord (s : State) (v i : Nat) : Nat :=
  let ring := s.host.adminRing.get {} v
  let evt := s.host.adminEvent.get {} v
  match i with
  | 0 => ring.base
  | 1 => ring.size
  | 4 => ((s.queueAt v adminQ).map (fun q => q.tail.toNat)).getD 0
  | 5 => evt.base
  | 6 => (evt.size / 256).log2
  | 7 => s.host.adminVector.get 0 v
  | 8 => evt.head
  | _ => 0

/-- What a read of 8 bytes at an offset of the BAR0 of a function returns, where the read has no effect of its own (RX_DATA has
a command); 0 at an unused offset and from a doorbell. The MSI-X table and its pending bits are as PCIe has them, which the
spec does not give: a free value. -/
def State.barRead (s : State) (v o : Nat) : Nat :=
  if !s.hasVi v || !s.barOpen || o % 8 ≠ 0 then 0
  else if o < 0x1000 then s.infoWord v (o / 8)
  else if o < 0x2000 then s.adminWord v ((o - 0x1000) / 8)
  else if o < 0x80000 then 0
  else if o < 0x100000 then ((s.host.timelines.find? (tlKey v ((o - 0x80000) / 8))).map (fun t => t.value.toNat)).getD 0
  else if o < 0x1000000 then 0
  else if o < 0x1004000 then (if o % 64 = 0x10 then s.mailStatus v ((o - 0x1000000) / 64) else 0)
  else if o < 0x1004020 then
    ((List.range 64).filter (fun i => s.host.mailPending.contains (v, (o - 0x1004000) * 8 + i))).foldl (fun a i => a + 2 ^ i) 0
  else if 0x1800000 ≤ o ∧ o < 0x1810000 then (Config.msixWord v (o - 0x1800000)).toNat
  else 0

/-! ### CXL.mem -/

/-- The number of no virtual interface, for writes that carry none. -/
def noVi : Nat := 64

/-- CXL_MEM_REQUEST: one line of 64 bytes at an offset of the HDM range, once Memory_Active is 1 (R526), performed at the
home slice of its sector. A write reads the rest of the sector, and one with the poison indication marks the sector;
poisoned or uncorrectable data answer a read with poison. -/
def execCxlMemRequest (write : Option CxlWrite) (offset : Nat) (ecc : EccResult) (s : State) : Out :=
  let a := offset / 64 * 64
  if !s.boot.memoryActive then .next s
  else if !s.fastExists a then .next (if write.isSome then s else { s with host.cxlLast := none })
  else
    let r := s.homeFetch (.fast a) ecc 3
    match write with
    | some x =>
      let t := r.2.domainWrite noVi (.fast a) (x.data.take 64)
      .next (if x.poison then { t with mem.poison := insertNat (a / 256) t.mem.poison } else t)
    | none => .next { r.2 with host.cxlLast := if r.1 then none else some (memRead s.mem.hbm a 64) }

end Sys2Proof.Machine
end

