-- ==== Sys2Proof/Machine/Management.lean ====
section
/-!
DEFINITION. The Maltster as it serves the dictionary: requests in one queue (R422), the checks of unguarded requests (R549,
R438, R448) and of guarded writes (R445 to R447), the journal (R442 to R444), keys (R448, R449), Nalora messages on their
paths (R423, R426 to R434) and the dictionary commands of the admin queue (R429).
-/

namespace Sys2Proof.Machine

/-! ### Paths and answers -/

/-- The bit of 00.024 of a path (Table 13.1). -/
def pathIndex : Path → Nat
  | .port => 0
  | .fabric => 1
  | .mailbox => 2
  | .admin => 3

def State.pathOpen (s : State) (p : Path) : Bool := bit (s.obj 0x00024 0) (pathIndex p)

/-- A response as a message, Table 13.4. -/
def State.responseBytes (s : State) (p : Path) (r : Response) : Bytes :=
  leBytes 48 (packFields [(16, 0x4E4C), (8, 1), (8, r.kind.toNat), (8, 0), (8, 0), (16, r.dst.toNat),
    (16, if p = .fabric then s.node else s.portAddress), (16, r.seq.toNat), (8, r.status.toNat), (8, r.data.length), (32, 0)])
    ++ r.data

/-- Words that a channel has room for are posted (R427). -/
def State.pumpMail (s : State) (ch : Nat) : State :=
  match s.mailPosts 0x40 ch with
  | none => { s with mgmt.mailOut := s.mgmt.mailOut.erase ch }
  | some d =>
    let l := s.mailQueue ch d
    let w := s.mgmt.mailOut.get [] ch
    let room := 16 - l.length
    { s.putMail ch d (l ++ (w.take room).map (fun x => (x, 0x40#8))) with
      mgmt.mailOut := s.mgmt.mailOut.set [] ch (w.drop room) }

/-- The words of a message, the last one padded with zero bytes. -/
def wordsOf (bs : Bytes) : List (BitVec 32) :=
  (List.range ((bs.length + 3) / 4)).map (fun i => BitVec.ofNat 32 (leNat ((bs.drop (4 * i)).take 4)))

/-- A message on the fabric: a packet of units of 8 bytes, with the incarnation of the request echoed (R367). -/
def State.mgmtPacket (s : State) (dst : BitVec 16) (incarn : BitVec 8) (data : Bytes) : Packet :=
  { type := 9, dst := dst.setWidth 14, src := BitVec.ofNat 14 s.node, incarn := incarn, payload := padUnits data,
    len := BitVec.ofNat 6 ((data.length + 7) / 8) }

/-- A response is sent on the path of its request, and counted in 00.101; on the management port it goes to the MAC address
that the request came from. -/
def State.sendResponse (s : State) (m : NalMsg) (r : Response) : State :=
  let s := ({ s with mgmt.sent := s.mgmt.sent ++ [r] } : State).bump 0x00101 0
  match m.path with
  | .port => s.sendFrame m.frame.src (s.responseBytes .port r)
  | .fabric => s.send (s.mgmtPacket r.dst m.incarn (s.responseBytes .fabric r))
  | .mailbox =>
    let ch := m.from_.toNat % 256
    let t := { s with mgmt.mailOut := s.mgmt.mailOut.set [] ch (s.mgmt.mailOut.get [] ch ++ wordsOf (s.responseBytes .mailbox r)) }
    match t.mailPosts 0x40 ch with
    | none => t.pumpMail ch
    | some d => (t.pumpMail ch).wake (t.mailEnd ch (d == 0)) ch
  | .admin => s

/-- R433: a response is kept with SRC and SEQ, the oldest of 256 leaving, and sent. -/
def State.respondMsg (s : State) (m : NalMsg) (status : Nat) (data : Bytes) : State :=
  let r : Response := { dst := m.src, seq := m.seq, kind := 5, status := BitVec.ofNat 8 status, data := data }
  let l := s.mgmt.kept ++ [(m, r)]
  ({ s with mgmt.kept := l.drop (l.length - 256) } : State).sendResponse m r

/-- Where the data of a dictionary command lies (Table 13.3). -/
def Cmd.buffer (c : Cmd) : Nat := c.arg 64 48

/-- The answer to a request: a response, or the completion of its command with the status and the bytes moved (R429). -/
def State.answerRequest (s : State) (q : Request) (status moved : Nat) (data : Bytes) : State :=
  let s := if status = 7 then s.bump 0x00103 0 else s
  match q.cmd with
  | none => s.respondMsg q.msg status data
  | some r =>
    let s := match s.cmd? r with
      | some c => if data.isEmpty then s else s.hostWrite c.buffer data
      | none => s
    s.finish r 0 (status + 256 * (if status = 0 then moved else 0))

/-! ### Reads -/

/-- R460: the objects that the recovery loader serves reads of. -/
def loaderServes (o : Nat) : Bool :=
  (o ≤ 0x00005) || (0x00030 ≤ o && o ≤ 0x00033) || (0x80000 ≤ o && o ≤ 0x80010) || (0xA0000 ≤ o && o ≤ 0xA0014)

/-- Group F0 is for Pearalan service (R436). -/
def serviceGroup (o : Nat) : Bool := o / 4096 == 0xF0

/-- R549 for a read: the status, and the bytes to return. -/
def State.readStatus (s : State) (q : Request) : Nat × Nat :=
  let o := q.msg.object.toNat
  let off := q.msg.offset.toNat
  let limit := if q.cmd.isSome then 65536 else 208
  if s.recovering && !loaderServes o then (1, 0)
  else if serviceGroup o then (3, 0)
  else match s.objInfo o with
    | none => (1, 0)
    | some x =>
      if !x.indexOk o q.msg.index.toNat then (2, 0)
      else
        let n := if q.len = 0 then min limit (x.size - off) else q.len
        if (off ≠ 0 ∧ !x.blob) ∨ x.size < off + n ∨ limit < n then (4, 0) else (0, n)

def State.serveRead (s : State) (q : Request) : State :=
  let r := s.readStatus q
  if r.1 ≠ 0 then s.answerRequest q r.1 0 []
  else s.answerRequest q 0 r.2 (s.objBytes q.msg.object.toNat q.msg.index.toNat q.msg.offset.toNat r.2)

/-! ### Staging (R434) -/

def NalMsg1.last (m : NalMsg) : Bool := m.flags.getLsbD 0
def NalMsg1.staged (m : NalMsg) : Bool := m.flags.getLsbD 1

/-- The bytes staged for an object by a requester. -/
def State.stagedBytes (s : State) (m : NalMsg) : Bytes :=
  match s.mgmt.staging.find? m.src.toNat with
  | some b => if b.object = m.object ∧ b.index = m.index then b.bytes else []
  | none => []

def State.clearStaging (s : State) (m : NalMsg) : State := { s with mgmt.staging := s.mgmt.staging.erase m.src.toNat }

/-- A segment joins the staging buffer, or empties it because it does not follow the one before or does not fit: the first
one starts at 0, a later one names the same object where the last one ended. -/
def State.stageSegment (s : State) (m : NalMsg) (size limit : Nat) : Option State :=
  let have_ := s.stagedBytes m
  let other : Bool := (s.mgmt.staging.find? m.src.toNat).any (fun b => b.object != m.object || b.index != m.index)
  if m.offset.toNat ≠ have_.length ∨ other ∨ min size limit < have_.length + m.data.length then none
  else some { s with mgmt.staging := s.mgmt.staging.put m.src.toNat
                       { object := m.object, index := m.index, bytes := have_ ++ m.data } }

/-- A buffer takes 4 KiB; the admin queue's has no limit of its own. -/
def stagingLimit (q : Request) : Nat := if q.cmd.isSome then imageLimit else 4096

/-! ### Keys (R445 to R450) -/

def keyStateOn (s : State) : Bool := s.obj 0x90000 0 == 1

/-- Store a key slot, in use and in flash. -/
def State.putKey (s : State) (i : Nat) (k : KeySlot) : State :=
  { s with mgmt.keys := s.mgmt.keys.set {} i k, mgmt.keyStore := s.mgmt.keyStore.set {} i k }

/-- R448: the first key, in clear; none is answered with RANGE. The slot and KEY_STATE change in one transaction (R450). -/
def State.provision (s : State) (v : Nat) : Nat × State :=
  let scope := fld v 32 32
  if fld v 0 3 ≠ 0 ∨ !bit scope 3 ∨ 32 ≤ scope then (5, s)
  else
    let key := BitVec.ofNat 256 (fld v 256 256)
    let s := s.putKey 0 { active := true, key := key, scope := BitVec.ofNat 32 scope }
    let s := s.keepAll [(0x90004, 0, 0), (0x90000, 0, 1)]
    (0, s.caskPost 0x0801 (source 11 0) (leBytes 128 (packFields [(32, scope), (64, keyId key)])))

/-- R449: a key rotates; SERIAL, TARGET and COUNTER mask the new key. -/
def State.rotateKey (s : State) (auth : Nat) (counter : BitVec 64) (v : Nat) : State :=
  let target := fld v 0 3
  let mask := Config.kmac256 (s.keySlot auth).key
    (leBytes 16 (s.obj 0x00003 0) ++ leBytes 1 target ++ leBytes 8 counter.toNat) (ascii "NALORA KEY")
  let key := BitVec.ofNat 256 (fld v 256 256) ^^^ mask
  let scope := fld v 32 32
  let s := (if key = 0 then s.putKey target {} else s.putKey target { active := true, key := key, scope := BitVec.ofNat 32 scope })
  let s := s.putStored 0x90004 target 0
  let s := if (List.range 8).any (fun i => (s.keySlot i).active) then s else s.putStored 0x90000 0 0
  s.caskPost 0x0802 (source 11 target)
    (leBytes 128 (packFields [(8, auth), (32, scope), (64, if key = 0 then 0 else keyId key), (64, counter.toNat)]))

/-! ### Unguarded writes (R438, R448, R549) -/

/-- The path and the access code allow an unguarded write. -/
def State.mayWrite (s : State) (p : Path) (o : Nat) (a : Access) : Bool :=
  match a with
  | .ro => false
  | .rw | .wo => s.pathOpen p
  | .rwg | .wog => !keyStateOn s && s.pathOpen p && !(o == 0x90010 && p == .fabric)

/-- The effect of a whole value that passed the checks up to its length: the status. -/
def State.applyWrite (s : State) (o i v : Nat) : Nat × State :=
  match o with
  | 0x00040 => s.startReport (BitVec.ofNat 256 v)
  | 0x80020 => s.startExport (fld v 0 64) (fld v 64 64) (BitVec.ofNat 256 (fld v 128 256))
  | 0x90010 => s.provision v
  | 0xA0020 => (0, s.startHandover (bit v 0))
  | _ =>
    let v := liveBits o v
    if s.rangeOk o i v then (0, s.applySetting o i v) else (5, s)

/-- R423: a message carries at most 208 bytes; a command of the admin queue more. -/
def tooLong (q : Request) : Bool := q.cmd.isNone && decide (208 < q.msg.dataLen.toNat)

/-- The value or a segment of it arrives: the status. -/
def State.writeBytes (s : State) (q : Request) (x : ObjInfo) : Nat × State :=
  let m := q.msg
  let o := m.object.toNat
  let n := m.data.length
  if m.offset = 0 ∧ n = x.size then s.applyWrite o m.index.toNat (leNat m.data)
  else if !x.blob then (4, s)
  else match s.stageSegment m x.size (stagingLimit q) with
    | none => (4, s.clearStaging m)
    | some t =>
      if !NalMsg1.last m then (0, t)
      else
        let bs := t.stagedBytes m
        if bs.length = x.size then (t.clearStaging m).applyWrite o m.index.toNat (leNat bs) else (4, t.clearStaging m)

/-- The third check of R549: the object accepts the write at this moment. A first key is taken once the key store is open
(R448, R450). -/
def State.acceptsNow (s : State) (m : NalMsg) : Bool :=
  match m.object.toNat with
  | 0xA0010 => s.loadAccepts m.src m.offset.toNat
  | 0x90010 => s.idReady
  | o => s.objAccepts o m.index.toNat

/-- R549 for a write. -/
def State.writeStatus (s : State) (q : Request) : Nat × State :=
  let m := q.msg
  let o := m.object.toNat
  if s.recovering && o != 0xA0010 then (1, s)
  else if serviceGroup o then (3, s)
  else match s.objInfo o with
    | none => (1, s)
    | some x =>
      if !s.recovering ∧ !s.mayWrite m.path o x.acc then (3, s)
      else if !s.acceptsNow m then (6, s)
      else if !x.indexOk o m.index.toNat then (2, s)
      else if tooLong q then (4, s)
      else if o = 0xA0010 then s.loadSegment m.src m.offset.toNat m.data (NalMsg1.last m)
      else s.writeBytes q x

def State.serveWrite (s : State) (q : Request) : State :=
  let r := s.writeStatus q
  r.2.answerRequest q r.1 q.msg.data.length []

/-- STAGE: a segment of a guarded value, or of an image (R434, R460). -/
def State.stageStatus (s : State) (q : Request) : Nat × State :=
  let m := q.msg
  let o := m.object.toNat
  if o = 0xA0010 then s.writeStatus q
  else if s.recovering then (1, s)
  else if serviceGroup o then (3, s)
  else match s.objInfo o with
    | none => (1, s)
    | some x =>
      if x.acc = .ro then (3, s)
      else if !x.indexOk o m.index.toNat then (2, s)
      else if tooLong q then (4, s)
      else match s.stageSegment m x.size (stagingLimit q) with
        | none => (4, s.clearStaging m)
        | some t => (0, t)

def State.serveStage (s : State) (q : Request) : State :=
  let r := s.stageStatus q
  r.2.answerRequest q r.1 q.msg.data.length []

/-! ### Guarded writes (R445 to R447) -/

/-- The tag input X of Table 13.15. -/
def State.tagInput (s : State) (m : NalMsg) (value : Bytes) : Bytes :=
  leBytes 16 (s.obj 0x00003 0) ++ leBytes 1 m.keySlot.toNat ++ leBytes 8 m.counter.toNat ++ leBytes 4 m.object.toNat
    ++ leBytes 2 m.index.toNat ++ leBytes 4 value.length ++ value

/-- Check 6 of Table 13.17. -/
def State.guardValueOk (s : State) (m : NalMsg) (value : Bytes) : Bool :=
  let o := m.object.toNat
  match s.objInfo o with
  | none => false
  | some x => x.indexOk o m.index.toNat && value.length == x.size && (m.path == .admin || decide (m.dataLen.toNat ≤ 208))
      && (if o = 0x90010 then decide (fld (leNat value) 32 32 < 32) else s.rangeOk o m.index.toNat (liveBits o (leNat value)))

/-- Table 13.17: the number of the first check that fails, 0 when none does. -/
def State.guardCause (s : State) (m : NalMsg) (value : Bytes) : Nat :=
  let k := s.keySlot m.keySlot.toNat
  let covered := match guardScope m.object.toNat with
    | some b => k.scope.getLsbD b
    | none => false
  if !k.active then 1
  else if !covered then 2
  else if m.tag ≠ (Config.kmac256 k.key (s.tagInput m value) (ascii "NALORA GUARD")).setWidth 128 then 3
  else if m.counter.toNat ≤ s.obj 0x90004 m.keySlot.toNat then 4
  else if !s.objAccepts m.object.toNat m.index.toNat then 5
  else if !s.guardValueOk m value then 6
  else 0

/-- A failed write is counted and recorded, not answered; from check 5 on its counter is used up (R406, R447). -/
def State.failGuard (s : State) (q : Request) (cause : Nat) : State :=
  let m := q.msg
  let s := if 5 ≤ cause then s.setKept 0x90004 m.keySlot.toNat m.counter.toNat else s
  let s := (s.bump 0x90020 0).setObj 0x90021 0
    (packFields [(32, m.object.toNat), (16, m.index.toNat), (8, m.keySlot.toNat), (8, cause), (64, m.counter.toNat)])
  match q.cmd with
  | some r => s.illegalCmd r 5
  | none => s

/-- The value of a guarded request: its data, the staging buffer, or, for a BLOB, the segments of several commands; none
while more are to come, an error when a segment does not fit. -/
def State.guardedValue (s : State) (q : Request) : Except Nat (Option Bytes × State) :=
  let m := q.msg
  let size := ((s.objInfo m.object.toNat).map (·.size)).getD 0
  let blob := (s.objInfo m.object.toNat).any (·.blob)
  if q.cmd.isSome then
    if !blob ∨ (m.offset = 0 ∧ (m.data.length = size ∨ NalMsg1.last m)) then .ok (some m.data, s)
    else match s.stageSegment m size imageLimit with
      | none => .error 4
      | some t => if NalMsg1.last m then .ok (some (t.stagedBytes m), t.clearStaging m) else .ok (none, t)
  else if NalMsg1.staged m then .ok (some (s.stagedBytes m), s)
  else .ok (some m.data, s)

/-- The elements that a guarded write changes in flash: the object, the counter, and for a rotation also the target's counter
and KEY_STATE. -/
def guardKeys (m : NalMsg) (value : Nat) : List Nat :=
  let own := [okey m.object.toNat m.index.toNat, okey 0x90004 m.keySlot.toNat]
  if m.object.toNat = 0x90010 then [okey 0x90004 m.keySlot.toNat, okey 0x90004 (fld value 0 3), okey 0x90000 0]
  else if m.object.toNat = 0xA0020 then [okey 0x90004 m.keySlot.toNat]
  else own

/-- The pages of a guarded write are programmed; their commit record follows (R442, R443). -/
def Mgmt.programGuarded (m : Mgmt) (keys : List Nat) (store : Bank Nat) : Mgmt :=
  let t := (pagesOf keys).foldl (Mgmt.program store) m
  { m with pages := t.pages, pageSeq := t.pageSeq, pageNext := t.pageNext, pageBudget := t.pageBudget, pageDebt := t.pageDebt }

/-- A guarded write is checked; one that passes waits for its commit (R443). -/
def State.serveGuarded (s : State) (q : Request) : State :=
  if serviceGroup q.msg.object.toNat then s.answerRequest q 3 0 []
  else match s.guardedValue q with
    | .error e => (s.clearStaging q.msg).answerRequest q e 0 []
    | .ok (none, t) => t.answerRequest q 0 q.msg.data.length []
    | .ok (some value, t) =>
      let cause := t.guardCause q.msg value
      if cause ≠ 0 then t.failGuard q cause
      else
        let m := q.msg
        let w : PendingWrite := { req := q, object := m.object.toNat, index := m.index.toNat, value := leNat value,
                                  slot := m.keySlot.toNat, counter := m.counter, first := t.mgmt.pageSeq }
        let store := (t.mgmt.store.put (okey w.object w.index) (liveBits w.object w.value)).put (okey 0x90004 w.slot) w.counter.toNat
        { t with mgmt := { t.mgmt.programGuarded (guardKeys m w.value) store with journal := some w } }

/-! ### The queue of the Maltster (R422, R444) -/

/-- R427: a request on a mailbox channel that is not the physical function's own. -/
def State.mailForbidden (s : State) (m : NalMsg) : Bool :=
  m.path == .mailbox && (s.mailEnd (m.from_.toNat % 256) true != 0 || m.from_.getLsbD 8)

/-- IDENTIFY: 49 bytes. -/
def State.identity (s : State) : Bytes :=
  s.objBytes 0x00003 0 0 16 ++ s.objBytes 0x00001 0 0 16 ++ s.objBytes 0x00002 0 0 1 ++ s.objBytes 0x00005 0 0 1
    ++ s.objBytes 0x50001 0 0 2 ++ s.objBytes 0xA0001 0 0 4 ++ s.objBytes 0xA0000 0 0 1 ++ s.objBytes 0x00033 0 0 8

/-- The response kept under SRC and SEQ of a message (R433). -/
def State.keptFor (s : State) (m : NalMsg) : Option (NalMsg × Response) :=
  s.mgmt.kept.find? (fun x => x.1.src == m.src && x.1.seq == m.seq)

/-- The answers that no object is needed for: ACCESS on a forbidden channel (R427), a kept response (R433), NO_OBJECT from
the recovery loader (R460), IDENTIFY and KIND (R431). None: the message asks for an object. -/
def State.direct (s : State) (m : NalMsg) : Option State :=
  let k := m.kind.toNat
  if s.mailForbidden m then some (s.respondMsg m 3 [])
  else match s.keptFor m with
    | some x => some (s.sendResponse m x.2)
    | none =>
      if s.recovering && !(k == 1 || k == 2 || k == 4) then some (s.respondMsg m 1 [])
      else if k = 6 then some (s.respondMsg m 0 s.identity)
      else if k = 0 ∨ 5 ≤ k then some (s.respondMsg m 8 [])
      else none

/-- Serve one request; a message that has been answered while it waited is answered again (R433). -/
def State.serveOne (s : State) (q : Request) : State :=
  match (if q.cmd.isSome then none else s.direct q.msg) with
  | some t => t
  | none =>
    match q.msg.kind.toNat with
    | 1 => s.serveRead q
    | 2 => s.serveWrite q
    | 3 => s.serveGuarded q
    | _ => s.serveStage q

/-- While an image takes over, requests wait (Table 13.23). -/
def State.quiet (s : State) : Bool := s.mgmt.fw.quietUntil != 0

/-- Serve requests in arrival order, until one waits for a commit or for the page budget. -/
def State.serve : Nat → State → State
  | 0, s => s
  | n + 1, s =>
    if s.quiet then s
    else match s.mgmt.journal, s.mgmt.queue with
      | none, q :: rest =>
        if q.msg.kind = 3 ∧ s.mgmt.pageBudget = 0 then s
        else State.serve n (({ s with mgmt.queue := rest } : State).serveOne q)
      | _, _ => s

/-- A request joins the queue of 64, or is answered with BUSY. -/
def State.request (s : State) (q : Request) : State :=
  if 64 ≤ s.mgmt.queue.length then s.answerRequest q 7 0 []
  else
    let l := s.mgmt.queue ++ [q]
    State.serve l.length { s with mgmt.queue := l }

/-- Requests are served again once the image that took over has run for 50 ms. -/
def State.endQuiet (s : State) : State :=
  if s.quiet ∧ s.mgmt.fw.quietUntil ≤ s.now then
    State.serve s.mgmt.queue.length { s with mgmt.fw := { s.mgmt.fw with quietUntil := 0 } }
  else s

/-- A clock cycle in which no command comes. -/
def State.idle (s : State) : State := s.tick.endQuiet

/-- A committed guarded write takes effect and is answered. -/
def State.completeGuarded (s : State) (w : PendingWrite) : State :=
  let s := { s with mgmt := { s.mgmt.commitRecord w.first with journal := none } }
  let s := (s.putStored 0x90004 w.slot w.counter.toNat).clearStaging w.req.msg
  let s := match w.object with
    | 0x90010 => s.rotateKey w.slot w.counter w.value
    | 0xA0020 => s.startHandover (bit w.value 0)
    | o =>
      let v := liveBits o w.value
      let t := s.applySetting o w.index v
      { t with mgmt.store := t.mgmt.store.put (okey o w.index) v, mgmt.unsaved := eraseNat (okey o w.index) t.mgmt.unsaved }
  s.answerRequest w.req 0 w.req.msg.data.length []

/-- The value of the bank under a key of `okey`. -/
def State.valueAt (s : State) (k : Nat) : Nat := s.objVal (k / 65536) (k % 65536)

/-- The unguarded writes that wait are committed together. -/
def State.commitUnsaved (s : State) : State :=
  { s with mgmt := { s.mgmt.save (s.mgmt.unsaved.map (fun k => (k, s.valueAt k))) with unsaved := [] } }

/-- JOURNAL_COMMIT: of the guarded write that waits, else of the unguarded ones, while the page budget lasts. -/
def execJournalCommit (s : State) : Out :=
  match s.mgmt.journal with
  | some w => let t := s.completeGuarded w
    .next (State.serve t.mgmt.queue.length t)
  | none => .next (if s.mgmt.unsaved.isEmpty || s.mgmt.pageBudget == 0 then s else s.commitUnsaved)

/-- PAGE_BUDGET_REFILL: one page program per second, up to 600; what was programmed beyond the budget is made up first. -/
def execPageBudgetRefill (s : State) : Out :=
  let m := if s.mgmt.pageDebt = 0 then { s.mgmt with pageBudget := min 600 (s.mgmt.pageBudget + 1) }
    else { s.mgmt with pageDebt := s.mgmt.pageDebt - 1 }
  let t := { s with mgmt := m }
  .next (State.serve t.mgmt.queue.length t)

/-! ### Messages (R423, R427, R428, R430, R431, R433) -/

/-- A source address of Table 13.1 for its path. -/
def sourceOk (m : NalMsg) : Bool :=
  match m.path with
  | .port => 0x8000 ≤ m.src.toNat && m.src.toNat ≤ 0x80FE
  | .fabric => m.src.toNat < 0x4000 && m.src == m.from_
  | .mailbox => m.src == 0xC000
  | .admin => m.src == 0xC100

/-- A message that is dropped and counted in 00.102. -/
def badMessage (m : NalMsg) : Bool :=
  m.magic ≠ 0x4E4C || m.version ≠ 1 || m.kind == 0 || !sourceOk m || (m.dst == 0xFFFF && m.kind ≠ 6)

/-- A message for another module. -/
def State.notForUs (s : State) (m : NalMsg) : Bool :=
  m.dst ≠ 0xFFFF && (match m.path with
    | .port => m.dst.toNat ≠ s.portAddress
    | .fabric => m.dst.toNat ≠ s.node
    | _ => false)

/-- What a sound message for this module asks. A RESPONSE is never answered, a NOTICE is dropped (R431). -/
def State.handle (s : State) (m : NalMsg) : State :=
  if m.kind = 5 then s
  else if m.kind = 7 then s.bump 0x00102 0
  else
    let q : Request := { msg := m, len := m.dataLen.toNat }
    if s.quiet then s.request q else (s.direct m).getD (s.request q)

/-- R424, R426: a frame that the port accepts: for the module's address or for all, of 64 to 1,518 bytes with the message
behind the addresses, a tag, the EtherType and before the check sequence. -/
def frameOk (m : NalMsg) : Bool :=
  let n := 18 + (if m.frame.tag.isSome then 4 else 0) + 48 + m.data.length + m.frame.padding
  (m.frame.dst == Config.macAddr || m.frame.dst == 0xFFFFFFFFFFFF) && m.frame.ether == 0x88B5 && decide (64 ≤ n ∧ n ≤ 1518)

/-- Collisions that the port has met are counted in 00.105 (R425). -/
def State.noteCollisions (s : State) (n : Nat) : State := if n = 0 then s else s.bumpBy 0x00105 0 n

/-- A message arrives. The recovery loader uses the management port only; a frame that the port does not accept carries no
message. -/
def State.receive (s : State) (m : NalMsg) : State :=
  if !s.serves || (s.recovering && m.path != .port) then s
  else
    let s := if m.path = .port then s.noteCollisions m.frame.collisions else s
    if m.path = .port ∧ !frameOk m then s
    else
      let s := s.bump 0x00100 0
      if badMessage m then s.bump 0x00102 0
      else if s.notForUs m then s
      else s.handle m

/-- A message of some kinds arrives by the command of its row. -/
def receiveKind (m : NalMsg) (p : Nat → Bool) (s : State) : Out := .next (if p m.kind.toNat then s.receive m else s)

def execNaloraRead (m : NalMsg) (s : State) : Out := receiveKind m (· == 1) s
def execNaloraWrite (m : NalMsg) (s : State) : Out := receiveKind m (· == 2) s
def execNaloraWriteG (m : NalMsg) (s : State) : Out := receiveKind m (· == 3) s
def execNaloraStage (m : NalMsg) (s : State) : Out := receiveKind m (· == 4) s
def execNaloraResponse (m : NalMsg) (s : State) : Out := receiveKind m (· == 5) s
def execNaloraIdentify (m : NalMsg) (s : State) : Out := receiveKind m (· == 6) s
def execNaloraNotice (m : NalMsg) (s : State) : Out := receiveKind m (· == 7) s
def execNaloraReservedKind (m : NalMsg) (s : State) : Out := receiveKind m (fun k => k == 0 || decide (8 ≤ k)) s

/-- KEY_PROVISION: the unguarded write of 90.010 (R448). -/
def execKeyProvision (m : NalMsg) (s : State) : Out :=
  .next (if m.kind = 2 ∧ m.object = 0x90010 then s.receive m else s)

/-- The fields of the message that some bytes spell, Table 13.4; a READ names a length but carries no data. -/
def parseMessage (path : Path) (from_ : BitVec 16) (bs : Bytes) : NalMsg :=
  let h := leNat (bs.take 48)
  let n := fld h 104 8
  let kind := fld h 24 8
  { path := path, from_ := from_, magic := BitVec.ofNat 16 h, version := BitVec.ofNat 8 (fld h 16 8),
    kind := BitVec.ofNat 8 kind, flags := BitVec.ofNat 8 (fld h 40 8), dst := BitVec.ofNat 16 (fld h 48 16),
    src := BitVec.ofNat 16 (fld h 64 16), seq := BitVec.ofNat 16 (fld h 80 16), offset := BitVec.ofNat 32 (fld h 112 32),
    keySlot := BitVec.ofNat 3 (fld h 144 3), object := BitVec.ofNat 20 (fld h 152 20), index := BitVec.ofNat 16 (fld h 176 16),
    counter := BitVec.ofNat 64 (fld h 192 64), tag := BitVec.ofNat 128 (fld h 256 128), dataLen := BitVec.ofNat 8 n,
    data := if kind = 1 then [] else (bs.drop 48).take n }

/-- The message that the payload of an MGMT packet is (R428). -/
def Packet1.message (p : Packet) : NalMsg := { parseMessage .fabric (p.src.setWidth 16) p.payload with incarn := p.incarn }

/-- FAB_MGMT: the payload of an MGMT packet for this node is the message (R428); the operand only repeats it. -/
def execFabMgmt (p : Packet) (_m : NalMsg) (s : State) : Out :=
  .next (if p.dst.toNat = s.node ∧ p.type = 9 then s.receive (Packet1.message p) else s)

/-- STAGING_TIMEOUT: no segment for 10 s. -/
def execStagingTimeout (addr : BitVec 16) (s : State) : Out :=
  .next { s with mgmt.staging := s.mgmt.staging.erase addr.toNat }

/-! ### Messages on mailbox channels (R427) -/

/-- Bytes of the message that begins with some bytes; a READ names a length but carries no data. -/
def messageLength (bs : Bytes) : Nat :=
  let h := leNat (bs.take 48)
  if bs.length < 48 then 48 else if fld h 24 8 = 1 then 48 else 48 + fld h 104 8

/-- The Maltster takes a word of a channel; bit 8 of the channel's mark is set by a foreign stamp. -/
def State.mailWord (s : State) (ch : Nat) (w : BitVec 32) (stamp : BitVec 8) : State :=
  let old := s.mgmt.mailIn.find? (fun x => x.1 % 256 == ch)
  let foreign : Bool := s.mailStamped && stamp != 0
  let key := if foreign || old.any (fun x => 256 ≤ x.1) then ch + 256 else ch
  let bs := (old.map (·.2)).getD [] ++ leBytes 4 w.toNat
  if messageLength bs ≤ bs.length then
    ({ s with mgmt.mailIn := s.mgmt.mailIn.filter (fun x => x.1 % 256 != ch) } : State).receive (parseMessage .mailbox (BitVec.ofNat 16 key) bs)
  else if old.isSome then
    { s with mgmt.mailIn := s.mgmt.mailIn.map (fun x => if x.1 % 256 == ch then (key, bs) else x) }
  else { s with mgmt.mailIn := s.mgmt.mailIn ++ [(key, bs)] }

/-- MBX_MESSAGE_TIMEOUT: the message begun first is still incomplete after 10 ms. -/
def execMbxMessageTimeout (s : State) : Out :=
  match s.mgmt.mailIn with
  | [] => .next s
  | _ :: r => .next (({ s with mgmt.mailIn := r } : State).bump 0x00102 0)

/-- RX_DATA (R417): a word that the Maltster takes joins its message; one that a function takes makes room. -/
def execRxData (master : BitVec 8) (ch : Fin 256) (s : State) : Out :=
  if !s.mailReaches master.toNat then .next { s with host.rxLast := 0 } else
  match s.mailReads master.toNat ch.val with
  | none => .next { s with host.rxLast := 0 }
  | some d =>
    match s.mailQueue ch.val d with
    | [] => .next { s with host.rxLast := 0, host.rxUnderflow := insertPair (ch.val, master.toNat) s.host.rxUnderflow }
    | (w, stamp) :: r =>
      let t := ({ s with host.rxLast := w } : State).putMail ch.val d r
      .next (if master = 0x40 then t.mailWord ch.val w stamp
        else if (t.mgmt.mailOut.get [] ch.val).isEmpty then t else t.pumpMail ch.val)

/-! ### Dictionary commands (R429) -/

/-- The request of a command: object and index from the operands, or those that the opcode fixes. -/
def State.dictRequest (s : State) (r : CmdRef) (c : Cmd) (kind : Nat) (fixed : Option Nat) : Request :=
  let o := fixed.getD (c.arg 0 20)
  let size := ((s.objInfo o).map (·.size)).getD 0
  let n := if c.arg 160 32 = 0 then size else c.arg 160 32
  let g := (c.guard_.getD 0).toNat
  let last : Bool := fixed.isSome || bit c.entry.toNat (64 + 192)
  let m : NalMsg :=
    { path := .admin, from_ := 0, kind := BitVec.ofNat 8 kind, flags := if last then 1 else 0, dst := 0, src := 0xC100, seq := 0,
      offset := if fixed.isSome then 0 else BitVec.ofNat 32 (c.arg 128 32), keySlot := BitVec.ofNat 3 (fld g 317 3),
      object := BitVec.ofNat 20 o, index := if fixed.isSome then 0 else BitVec.ofNat 16 (c.arg 20 16),
      counter := BitVec.ofNat 64 (fld g 320 64), tag := BitVec.ofNat 128 (fld g 384 128),
      data := if kind = 1 then [] else memRead s.mem.host c.buffer (min n 65536) }
  { msg := m, cmd := some r, len := c.arg 160 32 }

/-- Host memory that a function reaches: none of the ranges that are closed to it. -/
def State.hostReaches (s : State) (v a n : Nat) : Bool :=
  s.host.closed.all (fun x => x.1 != v || decide (x.2.1 + x.2.2 ≤ a) || decide (a + n ≤ x.2.1))

/-- Bytes of the buffer of a dictionary command. -/
def State.dictBytes (s : State) (c : Cmd) (fixed : Option Nat) : Nat :=
  if c.arg 160 32 = 0 then min 65536 (((s.objInfo (fixed.getD (c.arg 0 20))).map (·.size)).getD 0) else c.arg 160 32

/-- A dictionary command: at most 65,536 bytes, in host memory that the function reaches. -/
def dictCommand (op kind : Nat) (fixed : Option Nat) (r : CmdRef) (s : State) : Out :=
  runCmd op r (fun c _ t =>
    if 65536 < c.arg 160 32 then t.finish r 0 4
    else if !t.hostReaches r.v.val c.buffer (t.dictBytes c fixed) then t.finish r 0 5
    else (t.keepBusy r).request (t.dictRequest r c kind fixed)) s

def execDictRead (r : CmdRef) (s : State) : Out := dictCommand 0x90 1 none r s
def execDictWrite (r : CmdRef) (s : State) : Out := dictCommand 0x91 2 none r s
def execDictWriteG (r : CmdRef) (s : State) : Out := dictCommand 0x92 3 none r s
def execKeyRotate (r : CmdRef) (s : State) : Out := dictCommand 0x93 3 (some 0x90010) r s
def execFwActivate (r : CmdRef) (s : State) : Out := dictCommand 0x94 3 (some 0xA0020) r s

/-! ### The management port (R424, R538) -/

/-- PLCA_BEACON_TIMEOUT: no BEACON for 4 ms. -/
def execPlcaBeaconTimeout (s : State) : Out := .next (s.setObj 0x00022 0 0)

/-- PLCA_BEACON_RECEIVED. -/
def execPlcaBeaconReceived (s : State) : Out := .next (s.setObj 0x00022 0 1)

/-- PLCA_ID_WRITE: the effect of an accepted write of 00.020. -/
def execPlcaIdWrite (value : BitVec 8) (s : State) : Out :=
  .next (if !s.recovering ∧ s.rangeOk 0x00020 0 value.toNat then s.applySetting 0x00020 0 value.toNat else s)

end Sys2Proof.Machine
end

