-- ==== Sys2Proof/Machine/Resilience.lean ====
section
/-!
DEFINITION. What the Maltster loses and repairs while it runs (chapter 14): the health poll and the loss of clusters, dies
and Kilns (R463, R466, R477), sparing of clusters and withdrawal of stations (R467 to R469), lanes (R470 to R472), and
brown-hold (R478, R479).
-/

namespace Sys2Proof.Machine

/-! ### Sources and numbers -/

def clusterSource (cl : Nat) : Nat := source 2 (cl / 136 * 256 + cl % 136)

/-- No virtual interface, no context: for a unit that carries no work. -/
def noOwner : Nat := 0xFF
def noContext : Nat := 0xFFFF

/-- Polled units in ascending order of the SOURCE that names them. -/
def pollNumber : PollUnit → Nat
  | .die d => d.val
  | .cluster c => 16 + c.val
  | .kiln k => 2000 + k.val
  | .iod i => 3000 + i.val

/-! ### Lost clusters (R466) -/

/-- The station entries that name cluster `i` of a station lose their latches there; its claims, its requests for copies and
its retries are gone. -/
def State.dropLatches (s : State) (st i : Nat) : State :=
  let stn := s.station st
  let mask : BitVec 8 := ~~~(1#8 <<< i)
  let names : Claim → Bool := fun c => (if c.captured.isSome then c.copies else c.clusters).getLsbD i
  let cut : Claim → Option Claim := fun c =>
    let c := { c with clusters := c.clusters &&& mask, copies := c.copies &&& mask, cells := c.cells.filter (fun x => x.1 != i) }
    if c.clusters = 0 ∨ (c.captured.isSome ∧ c.copies = 0) then none else some c
  let mine := stn.claims.filter names
  let gone := (mine.filter (·.dropped.isNone)).map (fun c => c.ctx) ++ ((stn.retry.filter (fun r => r.cluster == i)).map (·.ctx))
  let s := mine.foldl (fun t c => t.withdrawCopies st c [i]) s
  let s := s.putStation st { s.station st with claims := stn.claims.filterMap (fun c => if names c then cut c else some c),
                                               retry := stn.retry.filter (fun r => r.cluster != i) }
  gone.foldl (fun t k => t.stationEvent k st 6) s

/-- The speculative tasks on a cluster: of the groups in it, and of groups that have run there and ended while their condition
is pending. -/
def State.tasksOn (s : State) (cl : Nat) : List Nat :=
  let here : Launch → Bool := fun l => l.outcome.isNone && l.cond.isSome
    && l.started.any (fun i => (s.placeOf (ctxVi l.ctx) i).any (fun p => p.1 == cl))
  (((s.groups.filter (fun x => clusterKeyOf x.1 == cl && x.2.spec)).map (fun x => x.2.launch))
    ++ (s.host.launches.filter (fun x => here x.2)).map (·.1)).dedup

/-- A lost cluster is fenced: its groups end as by an abort, speculative tasks on it are discarded, what it held is lost. -/
def State.fenceCluster (s : State) (cl : Nat) : State :=
  let mine := (s.groups.filter (fun x => clusterKeyOf x.1 == cl)).map (·.1)
  let tasks := s.tasksOn cl
  let s := mine.foldl (fun t gk => t.endGroup gk true) s
  let s := tasks.foldl State.discardLaunch s
  let s := { s with cores := s.cores.filter (fun x => x.1 / 4 != cl), clusters := s.clusters.erase cl,
                    mem.store := memZero s.mem.store (cl * 4194304) 4194304 }
  ({ s with health.absent := insertNat cl s.health.absent } : State).noteSpares (cl / 136)

/-- CLUSTER_LOST. -/
def State.loseCluster (s : State) (cl : Nat) : State :=
  let st := s.stationOf cl
  let v := (st.bind s.viOfStation).getD noOwner
  let k := (s.cluster cl).ctx.elim noContext (· % 4096)
  let s := s.fenceCluster cl
  let s := match st with
    | some x => s.dropLatches x ((s.stationClusters x).idxOf cl)
    | none => s
  s.caskPost 0x0602 (clusterSource cl) (leBytes 128 (packFields [(8, v), (16, k)]))

/-! ### Lost dies (R477) -/

/-- A lost Kiln: its masters and everything it holds are gone, and every live step fails. -/
def State.takeKiln (s : State) (k : Nat) : State :=
  let s := { s with kilns := s.kilns.erase k, wort.parked := s.wort.parked.erase k }
  s.steps.live.foldl (fun t x => t.poisonStep x.step) s

/-- The span lanes of an I/O die: half of a connector's lane groups. -/
def State.takeSpanLanes (s : State) (i : Nat) : State :=
  let dir := i / 2
  let groups := (List.range 8).map (fun j => 8 * (i % 2) + j)
  let old := s.health.spanDegraded.get [] dir
  let new := groups.filter (fun g => !old.contains g && !(s.health.spanSpared.get [] dir).contains g)
  { s with health.spanDegraded := s.health.spanDegraded.set [] dir (old ++ new) }

/-- DIE_LOST: a compute die breaks both conveyors and takes its stacks (`State.stackLost`) and its Kiln with it, an I/O die its
ports and lanes. -/
def State.loseUnit (s : State) (u : PollUnit) : State :=
  let s := { s with health.lost := s.health.lost ++ [u] }
  match u with
  | .cluster c => if s.health.absent.contains c.val then s else s.loseCluster c.val
  | .die d =>
    let s := if s.conv.state = .broken then s else s.breakSpan 0
    (({ s with health.lost := s.health.lost ++ [.kiln d] } : State).takeKiln d.val).caskPost 0x0605 (source 1 d.val) []
  | .kiln k => (s.takeKiln k.val).caskPost 0x0605 (source 5 k.val) []
  | .iod i =>
    let down : State → Nat → State := fun t j => (t.portDown (8 * i.val + j) 0).putPort (8 * i.val + j) {}
    let s := ((List.range 8).foldl down s).noteFabric
    let s := if s.conv.span.n = 1 then s else s.takeSpanLanes i.val
    s.caskPost 0x0605 (source 8 i.val) []

/-- The Maltster polls the dies: they have power and the image runs. -/
def State.polls (s : State) : Bool :=
  (s.boot.phase == .trained || s.boot.phase == .tested || s.boot.phase == .stopped || s.boot.phase == .started)
    && s.power.hold == .none

/-- HEALTH_POLL: the units that did not answer; one that misses 10 polls in a row is lost. -/
def execHealthPoll (missed : List PollUnit) (s : State) : Out :=
  if !s.polls then .next s
  else
    let l := (missed.dedup.filter (fun u => !s.health.lost.contains u)).mergeSort (fun a b => pollNumber a ≤ pollNumber b)
    let count : PollUnit → Nat := fun u => s.health.missed.get 0 (pollNumber u) + 1
    let kept : Bank Nat := (l.filter (fun u => count u < 10)).map (fun u => (pollNumber u, count u))
    .next ((l.filter (fun u => 10 ≤ count u)).foldl State.loseUnit { s with health.missed := kept })

/-! ### Sparing of clusters (R464, R467) -/

/-- CLUSTER_SPARED: a cluster's place at its station is taken by a spare; the retired position is listed (R469). -/
def State.replaceCluster (s : State) (st cl spare : Nat) : State :=
  let new := ((s.stationClusters st).filter (· != cl) ++ [spare]).mergeSort (· ≤ ·)
  let s := { s with health.sparing := s.health.sparing.put st new, health.absent := eraseNat cl s.health.absent,
                    health.pendingRetire := eraseNat cl s.health.pendingRetire }
  let s := s.keepRepair { s.health.repair with clusters := insertNat cl s.health.repair.clusters }
  let d := cl / 136
  let s := s.noteSpares d
  s.caskPost 0x0603 (clusterSource cl) (leBytes 128 (packFields [(8, spare % 136), (8, st)]))

/-- A cluster that is absent or pending retirement is replaced, if its die has a spare. -/
def State.swapOne (s : State) (cl : Nat) : State :=
  match s.stationOf cl, s.sparesOf (cl / 136) with
  | some st, spare :: _ => s.replaceCluster st cl spare
  | _, _ => s

/-- CLUSTER_SWAP: of a virtual interface without a context. -/
def execClusterSwap (v : Fin 64) (s : State) : Out :=
  if s.hasContext v.val then .next s
  else
    let mine := (s.stationsOf v.val).flatMap s.stationClusters
    .next ((mine.filter (fun cl => s.health.absent.contains cl || s.health.pendingRetire.contains cl)).foldl State.swapOne s)

/-- A station that cannot get back to eight clusters. -/
def State.shortStation (s : State) (st : Nat) : Bool :=
  let l := s.stationClusters st
  (decide (l.length < 8) || l.any (fun cl => s.health.absent.contains cl)) && (s.sparesOf (st / 16)).isEmpty
    && !s.health.withdrawn.contains st

/-- STATION_WITHDRAWN: the station leaves its partition, and its clusters stay idle (R468). -/
def State.withdraw (s : State) (st : Nat) : State :=
  let d := st / 16
  let left := match s.viOfStation st with
    | some v => [(0x60010, v, setFld (s.obj 0x60010 v) st 1 0)]
    | none => []
  let t := s.keepRepair { s.health.repair with stations := insertNat st s.health.repair.stations } left
  let t := ({ t with health.withdrawn := insertNat st t.health.withdrawn } : State).setObj 0x00006 d (t.obj 0x00006 d - 8)
  t.caskPost 0x0604 (source 9 st) (leBytes 128 ((s.viOfStation st).getD noOwner))

/-- STATION_WITHDRAW: once its virtual interface has no context. -/
def execStationWithdraw (st : Fin 128) (s : State) : Out :=
  .next (if s.shortStation st.val && !(s.viOfStation st.val).any s.hasContext then s.withdraw st.val else s)

/-! ### Lanes (R470 to R472) -/

/-- A lane of a fabric port degrades: the port retrains without it, or has failed with a second one. -/
def State.degradeFab (s : State) (p i : Nat) : State :=
  let x := s.port p
  let old := s.health.fabDegraded.get [] p
  if x.state = 0 ∨ x.state = 4 ∨ old.contains i then s
  else
    let s := { s with health.fabDegraded := s.health.fabDegraded.set [] p (old ++ [i]) }
    if x.up then s.portDown p 0
    else if old.isEmpty then s
    else (s.putPort p { x with state := 4 }).noteFabric

/-- A lane of a span connector degrades: its group is to be spared, and the member needs k = 2. -/
def State.degradeSpan (s : State) (dir i : Nat) : State :=
  let g := i / 4
  let old := s.health.spanDegraded.get [] dir
  if s.conv.span.n = 1 || old.contains g || (s.health.spanSpared.get [] dir).contains g then s
  else { s with health.spanDegraded := s.health.spanDegraded.set [] dir (old ++ [g]) }

def State.degrade (s : State) (l : Lane) : State :=
  match l with
  | .fab p i => s.degradeFab p.val i.val
  | .span down i => s.degradeSpan (if down then 1 else 0) i.val

/-- A spared group that passes its test in a halt or a re-formation is restored. -/
def State.restoreGroup (s : State) (l : Lane) : State :=
  match l with
  | .fab _ _ => s
  | .span down i =>
    let dir := if down then 1 else 0
    if s.conv.state = .halted ∨ s.conv.state = .forming then
      { s with health.spanSpared := s.health.spanSpared.set [] dir (eraseNat (i.val / 4) (s.health.spanSpared.get [] dir)) }
    else s

/-- LANE_ERROR_CHECK: the symbol errors of one second. -/
def execLaneErrorCheck (l : Lane) (errors : Nat) (s : State) : Out :=
  .next (if 21250 < errors then s.degrade l else s.restoreGroup l)

/-- LANE_LOSES_LOCK. -/
def execLaneLosesLock (l : Lane) (s : State) : Out := .next (s.degrade l)

/-- FAB_PORT_RETRY_HOURLY: a failed port trains again on the lanes that are good now. -/
def execFabPortRetryHourly (p : Fin 32) (goodLanes : BitVec 4) (s : State) : Out :=
  if (s.port p.val).state ≠ 4 ∨ !s.cabled p.val then .next s
  else
    let bad := (List.range 4).filter (fun i => !goodLanes.getLsbD i)
    let s := { s with health.fabDegraded := s.health.fabDegraded.set [] p.val bad }
    .next (if bad.length ≤ 1 then (s.putPort p.val { state := 1 }).noteFabric else s)

/-- SPAN_LANE_SPARE: a group is named in a link control block, by this end or by the neighbour; both stop using it at the
next boundary. -/
def execSpanLaneSpare (down : Bool) (group : Fin 16) (s : State) : Out :=
  let dir := if down then 1 else 0
  if s.conv.span.n = 1 || !s.conv.k2 || !s.moving || (s.health.spanSpared.get [] dir).contains group.val then .next s
  else .next { s with health.spanNamed := s.health.spanNamed.set [] dir (insertNat group.val (s.health.spanNamed.get [] dir)) }

/-! ### Brown-hold (R478, R479) -/

/-- Every compute die goes to at most `m` in one step. -/
def Power.stretchAll (p : Power) (m : Nat) : Power :=
  { p with m := (List.range 8).foldl (fun b d => Bank.set b 64 d (min m (Bank.get b 64 d))) p.m }

/-- The input has power and the Maltster watches it. -/
def State.watches (s : State) : Bool := s.power.hold == .none && !s.power.onHoldUp

/-- BROWN_HOLD_ENTER: below V_WARN for 2 µs. A sample during brown-hold only lowers the minimum that is recorded. -/
def execBrownHoldEnter (mv : Nat) (s : State) : Out :=
  if !s.watches ∨ s.obj 0x10010 0 ≤ mv then .next s
  else if s.power.brown then .next { s with power.inputMv := mv, power.brownMin := min mv s.power.brownMin }
  else
    let p := { s.power with inputMv := mv, brown := true, brownSince := s.now, brownMin := mv }
    let s := ({ s with power := p.stretchAll 32 } : State).bump 0x10100 0
    .next ((s.setClock.caskPost 0x0101 (source 0 0) (leBytes 128 mv)).notice 1 0x10003)

/-- BROWN_HOLD_LEAVE: above V_RESUME for 1 ms. m rises by the ramp of R518 (POWER_SAMPLE). -/
def execBrownHoldLeave (s : State) : Out :=
  if !s.power.brown ∨ !s.watches then .next s
  else
    let t := s.now - s.power.brownSince
    let low := s.power.brownMin
    let s := ({ s with power.brown := false } : State).bumpBy 0x10101 0 t
    .next ((s.caskPost 0x0102 (source 0 0) (leBytes 128 (packFields [(64, t), (32, low)]))).notice 2 0x10003)

end Sys2Proof.Machine
end

