-- ==== Sys2Proof/Machine/Power.lean ====
section
/-!
DEFINITION. Power, clocks and temperature (chapter 16) and the connectors (chapter 17): the power controller (R512, R513),
FORCE_SAFE_N (R514), the reference (R517), stretching (R518, R519), temperature (R520, R522) and cables (R535, R542).
-/

namespace Sys2Proof.Machine

/-- The arithmetic clocks run: start-up has reached t0 + 25 ms, and nothing holds the module. -/
def State.clocked (s : State) : Bool := s.polls || (s.boot.phase == .ramped && s.power.hold == .none)

/-! ### The power controller -/

/-- The lowest m that any cause requests of a die (R519). -/
def Power.target (p : Power) (d : Nat) : Nat := min p.supplyM (p.thermalM d)

/-- R518: m moves towards the request by at most 4 in a microsecond. -/
def rampM (m target : Nat) : Nat := if m < target then min target (m + 4) else max target (m - 4)

/-- Every die that runs takes one step of the ramp. -/
def Power.ramp (p : Power) : Power :=
  let step : Bank Nat → Nat → Bank Nat := fun b d =>
    if p.stopped.contains d then b else b.set 64 d (rampM (Bank.get b 64 d) (p.target d))
  { p with m := (List.range 8).foldl step p.m }

/-- The controller lowers m by 1, not below 16. -/
def Power.lower (p : Power) : Power := { p with mPower := max 16 (p.mPower - 1), limitActing := true, raise := 0 }

/-- While no limit calls, m rises by 1 per 10 µs. -/
def Power.relax (p : Power) : Power :=
  if 64 ≤ p.mPower then { p with limitActing := false, raise := 0 }
  else if p.raise < 9 then { p with raise := p.raise + 1 }
  else { p with mPower := p.mPower + 1, raise := 0, limitActing := decide (p.mPower + 1 < 64) }

/-- What the controller decides on a sample of P10. -/
def Power.control (p : Power) (limit p10 : Nat) (nearLimit : Bool) : Power :=
  let p := if p10 ≤ limit then { p with excursion := false } else p
  if 5300 ≤ p10 ∨ (limit < p10 ∧ (p.excursion ∨ nearLimit)) then p.lower else p.relax

/-- POWER_SAMPLE: every microsecond. -/
def execPowerSample (p10 : Nat) (nearLimit : Bool) (s : State) : Out :=
  if !s.clocked then .next s
  else .next (({ s with power := (s.power.control (s.obj 0x10020 0) p10 nearLimit).ramp } : State).setObj 0x10002 0 p10)

/-- POWER_EXCURSION_LIMIT: an excursion above P_LIMIT_W has lasted 4 ms. -/
def execPowerExcursionLimit (p10 : Nat) (s : State) : Out :=
  if !s.clocked ∨ p10 ≤ s.obj 0x10020 0 then .next s
  else .next { s with power := { s.power with excursion := true }.lower }

/-- P_LIMIT_WRITE: the effect of an accepted write of 10.020. -/
def execPLimitWrite (value : BitVec 32) (s : State) : Out :=
  .next (if !s.recovering ∧ s.rangeOk 0x10020 0 value.toNat then s.applySetting 0x10020 0 value.toNat else s)

/-! ### FORCE_SAFE_N -/

/-- FORCE_SAFE_ASSERT: low for 10 µs. The pin is ignored while the module is held in reset (R538). -/
def execForceSafeAssert (s : State) : Out :=
  let s := { s with pins.forceSafeN := false }
  if s.clocked then .next { s with power := { s.power with forceSafe := true }.stretchAll 16 } else .next s

/-- FORCE_SAFE_RELEASE: high for 1 ms. m returns by the ramp of R518 (POWER_SAMPLE). -/
def execForceSafeRelease (s : State) : Out := .next { s with pins.forceSafeN := true, power.forceSafe := false }

/-! ### The reference -/

/-- Every fabric port that has lock loses it. -/
def State.portsLoseLock (s : State) : State := (List.range 32).foldl (fun t p => t.portDown p 0) s

/-- The span links lose lock: a member that forwards or is halted breaks. -/
def State.spanLosesLock (s : State) : State :=
  let s := { s with conv.upNbr := {}, conv.downNbr := {} }
  if s.conv.span.n ≠ 1 ∧ (s.moving ∨ s.conv.state = .halted) then s.breakSpan 0 else s

/-- REFERENCE_LOSS (R517, R493, R508). -/
def execReferenceLoss (s : State) : Out :=
  if !s.clock.refPresent then .next s
  else .next (({ s with clock.refPresent := false } : State).portsLoseLock.spanLosesLock).ownReference

/-- REFERENCE_RETURN: ports and links retrain; offsets are measured again as ports come up, and
70.010 stays spoilt until then (R493). -/
def execReferenceReturn (s : State) : Out := .next { s with clock.refPresent := true }

/-- CORE_RAIL_DROOP: the next cycle of the die takes two periods (R518); it counts as stretched for supply. -/
def execCoreRailDroop (d : Fin 8) (s : State) : Out :=
  if !s.clocked ∨ s.power.stopped.contains d.val then .next s
  else
    let add : Bank Nat → Bank Nat := fun b => b.set 0 d.val (Bank.get b 0 d.val + 6400)
    let c := s.clock
    .next { s with clock := { c with droopLeft := add c.droopLeft, stretchAcc := add c.stretchAcc,
                                     supplyStretch := add c.supplyStretch } }

/-! ### Temperature -/

/-- The object and index of a sensor (Table 16.5), and its SOURCE (Table 14.6); a stack is named by its die. -/
def sensorObject : Sensor → Nat × Nat
  | .die d => (0x20010, d.val)
  | .stack h => (0x20011, h.val)
  | .iod i => (0x20012, i.val)
  | .kiln k => (0x20013, k.val)
  | .inlet => (0x20000, 0)
  | .flow => (0x20002, 0)

def sensorSource : Sensor → Nat
  | .die d => source 1 d.val
  | .stack h => source 1 (h.val / 2)
  | .iod i => source 8 i.val
  | .kiln k => source 5 k.val
  | .inlet => source 0 0
  | .flow => source 0 0

/-- Throttle or warning level, in m°C, or mL/min for the flow. -/
def State.warnLevel (s : State) : Sensor → Int
  | .die _ => 95000
  | .stack _ => 95000
  | .iod _ => 100000
  | .kiln _ => 100000
  | .inlet => (s.obj 0x20020 0 : Int)
  | .flow => (s.obj 0x20021 0 : Int)

/-- The sensor is beyond its throttle or warning level. -/
def State.beyond (s : State) (x : Sensor) (v : Int) : Bool :=
  if x = .flow then decide (v < s.warnLevel x) else decide (s.warnLevel x < v)

/-- The sensor is back behind that level. -/
def State.behind (s : State) (x : Sensor) (v : Int) : Bool :=
  if x = .flow then decide (s.warnLevel x ≤ v) else decide (v < s.warnLevel x)

/-- A reading: the sensor's object takes it. -/
def State.readSensor (s : State) (x : Sensor) (v : Int) : State :=
  s.setObj (sensorObject x).1 (sensorObject x).2 (BitVec.ofInt 32 v).toNat

def sensorPayload (x : Sensor) (v : Int) : Bytes :=
  leBytes 128 (packFields [(32, (sensorObject x).1), (16, (sensorObject x).2), (32, (BitVec.ofInt 32 v).toNat)])

/-- THERMAL_WARN or THERMAL_CLEAR. -/
def State.postThermal (s : State) (type : Nat) (x : Sensor) (v : Int) : State :=
  s.caskPost type (sensorSource x) (sensorPayload x v)

/-- State 2 of 20.003: the inlet or the flow outside its warning level. -/
def warned (l : List Sensor) : Bool := l.contains .inlet || l.contains .flow

/-- A crossing of a throttle or warning level. -/
def State.crossUp (s : State) (x : Sensor) (v : Int) : State :=
  if s.power.hot.contains x then s
  else
    let l := s.power.hot ++ [x]
    let s := if warned l && !warned s.power.hot then s.bump 0x20101 0 else s
    (({ s with power.hot := l } : State).postThermal 0x0201 x v).notice 3 (sensorObject x).1

/-- The die of a sensor that throttles, and the change of its request. -/
def Power.throttle (p : Power) (x : Sensor) (f : Nat → Nat) : Power :=
  match x with
  | .die d => { p with mDie := p.mDie.set 64 d.val (f (Bank.get p.mDie 64 d.val)) }
  | .stack h => { p with mStack := p.mStack.set 64 h.val (f (Bank.get p.mStack 64 h.val)) }
  | _ => p

/-- m in force follows a lower request at once. -/
def Power.follow (p : Power) (x : Sensor) : Power :=
  match x with
  | .die d => { p with m := p.m.set 64 d.val (min (Bank.get p.m 64 d.val) (p.thermalM d.val)) }
  | .stack h => { p with m := p.m.set 64 (h.val / 2) (min (Bank.get p.m 64 (h.val / 2)) (p.thermalM (h.val / 2))) }
  | _ => p

/-- THERMAL_THROTTLE: a sensor beyond its level, every 10 µs. -/
def execThermalThrottle (x : Sensor) (mC : Int) (s : State) : Out :=
  if !s.serves ∨ !s.beyond x mC then .next s
  else
    let s := (s.readSensor x mC).crossUp x mC
    .next { s with power := (s.power.throttle x (fun m => max 16 (m - 1))).follow x }

/-- THERMAL_RECOVER: a sensor back behind its level; at 3 °C below a throttle level m rises, every 100 µs. -/
def execThermalRecover (x : Sensor) (mC : Int) (s : State) : Out :=
  if !s.serves ∨ !s.behind x mC then .next s
  else
    let s := s.readSensor x mC
    let s := if s.power.hot.contains x then
        ({ s with power.hot := s.power.hot.filter (· ≠ x) } : State).postThermal 0x0202 x mC else s
    .next (if mC ≤ s.warnLevel x - 3000 then { s with power := s.power.throttle x (fun m => min 64 (m + 1)) } else s)

/-- DIE_STOP: at its stop level a die stops its clock; it will restart at m = 16. -/
def execDieStop (d : Fin 8) (s : State) : Out :=
  if !s.clocked then .next s
  else
    let p := s.power
    .next { s with power := { p with stopped := insertNat d.val p.stopped, m := p.m.set 64 d.val 16 } }

/-- DIE_RESUME: at its resume level. -/
def execDieResume (d : Fin 8) (s : State) : Out :=
  if !s.power.stopped.contains d.val then .next s
  else
    let p := s.power
    .next { s with power := { p with stopped := eraseNat d.val p.stopped, m := p.m.set 64 d.val 16,
                                     mDie := p.mDie.set 64 d.val 16 } }

/-! ### Cables (R535) -/

/-- The key of a connector, and the fabric ports that it carries. -/
def connKey : Conn → Nat
  | .up => 0
  | .down => 1
  | .fab j => 2 + j.val

/-- The lanes of a connector go down: its ports, or its link. In module-local mode the Pace does not mind (R95). -/
def State.connDown (s : State) (c : Conn) : State :=
  match c with
  | .fab j =>
    let down : State → Nat → State := fun t i => (t.portDown (8 * j.val + i) 0).putPort (8 * j.val + i) {}
    ((List.range 8).foldl down s).noteFabric
  | .up =>
    let s := { s with conv.upNbr := {} }
    if s.conv.span.n ≠ 1 ∧ s.conv.state = .halted then s.breakSpan 0 else s
  | .down =>
    let s := { s with conv.downNbr := {} }
    if s.conv.span.n ≠ 1 ∧ s.conv.state = .halted then s.breakSpan 0 else s

/-- The lanes of a connector begin to train. -/
def State.connTrain (s : State) (c : Conn) : State :=
  match c with
  | .fab j =>
    let go : State → Nat → State := fun t i =>
      let p := 8 * j.val + i
      if p < t.topoPorts ∧ (t.port p).state = 0 then t.putPort p { state := 1 } else t
    if s.clocked then ((List.range 8).foldl go s).noteFabric else s
  | _ => s

def State.putCable (s : State) (c : Conn) (x : Cable) : State :=
  { s with pins.cables := s.pins.cables.set {} (connKey c) x }

/-- CABLE_INSERT: the supply decision, then training. -/
def execCableInsert (c : Conn) (readable active : Bool) (s : State) : Out :=
  if (s.pins.cables.get {} (connKey c)).present then .next s
  else
    let on := readable && active
    .next ((s.putCable c { present := true, active := on, supply := on, lanesUp := true }).connTrain c)

/-- CABLE_OVERCURRENT: CBL_3V3 is switched off, and the lanes stay down until the cable has been out. -/
def execCableOvercurrent (c : Conn) (s : State) : Out :=
  let x := s.pins.cables.get {} (connKey c)
  if !x.supply then .next s
  else .next ((s.putCable c { x with supply := false, overcurrent := true, lanesUp := false }).connDown c)

/-- CABLE_REMOVE. -/
def execCableRemove (c : Conn) (s : State) : Out :=
  if (s.pins.cables.get {} (connKey c)).present then .next ((s.putCable c {}).connDown c) else .next s

/-- PRESENT_N_HIGH: the module takes no action (R542). -/
def execPresentNHigh (s : State) : Out := .next { s with pins.presentN := true }

end Sys2Proof.Machine
end

