-- ==== Sys2Proof/Machine/Registers.lean ====
section
/-!
DEFINITION. REGISTER_WRITE: a write to a register that has no behaviour of its own acts by its access code (R10): the
arbiter's priority registers (R43), objects of the dictionary, the admin block of a function (Table 12.3), and the bits of
Table 12.17 and of the pending bitmap that a 1 clears.
-/

namespace Sys2Proof.Machine

/-- R10 for an object: RO and ROS ignore the write; RW and WO take it; RWG and WOG ask for a tag, which a plain write does
not carry, and count it once a key is provisioned (R448). A value outside the object's range changes nothing (R438). A value
of A0.010 is a whole image, in one segment (R456). -/
def State.writeObject (s : State) (o i v : Nat) : State :=
  match s.objInfo o with
  | none => s
  | some x =>
    if !s.serves || x.acc == .ro || (s.recovering && o != 0xA0010) then s
    else if o = 0xA0010 then
      (if x.indexOk o i then (s.loadSegment 0 0 (leBytes ((v.log2 + 8) / 8) v) true).2 else s)
    else if keyStateOn s && (x.acc == .rwg || x.acc == .wog) then s.bump 0x90020 0
    else if s.objAccepts o i && x.indexOk o i && decide (v < 256 ^ x.size) then (s.applyWrite o i v).2
    else s

/-- A register of the admin block of a function; size codes beyond R402 and Table 12.11 are ignored. -/
def State.writeAdmin (s : State) (v : Nat) (r : AdminReg) (x : Nat) : State :=
  let ring := s.host.adminRing.get {} v
  let evt := s.host.adminEvent.get {} v
  if !s.hasVi v || !s.barOpen then s
  else match r with
    | .ringBase => { s with host.adminRing := s.host.adminRing.put v { ring with base := x % 2 ^ 64 } }
    | .ringSize => if 10 < x then s else { s with host.adminRing := s.host.adminRing.put v { ring with size := x } }
    | .eventBase => { s with host.adminEvent := s.host.adminEvent.put v { evt with base := x % 2 ^ 64 } }
    | .eventSize => if 8 < x then s else { s with host.adminEvent := s.host.adminEvent.put v { evt with size := 256 * 2 ^ x } }
    | .vector => { s with host.adminVector := s.host.adminVector.put v (x % 4096) }

/-- W1C: TX_OVERFLOW is bit 16 and RX_UNDERFLOW bit 17 of the status register of a channel. -/
def State.clearMailStatus (s : State) (master ch v : Nat) : State :=
  let keep : List (Nat × Nat) → List (Nat × Nat) := fun l => l.filter (fun x => x != (ch, master))
  if !s.mailReaches master then s
  else { s with host.txOverflow := if bit v 16 then keep s.host.txOverflow else s.host.txOverflow,
                host.rxUnderflow := if bit v 17 then keep s.host.rxUnderflow else s.host.rxUnderflow }

/-- W1C: the pending bitmap of a function. -/
def State.clearMailPending (s : State) (f v : Nat) : State :=
  if !s.barOpen then s
  else { s with host.mailPending := s.host.mailPending.filter (fun x => !(x.1 == f && bit v x.2)) }

/-- REGISTER_WRITE. Registers of the dies and the dictionary are not reached through a virtual function. -/
def execRegisterWrite (r : RegRef) (viaVf : Bool) (value : Nat) (cycle : Nat) (s : State) : Out :=
  match r with
  | .priority die c j => .next (if viaVf then s else s.writePriority die.val c j value cycle)
  | .object o i => .next (if viaVf then s else s.writeObject o i value)
  | .admin v x => .next (s.writeAdmin v.val x value)
  | .mailStatus m ch => .next (s.clearMailStatus m.toNat ch.val value)
  | .mailPending v => .next (s.clearMailPending v.val value)

end Sys2Proof.Machine
end

