-- ==== Sys2Proof/Machine/Startup.lean ====
section
/-!
DEFINITION. How the module loses power, is reset and starts (R480, R481, R510, R523, R524, R526 to R529, R538, R441, R450 to
R452, R459, R460, R487, R291, R464): what each of them keeps, and the rows of Table 16.7.
-/

namespace Sys2Proof.Machine

/-! ### What is kept (Tables 14.4 and 16.6) -/

/-- The timestamp and the reference; cycle counters start anew. -/
def Clock.kept (c : Clock) : Clock :=
  { refCycles := c.refCycles, oscNs := c.oscNs, stepNs := c.stepNs, refPresent := c.refPresent }

/-- The input, what holds the module, and brown-hold, which start-up goes on in (R529). -/
def Power.kept (p : Power) : Power :=
  { inputMv := p.inputMv, hold := p.hold, brown := p.brown, brownSince := p.brownSince, brownMin := p.brownMin }

/-- The boot flash (R440), with the page budget, and what lies in ROM. -/
def Mgmt.flash (m : Mgmt) : Mgmt :=
  let fw : Firmware := { slotA := m.fw.slotA, slotB := m.fw.slotB }
  { store := m.store, pages := m.pages, pageSeq := m.pageSeq, pageNext := m.pageNext, keyStore := m.keyStore, helper := m.helper,
    idDigest := m.idDigest, signers := m.signers, pageBudget := m.pageBudget, pageDebt := m.pageDebt, fw := fw }

/-- The record memory and the postings that wait for their commit. -/
def Cask.kept (c : Cask) : Cask :=
  { records := c.records, torn := c.torn, nextSeq := c.nextSeq, queue := c.queue, dropped := c.dropped, lastPost := c.lastPost }

/-- Everything outside the Maltster's domain is lost: memories, dies, conveyors, steps, fabric and host objects. Which clusters
were absent or pending retirement is known at the next start-up, for their swap (R467; log entry 132). -/
def State.stripped (s : State) : State :=
  { pending := s.pending, free := s.free, clock := s.clock, power := s.power, pins := s.pins, boot := s.boot, mgmt := s.mgmt,
    cask := s.cask,
    health := { repair := s.health.repair, absent := s.health.absent, pendingRetire := s.health.pendingRetire } }

/-- A reset of Table 16.6 other than power-on: the Maltster restarts from ROM. -/
def State.restarted (s : State) (cause : Nat) : State :=
  ({ s.stripped with clock := s.clock.kept, power := s.power.kept, boot := {}, mgmt := s.mgmt.flash, cask := s.cask.kept } : State).setObj
    0x00011 0 cause

/-- The Maltster's domain loses power: postings that were not committed go, and the timestamp with them. -/
def State.powerOff (s : State) (hold : HoldState) : State :=
  let cask : Cask := { records := s.cask.records, torn := s.cask.torn, nextSeq := s.cask.nextSeq }
  { s.stripped with clock := { refPresent := s.clock.refPresent }, power := { inputMv := s.power.inputMv, hold := hold },
                    boot := {}, mgmt := s.mgmt.flash, cask := cask }

/-! ### Power loss (R480, R481, R510) -/

/-- The sequence of Table 14.3: POWER_LOSS is posted, further postings are refused, a journal write in progress is abandoned. -/
def State.powerDown (s : State) (hold : HoldState) (mv watts : Nat) : State :=
  let n := sumNat (s.cask.pairs.map (·.count))
  let s := s.caskPost 0x0002 (source 0 0) (leBytes 128 (packFields [(32, mv), (32, watts), (32, n)]))
  { s.stripped with clock := s.clock.kept, power := { inputMv := mv, hold := hold, onHoldUp := true }, boot := {},
                    mgmt := { s.mgmt with journal := none, queue := [] } }

/-- The module has power and is not held for it. -/
def State.running (s : State) : Bool := s.power.hold == .none || s.power.hold == .tripped

/-- POWER_LOSS: the input falls below V_RESET. -/
def execPowerLoss (mv watts : Nat) (s : State) : Out :=
  .next (if s.running ∧ mv < s.obj 0x10011 0 then s.powerDown .powerLoss mv watts else s)

/-- OVERVOLTAGE: at or above 62 V for 10 µs. -/
def execOvervoltage (mv watts : Nat) (s : State) : Out :=
  .next (if s.running ∧ 62000 ≤ mv then s.powerDown .overvoltage mv watts else s)

/-- OVERVOLTAGE_RELEASE: below 60 V for 1 ms. The module no longer holds itself; POWER_RETURN starts it. -/
def execOvervoltageRelease (s : State) : Out :=
  .next (if s.power.hold = .overvoltage then s.powerOff .off else s)

/-- HOLD_UP_ENERGY_EXHAUSTED. -/
def execHoldUpEnergyExhausted (s : State) : Out :=
  .next (if !s.power.onHoldUp then s else s.powerOff (if s.power.hold = .overvoltage then .overvoltage else .off))

/-- POWER_RETURN: above V_RESUME for 1 ms; the Maltster leaves reset with RESET_CAUSE 0. -/
def execPowerReturn (s : State) : Out :=
  .next (if s.power.hold = .powerLoss ∨ s.power.hold = .off then s.powerOff .none else s)

/-! ### Trips (R523) -/

/-- The trip condition of a sensor (Table 16.5). -/
def tripping : Sensor → Int → Bool
  | .die _, v => decide (115000 ≤ v)
  | .stack _, v => decide (105000 ≤ v)
  | .iod _, v => decide (115000 ≤ v)
  | .kiln _, v => decide (115000 ≤ v)
  | .inlet, _ => false
  | .flow, v => decide (v < 1000)

/-- THERMAL_TRIP: the steps of Table 14.3, but the Maltster's domain goes on; THERMAL_WARN in place of POWER_LOSS. -/
def execThermalTrip (x : Sensor) (mC : Int) (s : State) : Out :=
  if s.power.hold ≠ .none ∨ !tripping x mC then .next s
  else
    let s := (s.readSensor x mC).postThermal 0x0201 x mC
    let b := { s.boot with memoryActive := false, adminServed := false }
    .next (({ s.stripped with power := { s.power.kept with hold := .tripped, trippedBy := some x }, boot := b } : State).setObj 0x50000 0 0)

/-- TRIP_SENSORS_BELOW_THROTTLE: PERST_N has been asserted and released since, and every sensor lies below its level. -/
def execTripSensorsBelowThrottle (s : State) : Out :=
  .next (if s.power.hold = .tripped ∧ s.power.trippedBy = none ∧ s.pins.perstN then { s with power.hold := .none } else s)

/-! ### The power-up of Table 16.7 -/

/-- t0: SLOT_ID is sampled (R538). -/
def State.sampleSlot (s : State) : State :=
  let n := s.pins.slotId.toNat
  let s := s.setObj 0x00005 0 n
  if s.mgmt.plcaWritten then s else s.setObj 0x00020 0 (1 + n % 16)

/-- t0 to t0 + 25 ms: the rails ramp, and the arithmetic clocks start at m = 64, or lower under FORCE_SAFE_N and in brown-hold. -/
def State.powerUp (s : State) : State :=
  let s := s.sampleSlot
  let low := s.boot.slowStart || !s.pins.forceSafeN
  let p := { s.power with forceSafe := low }
  let p := p.stretchAll (min (if low then 16 else 64) (if p.brown then 32 else 64))
  { s with power := p, boot.phase := .ramped }

/-- PERST_N_ASSERT: the sequence starts again at P0 (R524, R529). -/
def execPerstNAssert (s : State) : Out :=
  if !s.pins.perstN then .next s
  else
    let t : State := { s with pins.perstN := false }
    .next (if s.running then t.restarted 1 else t)

/-- PERST_N_RELEASE: t0, if the Maltster's phase has ended. -/
def execPerstNRelease (slotId : BitVec 6) (slowStart : Bool) (s : State) : Out :=
  if s.pins.perstN then .next s
  else
    let t : State := { s with pins.perstN := true, pins.slotId := slotId, boot.slowStart := slowStart }
    .next (if s.power.hold ≠ .none then t
      else if s.boot.phase = .image then t.powerUp
      else if s.boot.phase = .recovery then t.sampleSlot
      else t)

/-- HOT_RESET: the host link is up. -/
def execHotReset (s : State) : Out :=
  .next (if s.barOpen ∨ (s.boot.phase = .recovery ∧ s.power.hold = .none) then s.restarted 2 else s)

/-! ### ROM and the Maltster's phase -/

/-- R441, R469: values of readable pages are loaded; unreadable ones leave their defaults, and KEY_STATE at 1 (R450). 00.020
has been written if its page holds it (R443). -/
def State.loadStore (s : State) (unreadable : List Nat) : State :=
  let good := s.mgmt.store.filter (fun x => !unreadable.contains (Config.pageOf x.1).val)
  let load : Bank Nat → Nat × Nat → Bank Nat := fun b x => b.set (objDefault (x.1 / 65536) (x.1 % 65536)) x.1 x.2
  let s := { s with mgmt.store := good, mgmt.dict := good.foldl load s.mgmt.dict,
                    mgmt.plcaWritten := (good.find? (okey 0x00020 0)).isSome }
  let s := if unreadable.contains (Config.pageOf (okey 0x90000 0)).val then s.setKept 0x90000 0 1 else s
  if unreadable.contains Config.repairPage.val then s.keepRepair {} else s

/-- DICT_DEFAULT for each page that could not be read: the page and its first object. -/
def State.postDefaults (old : Bank Nat) (s : State) (page : Nat) : State :=
  let first := (List.find? (fun (x : Nat × Nat) => (Config.pageOf x.1).val == page) old).elim 0 (fun x => x.1 / 65536)
  s.caskPost 0x0701 (source 12 0) (leBytes 128 (packFields [(16, page), (32, first)]))

/-- R487: START, the first record of a start-up. A header that check 1 rejects gives version 0. -/
def State.postStart (s : State) : State :=
  let b := s.mgmt.fw.slot s.activeSlot
  s.caskPost 0x0001 (source 0 0) (leBytes 128 (packFields [(32, s.obj 0x00010 0), (8, s.obj 0x00011 0), (8, s.activeSlot),
    (32, if imageFramed b then imageVersion b else 0), (32, s.obj 0xA0005 0)])) 2

/-- R451, R452: the identity is derived from what the SRAM held and the helper data; the key store opens when the digest of
the public key is the one in flash. -/
def State.deriveIdentity (s : State) (sram : Bytes) : State :=
  let seed := Config.pufSeed sram s.mgmt.helper
  let key := Config.mlDsaKey seed
  let digest := Config.sha3 (leBytes 1312 key.toNat)
  let s := { s with mgmt.seed := seed, mgmt.idKey := key }
  if digest = s.mgmt.idDigest then ({ s with mgmt.keys := s.mgmt.keyStore } : State).setObj 0x00030 0 1
  else (s.setObj 0x00030 0 2).caskPost 0x0803 (source 0 0) (leBytes 128 (digest.toNat % 2 ^ 64))

/-- The image that ROM starts, in the first code bank. -/
def State.runImage (s : State) (b : Bytes) : State :=
  { s with mgmt.fw := { s.mgmt.fw with bank0 := b, second := false, runs := true }, boot.phase := .image }

/-- R459: the image of ACTIVE_SLOT, else of the other slot, else neither. -/
def State.chooseImage (s : State) : State :=
  let act := s.activeSlot
  let first := s.mgmt.fw.slot act
  let second := s.mgmt.fw.slot (1 - act)
  let a := s.imageReason first
  let b := s.imageReason second
  if a = 0 then s.runImage first
  else if b = 0 then
    let s := ((s.noteReject a).setKept 0xA0006 0 (1 - act)).caskPost 0x0904 (source 12 0) (leBytes 128 (packFields [(8, 1 - act), (8, a)])) 2
    s.runImage second
  else s.noteReject b

/-- ROM_START: `torn` is the position that the search for the head found torn, `sram` what 32 KiB of SRAM held before their
initialisation, `slotA` and `slotB` the bytes of the image slots that read otherwise than written, `unreadable` the pages of
the dictionary store that could not be read. -/
def execRomStart (torn : Option Nat) (sram : Bytes) (slotA slotB : FlashErrors) (unreadable : List Nat) (s : State) : Out :=
  if s.boot.phase ≠ .held ∨ s.power.hold ≠ .none then .next s
  else
    let old := s.mgmt.store
    let b := { s.boot with phase := .rom, startNs := s.now }
    let fw := { s.mgmt.fw with slotA := readSlot s.mgmt.fw.slotA slotA, slotB := readSlot s.mgmt.fw.slotB slotB }
    let s := ({ s with boot := b, mgmt.fw := fw } : State).loadStore unreadable
    let s := (s.setKept 0x00010 0 ((s.obj 0x00010 0 + 1) % 2 ^ 32)).postStart
    let s := match torn with
      | some p => ({ s with cask.torn := true } : State).caskPost 0x0003 (source 0 0) (leBytes 128 p) 2
      | none => s
    let s := unreadable.dedup.foldl (State.postDefaults old) s
    let s := (s.deriveIdentity sram).chooseImage
    if s.boot.phase = .rom then .next s
    else
      let s := s.setKept 0x50002 0 ((s.obj 0x50002 0 + 1) % 256)
      let s := { s with conv.span := spanCfgOf (s.obj 0x30001 0), health.withdrawn := s.health.repair.stations }
      .next (if s.pins.perstN then s.powerUp else s)

/-- RECOVERY_LOADER: neither slot is valid. -/
def execRecoveryLoader (s : State) : Out :=
  if s.boot.phase ≠ .rom then .next s
  else
    let t := ({ s with boot.phase := .recovery } : State).setFwState 3
    .next (if t.pins.perstN then t.sampleSlot else t)

/-- FW_VERIFY_DONE (R455, R460): of the loaded slot, with the bytes that read otherwise than written. -/
def execFwVerifyDone (f : FlashErrors) (s : State) : Out :=
  if s.obj 0xA0011 0 ≠ 2 then .next s
  else
    let s := { s with mgmt.fw := s.mgmt.fw.putSlot s.loadSlot (readSlot s.staged f) }
    .next (if s.recovering ∧ s.imageReason s.staged = 0 then (s.recovered s.staged).restarted 3 else s.verified s.staged)

/-! ### Training and self test -/

/-- The rate at which a stack trained: 9.6 or 8.0 Gb/s per pin, or neither. HBM_RATE is written below 9.6. -/
def State.trainStack (rates : Bank Nat) (s : State) (h : Nat) : State :=
  let r := rates.get 9600 h
  let rate := if r = 9600 then 9600 else if r = 8000 then 8000 else 0
  let s := s.setObj 0x40001 h rate
  if rate = 9600 then s else s.caskPost 0x0401 (source 1 (h / 2)) (leBytes 128 (packFields [(8, h), (16, rate)]))

/-- R315: the rate at which a package trained, 9,600 or 8,533 MT/s. -/
def State.trainPackage (slow : List Nat) (s : State) (q : Nat) : State :=
  s.setObj 0x40002 q (if slow.contains q then 8533 else 9600)

/-- R469: listed packages run on reconstruction, listed pseudo-channels have failed, maps start from the listed ones. -/
def State.applyRepairs (s : State) : State :=
  let r := s.health.repair
  let s := r.packages.foldl (fun t q => (t.putLp q { failed := true }).setObj 0x40134 q 1) s
  let s := r.channels.foldl (fun t p => t.putPchan p { failed := true }) s
  r.maps.foldl (fun t x => t.setObj 0x40020 x.1 x.2) s

/-- TRAINING_DONE: the host port, the fabric ports, the stacks and the packages. -/
def execTrainingDone (t : SelfTest) (s : State) : Out :=
  if s.boot.phase ≠ .ramped ∨ s.power.hold ≠ .none then .next s
  else
    let s := ((List.range 16).foldl (State.trainStack t.hbmRate) s.applyRepairs)
    let s := (List.range 32).foldl (State.trainPackage t.lpSlow) s
    let new := t.failedPackages.dedup.filter (fun q => decide (q < 32) && !s.health.repair.packages.contains q)
    let s := (new.foldl (fun u q => u.failLp q 0) s).retrainAll
    .next { s with boot.phase := .trained, mem.startTrained := s.now, mem.startMc := t.stackMc,
                   mem.pchan := s.mem.pchan.map (fun x => (x.1, { x.2 with trained := none })) }

/-- The failed pseudo-channels of a stack: those that the test found and those of the repair list, ascending. -/
def State.failedOf (s : State) (t : SelfTest) (h : Nat) : List Nat :=
  (List.range 64).map (fun i => 64 * h + i) |>.filter (fun p =>
    t.failedChannels.contains p || s.health.repair.channels.contains p)

/-- R527: a package pair, 2i and 2i + 1, that has failed as a whole. -/
def State.pairFailed (s : State) : Bool := (List.range 16).any (fun i => (s.lp (2 * i)).failed && (s.lp (2 * i + 1)).failed)

/-- R527: the self test stops start-up. -/
def State.testStops (s : State) (t : SelfTest) : Bool :=
  t.silentDie.isSome || s.pairFailed
    || (List.range 16).any (fun h => s.obj 0x40001 h == 0 || decide (2 < (s.failedOf t h).length))

/-- The records of a stop that no row before has written. -/
def State.postStops (s : State) (t : SelfTest) : State :=
  let s := (List.range 16).foldl (fun u h => match (s.failedOf t h)[2]? with
    | some p => u.caskPost 0x0405 (source 3 p) (leBytes 128 p)
    | none => u) s
  match t.silentDie with
  | some d => s.caskPost 0x0605 (source 1 d) []
  | none => s

/-- R291: a pseudo-channel that failed the test, or that is listed as failed, leaves the map, a good spare of its stack takes
its place. -/
def State.mapOut (t : SelfTest) (s : State) (p : Nat) : State :=
  let h := p / 64
  let map := s.obj 0x40020 h
  let good := (s.freeSpares h).filter (fun i => !(s.failedOf t h).contains (64 * h + i))
  let map := match s.mappedTo p, good with
    | some c, x :: _ => switchMap map c x
    | _, _ => if fld map 496 8 = p % 64 then setFld map 496 8 0xFF else if fld map 504 8 = p % 64 then setFld map 504 8 0xFF else map
  let s := (s.setObj 0x40020 h map).putPchan p { failed := true }
  let r : RepairList := { s.health.repair with channels := insertNat p s.health.repair.channels, maps := s.health.repair.maps.put h map }
  if r = s.health.repair then s else s.keepRepair r

/-- R464: the table of a die: eight of the clusters that pass for each station that is not withdrawn, in ascending order. -/
def sparingOf (d : Nat) (skip withdrawn : List Nat) : Bank (List Nat) :=
  let good := (List.range 136).map (fun i => 136 * d + i) |>.filter (fun cl => !skip.contains cl)
  let live := (List.range 16).map (fun i => 16 * d + i) |>.filter (fun st => !withdrawn.contains st)
  (List.range 16).map (fun i =>
    let st := 16 * d + i
    (st, if live.contains st then (good.drop (8 * live.idxOf st)).take 8 else []))

/-- A cluster that the test failed and that is not listed yet: listed now; its place at a station is taken by another. -/
def State.noteFailed (d : Nat) (before : Bank (List Nat)) (s : State) (cl : Nat) : State :=
  let s := s.keepRepair { s.health.repair with clusters := insertNat cl s.health.repair.clusters }
  let s := if 1 < s.obj 0x00010 0 then s.caskPost 0x0601 (clusterSource cl) (leBytes 128 0) else s
  match List.find? (fun (x : Nat × List Nat) => x.2.contains cl) before with
  | none => s
  | some x =>
    let now := s.stationClusters x.1
    if now.length < 8 then s
    else s.caskPost 0x0603 (clusterSource cl) (leBytes 128 (packFields [(8, (now.getLast?.getD 0) - 136 * d), (8, x.1)]))

/-- The sparing table of one die is set; clusters that were absent or pending retirement when the module stopped are swapped
(R467); stations without eight clusters are withdrawn (R464, R468). -/
def State.spareDie (t : SelfTest) (s : State) (d : Nat) : State :=
  let r := s.health.repair
  let failed := (t.failedClusters.dedup.filter (fun cl => decide (cl / 136 = d) && !r.clusters.contains cl)).mergeSort (· ≤ ·)
  let skip := failed ++ r.clusters
  let before := sparingOf d r.clusters r.stations
  let after := sparingOf d skip r.stations
  let s := { s with health.sparing := after.foldl (fun (b : Bank (List Nat)) (x : Nat × List Nat) => Bank.put b x.1 x.2) s.health.sparing,
                    health.failedTest := s.health.failedTest ++ failed }
  let gone := (r.stations.filter (fun st => decide (st / 16 = d))).length
  let s := (s.setObj 0x00006 d (128 - 8 * gone)).noteSpares d
  let s := failed.foldl (State.noteFailed d before) s
  let due := ((s.health.absent ++ s.health.pendingRetire).dedup.filter (fun cl => decide (cl / 136 = d))).mergeSort (· ≤ ·)
  let s := due.foldl State.swapOne s
  ((List.range 16).map (fun i => 16 * d + i)).foldl (fun u st => if u.shortStation st then u.withdraw st else u) s

/-- SELF_TEST_DONE: start-up stops, or the tables are set, Memory_Active is 1 and the admin queues are served. -/
def execSelfTestDone (t : SelfTest) (s : State) : Out :=
  if s.boot.phase ≠ .trained ∨ s.power.hold ≠ .none then .next s
  else if s.testStops t then .next { s.postStops t with boot.phase := .stopped }
  else
    let new := ((t.failedChannels ++ s.health.repair.channels).dedup.filter (fun p => decide (p < 1024))).mergeSort (· ≤ ·)
    let s := new.foldl (State.mapOut t) s
    let s := (List.range 8).foldl (State.spareDie t) s
    .next { s with boot.phase := .tested, boot.memoryActive := true, boot.adminServed := true }

/-- CONVEYOR_START: Pace lock behind four training revolutions, or, in span mode, the forming of the span (R526). -/
def execConveyorStart (s : State) : Out :=
  if s.boot.phase ≠ .tested ∨ s.power.hold ≠ .none then .next s
  else
    let one := s.conv.span.n = 1
    let c : Conv := { span := s.conv.span, state := if one then .running else .forming, locked := one, m := s.convClock }
    .next (({ s with conv := c, boot.phase := .started } : State).freshMarkers 0)

end Sys2Proof.Machine
end

