-- ==== Sys2Proof/Machine/Steps.lean ====
section
/-!
DEFINITION. The commands of the step sequence and of evaluation windows (R341 to R346, R354; R22, R23, R30, R31).
-/

namespace Sys2Proof.Machine

/-- R341: the participants of a step: the contexts that had a return program loaded as its first STEP_OPEN was submitted. -/
def State.participantsOf (s : State) (st : BitVec 32) : List Nat :=
  (s.steps.submitted.find? st.toNat).getD s.participantsNow

/-- A STEP_OPEN that R343 does not allow: no update map, another number, a context that does not take part or has
already submitted. -/
def State.badOpen (s : State) (k : Nat) (st : BitVec 32) : Bool :=
  let has := (s.ctx? k).any (fun (c : Ctx) => c.nextUpd.isSome || c.upd.any (fun u => !u.unload))
  let who := s.participantsOf st
  !has || st == noStep || s.steps.next.any (fun n => n != st) || !who.contains k || s.steps.reqs.any (fun q => q.ctx == k)

/-- STEP_OPEN joins the opening of a step; it completes when the Kilns have latched. -/
def execStepOpen (r : CmdRef) (s : State) : Out :=
  runCmd 0x28 r (fun c k t =>
    let st := BitVec.ofNat 32 (c.arg 0 32)
    let n := c.arg 32 13
    let table := c.arg 64 48
    if 0 < n ∧ !t.inRange k table (32 * n) .load then t.finish r 5 0
    else if t.badOpen k st then t.illegalCmd r 5
    else
      let q : OpenReq := { ctx := k, step := st, table := table, count := n, cmd := r }
      ({ t with steps.next := some st, steps.participants := t.participantsOf st, steps.reqs := t.steps.reqs ++ [q] } : State).keepBusy r) s

/-- R343: the opening executes. -/
def State.openReady (s : State) : Bool :=
  !s.steps.reqs.isEmpty && s.steps.participants.all (fun k => s.steps.reqs.any (fun q => q.ctx == k))
    && !s.steps.evalWindow && s.steps.evalReq.isEmpty && s.steps.closed.isNone

/-- R344: the read generation of a step that opens now. -/
def Steps.readGen (t : Steps) : BitVec 16 :=
  match t.undecided.getLast? with
  | some x => x.gen + 1
  | none => t.gen

/-- R325: the tables of all participants in one, by context and logical group. -/
def State.latchTables (s : State) : Bank GroupEntry :=
  s.steps.reqs.foldl (fun b q => ((s.readTable q.ctx q.table q.count).mapIdx (fun i e => (i, e))).foldl
    (fun a y => Bank.put a (groupKey q.ctx y.1) y.2) b) []

/-- Invalid entries among those that a participant names (R324). -/
def State.invalidEntries (s : State) (q : OpenReq) : Nat := ((s.readTable q.ctx q.table q.count).filter (·.invalid)).length

/-- Every Kiln keeps two latched tables: that of the step before and the new one. -/
def State.latchAll (s : State) (t : LatchedTable) : State :=
  (List.range 8).foldl (fun u k =>
    let x := u.kilnAt k
    let old := x.tables.filter (fun y => y.step != t.step)
    u.putKiln k { x with tables := old.drop (old.length - 1) ++ [t] }) s

/-- The record of a new live step while lost tiles are not restored (R473, R474). -/
def State.bornStep (s : State) (st : BitVec 32) : LiveStep :=
  { step := st, gen := s.steps.readGen, participants := s.steps.participants,
    poisoned := s.health.lostOverflow || s.health.lostTiles.any (fun x => !s.sharedTile x.1),
    sharedLost := s.health.lostTiles.any (fun x => s.sharedTile x.1) }

/-- One participant: its invalid entries are counted, its command completes. -/
def State.openedFor (s : State) (q : OpenReq) : State :=
  let n := s.invalidEntries q
  (s.bumpBy 0x30161 (ctxVi q.ctx) n).finish q.cmd 0 n

/-- STEP_OPEN_EXECUTE. -/
def execStepOpenExecute (s : State) : Out :=
  match s.steps.next with
  | none => .next s
  | some st =>
    if s.openReady then
      let born := s.bornStep st
      let reqs := s.steps.reqs
      let s := reqs.foldl State.openedFor (s.latchAll { step := st, entries := s.latchTables })
      .next { s with steps.closed := s.steps.open_, steps.open_ := some born, steps.next := some (stepAfter st),
                     steps.reqs := [], steps.participants := [],
                     steps.submitted := s.steps.submitted.erase st.toNat, conv.stepReady := true }
    else .next s

/-- STEP_CLOSE with MODE 0. -/
def execStepClose (r : CmdRef) (s : State) : Out :=
  runCmd 0x29 r (fun c _ t =>
    if c.arg 32 1 = 1 then t
    else match t.steps.open_ with
      | some x => if x.step.toNat = c.arg 0 32 ∧ !x.shut then ({ t with steps.open_ := some { x with shut := true } } : State).finish r 0 0
          else t.illegalCmd r 5
      | none => t.illegalCmd r 5) s

/-- STEP_CLOSE with MODE 1: the abort takes effect at the next pass of slot 1 after collection has opened. -/
def execStepCloseAbort (r : CmdRef) (s : State) : Out :=
  runCmd 0x29 r (fun c _ t =>
    let st := BitVec.ofNat 32 (c.arg 0 32)
    if c.arg 32 1 = 0 then t
    else if t.steps.live.any (fun x => x.step == st) then
      (t.onStep st (fun x => { x with abortPending := x.abortPending ++ [r] })).keepBusy r
    else t.illegalCmd r 5) s

/-- STEP_COMMIT: legal for the latest step with a final verdict, if that is a pass. -/
def execStepCommit (r : CmdRef) (s : State) : Out :=
  runCmd 0x2A r (fun c _ t =>
    let st := BitVec.ofNat 32 (c.arg 0 32)
    match t.steps.lastFinal with
    | some (x, result, _) =>
      if x ≠ st ∨ result ≠ 1 then t.illegalCmd r 5
      else if t.steps.deciding.any (fun y => y.step == st) then
        ({ t with steps.commitWait := t.steps.commitWait ++ [(st, r)] } : State).keepBusy r
      else t.finish r 0 0
    | none => t.illegalCmd r 5) s

/-- EVAL_OPEN: legal only while no step is live and the last decision has taken effect; it completes when the window
starts. -/
def execEvalOpen (r : CmdRef) (s : State) : Out :=
  runCmd 0x2B r (fun _ _ t =>
    if !t.steps.undecided.isEmpty ∨ t.steps.evalWindow ∨ !t.steps.evalReq.isEmpty then t.illegalCmd r 5
    else ({ t with steps.evalReq := [r], conv.stepReady := true } : State).keepBusy r) s

/-- The kernels of the window: launches of contexts that have a conveyor program loaded. -/
def State.windowKernels (s : State) : Bool :=
  s.host.launches.any (fun (x : Nat × Launch) => ((s.ctx? x.2.ctx).bind (·.conv)).isSome)

/-- EVAL_CLOSE: it ends the window and completes when every kernel of the window has completed. -/
def execEvalClose (r : CmdRef) (s : State) : Out :=
  runCmd 0x2C r (fun _ _ t =>
    if !t.steps.evalWindow then t.illegalCmd r 5
    else if t.windowKernels then t
    else ({ t with steps.evalWindow := false, steps.evalStart := none } : State).finish r 0 0) s

end Sys2Proof.Machine
end

