-- ==== Sys2Proof/Machine/ThreadFloat.lean ====
section
/-!
DEFINITION. The FP32 and conversion instructions of Table 7.5, R212: IEEE binary32 to nearest even with subnormals; FRCP
to FTANH correctly rounded with NaN results 0x7FC0_0000; conversions by R190 and R191.
-/

namespace Sys2Proof.Machine

/-- A NaN result of FADD to FCMP: quiet, with sign and payload left open by IEEE binary32. -/
def openNan (opc : Nat) (a b c : Word) : Word := 0x7FC00000#32 ||| (Config.nanBits opc a b c &&& 0x803FFFFF#32)

def fpAdd (opc : Nat) (a b : Word) : Word := roundVal (openNan opc a b 0) (addVal (val32 a) (val32 b))
def fpSub (opc : Nat) (a b : Word) : Word := roundVal (openNan opc a b 0) (addVal (val32 a) (val32 (negWord b)))
def fpMul (opc : Nat) (a b : Word) : Word := roundVal (openNan opc a b 0) (mulVal (val32 a) (val32 b))
def fpFma (opc : Nat) (a b c : Word) : Word := roundVal (openNan opc a b c) (fmaVal a b c)

/-- FMIN and FMAX of two numbers; IEEE binary32 leaves a NaN operand and zeros of unlike signs open. -/
def fpMin (opc : Nat) (a b : Word) : Word :=
  if isNan32 a || isNan32 b then Config.minMaxOpen opc a b
  else if isZero32 a && isZero32 b && a ≠ b then f32Zero ((Config.minMaxOpen opc a b).getLsbD 31)
  else min32 a b
def fpMax (opc : Nat) (a b : Word) : Word :=
  if isNan32 a || isNan32 b then Config.minMaxOpen opc a b
  else if isZero32 a && isZero32 b && a ≠ b then f32Zero ((Config.minMaxOpen opc a b).getLsbD 31)
  else max32 a b

/-- FRSQ: NaN below 0; no value is stated at ±0. -/
def fpRsq (opc : Nat) (a : Word) : Word :=
  match val32 a with
  | .nan => f32Nan
  | .inf n => if n then f32Nan else 0#32
  | .fin n m e => if m = 0 then Config.resultOpen opc a 0 else if n then f32Nan else roundVal f32Nan (rsqrtFin m e)

/-- FLOG2: NaN below 0; no value is stated at ±0. -/
def fpLog2 (opc : Nat) (a : Word) : Word :=
  match val32 a with
  | .nan => f32Nan
  | .inf n => if n then f32Nan else f32Inf false
  | .fin n m e => if m = 0 then Config.resultOpen opc a 0 else if n then f32Nan else roundVal f32Nan (log2Fn m e)

/-- A function of Float.lean of one operand. -/
def fpFn (f : Val → Val) (a : Word) : Word := roundVal f32Nan (f (val32 a))

def execFadd (g : Gid) (w : BitVec 64) (s : State) : Out := aluInstr 0x20 2 (fun a b _ => fpAdd (opcOf w) a b) g w s
def execFsub (g : Gid) (w : BitVec 64) (s : State) : Out := aluInstr 0x21 2 (fun a b _ => fpSub (opcOf w) a b) g w s
def execFmul (g : Gid) (w : BitVec 64) (s : State) : Out := aluInstr 0x22 2 (fun a b _ => fpMul (opcOf w) a b) g w s
def execFfma (g : Gid) (w : BitVec 64) (s : State) : Out := aluInstr 0x23 3 (fun a b c => fpFma (opcOf w) a b c) g w s
def execFmin (g : Gid) (w : BitVec 64) (s : State) : Out := aluInstr 0x24 2 (fun a b _ => fpMin (opcOf w) a b) g w s
def execFmax (g : Gid) (w : BitVec 64) (s : State) : Out := aluInstr 0x25 2 (fun a b _ => fpMax (opcOf w) a b) g w s
def execFabs (g : Gid) (w : BitVec 64) (s : State) : Out := aluInstr 0x26 1 (fun a _ _ => absWord a) g w s
def execFneg (g : Gid) (w : BitVec 64) (s : State) : Out := aluInstr 0x27 1 (fun a _ _ => negWord a) g w s
def execFcmp (g : Gid) (w : BitVec 64) (s : State) : Out :=
  cmpInstr 0x28 (Config.compare (opcOf w) (modOf w) (w.extractLsb' 20 8)) g w s
def execFrcp (g : Gid) (w : BitVec 64) (s : State) : Out := aluInstr 0x29 1 (fun a _ _ => fpFn rcpVal a) g w s
def execFrsq (g : Gid) (w : BitVec 64) (s : State) : Out := aluInstr 0x2A 1 (fun a _ _ => fpRsq (opcOf w) a) g w s
def execFsqrt (g : Gid) (w : BitVec 64) (s : State) : Out := aluInstr 0x2B 1 (fun a _ _ => fpFn sqrtVal a) g w s
def execFexp2 (g : Gid) (w : BitVec 64) (s : State) : Out := aluInstr 0x2C 1 (fun a _ _ => fpFn exp2Val a) g w s
def execFlog2 (g : Gid) (w : BitVec 64) (s : State) : Out := aluInstr 0x2D 1 (fun a _ _ => fpLog2 (opcOf w) a) g w s
def execFsin (g : Gid) (w : BitVec 64) (s : State) : Out := aluInstr 0x2E 1 (fun a _ _ => fpFn sinVal a) g w s
def execFcos (g : Gid) (w : BitVec 64) (s : State) : Out := aluInstr 0x2F 1 (fun a _ _ => fpFn cosVal a) g w s
def execFtanh (g : Gid) (w : BitVec 64) (s : State) : Out := aluInstr 0x30 1 (fun a _ _ => fpFn tanhVal a) g w s

/-! ### Conversions. Which formats a word selects is left open (`Config.cvtFormats`). -/

/-- The formats that a conversion word selects. -/
def cvtFormats (w : BitVec 64) : Nat × Nat := Config.cvtFormats (opcOf w) (modOf w) (w.extractLsb' 20 8)

/-- The low bits of a register as an element of a format. -/
def elemOfWord (code : Nat) (a : Word) : Val := decodeElem code (a.toNat % 2 ^ elemBits code)

/-- CVT.F2F between floating-point formats of Table 3.3. -/
def cvtFloat (w : BitVec 64) (a : Word) : Word :=
  let f := cvtFormats w
  match fmtOf f.1, fmtOf f.2 with
  | some _, some t => BitVec.ofNat 32 (t.convert (elemOfWord f.1 a)).code
  | _, _ => Config.resultOpen (opcOf w) a 0

/-- CVT.F2I to INT8 or INT4 by R190; to another integer the manual states no rounding. -/
def cvtToInt (w : BitVec 64) (a : Word) : Word :=
  let f := cvtFormats w
  match fmtOf f.1 with
  | some _ =>
    if f.2 = 8 ∨ f.2 = 9 then BitVec.ofNat 32 (convertElem f.2 (elemOfWord f.1 a)).code
    else Config.resultOpen (opcOf w) a 0
  | none => Config.resultOpen (opcOf w) a 0

/-- CVT.I2F: an integer to a floating-point format by R190 (R192, R212). -/
def cvtFromInt (w : BitVec 64) (a : Word) : Word :=
  let f := cvtFormats w
  match fmtOf f.2 with
  | some t =>
    if f.1 = 8 ∨ f.1 = 9 then BitVec.ofNat 32 (t.convert (elemOfWord f.1 a)).code
    else BitVec.ofNat 32 (t.convert (intVal (if signedFor w then a.toInt else a.toNat))).code
  | none => Config.resultOpen (opcOf w) a 0

def execCvtF2f (g : Gid) (w : BitVec 64) (s : State) : Out := aluInstr 0x40 1 (fun a _ _ => cvtFloat w a) g w s
def execCvtF2i (g : Gid) (w : BitVec 64) (s : State) : Out := aluInstr 0x41 1 (fun a _ _ => cvtToInt w a) g w s
def execCvtI2f (g : Gid) (w : BitVec 64) (s : State) : Out := aluInstr 0x42 1 (fun a _ _ => cvtFromInt w a) g w s
/-- PACK and UNPACK: the places of the elements are left open. -/
def execPack (g : Gid) (w : BitVec 64) (s : State) : Out :=
  aluInstr 0x43 2 (fun a b _ => Config.packOpen (opcOf w) (modOf w) (w.extractLsb' 20 8) a b) g w s
def execUnpack (g : Gid) (w : BitVec 64) (s : State) : Out :=
  aluInstr 0x44 1 (fun a _ _ => Config.packOpen (opcOf w) (modOf w) (w.extractLsb' 20 8) a 0) g w s

end Sys2Proof.Machine
end

