-- ==== Sys2Proof/Machine/Dispatch.lean ====
section
/-!
DEFINITION. One arm for every command: a direct call of its meaning, or its rejection by name.
-/

namespace Sys2Proof.Machine

def exec (i : Instr) (s : State) : Host.Outcome State Fault Refusal :=
  match i with
  | .arbiterRequest c inst req beats cycle => Sys2Proof.Machine.execArbiterRequest c inst req beats cycle s
  | .arbiterDecision c inst cycle => Sys2Proof.Machine.execArbiterDecision c inst cycle s
  | .backoffExpire c inst req cycle => Sys2Proof.Machine.execBackoffExpire c inst req cycle s
  | .emergencyPreempt c inst cycle => Sys2Proof.Machine.execEmergencyPreempt c inst cycle s
  | .emergencyEnd c inst cycle => Sys2Proof.Machine.execEmergencyEnd c inst cycle s
  | .arbiterControlWrite die c viaVf value cycle => Sys2Proof.Machine.execArbiterControlWrite die c viaVf value cycle s
  | .registerWrite r viaVf value cycle => Sys2Proof.Machine.execRegisterWrite r viaVf value cycle s
  | .revolutionBoundary => Sys2Proof.Machine.execRevolutionBoundary s
  | .memberMarkerPass crcFail => Sys2Proof.Machine.execMemberMarkerPass crcFail s
  | .markerReturnMaster => Sys2Proof.Machine.execMarkerReturnMaster s
  | .stationMarkerPass st crcFail => Sys2Proof.Machine.execStationMarkerPass st crcFail s
  | .injectorSlotPass j slot crcFail => Sys2Proof.Machine.execInjectorSlotPass j slot crcFail s
  | .stagingReadDone j ctx entry ecc => Sys2Proof.Machine.execStagingReadDone j ctx entry ecc s
  | .kilnRewriteDone k j slot reads => Sys2Proof.Machine.execKilnRewriteDone k j slot reads s
  | .stationClaim st ctx entry fetched => Sys2Proof.Machine.execStationClaim st ctx entry fetched s
  | .stationCapture st slot crcFail => Sys2Proof.Machine.execStationCapture st slot crcFail s
  | .latchCopyDone st ctx entry n => Sys2Proof.Machine.execLatchCopyDone st ctx entry n s
  | .conveyorLoad r => Sys2Proof.Machine.execConveyorLoad r s
  | .conveyorUnload r => Sys2Proof.Machine.execConveyorUnload r s
  | .conveyorHalt r => Sys2Proof.Machine.execConveyorHalt r s
  | .conveyorResume r => Sys2Proof.Machine.execConveyorResume r s
  | .conveyorClockChange m => Sys2Proof.Machine.execConveyorClockChange m s
  | .spanConfigWrite value => Sys2Proof.Machine.execSpanConfigWrite value s
  | .spanNeighbourExchange down spanId index lastCommitted latency10ps => Sys2Proof.Machine.execSpanNeighbourExchange down spanId index lastCommitted latency10ps s
  | .spanIngress slot x => Sys2Proof.Machine.execSpanIngress slot x s
  | .spanStarveTimeout => Sys2Proof.Machine.execSpanStarveTimeout s
  | .markerReturnTimeout => Sys2Proof.Machine.execMarkerReturnTimeout s
  | .haltedLinkLoss down => Sys2Proof.Machine.execHaltedLinkLoss down s
  | .sharedGrantWrite v value => Sys2Proof.Machine.execSharedGrantWrite v value s
  | .gradientInjectorPass k slot crcFail => Sys2Proof.Machine.execGradientInjectorPass k slot crcFail s
  | .contributionDue st ctx entry => Sys2Proof.Machine.execContributionDue st ctx entry s
  | .subtileRead st ctx entry uncorrectable => Sys2Proof.Machine.execSubtileRead st ctx entry uncorrectable s
  | .addWindowPass st slot late bufferUe crcFail => Sys2Proof.Machine.execAddWindowPass st slot late bufferUe crcFail s
  | .returnLoad r => Sys2Proof.Machine.execReturnLoad r s
  | .verdictRecordWrite crcFail => Sys2Proof.Machine.execVerdictRecordWrite crcFail s
  | .verdictSlotRebuild => Sys2Proof.Machine.execVerdictSlotRebuild s
  | .mxIssue g w => Sys2Proof.Machine.execMxIssue g w s
  | .mxHead c => Sys2Proof.Machine.execMxHead c s
  | .weightTimeout c => Sys2Proof.Machine.execWeightTimeout c s
  | .mmaRow c ecc => Sys2Proof.Machine.execMmaRow c ecc s
  | .mmaCol c ecc => Sys2Proof.Machine.execMmaCol c ecc s
  | .loada c => Sys2Proof.Machine.execLoada c s
  | .epi c ecc => Sys2Proof.Machine.execEpi c ecc s
  | .mmaOs c ecc => Sys2Proof.Machine.execMmaOs c ecc s
  | .tieSet c => Sys2Proof.Machine.execTieSet c s
  | .tieClr c => Sys2Proof.Machine.execTieClr c s
  | .localWeightLoad c n => Sys2Proof.Machine.execLocalWeightLoad c n s
  | .epilogueStep c ecc => Sys2Proof.Machine.execEpilogueStep c ecc s
  | .accAdd c => Sys2Proof.Machine.execAccAdd c s
  | .mxCommandComplete c => Sys2Proof.Machine.execMxCommandComplete c s
  | .groupStart launch index => Sys2Proof.Machine.execGroupStart launch index s
  | .kernelStartCore c launch => Sys2Proof.Machine.execKernelStartCore c launch s
  | .clusterStoreClear cluster launch => Sys2Proof.Machine.execClusterStoreClear cluster launch s
  | .iadd g w => Sys2Proof.Machine.execIadd g w s
  | .isub g w => Sys2Proof.Machine.execIsub g w s
  | .imul g w => Sys2Proof.Machine.execImul g w s
  | .imulhi g w => Sys2Proof.Machine.execImulhi g w s
  | .imad g w => Sys2Proof.Machine.execImad g w s
  | .imin g w => Sys2Proof.Machine.execImin g w s
  | .imax g w => Sys2Proof.Machine.execImax g w s
  | .iabs g w => Sys2Proof.Machine.execIabs g w s
  | .and g w => Sys2Proof.Machine.execAnd g w s
  | .or g w => Sys2Proof.Machine.execOr g w s
  | .xor g w => Sys2Proof.Machine.execXor g w s
  | .not g w => Sys2Proof.Machine.execNot g w s
  | .shl g w => Sys2Proof.Machine.execShl g w s
  | .shr g w => Sys2Proof.Machine.execShr g w s
  | .sar g w => Sys2Proof.Machine.execSar g w s
  | .popc g w => Sys2Proof.Machine.execPopc g w s
  | .clz g w => Sys2Proof.Machine.execClz g w s
  | .icmp g w => Sys2Proof.Machine.execIcmp g w s
  | .sel g w => Sys2Proof.Machine.execSel g w s
  | .mov g w => Sys2Proof.Machine.execMov g w s
  | .movi g w => Sys2Proof.Machine.execMovi g w s
  | .idiv g w => Sys2Proof.Machine.execIdiv g w s
  | .irem g w => Sys2Proof.Machine.execIrem g w s
  | .fadd g w => Sys2Proof.Machine.execFadd g w s
  | .fsub g w => Sys2Proof.Machine.execFsub g w s
  | .fmul g w => Sys2Proof.Machine.execFmul g w s
  | .ffma g w => Sys2Proof.Machine.execFfma g w s
  | .fmin g w => Sys2Proof.Machine.execFmin g w s
  | .fmax g w => Sys2Proof.Machine.execFmax g w s
  | .fabs g w => Sys2Proof.Machine.execFabs g w s
  | .fneg g w => Sys2Proof.Machine.execFneg g w s
  | .fcmp g w => Sys2Proof.Machine.execFcmp g w s
  | .frcp g w => Sys2Proof.Machine.execFrcp g w s
  | .frsq g w => Sys2Proof.Machine.execFrsq g w s
  | .fsqrt g w => Sys2Proof.Machine.execFsqrt g w s
  | .fexp2 g w => Sys2Proof.Machine.execFexp2 g w s
  | .flog2 g w => Sys2Proof.Machine.execFlog2 g w s
  | .fsin g w => Sys2Proof.Machine.execFsin g w s
  | .fcos g w => Sys2Proof.Machine.execFcos g w s
  | .ftanh g w => Sys2Proof.Machine.execFtanh g w s
  | .cvtF2f g w => Sys2Proof.Machine.execCvtF2f g w s
  | .cvtF2i g w => Sys2Proof.Machine.execCvtF2i g w s
  | .cvtI2f g w => Sys2Proof.Machine.execCvtI2f g w s
  | .pack g w => Sys2Proof.Machine.execPack g w s
  | .unpack g w => Sys2Proof.Machine.execUnpack g w s
  | .shfl g w => Sys2Proof.Machine.execShfl g w s
  | .vote g w => Sys2Proof.Machine.execVote g w s
  | .movu g w => Sys2Proof.Machine.execMovu g w s
  | .movs g w => Sys2Proof.Machine.execMovs g w s
  | .nop g w => Sys2Proof.Machine.execNop g w s
  | .bra g w => Sys2Proof.Machine.execBra g w s
  | .braAny g w => Sys2Proof.Machine.execBraAny g w s
  | .pushm g w => Sys2Proof.Machine.execPushm g w s
  | .flipm g w => Sys2Proof.Machine.execFlipm g w s
  | .clrm g w => Sys2Proof.Machine.execClrm g w s
  | .popm g w => Sys2Proof.Machine.execPopm g w s
  | .call g w => Sys2Proof.Machine.execCall g w s
  | .ret g w => Sys2Proof.Machine.execRet g w s
  | .exit g w => Sys2Proof.Machine.execExit g w s
  | .groupEnd g => Sys2Proof.Machine.execGroupEnd g s
  | .trap g w => Sys2Proof.Machine.execTrap g w s
  | .illegalInstruction g w => Sys2Proof.Machine.execIllegalInstruction g w s
  | .ld g w ecc => Sys2Proof.Machine.execLd g w ecc s
  | .st g w => Sys2Proof.Machine.execSt g w s
  | .ldNc g w ecc => Sys2Proof.Machine.execLdNc g w ecc s
  | .atom g w => Sys2Proof.Machine.execAtom g w s
  | .mfence g w => Sys2Proof.Machine.execMfence g w s
  | .fenceComplete g => Sys2Proof.Machine.execFenceComplete g s
  | .fenceTimeout g => Sys2Proof.Machine.execFenceTimeout g s
  | .acqG g w => Sys2Proof.Machine.execAcqG g w s
  | .relG g w => Sys2Proof.Machine.execRelG g w s
  | .bar g w => Sys2Proof.Machine.execBar g w s
  | .barrierRelease g => Sys2Proof.Machine.execBarrierRelease g s
  | .mxWait g w => Sys2Proof.Machine.execMxWait g w s
  | .mxTest g w => Sys2Proof.Machine.execMxTest g w s
  | .dmaStart g w => Sys2Proof.Machine.execDmaStart g w s
  | .dmaWait g w => Sys2Proof.Machine.execDmaWait g w s
  | .dmaCopy cluster slot ecc => Sys2Proof.Machine.execDmaCopy cluster slot ecc s
  | .transpose cluster slot ecc => Sys2Proof.Machine.execTranspose cluster slot ecc s
  | .prefetch cluster slot ecc => Sys2Proof.Machine.execPrefetch cluster slot ecc s
  | .zero cluster slot => Sys2Proof.Machine.execZero cluster slot s
  | .dmaTransferComplete cluster slot => Sys2Proof.Machine.execDmaTransferComplete cluster slot s
  | .groupParkAsync g => Sys2Proof.Machine.execGroupParkAsync g s
  | .groupSelfWait g => Sys2Proof.Machine.execGroupSelfWait g s
  | .replayGroup r => Sys2Proof.Machine.execReplayGroup r s
  | .retry g => Sys2Proof.Machine.execRetry g s
  | .skip g => Sys2Proof.Machine.execSkip g s
  | .reissue g => Sys2Proof.Machine.execReissue g s
  | .abort g => Sys2Proof.Machine.execAbort g s
  | .kernelComplete launch => Sys2Proof.Machine.execKernelComplete launch s
  | .specMergeDone cluster => Sys2Proof.Machine.execSpecMergeDone cluster s
  | .specDiscard r => Sys2Proof.Machine.execSpecDiscard r s
  | .hbmParityRetry p req passes cycle => Sys2Proof.Machine.execHbmParityRetry p req passes cycle s
  | .patrolScrubRead p offset result last => Sys2Proof.Machine.execPatrolScrubRead p offset result last s
  | .retrainWindowOpen p cause cycle => Sys2Proof.Machine.execRetrainWindowOpen p cause cycle s
  | .retrainWindowEnd p mC cycle => Sys2Proof.Machine.execRetrainWindowEnd p mC cycle s
  | .retrainTimeout p cycle => Sys2Proof.Machine.execRetrainTimeout p cycle s
  | .migrationSectorCopy h ecc => Sys2Proof.Machine.execMigrationSectorCopy h ecc s
  | .migrationSwitch h cycle => Sys2Proof.Machine.execMigrationSwitch h cycle s
  | .missEntryAlloc cluster p waited => Sys2Proof.Machine.execMissEntryAlloc cluster p waited s
  | .prefetchIssue cluster tracker => Sys2Proof.Machine.execPrefetchIssue cluster tracker s
  | .regulatorCharge v d waitedNs => Sys2Proof.Machine.execRegulatorCharge v d waitedNs s
  | .lpLinkRetry q passes => Sys2Proof.Machine.execLpLinkRetry q passes s
  | .lpRetrainWindow q succeeds => Sys2Proof.Machine.execLpRetrainWindow q succeeds s
  | .kilnTileTakeover k => Sys2Proof.Machine.execKilnTileTakeover k s
  | .kilnUpdateTile k reads => Sys2Proof.Machine.execKilnUpdateTile k reads s
  | .workingCopyWrite k => Sys2Proof.Machine.execWorkingCopyWrite k s
  | .stripeFlushTimeout k => Sys2Proof.Machine.execStripeFlushTimeout k s
  | .stripeWriteDone k reads => Sys2Proof.Machine.execStripeWriteDone k reads s
  | .stepOpen r => Sys2Proof.Machine.execStepOpen r s
  | .stepOpenExecute => Sys2Proof.Machine.execStepOpenExecute s
  | .stepClose r => Sys2Proof.Machine.execStepClose r s
  | .stepCloseAbort r => Sys2Proof.Machine.execStepCloseAbort r s
  | .stepCommit r => Sys2Proof.Machine.execStepCommit r s
  | .evalOpen r => Sys2Proof.Machine.execEvalOpen r s
  | .evalClose r => Sys2Proof.Machine.execEvalClose r s
  | .updateLoad r => Sys2Proof.Machine.execUpdateLoad r s
  | .kilnRead r reads => Sys2Proof.Machine.execKilnRead r reads s
  | .kilnWrite r reads => Sys2Proof.Machine.execKilnWrite r reads s
  | .kilnApply r => Sys2Proof.Machine.execKilnApply r s
  | .fabRead p ecc => Sys2Proof.Machine.execFabRead p ecc s
  | .fabWrite p => Sys2Proof.Machine.execFabWrite p s
  | .fabWriteMask p => Sys2Proof.Machine.execFabWriteMask p s
  | .fabAtomic p ecc => Sys2Proof.Machine.execFabAtomic p ecc s
  | .fabAtomicCont p ecc => Sys2Proof.Machine.execFabAtomicCont p ecc s
  | .fabReadResp p => Sys2Proof.Machine.execFabReadResp p s
  | .fabWriteAck p => Sys2Proof.Machine.execFabWriteAck p s
  | .fabAtomicResp p => Sys2Proof.Machine.execFabAtomicResp p s
  | .fabMgmt p m => Sys2Proof.Machine.execFabMgmt p m s
  | .fabReservedType p => Sys2Proof.Machine.execFabReservedType p s
  | .fabRequestEgress n waitedNs => Sys2Proof.Machine.execFabRequestEgress n waitedNs s
  | .fabTimeout dst cls seq => Sys2Proof.Machine.execFabTimeout dst cls seq s
  | .frameReceive p f crc corrected uncorrectable => Sys2Proof.Machine.execFrameReceive p f crc corrected uncorrectable s
  | .linkAck p lseq => Sys2Proof.Machine.execLinkAck p lseq s
  | .nak p lseq => Sys2Proof.Machine.execNak p lseq s
  | .credit p vc units => Sys2Proof.Machine.execCredit p vc units s
  | .linkReplayTimeout p => Sys2Proof.Machine.execLinkReplayTimeout p s
  | .fabPortDown p resendLimit => Sys2Proof.Machine.execFabPortDown p resendLimit s
  | .fabPortUp p pr => Sys2Proof.Machine.execFabPortUp p pr s
  | .regionKeys r => Sys2Proof.Machine.execRegionKeys r s
  | .regionOpen r => Sys2Proof.Machine.execRegionOpen r s
  | .regionClose r => Sys2Proof.Machine.execRegionClose r s
  | .nodeTopologyWrite topology value => Sys2Proof.Machine.execNodeTopologyWrite topology value s
  | .queueTailDoorbell v q value bytes mem => Sys2Proof.Machine.execQueueTailDoorbell v q value bytes mem s
  | .commandSubmit v q => Sys2Proof.Machine.execCommandSubmit v q s
  | .commandStart r => Sys2Proof.Machine.execCommandStart r s
  | .commandComplete r => Sys2Proof.Machine.execCommandComplete r s
  | .nopCommand r => Sys2Proof.Machine.execNopCommand r s
  | .kernelLoad r => Sys2Proof.Machine.execKernelLoad r s
  | .kernelUnload r => Sys2Proof.Machine.execKernelUnload r s
  | .launch r => Sys2Proof.Machine.execLaunch r s
  | .kernelAbort r => Sys2Proof.Machine.execKernelAbort r s
  | .copy r => Sys2Proof.Machine.execCopy r s
  | .fill r => Sys2Proof.Machine.execFill r s
  | .mapSync r => Sys2Proof.Machine.execMapSync r s
  | .contextCreate r => Sys2Proof.Machine.execContextCreate r s
  | .contextDestroy r => Sys2Proof.Machine.execContextDestroy r s
  | .queueCreate r => Sys2Proof.Machine.execQueueCreate r s
  | .queueDestroy r => Sys2Proof.Machine.execQueueDestroy r s
  | .timelineCreate r => Sys2Proof.Machine.execTimelineCreate r s
  | .timelineDestroy r => Sys2Proof.Machine.execTimelineDestroy r s
  | .setLayout r => Sys2Proof.Machine.execSetLayout r s
  | .memCreate r => Sys2Proof.Machine.execMemCreate r s
  | .memFree r => Sys2Proof.Machine.execMemFree r s
  | .timelineSignal v t value bytes => Sys2Proof.Machine.execTimelineSignal v t value bytes s
  | .eventRingHeadDoorbell v ctx value bytes => Sys2Proof.Machine.execEventRingHeadDoorbell v ctx value bytes s
  | .faultRingHeadDoorbell v ctx value bytes => Sys2Proof.Machine.execFaultRingHeadDoorbell v ctx value bytes s
  | .noticeRingHeadDoorbell v ctx value bytes => Sys2Proof.Machine.execNoticeRingHeadDoorbell v ctx value bytes s
  | .txData master ch word => Sys2Proof.Machine.execTxData master ch word s
  | .rxData master ch => Sys2Proof.Machine.execRxData master ch s
  | .doorbell master ch value => Sys2Proof.Machine.execDoorbell master ch value s
  | .functionLevelReset v => Sys2Proof.Machine.execFunctionLevelReset v s
  | .vfEnable on numVfs => Sys2Proof.Machine.execVfEnable on numVfs s
  | .cxlMemRequest write offset ecc => Sys2Proof.Machine.execCxlMemRequest write offset ecc s
  | .naloraRead m => Sys2Proof.Machine.execNaloraRead m s
  | .naloraWrite m => Sys2Proof.Machine.execNaloraWrite m s
  | .naloraWriteG m => Sys2Proof.Machine.execNaloraWriteG m s
  | .naloraStage m => Sys2Proof.Machine.execNaloraStage m s
  | .naloraIdentify m => Sys2Proof.Machine.execNaloraIdentify m s
  | .naloraResponse m => Sys2Proof.Machine.execNaloraResponse m s
  | .naloraNotice m => Sys2Proof.Machine.execNaloraNotice m s
  | .naloraReservedKind m => Sys2Proof.Machine.execNaloraReservedKind m s
  | .dictRead r => Sys2Proof.Machine.execDictRead r s
  | .dictWrite r => Sys2Proof.Machine.execDictWrite r s
  | .dictWriteG r => Sys2Proof.Machine.execDictWriteG r s
  | .keyRotate r => Sys2Proof.Machine.execKeyRotate r s
  | .keyProvision m => Sys2Proof.Machine.execKeyProvision m s
  | .fwActivate r => Sys2Proof.Machine.execFwActivate r s
  | .mbxMessageTimeout => Sys2Proof.Machine.execMbxMessageTimeout s
  | .stagingTimeout addr => Sys2Proof.Machine.execStagingTimeout addr s
  | .journalCommit => Sys2Proof.Machine.execJournalCommit s
  | .pageBudgetRefill => Sys2Proof.Machine.execPageBudgetRefill s
  | .plcaBeaconTimeout => Sys2Proof.Machine.execPlcaBeaconTimeout s
  | .plcaIdWrite value => Sys2Proof.Machine.execPlcaIdWrite value s
  | .attestNonce nonce => Sys2Proof.Machine.execAttestNonce nonce s
  | .attestReportReady => Sys2Proof.Machine.execAttestReportReady s
  | .caskExportReq first count nonce => Sys2Proof.Machine.execCaskExportReq first count nonce s
  | .caskExportReady => Sys2Proof.Machine.execCaskExportReady s
  | .fwLoad requester offset data last => Sys2Proof.Machine.execFwLoad requester offset data last s
  | .fwVerifyDone f => Sys2Proof.Machine.execFwVerifyDone f s
  | .fwLoadAbandon => Sys2Proof.Machine.execFwLoadAbandon s
  | .microcodeSwitch u => Sys2Proof.Machine.execMicrocodeSwitch u s
  | .handoverSelfCheck => Sys2Proof.Machine.execHandoverSelfCheck s
  | .fwRevert => Sys2Proof.Machine.execFwRevert s
  | .recoveryLoader => Sys2Proof.Machine.execRecoveryLoader s
  | .recoveryNotice => Sys2Proof.Machine.execRecoveryNotice s
  | .healthPoll missed => Sys2Proof.Machine.execHealthPoll missed s
  | .clusterSwap v => Sys2Proof.Machine.execClusterSwap v s
  | .stationWithdraw st => Sys2Proof.Machine.execStationWithdraw st s
  | .laneErrorCheck l errors => Sys2Proof.Machine.execLaneErrorCheck l errors s
  | .fabPortRetryHourly p goodLanes => Sys2Proof.Machine.execFabPortRetryHourly p goodLanes s
  | .spanLaneSpare down group => Sys2Proof.Machine.execSpanLaneSpare down group s
  | .brownHoldEnter mv => Sys2Proof.Machine.execBrownHoldEnter mv s
  | .brownHoldLeave => Sys2Proof.Machine.execBrownHoldLeave s
  | .powerLoss mv watts => Sys2Proof.Machine.execPowerLoss mv watts s
  | .overvoltage mv watts => Sys2Proof.Machine.execOvervoltage mv watts s
  | .powerReturn => Sys2Proof.Machine.execPowerReturn s
  | .caskCommit firstOk secondOk => Sys2Proof.Machine.execCaskCommit firstOk secondOk s
  | .caskCoalesceFlush n => Sys2Proof.Machine.execCaskCoalesceFlush n s
  | .powerSample p10 nearLimit => Sys2Proof.Machine.execPowerSample p10 nearLimit s
  | .powerExcursionLimit p10 => Sys2Proof.Machine.execPowerExcursionLimit p10 s
  | .pLimitWrite value => Sys2Proof.Machine.execPLimitWrite value s
  | .forceSafeAssert => Sys2Proof.Machine.execForceSafeAssert s
  | .forceSafeRelease => Sys2Proof.Machine.execForceSafeRelease s
  | .referenceLoss => Sys2Proof.Machine.execReferenceLoss s
  | .referenceReturn => Sys2Proof.Machine.execReferenceReturn s
  | .coreRailDroop d => Sys2Proof.Machine.execCoreRailDroop d s
  | .thermalThrottle x mC => Sys2Proof.Machine.execThermalThrottle x mC s
  | .thermalRecover x mC => Sys2Proof.Machine.execThermalRecover x mC s
  | .dieStop d => Sys2Proof.Machine.execDieStop d s
  | .dieResume d => Sys2Proof.Machine.execDieResume d s
  | .thermalTrip x mC => Sys2Proof.Machine.execThermalTrip x mC s
  | .perstNAssert => Sys2Proof.Machine.execPerstNAssert s
  | .perstNRelease slotId slowStart => Sys2Proof.Machine.execPerstNRelease slotId slowStart s
  | .hotReset => Sys2Proof.Machine.execHotReset s
  | .romStart torn sram slotA slotB unreadable => Sys2Proof.Machine.execRomStart torn sram slotA slotB unreadable s
  | .trainingDone t => Sys2Proof.Machine.execTrainingDone t s
  | .selfTestDone t => Sys2Proof.Machine.execSelfTestDone t s
  | .conveyorStart => Sys2Proof.Machine.execConveyorStart s
  | .cableInsert c readable active => Sys2Proof.Machine.execCableInsert c readable active s
  | .cableOvercurrent c => Sys2Proof.Machine.execCableOvercurrent c s
  | .cableRemove c => Sys2Proof.Machine.execCableRemove c s
  | .presentNHigh => Sys2Proof.Machine.execPresentNHigh s
  | .plcaBeaconReceived => Sys2Proof.Machine.execPlcaBeaconReceived s
  | .overvoltageRelease => Sys2Proof.Machine.execOvervoltageRelease s
  | .holdUpEnergyExhausted => Sys2Proof.Machine.execHoldUpEnergyExhausted s
  | .tripSensorsBelowThrottle => Sys2Proof.Machine.execTripSensorsBelowThrottle s
  | .handoverNewImageStart => Sys2Proof.Machine.execHandoverNewImageStart s
  | .laneLosesLock l => Sys2Proof.Machine.execLaneLosesLock l s

end Sys2Proof.Machine
end

