-- ==== Sys2Proof/Safety.lean ====
section
/-!
DEFINITION. What a safe step of the block is: it goes on, and every table it keeps is in its canonical form.
-/

namespace Sys2Proof

open Sys2Proof.Machine

/-- The canonical form of a memory: addresses strictly rising, no byte 0 listed. -/
def Memory.wf (m : List Host.Cell) : Bool := Bank.wf m (0 : Byte)

/-- Every memory is in its canonical form. -/
def Safety.memoryWf (s : State) : Bool := Memory.wf s.mem.hbm && Memory.wf s.mem.store && Memory.wf s.mem.host

/-- A step that neither faults nor is refused. -/
def Safety.goesOn (s : State) : Prop := ∃ t, step s = .next t

/-! ### What the statements about thread instructions say -/

/-- Group `gid` runs instruction word `w` now: a core holds it, it issues instructions, its fetch reaches the code, and it has
every general register of `regs`. `g` is the group with the word latched. -/
def Safety.runs (s : State) (gid : Gid) (w : BitVec 64) (regs : List Nat) (g : Group) : Prop :=
  ∃ g0, s.group? (gidKey gid) = some g0 ∧ s.issues (gidKey gid) g0 = true ∧ g = { g0 with instr := w } ∧
    s.fetchFault (gidKey gid) g = none ∧ regRange g regs = none

/-- The instruction goes on and its group becomes `h`; of everything else, only what the instruction cache of its core holds
may change. -/
def Safety.leaves (c : Instr) (gid : Gid) (s : State) (h : Group) : Prop :=
  ∃ t, exec c s = .next t ∧ t = { s with groups := t.groups, cores := t.cores } ∧
    (∀ k, t.core k = { s.core k with l0i := (t.core k).l0i }) ∧
    (∀ k, k ≠ gidKey gid → t.group? k = s.group? k) ∧ t.group? (gidKey gid) = some h

/-- An operation of the vector units with `n` sources whose result is `f` of its operands (R212): in uD once for the group when
the word is a uniform instruction, else in gD of every thread in which it acts. No other register changes. The word has the
opcode of its row (c.wf, R211). -/
def Safety.aluResult (c : Instr) (gid : Gid) (w : BitVec 64) (s : State) (n : Nat) (f : Word → Word → Word → Word) : Prop :=
  ∀ g, c.wf = true → Safety.runs s gid w (aluRegs w n) g → ∃ h, Safety.leaves c gid s h ∧
    h = { g.countInstr with regs := h.regs, uregs := h.uregs, pc := g.pc + 8 } ∧
    (∀ l r, l < 32 → r < 256 → h.reg l r =
      if isUniform w = false ∧ (g.acting w).getLsbD l = true ∧ r = dstOf w
      then f (g.reg l (srcAOf w)) (g.srcB w l) (g.reg l (srcCOf w)) else g.reg l r) ∧
    (∀ u, u < 64 → h.ureg u =
      if isUniform w = true ∧ g.active ≠ 0#32 ∧ u = dstOf w % 64
      then f (g.ureg (srcAOf w)) (if srcBImm w then immOf w else g.ureg (srcBOf w)) (g.ureg (srcCOf w)) else g.ureg u)

/-- An instruction that writes predicate `p` of the threads in which it acts: thread `l` gets `f l`. No register and no other
predicate changes, and p7 reads as 1 (Table 7.1). -/
def Safety.predResult (c : Instr) (gid : Gid) (w : BitVec 64) (s : State) (regs : List Nat) (p : Nat) (f : Group → Nat → Bool) :
    Prop :=
  ∀ g, c.wf = true → Safety.runs s gid w regs g → ∃ h, Safety.leaves c gid s h ∧
    h = { g.countInstr with preds := h.preds, pc := g.pc + 8 } ∧
    ∀ q l, q < 8 → l < 32 → (h.pred q).getLsbD l =
      if q = p ∧ q ≠ 7 ∧ (g.acting w).getLsbD l = true then f g l else (g.pred q).getLsbD l

/-- An instruction that changes only its group, which goes on as `h` at the next instruction or at another. -/
def Safety.groupResult (c : Instr) (gid : Gid) (w : BitVec 64) (s : State) (regs : List Nat) (ok : Group → Prop)
    (f : Group → Group) : Prop :=
  ∀ g, c.wf = true → Safety.runs s gid w regs g → ok g → Safety.leaves c gid s (f g)

/-- The instruction's group goes on at PC + 8. -/
def Safety.goOn (g : Group) : Group := { g.countInstr with pc := g.pc + 8 }

/-- The instruction's group goes on at `pc`. -/
def Safety.goTo (g : Group) (pc : BitVec 48) : Group :=
  { (if pc ≤ g.pc then g.backBranch pc else g.countInstr) with pc := pc }

/-- The group parks precisely with cause `cause` and DETAIL `detail`: it stays at its instruction with one record. -/
def Safety.parks (c : Instr) (gid : Gid) (w : BitVec 64) (s : State) (regs : List Nat) (ok : Group → Prop) (cause : Nat)
    (detail : Group → Nat) : Prop :=
  ∀ g, c.wf = true → Safety.runs s gid w regs g → ok g → ∃ t h r, exec c s = .next t ∧ t.group? (gidKey gid) = some h ∧
    h.status = .parked ∧ h.pc = g.pc ∧ h.active = g.active ∧ h.regs = g.regs ∧ h.preds = g.preds ∧ h.stack = g.stack ∧
    h.record = some r ∧ r.info.cause = BitVec.ofNat 8 cause ∧ r.info.detail = BitVec.ofNat 32 (detail g) ∧ r.info.async = false

/-- The address lies in the code object of the group's kernel. -/
def Safety.inside (s : State) (g : Group) (a : Int) : Prop := ((s.codeOf g).1 : Int) ≤ a ∧ a < (s.codeOf g).1 + (s.codeOf g).2

/-- The target of a control instruction: its offset counts instructions from the next one. -/
def Safety.target (g : Group) (w : BitVec 64) : Int := (g.pc.toNat : Int) + 8 + 8 * offsetOf w

/-- The target lies in the code object of the group's kernel. -/
def Safety.inCode (s : State) (g : Group) (w : BitVec 64) : Prop := Safety.inside s g (Safety.target g w)

/-- The address that RET branches to: uA, and bits 15:0 of uA+1 above it. -/
def Safety.retAddress (g : Group) (w : BitVec 64) : Nat :=
  (g.ureg (srcAOf w)).toNat + 2 ^ 32 * ((g.ureg (srcAOf w + 1)).toNat % 65536)

/-- The group branches to the target. -/
def Safety.branch (g : Group) (w : BitVec 64) : Group := Safety.goTo g (BitVec.ofInt 48 (Safety.target g w))

/-- The state in which an instruction's effect begins: its sector fetched and its word latched. -/
def Safety.fetched (s : State) (gid : Gid) (g : Group) : State := (s.fetched (gidKey gid) g).putGroup (gidKey gid) g

/-! ### What the statements about queue commands say -/

/-- The queue command at `r` has started with opcode `op` and has not acted; `c` is its entry. -/
def Safety.started (s : State) (r : CmdRef) (op : Nat) (c : Cmd) : Prop :=
  s.cmd? r = some c ∧ c.stage = .started ∧ c.opcode = op ∧ c.busy = false

/-- The command at `r` has completed with this status and detail (R409). -/
def Safety.done (t : State) (r : CmdRef) (status detail : Nat) : Prop :=
  ∃ c, t.cmd? r = some c ∧ c.stage = .executed ∧ c.busy = false ∧ c.status = BitVec.ofNat 8 status ∧
    c.detail = BitVec.ofNat 39 detail

/-- The record memory of the Cask is a chain: at the position of every kept sequence number `n` stands, if anything, the record
with that number, and it carries the first 16 bytes of SHA3-256 of the record before it, the first record 0. -/
def Safety.chained (c : Cask) : Prop :=
  ∀ n r, n < c.nextSeq → c.nextSeq ≤ n + caskPositions → Bank.find? c.records (n % caskPositions) = some r →
    r.seq = BitVec.ofNat 64 n ∧ (n = 0 → r.prevHash = 0) ∧
    ∀ q m, n = m + 1 → c.nextSeq ≤ m + caskPositions → Bank.find? c.records (m % caskPositions) = some q →
      r.prevHash = BitVec.ofNat 128 (Config.sha3 q.bytes).toNat

/-! ### What the statements about the Maltster say -/

/-- A sound request of kind `kind` reaches this module on the management port; nothing else waits. -/
def Safety.asks (s : State) (m : NalMsg) (kind : Nat) : Prop :=
  s.serves = true ∧ s.boot.phase ≠ .recovery ∧ m.path = .port ∧ frameOk m = true ∧
    m.frame.collisions = 0 ∧ s.quiet = false ∧ badMessage m = false ∧ s.notForUs m = false ∧
    m.kind.toNat = kind ∧ (∀ x ∈ s.mgmt.kept, ¬(x.1.src = m.src ∧ x.1.seq = m.seq)) ∧ s.mgmt.journal = none ∧ s.mgmt.queue = []

/-- The response to a request: DST and SEQ from it, kind 5. -/
def Safety.response (m : NalMsg) (status : Nat) (data : Bytes) : Response :=
  { dst := m.src, seq := m.seq, kind := 5, status := BitVec.ofNat 8 status, data := data }

/-- The request is answered at once; outside the Maltster nothing changes. -/
def Safety.answered (s t : State) (m : NalMsg) (status : Nat) (data : Bytes) : Prop :=
  t = { s with mgmt := t.mgmt } ∧ t.mgmt.sent = s.mgmt.sent ++ [Safety.response m status data] ∧ t.mgmt.queue = [] ∧
    t.obj 0x00100 0 = (s.obj 0x00100 0 + 1) % 2 ^ 64

/-- The row of a message by its kind. -/
def Safety.nalRow (m : NalMsg) : Instr :=
  match m.kind.toNat with
  | 1 => .naloraRead m
  | 2 => .naloraWrite m
  | 3 => .naloraWriteG m
  | 4 => .naloraStage m
  | 5 => .naloraResponse m
  | 6 => .naloraIdentify m
  | 7 => .naloraNotice m
  | _ => .naloraReservedKind m

/-- Settings whose write has no effect beyond their value: VI, rate and share settings of scalar type. -/
def Safety.plainSetting (o : Nat) : Prop :=
  o = 0x00021 ∨ o = 0x00023 ∨ o = 0x10020 ∨ o = 0x20020 ∨ o = 0x20021 ∨ o = 0x40040 ∨ o = 0x40041 ∨ o = 0x40042 ∨ o = 0x40043

/-- Partition settings of scalar elements whose commit has no effect beyond their value. -/
def Safety.plainGuarded (o : Nat) : Prop :=
  o = 0x40050 ∨ o = 0x40052 ∨ o = 0x50020 ∨ o = 0x60011 ∨ o = 0x60013 ∨ o = 0x60014 ∨ o = 0x60015

/-- The guarded write of message `m` waits for its commit. -/
def Safety.waits (t : State) (m : NalMsg) (o : Nat) : Prop :=
  ∃ w, t.mgmt.journal = some w ∧ w.req.msg = m ∧ w.object = o ∧ w.index = m.index.toNat ∧ w.value = leNat m.data ∧
    w.slot = m.keySlot.toNat ∧ w.counter = m.counter

/-- Where the Cask takes postings and none of this type and source is coalesced, a record of this type, source and payload
enters its queue. -/
def Safety.posts (s u : State) (t src : Nat) (payload : Bytes) : Prop :=
  s.obj 0x80000 0 ≠ 2 → s.power.onHoldUp = false → s.cask.queue.length < 256 → caskCoalesced t = false ∨ s.cask.lastOf t src = none →
    ∃ r, u.cask.queue = s.cask.queue ++ [r] ∧ r.type = BitVec.ofNat 16 t ∧ r.source = BitVec.ofNat 32 src ∧ r.payload = payload ∧
      r.time = BitVec.ofNat 64 s.now

/-- Everything outside the Maltster's domain is as at reset: memories, dies, conveyors, steps, fabric and host objects. -/
def Safety.workLost (u : State) : Prop :=
  u.groups = [] ∧ u.cores = [] ∧ u.clusters = [] ∧ u.kilns = [] ∧ u.mem = State.reset.mem ∧ u.conv = State.reset.conv ∧
    u.wort = State.reset.wort ∧ u.steps = State.reset.steps ∧ u.fab = State.reset.fab ∧ u.host = State.reset.host

/-- What flash and the record memory hold is kept. -/
def Safety.flashKept (s u : State) : Prop :=
  u.mgmt.store = s.mgmt.store ∧ u.mgmt.keyStore = s.mgmt.keyStore ∧ u.mgmt.fw.slotA = s.mgmt.fw.slotA ∧
    u.mgmt.fw.slotB = s.mgmt.fw.slotB ∧ u.mgmt.pages = s.mgmt.pages ∧ u.mgmt.helper = s.mgmt.helper ∧
    u.mgmt.idDigest = s.mgmt.idDigest ∧ u.mgmt.signers = s.mgmt.signers ∧ u.cask.records = s.cask.records ∧
    u.cask.nextSeq = s.cask.nextSeq

end Sys2Proof
end

