-- ==== Sys2Proof/Certificates/Slice0/Obligations.lean ====
section
/-!
DEFINITION. The statements for the provers: what the commands do, by family, from the rules of the specification.
-/

open Sys2Proof Sys2Proof.Machine

/-- A step runs the command at the front of the queue. For every command and state, a step with the command at the front
of its queue is exec of the command on the state with the rest of the queue. (00_scope.md) -/
def Obligations.StepRunsTheFrontCommand : Prop :=
  ∀ (c : Instr) (rest : List Instr) (s : State), step { s with pending := c :: rest } = exec c { s with pending := rest }

/-- Every command completes in every state. The model has no command that faults or is refused: for every command and
every state there is a next state. An event whose condition does not hold has no effect. (00_scope.md) -/
def Obligations.EveryCommandGoesOn : Prop :=
  ∀ (c : Instr) (s : State), ∃ t, exec c s = .next t

/-- Commands are taken one by one; an empty queue ticks. After every step the queue is the queue before it without its
front: no command is lost, repeated or moved. The tick leaves the queue empty. On an empty queue a step goes on with
the tick, after which requests that waited for an image to take over are served once its 50 ms are over. The tick is
one cycle of the reference, 6.4 ns of the timestamp, or 10 ns of the oscillator while the reference is absent; a
module without supply does not tick. That the tick stands in the place of idling is the model's choice (log entry 2).
(00_scope.md, R492, 16_power_clocks_start.md) -/
def Obligations.StepsTakeOneCommand : Prop :=
  (
  ∀ (s t : State), step s = .next t → t.pending = s.pending.tail
  ) ∧ (
  ∀ s : State, s.pending = [] → step s = .next s.idle ∧
    (s.quiet = false ∨ s.tick.now < s.mgmt.fw.quietUntil → s.idle = s.tick) ∧
    (s.quiet = true → s.mgmt.fw.quietUntil ≤ s.tick.now → s.idle = State.serve s.tick.mgmt.queue.length
      { s.tick with mgmt.fw := { s.tick.mgmt.fw with quietUntil := 0 } }) ∧
    (s.power.dark = true → s.tick = s) ∧
    (s.power.dark = false → s.tick.pending = [] ∧ s.tick.cask.records = s.cask.records ∧ s.tick.clock.stepNs = s.clock.stepNs ∧
      s.tick.clock.refPresent = s.clock.refPresent ∧
      (s.clock.refPresent = true → s.tick.clock.refCycles = s.clock.refCycles + 1 ∧ s.tick.clock.oscNs = s.clock.oscNs) ∧
      (s.clock.refPresent = false → s.tick.clock.oscNs = s.clock.oscNs + 10 ∧ s.tick.clock.refCycles = s.clock.refCycles) ∧
      s.tick.now = 32 * s.tick.clock.refCycles / 5 + s.tick.clock.oscNs + s.tick.clock.stepNs)
  )

/-- Every step keeps the chain of the Cask. The record memory of the Cask is a chain in every state that a step reaches
from a chain: at a kept position stands the record with the sequence number of that position, and it carries the first
16 bytes of SHA3-256 of its predecessor, the first record 0 (Safety.chained). Only CASK_COMMIT writes the memory; no
other command changes a committed record. (R482, R483, R486, 14_resilience_and_cask.md) -/
def Obligations.CaskChainKept : Prop :=
  ∀ (s t : State), Safety.chained s.cask → step s = .next t → Safety.chained t.cask

/-- The Cask is a chain at reset. At reset the Cask holds no record, so it is a chain. (R482, 14_resilience_and_cask.md) -/
def Obligations.CaskChainAtReset : Prop :=
  Safety.chained State.reset.cask ∧ State.reset.cask.records = [] ∧ State.reset.cask.nextSeq = 0

/-- No step but a commit changes the record memory. A step whose command is not CASK_COMMIT, and an idle step, leave the
records of the Cask and the next sequence number as they were. A commit changes one position, that of the next
sequence number: it writes the record at the front of the queue there, with its SEQ, the number of postings refused
before it and FLAGS bit 0 on hold-up energy; where neither read-back succeeds the Cask ends in state 2. With an empty
queue, a Cask in state 2 or no supply it has no effect. (R483, R488, 14_resilience_and_cask.md) -/
def Obligations.CommittedRecordsStay : Prop :=
  (∀ (s t : State), step s = .next t → (∀ a b, s.pending.head? ≠ some (.caskCommit a b)) →
    t.cask.records = s.cask.records ∧ t.cask.nextSeq = s.cask.nextSeq) ∧
  (∀ (a b : _) (s t : State) (n : Nat), exec (.caskCommit a b) s = .next t → n ≠ s.cask.nextSeq % caskPositions →
    Bank.find? t.cask.records n = Bank.find? s.cask.records n) ∧
  (∀ a b, ∀ s : State, s.cask.queue = [] ∨ s.obj 0x80000 0 = 2 ∨ s.power.dark = true → exec (.caskCommit a b) s = .next s) ∧
  (∀ a b, ∀ s : State, ∀ r rest, s.cask.queue = r :: rest → s.obj 0x80000 0 ≠ 2 → s.power.dark = false →
    ((a || b) = true → ∃ u, exec (.caskCommit a b) s = .next u ∧ u = { s with cask := u.cask } ∧ u.cask.queue = rest ∧
      u.cask.nextSeq = s.cask.nextSeq + 1 ∧ u.cask.dropped = 0 ∧ u.cask.torn = false ∧
      ∃ x, Bank.find? u.cask.records (s.cask.nextSeq % caskPositions) = some x ∧
        x = { r with seq := BitVec.ofNat 64 s.cask.nextSeq, flags := x.flags, prevHash := x.prevHash, dropped := x.dropped } ∧
        x.flags = r.flags ||| (if s.power.onHoldUp then 1#8 else 0#8) ∧
        x.dropped = BitVec.ofNat 16 (min 65535 s.cask.dropped)) ∧
    (a = false → b = false → ∃ u, exec (.caskCommit a b) s = .next u ∧ u = { s with cask := u.cask, mgmt := u.mgmt } ∧
      u.cask.queue = s.cask.queue ∧ u.cask.nextSeq = s.cask.nextSeq ∧ u.obj 0x80000 0 = 2 ∧
      Bank.find? u.cask.records (s.cask.nextSeq % caskPositions) = none))

/-- Integer instructions. IADD, ISUB, IMUL, IMAD, AND, OR, XOR, NOT, MOV, MOVI, POPC and CLZ write the result of Table 7.5
into gD of every thread in which they act, or once into uD when the word is a uniform instruction. Registers wrap at
32 bits. No other register, no predicate and no other group changes. IMULHI, IMIN, IMAX, IABS, SHL, SHR, SAR, IDIV and
IREM write their results as the integer instructions do. Division by 0 gives 0xFFFF_FFFF and the dividend. Which words
are signed is left open (Config.intSigned), and so are the results of IABS of the most negative number, of shifts by
32 or more, and of the quotient 2^31 (Config.resultOpen); the statement holds for every choice. (R212, R210,
07_threads.md) -/
def Obligations.IntegerResults : Prop :=
  (
  (∀ gid w s, Safety.aluResult (.iadd gid w) gid w s 2 (fun a b _ => a + b)) ∧
  (∀ gid w s, Safety.aluResult (.isub gid w) gid w s 2 (fun a b _ => a - b)) ∧
  (∀ gid w s, Safety.aluResult (.imul gid w) gid w s 2 (fun a b _ => a * b)) ∧
  (∀ gid w s, Safety.aluResult (.imad gid w) gid w s 3 (fun a b c => a * b + c)) ∧
  (∀ gid w s, Safety.aluResult (.and gid w) gid w s 2 (fun a b _ => a &&& b)) ∧
  (∀ gid w s, Safety.aluResult (.or gid w) gid w s 2 (fun a b _ => a ||| b)) ∧
  (∀ gid w s, Safety.aluResult (.xor gid w) gid w s 2 (fun a b _ => a ^^^ b)) ∧
  (∀ gid w s, Safety.aluResult (.not gid w) gid w s 1 (fun a _ _ => ~~~ a)) ∧
  (∀ gid w s, Safety.aluResult (.mov gid w) gid w s 1 (fun a _ _ => a)) ∧
  (∀ gid w s, Safety.aluResult (.popc gid w) gid w s 1 (fun a _ _ => BitVec.ofNat 32 (lanesOf a).length)) ∧
  (∀ gid w s, Safety.aluResult (.clz gid w) gid w s 1 (fun a _ _ => BitVec.ofNat 32 (32 - bitLen a.toNat))) ∧
  (∀ gid w s g, (Instr.movi gid w).wf = true → Safety.runs s gid w (if isUniform w then [] else [dstOf w]) g → ∃ h, Safety.leaves (.movi gid w) gid s h ∧
    h = { g.countInstr with regs := h.regs, uregs := h.uregs, pc := g.pc + 8 } ∧
    (∀ l r, l < 32 → r < 256 → h.reg l r = if isUniform w = false ∧ (g.acting w).getLsbD l = true ∧ r = dstOf w then immOf w
      else g.reg l r) ∧
    (∀ u, u < 64 → h.ureg u = if isUniform w = true ∧ g.active ≠ 0#32 ∧ u = dstOf w % 64 then immOf w else g.ureg u))
  ) ∧ (
  (∀ gid w s, Safety.aluResult (.imulhi gid w) gid w s 2 (fun a b _ => intMulHigh (signedFor w) a b)) ∧
  (∀ gid w s, Safety.aluResult (.imin gid w) gid w s 2 (fun a b _ => intMin (signedFor w) a b)) ∧
  (∀ gid w s, Safety.aluResult (.imax gid w) gid w s 2 (fun a b _ => intMax (signedFor w) a b)) ∧
  (∀ gid w s, Safety.aluResult (.iabs gid w) gid w s 1 (fun a _ _ => if a = 0x80000000#32 then Config.resultOpen (opcOf w) a 0 else if a.toInt < 0 then -a else a)) ∧
  (∀ gid w s, Safety.aluResult (.shl gid w) gid w s 2 (fun a b _ => if b.toNat < 32 then a <<< b.toNat else Config.resultOpen (opcOf w) a b)) ∧
  (∀ gid w s, Safety.aluResult (.shr gid w) gid w s 2 (fun a b _ => if b.toNat < 32 then a >>> b.toNat else Config.resultOpen (opcOf w) a b)) ∧
  (∀ gid w s, Safety.aluResult (.sar gid w) gid w s 2 (fun a b _ => if b.toNat < 32 then a.sshiftRight b.toNat else Config.resultOpen (opcOf w) a b)) ∧
  (∀ gid w s, Safety.aluResult (.idiv gid w) gid w s 2 (fun a b _ => intDiv (opcOf w) (signedFor w) a b)) ∧
  (∀ gid w s, Safety.aluResult (.irem gid w) gid w s 2 (fun a b _ => intRem (signedFor w) a b)) ∧
  (∀ opc sg a, intDiv opc sg a 0#32 = 0xFFFFFFFF#32) ∧ (∀ sg a, intRem sg a 0#32 = a) ∧
  (∀ opc a b, b ≠ 0#32 → intDiv opc false a b = a / b) ∧ (∀ a b, b ≠ 0#32 → intRem false a b = a % b)
  )

/-- FP32 instructions. FADD, FSUB, FMUL, FFMA, FMIN, FMAX, FABS and FNEG write the binary32 result of their operands, FRCP
to FTANH the correctly rounded value of their function, CVT, PACK and UNPACK the converted element, as the integer
instructions write theirs. Results that the manual does not state are left to Config, and the statement holds for
every choice. (R212, R190, 06_number_formats.md, 07_threads.md) -/
def Obligations.FloatResults : Prop :=
  (∀ gid w s, Safety.aluResult (.fadd gid w) gid w s 2 (fun a b _ => fpAdd (opcOf w) a b)) ∧
  (∀ gid w s, Safety.aluResult (.fsub gid w) gid w s 2 (fun a b _ => fpSub (opcOf w) a b)) ∧
  (∀ gid w s, Safety.aluResult (.fmul gid w) gid w s 2 (fun a b _ => fpMul (opcOf w) a b)) ∧
  (∀ gid w s, Safety.aluResult (.ffma gid w) gid w s 3 (fun a b c => fpFma (opcOf w) a b c)) ∧
  (∀ gid w s, Safety.aluResult (.fmin gid w) gid w s 2 (fun a b _ => fpMin (opcOf w) a b)) ∧
  (∀ gid w s, Safety.aluResult (.fmax gid w) gid w s 2 (fun a b _ => fpMax (opcOf w) a b)) ∧
  (∀ gid w s, Safety.aluResult (.fabs gid w) gid w s 1 (fun a _ _ => a &&& 0x7FFFFFFF#32)) ∧
  (∀ gid w s, Safety.aluResult (.fneg gid w) gid w s 1 (fun a _ _ => a ^^^ 0x80000000#32)) ∧
  (∀ gid w s, Safety.aluResult (.frcp gid w) gid w s 1 (fun a _ _ => fpFn rcpVal a)) ∧
  (∀ gid w s, Safety.aluResult (.frsq gid w) gid w s 1 (fun a _ _ => fpRsq (opcOf w) a)) ∧
  (∀ gid w s, Safety.aluResult (.fsqrt gid w) gid w s 1 (fun a _ _ => fpFn sqrtVal a)) ∧
  (∀ gid w s, Safety.aluResult (.fexp2 gid w) gid w s 1 (fun a _ _ => fpFn exp2Val a)) ∧
  (∀ gid w s, Safety.aluResult (.flog2 gid w) gid w s 1 (fun a _ _ => fpLog2 (opcOf w) a)) ∧
  (∀ gid w s, Safety.aluResult (.fsin gid w) gid w s 1 (fun a _ _ => fpFn sinVal a)) ∧
  (∀ gid w s, Safety.aluResult (.fcos gid w) gid w s 1 (fun a _ _ => fpFn cosVal a)) ∧
  (∀ gid w s, Safety.aluResult (.ftanh gid w) gid w s 1 (fun a _ _ => fpFn tanhVal a)) ∧
  (∀ gid w s, Safety.aluResult (.cvtF2f gid w) gid w s 1 (fun a _ _ => cvtFloat w a)) ∧
  (∀ gid w s, Safety.aluResult (.cvtF2i gid w) gid w s 1 (fun a _ _ => cvtToInt w a)) ∧
  (∀ gid w s, Safety.aluResult (.cvtI2f gid w) gid w s 1 (fun a _ _ => cvtFromInt w a)) ∧
  (∀ gid w s, Safety.aluResult (.pack gid w) gid w s 2 (fun a b _ => Config.packOpen (opcOf w) (modOf w) (w.extractLsb' 20 8) a b)) ∧
  (∀ gid w s, Safety.aluResult (.unpack gid w) gid w s 1 (fun a _ _ => Config.packOpen (opcOf w) (modOf w) (w.extractLsb' 20 8) a 0))

/-- Compares, MX.TEST and the votes that write predicates. ICMP, FCMP, MX.TEST and the kinds ANY, ALL and ELECT of VOTE
write the predicate named in bits 2:0 of DST in the threads in which they act and nothing else; a write of p7 is
ignored. Which relation a compare selects is left open (Config.compare); that the predicate is named there is the
model's reading. (R219, R222, R210, 07_threads.md) -/
def Obligations.PredicateResults : Prop :=
  (∀ gid w s, Safety.predResult (.icmp gid w) gid w s (srcAOf w :: srcBReg w) (dstOf w % 8)
    (fun g l => Config.compare (opcOf w) (modOf w) (w.extractLsb' 20 8) (g.reg l (srcAOf w)) (g.srcB w l))) ∧
  (∀ gid w s, Safety.predResult (.fcmp gid w) gid w s (srcAOf w :: srcBReg w) (dstOf w % 8)
    (fun g l => Config.compare (opcOf w) (modOf w) (w.extractLsb' 20 8) (g.reg l (srcAOf w)) (g.srcB w l))) ∧
  (∀ gid w s, Safety.predResult (.mxTest gid w) gid w s [] (dstOf w % 8) (fun g _ => decide (g.mxTok.get 0 (tokenOf w) = 0))) ∧
  (∀ gid w s, (modOf w).toNat = 0 → Safety.predResult (.vote gid w) gid w s [] (dstOf w % 8)
    (fun g _ => decide (g.active &&& g.pred (srcAOf w % 8) ≠ 0#32))) ∧
  (∀ gid w s, (modOf w).toNat = 1 → Safety.predResult (.vote gid w) gid w s [] (dstOf w % 8)
    (fun g _ => decide (g.active &&& g.pred (srcAOf w % 8) = g.active))) ∧
  (∀ gid w s, (modOf w).toNat = 3 → Safety.predResult (.vote gid w) gid w s [] (dstOf w % 8)
    (fun g l => decide (lowest g.active = some l)))

/-- SEL, SHFL, MOVU, MOVS and the ballot. SEL gives gA or the second operand by a predicate, SHFL the register of another
active thread and a predicate that says whether there was one, MOVU the register of the lowest active thread, BALLOT
the mask of active threads whose predicate is 1, and MOVS the special value of Table 7.2 together with the read latch
(codes 7 and 9 latch). The places of the predicates and selectors and the destination form (Config.dstUniform) are the
model's readings. (R206, R218, R219, 07_threads.md) -/
def Obligations.CrossThreadResults : Prop :=
  (∀ gid w s g, (Instr.sel gid w).wf = true → Safety.runs s gid w (aluRegs w 2) g → ∃ h, Safety.leaves (.sel gid w) gid s h ∧
    h = { g.countInstr with regs := h.regs, uregs := h.uregs, pc := g.pc + 8 } ∧
    (∀ l r, l < 32 → r < 256 → h.reg l r = if isUniform w = false ∧ (g.acting w).getLsbD l = true ∧ r = dstOf w
      then (if (g.pred (srcCOf w % 8)).getLsbD l then g.reg l (srcAOf w) else g.srcB w l) else g.reg l r) ∧
    (∀ u, u < 64 → h.ureg u = if isUniform w = true ∧ g.active ≠ 0#32 ∧ u = dstOf w % 64
      then (if (g.pred (srcCOf w % 8)).getLsbD ((lowest g.active).getD 0) then g.ureg (srcAOf w)
        else if srcBImm w then immOf w else g.ureg (srcBOf w)) else g.ureg u)) ∧
  (∀ gid w s g (src : Nat → Option Nat), (Instr.shfl gid w).wf = true → Safety.runs s gid w ([dstOf w, srcAOf w] ++ srcBReg w) g → fld (srcCOf w) 4 3 ≤ 4 →
    (∀ l, src l = match shflSource (modOf w).toNat (2 ^ (1 + fld (srcCOf w) 4 3)) l (g.srcB w l).toNat with
      | some q => if g.active.getLsbD q then some q else none
      | none => none) →
    ∃ h, Safety.leaves (.shfl gid w) gid s h ∧ h = { g.countInstr with regs := h.regs, preds := h.preds, pc := g.pc + 8 } ∧
      (∀ l r, l < 32 → r < 256 → h.reg l r = if (g.acting w).getLsbD l = true ∧ r = dstOf w
        then g.reg ((src l).getD l) (srcAOf w) else g.reg l r) ∧
      (∀ q l, q < 8 → l < 32 → (h.pred q).getLsbD l = if q = srcCOf w % 8 ∧ q ≠ 7 ∧ (g.acting w).getLsbD l = true
        then (src l).isSome else (g.pred q).getLsbD l)) ∧
  (∀ gid w s g, (Instr.movu gid w).wf = true → Safety.runs s gid w [srcAOf w] g → ∃ h, Safety.leaves (.movu gid w) gid s h ∧
    h = { g.countInstr with uregs := h.uregs, pc := g.pc + 8 } ∧
    ∀ u, u < 64 → h.ureg u = match lowest g.active with
      | some l => if (g.acting w).getLsbD l = true ∧ u = dstOf w % 64 then g.reg l (srcAOf w) else g.ureg u
      | none => g.ureg u) ∧
  (∀ gid w s g, (Instr.vote gid w).wf = true → Safety.runs s gid w (if Config.dstUniform w then [] else [dstOf w]) g → (modOf w).toNat = 2 →
    ∃ h, Safety.leaves (.vote gid w) gid s h ∧ h = { g.countInstr with regs := h.regs, uregs := h.uregs, pc := g.pc + 8 } ∧
      (∀ l r, l < 32 → r < 256 → h.reg l r =
        if Config.dstUniform w = false ∧ (g.acting w).getLsbD l = true ∧ r = dstOf w
        then g.active &&& g.pred (srcAOf w % 8) else g.reg l r) ∧
      (∀ u, u < 64 → h.ureg u = if Config.dstUniform w = true ∧ g.acting w ≠ 0#32 ∧ u = dstOf w % 64
        then g.active &&& g.pred (srcAOf w % 8) else g.ureg u)) ∧
  (∀ gid w s g, (Instr.movs gid w).wf = true → Safety.runs s gid w (if Config.dstUniform w then [] else [dstOf w]) g → srcCOf w ≤ 14 → g.acting w ≠ 0#32 →
    ∃ h, Safety.leaves (.movs gid w) gid s h ∧
      h = { g.countInstr with regs := h.regs, uregs := h.uregs, latch := (latchFor s (srcCOf w) g).latch, pc := g.pc + 8 } ∧
      (∀ l r, l < 32 → r < 256 → h.reg l r =
        if Config.dstUniform w = false ∧ (g.acting w).getLsbD l = true ∧ r = dstOf w
        then (specialValue s (gidKey gid) (latchFor s (srcCOf w) g) l (srcCOf w)).getD 0 else g.reg l r) ∧
      (∀ u, u < 64 → h.ureg u = if Config.dstUniform w = true ∧ u = dstOf w % 64
        then (specialValue s (gidKey gid) (latchFor s (srcCOf w) g) ((lowest g.active).getD 0) (srcCOf w)).getD 0
        else g.ureg u))

/-- Branches, calls and returns. NOP goes on. BRA is taken when its guard holds in every active thread, not taken when it
holds in none of some active threads, and faults with DIVERGENT_BRANCH otherwise; BRA.ANY is taken when its guard
holds in at least one active thread. A taken branch outside the kernel's code faults with ILLEGAL_OP. CALL writes the
return address into uD and uD+1 and branches; RET branches to the address in uA and uA+1; that one outside the code
faults like any other branch is the model's reading (log entry 30). Nothing else of the group changes. (R215, R216,
R209, 07_threads.md) -/
def Obligations.BranchResults : Prop :=
  (∀ gid w s, Safety.groupResult (.nop gid w) gid w s [] (fun _ => True) Safety.goOn) ∧
  (∀ gid w s, Safety.groupResult (.bra gid w) gid w s [] (fun g => g.acting w = g.active ∧ Safety.inCode s g w)
    (fun g => Safety.branch g w)) ∧
  (∀ gid w s, Safety.groupResult (.bra gid w) gid w s [] (fun g => g.active ≠ 0#32 ∧ g.acting w = 0#32) Safety.goOn) ∧
  (∀ gid w s, Safety.parks (.bra gid w) gid w s [] (fun g => g.acting w ≠ g.active ∧ g.acting w ≠ 0#32) 0x05
    (fun g => (g.acting w).toNat)) ∧
  (∀ gid w s, Safety.parks (.bra gid w) gid w s [] (fun g => g.acting w = g.active ∧ ¬ Safety.inCode s g w) 0x01
    (fun _ => opcOf w)) ∧
  (∀ gid w s, Safety.groupResult (.braAny gid w) gid w s [] (fun g => g.acting w ≠ 0#32 ∧ Safety.inCode s g w)
    (fun g => Safety.branch g w)) ∧
  (∀ gid w s, Safety.groupResult (.braAny gid w) gid w s [] (fun g => g.acting w = 0#32) Safety.goOn) ∧
  (∀ gid w s, Safety.groupResult (.call gid w) gid w s []
    (fun g => dstOf w % 2 = 0 ∧ dstOf w ≤ 62 ∧ groupActs g w = true ∧ Safety.inCode s g w)
    (fun g => Safety.branch ((g.setUreg (dstOf w) ((g.pc + 8).extractLsb' 0 32)).setUreg (dstOf w + 1)
      (((g.pc + 8).extractLsb' 32 16).setWidth 32)) w)) ∧
  (∀ gid w s, Safety.parks (.call gid w) gid w s [] (fun _ => dstOf w % 2 = 1 ∨ 62 < dstOf w) 0x01 (fun _ => opcOf w)) ∧
  (∀ gid w s, Safety.groupResult (.ret gid w) gid w s [] (fun g => groupActs g w = true ∧ Safety.inside s g (Safety.retAddress g w))
    (fun g => Safety.goTo g (BitVec.ofInt 48 (Safety.retAddress g w)))) ∧
  (∀ gid w s, Safety.parks (.ret gid w) gid w s [] (fun g => groupActs g w = true ∧ ¬ Safety.inside s g (Safety.retAddress g w))
    0x01 (fun _ => opcOf w)) ∧
  (∀ gid w s, Safety.parks (.call gid w) gid w s [] (fun g => dstOf w % 2 = 0 ∧ dstOf w ≤ 62 ∧ groupActs g w = true ∧
    ¬ Safety.inCode s g w) 0x01 (fun _ => opcOf w))

/-- The mask stack. PUSHM pushes A and the taken side and makes the taken side active; FLIPM makes the other side of the
top entry active; POPM restores A from the top entry and drops it; CLRM removes from A the threads in which it acts.
PUSHM and FLIPM branch to their target when A has become 0. PUSHM on a full stack of 32 entries faults with
MASK_OVERFLOW, FLIPM and POPM on an empty stack with MASK_UNDERFLOW (causes 0x03 and 0x04). (R213, R214,
07_threads.md) -/
def Obligations.MaskStackResults : Prop :=
  (∀ gid w s, Safety.groupResult (.pushm gid w) gid w s [] (fun g => g.stack.length < 32 ∧ g.acting w ≠ 0#32)
    (fun g => Safety.goOn { g with stack := (g.active, g.acting w) :: g.stack, active := g.acting w })) ∧
  (∀ gid w s, Safety.groupResult (.pushm gid w) gid w s []
    (fun g => g.stack.length < 32 ∧ g.acting w = 0#32 ∧ Safety.inCode s g w)
    (fun g => Safety.branch { g with stack := (g.active, 0#32) :: g.stack, active := 0#32 } w)) ∧
  (∀ gid w s, Safety.parks (.pushm gid w) gid w s [] (fun g => 32 ≤ g.stack.length) 0x03 (fun _ => 0)) ∧
  (∀ gid w s e r, Safety.groupResult (.flipm gid w) gid w s []
    (fun g => groupActs g w = true ∧ g.stack = e :: r ∧ e.1 &&& ~~~ e.2 ≠ 0#32)
    (fun g => Safety.goOn { g with active := e.1 &&& ~~~ e.2 })) ∧
  (∀ gid w s e r, Safety.groupResult (.flipm gid w) gid w s []
    (fun g => groupActs g w = true ∧ g.stack = e :: r ∧ e.1 &&& ~~~ e.2 = 0#32 ∧ Safety.inCode s g w)
    (fun g => Safety.branch { g with active := 0#32 } w)) ∧
  (∀ gid w s, Safety.parks (.flipm gid w) gid w s [] (fun g => groupActs g w = true ∧ g.stack = []) 0x04 (fun _ => 0)) ∧
  (∀ gid w s, Safety.groupResult (.clrm gid w) gid w s [] (fun _ => True)
    (fun g => Safety.goOn { g with active := g.active &&& ~~~ g.acting w })) ∧
  (∀ gid w s e r, Safety.groupResult (.popm gid w) gid w s [] (fun g => groupActs g w = true ∧ g.stack = e :: r)
    (fun g => Safety.goOn { g with active := e.1, stack := r })) ∧
  (∀ gid w s, Safety.parks (.popm gid w) gid w s [] (fun g => groupActs g w = true ∧ g.stack = []) 0x04 (fun _ => 0))

/-- EXIT, TRAP, reserved opcodes, waits and barriers. EXIT makes the group wait for its end when the mask stack is empty
and A is the live mask, and faults with EXIT_DIVERGED otherwise; TRAP faults with its IMM16, a reserved opcode with
ILLEGAL_OP. MX.WAIT and DMA.WAIT go on when their counter is 0 and stall otherwise; BAR stalls at the barrier of its
scope. Every word decodes to a well-formed instruction, and every well-formed one of Table 7.5 is what its word
decodes to. (R217, R211, R222, R229, R303, 07_threads.md) -/
def Obligations.ExitTrapAndWaits : Prop :=
  (∀ gid w s, Safety.groupResult (.exit gid w) gid w s []
    (fun g => groupActs g w = true ∧ g.stack = [] ∧ g.active = g.live) (fun g => { g.disarm with status := .exiting })) ∧
  (∀ gid w s, Safety.parks (.exit gid w) gid w s []
    (fun g => groupActs g w = true ∧ (g.stack ≠ [] ∨ g.active ≠ g.live)) 0x06 (fun g => g.live.toNat)) ∧
  (∀ gid w s, Safety.parks (.trap gid w) gid w s [] (fun g => groupActs g w = true) 0x08
    (fun _ => (w.extractLsb' 0 16).toNat)) ∧
  (∀ gid w s, Safety.parks (.illegalInstruction gid w) gid w s [] (fun _ => True) 0x01 (fun _ => opcOf w)) ∧
  (∀ gid w s, Safety.groupResult (.mxWait gid w) gid w s [] (fun g => g.mxTok.get 0 (tokenOf w) = 0) Safety.goOn) ∧
  (∀ gid w s, Safety.groupResult (.mxWait gid w) gid w s []
    (fun g => g.acting w ≠ 0#32 ∧ g.mxTok.get 0 (tokenOf w) ≠ 0) (fun g => { g with status := .mxWait (tokenOf w) })) ∧
  (∀ gid w s, Safety.groupResult (.dmaWait gid w) gid w s [] (fun g => g.dmaTok.get 0 (tokenOf w) = 0) Safety.goOn) ∧
  (∀ gid w s, Safety.groupResult (.dmaWait gid w) gid w s []
    (fun g => g.acting w ≠ 0#32 ∧ g.dmaTok.get 0 (tokenOf w) ≠ 0) (fun g => { g with status := .dmaWait (tokenOf w) })) ∧
  (∀ gid w s, Safety.groupResult (.bar gid w) gid w s [] (fun g => g.acting w ≠ 0#32)
    (fun g => { g.disarm with status := .barrier ((modOf w).getLsbD 0) })) ∧
  (∀ gid w ecc, (decodeThread gid w ecc).wf = true) ∧
  (∀ (c : Instr) o w, c.opcode? = some (o, w) → c.wf = true → ∃ gid ecc, decodeThread gid w ecc = c) ∧
  (∀ gid w, (Instr.illegalInstruction gid w).wf = true → ∀ ecc, decodeThread gid w ecc = .illegalInstruction gid w)

/-- A register that the group does not have. An instruction that names a general register at or above the kernel's rounded
number parks its group with REG_RANGE (cause 0x02), DETAIL the register number, before any effect: all registers,
predicates and the mask stay. Stated for instructions of each form: one, two and three operands, compares, shuffles,
MOVU, loads, stores, atomics and locks. (R203) -/
def Obligations.MissingRegisterParks : Prop :=
  ∀ gid w s g0 r, s.group? (gidKey gid) = some g0 → s.issues (gidKey gid) g0 = true →
    s.fetchFault (gidKey gid) { g0 with instr := w } = none → ∀ c regs,
    ((c = .iadd gid w ∧ regs = aluRegs w 2) ∨ (c = .imad gid w ∧ regs = aluRegs w 3) ∨ (c = .iabs gid w ∧ regs = aluRegs w 1) ∨
      (c = .ffma gid w ∧ regs = aluRegs w 3) ∨ (c = .icmp gid w ∧ regs = srcAOf w :: srcBReg w) ∨
      (c = .shfl gid w ∧ regs = [dstOf w, srcAOf w] ++ srcBReg w) ∨ (c = .movu gid w ∧ regs = [srcAOf w]) ∨
      (∃ ecc, (c = .ld gid w ecc ∨ c = .ldNc gid w ecc) ∧
        regs = dataRegs (dstOf w) (accessBytes w) ++ (srcAOf w :: if spaceGlobal w then [srcAOf w + 1] else [])) ∨
      (c = .st gid w ∧ regs = dataRegs (srcBOf w) (accessBytes w) ++ (srcAOf w :: if spaceGlobal w then [srcAOf w + 1] else [])) ∨
      (c = .atom gid w ∧ srcBImm w = true ∧
        regs = dataRegs (dstOf w) (if bit (srcCOf w) 4 then 8 else 4) ++ [srcAOf w, srcAOf w + 1]) ∨
      (c = .acqG gid w ∧ regs = [srcAOf w, srcAOf w + 1]) ∨ (c = .relG gid w ∧ regs = [srcAOf w, srcAOf w + 1])) →
    c.wf = true → regRange g0 regs = some r → ∃ t h q, exec c s = .next t ∧ t.group? (gidKey gid) = some h ∧ h.status = .parked ∧ h.pc = g0.pc ∧
      h.active = g0.active ∧ h.regs = g0.regs ∧ h.preds = g0.preds ∧ h.uregs = g0.uregs ∧ h.record = some q ∧
      q.info.cause = 0x02#8 ∧ q.info.detail = BitVec.ofNat 32 r

/-- LD and LD.NC. A load whose lanes all may read, and which has its sectors, writes the words it reads into the data
registers of the lanes in which it acts, in ascending lane order, and goes on; each sector is read once, for all its
lanes; while it has not, it stays at its instruction; a lane that names a remote node leaves the group waiting for its
answers. Where no copy is held, a lane reads the bytes of the cluster store at its address. A load changes no byte of
any memory. A lane that may not read parks the group with the fault of the lowest such lane and no register written.
How a word selects width, extension and space is left to Config. (R226, R227, R228, R302, R309, R357,
08_ordering_atomics_speculation.md, 07_threads.md) -/
def Obligations.LoadResults : Prop :=
  (∀ nc gid w ecc s g t c, (nc = false ∧ c = Instr.ld gid w ecc ∨ nc = true ∧ c = Instr.ldNc gid w ecc) → c.wf = true →
    Safety.runs s gid w (dataRegs (dstOf w) (accessBytes w) ++ (srcAOf w :: if spaceGlobal w then [srcAOf w + 1] else [])) g →
    t = Safety.fetched s gid g → g.acting w ≠ 0#32 → t.mergeStall (gidKey gid) g = false →
    let lanes := (lanesOf (g.acting w)).map (fun l => (l, laneAddr g w (spaceGlobal w) l))
    let near := lanes.filter (fun x => !(spaceGlobal w && isFabric x.2))
    let far := lanes.filter (fun x => spaceGlobal w && isFabric x.2)
    let q := if spaceGlobal w then
        t.groupObtain (gidKey gid) g (t.laneSectors g .load near) (t.loadReqs (gidKey gid) g nc ecc.ce near)
      else (true, g, t)
    let r := State.loadLanes (gidKey gid) w (spaceGlobal w) nc (accessBytes w) near q.2.2 q.2.1
    let h := if spaceGlobal w then t.observeTags (gidKey gid) r.2 (accessBytes w) near else r.2.disarm
    let faults := lanes.map (fun x => (x.1, t.laneFault g (spaceGlobal w) x.2 (accessBytes w) .load (ecc.ue == some x.1)))
    (gatherFaults faults = none → q.1 = true → far = [] → ∃ u, exec c s = .next u ∧
        u.group? (gidKey gid) = some (Safety.goOn h) ∧
        u.mem.hbm = s.mem.hbm ∧ u.mem.store = s.mem.store ∧ u.mem.host = s.mem.host) ∧
    (gatherFaults faults = none → q.1 = true → far ≠ [] → t.farFull (clusterKeyOf (gidKey gid)) (far.map (·.2)) = false →
      ∃ u, exec c s = .next u ∧ u.group? (gidKey gid) = some { h with status := .remote } ∧ h.pc = g.pc ∧
        u.mem.hbm = s.mem.hbm ∧ u.mem.store = s.mem.store ∧ u.mem.host = s.mem.host) ∧
    (gatherFaults faults = none → q.1 = false → ∃ u, exec c s = .next u ∧ u.group? (gidKey gid) = some q.2.1 ∧
        q.2.1.pc = g.pc ∧ q.2.1.regs = g.regs ∧ u.mem.hbm = s.mem.hbm ∧ u.mem.store = s.mem.store ∧ u.mem.host = s.mem.host) ∧
    (∀ f, gatherFaults faults = some f → ∃ u h, exec c s = .next u ∧ u.group? (gidKey gid) = some h ∧
        h.status = .parked ∧ h.pc = g.pc ∧ h.regs = g.regs ∧ h.active = g.active)) ∧
  (∀ gid w ecc s g t, Safety.runs s gid w (dataRegs (dstOf w) (accessBytes w) ++ [srcAOf w]) g → spaceGlobal w = false →
    t = Safety.fetched s gid g → g.acting w ≠ 0#32 → t.mergeStall (gidKey gid) g = false →
    (∀ l, (g.acting w).getLsbD l = true →
      t.laneFault g false (laneAddr g w false l) (accessBytes w) .load (ecc.ue == some l) = none) →
    let lanes := (lanesOf (g.acting w)).map (fun l => (l, laneAddr g w false l))
    ((Instr.ld gid w ecc).wf = true → ∃ u, exec (.ld gid w ecc) s = .next u ∧ u.group? (gidKey gid) =
      some (Safety.goOn (State.loadLanes (gidKey gid) w false false (accessBytes w) lanes t g).2.disarm)) ∧
    ((Instr.ldNc gid w ecc).wf = true → ∃ u, exec (.ldNc gid w ecc) s = .next u ∧ u.group? (gidKey gid) =
      some (Safety.goOn (State.loadLanes (gidKey gid) w false true (accessBytes w) lanes t g).2.disarm))) ∧
  (∀ (s : State) gk g a n, cacheGet (s.core (coreKeyOf gk)).l0d (storeSector a) = none → a % 256 + n ≤ 256 →
    (s.loadBytes gk g false false a n).1 = s.storeRead (clusterKeyOf gk) a n) ∧
  (∀ (s : State) gk g a n, s.loadBytes gk g false true a n = (s.storeRead (clusterKeyOf gk) a n, s)) ∧
  (∀ gk w global nc n lanes s g, State.loadLanes gk w global nc n lanes s g =
    let r := State.loadSectors gk g global nc ((lanes.map (fun x => x.2 / 256 * 256)).dedup) s
    (r.1, lanes.foldl (fun h x => h.setWords x.1 (dstOf w) (loadedWords (Config.loadSigned (modOf w) (w.extractLsb' 20 7)) n
      (r.1.overlay gk g global x.2 (lineBytes r.2 x.2 n)))) g)) ∧
  (∀ gk g global nc b r s, (State.loadSectors gk g global nc [] s) = (s, []) ∧ (State.loadSectors gk g global nc (b :: r) s) =
    let x := s.loadBytes gk g global nc b 256
    let y := State.loadSectors gk g global nc r x.2
    (y.1, (b, x.1) :: y.2)) ∧
  (∀ lines a n b, (lines.find? (fun y => y.1 == a / 256 * 256)).map (·.2) = some b →
    lineBytes lines a n = (b.drop (a % 256)).take n)

/-- ST. A store whose lanes all may write puts the bytes of each acting lane at its address, in ascending lane order, and
goes on. In the cluster store the bytes of the last lane read back and every other byte is unchanged; in global space
each lane in turn writes exactly its bytes at the place its address translates to; a store to remote nodes changes no
byte of this module, and one of a speculative task goes to the shadow area, where it fits. A lane that may not write
parks the group with nothing stored. (R226, R227, R228, R273, R302, R357, 08_ordering_atomics_speculation.md,
07_threads.md) -/
def Obligations.StoreResults : Prop :=
  (∀ gid w s g t, (Instr.st gid w).wf = true → Safety.runs s gid w
      (dataRegs (srcBOf w) (accessBytes w) ++ (srcAOf w :: if spaceGlobal w then [srcAOf w + 1] else [])) g →
    t = Safety.fetched s gid g → g.acting w ≠ 0#32 → t.mergeStall (gidKey gid) g = false →
    let lanes := (lanesOf (g.acting w)).map (fun l => (l, laneAddr g w (spaceGlobal w) l))
    let stores := lanes.map (fun x => (x.2, storeBytes g x.1 (srcBOf w) (accessBytes w)))
    let faults := lanes.map (fun x => (x.1, t.laneFault g (spaceGlobal w) x.2 (accessBytes w) .store false))
    let q := t.groupObtain (gidKey gid) g (t.laneSectors g .store lanes)
      (t.storeReqs (gidKey gid) g .store (stores.map (fun x => (x.1, x.2.length))))
    let need := shadowNeed (t.cluster (clusterKeyOf (gidKey gid))).shadow (spaceGlobal w)
      (stores.flatMap (fun x => shadowBlocks x.1 (accessBytes w)))
    (gatherFaults faults = none → spaceGlobal w = false → t.shadowed (clusterKeyOf (gidKey gid)) g.spec = false →
      ∃ u, exec (.st gid w) s = .next u ∧ u.group? (gidKey gid) = some (Safety.goOn g.disarm) ∧
        (∀ a, (∀ x ∈ stores, ∀ i, i < x.2.length → a ≠ storeAddr (clusterKeyOf (gidKey gid)) (x.1 + i)) →
          memGet u.mem.store a = memGet s.mem.store a) ∧
        (∀ x, stores.getLast? = some x → Memory.wf s.mem.store = true → x.2.length ≤ 4194304 →
          u.storeRead (clusterKeyOf (gidKey gid)) x.1 x.2.length = x.2) ∧
        u.mem.hbm = s.mem.hbm ∧ u.mem.host = s.mem.host) ∧
    (gatherFaults faults = none → spaceGlobal w = true → (∀ x ∈ lanes, isFabric x.2 = false) →
      t.shadowed (clusterKeyOf (gidKey gid)) g.spec = false → q.1 = true → ∃ u, exec (.st gid w) s = .next u ∧
        u.group? (gidKey gid) = some (Safety.goOn q.2.1.disarm) ∧ u.mem.store = s.mem.store ∧
        u.mem.hbm = (stores.foldl (fun v x => v.storeLocal (gidKey gid) g true x.1 x.2) q.2.2).mem.hbm ∧
        u.mem.host = (stores.foldl (fun v x => v.storeLocal (gidKey gid) g true x.1 x.2) q.2.2).mem.host) ∧
    (gatherFaults faults = none → spaceGlobal w = true → (∀ x ∈ lanes, isFabric x.2 = false) →
      t.shadowed (clusterKeyOf (gidKey gid)) g.spec = false → q.1 = false → ∃ u, exec (.st gid w) s = .next u ∧
        u.group? (gidKey gid) = some q.2.1 ∧ q.2.1.pc = g.pc ∧ u.mem.hbm = s.mem.hbm ∧ u.mem.host = s.mem.host) ∧
    (gatherFaults faults = none → spaceGlobal w = true → (∀ x ∈ lanes, isFabric x.2 = true) →
      t.shadowed (clusterKeyOf (gidKey gid)) g.spec = false →
      t.farFull (clusterKeyOf (gidKey gid)) (lanes.map (·.2)) = false → ∃ u, exec (.st gid w) s = .next u ∧
        u.group? (gidKey gid) = some (Safety.goOn { g with got := [] }.disarm) ∧ u.mem = s.mem) ∧
    (gatherFaults faults = none → t.shadowed (clusterKeyOf (gidKey gid)) g.spec = true →
      need ≤ t.shadowFree g.ctx (clusterKeyOf (gidKey gid)) → ∃ u, exec (.st gid w) s = .next u ∧
        u.group? (gidKey gid) = some (Safety.goOn g.disarm) ∧ u.mem = s.mem) ∧
    (∀ f, gatherFaults faults = some f →
      ∃ u h, exec (.st gid w) s = .next u ∧ u.group? (gidKey gid) = some h ∧ h.status = .parked ∧ h.pc = g.pc ∧
        h.record.map (·.info) = some f ∧ u.mem.store = s.mem.store ∧ u.mem.hbm = s.mem.hbm)) ∧
  (∀ (s : State) gk g a p bs, s.translate g.ctx a .store = .ok p → Memory.wf s.mem.hbm = true → Memory.wf s.mem.host = true →
    let u := s.storeLocal gk g true a bs
    u.readPlace p bs.length = bs ∧ u.mem.store = s.mem.store ∧
    (∀ b, (∀ q, p = .fast q → ∀ i, i < bs.length → b ≠ q + i) → memGet u.mem.hbm b = memGet s.mem.hbm b) ∧
    (∀ b, (∀ q x, p = .host q x → ∀ i, i < bs.length → b ≠ q + i) → memGet u.mem.host b = memGet s.mem.host b))

/-- ATOM, ACQ.G and REL.G. An atomic with a release at .SYS first makes its group wait for a fence. Otherwise an atomic of
local lanes that has its sectors performs the operation of each acting lane at the home of its address, in ascending
lane order, and writes the old values into gD: memory gets the new value of Table 8.6 only where the operation writes.
ACQ.G is a compare-and-swap of 0 to the lane's lock tag for the lowest lane of each address, and writes 1 into pD of
the lanes that took their lock; REL.G writes 0 into the words where every lane finds its own tag, and otherwise parks
with LOCK_STATE and writes none. In a speculative task each parks with SPEC_FAULT (cause 0x31). (R238, R239, R261,
R264, R266, 08_ordering_atomics_speculation.md, 07_threads.md) -/
def Obligations.AtomicAndLockResults : Prop :=
  (∀ gid w s g t, let n := if bit (srcCOf w) 4 then 8 else 4
    let aop := fld (srcCOf w) 0 4
    (Instr.atom gid w).wf = true →
    Safety.runs s gid w (dataRegs (dstOf w) n ++ [srcAOf w, srcAOf w + 1] ++
      (if srcBImm w then [] else dataRegs (srcBOf w) (n * (if aop = 0xA then 2 else 1)))) g →
    t = Safety.fetched s gid g → (srcBImm w = true → bit (srcCOf w) 4 = false ∧ aop ≠ 0xA) → aop < 0xB →
    (aop = 1 → bit (srcCOf w) 4 = false) → spaceGlobal w = true →
    g.acting w ≠ 0#32 → t.mergeStall (gidKey gid) g = false → g.spec = false →
    let lanes := (lanesOf (g.acting w)).map (fun l => (l, g.pair l (srcAOf w)))
    let opAt : Nat → Nat → Nat := fun l r => if bit (srcCOf w) 4 then g.pair l r else (g.reg l r).toNat
    let ops := lanes.map (fun y => (y.1, y.2, if srcBImm w then (immOf w).toNat else opAt y.1 (srcBOf w),
      if aop = 0xA then opAt y.1 (srcBOf w + n / 4) else 0))
    let q := t.atomObtain (gidKey gid) { g with fence := none } lanes n
    let r := State.atomLanes (gidKey gid) g n aop ops (q.2.2.raiseSets g aop (lanes.map (·.2)))
    t.atomFault g aop n lanes = none → (∀ x ∈ lanes, isFabric x.2 = false) →
    (2 ≤ fld (srcCOf w) 5 2 → (modOf w).toNat = 3 → g.fence.any (fun f => f.kind == 5) = false → s.fab.epochUsed = false →
      ∃ u, exec (.atom gid w) s = .next u ∧ u.mem.hbm = s.mem.hbm ∧
        u.group? (gidKey gid) = some { g with status := .fence, fence := some ⟨4, 3, some s.fab.epoch⟩ }) ∧
    ((fld (srcCOf w) 5 2 < 2 ∨ (modOf w).toNat ≠ 3 ∨ g.fence.any (fun f => f.kind == 5) = true) → q.1 = true → ∃ u h, exec (.atom gid w) s = .next u ∧ u.group? (gidKey gid) = some h ∧
      u.mem.hbm = r.2.mem.hbm ∧ u.mem.host = r.2.mem.host ∧ u.mem.store = s.mem.store ∧ h.pc = g.pc + 8 ∧
      h.regs = (g.setOld (dstOf w) n r.1).regs ∧ h.preds = g.preds ∧ h.fence = none)) ∧
  (∀ (s : State) gk v p n lane aop x c, Memory.wf s.mem.hbm = true → Memory.wf s.mem.host = true →
    (s.atomLane gk v p n lane aop x c).1.old = leNat (s.readPlace p n) ∧
    ((s.atomLane gk v p n lane aop x c).2).readPlace p n =
      if atomWrites aop (leNat (s.readPlace p n)) x then leBytes n (atomNew aop (8 * n) (leNat (s.readPlace p n)) x c)
      else s.readPlace p n) ∧
  (∀ gid w s g t, Safety.runs s gid w [srcAOf w, srcAOf w + 1] g → t = Safety.fetched s gid g → g.acting w ≠ 0#32 →
    t.mergeStall (gidKey gid) g = false → g.spec = false →
    let lanes := (lanesOf (g.acting w)).map (fun l => (l, g.pair l (srcAOf w)))
    t.atomFault g 0xA 4 lanes = none → (∀ x ∈ lanes, isFabric x.2 = false) →
    let ops := (lowestOfEach lanes).map (fun y => (y.1, y.2, 0, t.lockTag (gidKey gid) g y.1))
    let q := t.atomObtain (gidKey gid) g (ops.map (fun o => (o.1, o.2.1))) 4
    let r := State.atomLanes (gidKey gid) g 4 0xA ops (q.2.2.raiseSets g 0xA (ops.map (·.2.1)))
    ((Instr.acqG gid w).wf = true → q.1 = true → ∃ u h, exec (.acqG gid w) s = .next u ∧ u.group? (gidKey gid) = some h ∧ h.pc = g.pc + 8 ∧ h.regs = g.regs ∧
      u.mem.hbm = r.2.mem.hbm ∧ u.mem.host = r.2.mem.host ∧
      ∀ q l, q < 8 → l < 32 → (h.pred q).getLsbD l = if q = dstOf w % 8 ∧ q ≠ 7 ∧ (g.acting w).getLsbD l = true
        then r.1.any (fun d => d.lane == l && d.old == 0) else (g.pred q).getLsbD l) ∧
    ((Instr.relG gid w).wf = true → (t.atomObtain (gidKey gid) g lanes 4).1 = true →
      (∀ x ∈ lanes, ∃ p, t.lockWord g x.2 = some (p, t.lockTag (gidKey gid) g x.1)) →
      ∃ u h, exec (.relG gid w) s = .next u ∧ u.group? (gidKey gid) = some h ∧ h.pc = g.pc + 8 ∧ h.regs = g.regs ∧ h.preds = g.preds ∧
        u.mem.store = s.mem.store ∧ (Memory.wf s.mem.hbm = true → Memory.wf s.mem.host = true → ∀ x p v,
          lanes = [x] → t.lockWord g x.2 = some (p, v) → u.readPlace p 4 = leBytes 4 0) ∧
        u.mem.hbm = (lanes.foldl (fun (v : State) y => match v.lockWord g y.2 with
            | some (p, _) => v.domainWrite (ctxVi g.ctx) p (leBytes 4 0)
            | none => v) (t.atomObtain (gidKey gid) g lanes 4).2.2).mem.hbm) ∧
    ((Instr.relG gid w).wf = true → (t.atomObtain (gidKey gid) g lanes 4).1 = true →
      (∃ x ∈ lanes, ∃ p v, t.lockWord g x.2 = some (p, v) ∧ v ≠ t.lockTag (gidKey gid) g x.1) → ∃ u h r,
      exec (.relG gid w) s = .next u ∧ u.group? (gidKey gid) = some h ∧ h.status = .parked ∧ h.pc = g.pc ∧ h.record = some r ∧
        r.info.cause = 0x09#8 ∧ u.mem.hbm = s.mem.hbm ∧ u.mem.host = s.mem.host)) ∧
  (∀ gid w s, Safety.parks (.acqG gid w) gid w s [srcAOf w, srcAOf w + 1]
    (fun g => g.acting w ≠ 0#32 ∧ (Safety.fetched s gid g).mergeStall (gidKey gid) g = false ∧ g.spec = true) 0x31 (fun _ => opcOf w)) ∧
  (∀ gid w s, Safety.parks (.relG gid w) gid w s [srcAOf w, srcAOf w + 1]
    (fun g => g.acting w ≠ 0#32 ∧ (Safety.fetched s gid g).mergeStall (gidKey gid) g = false ∧ g.spec = true) 0x31 (fun _ => opcOf w))

/-- Fences and the release of barriers. MFENCE below .SYS empties the L0 data cache of the core and the cluster cache and
goes on; at .SYS a release or full fence takes its epoch and waits. A waiting fence whose requests are all
acknowledged completes; one that has waited for 4 ms with requests unacknowledged parks with the cause 0x3B, or with
an asynchronous fault found meanwhile. A barrier that every group of its scope has reached, or has ended, lets its
groups go on at PC + 8. (R229, R254, R381, R382, 08_ordering_atomics_speculation.md) -/
def Obligations.FenceAndBarrierResults : Prop :=
  (∀ gid w s g t, (Instr.mfence gid w).wf = true → Safety.runs s gid w [] g → t = Safety.fetched s gid g → g.acting w ≠ 0#32 → t.mergeStall (gidKey gid) g = false →
    ((w.extractLsb' 20 2).toNat < 3 → ((modOf w).toNat ≠ 3 ∨ (w.extractLsb' 20 2).toNat = 2) →
      ∃ u, exec (.mfence gid w) s = .next u ∧ u.group? (gidKey gid) = some (Safety.goOn g) ∧
        (u.core (coreKeyOf (gidKey gid))).l0d = [] ∧ (u.cluster (clusterKeyOf (gidKey gid))).cache = [] ∧
        u.mem.hbm = s.mem.hbm ∧ u.mem.store = s.mem.store ∧ u.fab = s.fab) ∧
    ((w.extractLsb' 20 2).toNat < 2 → (modOf w).toNat = 3 → s.fab.epochUsed = false →
      ∃ u, exec (.mfence gid w) s = .next u ∧ u.group? (gidKey gid) =
        some { g with status := .fence, fence := some ⟨(w.extractLsb' 20 2).toNat, 3, some s.fab.epoch⟩ } ∧ u.fab = s.fab)) ∧
  (∀ gid s g f e, s.group? (gidKey gid) = some g → g.fence = some f → g.status = .fence → f.epoch = some e → f.kind ≠ 4 →
    s.unacked e = [] → ∃ u, exec (.fenceComplete gid) s = .next u ∧ u = { s with groups := u.groups } ∧
      u.group? (gidKey gid) = some { g.countInstr with status := .running, fence := none, pc := g.pc + 8 } ∧
      ∀ k, k ≠ gidKey gid → u.group? k = s.group? k) ∧
  (∀ gid s g f, s.group? (gidKey gid) = some g → g.fence = some f → g.status = .fence →
    (s.unacked (f.epoch.getD s.fab.epoch) ≠ [] ∨ f.epoch = none) → ∃ u h q, exec (.fenceTimeout gid) s = .next u ∧ u.group? (gidKey gid) = some h ∧
      h.status = .parked ∧ h.pc = g.pc ∧ h.fence = none ∧ h.record = some q ∧
      (g.async = [] → q.info.cause = 0x3B#8) ∧ (∀ x, g.async = [x] → q.info = x ∧ h.async = [])) ∧
  (∀ gid s g wide, s.group? (gidKey gid) = some g → g.status = .barrier wide → s.barrierComplete (gidKey gid) g wide = true →
    ∃ u, exec (.barrierRelease gid) s = .next u ∧ u = { s with groups := u.groups } ∧
      u.group? (gidKey gid) = some { g with status := .running, pc := g.pc + 8 } ∧
      ∀ k h, s.group? k = some h → (h.launch ≠ g.launch ∨ h.pc ≠ g.pc ∨ h.status ≠ .barrier wide) → u.group? k = some h)

/-- MX.ISSUE and DMA.START. MX.ISSUE of a descriptor that passes the checks of R151, with room in the queue and in its
token counter, appends the command to the core's queue, raises the counter of its token and goes on; with no room it
stalls. DMA.START of a legal descriptor, with a free slot of the kernel's share, fills the lowest free slot, raises
its DMA token counter and goes on. Both take the address from the lowest active thread. (R151, R220, R221, R303, R304) -/
def Obligations.IssueToEngines : Prop :=
  (∀ gid w s g l d t, (Instr.mxIssue gid w).wf = true → Safety.runs s gid w [srcAOf w] g → t = Safety.fetched s gid g → lowest g.active = some l →
    (g.acting w).getLsbD l = true → t.checkDesc (gidKey gid) g (g.reg l (srcAOf w)).toNat = .ok d →
    ((s.core (coreKeyOf (gidKey gid))).waiting < 8 → g.mxTok.get 0 (tokenOf w) ≠ 63 →
      ∃ u, exec (.mxIssue gid w) s = .next u ∧ u.group? (gidKey gid) = some (Safety.goOn
          { g with mxTok := g.mxTok.set 0 (tokenOf w) (g.mxTok.get 0 (tokenOf w) + 1) }) ∧
        u = { s with groups := u.groups, cores := u.cores } ∧
        ∃ x, (u.core (coreKeyOf (gidKey gid))).queue = (s.core (coreKeyOf (gidKey gid))).queue ++ [x] ∧ x.desc = d ∧
          x.addr = (g.reg l (srcAOf w)).toNat ∧ x.group = gidKey gid ∧ x.token = tokenOf w ∧ x.stage = .queued) ∧
    (8 ≤ (s.core (coreKeyOf (gidKey gid))).waiting ∨ g.mxTok.get 0 (tokenOf w) = 63 →
      ∃ u, exec (.mxIssue gid w) s = .next u ∧ u.group? (gidKey gid) = some { g with status := .mxStall } ∧
        (u.core (coreKeyOf (gidKey gid))).queue = (s.core (coreKeyOf (gidKey gid))).queue)) ∧
  (∀ gid w s g l i d t, (Instr.dmaStart gid w).wf = true → Safety.runs s gid w [srcAOf w] g → t = Safety.fetched s gid g → lowest g.active = some l →
    (g.acting w).getLsbD l = true → (g.reg l (srcAOf w)).toNat % 64 = 0 →
    (g.reg l (srcAOf w)).toNat + 64 ≤ scratchBytes (t.layoutOf g.ctx) →
    d = leNat (t.storeView (clusterKeyOf (gidKey gid)) g.spec (g.reg l (srcAOf w)).toNat 64) → badStream d = false →
    streamRange (scratchBytes (t.layoutOf g.ctx)) d = none → (s.cluster (clusterKeyOf (gidKey gid))).freeSlot = some i →
    (s.cluster (clusterKeyOf (gidKey gid))).slotsOf g.launch < t.streamsOf g → g.dmaTok.get 0 (tokenOf w) ≠ 63 →
    ∃ u x, exec (.dmaStart gid w) s = .next u ∧ u.slot? (clusterKeyOf (gidKey gid)) i = some x ∧ x.desc = BitVec.ofNat 512 d ∧
      x.gid = gidKey gid ∧ x.token = tokenOf w ∧ x.progress = 0 ∧
      u.group? (gidKey gid) = some (Safety.goOn { g with dmaTok := g.dmaTok.set 0 (tokenOf w) (g.dmaTok.get 0 (tokenOf w) + 1) }) ∧
      u = { s with groups := u.groups, cores := u.cores, clusters := u.clusters })

/-- Stream transfers. DMA_COPY, TRANSPOSE, PREFETCH and ZERO take the transfer of their mode turn by turn until it is
over, waits or is suspended. One turn whose runs lie in the cluster store puts what it makes of the bytes read at its
destinations, and advances the progress: a COPY the bytes themselves, a ZERO zeros; every other byte is unchanged. A
COPY of one run completes with its bytes at the destination. A PREFETCH changes no byte of memory; one turn with CACHE
puts the line of its sector into the cluster cache. A transfer that is over frees its slot and lowers its token
counter, and a group that waited for the counter to be 0 goes on. (R303, R304, R305, R306, 09_memory_tiers.md) -/
def Obligations.TransferResults : Prop :=
  (∀ (cl : Fin 1088) (slot : Fin 256) ecc s d, s.slot? cl.val slot.val = some d → d.suspended = false → d.written = false →
    d.finished = false → d.pendingReq = 0 → (d.spec && (s.cluster cl.val).merging) = false →
    let n := smRows d.desc.toNat * smRowBytes d.desc.toNat + 1
    (smMode d.desc.toNat = 0 → exec (.dmaCopy cl slot ecc) s = .next (State.dmaRun cl.val slot.val ecc n (s.endWaits cl.val (.dma slot.val)))) ∧
    (smMode d.desc.toNat = 1 → exec (.transpose cl slot ecc) s = .next (State.dmaRun cl.val slot.val ecc n (s.endWaits cl.val (.dma slot.val)))) ∧
    (smMode d.desc.toNat = 2 → exec (.prefetch cl slot ecc) s = .next (State.dmaRun cl.val slot.val ecc n (s.endWaits cl.val (.dma slot.val)))) ∧
    (smMode d.desc.toNat = 3 → exec (.zero cl slot) s = .next (State.dmaRun cl.val slot.val {} n (s.endWaits cl.val (.dma slot.val))))) ∧
  (∀ cl slot ecc n s, State.dmaRun cl slot ecc (n + 1) s = match s.slot? cl slot with
    | none => s
    | some d => match s.dmaTurn cl slot d ecc with
      | .more t => State.dmaRun cl slot ecc n t
      | .stop t => t) ∧
  (∀ cl slot d ecc c, ∀ s : State, chunkAt d.desc.toNat d.progress = some c → d.writing = false → d.spec = false →
    d.void = false → ecc.ue ≠ some d.progress → (∀ p ∈ c.reads, p.global = false) → (∀ p ∈ c.writes, p.global = false) →
    let bytes := chunkData d.desc.toNat d.progress c (c.reads.flatMap (fun p => s.storeRead cl p.addr p.n))
    let put : State × Bytes → Piece → State × Bytes := fun x p => (x.1.storeWrite cl p.addr (x.2.take p.n), x.2.drop p.n)
    ∃ u, s.dmaTurn cl slot d ecc = .more u ∧ u.mem.store = (c.writes.foldl put (s, bytes)).1.mem.store ∧
      u.mem.hbm = s.mem.hbm ∧ u.mem.host = s.mem.host ∧
      (∀ a, (∀ p ∈ c.writes, ∀ i, i < p.n → a ≠ storeAddr cl (p.addr + i)) → memGet u.mem.store a = memGet s.mem.store a) ∧
      u.slot? cl slot = some { d with progress := d.progress + c.step, fetched := [], writing := false, got := [] }) ∧
  (∀ (cl : Fin 1088) (slot : Fin 256) ecc s d c src dst n, s.slot? cl.val slot.val = some d → d.suspended = false →
    d.written = false → d.finished = false → d.pendingReq = 0 → d.writing = false → d.spec = false → d.void = false →
    smMode d.desc.toNat = 0 → chunkAt d.desc.toNat d.progress = some c → c.reads = [⟨false, src, n⟩] →
    c.writes = [⟨false, dst, n⟩] → n ≤ 4194304 → ecc.ue ≠ some d.progress →
    chunkAt d.desc.toNat (d.progress + c.step) = none → ∃ u x, exec (.dmaCopy cl slot ecc) s = .next u ∧
      u.storeRead cl.val dst n = s.storeRead cl.val src n ∧
      (∀ a, (∀ i, i < n → a ≠ storeAddr cl.val (dst + i)) → memGet u.mem.store a = memGet s.mem.store a) ∧
      u.slot? cl.val slot.val = some x ∧ x.written = true) ∧
  (∀ cl slot d ecc c dst, ∀ s : State, chunkAt d.desc.toNat d.progress = some c → d.writing = false → d.spec = false →
    d.void = false → smMode d.desc.toNat = 3 → c.reads = [] → c.writes = [⟨false, dst, c.step⟩] → c.step ≤ 4194304 →
    ∃ u, s.dmaTurn cl slot d ecc = .more u ∧ u.storeRead cl dst c.step = List.replicate c.step 0) ∧
  (∀ (cl : Fin 1088) (slot : Fin 256) ecc s, ecc.ue = none → ∃ u, exec (.prefetch cl slot ecc) s = .next u ∧
    (∀ d, s.slot? cl.val slot.val = some d → smWrites d.desc.toNat = false →
      (∀ g, s.group? d.gid = some g → g.replay = none) →
      u.mem.hbm = s.mem.hbm ∧ u.mem.store = s.mem.store)) ∧
  (∀ cl slot d ecc c a va p, ∀ s : State, chunkAt d.desc.toNat d.progress = some c → d.writing = false → d.spec = false →
    c.reads = [⟨true, a, c.step⟩] → c.writes = [] → gform a = .local va → s.translate d.ctx va .load = .ok (.fast p) →
    s.poisoned (.fast p) = false → smCache d.desc.toNat = true → ecc.ue ≠ some d.progress →
    let reqs := s.chunkReqs cl d c (ecc.ce.contains d.progress)
    let q := State.obtainAll cl (ctxVi d.ctx) (.dma slot) reqs d.got (s.demandAll cl (s.chunkDemands cl d c))
    q.1 = true → ∃ u, s.dmaTurn cl slot d ecc = .more u ∧
      (u.cluster cl).cache = (((q.2.2.homeRead (dieOfCluster cl) (.fast p)).fillCluster (q.2.2.cacheUnits d.ctx) cl
        (Place.fast p).sector ((cacheGet (q.2.2.cluster cl).cache (Place.fast p).sector).getD
          (memRead s.mem.hbm (p / 256 * 256) 256))).cluster cl).cache) ∧
  (∀ cl slot d ecc, ∀ s : State, chunkAt d.desc.toNat d.progress = none →
    s.dmaTurn cl slot d ecc = .stop (s.putSlot cl slot { d with written := true })) ∧
  (∀ (cl : Fin 1088) (slot : Fin 256) s d g, s.slot? cl.val slot.val = some d → d.written = true → d.finished = false →
    s.group? d.gid = some g →
    g.status = .dmaWait d.token → g.dmaTok.get 0 d.token = 1 → ∃ u h, exec (.dmaTransferComplete cl slot) s = .next u ∧
      (u.cluster cl.val).dma = (s.cluster cl.val).dma.erase slot.val ∧ u.group? d.gid = some h ∧ h.status = .running ∧
      h.pc = g.pc + 8 ∧ h.dmaTok = g.dmaTok.set 0 d.token 0)

/-- Kernels and thread groups start. CLUSTER_STORE_CLEAR makes every byte of the cluster store 0, empties the cluster
cache and gives the cluster to the context. KERNEL_START_CORE gives the core to the launch and empties its caches; for
another context the row slots, lane accumulators and row buffers read as 0. GROUP_START places the group on the
cluster and core of R408 with its registers 0, its live threads active and PC at the entry point. (R171, R204, R205,
R241, R282, R408) -/
def Obligations.KernelsAndGroupsStart : Prop :=
  (∀ (cl : Fin 1088) launch s l, s.launch? launch = some l → (s.logicalOf (ctxVi l.ctx) cl.val).isSome = true →
    (s.cluster cl.val).ctx ≠ some l.ctx → s.groups.any (fun g => clusterKeyOf g.1 == cl.val) = false →
    (s.cluster cl.val).cond = none → l.stopped = false → ∃ u, exec (.clusterStoreClear cl launch) s = .next u ∧
      (∀ o, o < 4194304 → memGet u.mem.store (cl.val * 4194304 + o) = 0) ∧
      (∀ a, (a < cl.val * 4194304 ∨ cl.val * 4194304 + 4194304 ≤ a) → memGet u.mem.store a = memGet s.mem.store a) ∧
      (u.cluster cl.val).ctx = some l.ctx ∧ (u.cluster cl.val).cache = [] ∧ (u.cluster cl.val).shadow = [] ∧
      (∀ k, k ≠ cl.val → u.cluster k = s.cluster k) ∧ u.mem.hbm = s.mem.hbm ∧ u.groups = s.groups ∧ u.cores = s.cores) ∧
  (∀ c launch s l, s.launch? launch = some l → l.stopped = false → (s.core (cidKey c)).kernel = none →
    s.clusterReady (cidKey c / 4) l.ctx = true → s.residents (cidKey c) = [] → ∃ u, exec (.kernelStartCore c launch) s = .next u ∧
      (u.core (cidKey c)).kernel = some launch ∧ (u.core (cidKey c)).kStart = s.coreCycles (cidKey c) ∧
      (u.core (cidKey c)).l0d = [] ∧ (u.core (cidKey c)).l0i = [] ∧ (u.cluster (cidKey c / 4)).cache = [] ∧
      ((s.core (cidKey c)).lastCtx ≠ some l.ctx → (u.core (cidKey c)).rows = [] ∧ (u.core (cidKey c)).lacc = [] ∧
        (u.core (cidKey c)).rb = []) ∧
      (∀ k, k ≠ cidKey c → u.core k = s.core k) ∧ u = { s with cores := u.cores, clusters := u.clusters, mgmt := u.mgmt }) ∧
  (∀ launch index s l k cl n g, s.launch? launch = some l → l.stopped = false → index < l.groups →
    l.started.contains index = false →
    (index < 4 * s.clusterCount (ctxVi l.ctx) ∨ l.started.contains (index - 4 * s.clusterCount (ctxVi l.ctx)) = true) →
    s.placeOf (ctxVi l.ctx) index = some (cl, n) → s.kernelOf l = some k → s.health.absent.contains cl = false →
    s.freeGroup (cl * 4 + n) = some g → (s.core (cl * 4 + n)).kernel = some launch → s.clusterReady cl l.ctx = true →
    condFits (s.cluster cl) l = true → (s.residents (cl * 4 + n)).length < groupCapacity (roundNreg k.nreg) →
    ∃ u h, exec (.groupStart launch index) s = .next u ∧ u.group? (groupKeyOn (cl * 4 + n) g) = some h ∧ h.launch = launch ∧
      h.ctx = l.ctx ∧ h.gindex = index ∧ h.nreg = roundNreg k.nreg ∧ h.regs = [] ∧ h.preds = [] ∧ h.active = liveOf l index ∧
      h.live = liveOf l index ∧ h.stack = [] ∧ h.pc = BitVec.ofNat 48 (k.code + k.entry) ∧ h.status = .running ∧
      u.launch? launch = some { l with started := l.started ++ [index] } ∧
      (∀ j, j ≠ groupKeyOn (cl * 4 + n) g → u.group? j = s.group? j))

/-- Groups end and park, kernels and speculation end. A group that waits in EXIT with its counters 0 and no write
unacknowledged ends. A pending asynchronous fault parks a group at an instruction boundary; a self-wait counter of
65,536 parks it with SELF_WAIT. REPLAY_GROUP gives a parked group its mode and stays under way; as the mode acts, it
completes: RETRY goes on at the same PC, SKIP past the instruction of a precise fault, REISSUE issues the removed
commands again and goes on, ABORT ends the group and counts it as aborted. A launch whose groups, matrix commands and
transfers are over and whose condition is resolved completes its LAUNCH command, and with it an abort that waited for
it alone, and is gone. A merge that has its sectors, with no remote read of a task unanswered (log entry 126), writes
the held stores of the cluster store in order, makes the groups of the cluster ordinary groups and frees its shadow
area. SPEC_DISCARD discards every task of the context with its tag: each is stopped with the outcome of a discard.
(R217, R230, R234, R235, R237, R240, 07_threads.md, R242, R268, R276, R277, R278) -/
def Obligations.GroupsAndKernelsEnd : Prop :=
  (
  (∀ gid s g l, s.group? (gidKey gid) = some g → g.status = .exiting → g.async = [] → g.mxTok = [] → g.dmaTok = [] →
    s.groupUnacked (gidKey gid) = false → s.launch? g.launch = some l → ∃ u, exec (.groupEnd gid) s = .next u ∧
      u.group? (gidKey gid) = none ∧
      (∀ k h, k ≠ gidKey gid → s.group? k = some h → h.status ≠ .dmaStall → u.group? k = some h) ∧ u.launch? g.launch = some { l with ended := insertNat g.gindex l.ended } ∧
      u.mem = s.mem ∧ u.cores = s.cores) ∧
  (∀ gid s g f, s.group? (gidKey gid) = some g → atBoundary g = true → g.async = [f] → ∃ u h, exec (.groupParkAsync gid) s = .next u ∧
      u.group? (gidKey gid) = some h ∧ h.status = .parked ∧ h.pc = g.pc ∧ h.regs = g.regs ∧ h.async = [] ∧
      h.record.map (·.info) = some f) ∧
  (∀ gid s g, s.group? (gidKey gid) = some g → g.selfWait.armed = true → 65536 ≤ s.selfWaitCount (gidKey gid) g →
    atBoundary g = true → g.async = [] → ∃ u h q, exec (.groupSelfWait gid) s = .next u ∧ u.group? (gidKey gid) = some h ∧
      h.status = .parked ∧ h.pc = g.pc ∧ h.regs = g.regs ∧ h.record = some q ∧ q.info.cause = 0x07#8 ∧
      q.info.detail = BitVec.ofNat 32 g.selfWait.addr.toNat) ∧
  (∀ r s c gk g, Safety.started s r 0x14 c → s.parkedWith (s.cmdCtx r) (c.arg 0 16) = some gk → s.group? gk = some g →
    c.arg 16 3 ≤ 3 → ∃ u, exec (.replayGroup r) s = .next u ∧ u.group? gk = some { g with replay := some (c.arg 16 3, r) } ∧
      u.cmd? r = some { c with busy := true }) ∧
  (∀ gid s g r c, s.replaying (gidKey gid) 0 = some g → g.replay = some (0, r) → s.cmd? r = some c →
      ∃ u, exec (.retry gid) s = .next u ∧ Safety.done u r 0 0) ∧
  (∀ gid s g, s.replaying (gidKey gid) 0 = some g → ∃ u h, exec (.retry gid) s = .next u ∧ u.group? (gidKey gid) = some h ∧
      h.status = .running ∧ h.pc = g.pc ∧ h.replay = none ∧ h.record = none ∧ h.regs = g.regs ∧ h.active = g.active) ∧
  (∀ gid s g q, s.replaying (gidKey gid) 1 = some g → g.record = some q → q.info.async = false → ∃ u h,
      exec (.skip gid) s = .next u ∧ u.group? (gidKey gid) = some h ∧ h.status = .running ∧ h.pc = g.pc + 8 ∧ h.replay = none ∧
      h.regs = g.regs ∧ h.active = g.active) ∧
  (∀ gid s g, s.replaying (gidKey gid) 2 = some g → g.removed = [] → ∃ u h, exec (.reissue gid) s = .next u ∧
      u.group? (gidKey gid) = some h ∧ h.status = .running ∧ h.pc = g.pc ∧ h.replay = none ∧ h.regs = g.regs) ∧
  (∀ gid s g a k d, s.replaying (gidKey gid) 2 = some g → g.removed = [(a, k)] → s.checkDesc (gidKey gid) g a = .ok d →
      (s.core (coreKeyOf (gidKey gid))).waiting < 8 → g.mxTok.get 0 k ≠ 63 → ∃ u h x, exec (.reissue gid) s = .next u ∧
      u.group? (gidKey gid) = some h ∧ h.status = .running ∧ h.pc = g.pc ∧ h.removed = [] ∧
      (u.core (coreKeyOf (gidKey gid))).queue = (s.core (coreKeyOf (gidKey gid))).queue ++ [x] ∧ x.desc = d ∧ x.addr = a ∧
      x.token = k) ∧
  (∀ gid s g l, s.replaying (gidKey gid) 3 = some g → s.launch? g.launch = some l → ∃ u, exec (.abort gid) s = .next u ∧
      u.launch? g.launch = some { l with ended := insertNat g.gindex l.ended, aborted := l.aborted + 1 } ∧
      u.group? (gidKey gid) = none ∧
      (∀ k h, k ≠ gidKey gid → s.group? k = some h → h.status ≠ .dmaStall → u.group? k = some h))
  ) ∧ (
  (∀ launch s l c, s.launch? launch = some l → s.launchQuiet launch l = true → s.launchResolved l = true → l.aborters = [] →
    s.cmd? l.cmd = some c → ∃ u, exec (.kernelComplete launch) s = .next u ∧ Safety.done u l.cmd 0 (launchDetail l) ∧
      u.host.launches = s.host.launches.erase launch ∧ u = { s with host := u.host }) ∧
  (∀ launch s l c r a, s.launch? launch = some l → s.launchQuiet launch l = true → s.launchResolved l = true →
    l.aborters = [r] → r ≠ l.cmd → s.cmd? l.cmd = some c → s.cmd? r = some a →
    (s.host.launches.erase launch).any (fun x => x.2.aborters.contains r) = false →
    ∃ u, exec (.kernelComplete launch) s = .next u ∧ Safety.done u l.cmd 0 (launchDetail l) ∧ Safety.done u r 0 0 ∧
      u.host.launches = s.host.launches.erase launch) ∧
  (∀ (cl : Fin 1088) s, (s.cluster cl.val).merging = true →
    let x := s.cluster cl.val
    let k := x.ctx.getD 0
    let q := State.obtainAll cl.val (ctxVi k) .other (s.mergeReqsOf k x.shadow) x.got (s.endWaits cl.val .other)
    (q.1 = false → ∃ u, exec (.specMergeDone cl) s = .next u ∧ (u.cluster cl.val).merging = true ∧ u.groups = s.groups ∧
      u.mem.hbm = s.mem.hbm ∧ u.mem.store = s.mem.store) ∧
    (q.1 = true → s.specReads cl.val = false → (∀ e ∈ x.shadow, e.global = false) → ∃ u, exec (.specMergeDone cl) s = .next u ∧
      u.mem.hbm = s.mem.hbm ∧ u.mem.store =
        ((x.shadow.flatMap ShadowEntry.stores).foldl (fun (t : State) y => t.storeWrite cl.val y.1 y.2) s).mem.store)) ∧
  (∀ (cl : Fin 1088) s, (s.cluster cl.val).merging = true →
    (State.obtainAll cl.val (ctxVi ((s.cluster cl.val).ctx.getD 0)) .other
      (s.mergeReqsOf ((s.cluster cl.val).ctx.getD 0) (s.cluster cl.val).shadow) (s.cluster cl.val).got (s.endWaits cl.val .other)).1 = true →
    s.specReads cl.val = false → ∃ u, exec (.specMergeDone cl) s = .next u ∧
      (u.cluster cl.val).cond = none ∧ (u.cluster cl.val).merging = false ∧ (u.cluster cl.val).shadow = [] ∧
      (u.cluster cl.val).held = [] ∧
      (∀ k g, s.group? k = some g → clusterKeyOf k = cl.val →
        u.group? k = some { g with spec := false, status := if g.status = .merge then .running else g.status }) ∧
      (∀ k g, s.group? k = some g → clusterKeyOf k ≠ cl.val → u.group? k = some g)) ∧
  (∀ r s c, Safety.started s r 0x15 c → s.taggedWith (s.cmdCtx r) (c.arg 0 16) 1 = [] → ∃ u, exec (.specDiscard r) s = .next u ∧
      ∀ id l, id ∈ s.taggedWith (s.cmdCtx r) (c.arg 0 16) 2 → s.launch? id = some l →
        ∃ l', u.launch? id = some l' ∧ l'.stopped = true ∧ l'.outcome = some false)
  )

/-- Matrix products. A command that may start on the row engine, the column engine or from the cluster store multiplies
its block into the lane accumulators by the operation of its operands, releases one use of its weight-cell buffer
(from the cluster store it has none), keeps what it overwrote until it completes, and adds its busy cycles and useful
multiply-adds to its counts. No memory, no accumulator of the cluster and no other core changes. (R138, R139, R146,
R154, R169, 05_matrix_rows.md) -/
def Obligations.MultiplyResults : Prop :=
  (∀ c s j x, (s.core (cidKey c)).startable [0] = some (j, x) →
    let core := s.core (cidKey c)
    let d := x.desc.toNat
    let r := mmaBlock d (geoOf d) core.lacc (core.slotOperand d (geoOf d)) ((tileOf (core.cell (x.cell.getD 0)) d).operand)
    ∃ u y, exec (.mmaRow c none) s = .next u ∧ (u.core (cidKey c)).lacc = r.1 ∧
      (u.core (cidKey c)).queue = core.queue.set j y ∧ y.stage = afterMultiply d ∧ y.undo = r.2.1 ∧ y.desc = x.desc ∧
      y.counts = x.counts.add { r.2.2 with busy := busyCycles d, macs := usefulMacs d } ∧
      (∀ k, k ≠ cidKey c → u.core k = s.core k) ∧
      (u.core (cidKey c)).cell (x.cell.getD 0) = (core.releaseUse (x.cell.getD 0)).cell (x.cell.getD 0) ∧
      (u.core (cidKey c)).rows = core.rows ∧ u = { s with cores := u.cores, groups := u.groups }) ∧
  (∀ c s j x, (s.core (cidKey c)).startable [1] = some (j, x) →
    let core := s.core (cidKey c)
    let d := x.desc.toNat
    let r := mmaBlock d (geoOf d) core.lacc (core.slotOperand d (geoOf d)) ((tileOf (core.cell (x.cell.getD 0)) d).operand)
    ∃ u y, exec (.mmaCol c none) s = .next u ∧ (u.core (cidKey c)).lacc = r.1 ∧
      (u.core (cidKey c)).queue = core.queue.set j y ∧ y.stage = afterMultiply d ∧ y.undo = r.2.1 ∧ y.desc = x.desc ∧
      y.counts = x.counts.add { r.2.2 with busy := busyCycles d, macs := usefulMacs d } ∧
      (∀ k, k ≠ cidKey c → u.core k = s.core k) ∧
      (u.core (cidKey c)).cell (x.cell.getD 0) = (core.releaseUse (x.cell.getD 0)).cell (x.cell.getD 0) ∧
      (u.core (cidKey c)).rows = core.rows ∧ u = { s with cores := u.cores, groups := u.groups }) ∧
  (∀ c s j x, (s.core (cidKey c)).startable [4] = some (j, x) →
    let core := s.core (cidKey c)
    let d := x.desc.toNat
    let p := leNat (s.localPayload c.cluster.val x.spec d)
    let q := if dBswEn d then some (leNat (s.localScales c.cluster.val x.spec d), dBswDir d, dBswBlock d) else none
    let w : WTile := { fmt := dWfmt d, orient := false, payload := p, scales := q }
    let r := mmaBlock d (geoOf d) core.lacc (s.osOperand c.cluster.val x.spec d (geoOf d)) w.operand
    ∃ u y, exec (.mmaOs c false) s = .next u ∧ (u.core (cidKey c)).lacc = r.1 ∧
      (u.core (cidKey c)).queue = core.queue.set j y ∧ y.stage = afterMultiply d ∧ y.undo = r.2.1 ∧
      y.counts = x.counts.add { r.2.2 with busy := busyCycles d, macs := usefulMacs d } ∧
      (∀ k, k ≠ cidKey c → u.core k = s.core k) ∧ u = { s with cores := u.cores, groups := u.groups }) ∧
  (∀ d g lacc a w, mmaBlock d g lacc a w = (outputsOf g).foldl (fun t o =>
    let r := mmaOutput d g lacc a w o.1 o.2
    (t.1.set 0 (laccKey d g o.1 o.2) r.1, (laccKey d g o.1 o.2, lacc.get 0 (laccKey d g o.1 o.2)) :: t.2.1, t.2.2.add r.2)) (lacc, [], {}))

/-- The head of a matrix queue, loads and ties. The first command that has not started becomes the head; a command that
needs a tile takes the READY buffer with its TILE_ID. A head command without a usable buffer for 16,777,216 cycles
faults (cause 0x27). LOADA fills its row slots from the cluster store; TIE_SET enters a tie with ACC_ADDR and
ACC_PITCH and TIE_CLR removes it: for the later commands of the core at once, in the table of the cluster when they
complete (log entry 113, the model's reading); a local weight load fills a free buffer with one use. (R146, R147,
R150, R158, R162) -/
def Obligations.MatrixQueueResults : Prop :=
  (∀ c s j x, (s.core (cidKey c)).headIdx = some j → (s.core (cidKey c)).queue[j]? = some x → x.stage = .queued →
    needsCell x.desc.toNat = false → ∃ u y, exec (.mxHead c) s = .next u ∧
      (u.core (cidKey c)).queue = (s.core (cidKey c)).queue.set j y ∧ y.stage = .head ∧ y.since = s.coreCycles (cidKey c) ∧
      y.desc = x.desc ∧ u = { s with cores := u.cores }) ∧
  (∀ c s j x i, (s.core (cidKey c)).headIdx = some j → (s.core (cidKey c)).queue[j]? = some x → x.stage = .head →
    (s.core (cidKey c)).setHeld x = false → needsCell x.desc.toNat = true → x.cell = none → dWsrc x.desc.toNat = false →
    (s.core (cidKey c)).findTile (dTile x.desc.toNat) = .cell i →
    ((s.core (cidKey c)).cell i).needScale = dBswEn x.desc.toNat → ∃ u y, exec (.mxHead c) s = .next u ∧
      (u.core (cidKey c)).queue = (s.core (cidKey c)).queue.set j y ∧ y.cell = some i ∧ y.desc = x.desc ∧
      u = { s with cores := u.cores }) ∧
  (∀ c s j x g, (s.core (cidKey c)).headIdx = some j → (s.core (cidKey c)).queue[j]? = some x → x.stage = .head →
    needsCell x.desc.toNat = true → x.cell = none → s.conv.state ≠ .noticed →
    s.conv.state ≠ .halted → s.group? x.group = some g → g.status ≠ .parked →
    let gone := (s.core (cidKey c)).queue.filter (fun y => y.group == x.group && x.issue ≤ y.issue)
    ∃ u h f, exec (.weightTimeout c) s = .next u ∧ (u.core (cidKey c)).queue.map (·.issue) =
        ((s.core (cidKey c)).queue.filter (fun y => !(y.group == x.group && x.issue ≤ y.issue))).map (·.issue) ∧
      u.group? x.group = some h ∧ h.async = g.async ++ [f] ∧ f.cause = 0x27#8 ∧
      f.async = true ∧ f.detail = BitVec.ofNat 32 (mxDetail x.addr x.token) ∧
      h.removed = (g.removed ++ gone.map (fun y => (y.addr, y.token))).take 8) ∧
  (∀ c s (n : Fin 8) h x i, (s.core (cidKey c)).headIdx = some h → (s.core (cidKey c)).queue[h + n.val]? = some x →
    (s.core (cidKey c)).freeCell = some i → x.wantsLocal = true →
    (((s.core (cidKey c)).queue.take (h + n.val)).drop h).any (·.wantsLocal) = false →
    ∃ u y, exec (.localWeightLoad c n) s = .next u ∧ (u.core (cidKey c)).queue[h + n.val]? = some y ∧
      y.cell = some i ∧ y.counts.wloadLocal = x.counts.wloadLocal + 1 ∧
      ((u.core (cidKey c)).cell i).state = .ready ∧ ((u.core (cidKey c)).cell i).uses = 1 ∧
      ((u.core (cidKey c)).cell i).local_ = true ∧
      ((u.core (cidKey c)).cell i).payload = s.localPayload c.cluster.val x.spec x.desc.toNat ∧
      ((u.core (cidKey c)).cell i).scales = s.localScales c.cluster.val x.spec x.desc.toNat ∧
      (u.core (cidKey c)).claims = (s.core (cidKey c)).claims + 1 ∧ u = { s with cores := u.cores }) ∧
  (∀ c s j x, (s.core (cidKey c)).startable [2] = some (j, x) → ∃ u y, exec (.loada c) s = .next u ∧
      (u.core (cidKey c)).queue = (s.core (cidKey c)).queue.set j y ∧ y.stage = .accDone ∧
      (u.core (cidKey c)).rows = (List.range (geoOf x.desc.toNat).rows).foldl (fun t m =>
        t.set 0 (rowKey ((geoOf x.desc.toNat).lane m) (dRowBase x.desc.toNat + (geoOf x.desc.toNat).slot m))
          (packFields ((List.range 64).map (fun e => (elemBits (dAfmt x.desc.toNat),
            if e < (geoOf x.desc.toNat).k then s.sourceElem c.cluster.val x.spec x.desc.toNat m e else 0)))))
        (s.core (cidKey c)).rows ∧
      (∀ k, (∀ m, m < (geoOf x.desc.toNat).rows →
        k ≠ rowKey ((geoOf x.desc.toNat).lane m) (dRowBase x.desc.toNat + (geoOf x.desc.toNat).slot m)) →
        (u.core (cidKey c)).rows.get 0 k = (s.core (cidKey c)).rows.get 0 k) ∧
      (u.core (cidKey c)).lacc = (s.core (cidKey c)).lacc ∧ u = { s with cores := u.cores, groups := u.groups }) ∧
  (∀ c s j x, (s.core (cidKey c)).startable [6] = some (j, x) → ∃ u y, exec (.tieSet c) s = .next u ∧
      (u.core (cidKey c)).queue = (s.core (cidKey c)).queue.set j y ∧ y.stage = .accDone ∧ y.desc = x.desc ∧
      (∀ d l, dAccSel d = true → dTie d = dTie x.desc.toNat → dOp x.desc.toNat = 6 → accTarget (u.cluster c.cluster.val) (l ++ [y]) d =
        some (dAccAddr x.desc.toNat, dAccPitch x.desc.toNat)) ∧ u = { s with cores := u.cores, groups := u.groups }) ∧
  (∀ c s j x, (s.core (cidKey c)).startable [7] = some (j, x) → ∃ u y, exec (.tieClr c) s = .next u ∧
      (u.core (cidKey c)).queue = (s.core (cidKey c)).queue.set j y ∧ y.stage = .accDone ∧ y.desc = x.desc ∧
      (∀ d l, dAccSel d = true → dTie d = dTie x.desc.toNat → dOp x.desc.toNat = 7 →
        accTarget (u.cluster c.cluster.val) (l ++ [y]) d = none) ∧ u = { s with cores := u.cores, groups := u.groups }) ∧
  (∀ c s x rest, (s.core (cidKey c)).queue = x :: rest → x.stage = .accDone → ∃ u, exec (.mxCommandComplete c) s = .next u ∧
      (u.cluster c.cluster.val).tie = (if dOp x.desc.toNat = 6 then
          (s.cluster c.cluster.val).tie.put (dTie x.desc.toNat) (dAccAddr x.desc.toNat, dAccPitch x.desc.toNat)
        else if dOp x.desc.toNat = 7 then (s.cluster c.cluster.val).tie.erase (dTie x.desc.toNat)
        else (s.cluster c.cluster.val).tie) ∧ (∀ k, k ≠ c.cluster.val → u.cluster k = s.cluster k))

/-- Epilogues, the accumulator and completion. EPI starts an epilogue on the block that an earlier command left, and
EPILOGUE_STEP runs the step of the first multiplication that waits for one, when no earlier epilogue is under way: its
outputs go to the cluster store, of a speculative task to its shadow area (DEST 0), to the row slots (DEST 1), or wait
for the add unit (DEST 2). ACC_ADD adds the waiting outputs to the cluster accumulator and marks the units. A
completed command leaves the queue, counts into the totals of Table 6.11 and lowers its token, and a group that waited
for the token to be 0 goes on. (R153, R156, R157, R161, R164, R194, R197, R222, 05_matrix_rows.md) -/
def Obligations.EpilogueResults : Prop :=
  (∀ c s j x, (s.core (cidKey c)).startable [3] = some (j, x) →
    let d := x.desc.toNat
    let g := geoOf d
    let t := s.putCore (cidKey c) ((s.core (cidKey c)).setCmd j (x.started (s.coreCycles (cidKey c)) .multiplied))
    let o := t.epilogue c.cluster.val x.spec (t.core (cidKey c)) d
    (dDest d = 2 → ∃ u y, exec (.epi c false) s = .next u ∧ (u.core (cidKey c)).queue[j]? = some y ∧ y.stage = .epilogued ∧
      y.desc = x.desc ∧ y.accOut = (List.range g.n).flatMap (fun n => (List.range g.rows).map (fun m =>
        (g.n0 + n, m, BitVec.ofNat 32 ((o.codes.getD m []).getD n 0)))) ∧
      (u.core (cidKey c)).lacc = (s.core (cidKey c)).lacc ∧ u = { s with cores := u.cores, groups := u.groups }) ∧
    (dDest d ≠ 2 → s.shadowed c.cluster.val x.spec = false → x.void = false → ∃ u y, exec (.epi c false) s = .next u ∧
      (u.core (cidKey c)).queue[j]? = some y ∧ y.stage = .accDone ∧ y.desc = x.desc ∧
      u.mem.store = (s.storeOutputs (cidKey c) (epiWrites d g o)).mem.store ∧ u.mem.hbm = s.mem.hbm ∧
      (u.core (cidKey c)).rows = (epiSlots d g o (s.core (cidKey c))).rows ∧
      (u.core (cidKey c)).rb = epiBuffers d g o (s.core (cidKey c)).rb ∧
      (u.core (cidKey c)).lacc = (s.core (cidKey c)).lacc ∧ u.clusters = s.clusters) ∧
    (dDest d ≠ 2 → s.shadowed c.cluster.val x.spec = true → x.void = false →
      shadowNeed (s.cluster c.cluster.val).shadow false ((epiWrites d g o).flatMap (fun w => shadowBlocks w.1 w.2.length)) ≤
        s.shadowFree x.ctx c.cluster.val → ∃ u y, exec (.epi c false) s = .next u ∧
      (u.core (cidKey c)).queue[j]? = some y ∧ y.stage = .accDone ∧ u.mem.store = s.mem.store ∧
      (u.cluster c.cluster.val).shadow =
        (epiWrites d g o).foldl (fun h w => shadowWrite h false w.1 w.2) (s.cluster c.cluster.val).shadow)) ∧
  (∀ c s j x, (s.core (cidKey c)).queue.findIdx? (·.awaitsEpilogue) = some j →
    (s.core (cidKey c)).queue[j]? = some x → epilogueFree ((s.core (cidKey c)).queue.take j) = true →
    let d := x.desc.toNat
    let g := geoOf d
    let o := s.epilogue c.cluster.val x.spec (s.core (cidKey c)) d
    (dDest d = 2 → ∃ u y, exec (.epilogueStep c false) s = .next u ∧ (u.core (cidKey c)).queue[j]? = some y ∧
      y.stage = .epilogued ∧ y.desc = x.desc ∧ y.accOut = (List.range g.n).flatMap (fun n => (List.range g.rows).map (fun m =>
        (g.n0 + n, m, BitVec.ofNat 32 ((o.codes.getD m []).getD n 0)))) ∧ u = { s with cores := u.cores, groups := u.groups }) ∧
    (dDest d ≠ 2 → s.shadowed c.cluster.val x.spec = false → x.void = false → ∃ u y, exec (.epilogueStep c false) s = .next u ∧
      (u.core (cidKey c)).queue[j]? = some y ∧ y.stage = .accDone ∧ y.desc = x.desc ∧
      u.mem.store = (s.storeOutputs (cidKey c) (epiWrites d g o)).mem.store ∧ u.mem.hbm = s.mem.hbm ∧
      (u.core (cidKey c)).rows = (epiSlots d g o (s.core (cidKey c))).rows ∧
      (u.core (cidKey c)).rb = epiBuffers d g o (s.core (cidKey c)).rb ∧ u.clusters = s.clusters) ∧
    (dDest d ≠ 2 → s.shadowed c.cluster.val x.spec = true → x.void = false →
      shadowNeed (s.cluster c.cluster.val).shadow false ((epiWrites d g o).flatMap (fun w => shadowBlocks w.1 w.2.length)) ≤
        s.shadowFree x.ctx c.cluster.val → ∃ u y, exec (.epilogueStep c false) s = .next u ∧
      (u.core (cidKey c)).queue[j]? = some y ∧ y.stage = .accDone ∧ u.mem.store = s.mem.store ∧
      (u.cluster c.cluster.val).shadow =
        (epiWrites d g o).foldl (fun h w => shadowWrite h false w.1 w.2) (s.cluster c.cluster.val).shadow)) ∧
  (∀ c s j x addr p, (s.core (cidKey c)).queue.findIdx? (fun x => x.stage == .epilogued) = some j →
    (s.core (cidKey c)).queue[j]? = some x →
    accTarget (s.cluster c.cluster.val) ((s.core (cidKey c)).queue.take j) x.desc.toNat = some (addr, p) →
    accOverrun (geoOf x.desc.toNat) addr p = false → s.shadowed c.cluster.val x.spec = false → x.void = false →
    let l := x.accOut.map (fun o => (accWord addr (pitchOf p) (geoOf x.desc.toNat).n o.1 o.2.1, o.2.2))
    let reds := (List.range (geoOf x.desc.toNat).rows).flatMap (fun m => leBytes 4
      ((s.core (cidKey c)).rb.get 0 (rbKey (dRbW x.desc.toNat) ((geoOf x.desc.toNat).lane m) ((geoOf x.desc.toNat).slot m))).toNat)
    (∀ y ∈ l, (s.cluster c.cluster.val).final.contains (y.1 / 64) = false) → ∃ u y, exec (.accAdd c) s = .next u ∧
      (u.cluster c.cluster.val).acc = (applyAcc (dAccWrite x.desc.toNat) (s.cluster c.cluster.val).acc l).1 ∧
      (u.core (cidKey c)).queue = (s.core (cidKey c)).queue.set j y ∧ y.stage = .accDone ∧ y.accOut = [] ∧
      y.accUnits = (l.map (fun z => z.1 / 64)).dedup ∧ u.mem.hbm = s.mem.hbm ∧
      u.mem.store = (s.storeOutputs (cidKey c) (if dRedWrite x.desc.toNat then [(dRedAddr x.desc.toNat, reds)] else [])).mem.store ∧
      u = { s with cores := u.cores, clusters := u.clusters, mem := u.mem }) ∧
  (∀ c s x rest, (s.core (cidKey c)).queue = x :: rest → x.stage = .accDone → ∃ u, exec (.mxCommandComplete c) s = .next u ∧
      (u.core (cidKey c)).queue.map (·.issue) = rest.map (·.issue) ∧
      u.obj 0x70100 (dieOfCluster c.cluster.val) = (s.obj 0x70100 (dieOfCluster c.cluster.val) + x.counts.satAcc) % 2 ^ 64 ∧
      u.obj 0x70101 (dieOfCluster c.cluster.val) = (s.obj 0x70101 (dieOfCluster c.cluster.val) + x.counts.satConv) % 2 ^ 64 ∧
      u.obj 0x70104 (dieOfCluster c.cluster.val) = (s.obj 0x70104 (dieOfCluster c.cluster.val) + x.counts.nanOut) % 2 ^ 64 ∧
      (u.cluster c.cluster.val).final = (if isEpiStep x.desc.toNat ∧ dDest x.desc.toNat = 2 ∧ dAccFinal x.desc.toNat ∧ !x.void
        then x.accUnits.foldl (fun h u => insertNat u h) (s.cluster c.cluster.val).final else (s.cluster c.cluster.val).final)) ∧
  (∀ c s x rest g, (s.core (cidKey c)).queue = x :: rest → x.stage = .accDone → s.group? x.group = some g →
    g.status = .mxWait x.token → g.async = [] → g.mxTok.get 0 x.token = 1 → ∃ u h, exec (.mxCommandComplete c) s = .next u ∧
      u.group? x.group = some h ∧ h.status = .running ∧ h.pc = g.pc + 8 ∧
      h.mxTok = g.mxTok.set 0 x.token 0 ∧ h.regs = g.regs)

/-- The common arbiter. A request whose grant unit the class has becomes the head of its requester at an instance, or
waits behind that requester's head; at a pseudo-channel in a retraining window it enters the hold queue, and is
counted where that is full. A decision at an idle instance with one head grants it from the instance cycle behind its
arrival, and the requester's next request becomes its head. When FAIR_N decisions are due the head that has waited
longest is granted, whatever the priorities; a requester that lost has its back-off loaded with 2, or double the value
loaded last, up to 1,024. A request and a decision leave every other instance as it was. A back-off that has run down
becomes 0 and keeps the value loaded last. An emergency within its share stops the running grant where it is, and
PREEMPT_COUNT rises when the grant had begun; one beyond the share does not take place; the grant resumes when the
emergency is over. The debug port has one beat in every 16 cycles, a refresh never more than 421. A control write with
FAIR_N from 4 to 64 takes effect from the next cycle; one outside sets N_REJECT and changes no FAIR_N; through a
virtual interface it has no effect. (R33, R35, R36, R37, R44, R46, R298, 02_arbitration.md, R39, R40, R42, R45) -/
def Obligations.ArbitersDecide : Prop :=
  (
  (∀ c inst req beats cycle s, let x := s.arb.insts.get {} (instKey c inst)
    req < requesters c → unitFits c beats = true → c ≠ .hbmQueue → x.running = none → x.emergency = false → x.heads = [] →
    ∃ u, exec (.arbiterRequest c inst req beats cycle) s = .next u ∧
      (u.arb.insts.get {} (instKey c inst)).heads = [⟨req, cycle, beats, 0⟩] ∧
      (u.arb.insts.get {} (instKey c inst)).queued = x.queued ∧
      (∀ k, k ≠ instKey c inst → u.arb.insts.get {} k = s.arb.insts.get {} k) ∧
      u = { s with arb := { s.arb with insts := u.arb.insts } }) ∧
  (∀ c inst req beats cycle s g h, let x := s.arb.insts.get {} (instKey c inst)
    req < requesters c → unitFits c beats = true → c ≠ .hbmQueue → x.running = some g → x.emergency = false → x.closed = false →
    cycle < g.since + g.left → 0 < cycle → x.heads = [h] →
    ∃ u, exec (.arbiterRequest c inst req beats cycle) s = .next u ∧ (u.arb.insts.get {} (instKey c inst)).running = some g ∧
      (h.req = req → (u.arb.insts.get {} (instKey c inst)).heads = [h] ∧
        (u.arb.insts.get {} (instKey c inst)).queued = x.queued ++ [⟨req, cycle, beats, 0⟩]) ∧
      (h.req ≠ req → (u.arb.insts.get {} (instKey c inst)).heads = [h, ⟨req, cycle, beats, 0⟩] ∧
        (u.arb.insts.get {} (instKey c inst)).queued = x.queued)) ∧
  (∀ inst req beats cycle s, let x := s.arb.insts.get {} (instKey .hbmQueue inst)
    1024 ≤ req → req < requesters .hbmQueue → unitFits .hbmQueue beats = true → s.holds inst = false → x.running = none →
    x.emergency = false → x.heads = [] → ∃ u, exec (.arbiterRequest .hbmQueue inst req beats cycle) s = .next u ∧
      (u.arb.insts.get {} (instKey .hbmQueue inst)).heads = [⟨req, cycle, beats, 0⟩]) ∧
  (∀ inst req beats cycle s, 1024 ≤ req → req < requesters .hbmQueue → unitFits .hbmQueue beats = true →
    s.holds inst = true →
    ((s.pchan inst).held.length < 256 → ∃ u, exec (.arbiterRequest .hbmQueue inst req beats cycle) s = .next u ∧
      (u.pchan inst).held = (s.pchan inst).held ++ [⟨req, cycle, beats, 0⟩] ∧ u = { s with mem := { s.mem with pchan := u.mem.pchan } }) ∧
    (256 ≤ (s.pchan inst).held.length → exec (.arbiterRequest .hbmQueue inst req beats cycle) s = .next (s.bump 0x40105 inst))) ∧
  (∀ c inst req beats cycle s, unitFits c beats = false → exec (.arbiterRequest c inst req beats cycle) s = .next s) ∧
  (∀ c inst cycle s h, let x := s.arb.insts.get {} (instKey c inst)
    let t := max x.idleFrom (nextCycle c h.arrived)
    x.heads = [h] → x.running = none → x.emergency = false → x.closed = false → (c = .hbmQueue → x.ended = []) →
    t ≤ cycle → cycle + 1 < t + h.beats →
    ∃ u, exec (.arbiterDecision c inst cycle) s = .next u ∧
      (u.arb.insts.get {} (instKey c inst)).running = some ⟨h.req, h.beats, t, h.tag⟩ ∧
      (u.arb.insts.get {} (instKey c inst)).heads = (match x.queued.find? (fun y => y.req == h.req) with
        | some y => [{ y with arrived := max y.arrived t }]
        | none => []) ∧ (u.arb.insts.get {} (instKey c inst)).lastGranted = some h.req ∧
      (∀ k, k ≠ instKey c inst → u.arb.insts.get {} k = s.arb.insts.get {} k) ∧
      u = { s with arb := { s.arb with insts := u.arb.insts } }) ∧
  (∀ c t, t < nextCycle c t ∧ cycleOf c (nextCycle c t) = cycleOf c t + 1 ∧
    ∀ q, t < q → cycleOf c t < cycleOf c q → nextCycle c t ≤ q) ∧
  (∀ (a : Arbiters) c die t start (x : Arb) h, oldest (x.heads.filter (fun y => decide (y.arrived < t))) = some h →
    (a.fairReg die c).at c t ≤ x.count + 1 → x.decide a c die t start = (x.finish c).grant h t start 0) ∧
  (∀ t (x : Arb) req, ((x.lose t req).backoff.get {} req).last =
      (if (x.backoff.get {} req).last = 0 then 2 else min 1024 (2 * (x.backoff.get {} req).last)) ∧
    ((x.lose t req).backoff.get {} req).value = ((x.lose t req).backoff.get {} req).last)
  ) ∧ (
  (∀ c inst req cycle s, let x := s.arb.insts.get {} (instKey c inst)
    x.heads = [] → x.running = none → x.emergency = false → (c = .hbmQueue → x.ended = []) → x.backoffAt c req cycle = 0 →
    ∃ u, exec (.backoffExpire c inst req cycle) s = .next u ∧
      ((u.arb.insts.get {} (instKey c inst)).backoff.get {} req).value = 0 ∧
      ((u.arb.insts.get {} (instKey c inst)).backoff.get {} req).last = (x.backoff.get {} req).last ∧
      u = { s with arb := { s.arb with insts := u.arb.insts } }) ∧
  (∀ c inst cycle s g, let x := s.arb.insts.get {} (instKey c inst)
    x.emergency = false → x.running = some g → x.closed = false → cycle < g.since + g.left → g.since < cycle →
    (c = .hbmQueue → x.ended = []) →
    (0 < x.emergencyRoom c cycle → ∃ u, exec (.emergencyPreempt c inst cycle) s = .next u ∧
      (u.arb.insts.get {} (instKey c inst)).emergency = true ∧
      (u.arb.insts.get {} (instKey c inst)).until_ = cycle + x.emergencyRoom c cycle ∧
      (u.arb.insts.get {} (instKey c inst)).running = some { g with left := g.left - (cycle - g.since) } ∧
      u.arb.preempts.get 0 (classKey (dieOf c inst) c) = min 0xFFFF (s.arb.preempts.get 0 (classKey (dieOf c inst) c) + 1) ∧
      u = { s with arb := { s.arb with insts := u.arb.insts, preempts := u.arb.preempts } }) ∧
    (x.emergencyRoom c cycle = 0 → ∃ u, exec (.emergencyPreempt c inst cycle) s = .next u ∧
      (u.arb.insts.get {} (instKey c inst)).emergency = false ∧ (u.arb.insts.get {} (instKey c inst)).running = some g ∧
      u.arb.preempts = s.arb.preempts)) ∧
  (∀ (x : Arb) t, x.emergencyRoom .fabricEgress t = 0 ∧ x.emergencyRoom .homeEndpoint t = 0 ∧ x.emergencyRoom .hbmQueue t ≤ 421 ∧
    (x.emergency = false → x.emergencyRoom .storeBank t = if ∃ v ∈ x.uses, t < v.1 + 16 then 0 else 1) ∧
    (x.emergency = false → x.emergencyRoom .cacheSlice t = if ∃ v ∈ x.uses, t < v.1 + 16 then 0 else 1)) ∧
  (∀ c inst cycle s g, let x := s.arb.insts.get {} (instKey c inst)
    x.emergency = true → x.running = some g → x.since < cycle → cycle ≤ x.until_ → (c = .hbmQueue → x.ended = []) →
    ∃ u, exec (.emergencyEnd c inst cycle) s = .next u ∧
      (u.arb.insts.get {} (instKey c inst)).emergency = false ∧
      (u.arb.insts.get {} (instKey c inst)).running = some { g with since := cycle } ∧
      (u.arb.insts.get {} (instKey c inst)).uses = x.uses ++ [(x.since, cycle - x.since)] ∧
      u = { s with arb := { s.arb with insts := u.arb.insts } }) ∧
  (∀ (die : Fin 12) c (value : BitVec 32) cycle s, carries die.val c = true → 4 ≤ fld value.toNat 0 8 → fld value.toNat 0 8 ≤ 64 →
    ∃ u, exec (.arbiterControlWrite die c false value cycle) s = .next u ∧
      (∀ t, cycleOf c cycle < cycleOf c t → (u.arb.fairReg die.val c).at c t = fld value.toNat 0 8) ∧
      (∀ t, cycleOf c t ≤ cycleOf c cycle → (u.arb.fairReg die.val c).at c t = (s.arb.fairReg die.val c).at c cycle) ∧
      u.arb.reject = (if bit value.toNat 31 then s.arb.reject.set false (classKey die.val c) false else s.arb.reject) ∧
      u = { s with arb := { s.arb with insts := u.arb.insts, reject := u.arb.reject, fairN := u.arb.fairN } }) ∧
  (∀ (die : Fin 12) c (value : BitVec 32) cycle s, carries die.val c = true → (fld value.toNat 0 8 < 4 ∨ 64 < fld value.toNat 0 8) →
    ∃ u, exec (.arbiterControlWrite die c false value cycle) s = .next u ∧ u.arb.fairN = s.arb.fairN ∧
      u.arb.reject.get false (classKey die.val c) = true) ∧
  (∀ die c value cycle s, exec (.arbiterControlWrite die c true value cycle) s = .next s)
  )

/-- Register writes by access code. A write to a read-only object changes nothing. A write of an accepted value to an
object that no tag guards sets a plain setting, and acts as a dictionary write; one outside the object's range changes
nothing. A write to a guarded object without a tag has no effect and is counted, once a key is provisioned. A priority
register takes its value for decisions of later cycles; the admin block of a function takes its ring and event
addresses, legal sizes and its vector; a 1 clears a bit of the mailbox status and of the pending bitmap. Through a
virtual function the registers of the dies and the dictionary are not reached. (R10, R43, R438, R448,
12_host_interface.md) -/
def Obligations.RegisterWriteResults : Prop :=
  (∀ o (i : Nat) value cycle s, exec (.registerWrite (.object o i) true value cycle) s = .next s) ∧
  (∀ die c j value cycle s, exec (.registerWrite (.priority die c j) true value cycle) s = .next s) ∧
  (∀ o i value cycle s x, s.objInfo o = some x → x.acc = .ro →
    exec (.registerWrite (.object o i) false value cycle) s = .next s) ∧
  (∀ o value cycle s x, Safety.plainSetting o → s.objInfo o = some x → s.serves = true → s.recovering = false → value < 256 ^ x.size →
    (s.rangeOk o 0 value = true → ∃ u, exec (.registerWrite (.object o 0) false value cycle) s = .next u ∧ u.obj o 0 = value ∧
      (∀ k, k ≠ okey o 0 → Bank.find? u.mgmt.dict k = Bank.find? s.mgmt.dict k) ∧ u = { s with mgmt := u.mgmt }) ∧
    (s.rangeOk o 0 value = false → exec (.registerWrite (.object o 0) false value cycle) s = .next s)) ∧
  (∀ o i value cycle s x, s.objInfo o = some x → x.acc ≠ .ro → (keyStateOn s = false ∨ (x.acc ≠ .rwg ∧ x.acc ≠ .wog)) →
    s.serves = true → s.recovering = false → o ≠ 0xA0010 → s.objAccepts o i = true → x.indexOk o i = true → value < 256 ^ x.size →
    exec (.registerWrite (.object o i) false value cycle) s = .next (s.applyWrite o i value).2) ∧
  (∀ o i value cycle s x, s.objInfo o = some x → keyStateOn s = true → (x.acc = .rwg ∨ x.acc = .wog) → s.serves = true →
    s.recovering = false → o ≠ 0xA0010 → ∃ u, exec (.registerWrite (.object o i) false value cycle) s = .next u ∧
      u.obj 0x90020 0 = (s.obj 0x90020 0 + 1) % 2 ^ 64 ∧ u = s.setObj 0x90020 0 ((s.obj 0x90020 0 + 1) % 2 ^ 64)) ∧
  (∀ (die : Fin 12) c j value cycle s, carries die.val c = true → 8 * j < requesters c →
    ∃ u, exec (.registerWrite (.priority die c j) false value cycle) s = .next u ∧
      (∀ t, cycleOf c cycle < cycleOf c t → (u.arb.prioReg die.val c j).at c t = value % 2 ^ 32) ∧
      u = { s with arb := { s.arb with insts := u.arb.insts, priority := u.arb.priority } }) ∧
  (∀ v vf value cycle s, s.hasVi v.val = true → s.barOpen = true →
    (∃ u, exec (.registerWrite (.admin v .ringBase) vf value cycle) s = .next u ∧
      u.host.adminRing.get {} v.val = { s.host.adminRing.get {} v.val with base := value % 2 ^ 64 } ∧
      u = { s with host := { s.host with adminRing := u.host.adminRing } }) ∧
    (∃ u, exec (.registerWrite (.admin v .eventBase) vf value cycle) s = .next u ∧
      u.host.adminEvent.get {} v.val = { s.host.adminEvent.get {} v.val with base := value % 2 ^ 64 } ∧
      u = { s with host := { s.host with adminEvent := u.host.adminEvent } }) ∧
    (∃ u, exec (.registerWrite (.admin v .vector) vf value cycle) s = .next u ∧
      u.host.adminVector.get 0 v.val = value % 4096 ∧ u = { s with host := { s.host with adminVector := u.host.adminVector } }) ∧
    (value ≤ 10 → ∃ u, exec (.registerWrite (.admin v .ringSize) vf value cycle) s = .next u ∧
      u.host.adminRing.get {} v.val = { s.host.adminRing.get {} v.val with size := value } ∧
      u = { s with host := { s.host with adminRing := u.host.adminRing } }) ∧
    (10 < value → exec (.registerWrite (.admin v .ringSize) vf value cycle) s = .next s) ∧
    (value ≤ 8 → ∃ u, exec (.registerWrite (.admin v .eventSize) vf value cycle) s = .next u ∧
      u.host.adminEvent.get {} v.val = { s.host.adminEvent.get {} v.val with size := 256 * 2 ^ value } ∧
      u = { s with host := { s.host with adminEvent := u.host.adminEvent } }) ∧
    (8 < value → exec (.registerWrite (.admin v .eventSize) vf value cycle) s = .next s)) ∧
  (∀ master ch vf value cycle s, s.mailReaches master.toNat = true →
    ∃ u, exec (.registerWrite (.mailStatus master ch) vf value cycle) s = .next u ∧
      (∀ y, y ∈ u.host.txOverflow ↔ y ∈ s.host.txOverflow ∧ ¬(bit value 16 = true ∧ y = (ch.val, master.toNat))) ∧
      (∀ y, y ∈ u.host.rxUnderflow ↔ y ∈ s.host.rxUnderflow ∧ ¬(bit value 17 = true ∧ y = (ch.val, master.toNat))) ∧
      u = { s with host := { s.host with txOverflow := u.host.txOverflow, rxUnderflow := u.host.rxUnderflow } }) ∧
  (∀ v vf value cycle s, s.barOpen = true → ∃ u, exec (.registerWrite (.mailPending v) vf value cycle) s = .next u ∧
      (∀ y, y ∈ u.host.mailPending ↔ y ∈ s.host.mailPending ∧ ¬(y.1 = v.val ∧ bit value y.2 = true)) ∧
      u = { s with host := { s.host with mailPending := u.host.mailPending } })

/-- Revolutions, markers, halts and the conveyor clock. While the conveyor moves, a revolution boundary raises the Pace by
one revolution and puts the announced K2_NEXT in force; at HALT_REV the conveyor halts. The controller's boundary
writes a marker with the new revolution, and announces a halt two revolutions ahead. A good marker gives a running
member its count, K2_NEXT, the named step and the halt notice, and the member writes its STATUS byte; a failed one
leaves the count. The marker's return sets k = 2 when a member asks for it and clears it after two quiet revolutions.
A station takes the count from a good marker and counts on by itself past a failed one. CONVEYOR_HALT of a running
conveyor asks for a halt, at once on a module of its own, by the STATUS byte in a span, and waits; on a conveyor with
notice it waits; on one that stands it completes. CONVEYOR_RESUME of a halted conveyor starts it again and completes;
a member of a span without Pace lock begins to form; on a conveyor that does not stand it completes without effect.
The conveyor clock takes the rate of the slowest die within the range of the mode; outside a span both delay lines are
empty. (R51, R58, R84, R85, R91, R92, R96, 03_grist_conveyor.md, R49, R86, R87, R89) -/
def Obligations.RevolutionsMarkersAndHalts : Prop :=
  (
  (∀ s : State, s.moving = true → s.connectorDead 0 = true → exec .revolutionBoundary s = .next s) ∧
  (∀ s : State, s.moving = true → s.connectorDead 0 = false → ∃ t, exec .revolutionBoundary s = .next t ∧ t.conv.rev = s.conv.rev + 1 ∧ t.conv.acc = 0 ∧
    t.conv.k2 = s.conv.marker.k2Next ∧
    (∀ h, s.conv.halt = some h → h.2 ≤ s.conv.rev + 1 → t.conv.state = .halted ∧ t.conv.haltCmds = []) ∧
    (s.conv.controls = true → t.conv.marker.rev = BitVec.ofNat 48 (s.conv.rev + 1) ∧
      t.conv.marker.spanN = BitVec.ofNat 8 s.conv.span.n ∧ t.conv.marker.k2Next = s.conv.k2Next) ∧
    (s.conv.controls = true → s.conv.haltRequested = true → s.conv.halt = none → t.conv.state = .noticed ∧
      t.conv.halt = some (s.conv.rev + 1, s.conv.rev + 3) ∧ t.conv.marker.haltNotice = true ∧
      t.conv.marker.haltRev = BitVec.ofNat 48 (s.conv.rev + 3))) ∧
  (∀ m crc, ∀ s : State, s.moving = true → s.conv.controls = false → s.conv.entering = some (m, false) → crc = false →
    s.conv.mismatch = false → ∃ t,
    exec (.memberMarkerPass crc) s = .next t ∧ t = { s with conv := t.conv } ∧ t.conv.rev = m.rev.toNat ∧
    t.conv.k2Next = m.k2Next ∧ t.conv.marker.rev = m.rev ∧ t.conv.entering = none ∧
    (s.conv.marker.step ≠ m.step → s.conv.rev ≤ m.stepRev.toNat → t.conv.namedStep = some (m.step, m.stepRev.toNat)) ∧
    (s.conv.halt = none → m.haltNotice = true → t.conv.halt = some (m.rev.toNat, m.haltRev.toNat) ∧ t.conv.state = .noticed) ∧
    (m.haltNotice = false → t.conv.halt = s.conv.halt ∧ t.conv.state = s.conv.state ∧
      (s.conv.span.index < 64 → statusOf t.conv.marker s.conv.span.index = s.ownStatus))) ∧
  (∀ m bad crc, ∀ s : State, s.moving = true → s.conv.controls = false → s.conv.entering = some (m, bad) → (bad || crc) = true →
    exec (.memberMarkerPass crc) s = .next { s with conv := { s.conv with goodMarkers := 0, lastMarker := none, mismatch := true, markerBad := true, entering := none } }) ∧
  (∀ crc, ∀ s : State, s.moving = true → s.conv.controls = true → s.conv.span.index < 64 → ∃ t,
    exec (.memberMarkerPass crc) s = .next t ∧ t = { s with conv := t.conv } ∧ t.conv.marker.rev = s.conv.marker.rev ∧
    statusOf t.conv.marker s.conv.span.index = s.ownStatus) ∧
  (∀ m, ∀ s : State, s.conv.span.n ≠ 1 → s.conv.controls = true → s.moving = true → s.conv.entering = some (m, false) → ∃ t,
    exec .markerReturnMaster s = .next t ∧ t = { s with conv := t.conv } ∧ t.conv.entering = none ∧
    ((∃ i, i < s.conv.span.n ∧ ((statusOf m i).getLsbD 1 = true ∨ (statusOf m i).getLsbD 2 = true)) →
      t.conv.k2Next = true ∧ t.conv.quiet = 0) ∧
    ((∀ i, i < s.conv.span.n → (statusOf m i).getLsbD 1 = false ∧ (statusOf m i).getLsbD 2 = false) →
      t.conv.quiet = s.conv.quiet + 1 ∧ t.conv.k2Next = if 2 ≤ s.conv.quiet + 1 then false else s.conv.k2Next) ∧
    (∀ i, i < s.conv.span.n → (statusOf m i).getLsbD 3 = true → s.conv.halt = none → t.conv.haltRequested = true) ∧
    (t.conv.allReady = true ↔ s.conv.stepReady = true ∧ ∀ i, i < s.conv.span.n → (statusOf m i).getLsbD 4 = true)) ∧
  (∀ (st : Fin 128), ∀ s : State, s.moving = true → s.conv.markerBad = false → (s.station st.val).unsure = false → ∃ t,
    exec (.stationMarkerPass st false) s = .next t ∧ t = s.putStation st.val (t.station st.val) ∧
    (t.station st.val).keptRev = s.conv.marker.rev.toNat ∧
    (t.station st.val).noticed = ((s.station st.val).noticed || s.conv.marker.haltNotice) ∧
    (t.station st.val).claims = (s.station st.val).claims ∧ (t.station st.val).retry = (s.station st.val).retry) ∧
  (∀ (st : Fin 128) crc, ∀ s : State, s.moving = true → (crc || s.conv.markerBad) = true → exec (.stationMarkerPass st crc) s =
    .next (s.putStation st.val { s.station st.val with keptRev := (s.station st.val).keptRev + 1, unsure := true }))
  ) ∧ (
  (∀ r c, ∀ s : State, Safety.started s r 0x24 c → ∃ u, exec (.conveyorHalt r) s = .next u ∧
    u = { s with conv := u.conv, host.queues := u.host.queues } ∧
    (s.conv.state = .running → u.conv.haltCmds = s.conv.haltCmds ++ [r] ∧ u.conv.state = .running ∧
      (s.conv.span.n = 1 → u.conv.haltRequested = true) ∧ (s.conv.span.n ≠ 1 → u.conv.haltOwn = true) ∧
      u.cmd? r = some { c with busy := true }) ∧
    (s.conv.state = .noticed → u.conv = { s.conv with haltCmds := s.conv.haltCmds ++ [r] } ∧ u.cmd? r = some { c with busy := true }) ∧
    (s.conv.state ≠ .running → s.conv.state ≠ .noticed → u.conv = s.conv ∧ Safety.done u r 0 0)) ∧
  (∀ r c, ∀ s : State, Safety.started s r 0x25 c → s.conv.state = .halted → (s.conv.span.n = 1 ∨ s.conv.locked = true) →
    ∃ u, exec (.conveyorResume r) s = .next u ∧
    Safety.done u r 0 0 ∧ u.conv.state = .running ∧ u.conv.halt = none ∧ u.conv.rev = s.conv.rev ∧ u.conv.slots = s.conv.slots ∧
    (∀ j, (u.injector j).noticed = false) ∧ (∀ st, (u.station st).noticed = false) ∧ u.mem = s.mem ∧ u.kilns = s.kilns) ∧
  (∀ r c, ∀ s : State, Safety.started s r 0x25 c → (s.conv.state = .halted ∨ s.conv.state = .broken) → s.conv.span.n ≠ 1 →
    s.conv.locked = false → ∃ u, exec (.conveyorResume r) s = .next u ∧ Safety.done u r 0 0 ∧
    u.conv = { s.conv with state := .forming, goodMarkers := 0, lastMarker := none, halt := none, entering := none }) ∧
  (∀ r c, ∀ s : State, Safety.started s r 0x25 c → s.conv.state ≠ .halted → s.conv.state ≠ .broken →
    ∃ u, exec (.conveyorResume r) s = .next u ∧ Safety.done u r 0 0 ∧ u = { s with host.queues := u.host.queues }) ∧
  (∀ (m : Fin 65), ∀ s : State, m.val = s.convClock → ∃ u, exec (.conveyorClockChange m) s = .next u ∧
    u = { s with conv.m := m.val, conv.upDelay := u.conv.upDelay, conv.downDelay := u.conv.downDelay } ∧
    (∀ d, d < 8 → s.convClock ≤ max 32 (s.power.m.get 64 d)) ∧
    (s.conv.span.n = 1 → u.conv.upDelay = 0 ∧ u.conv.downDelay = 0 ∧ 16 ≤ u.conv.m) ∧
    (s.conv.span.n ≠ 1 → s.conv.k2 = true → 16 ≤ u.conv.m ∧ u.conv.m ≤ 32) ∧
    (s.conv.span.n ≠ 1 → s.conv.k2 = false → 32 ≤ u.conv.m))
  )

/-- Spans form and break; the shared grant. A write of 30.001 while the conveyor stands is taken if the allocations fit:
the span is to be formed anew. The exchange with the expected neighbour trains its link; another identity counts a
mismatch and leaves the member forming. The fourth good marker in a row gives a member with trained neighbours Pace
lock, at its place behind the master. What enters at a neighbour lies in its slot, with its CRC checked. A missing
slot, a marker that does not return and a link lost while halted break the span: the conveyor stops with nothing on
it. A grant that is withdrawn is remembered for the next boundary. (R88, R89, R90, R93, R94, R95, R97, R99,
03_grist_conveyor.md) -/
def Obligations.SpansFormAndBreak : Prop :=
  (∀ value, ∀ s : State, s.spanAccepted value.toNat = true → ∃ u, exec (.spanConfigWrite value) s = .next u ∧
    u.conv.span = spanCfgOf value.toNat ∧ (s.host.ctxs = [] → u.obj 0x30001 0 = value.toNat % 2 ^ 56) ∧ u.conv.locked = false ∧
    u.conv.slots = [] ∧ u.conv.upNbr = {} ∧ u.conv.downNbr = {} ∧ u.conv.k2 = false) ∧
  (∀ value, ∀ s : State, s.spanAccepted value.toNat = false → exec (.spanConfigWrite value) s = .next s) ∧
  (∀ down spanId index last latency, ∀ s : State, s.conv.state = .forming →
    (s.pins.cables.get {} (if down then 1 else 0)).lanesUp = true → 32 ≤ s.liveLanes (if down then 1 else 0) →
    let want := if down then (s.conv.span.index + 1) % s.conv.span.n else (s.conv.span.index + s.conv.span.n - 1) % s.conv.span.n
    ∃ u, exec (.spanNeighbourExchange down spanId index last latency) s = .next u ∧
    (spanId = s.conv.span.spanId → index.toNat = want → u = { s with conv := u.conv } ∧
        (if down then u.conv.downNbr else u.conv.upNbr) = { trained := true, lastCommitted := last, latency10ps := latency } ∧
        (if down then u.conv.upNbr = s.conv.upNbr else u.conv.downNbr = s.conv.downNbr)) ∧
    (spanId ≠ s.conv.span.spanId ∨ index.toNat ≠ want → u.conv.state = .forming ∧
      (if down then u.conv.downNbr else u.conv.upNbr) = {} ∧ u.obj 0x30002 0 = (s.obj 0x30002 0 + 1) % 2 ^ 32)) ∧
  (∀ m, ∀ s : State, s.conv.state = .forming → s.conv.controls = false → s.conv.entering = some (m, false) →
    m.spanId = s.conv.span.spanId → s.conv.lastMarker = some (m.rev.toNat - 1) → s.conv.goodMarkers = 3 →
    s.conv.upNbr.trained = true → s.conv.downNbr.trained = true → s.steps.brokenStep = none → ∃ u,
    exec (.memberMarkerPass false) s = .next u ∧ u.conv.state = .running ∧ u.conv.locked = true ∧ u.conv.rev = m.rev.toNat ∧
    u.conv.acc = 1200 * s.conv.behind * 20800 ∧ u.conv.k2 = m.k2 ∧ u.steps.next = none) ∧
  (∀ (slot : Fin 76800) y crc, ∀ s : State, s.conv.span.n ≠ 1 → s.moving = true → slot.val < s.conv.span.slots → 2 ≤ slot.val →
    s.connectorDead 0 = false → s.connectorDead 1 = false → let x := s.gristSlot slot.val
    (slotWithCrc y crc).bad = (crc != slotCrc y) ∧
    (x.kind = 0 ∨ (x.kind = y.kind ∧ x.tileId = y.tileId ∧ x.gen = y.gen) →
      exec (.spanIngress slot (.tile y crc)) s = .next (s.putGrist slot.val (slotWithCrc y crc))) ∧
    (x.kind ≠ 0 → x.tileId ≠ y.tileId → (slotWithCrc y crc).bad = false → exec (.spanIngress slot (.tile y crc)) s =
      .next ((s.putGrist slot.val (slotWithCrc y crc)).retireLatches 0 slot.val s.conv.rev x)) ∧
    exec (.spanIngress slot (.wort y crc)) s = .next { s with wort.slots := s.wort.slots.set {} slot.val (slotWithCrc y crc) }) ∧
  (∀ m w v bad, ∀ s : State, s.conv.span.n ≠ 1 → s.moving = true → 1 < s.conv.span.slots →
    s.connectorDead 0 = false → s.connectorDead 1 = false →
    exec (.spanIngress 0 (.marker m bad)) s = .next { s with conv.entering := some (m, bad) } ∧
    (s.conv.controls = false → exec (.spanIngress 0 (.wortMarker w bad)) s =
      .next { s with wort.marker := if bad then s.wort.marker else w, wort.markerBad := bad }) ∧
    exec (.spanIngress 1 (.verdict v bad)) s = .next { s with verdict.slot1 := v, verdict.crcBad := bad }) ∧
  (∀ s : State, s.conv.span.n ≠ 1 → s.moving = true → (∃ u, exec .spanStarveTimeout s = .next u ∧ u.conv.state = .broken ∧
      u.conv.slots = [] ∧ u.conv.halt = none ∧ u.wort.slots = [] ∧ u.verdict.slot1 = {}) ∧
    (s.conv.controls = true → ∃ u, exec .markerReturnTimeout s = .next u ∧ u.conv.state = .broken ∧ u.conv.slots = [] ∧
      u.conv.halt = none ∧ u.wort.slots = [])) ∧
  (∀ down, ∀ s : State, s.conv.span.n ≠ 1 → s.conv.state = .halted → ∃ u, exec (.haltedLinkLoss down) s = .next u ∧
    u.conv.state = .broken ∧ u.conv.slots = [] ∧ (if down then u.conv.downNbr.trained else u.conv.upNbr.trained) = false) ∧
  (∀ (v : Fin 64) (value : BitVec 8), ∀ s : State, ∃ u, exec (.sharedGrantWrite v value) s = .next u ∧ u.obj 0x30012 v.val = value.toNat ∧
    (s.obj 0x30012 v.val = 1 → value ≠ 1#8 → v.val ∈ u.conv.withdrawn) ∧ (value = 1#8 → u.conv = s.conv))

/-- Injectors fill, count and learn of a halt. At slot 0 a good marker gives an injector its count, and a halt notice
stops it. A tile that the injector filled and whose residency runs on keeps its contents with REV_LEFT lower by one.
An empty slot takes the first due entry whose tile is staged and may be injected: the header of Table 3.2 with the
entry's residency, and the 4 KiB that were staged. A staging read enters the list of staged tiles with the bytes of
the buffer. A finished rewrite writes the buffer and marks the slot; one of a slot that the injector has forgotten is
dropped. (R51, R60, R61, R62, R63, R64, R85, 03_grist_conveyor.md) -/
def Obligations.InjectorsServeTheirSlots : Prop :=
  (∀ (j : Fin 16), ∀ s : State, s.moving = true → 0 < s.conv.span.slots →
    exec (.injectorSlotPass j 0 false) s = .next (s.putInjector j.val { s.injector j.val with keptRev := s.conv.marker.rev.toNat, noticed := (s.injector j.val).noticed || s.conv.marker.haltNotice }) ∧
    exec (.injectorSlotPass j 0 true) s = .next (s.putInjector j.val { s.injector j.val with keptRev := (s.injector j.val).keptRev + 1 })) ∧
  (∀ (j : Fin 16) (slot : Fin 76800) f, ∀ s : State, s.moving = true → 2 ≤ slot.val → slot.val < s.conv.span.slots →
    Bank.find? (s.injector j.val).filled slot.val = some f → (s.injector j.val).noticed = false → f.retire = false →
    f.rewriting = false → (s.gristSlot slot.val).bad = false → (s.gristSlot slot.val).kind = 1 →
    formatFits 1 (s.gristSlot slot.val).format.toNat = true → 3 ≤ (s.gristSlot slot.val).revLeft.toNat → ∃ u,
    exec (.injectorSlotPass j slot false) s = .next u ∧ u = { s with conv := u.conv, mgmt.dict := u.mgmt.dict } ∧
    u.conv.slots = s.conv.slots.set {} slot.val { s.gristSlot slot.val with revLeft := (s.gristSlot slot.val).revLeft - 1 } ∧
    Bank.find? (u.injector j.val).filled slot.val = some { f with last := (s.gristSlot slot.val).revLeft - 1 }) ∧
  (∀ (j : Fin 16) (slot : Fin 76800) k n run e rest src tile, ∀ s : State, s.moving = true → 2 ≤ slot.val →
    slot.val < s.conv.span.slots → (s.gristSlot slot.val) = {} → Bank.find? (s.injector j.val).filled slot.val = none →
    (s.injector j.val).noticed = false → (s.injector j.val).again = [] →
    s.dueEntries j.val slot.val (s.injector j.val).keptRev = (k, n, run, e) :: rest →
    (s.injector j.val).stagedTile k n (e.expected run.gen) = some tile → tile.ue = false →
    s.gristAt k (bufferOf e.gristA (e.expected run.gen)) = some src →
    s.gristLost k e.gristA = false → s.injectable j.val k e (e.expected run.gen) src = .good → ∃ u,
    exec (.injectorSlotPass j slot false) s = .next u ∧
    u.gristSlot slot.val = { injHeader e (e.expected run.gen) s.conv.span.index e.residency false with payload := tile.payload } ∧
    (∀ m, m ≠ slot.val → u.gristSlot m = s.gristSlot m) ∧ u.mem = s.mem ∧
    (u.injector j.val).staged = (s.injector j.val).staged.erase tile) ∧
  (∀ (j : Fin 16) ctx n ecc p e a, ∀ s : State, s.convOf ctx = some p → s.injEntry ctx n = some e →
    let gen := e.expected (((p.runs.find? (fun r => !r.injDone.contains n)).map (·.gen)).getD s.steps.gen)
    let tile : Staged := ⟨ctx, n, gen, s.bufferBad a || ecc == .uncorrectable, s.bufferBytes a⟩
    s.gristAt ctx (bufferOf e.gristA gen) = some a → s.stackOf ctx e.gristA = some j.val →
    (s.injector j.val).staged.length < 64 → (s.injector j.val).stagedTile ctx n gen = none →
    (s.gristLost ctx e.gristA = true ∨ s.injectable j.val ctx e gen a ≠ .defer) →
    ∃ u, exec (.stagingReadDone j ctx n ecc) s = .next u ∧
      (u.injector j.val).staged = (s.injector j.val).staged ++ [tile] ∧ u.mem.hbm = s.mem.hbm ∧ u.conv.slots = s.conv.slots ∧
      (ecc = .clean → u = s.putInjector j.val { s.injector j.val with staged := (s.injector j.val).staged ++ [tile] }) ∧
      (ecc = .uncorrectable → u.bufferBad a = true)) ∧
  (∀ (k : Fin 8) (j : Fin 16) (slot : Fin 76800) reads, ∀ s : State, j.val / 2 = k.val →
    (s.kilnAt k.val).rewrites.contains (j.val, slot.val) = true →
    s.power.brown = false → Bank.find? (s.injector j.val).filled slot.val = none → (s.injector j.val).again = [] →
    exec (.kilnRewriteDone k j slot reads) s =
      .next (s.putKiln k.val { s.kilnAt k.val with rewrites := (s.kilnAt k.val).rewrites.erase (j.val, slot.val) })) ∧
  (∀ (k : Fin 8) (j : Fin 16) (slot : Fin 76800) reads f, ∀ s : State,
    let parts := s.entriesAt f.src
    let q := s.kilnOfParts k.val parts
    let t := s.readUnits q (s.entryUnits q parts) reads
    let v := t.putKiln k.val { t.kilnAt k.val with rewrites := (t.kilnAt k.val).rewrites.erase (j.val, slot.val) }
    j.val / 2 = k.val →
    (s.kilnAt k.val).rewrites.contains (j.val, slot.val) = true → s.power.brown = false →
    (s.injector j.val).filled = [(slot.val, f)] → f.rewriting = true → parts ≠ [] →
    s.unitsWait q (s.entryUnits q parts) reads = false → (∀ y ∈ parts, t.entryLost y = []) →
    ∃ u, exec (.kilnRewriteDone k j slot reads) s = .next u ∧
    (u.injector j.val).filled = [(slot.val, { f with rewritten := true })] ∧
    u.mem.hbm = (parts.foldl (State.rewritePart f.gen) v).mem.hbm)

/-- Stations claim, capture and copy. An entry whose slot header is not fetched in time goes on the retry list of its
clusters, counted in 30.101. One named core with a free buffer, on a die that runs, takes the claim, of a due entry
and of one on the retry list. A slot that matches is captured, and a copy request for each cluster raised at the latch
arbiter; one that fails its CRC is a miss and its clusters retry. A copy that the arbiter has granted ends with tile
or scales in the claimed buffer, and the claim ends with its last copy. (R70, R73, R75, R76, R77, R79,
03_grist_conveyor.md) -/
def Obligations.LatchesAreClaimedAndMade : Prop :=
  (∀ (st : Fin 128) ctx n p e q run, ∀ s : State, s.moving = true → s.convOf ctx = some p → p.sta[n]? = some e →
    s.phys p e.sharedRef e.slot = some q →
    (s.stationsOf (ctxVi ctx))[e.lstation]? = some st.val → s.stopsFiring (s.station st.val) (s.claimRev st.val q) = false →
    p.dueRun n e (s.claimRev st.val q) = some run → (e.sharedRef = false ∨ s.obj 0x30012 (ctxVi ctx) = 1) →
    s.tileLost e.tileId = false →
    (∀ i ∈ bitsOf e.clusters, ∃ cl, (s.stationClusters st.val)[i]? = some cl ∧ s.health.absent.contains cl = false) →
    e.clusters ≠ 0 → (bitsOf e.clusters).length + (s.station st.val).retry.length ≤ 64 → ∃ u,
    exec (.stationClaim st ctx n false) s = .next u ∧
    (u.station st.val).retry = (s.station st.val).retry ++ (bitsOf e.clusters).map (fun i => ⟨ctx, n, e.expected run.gen, i, .noCapture⟩) ∧
    (u.station st.val).claims = (s.station st.val).claims ∧ u.cores = s.cores ∧
    u.obj 0x30101 st.val = (s.obj 0x30101 st.val + 1) % 2 ^ 64) ∧
  (∀ (st : Fin 128) ctx n p e q run i cl m, ∀ s : State, s.moving = true → s.convOf ctx = some p → p.sta[n]? = some e →
    s.phys p e.sharedRef e.slot = some q →
    (s.stationsOf (ctxVi ctx))[e.lstation]? = some st.val → s.stopsFiring (s.station st.val) (s.claimRev st.val q) = false →
    p.dueRun n e (s.claimRev st.val q) = some run → (e.sharedRef = false ∨ s.obj 0x30012 (ctxVi ctx) = 1) →
    s.tileLost e.tileId = false → bitsOf e.clusters = [i] → coresOf e = [m] →
    (s.stationClusters st.val)[i]? = some cl → s.health.absent.contains cl = false → s.power.stopped.contains (cl / 136) = false →
    (s.station st.val).claims.length < 4 →
    (s.core (cl * 4 + m)).freeCell.isSome = true → (s.core (cl * 4 + m)).joinCell e = none → let number := (s.core (cl * 4 + m)).claims
    ∃ u x b, exec (.stationClaim st ctx n true) s = .next u ∧
    (s.core (cl * 4 + m)).claimFor e (p.hasScales e i) = some (x, b, number) ∧ (x.cell b).claim = number ∧
    u.core (cl * 4 + m) = x ∧ x.claims = (s.core (cl * 4 + m)).claims + 1 ∧ (x.cell b).state = .claimed ∧ (x.cell b).tileId = e.tag ∧
    (u.station st.val).claims = (s.station st.val).claims ++ [{ id := (s.station st.val).nextClaim, ctx := ctx, entry := n, e := e, slot := q, rev := s.claimRev st.val q, gen := e.expected run.gen, clusters := maskOf8 [i], cells := [(i, m, b, number)] }] ∧
    (u.station st.val).retry = (s.station st.val).retry ∧ (∀ k, k ≠ cl * 4 + m → u.core k = s.core k)) ∧
  (∀ (st : Fin 128) ctx n p e q r cl m, ∀ s : State, s.moving = true → s.convOf ctx = some p → p.sta[n]? = some e →
    s.phys p e.sharedRef e.slot = some q →
    (s.stationsOf (ctxVi ctx))[e.lstation]? = some st.val → p.dueRun n e (s.claimRev st.val q) = none →
    (s.station st.val).retry = [r] → r.ctx = ctx → r.entry = n → s.tileLost e.tileId = false → coresOf e = [m] →
    (s.stationClusters st.val)[r.cluster]? = some cl → s.health.absent.contains cl = false →
    s.power.stopped.contains (cl / 136) = false → (s.station st.val).claims.length < 4 → (s.core (cl * 4 + m)).freeCell.isSome = true →
    (s.core (cl * 4 + m)).joinCell e = none → ∃ u b, exec (.stationClaim st ctx n true) s = .next u ∧
    (u.station st.val).retry = [] ∧ (u.station st.val).claims = (s.station st.val).claims ++
      [{ id := (s.station st.val).nextClaim, ctx := ctx, entry := n, e := e, slot := q, rev := s.claimRev st.val q, gen := r.gen, clusters := maskOf8 [r.cluster], cells := [(r.cluster, m, b, (s.core (cl * 4 + m)).claims)] }]) ∧
  (∀ (st : Fin 128) (slot : Fin 76800) c, ∀ s : State, s.moving = true → slot.val < s.conv.span.slots →
    (s.station st.val).claims = [c] → c.slot = slot.val → c.rev = (s.station st.val).keptRev → c.captured = none → c.clusters ≠ 0 →
    judgeSlot (s.gristSlot slot.val) c.e c.gen = .match_ →
    (∀ i ∈ bitsOf c.clusters, ∃ cl, (s.stationClusters st.val)[i]? = some cl ∧ s.mayLatch c.e c.gen cl = true) →
    (s.gristSlot slot.val).revLeft ≠ 1 → ∃ u, exec (.stationCapture st slot false) s = .next u ∧
    (u.station st.val).claims = [{ c with captured := some (s.gristSlot slot.val), copies := c.clusters }] ∧
    (u.station st.val).retry = (s.station st.val).retry ∧ u.conv.slots = s.conv.slots ∧ u.cores = s.cores ∧
    u.arb = (s.raiseCopies st.val c (bitsOf c.clusters)).arb) ∧
  (∀ (st : Fin 128) (slot : Fin 76800) c, ∀ s : State, s.moving = true → slot.val < s.conv.span.slots →
    (s.station st.val).claims = [c] → c.slot = slot.val → c.rev = (s.station st.val).keptRev → c.captured = none →
    (bitsOf c.clusters).length + (s.station st.val).retry.length ≤ 64 → ∃ u, exec (.stationCapture st slot true) s = .next u ∧
    (u.station st.val).claims = [] ∧ (u.gristSlot slot.val).bad = true ∧ (u.station st.val).retry = (s.station st.val).retry ++
      (bitsOf c.clusters).map (fun i => ⟨c.ctx, c.entry, c.gen, i, .crc⟩)) ∧
  (∀ (st : Fin 128) ctx n (i : Fin 8) c x a cl m b number, ∀ s : State, (s.station st.val).claims = [c] → c.ctx = ctx → c.entry = n →
    c.captured = some x → c.copies = 1#8 <<< i.val → c.dropped = none → c.cells = [(i.val, m, b, number)] →
    (s.stationClusters st.val)[i.val]? = some cl → s.latchEnded st.val i.val c.id = some a → ∃ u,
    exec (.latchCopyDone st ctx n i) s = .next u ∧ (u.station st.val).claims = [] ∧ u.arbOf .stationLatch st.val = a ∧
    ((s.core (cl * 4 + m)).claims_ b number = true → u.core (cl * 4 + m) =
      (s.core (cl * 4 + m)).copyIn c.e x (c.e.genSel == 0 && serialNewer 16 c.gen.toNat s.steps.gen.toNat) b) ∧
    ((s.core (cl * 4 + m)).claims_ b number = false → u.cores = s.cores) ∧
    (∀ k, k ≠ cl * 4 + m → u.core k = s.core k) ∧ u.mem = s.mem) ∧
  (∀ st (c : Claim) i g, ∀ s : State, (s.arbOf .stationLatch st).running = some g → g.req = i → g.tag = c.id →
    (s.arbOf .stationLatch st).emergency = false → (s.arbOf .stationLatch st).closed = false → (s.latchEnded st i c.id).isSome = true)

/-- Programs of a context. CONVEYOR_LOAD, RETURN_LOAD and UPDATE_LOAD read their program from the context's memory. A
wrong magic number, a failed check of Tables 3.9, 4.6 and 10.6 and a range outside the context's objects complete with
their code and load nothing; a program that passes is the context's program from then on, with the slots it was given,
or waits for the unload of the one it replaces. CONVEYOR_UNLOAD marks the program and waits until the unload takes
effect, at once while the conveyor stands; without a program it completes at once. (R65, R66, R71, R107, R112, R327,
R328, 03_grist_conveyor.md) -/
def Obligations.ProgramsAreLoadedAndUnloaded : Prop :=
  (∀ r c k b p, ∀ s : State, Safety.started s r 0x20 c → k = s.cmdCtx r → s.inRange k (c.arg 0 48) (c.arg 64 32) .load = true →
    b = s.readVirt k (c.arg 0 48) (c.arg 64 32) → badMagic b 0x47524953 = false → convEntriesFit b = true → p = parseConv b →
    (s.convCode k p false ≠ 0 → ∃ u, exec (.conveyorLoad r) s = .next u ∧ u = { s with host.queues := u.host.queues } ∧
      Safety.done u r (s.convCode k p false) 0) ∧
    (s.convCode k p false = 0 → (s.convObjects k p).any s.objStale = true → ∃ u, exec (.conveyorLoad r) s = .next u ∧
      u = { s with host.queues := u.host.queues } ∧ Safety.done u r 2 0) ∧
    (∀ x, s.convCode k p false = 0 → (s.convObjects k p).any s.objStale = false → s.ctx? k = some x → x.conv = none → x.nextConv = none → x.nextUpd = none → x.ret = none →
      x.upd = none → x.unloadCmds = [] → (s.moving = true ∨ ∀ y ∈ s.host.ctxs, y.2.destroyCookie = none) → ∃ u,
      exec (.conveyorLoad r) s = .next u ∧ Safety.done u r 0 0 ∧ u.mem = s.mem ∧ u.conv = s.conv ∧
      u.convOf k = some { p with map := (s.convFree k).take p.slots, cookie := BitVec.ofNat 32 c.cookie, objs := s.convObjects k p, skip := s.steps.opened }) ∧
    (∀ x q, s.convCode k p false = 0 → (s.convObjects k p).any s.objStale = false → s.ctx? k = some x → x.conv = some q → x.nextConv = none → x.nextUpd = none →
      s.moving = true → ∃ u y, exec (.conveyorLoad r) s = .next u ∧ Safety.done u r 0 0 ∧ u.ctx? k = some y ∧
      y.conv = some { q with unload := true } ∧ y.nextConv = some { p with map := (s.convFree k).take p.slots, cookie := BitVec.ofNat 32 c.cookie, objs := s.convObjects k p, skip := s.steps.opened })) ∧
  (∀ r c, ∀ s : State, Safety.started s r 0x20 c → s.inRange (s.cmdCtx r) (c.arg 0 48) (c.arg 64 32) .load = true →
    badMagic (s.readVirt (s.cmdCtx r) (c.arg 0 48) (c.arg 64 32)) 0x47524953 = true → ∃ u, exec (.conveyorLoad r) s = .next u ∧
    u = { s with host.queues := u.host.queues } ∧ Safety.done u r 0x30 0) ∧
  (∀ r c, ∀ s : State, Safety.started s r 0x20 c → s.inRange (s.cmdCtx r) (c.arg 0 48) (c.arg 64 32) .load = false →
    ∃ u, exec (.conveyorLoad r) s = .next u ∧ u = { s with host.queues := u.host.queues } ∧ Safety.done u r 5 0) ∧
  (∀ r c, ∀ s : State, Safety.started s r 0x21 c → s.convOf (s.cmdCtx r) = none → ∃ u, exec (.conveyorUnload r) s = .next u ∧
    u = { s with host.queues := u.host.queues } ∧ Safety.done u r 0 0) ∧
  (∀ r c x p, ∀ s : State, Safety.started s r 0x21 c → s.ctx? (s.cmdCtx r) = some x → x.conv = some p → x.nextConv = none →
    x.nextUpd = none →
    (s.moving = true → ∃ u y, exec (.conveyorUnload r) s = .next u ∧ u.ctx? (s.cmdCtx r) = some y ∧
      y.conv = some { p with unload := true } ∧ y.unloadCmds = x.unloadCmds ++ [r] ∧ u.cmd? r = some { c with busy := true } ∧
      u = { s with host := u.host }) ∧
    (s.moving = false → x.unloadCmds = [] → (∀ y ∈ s.host.ctxs, y.2.destroyCookie = none) → ∃ u,
      exec (.conveyorUnload r) s = .next u ∧ u.convOf (s.cmdCtx r) = none ∧ Safety.done u r 0 0)) ∧
  (∀ r c, ∀ s : State, Safety.started s r 0x22 c → (s.ctx? (s.cmdCtx r)).bind (·.convNow) = none → ∃ u,
    exec (.returnLoad r) s = .next u ∧ u = { s with host.queues := u.host.queues } ∧ Safety.done u r 0x46 0) ∧
  (∀ r c k b p q x, ∀ s : State, Safety.started s r 0x22 c → k = s.cmdCtx r → s.ctx? k = some x → x.convNow = some q →
    s.inRange k (c.arg 0 48) (c.arg 64 32) .load = true → b = s.readVirt k (c.arg 0 48) (c.arg 64 32) →
    badMagic b 0x574F5254 = false → convEntriesFit b = true → p = parseRet b →
    (s.retCode k p q false ≠ 0 → ∃ u, exec (.returnLoad r) s = .next u ∧ u = { s with host.queues := u.host.queues } ∧
      Safety.done u r (s.retCode k p q false) 0) ∧
    (s.retCode k p q false = 0 → x.ret = none → x.nextConv = none → x.nextUpd = none → s.moving = true →
      ∃ u, exec (.returnLoad r) s = .next u ∧ Safety.done u r 0 0 ∧
      u.retOf k = some { p with map := (s.retFree k).take p.slots, skip := q.skip } ∧ u = { s with host := u.host })) ∧
  (∀ r c, ∀ s : State, Safety.started s r 0x23 c → (s.ctx? (s.cmdCtx r)).bind (·.retNow) = none → ∃ u,
    exec (.updateLoad r) s = .next u ∧ u = { s with host.queues := u.host.queues } ∧ Safety.done u r 0x52 0) ∧
  (∀ r c k b p x l, ∀ s : State, Safety.started s r 0x23 c → k = s.cmdCtx r → s.ctx? k = some x → x.retNow = some p →
    s.inRange k (c.arg 0 48) (c.arg 64 32) .load = true → b = s.readVirt k (c.arg 0 48) (c.arg 64 32) →
    badMagic b 0x4B494C4E = false → fld (leNat (b.take 64)) 416 32 ≤ 16777216 →
    entriesFit b [(fld (leNat (b.take 64)) 320 64, fld (leNat (b.take 64)) 416 32)] = true →
    l = (recordsAt b (fld (leNat (b.take 64)) 320 64) (fld (leNat (b.take 64)) 416 32)).map mapEntryOf →
    (s.updCode k p l ≠ 0 → ∃ u, exec (.updateLoad r) s = .next u ∧ u = { s with host.queues := u.host.queues } ∧
      Safety.done u r (s.updCode k p l) 0) ∧
    (s.updCode k p l = 0 → (s.mapObjects k l).any s.objStale = true → ∃ u, exec (.updateLoad r) s = .next u ∧
      u = { s with host.queues := u.host.queues } ∧ Safety.done u r 2 0) ∧
    (s.updCode k p l = 0 → (s.mapObjects k l).any s.objStale = false → x.upd = none → x.nextRet = none → x.nextUpd = none → ∃ u y m, exec (.updateLoad r) s = .next u ∧
      Safety.done u r 0 0 ∧ u.ctx? k = some y ∧ y.upd = some m ∧ m.entries = l ∧ m.waits = true ∧ m.skip = s.steps.opened ∧ u.mem = s.mem))

/-- Gradient injectors open, count, hand over and park. An empty wort slot takes the first due gate entry: a gradient slot
with +0 in every element, WAIT_REVS in REV_LEFT and the tally at 0. An incomplete pass lowers REV_LEFT and counts. A
complete slot of a program without replication goes to the Kiln's input queue, and the injector counts its retirement.
After the halt notice an open slot goes to the park area and leaves an empty one; a parked slot opens again in its
place from the revolution in which the halt ends. The injector takes its revolution from the wort marker. (R101, R106,
R121, R122, R130, R131) -/
def Obligations.GradientInjectorsServeTheirSlots : Prop :=
  (∀ (k : Fin 8) (slot : Fin 76800) c n run e rest, ∀ s : State, s.moving = true → 2 ≤ slot.val → slot.val < s.conv.span.slots →
    s.conv.halt = none → (s.gradSlots k.val).find? (fun y => y.1 == slot.val) = none →
    (s.parkedSlots k.val).find? (fun y => y.n == slot.val) = none → s.wortSlot slot.val = {} →
    s.dueGates k.val slot.val (s.wort.injRev.get 0 k.val) = (c, n, run, e) :: rest → ∃ u, exec (.gradientInjectorPass k slot false) s = .next u ∧
    u.wortSlot slot.val = { kind := 2, format := e.format, tileId := e.tileId, owner := BitVec.ofNat 6 e.owner, pgroup := e.pgroup, gen := run.gen, revLeft := BitVec.ofNat 12 e.waitRevs } ∧ u.wort.tally.get {} slot.val = { tile := e.tileId, gen := run.gen, count := 0 } ∧
    u.gradSlots k.val = (s.gradSlots k.val).filter (fun y => y.1 != slot.val) ++ [(slot.val, { ctx := c, entry := n, step := run.step })] ∧
    u.obj 0x30130 k.val = (s.obj 0x30130 k.val + 1) % 2 ^ 64 ∧ u.kilns = s.kilns ∧ u.mem = s.mem) ∧
  (∀ (k : Fin 8) (slot : Fin 76800) m g p, ∀ s : State, s.moving = true → 2 ≤ slot.val → slot.val < s.conv.span.slots →
    s.conv.halt = none → s.health.lost.contains (.kiln k) = false → (s.gradSlots k.val).find? (fun y => y.1 == slot.val) = some (m, g) →
    (s.parkedSlots k.val).find? (fun y => y.n == slot.val) = none → g.retire = false → g.handed = false → s.retOf g.ctx = some p →
    let x := s.wortSlot slot.val
    x.kind = 2 → x.bad = false → wortInvalid x = false → s.gradComplete x slot.val (p.expected x.tileId) = false → x.revLeft ≠ 0 →
    (∃ i, i < s.conv.span.n ∧ x.bitmap.getLsbD i = false) → ∃ u, exec (.gradientInjectorPass k slot false) s = .next u ∧
    u.wortSlot slot.val = { x with revLeft := x.revLeft - 1 } ∧ u.obj 0x30132 k.val = (s.obj 0x30132 k.val + 1) % 2 ^ 64 ∧
    u = { s with wort := u.wort, mgmt.dict := u.mgmt.dict }) ∧
  (∀ (k : Fin 8) (slot : Fin 76800) m g p, ∀ s : State, s.moving = true → 2 ≤ slot.val → slot.val < s.conv.span.slots →
    s.conv.halt = none → s.health.lost.contains (.kiln k) = false → (s.gradSlots k.val).find? (fun y => y.1 == slot.val) = some (m, g) →
    (s.parkedSlots k.val).find? (fun y => y.n == slot.val) = none → g.retire = false → g.handed = false → s.retOf g.ctx = some p →
    p.replicated = false → (s.kilnAt k.val).input.length < 64 →
    (s.kilnAt k.val).park.length + (s.parkedSlots k.val).length < parkCapacity →
    let x := s.wortSlot slot.val
    x.kind = 2 → x.bad = false → wortInvalid x = false → s.gradComplete x slot.val (p.expected x.tileId) = true →
    (∃ i, i < s.conv.span.n ∧ x.bitmap.getLsbD i = false) → ∃ u, exec (.gradientInjectorPass k slot false) s = .next u ∧
    (u.kilnAt k.val).input = (s.kilnAt k.val).input ++ [{ ctx := g.ctx, step := g.step, slot := x }] ∧
    u.obj 0x30131 k.val = (s.obj 0x30131 k.val + 1) % 2 ^ 64 ∧
    (u.kilnAt k.val).park = (s.kilnAt k.val).park ∧ (∀ i, i ≠ k.val → u.kilnAt i = s.kilnAt i) ∧ u.mem = s.mem) ∧
  (∀ (k : Fin 8) (slot : Fin 76800) m g, ∀ s : State, s.moving = true → 2 ≤ slot.val → slot.val < s.conv.span.slots →
    s.gradNoticed k.val slot.val (s.wort.injRev.get 0 k.val) = true → s.health.lost.contains (.kiln k) = false →
    (s.gradSlots k.val).find? (fun y => y.1 == slot.val) = some (m, g) →
    (s.parkedSlots k.val).find? (fun y => y.n == slot.val) = none → g.retire = false → gradSlot (s.wortSlot slot.val) = true →
    (∃ i, i < s.conv.span.n ∧ (s.wortSlot slot.val).bitmap.getLsbD i = false) → ∃ u,
    exec (.gradientInjectorPass k slot false) s = .next u ∧ u.wortSlot slot.val = {} ∧
    u.parkedSlots k.val = s.parkedSlots k.val ++
      [{ n := slot.val, x := s.wortSlot slot.val, fromRev := s.conv.halt.elim 0 (·.2) }] ∧
    u.gradSlots k.val = s.gradSlots k.val ∧ u.obj 0x30137 k.val = (s.obj 0x30137 k.val + 1) % 2 ^ 64 ∧
    u = { s with wort := u.wort, mgmt.dict := u.mgmt.dict }) ∧
  (∀ (k : Fin 8) (slot : Fin 76800) p, ∀ s : State, s.moving = true → 2 ≤ slot.val → slot.val < s.conv.span.slots →
    s.conv.halt = none → s.health.lost.contains (.kiln k) = false → (s.parkedSlots k.val).find? (fun y => y.n == slot.val) = some p →
    (∀ y ∈ s.gradSlots k.val, y.1 = slot.val → y.2.retire = false) → s.wortSlot slot.val = {} → p.x.kind = 2 →
    p.fromRev ≤ s.wort.injRev.get 0 k.val → ∃ u, exec (.gradientInjectorPass k slot false) s = .next u ∧
    u.wortSlot slot.val = p.x ∧ u.parkedSlots k.val = (s.parkedSlots k.val).filter (fun y => y.n != slot.val) ∧
    u.gradSlots k.val = s.gradSlots k.val ∧ u = { s with wort := u.wort, mgmt.dict := u.mgmt.dict }) ∧
  (∀ k : Fin 8, ∀ s : State, s.moving = true → 0 < s.conv.span.slots → s.wort.markerBad = false →
    exec (.gradientInjectorPass k 0 false) s =
      .next { s with wort.injRev := s.wort.injRev.set 0 k.val s.wort.marker.rev.toNat })

/-- Contributions are gathered and added. A due return entry takes a contribution buffer of its station, or counts one
wait when none is free. The read of the next named cluster is raised at the latch arbiter of its station; with the end
of its grant it takes the sub-tile, clears the marks of its units and arms the contribution with the last cluster; an
uncorrectable read loses the contribution. In the add window an armed contribution is added to the payload by R115 and
STN_COUNT rises by one, also when the sub-tile or the buffer cannot be read; a contribution that comes too late stays.
Station 0 folds STN_COUNT into the member's tally and sets its BITMAP bit when the tally equals the expected count;
the marker in slot 0 gives a station its wort count, counted on by one when its CRC fails. (R102, R114, R115, R117,
R118, R119, R120, R161) -/
def Obligations.StationsAddTheirContributions : Prop :=
  (∀ (st : Fin 128) ctx n p e r, ∀ s : State, s.retOf ctx = some p → s.rstaEntry ctx n = some e → p.dueRun n s.conv.rev e = some r →
    (s.stationsOf (ctxVi ctx))[e.lstation]? = some st.val → p.indexed e.lstation n = true → ∃ u, exec (.contributionDue st ctx n) s = .next u ∧
    ((s.contribs st.val).length < 8 → u.contribs st.val = s.contribs st.val ++ [{ ctx := ctx, entry := n, step := r.step, lateCounted := r.late.contains n, id := (s.station st.val).nextClaim }] ∧
      u = { s with wort := u.wort, host.ctxs := u.host.ctxs, conv.stn := u.conv.stn }) ∧
    (8 ≤ (s.contribs st.val).length → u.wort = s.wort ∧
      (r.waited.contains n = false → u.obj 0x30123 st.val = (s.obj 0x30123 st.val + 1) % 2 ^ 64) ∧ (r.waited.contains n = true → u = s))) ∧
  (∀ (st : Fin 128) ctx n c e i cl a, ∀ s : State, s.contribs st.val = [c] → c.ctx = ctx → c.entry = n → c.armed = false →
    s.rstaEntry ctx n = some e → nextCluster e c = some i → (s.stationClusters st.val)[i]? = some cl →
    s.health.absent.contains cl = false →
    (∀ x ∈ subtileUnits e, (s.cluster cl).final.contains x = true ∧ (s.cluster cl).held.contains x = false) →
    let t := s.stationCycle st.val
    let v := if c.asked then s else s.onArb .stationLatch st.val (t - 1) (fun x => x.enqueue ⟨i, t, 64, c.id⟩)
    (v.latchEnded st.val i c.id = none → ∃ u, exec (.subtileRead st ctx n false) s = .next u ∧
      u.contribs st.val = [{ c with asked := true }] ∧ u.arb = v.arb ∧ u.clusters = s.clusters ∧ u.mem = s.mem) ∧
    (v.latchEnded st.val i c.id = some a →
    (c.read = 0 → ∃ u, exec (.subtileRead st ctx n false) s = .next u ∧
      u = { s with wort := u.wort, clusters := u.clusters, arb.insts := u.arb.insts } ∧ u.arbOf .stationLatch st.val = a ∧
      u.contribs st.val = [{ c with asked := false, read := 1#8 <<< i, sum := subtileWords (s.cluster cl).acc e, armed := (bitsOf e.clusters).all (fun j => (1#8 <<< i).getLsbD j) }] ∧
      (u.cluster cl).final = (s.cluster cl).final.filter (fun x => !(subtileUnits e).contains x) ∧
      (u.cluster cl).acc = (s.cluster cl).acc ∧ (∀ k, k ≠ cl → u.cluster k = s.cluster k)) ∧
    (c.read ≠ 0 → ∃ u d, exec (.subtileRead st ctx n false) s = .next u ∧ u.contribs st.val = [d] ∧
      d.read = c.read ||| (1#8 <<< i) ∧ d.sum = (addLists c.sum (subtileWords (s.cluster cl).acc e)).1 ∧ d.step = c.step) ∧
    ∃ u, exec (.subtileRead st ctx n true) s = .next u ∧ u.contribs st.val = [{ c with asked := true, lost := true, armed := true, sum := [] }])) ∧
  (∀ (st : Fin 128) (slot : Fin 76800) c p e r, ∀ s : State, s.moving = true → 2 ≤ slot.val →
    slot.val < s.conv.span.slots → s.contribs st.val = [c] → s.retOf c.ctx = some p → s.rstaEntry c.ctx c.entry = some e →
    p.map[e.slot]? = some slot.val → p.runs.find? (fun y => y.step == c.step) = some r →
    r.startRev + e.revOffset ≤ (s.station st.val).wortRev →
    (s.wortSlot slot.val).bad = false → contribMatches (s.wortSlot slot.val) e r.gen = true → c.armed = true →
    let x := s.wortSlot slot.val
    (∀ bufferUe, ∃ u, exec (.addWindowPass st slot false bufferUe false) s = .next u ∧ u.contribs st.val = [] ∧
      (st.val ≠ 0 → c.lost = false → bufferUe = false → u.wortSlot slot.val =
        { x with stnCount := x.stnCount + 1, payload := (addPayload x.format x.payload c.sum).1 }) ∧
      (st.val ≠ 0 → (c.lost || bufferUe) = true → u.wortSlot slot.val = { x with stnCount := x.stnCount + 1 }) ∧
      (∀ i, i ≠ slot.val → u.wortSlot i = s.wortSlot i) ∧ u.clusters = s.clusters) ∧
    (c.lateCounted = false → ∃ u, exec (.addWindowPass st slot true false false) s = .next u ∧
      u.contribs st.val = [{ c with lateCounted := true }] ∧ (st.val ≠ 0 → u.wort.slots = s.wort.slots))) ∧
  (∀ (slot : Fin 76800) late bufferUe e, ∀ s : State, s.moving = true → 2 ≤ slot.val → slot.val < s.conv.span.slots →
    s.contribs 0 = [] → (s.wortSlot slot.val).bad = false → gradSlot (s.wortSlot slot.val) = true →
    e = ((s.host.ctxs.filterMap (fun c => c.2.ret)).find? (fun p => p.map.contains slot.val)).elim 0
      (fun p => p.expected (s.wortSlot slot.val).tileId) →
    let x := s.wortSlot slot.val
    let t := s.tallyOf slot.val x + x.stnCount.toNat
    ∃ u, exec (.addWindowPass 0 slot late bufferUe false) s = .next u ∧ u.wortSlot slot.val = { x with stnCount := 0, bitmap := if t = e then x.bitmap ||| (1#64 <<< s.conv.span.index) else x.bitmap } ∧ u.tallyOf slot.val x = t) ∧
  (∀ (st : Fin 128) late bufferUe, ∀ s : State, s.moving = true → 0 < s.conv.span.slots →
    ((s.station st.val).wortUnsure = false → s.wort.markerBad = false → exec (.addWindowPass st 0 late bufferUe false) s =
      .next (s.putStation st.val { s.station st.val with wortRev := s.wort.marker.rev.toNat, wortUnsure := false })) ∧
    exec (.addWindowPass st 0 late bufferUe true) s =
      .next (s.putStation st.val { s.station st.val with wortRev := (s.station st.val).wortRev + 1, wortUnsure := true }))

/-- The verdict slot. As slot 1 leaves in good order the member writes its record and its DONE bit. The verdict becomes
final there if the record fails, with FAIL and its causes, or if every member is done, with PASS exactly when no
record fails and the sum does not exceed the threshold; DECIDE_REV lies two revolutions ahead. A final verdict is not
changed by a record. A failed CRC is counted and nothing written; the controller rebuilds the slot from its copy, and
in a span counts the damaged arrival. (R126, R127, R551) -/
def Obligations.VerdictsAreWrittenAndFinal : Prop :=
  (∀ x, ∀ s : State, s.moving = true → s.verdict.slot1.collecting = true → s.verdict.crcBad = false →
    (s.conv.controls = true → s.verdict.openRev ≤ s.slot1Rev) →
    verdictFinal s.verdict.slot1 = false → s.verdict.held = none → s.steps.deciding = none → s.stepOf s.verdict.slot1.step = some x → x.abortPending = [] →
    let r := s.memberRecord x
    ∃ u, exec (.verdictRecordWrite false) s = .next u ∧
    u.verdict.slot1 = finalize (withRecord s.verdict.slot1 s.conv.span.index r) s.conv.span.index r s.slot1Rev ∧
    (s.conv.controls = true → u.verdict.kept = some u.verdict.slot1) ∧ (verdictFinal u.verdict.slot1 = true →
      u.verdict.held = some u.verdict.slot1) ∧ u.conv = s.conv ∧ u.kilns = s.kilns ∧ u.mem = s.mem) ∧
  (∀ s : State, s.moving = true →
    exec (.verdictRecordWrite true) s = .next (({ s with verdict.crcBad := true } : State).bump 0x30143 0)) ∧
  (∀ v, ∀ s : State, s.verdict.kept.getD {} = v → s.moving = true → s.conv.controls = true → s.verdict.crcBad = true →
    exec .verdictSlotRebuild s = .next (if s.conv.span.n = 1 then { s with verdict.slot1 := v, verdict.crcBad := false }
      else ({ s with verdict.slot1 := v, verdict.crcBad := false } : State).bump 0x30143 0)) ∧
  (∀ v own r rev, verdictFinal v = true → finalize v own r rev = v) ∧
  (∀ v own r rev, verdictFinal v = false → ownCause r ≠ 0 → (finalize v own r rev).state = 2 ∧
    (finalize v own r rev).cause = BitVec.ofNat 16 (ownCause r) ∧ (finalize v own r rev).decideRev = BitVec.ofNat 48 (rev + 2)) ∧
  (∀ v own r rev, verdictFinal v = false → ownCause r = 0 → (∀ i, i < v.spanN.toNat → v.doneMap.getLsbD i = true) →
    (finalize v own r rev).decideRev = BitVec.ofNat 48 (rev + 2) ∧ ((finalize v own r rev).state = 1 ↔
      (∀ y ∈ v.records, y.2.nonfinite = 0 ∧ y.2.sharedLost = false ∧ y.2.poisoned = false) ∧
      Verdict1.total v.records ≤ v.threshold.toNat)) ∧
  (∀ v own r rev, verdictFinal v = false → ownCause r = 0 → (∃ i, i < v.spanN.toNat ∧ v.doneMap.getLsbD i = false) →
    finalize v own r rev = v)

/-- Pseudo-channels: retry, retraining, spares, migration. The retry of a transfer is counted; one that passes forgets its
failures; the fourth that fails escalates: the transfer waits in the hold queue behind a window that opens. One that
fails behind its window makes the pseudo-channel failed. A window that is due opens while the stack has none open, and
waits for its turn else; nothing is granted from then on. At its end the time and temperature are kept and the held
requests enter the queue; after 500 microseconds without success the pseudo-channel is failed. A scrub read counts its
corrected errors, and the pass starts a migration when it exceeds the limit. A migration copies its sectors in
ascending order, counting those that read uncorrectable and those corrected, until the last one makes it ready to
switch. The switch waits for what is in flight at source and target; then it puts the spare into the channel map in
one step, marks it used, counts into 40.061, puts the map into the repair list and lets the held requests go to the
spare. No byte of the fast tier changes. (R293, R295, R297, R298, R299, R300, R469) -/
def Obligations.PseudoChannelsRetryAndMigrate : Prop :=
  (
  (∀ (p : Fin 1024) (req : HbmTransfer) passes cycle, ∀ s : State, req.req < requesters .hbmQueue → (s.pchan p.val).escalated.contains (transferKey req) = false → ∃ t,
    exec (.hbmParityRetry p req passes cycle) s = .next t ∧ t.obj 0x40100 p.val = (s.obj 0x40100 p.val + 1) % 2 ^ 64 ∧
    (∀ k, k ≠ p.val → t.pchan k = s.pchan k) ∧
    (passes = true → t.pchan p.val = { s.pchan p.val with retries := (s.pchan p.val).retries.erase (transferKey req) } ∧
      t = { s with mem.pchan := t.mem.pchan, mgmt.dict := t.mgmt.dict }) ∧
    (passes = false → (s.pchan p.val).retries.get 0 (transferKey req) < 3 →
      t.pchan p.val = { s.pchan p.val with retries := (s.pchan p.val).retries.set 0 (transferKey req) ((s.pchan p.val).retries.get 0 (transferKey req) + 1) } ∧
      t = { s with mem.pchan := t.mem.pchan, mgmt.dict := t.mgmt.dict }) ∧
    (passes = false → 3 ≤ (s.pchan p.val).retries.get 0 (transferKey req) → t.obj 0x40101 p.val = (s.obj 0x40101 p.val + 1) % 2 ^ 64 ∧
      t.pchan p.val = { s.pchan p.val with retries := (s.pchan p.val).retries.erase (transferKey req), escalated := insertNat (transferKey req) (s.pchan p.val).escalated, held := (s.pchan p.val).held ++ [⟨req.req, cycle, 16, req.number⟩], window := some ((s.pchan p.val).window.getD .escalation) } ∧
      ((s.pchan p.val).window = none → (t.arbOf .hbmQueue p.val).closed = true))) ∧
  (∀ (p : Fin 1024) (req : HbmTransfer) cycle, ∀ s : State, req.req < requesters .hbmQueue → (s.pchan p.val).window = none →
    (s.pchan p.val).escalated.contains (transferKey req) = true →
    exec (.hbmParityRetry p req true cycle) s = .next (s.putPchan p.val { s.pchan p.val with escalated := eraseNat (transferKey req) (s.pchan p.val).escalated, retries := (s.pchan p.val).retries.erase (transferKey req) }) ∧
    ∃ t, exec (.hbmParityRetry p req false cycle) s = .next t ∧ (t.pchan p.val).failed = true ∧ ((s.pchan p.val).failed = false → p.val ∈ t.health.repair.channels) ∧
      (t.pchan p.val).escalated = eraseNat (transferKey req) (s.pchan p.val).escalated) ∧
  (∀ (p : Fin 1024) cause cycle, ∀ s : State, s.windowDue p.val cause = true → (s.pchan p.val).window = none →
    ((∀ i, i < 64 → (s.pchan (p.val / 64 * 64 + i)).window = none) → ∃ t,
      exec (.retrainWindowOpen p cause cycle) s = .next t ∧ t.pchan p.val = { s.pchan p.val with window := some cause } ∧
      (t.arbOf .hbmQueue p.val).closed = true ∧ t.obj 0x40104 p.val = (s.obj 0x40104 p.val + 1) % 2 ^ 64 ∧
      (∀ k, k ≠ p.val → t.pchan k = s.pchan k) ∧ t.mem.hbm = s.mem.hbm ∧ t.groups = s.groups) ∧
    ((∃ i, i < 64 ∧ (s.pchan (p.val / 64 * 64 + i)).window ≠ none) → (∀ x ∈ s.mem.due.get [] (p.val / 64), x.1 ≠ p.val) →
      exec (.retrainWindowOpen p cause cycle) s = .next { s with mem.due := s.mem.due.set [] (p.val / 64) (s.mem.due.get [] (p.val / 64) ++ [(p.val, cause)]) })) ∧
  (∀ (p : Fin 1024) cause cycle, ∀ s : State, s.windowDue p.val cause = false →
    exec (.retrainWindowOpen p cause cycle) s = .next s) ∧
  (∀ (p : Fin 1024) mC cycle, ∀ s : State, (s.pchan p.val).window ≠ none → s.mem.due.get [] (p.val / 64) = [] →
    let a := s.arbOf .hbmQueue p.val
    s.switching p.val = false → a.closed = true → a.running = none → a.emergency = false → a.ended = [] → ∃ t,
    exec (.retrainWindowEnd p mC cycle) s = .next t ∧
    t.pchan p.val = { s.pchan p.val with held := [], window := none, trained := some (s.now, mC) } ∧
    t.arbOf .hbmQueue p.val =
      (s.pchan p.val).held.foldl Arb.enqueue { a with closed := false, idleFrom := max a.idleFrom (cycle - 1) } ∧
    t = { s with mem.pchan := t.mem.pchan, arb.insts := t.arb.insts }) ∧
  (∀ (p : Fin 1024) mC cycle x l, ∀ s : State, (s.pchan p.val).window ≠ none → s.mem.due.get [] (p.val / 64) = x :: l →
    (∀ i, i < 64 → p.val / 64 * 64 + i ≠ p.val → (s.pchan (p.val / 64 * 64 + i)).window = none) → ∃ t,
    exec (.retrainWindowEnd p mC cycle) s = .next t ∧ (t.pchan x.1).window = some x.2) ∧
  (∀ (p : Fin 1024) cycle, ∀ s : State, (s.pchan p.val).window ≠ none → ∃ t, exec (.retrainTimeout p cycle) s = .next t ∧
    (t.pchan p.val).failed = true ∧ (s.mem.due.get [] (p.val / 64) = [] → (t.pchan p.val).window = none)) ∧
  (∀ (p : Fin 1024) offset last c, ∀ s : State, s.mappedTo p.val = some c →
    ((s.pchan p.val).scrubErrors ≤ s.obj 0x40041 0 → exec (.patrolScrubRead p offset .clean last) s =
      .next (s.putPchan p.val { s.pchan p.val with scrubErrors := if last then 0 else (s.pchan p.val).scrubErrors })) ∧
    (∃ t, exec (.patrolScrubRead p offset .corrected last) s = .next t ∧ t.obj 0x40102 p.val = (s.obj 0x40102 p.val + 1) % 2 ^ 64 ∧
      (t.pchan p.val).scrubErrors = (if last then 0 else (s.pchan p.val).scrubErrors + 1) ∧
      ((s.pchan p.val).scrubErrors < s.obj 0x40041 0 → t.mem.migration = s.mem.migration) ∧
      (∀ x l, s.obj 0x40041 0 ≤ (s.pchan p.val).scrubErrors → s.mem.migration.find? (p.val / 64) = none →
        (∀ i, i < 64 → (s.pchan (64 * (p.val / 64) + i)).failed = false ∧ (s.pchan (64 * (p.val / 64) + i)).selected = false) →
        s.freeSpares (p.val / 64) = x :: l →
        t.mem.migration.find? (p.val / 64) = some { source := p.val, target := 64 * (p.val / 64) + x })) ∧
    ∃ t, exec (.patrolScrubRead p offset .uncorrectable last) s = .next t ∧
      s.channelAddr (p.val / 64) c (offset / 256 * 256 % pchanBytes) / 256 ∈ t.mem.poison ∧ t.mem.hbm = s.mem.hbm)
  ) ∧ (
  (∀ (h : Fin 16) m, ∀ s : State, s.mem.migration.find? h.val = some m → m.copied < pchanBytes → ∃ t,
    exec (.migrationSectorCopy h .clean) s = .next t ∧ t = { s with mem.migration := t.mem.migration } ∧
    t.mem.migration.find? h.val = some { m with copied := m.copied + 256, switching := decide (pchanBytes ≤ m.copied + 256) } ∧
    (∀ k, k ≠ h.val → t.mem.migration.find? k = s.mem.migration.find? k)) ∧
  (∀ (h : Fin 16) m, ∀ s : State, s.mem.migration.find? h.val = some m → m.copied < pchanBytes →
    (∃ t, exec (.migrationSectorCopy h .uncorrectable) s = .next t ∧ t.mem.migration.find? h.val = some { m with copied := m.copied + 256, poisoned := m.poisoned + 1, switching := decide (pchanBytes ≤ m.copied + 256) } ∧
      t.mem.hbm = s.mem.hbm ∧ (∀ c, s.mappedTo m.source = some c → s.channelAddr h.val c m.copied / 256 ∈ t.mem.poison)) ∧
    ∃ t, exec (.migrationSectorCopy h .corrected) s = .next t ∧ t.mem.migration.find? h.val = some { m with copied := m.copied + 256, switching := decide (pchanBytes ≤ m.copied + 256) } ∧
      t.obj 0x40102 m.source = (s.obj 0x40102 m.source + 1) % 2 ^ 64 ∧
      t = { s with mem.migration := t.mem.migration, mgmt.dict := t.mgmt.dict }) ∧
  (∀ (h : Fin 16) m c cycle, ∀ s : State, s.mem.migration.find? h.val = some m → s.mappedTo m.source = some c → m.switching = true →
    (∀ p ∈ [m.source, m.target], (s.arbOf .hbmQueue p).heads = [] ∧ (s.arbOf .hbmQueue p).queued = [] ∧
      (s.arbOf .hbmQueue p).running = none ∧ (s.arbOf .hbmQueue p).emergency = false ∧ (s.arbOf .hbmQueue p).ended = []) → ∃ t,
    exec (.migrationSwitch h cycle) s = .next t ∧ t.obj 0x40020 h.val = switchMap (s.obj 0x40020 h.val) c (m.target % 64) ∧
    t.obj 0x40061 0 = (s.obj 0x40061 0 + 1) % 2 ^ 32 ∧
    Bank.find? t.health.repair.maps h.val = some (switchMap (s.obj 0x40020 h.val) c (m.target % 64)) ∧ t.mem.hbm = s.mem.hbm ∧
    (t.pchan m.source).held = [] ∧ t.arbOf .hbmQueue m.target = (s.pchan m.source).held.foldl Arb.enqueue
      { s.arbOf .hbmQueue m.target with closed := false, idleFrom := max (s.arbOf .hbmQueue m.target).idleFrom cycle }) ∧
  (∀ (h : Fin 16) m cycle, ∀ s : State, s.mem.migration.find? h.val = some m →
    m.switching = false ∨ ((s.onPchan m.source cycle id).onPchan m.target cycle id).drained m.source = false ∨
      ((s.onPchan m.source cycle id).onPchan m.target cycle id).drained m.target = false → ∃ t,
    exec (.migrationSwitch h cycle) s = .next t ∧ t.obj 0x40020 h.val = s.obj 0x40020 h.val ∧
    t.mem.migration = s.mem.migration ∧ t.health.repair = s.health.repair ∧ t.mem.hbm = s.mem.hbm)
  )

/-- Shares of the fast tier; retries of slow-tier packages. A request takes a miss-tracking entry while one of 128 is free
and fewer than 8 are for its pseudo-channel, and the cycles that it waited are counted in 40.116. A request that waits
for the bucket is charged 256 bytes once the bucket of its virtual interface and die holds them, and its wait counted
in 40.120; else nothing changes. A prefetch that is held back is counted in 40.114 and fetches nothing; one that
issues is counted in 40.110, enters the prefetch table and takes an entry, or brings a sector that the slices hold. A
transfer whose fourth retry over a package link fails escalates: the package is retrained, and fails if the last
escalation lies less than an hour back. A window that succeeds ends; one that does not makes the package failed:
40.134 shows it, the repair list keeps it, and the Cask gets LP_FAILED. With a second failed package on an I/O die
both Kilns of the die have lost their stripes. (R46, R302, R308, R309, R314, R469) -/
def Obligations.SharesAndSlowTier : Prop :=
  (
  (∀ (cluster : Fin 1088) (p : Fin 1024) n, ∀ s : State,
    (s.missUsed cluster.val < 128 → ((s.cluster cluster.val).miss.filter (fun e => e.p == p.val)).length < 8 → ∃ t,
      exec (.missEntryAlloc cluster p n) s = .next t ∧ t = { s with clusters := t.clusters, mgmt.dict := t.mgmt.dict } ∧
      t.cluster cluster.val = { s.cluster cluster.val with miss := (s.cluster cluster.val).miss ++ [{ owner := .other, p := p.val }] } ∧
      (∀ k, k ≠ cluster.val → t.cluster k = s.cluster k) ∧
      t.obj 0x40116 cluster.val = (s.obj 0x40116 cluster.val + n) % 2 ^ 64) ∧
    (128 ≤ s.missUsed cluster.val ∨ 8 ≤ ((s.cluster cluster.val).miss.filter (fun e => e.p == p.val)).length →
      exec (.missEntryAlloc cluster p n) s = .next s)) ∧
  (∀ (v : Fin 64) (d : Fin 8) n cl e, ∀ s : State, s.bucketWaiter v.val d.val = some (cl, e) →
    (s.bucketEmpty v.val d.val = false → ∃ t,
      exec (.regulatorCharge v d n) s = .next t ∧ t.obj 0x40120 v.val = (s.obj 0x40120 v.val + n) % 2 ^ 64 ∧
      (s.regulated v.val = true → t.bucketLevel v.val d.val = s.bucketLevel v.val d.val - 160000) ∧
      (t.cluster cl).miss = (s.cluster cl).miss.map (fun y => if y = e then { y with stage := .charged } else y) ∧
      t = { s with mem.bucket := t.mem.bucket, mgmt.dict := t.mgmt.dict, clusters := t.clusters } ∧
      (∀ i, i ≠ 8 * v.val + d.val → t.mem.bucket.get 0 i = s.mem.bucket.get 0 i)) ∧
    (s.bucketEmpty v.val d.val = true → exec (.regulatorCharge v d n) s = .next s)) ∧
  (∀ v, ∀ s : State, s.turnBuckets.bucketSet v = s.bucketNew v ∧ (s.keepBucket v).bucketSet v = s.bucketSet v) ∧
  (∀ (v : Fin 64) (d : Fin 8) n, ∀ s : State, s.bucketWaiter v.val d.val = none → exec (.regulatorCharge v d n) s = .next s) ∧
  (∀ (cluster : Fin 1088) (tracker : Fin 16) k a p, ∀ s : State, (s.cluster cluster.val).ctx = some k →
    prefetchTarget ((s.cluster cluster.val).trackers.get {} tracker.val) (if fld (s.obj 0x40030 (ctxVi k)) 1 6 = 0 then 8
      else fld (s.obj 0x40030 (ctxVi k)) 1 6) = some a → bit (s.obj 0x40030 (ctxVi k)) 0 = true →
    s.translate k (256 * a) .load = .ok (.fast p) →
    let d := dieOfCluster cluster.val
    let had := s.dieHas d (.fast p) || s.homeHas (.fast p)
    (s.prefetchRoom cluster.val (s.pchanOf p) = false ∨ (had = false ∧ s.bucketEmpty (ctxVi k) d = true) →
      exec (.prefetchIssue cluster tracker) s = .next (s.bump 0x40114 cluster.val)) ∧
    (s.prefetchRoom cluster.val (s.pchanOf p) = true → had = false → s.bucketEmpty (ctxVi k) d = false → ∃ t,
      exec (.prefetchIssue cluster tracker) s = .next t ∧ t.obj 0x40110 cluster.val = (s.obj 0x40110 cluster.val + 1) % 2 ^ 64 ∧
      (Place.fast p).sector ∈ (t.cluster cluster.val).prefetched ∧
      (t.cluster cluster.val).miss = (s.cluster cluster.val).miss ++
        [{ owner := .prefetch, sector := (Place.fast p).sector, addr := p, p := s.pchanOf p, v := ctxVi k }] ∧
      (s.regulated (ctxVi k) = true → t.bucketLevel (ctxVi k) d = s.bucketLevel (ctxVi k) d - 160000) ∧
      t = { s with clusters := t.clusters, mem.bucket := t.mem.bucket, mgmt.dict := t.mgmt.dict }) ∧
    (s.prefetchRoom cluster.val (s.pchanOf p) = true → had = true → ∃ t,
      exec (.prefetchIssue cluster tracker) s = .next t ∧ t.obj 0x40110 cluster.val = (s.obj 0x40110 cluster.val + 1) % 2 ^ 64 ∧
      t.dieHas d (.fast p) = true ∧ t.mem.hbm = s.mem.hbm ∧ t.groups = s.groups))
  ) ∧ (
  (∀ (q : Fin 32) x, ∀ s : State, (s.lp q.val).failed = false → (s.lp q.val).retraining = false →
    let n := (s.lp q.val).attempts.get 0 x
    exec (.lpLinkRetry q ⟨x, true⟩) s = .next (s.putLp q.val { s.lp q.val with attempts := (s.lp q.val).attempts.erase x }) ∧
    (n < 3 →
      exec (.lpLinkRetry q ⟨x, false⟩) s = .next (s.putLp q.val { s.lp q.val with attempts := (s.lp q.val).attempts.set 0 x (n + 1) })) ∧
    (3 ≤ n → (∀ t, (s.lp q.val).escalatedAt = some t → t + 3600000000000 ≤ s.now) →
      exec (.lpLinkRetry q ⟨x, false⟩) s = .next (s.putLp q.val { s.lp q.val with attempts := [], retraining := true, escalatedAt := some s.now })) ∧
    (∀ t, 3 ≤ n → (s.lp q.val).escalatedAt = some t → s.now < t + 3600000000000 → ∃ u,
      exec (.lpLinkRetry q ⟨x, false⟩) s = .next u ∧ (u.lp q.val).failed = true ∧ u.obj 0x40134 q.val = 1 ∧ q.val ∈ u.health.repair.packages)) ∧
  (∀ (q : Fin 32), ∀ s : State, (s.lp q.val).retraining = true →
    exec (.lpRetrainWindow q true) s = .next (s.putLp q.val { s.lp q.val with retraining := false }) ∧
    ∃ u, exec (.lpRetrainWindow q false) s = .next u ∧ (u.lp q.val).failed = true ∧ (u.lp q.val).retraining = false ∧
      u.obj 0x40134 q.val = 1 ∧ q.val ∈ u.health.repair.packages ∧ (∀ k, k ≠ q.val → u.lp k = s.lp k) ∧
      ((∃ k, k ≠ q.val ∧ k / 8 = q.val / 8 ∧ (s.lp k).failed = true) →
        (u.kilnAt (2 * (q.val / 8))).allLost = true ∧ (u.kilnAt (2 * (q.val / 8) + 1)).allLost = true))
  )

/-- A Kiln takes over tiles and updates masters. The first tile that has not been checked is dropped when an element is
not finite or when R329 refuses it, set aside as frozen when its group is, else kept as checked. An update writes
newMaster of every ACTIVE master and its gradient element into the alternate copy, sets PENDING of the tile's blocks
and leaves every ACTIVE copy as it was; the working-copy part waits for its buffer. A frozen tile changes no master. A
tile of an EXPORT group is listed as exported. In brown-hold tiles wait. (R320, R329, R330, R335, R336, R351) -/
def Obligations.KilnsTakeAndUpdateTiles : Prop :=
  (∀ (k : Fin 8) t, ∀ s : State, (s.kilnAt k.val).input = [t] → (s.kilnAt k.val).park = [] → t.checked = false →
    s.power.brown = false → ∃ u, exec (.kilnTileTakeover k) s = .next u ∧
    (u.kilnAt k.val).masters = (s.kilnAt k.val).masters ∧ (u.kilnAt k.val).activeB = (s.kilnAt k.val).activeB ∧
    (s.checkTile k.val t = .nonfinite ∨ s.checkTile k.val t = .refused → (u.kilnAt k.val).input = [] ∧ (u.kilnAt k.val).park = []) ∧
    (s.checkTile k.val t = .frozen →
      (u.kilnAt k.val).input ++ (u.kilnAt k.val).park = [{ t with checked := true, frozen := true }]) ∧
    (s.checkTile k.val t = .export_ → s.tileWaits t = false → (u.kilnAt k.val).input = [] ∧ (u.kilnAt k.val).park = [] ∧
      (u.kilnAt k.val).exported = (s.kilnAt k.val).exported ++ [(t.step, t.ctx, t.slot.tileId)]) ∧
    (s.checkTile k.val t = .update → (u.kilnAt k.val).input ++ (u.kilnAt k.val).park = [{ t with checked := true }])) ∧
  (∀ (k : Fin 8) reads, ∀ s : State, s.power.brown = true → exec (.kilnTileTakeover k) s = .next s ∧
    exec (.kilnUpdateTile k reads) s = .next s ∧ exec (.workingCopyWrite k) s = .next s ∧
    exec (.stripeFlushTimeout k) s = .next s ∧ exec (.stripeWriteDone k reads) s = .next s) ∧
  (∀ (k : Fin 8) t e m, ∀ s : State, (s.kilnAt k.val).input = [t] → (s.kilnAt k.val).park = [] → t.checked = true → t.frozen = false →
    s.tileWaits t = false → s.power.brown = false → (s.kilnAt k.val).entryOf t.step t.ctx t.slot.pgroup.toNat = some e →
    s.mapEntry t.ctx t.slot.tileId = some m → e.export_ = false → (s.kilnAt k.val).lostUnits = [] → (s.kilnAt k.val).allLost = false →
    s.failedPackages k.val = [] → s.retrainingPackages k.val = [] →
    (s.kilnAt k.val).roomFor ((s.blocksOf t.ctx m t.slot.format).flatMap
      (fun b => unitsOf (1 - (s.kilnAt k.val).activeCopy b) [b])) = true →
    (∀ b ∈ s.blocksOf t.ctx m t.slot.format, b < 21635072) → ∃ u j, exec (.kilnUpdateTile k {}) s = .next u ∧
    (u.kilnAt k.val).input = [] ∧ (u.kilnAt k.val).activeB = (s.kilnAt k.val).activeB ∧
    (u.kilnAt k.val).jobs = (s.kilnAt k.val).jobs ++ [j] ∧ j.ctx = t.ctx ∧ j.tileId = t.slot.tileId ∧ j.frozen = false ∧
    (∀ i b, (s.blocksOf t.ctx m t.slot.format)[i]? = some b → b ∈ (u.kilnAt k.val).pending ∧ ∀ w, w < 1024 →
      (u.kilnAt k.val).master k.val (1 - (s.kilnAt k.val).activeCopy b) b w =
        (newMaster e ((s.kilnAt k.val).master k.val ((s.kilnAt k.val).activeCopy b) b w) (t.words.getD (1024 * i + w) 0#32)).1) ∧
    (∀ b w, b < 21635072 → w < 1024 → (u.kilnAt k.val).master k.val ((s.kilnAt k.val).activeCopy b) b w =
      (s.kilnAt k.val).master k.val ((s.kilnAt k.val).activeCopy b) b w)) ∧
  (∀ (k : Fin 8) reads t m, ∀ s : State, (s.kilnAt k.val).input = [t] → (s.kilnAt k.val).park = [] → t.checked = true → t.frozen = true →
    s.tileWaits t = false → s.power.brown = false → s.mapEntry t.ctx t.slot.tileId = some m → ∃ u j,
    exec (.kilnUpdateTile k reads) s = .next u ∧ (u.kilnAt k.val).input = [] ∧ (u.kilnAt k.val).masters = (s.kilnAt k.val).masters ∧
    (u.kilnAt k.val).jobs = (s.kilnAt k.val).jobs ++ [j] ∧ j.frozen = true ∧ j.tileId = t.slot.tileId ∧ u.mem = s.mem)

/-- Kilns: copies and stripes, and the commands that read and write tiles. A part whose buffer has been released, and that
the part tracker takes, is written and leaves the list; one that waits is counted once. Neither changes a master. A
stripe of the write buffers that is not whole is to be written as it is after its time. A whole stripe gives its
parity; one of fewer units takes the old units and the old parity; the CRC of the parity goes with it, and the stripe
leaves the buffers. KILN_READ reads the units of the ACTIVE masters of its blocks, with their CRCs checked, and stores
them into the caller's memory; it changes no Kiln where every unit reads well, and waits for a Kiln that is lost.
KILN_WRITE, legal only while no step is live, writes the ACTIVE copy of each block from the caller's memory and clears
PENDING; ACTIVE does not change. Empty ranges and a table outside the caller's memory complete with RANGE. KILN_APPLY
gives an exported tile its direction, which waits in the park area as an applied tile, and completes when it is
written. (R313, R317, R335, R336, R353, R355, 10_kiln_and_training.md) -/
def Obligations.KilnsWriteAndObeyCommands : Prop :=
  (
  (∀ (k : Fin 8) j, ∀ s : State, (s.kilnAt k.val).jobs = [j] → s.jobReady j = true → s.jobTracked k.val j = true →
    s.power.brown = false → ∃ u,
    exec (.workingCopyWrite k) s = .next u ∧ (u.kilnAt k.val).jobs = [] ∧ (u.kilnAt k.val).masters = (s.kilnAt k.val).masters ∧
    (u.kilnAt k.val).pending = (s.kilnAt k.val).pending) ∧
  (∀ (k : Fin 8) j, ∀ s : State, (s.kilnAt k.val).jobs = [j] → s.jobReady j = false → s.power.brown = false → ∃ u,
    exec (.workingCopyWrite k) s = .next u ∧ (u.kilnAt k.val).jobs = [{ j with counted := true }] ∧ u.mem = s.mem ∧
    u.obj 0x30154 k.val = (s.obj 0x30154 k.val + (if j.counted then 0 else 1)) % 2 ^ 64) ∧
  (∀ (k : Fin 8) i l, ∀ s : State, (s.kilnAt k.val).stripes = [(i, l)] → l.length < 7 → (s.kilnAt k.val).flush = [] →
    s.power.brown = false → exec (.stripeFlushTimeout k) s = .next (s.putKiln k.val { s.kilnAt k.val with flush := [i] })) ∧
  (∀ (k : Fin 8) reads i l, ∀ s : State, (s.kilnAt k.val).stripes = [(i, l)] → s.power.brown = false →
    s.retrainingPackages k.val = [] →
    let x := s.kilnAt k.val
    (7 ≤ l.length → ∃ u, exec (.stripeWriteDone k reads) s = .next u ∧ (u.kilnAt k.val).stripes = [] ∧
      Bank.find? (u.kilnAt k.val).parity i = some (xorUnits ((stripeUnits i).map (x.unitValue k.val))) ∧
      Bank.find? (u.kilnAt k.val).crcs (unitCount + i) = some (unitCrc (xorUnits ((stripeUnits i).map (x.unitValue k.val)))) ∧
      (u.kilnAt k.val).masters = x.masters ∧ u.mem = s.mem) ∧
    (l.length < 7 → x.flush = [i] → s.failedPackages k.val = [] → ∃ u, exec (.stripeWriteDone k {}) s = .next u ∧
      (u.kilnAt k.val).stripes = [] ∧ (u.kilnAt k.val).flush = [] ∧ Bank.find? (u.kilnAt k.val).parity i =
        some (l.foldl (fun p y => p ^^^ y.2 ^^^ x.unitValue k.val (7 * i + y.1)) (x.stored k.val (unitCount + i))) ∧
      (u.kilnAt k.val).masters = x.masters ∧ u.mem = s.mem))
  ) ∧ (
  (∀ r c k reads, ∀ s : State, Safety.started s r 0x2D c → k = s.cmdCtx r → c.arg 32 25 ≠ 0 →
    s.inRange k (c.arg 64 48) (4096 * c.arg 32 25) .store = true → s.ownBlocks k c = true →
    let q := c.arg 0 3
    let units := (s.kilnAt q).activeUnits (s.blockRange k c)
    let t := s.readUnits q units reads
    let x := t.kilnAt q
    let first := s.masterFirst (ctxVi k) + c.arg 7 25
    (s.kilnLost q = true → exec (.kilnRead r reads) s = .next s) ∧
    (s.kilnLost q = false → s.unitsWait q units reads = false → ∃ u, exec (.kilnRead r reads) s = .next u ∧ Safety.done u r 0 0 ∧
    (∀ i, u.kilnAt i = t.kilnAt i) ∧
    (reads.bad = [] → s.failedPackages q = [] → u.steps = s.steps ∧ ∀ i, u.kilnAt i = s.kilnAt i) ∧
    u.mem = ((List.range (c.arg 32 25)).foldl (fun (a : State) i => a.storeAs 64 k (c.arg 64 48 + 4096 * i)
      ((x.blockWords q (x.activeCopy (first + i)) (first + i)).flatMap (fun w => leBytes 4 w.toNat))) t).mem)) ∧
  (∀ r c reads, ∀ s : State, (c.arg 32 25 = 0 ∨ (c.arg 112 1 = 1 ∧ c.arg 176 13 ≠ 0 ∧
      s.inRange (s.cmdCtx r) (c.arg 128 48) (32 * c.arg 176 13) .load = false)) →
    (c.arg 32 25 = 0 → Safety.started s r 0x2D c → ∃ u, exec (.kilnRead r reads) s = .next u ∧ Safety.done u r 5 0 ∧
      u = { s with host.queues := u.host.queues }) ∧
    (Safety.started s r 0x2E c → ∃ u, exec (.kilnWrite r reads) s = .next u ∧ Safety.done u r 5 0 ∧
      u = { s with host.queues := u.host.queues })) ∧
  (∀ r c k, ∀ s : State, Safety.started s r 0x2E c → k = s.cmdCtx r → c.arg 32 25 ≠ 0 →
    s.inRange k (c.arg 64 48) (4096 * c.arg 32 25) .load = true → s.ownBlocks k c = true → s.steps.live = [] →
    s.power.brown = false → s.kilnLost (c.arg 0 3) = false → c.arg 112 1 = 0 → s.retrainingPackages (c.arg 0 3) = [] → s.failedPackages (c.arg 0 3) = [] →
    let q := c.arg 0 3
    let first := s.masterFirst (ctxVi k) + c.arg 7 25
    first + c.arg 32 25 ≤ 21635072 → ∃ u, exec (.kilnWrite r {}) s = .next u ∧ Safety.done u r 0 0 ∧
    (u.kilnAt q).activeB = (s.kilnAt q).activeB ∧ (∀ i, i ≠ q → u.kilnAt i = s.kilnAt i) ∧ u.mem = s.mem ∧
    (∀ i j, i < c.arg 32 25 → j < 1024 → first + i ∉ (u.kilnAt q).pending ∧
      (u.kilnAt q).master q ((s.kilnAt q).activeCopy (first + i)) (first + i) j =
        BitVec.ofNat 32 (leNat (((s.readVirt k (c.arg 64 48) (4096 * c.arg 32 25)).drop (4096 * i + 4 * j)).take 4)))) ∧
  (∀ r c reads, ∀ s : State, Safety.started s r 0x2E c → c.arg 32 25 ≠ 0 →
    s.inRange (s.cmdCtx r) (c.arg 64 48) (4096 * c.arg 32 25) .load = true → s.steps.live ≠ [] → ∃ u,
    exec (.kilnWrite r reads) s = .next u ∧ u.kilns = s.kilns ∧ u.steps = s.steps) ∧
  (∀ r c, ∀ s : State, Safety.started s r 0x2F c → c.arg 64 32 = 0 → ∃ u, exec (.kilnApply r) s = .next u ∧ Safety.done u r 5 0 ∧
    u = { s with host.queues := u.host.queues }) ∧
  (∀ r c k n g y, ∀ s : State, Safety.started s r 0x2F c → k = s.cmdCtx r → c.arg 64 32 = 1 → s.inRange k (c.arg 0 48) 16 .load = true →
    n = leNat ((s.readVirt k (c.arg 0 48) 16).take 16) → s.gateEntry k (BitVec.ofNat 32 (fld n 96 32)) = some g →
    (s.kilnAt g.kiln).exported = [(y, k, BitVec.ofNat 32 (fld n 96 32))] → s.steps.live.any (fun z => z.step == y) = true →
    s.parkRoom 1 = true →
    let t : KilnTile := { ctx := k, step := y, checked := true, applied := true, slot := { kind := 2, format := g.format, tileId := BitVec.ofNat 32 (fld n 96 32), pgroup := g.pgroup, gen := ((s.stepOf y).map (·.gen)).getD 0, payload := trimBytes (s.readVirt k (fld n 48 48) (256 * gradCols g.format)) } }
    s.checkTile g.kiln t = .update → ∃ u, exec (.kilnApply r) s = .next u ∧ (u.kilnAt g.kiln).exported = [] ∧
    (u.kilnAt g.kiln).park = (s.kilnAt g.kiln).park ++ [t] ∧ (u.kilnAt g.kiln).masters = (s.kilnAt g.kiln).masters ∧
    (r, k, [BitVec.ofNat 32 (fld n 96 32)]) ∈ u.steps.applyWait)
  )

/-- Steps open, close and commit. A legal STEP_OPEN joins the opening and waits; one that R343 does not allow leaves the
sequence as it was, and one whose table lies outside the caller's objects completes with RANGE. The opening executes
when every participant has joined: the open step becomes the closed one, the new step reads the generation after that
of the step before, every Kiln latches the tables of all participants, and the next step number is fixed. STEP_CLOSE
with MODE 0 shuts the open step and completes, with MODE 1 it leaves an abort for the next pass of slot 1 and waits.
STEP_COMMIT of the step that passed last completes, or waits until its decision has taken effect. Any other step
number is an illegal sequence without effect on the steps. EVAL_OPEN waits for its window while no step is undecided;
EVAL_CLOSE ends the window when no kernel of it runs. (R323, R325, R341, R343, R344, R345, R346, R354) -/
def Obligations.StepsOpenCloseAndCommit : Prop :=
  (
  (∀ r c k, ∀ s : State, Safety.started s r 0x28 c → k = s.cmdCtx r →
    (c.arg 32 13 = 0 ∨ s.inRange k (c.arg 64 48) (32 * c.arg 32 13) .load = true) → ∃ u, exec (.stepOpen r) s = .next u ∧
    (s.badOpen k (BitVec.ofNat 32 (c.arg 0 32)) = false → u.steps.next = some (BitVec.ofNat 32 (c.arg 0 32)) ∧
      u.steps.participants = s.participantsOf (BitVec.ofNat 32 (c.arg 0 32)) ∧
      u.steps.reqs = s.steps.reqs ++ [{ ctx := k, step := BitVec.ofNat 32 (c.arg 0 32), table := c.arg 64 48, count := c.arg 32 13, cmd := r }] ∧
      u.cmd? r = some { c with busy := true } ∧ u = { s with steps := u.steps, host.queues := u.host.queues }) ∧
    (s.badOpen k (BitVec.ofNat 32 (c.arg 0 32)) = true → u.steps = s.steps ∧ u.kilns = s.kilns)) ∧
  (∀ r c, ∀ s : State, Safety.started s r 0x28 c → c.arg 32 13 ≠ 0 →
    s.inRange (s.cmdCtx r) (c.arg 64 48) (32 * c.arg 32 13) .load = false → ∃ u, exec (.stepOpen r) s = .next u ∧
    Safety.done u r 5 0 ∧ u = { s with host.queues := u.host.queues }) ∧
  (∀ st, ∀ s : State, s.steps.next = some st → s.openReady = true → ∃ u, exec .stepOpenExecute s = .next u ∧
    u.steps = { s.steps with closed := s.steps.open_, open_ := some (s.bornStep st), next := some (stepAfter st), reqs := [], participants := [], submitted := s.steps.submitted.erase st.toNat } ∧
    u.conv = { s.conv with stepReady := true } ∧ u.mem = s.mem ∧
    (∀ k, k < 8 → (u.kilnAt k).tables.getLast? = some { step := st, entries := s.latchTables } ∧ (u.kilnAt k).tables.length ≤ 2 ∧
      (u.kilnAt k).masters = (s.kilnAt k).masters)) ∧
  (∀ s : State, s.steps.next = none ∨ s.openReady = false → exec .stepOpenExecute s = .next s) ∧
  (∀ st, ∀ s : State, (s.bornStep st).step = st ∧
    (∀ x, s.steps.undecided.getLast? = some x → (s.bornStep st).gen = x.gen + 1) ∧
    (s.steps.undecided = [] → (s.bornStep st).gen = s.steps.gen))
  ) ∧ (
  (∀ r c x, ∀ s : State, Safety.started s r 0x29 c → c.arg 32 1 = 0 → s.steps.open_ = some x → ∃ u, exec (.stepClose r) s = .next u ∧
    (x.step.toNat = c.arg 0 32 → x.shut = false → u = { s with steps := u.steps, host.queues := u.host.queues } ∧
      u.steps = { s.steps with open_ := some { x with shut := true } } ∧ Safety.done u r 0 0) ∧
    (x.step.toNat ≠ c.arg 0 32 ∨ x.shut = true → u.steps = s.steps)) ∧
  (∀ r c, ∀ s : State, Safety.started s r 0x29 c → c.arg 32 1 = 1 → ∃ u, exec (.stepCloseAbort r) s = .next u ∧
    (∀ x, s.steps.open_ = some x → x.step = BitVec.ofNat 32 (c.arg 0 32) →
      u.steps.open_ = some { x with abortPending := x.abortPending ++ [r] } ∧ u.cmd? r = some { c with busy := true }) ∧
    ((∀ x ∈ s.steps.live, x.step ≠ BitVec.ofNat 32 (c.arg 0 32)) → u.steps = s.steps)) ∧
  (∀ r c st rev, ∀ s : State, Safety.started s r 0x2A c → s.steps.lastFinal = some (st, 1, rev) → ∃ u, exec (.stepCommit r) s = .next u ∧
    (st = BitVec.ofNat 32 (c.arg 0 32) → (∀ y, s.steps.deciding = some y → y.step ≠ st) → Safety.done u r 0 0 ∧
      u = { s with host.queues := u.host.queues }) ∧
    (∀ y, st = BitVec.ofNat 32 (c.arg 0 32) → s.steps.deciding = some y → y.step = st →
      u.steps = { s.steps with commitWait := s.steps.commitWait ++ [(st, r)] } ∧ u.cmd? r = some { c with busy := true }) ∧
    (st ≠ BitVec.ofNat 32 (c.arg 0 32) → u.steps = s.steps)) ∧
  (∀ r c, ∀ s : State, Safety.started s r 0x2B c → ∃ u, exec (.evalOpen r) s = .next u ∧
    (s.steps.undecided = [] → s.steps.evalWindow = false → s.steps.evalReq = [] → u.steps = { s.steps with evalReq := [r] } ∧
      u.conv = { s.conv with stepReady := true } ∧ u.cmd? r = some { c with busy := true } ∧
      u = { s with steps := u.steps, conv := u.conv, host.queues := u.host.queues }) ∧
    (s.steps.undecided ≠ [] ∨ s.steps.evalWindow = true ∨ s.steps.evalReq ≠ [] → u.steps = s.steps)) ∧
  (∀ r c, ∀ s : State, Safety.started s r 0x2C c → ∃ u, exec (.evalClose r) s = .next u ∧
    (s.steps.evalWindow = true → s.windowKernels = false → Safety.done u r 0 0 ∧
      u.steps = { s.steps with evalWindow := false, evalStart := none } ∧ u = { s with steps := u.steps, host.queues := u.host.queues }) ∧
    (s.steps.evalWindow = true → s.windowKernels = true → u = s) ∧ (s.steps.evalWindow = false → u.steps = s.steps))
  )

/-- The decision of a step takes effect. When the boundary of DECIDE_REV comes, a PASS flips ACTIVE of every PENDING block
of every Kiln, clears PENDING and raises the generation by one; a FAIL clears PENDING and changes neither ACTIVE nor
the generation. Before that boundary nothing is decided. The boundary is part of REVOLUTION_BOUNDARY. (R28, R29, R128,
R320, R348, R349) -/
def Obligations.DecisionsTakeEffect : Prop :=
  (∀ x v r, ∀ s : State, s.steps.deciding = some x → s.verdict.held = some v → v.step = x.step → v.decideRev.toNat ≤ r →
    (v.state = 1 → (s.decideVerdict r).steps.gen = s.steps.gen + 1 ∧ (s.decideVerdict r).steps.deciding = none ∧
      (s.decideVerdict r).steps.lastCommitted = x.step ∧
      ∀ k y b, Bank.find? s.kilns k = some y → ((s.decideVerdict r).kilnAt k).pending = [] ∧
        ((s.decideVerdict r).kilnAt k).masters = y.masters ∧
        ((s.decideVerdict r).kilnAt k).activeCopy b = if y.pending.contains b then 1 - y.activeCopy b else y.activeCopy b) ∧
    (v.state = 2 → (s.decideVerdict r).steps.gen = s.steps.gen ∧ (s.decideVerdict r).steps.deciding = none ∧
      ∀ k y, Bank.find? s.kilns k = some y → ((s.decideVerdict r).kilnAt k).pending = [] ∧
        ((s.decideVerdict r).kilnAt k).masters = y.masters ∧ ((s.decideVerdict r).kilnAt k).activeB = y.activeB)) ∧
  (∀ x v r, ∀ s : State, s.steps.deciding = some x → s.verdict.held = some v → r < v.decideRev.toNat → s.decideVerdict r = s) ∧
  (∀ r, ∀ s : State, s.steps.deciding = none → s.decideVerdict r = s)

/-- Requests at their destination. A fresh request for this node that passes the checks of Table 11.5 is performed and
answered: READ returns the bytes of its range, WRITE and WRITE_MASK store theirs, a complete atomic set performs its
operations lane after lane and returns the old values; parts of an incomplete set are kept. One that fails a check
changes no memory, is counted under its status and answered with it; a read of poisoned or uncorrectable data is
answered with status 7. A duplicate is answered and a stale request dropped, both counted; neither is performed. A
reserved type is counted and refused with status 9. Nothing is carried while the fabric is not up. (R359, R362, R363,
R368, R369, R376, R380) -/
def Obligations.FabricRequestsAreServed : Prop :=
  (∀ p x, ∀ s : State, p.dst.toNat = s.node → s.carriesRequests = true → s.arrival p = .fresh →
    s.fab.windows.find? (Packet1.window p) = some x →
    let t := (s.landed p).openSource p
    let va := x.base + Packet1.offset p
    let n := 8 * p.len.toNat
    (∀ pl, s.fabCheck p n = 0 → s.translate x.ctx va .load = .ok pl →
      (s.poisoned pl = false → (∀ a, pl = .fast a → s.stackLost (s.pchanOf a) = false) → exec (.fabRead p .clean) s =
        .next (((t.homeFetch pl .clean 0).2.notePerformed p).respond p 6 0 p.seq (s.readVirt x.ctx va n))) ∧
      (s.poisoned pl = true → exec (.fabRead p .clean) s = .next (t.refuseWith p 6 7)) ∧
      (∀ a, pl = .fast a → s.homeHas pl = false → ∃ u, exec (.fabRead p .uncorrectable) s = .next u ∧ u.mem.hbm = s.mem.hbm ∧
        (s.poisoned pl = false → s.stackLost (s.pchanOf a) = false → a / 256 ∈ u.mem.poison))) ∧
    (s.fabCheck p p.payload.length = 0 → exec (.fabWrite p) s =
      .next ((((t.raiseWrite p x.ctx va).storeRange x.ctx va p.payload).notePerformed p).respond p 7 0 p.seq [])) ∧
    (s.fabCheck p 64 = 0 → exec (.fabWriteMask p) s = .next ((((((p.payload.take 64).mapIdx
      (fun i b => (i, b))).filter (fun y => bit (leNat ((p.payload.drop 64).take 8)) y.1)).foldl
      (fun (a : State) b => a.storeRange x.ctx (va + b.1) [b.2]) (t.raiseWrite p x.ctx va)).notePerformed p).respond p 7 0 p.seq [])) ∧
    (∀ ecc, s.fabCheck p n ≠ 0 → exec (.fabRead p ecc) s = .next (t.refuseWith p 6 (s.fabCheck p n))) ∧
    (s.fabCheck p 64 ≠ 0 → exec (.fabWriteMask p) s = .next (t.refuseWith p 7 (s.fabCheck p 64))) ∧
    (s.fabCheck p p.payload.length ≠ 0 → ∃ u, exec (.fabWrite p) s = .next u ∧ u.mem = s.mem ∧
      u = t.refuseWith p 7 (s.fabCheck p p.payload.length))) ∧
  (∀ p st, ∀ s : State, (s.refuse p st).obj 0x50120 st = (s.obj 0x50120 st + 1) % 2 ^ 64) ∧
  (∀ p ecc, ∀ s : State, p.dst.toNat ≠ s.node ∨ s.carriesRequests = false → exec (.fabRead p ecc) s = .next s ∧
      exec (.fabWrite p) s = .next s ∧ exec (.fabWriteMask p) s = .next s ∧ exec (.fabAtomic p ecc) s = .next s ∧
      exec (.fabAtomicCont p ecc) s = .next s) ∧
  (∀ p ecc, ∀ s : State, p.dst.toNat = s.node → s.carriesRequests = true →
    (s.arrival p = .stale → let u := (s.landed p).bump 0x50112 0
      exec (.fabRead p ecc) s = .next u ∧ exec (.fabWrite p) s = .next u ∧ exec (.fabWriteMask p) s = .next u ∧
      exec (.fabAtomic p ecc) s = .next u ∧ exec (.fabAtomicCont p ecc) s = .next u) ∧
    (s.arrival p = .duplicate → ∃ u, u = ((s.landed p).bump 0x50110 0).respond p 7 0 (s.flowSeq p).1 [] 0 (s.flowSeq p).2 ∧
      u.mem = s.mem ∧ exec (.fabRead p ecc) s = .next u ∧ exec (.fabWrite p) s = .next u ∧ exec (.fabWriteMask p) s = .next u ∧
      exec (.fabAtomic p ecc) s = .next u ∧ exec (.fabAtomicCont p ecc) s = .next u)) ∧
  (∀ p x pl, ∀ s : State, p.dst.toNat = s.node → s.carriesRequests = true → s.arrival p = .fresh →
    s.fab.windows.find? (Packet1.window p) = some x → setLegal (setCtl p.payload) = true → s.fabCheck p (setCtl p.payload).n = 0 →
    setBytes (setCtl p.payload) ≤ p.payload.length → s.translate x.ctx (x.base + Packet1.offset p) .atomic = .ok pl →
    (∀ a, pl ≠ .host a true) → s.poisoned pl = false → (∀ a, pl = .fast a → s.stackLost (s.pchanOf a) = false) →
    let c := setCtl p.payload
    let t := ((((s.landed p).openSource p).keepParts p []).keepParts p []).notePerformed p
    let f := (t.homeFetch pl .clean 0).2
    let y := State.performLanes x.v pl c.n c.aop c.lanes (p.payload.drop 8)
      ((f.raiseEndpoint pl p.src.toNat (setUnits c.aop c.lanes)).notePerformed p)
    exec (.fabAtomic p .clean) s = .next ((y.2.respond p 8 0 p.seq y.1 (setParts c - 1)).settleWindow (Packet1.window p))) ∧
  (∀ p q x ecc, ∀ s : State, p.dst.toNat = s.node → s.carriesRequests = true → s.arrival p = .fresh →
    let t := (s.landed p).openSource p
    let body := q.payload ++ p.payload
    t.keptParts p = [q] → q.cls = p.cls → q.src = p.src → s.fab.windows.find? (Packet1.window q) = some x →
    (setLegal (setCtl body) = true → body.length < setBytes (setCtl body) → ∃ u, exec (.fabAtomicCont p ecc) s = .next u ∧
      u.keptParts p = [q, p] ∧ u.mem = s.mem) ∧
    (setBytes (setCtl body) ≤ body.length → exec (.fabAtomicCont p ecc) s =
      .next ((((t.keepParts q []).notePerformed p).performSet q x body ecc).settleWindow (Packet1.window q)))) ∧
  (∀ p, ∀ s : State, (p.type = 0 → exec (.fabReservedType p) s = .next (s.bump 0x50113 0)) ∧
    (0x0A ≤ p.type.toNat → p.dst.toNat = s.node → s.carriesRequests = true → s.arrival p = .fresh → ∃ u,
      exec (.fabReservedType p) s = .next u ∧ u.mem = s.mem ∧
      u = (((s.landed p).openSource p).bump 0x50113 0).refuseWith p 7 9))

/-- Answers at the source and the egress. A waiting request that its port's arbiter grants leaves when its destination's
credits are not 0: it takes one credit and the next SEQ of its flow and is outstanding from then on; without a credit
it stays and backs off. A read response fills the destination registers of its lanes and lets the group go on when
nothing else is outstanding; a refusal faults the group with the cause of Table 11.11, and 4 ms without an answer with
0x3C. An acknowledgement ends its writes and returns their credits, at most up to 64. An answer to nothing is counted.
(R378, R380, R383, R384, 11_fabric.md) -/
def Obligations.FabricAnswersAndEgress : Prop :=
  (∀ o ns, ∀ s : State, s.fab.waiting = [o] → s.carriesRequests = true → s.fab.credits.get 1 o.dst.toNat ≠ 0 →
    (∀ port, s.egressPort o = some port →
      (s.egressGrant port).1 = some (o.id + 1) ∧ (s.port port).replay.length < replayFrames) → ∃ u,
    exec (.fabRequestEgress 0 ns) s = .next u ∧
    u.fab.waiting = [] ∧ (∃ q, u.fab.outstanding = s.fab.outstanding ++ [q] ∧ q.seq = s.fab.nextSeq.get 0 (o.dst.toNat * 4 + o.cls.toNat) ∧
      q.dst = o.dst ∧ q.cls = o.cls ∧ q.type = o.type ∧ q.gid = o.gid ∧ q.dest = o.dest) ∧
    u.fab.nextSeq.get 0 (o.dst.toNat * 4 + o.cls.toNat) = s.fab.nextSeq.get 0 (o.dst.toNat * 4 + o.cls.toNat) + 1 ∧
    u.fab.credits.get 1 o.dst.toNat = s.fab.credits.get 1 o.dst.toNat - 1 ∧ u.mem = s.mem ∧ u.groups = s.groups) ∧
  (∀ o n ns, ∀ s : State, s.fab.waiting[n]? = some o → s.fab.credits.get 1 o.dst.toNat = 0 → ∃ u,
    exec (.fabRequestEgress n ns) s = .next u ∧ u = { s with arb := u.arb }) ∧
  (∀ n ns, ∀ s : State, s.carriesRequests = false → exec (.fabRequestEgress n ns) s = .next s) ∧
  (∀ p o gk g d, ∀ s : State, p.dst.toNat = s.node → s.fab.outstanding = [o] → s.fab.waiting = [] → o.dst = p.src → o.cls = p.cls →
    o.seq = p.seq → o.gid = some gk → o.dma = none → s.group? gk = some g → g.status = .remote → o.dest = [d] →
    fld p.key.toNat 0 8 = 0 → (o.type = 1 → ∃ u, exec (.fabReadResp p) s = .next u ∧ u.fab.outstanding = [] ∧
      u.group? gk = some { fillLane g.instr (fun b bs => s.overlay gk g true (Outstanding1.byteAddr o b) bs) p.payload g d with status := .running, atoms := [] } ∧ u.mem = s.mem) ∧
    (o.type = 4 → ∃ u, exec (.fabAtomicResp p) s = .next u ∧ u.fab.outstanding = [] ∧
      (let h := fillLane g.instr (fun _ bs => bs) p.payload g d
      u.group? gk = some { (if g.changedBy o p.payload then h.disarm else h) with status := .running, atoms := [] }) ∧
      (acquiresAt g.instr = true → u.cores = (s.fenceCaches (coreKeyOf gk)).cores) ∧ u.mem = s.mem)) ∧
  (∀ p o gk g, ∀ s : State, p.dst.toNat = s.node → s.fab.outstanding = [o] → s.fab.waiting = [] → o.dst = p.src → o.cls = p.cls →
    o.seq = p.seq → o.type = 1 → o.gid = some gk → o.dma = none → s.group? gk = some g → g.status = .remote →
    fld p.key.toNat 0 8 ≠ 0 → ∃ u h f, exec (.fabReadResp p) s = .next u ∧ u.fab.outstanding = [] ∧ u.group? gk = some h ∧
    h.status = .running ∧ h.pc = g.pc ∧ h.async = g.async ++ [f] ∧ f.async = true ∧
    f.cause = BitVec.ofNat 8 (statusFault o (fld p.key.toNat 0 8)).1) ∧
  (∀ o gk g, ∀ s : State, s.fab.outstanding = [o] → s.fab.waiting = [] → o.type = 1 ∨ o.type = 4 → o.gid = some gk → o.dma = none →
    s.group? gk = some g → g.status = .remote → ∃ u h f, exec (.fabTimeout o.dst o.cls o.seq) s = .next u ∧ u.fab.outstanding = [] ∧
    u.fab.credits.get 1 o.dst.toNat = min 64 (s.fab.credits.get 1 o.dst.toNat + 1) ∧
    u.group? gk = some h ∧ h.status = .running ∧ h.async = g.async ++ [f] ∧ f.cause = 0x3C#8 ∧ u.mem = s.mem) ∧
  (∀ p o, ∀ s : State, p.dst.toNat = s.node → s.fab.outstanding = [o] → o.dst = p.src → o.cls = p.cls → o.seq = p.seq →
    o.type = 2 ∨ o.type = 3 → o.acked = false → o.dma = none → fld p.key.toNat 0 8 = 0 →
    (o.gid = none → ∃ u, exec (.fabWriteAck p) s = .next u ∧ u = { s with fab := { s.fab with outstanding := [], credits := u.fab.credits, sent := s.fab.sent.erase p } } ∧
      u.fab.credits.get 1 p.src.toNat = min 64 (s.fab.credits.get 1 p.src.toNat + fld p.key.toNat 8 8)) ∧
    (∀ gk g, o.gid = some gk → s.group? gk = some g → g.status ≠ .remote → o.dest = [] → ∃ u,
      exec (.fabWriteAck p) s = .next u ∧ u.fab.outstanding = [] ∧ u.group? gk = some g ∧ u.mem = s.mem ∧
      u.fab.credits.get 1 p.src.toNat = min 64 (s.fab.credits.get 1 p.src.toNat + fld p.key.toNat 8 8))) ∧
  (∀ p, ∀ s : State, p.dst.toNat = s.node → s.fab.outstanding = [] →
    exec (.fabReadResp p) s = .next ((s.landed p).bump 0x50111 0) ∧
    exec (.fabAtomicResp p) s = .next ((s.landed p).bump 0x50111 0) ∧ exec (.fabWriteAck p) s = .next ((s.landed p).bump 0x50111 0))

/-- Links, ports and region windows. A port accepts the frame whose LSEQ it expects, acknowledges it, returns its units
and counts on; any other frame, and one that fails its CRC or that an uncorrectable codeword touches, sends a NAK; FEC
corrections are counted. An acknowledgement releases the frames up to its LSEQ; a timeout and a NAK resend those that
are left. Credits add up. A port that goes down gives up its frames and retrains while it has a cable and fewer than
two degraded lanes; one that has trained is up. REGION_KEYS reads 4,096 entries, REGION_OPEN opens a window or
completes with its code of Table 11.4, REGION_CLOSE closes it. A node number or topology is taken while no window is
open, and every port goes down. (R360, R361, R364, R370, R371, R372, R386, R471) -/
def Obligations.FabricLinksAndWindows : Prop :=
  (∀ (p : Fin 32) f crc c e, ∀ s : State, (s.port p.val).up = true →
    (e = 0 → crc = packetCrc f → f.lseq = (s.port p.val).rxSeq → ∃ t,
      t.port p.val = { s.port p.val with rxSeq := (s.port p.val).rxSeq + 1, nakSent := false, ackSent := some f.lseq, returned := (s.port p.val).returned.set 0 f.vc.toNat ((s.port p.val).returned.get 0 f.vc.toNat + frameBlocks f) } ∧
      t.obj 0x50101 p.val = (s.obj 0x50101 p.val + 1) % 2 ^ 64 ∧ t.obj 0x50104 p.val = (s.obj 0x50104 p.val + c) % 2 ^ 64 ∧
      t = { s with fab.ports := t.fab.ports, mgmt.dict := t.mgmt.dict } ∧
      (f.dst.toNat = s.node ∨ f.type = 0 → exec (.frameReceive p f crc c e) s = .next t) ∧
      (f.dst.toNat ≠ s.node → f.type ≠ 0 →
        exec (.frameReceive p f crc c e) s = .next (State.sendPacket 2 (t.movingFrom p.val f) t))) ∧
    (e = 0 → crc = packetCrc f → f.lseq ≠ (s.port p.val).rxSeq → ∃ u, exec (.frameReceive p f crc c e) s = .next u ∧
      u.port p.val = { s.port p.val with nakSent := true } ∧ u = { s with fab.ports := u.fab.ports, mgmt.dict := u.mgmt.dict }) ∧
    (e ≠ 0 ∨ crc ≠ packetCrc f → ∃ u, exec (.frameReceive p f crc c e) s = .next u ∧
      u.port p.val = { s.port p.val with nakSent := true } ∧ u.obj 0x50102 p.val = (s.obj 0x50102 p.val + 1) % 2 ^ 64 ∧
      u.obj 0x50105 p.val = (s.obj 0x50105 p.val + e) % 2 ^ 64 ∧
      u = { s with fab.ports := u.fab.ports, mgmt.dict := u.mgmt.dict })) ∧
  (∀ (p : Fin 32) f crc c e, ∀ s : State, (s.port p.val).up = false → exec (.frameReceive p f crc c e) s = .next s) ∧
  (∀ (p : Fin 32) l, ∀ s : State, s.fab.delayed = [] → ∃ u, exec (.linkAck p l) s = .next u ∧
    u = { s with fab.ports := u.fab.ports } ∧
    (u.port p.val).replay = (s.port p.val).replay.filter (fun f => serialNewer 12 f.pkt.lseq.toNat l.toNat) ∧
    (u.port p.val).txSeq = (s.port p.val).txSeq) ∧
  (∀ (p : Fin 32) l, ∀ s : State, s.fab.delayed = [] → (s.port p.val).replay ≠ [] →
    (∀ f ∈ (s.port p.val).replay, f.pkt.lseq = l ∨ serialNewer 12 f.pkt.lseq.toNat l.toNat = true) → ∃ u,
    exec (.nak p l) s = .next u ∧
    exec (.linkReplayTimeout p) s = .next u ∧ u.port p.val = { s.port p.val with replay := (s.port p.val).replay.map (fun f => { f with resent := f.resent + 1 }) } ∧
    u.obj 0x50103 p.val = (s.obj 0x50103 p.val + (s.port p.val).replay.length) % 2 ^ 64) ∧
  (∀ (p : Fin 32) (vc : Fin 8) n, ∀ s : State, ∃ u, exec (.credit p vc n) s = .next u ∧ u = { s with fab.ports := u.fab.ports } ∧
    (u.port p.val).credits.get 0 vc.val = (s.port p.val).credits.get 0 vc.val + (n : Int) ∧
    (u.port p.val).replay = (s.port p.val).replay ∧ (∀ q, q ≠ p.val → u.port q = s.port q)) ∧
  (∀ (p : Fin 32) limit, ∀ s : State, (s.port p.val).up = true →
    ((limit = true → ∃ f ∈ (s.port p.val).replay, 8 ≤ f.resent) → ∃ u, exec (.fabPortDown p limit) s = .next u ∧
      u.port p.val = { state := if s.cabled p.val = false then 0 else if 2 ≤ (s.health.fabDegraded.get [] p.val).length then 4 else 1 }) ∧
    (limit = true → (∀ f ∈ (s.port p.val).replay, f.resent < 8) → exec (.fabPortDown p limit) s = .next s)) ∧
  (∀ (p : Fin 32) pr, ∀ s : State, (s.port p.val).state = 1 → p.val < s.topoPorts → s.cabled p.val = true →
    s.health.fabDegraded.get [] p.val = [] → ∃ u, exec (.fabPortUp p pr) s = .next u ∧ u.port p.val = { state := 2 } ∧
    u.clock.stepNs = s.clock.stepNs + (if 32 < pr.theta then pr.theta.toNat / 5 else 0)) ∧
  (∀ r c, ∀ s : State, Safety.started s r 0x30 c → s.inRange (s.cmdCtx r) (c.arg 0 48) 65536 .load = true → ∃ u,
    exec (.regionKeys r) s = .next u ∧ u = { s with host := u.host } ∧ (s.ctx? (s.cmdCtx r) ≠ none → Safety.done u r 0 0 ∧ ∀ i, i < 4096 →
    u.keyEntry (s.cmdCtx r) i = keyEntryOf (leNat (s.readVirt (s.cmdCtx r) (c.arg 0 48 + 16 * i) 16)))) ∧
  (∀ r c, ∀ s : State, Safety.started s r 0x31 c → s.inRange (s.cmdCtx r) (c.arg 64 48) 32 .load = true →
    let b := leNat (s.readVirt (s.cmdCtx r) (c.arg 64 48) 32)
    (∀ e, s.openStatus r.v.val (s.cmdCtx r) (c.arg 0 12) b = .error e → ∃ u, exec (.regionOpen r) s = .next u ∧ Safety.done u r e 0 ∧
      u = { s with host.queues := u.host.queues }) ∧
    (∀ l, s.openStatus r.v.val (s.cmdCtx r) (c.arg 0 12) b = .ok l → l.any s.objStale = true → ∃ u,
      exec (.regionOpen r) s = .next u ∧ Safety.done u r 2 0 ∧ u = { s with host.queues := u.host.queues }) ∧
    (∀ l, s.openStatus r.v.val (s.cmdCtx r) (c.arg 0 12) b = .ok l → l.any s.objStale = false → ∃ u x, exec (.regionOpen r) s = .next u ∧ Safety.done u r 0 0 ∧
      u.fab.windows.find? (c.arg 0 12) = some x ∧ x.base = fld b 144 48 ∧ x.size = fld b 123 21 ∧ x.ctx = s.cmdCtx r ∧
      x.key = BitVec.ofNat 64 (fld b 192 64) ∧ x.permR = bit b 1 ∧ x.permW = bit b 2 ∧ x.permA = bit b 3 ∧
      (∀ w, w ≠ c.arg 0 12 → u.fab.windows.find? w = s.fab.windows.find? w))) ∧
  (∀ r c x, ∀ s : State, Safety.started s r 0x32 c → s.fab.windows.find? (c.arg 0 12) = some x → x.ctx = s.cmdCtx r → x.valid = true →
    (s.windowBusy (c.arg 0 12) = false → ∃ u, exec (.regionClose r) s = .next u ∧ Safety.done u r 0 0 ∧
      u.fab.windows.find? (c.arg 0 12) = none) ∧
    (s.windowBusy (c.arg 0 12) = true → ∃ u y, exec (.regionClose r) s = .next u ∧ u.fab.windows.find? (c.arg 0 12) = some y ∧
      y.valid = false ∧ y.closing = some r ∧ u.cmd? r = some { c with busy := true })) ∧
  (∀ topology (v : BitVec 128), ∀ s : State, s.topologyAccepted topology v.toNat = true → ∃ u,
    exec (.nodeTopologyWrite topology v) s = .next u ∧ (topology = false → u.obj 0x50001 0 = v.toNat % 65536) ∧
    (topology = true → u.obj 0x50030 0 = v.toNat % 2 ^ 64) ∧ (∀ p, (u.port p).up = false) ∧ u.mem = s.mem) ∧
  (∀ t (v : BitVec 128), ∀ s : State, s.topologyAccepted t v.toNat = false → exec (.nodeTopologyWrite t v) s = .next s)

/-- Queues: doorbells, submission, start and completion. An acceptable tail doorbell sets the tail; one that R402 does not
allow counts as an illegal sequence and changes no queue. The module reads the next entry while the queue may submit:
an entry with a reason of R405 is counted and passed over, any other enters the queue as a command, with its
references or its refusal, and the head count rises by its entries. A submitted command starts when the commands
before it have started, or completed with ORDERED, its wait value is reached, and no other queue of its context goes
before it on its engine. A STEP_OPEN that enters first for its step fixes the participants. A command whose effects
are performed leaves its queue at completion. (R402, R404, R405, R409, 12_host_interface.md) -/
def Obligations.QueuesAreReadAndRun : Prop :=
  (∀ (v : Fin 64) (q : Fin 16385) value bytes mem, ∀ s : State, exec (.queueTailDoorbell v q value bytes mem) s =
    exec (.queueTailDoorbell v q value bytes []) (s.placeHost mem)) ∧
  (∀ (v : Fin 64) (q : Fin 16385) value bytes x, ∀ s : State, s.hasVi v.val = true → s.barOpen = true →
    s.queueAt v.val q.val = some x → (8 ≤ bytes → x.tailOk value = true → x.destroying = none → ∃ u,
      exec (.queueTailDoorbell v q value bytes []) s = .next u ∧ u = { s with host.queues := u.host.queues } ∧
      u.queueAt v.val q.val = some { x with tail := value }) ∧
    (bytes < 8 ∨ x.tailOk value = false → ∃ u, exec (.queueTailDoorbell v q value bytes []) s = .next u ∧
      u = { s with mgmt.dict := u.mgmt.dict } ∧ u.obj 0x60100 v.val = (s.obj 0x60100 v.val + 1) % 2 ^ 64)) ∧
  (∀ (v : Fin 64) (q : Fin 16385) x, ∀ s : State, s.queueAt v.val q.val = some x → x.tail ≠ x.head → x.destroying = none →
    s.hasVi v.val = true → s.submitBlocked v.val q.val x = false →
    let e := s.ringEntry x x.head.toNat
    let n : Nat := if e.getLsbD 19 then 2 else 1
    let c : Cmd := { n := x.head.toNat, entry := e, guard_ := if e.getLsbD 19 then some (s.ringEntry x (x.head.toNat + 1)) else none }
    n ≤ (x.tail - x.head).toNat →
    (entryReason v.val (q.val == adminQ) e = 0 → (s.cmdRefs v.val (ctxKey v.val x.ctx) (q.val == adminQ) c).1 = 0 → ∃ u y,
      exec (.commandSubmit v q) s = .next u ∧ u.queueAt v.val q.val = some y ∧ y.head = x.head + BitVec.ofNat 32 n ∧ y.tail = x.tail ∧
      y.cmds = x.cmds ++ [(s.cmdRefs v.val (ctxKey v.val x.ctx) (q.val == adminQ) c).2] ∧
      (q.val ≠ adminQ → c.opcode = 0x28 → s.steps.submitted.find? (c.arg 0 32) = none →
        u.steps.submitted.find? (c.arg 0 32) = some s.participantsNow)) ∧
    (∀ st, entryReason v.val (q.val == adminQ) e = 0 → (s.cmdRefs v.val (ctxKey v.val x.ctx) (q.val == adminQ) c).1 = st → st ≠ 0 →
      ∃ u y, exec (.commandSubmit v q) s = .next u ∧ u.queueAt v.val q.val = some y ∧ y.head = x.head + BitVec.ofNat 32 n ∧
      y.cmds = x.cmds ++ [{ c with stage := .executed, status := BitVec.ofNat 8 st }]) ∧
    (entryReason v.val (q.val == adminQ) e ≠ 0 → ∃ u y, exec (.commandSubmit v q) s = .next u ∧ u.queueAt v.val q.val = some y ∧
      y.head = x.head + 1 ∧ y.cmds = x.cmds ∧ u.obj 0x60100 v.val = (s.obj 0x60100 v.val + 1) % 2 ^ 64)) ∧
  (∀ r q c, ∀ s : State, s.queueAt r.v.val r.q.val = some q → s.cmd? r = some c → c.stage = .submitted →
    (c.flag 18 = true → earlier q r.n = []) → (c.flag 18 = false → ∀ y ∈ earlier q r.n, y.stage ≠ .submitted) →
    (c.waitEn = true → ∃ t, s.host.timelines.find? (tlKey r.v.val c.waitTl) = some t ∧ c.waitValue ≤ t.value.toNat) →
    ((r.q.val ≠ adminQ → s.outranked r q c = false) → ∃ u y,
      exec (.commandStart r) s = .next u ∧ u = { s with host.queues := u.host.queues } ∧ u.cmd? r = some y ∧ y.stage = .started ∧
      y.entry = c.entry ∧ y.busy = c.busy) ∧
    (r.q.val ≠ adminQ → s.outranked r q c = true → exec (.commandStart r) s = .next s)) ∧
  (∀ r c, ∀ s : State, s.cmd? r = some c → c.stage = .executed → ∃ u, exec (.commandComplete r) s = .next u ∧ u.cmd? r = none)

/-- Commands of context queues. NOP completes; MAP_SYNC completes, and the cores hold no code of its range that was
translated before. KERNEL_LOAD of a sound image takes the lowest free kernel number; a failed check of R410 completes
with its code. KERNEL_UNLOAD drops the host reference once; KERNEL_ABORT of a kernel that does not run completes.
LAUNCH enters a launch with its groups, arguments and condition and waits for its kernel; a malformed condition
completes with 8. COPY stores the bytes of its source range, FILL its pattern; a range outside the objects of the
context completes with RANGE and changes nothing. (R242, R243, R397, R398, R400, R407, R408, R410) -/
def Obligations.QueueCommandsAct : Prop :=
  (∀ r c, ∀ s : State, (Safety.started s r 0 c → ∃ u, exec (.nopCommand r) s = .next u ∧ Safety.done u r 0 0 ∧
      u = { s with host.queues := u.host.queues }) ∧
    (Safety.started s r 0x18 c → ∃ u, exec (.mapSync r) s = .next u ∧ Safety.done u r 0 0 ∧
      u = { s with host.queues := u.host.queues, cores := u.cores } ∧ ∀ ck,
      u.core ck = { s.core ck with l0i := (u.core ck).l0i } ∧ ∀ i, i ∈ (u.core ck).l0i ↔ i ∈ (s.core ck).l0i ∧
        ¬(i / 2 ^ 40 = s.cmdCtx r ∧ (c.arg 64 48 = 0 ∨ (c.arg 0 48 < (i % 2 ^ 40 + 1) * 256 ∧
          i % 2 ^ 40 * 256 < c.arg 0 48 + c.arg 64 48))))) ∧
  (∀ r c k h x, ∀ s : State, Safety.started s r 0x10 c → k = s.cmdCtx r → s.inRange k (c.arg 0 48) 64 .load = true →
    h = leNat (s.readVirt k (c.arg 0 48) 64) → x = imageKernel h (c.arg 0 48) →
    (imageStatus h (s.layoutOf k) x ≠ 0 → ∃ u, exec (.kernelLoad r) s = .next u ∧ Safety.done u r (imageStatus h (s.layoutOf k) x) 0 ∧
      u = { s with host.queues := u.host.queues }) ∧
    (∀ ok o n, imageStatus h (s.layoutOf k) x = 0 → s.codeObject k x = some ok → s.host.objects.find? ok = some o → o.hostRef = true →
      s.freeKernel k = some n → ∃ u, exec (.kernelLoad r) s = .next u ∧ Safety.done u r 0 n ∧ u.mem = s.mem ∧
      u.host.kernels.find? (k * 65536 + n) = some { x with obj := ok } ∧
      u.host.objects.find? ok = some { o with refs := o.refs + 1 })) ∧
  (∀ r c kk, ∀ s : State, Safety.started s r 0x11 c → kk = s.cmdCtx r * 65536 + c.arg 0 16 →
    (s.host.kernels.find? kk = none → ∃ u, exec (.kernelUnload r) s = .next u ∧ Safety.done u r 1 0 ∧
      u = { s with host.queues := u.host.queues }) ∧
    (∀ x, s.host.kernels.find? kk = some x → x.hostRef = true → x.refs ≠ 0 → ∃ u, exec (.kernelUnload r) s = .next u ∧
      Safety.done u r 0 0 ∧ u.host.kernels.find? kk = some { x with hostRef := false }) ∧
    (∀ x, s.host.kernels.find? kk = some x → x.hostRef = true → x.refs = 0 → ∃ u, exec (.kernelUnload r) s = .next u ∧
      Safety.done u r 0 0 ∧ u.host.kernels.find? kk = none)) ∧
  (∀ r c, ∀ s : State, Safety.started s r 0x13 c → (∀ x ∈ s.host.launches, x.2.kernel ≠ s.cmdCtx r * 65536 + c.arg 0 16) → ∃ u,
    exec (.kernelAbort r) s = .next u ∧ u = { s with host.queues := u.host.queues } ∧
    Safety.done u r (if (s.host.kernels.find? (s.cmdCtx r * 65536 + c.arg 0 16)).isNone then 1 else 0) 0) ∧
  (∀ r c id l, ∀ s : State, Safety.started s r 0x13 c → s.host.launches = [(id, l)] → s.groups = [] →
    l.kernel = s.cmdCtx r * 65536 + c.arg 0 16 → s.host.kernels.find? l.kernel ≠ none → ∃ u, exec (.kernelAbort r) s = .next u ∧
    u.host.launches = [(id, { l with stopped := true, aborters := l.aborters ++ [r] })] ∧ u.cmd? r = some { c with busy := true }) ∧
  (∀ r c k, ∀ s : State, Safety.started s r 0x12 c → k = s.cmdCtx r → c.arg 64 32 ≠ 0 → c.arg 0 48 % 128 = 0 →
    s.inRange k (c.arg 0 48) 128 .load = true → launchCond c (ctxVi k) = { kind := 0, tag := (launchCond c (ctxVi k)).tag, object := (launchCond c (ctxVi k)).object, value := (launchCond c (ctxVi k)).value, v := ctxVi k } → c.arg 130 14 = 0 → ∃ u l,
    exec (.launch r) s = .next u ∧ u.launch? s.host.nextLaunch = some l ∧ l.ctx = k ∧ l.kernel = k * 65536 + c.arg 96 16 ∧
    l.groups = c.arg 64 32 ∧ l.lastLive = c.arg 48 5 ∧ l.cond = none ∧ l.stopped = false ∧ l.started = [] ∧ l.cmd = r ∧
    u.cmd? r = some { c with busy := true } ∧ u = { s with host := u.host }) ∧
  (∀ r c, ∀ s : State, Safety.started s r 0x12 c → (launchCond c (ctxVi (s.cmdCtx r))).kind = 3 → ∃ u, exec (.launch r) s = .next u ∧
    Safety.done u r 8 0 ∧ u = { s with host.queues := u.host.queues }) ∧
  (∀ r c k, ∀ s : State, Safety.started s r 0x16 c → k = s.cmdCtx r → ∃ u, exec (.copy r) s = .next u ∧
    (s.inRange k (c.arg 0 48) (c.arg 128 32) .load = true → s.inRange k (c.arg 64 48) (c.arg 128 32) .store = true →
      Safety.done u r 0 0 ∧ u.mem = ((s.readRange k (c.arg 0 48) (c.arg 128 32)).storeRange k (c.arg 64 48) (s.readVirt k (c.arg 0 48) (c.arg 128 32))).mem) ∧
    (s.inRange k (c.arg 0 48) (c.arg 128 32) .load = false ∨ s.inRange k (c.arg 64 48) (c.arg 128 32) .store = false →
      Safety.done u r 5 0 ∧ u = { s with host.queues := u.host.queues })) ∧
  (∀ r c k, ∀ s : State, Safety.started s r 0x17 c → k = s.cmdCtx r → ∃ u, exec (.fill r) s = .next u ∧
    (s.inRange k (c.arg 0 48) (c.arg 64 32) .store = true → Safety.done u r 0 0 ∧
      u.mem = (s.storeRange k (c.arg 0 48) (patternBytes (c.arg 128 32) (c.arg 64 32))).mem) ∧
    (s.inRange k (c.arg 0 48) (c.arg 64 32) .store = false → Safety.done u r 5 0 ∧ u = { s with host.queues := u.host.queues }))

/-- Objects of the host interface. CONTEXT_CREATE makes a context from its create block with its page-table object,
QUEUE_CREATE a queue at the lowest free number, TIMELINE_CREATE a timeline with its value, MEM_CREATE an object whose
fast-tier pages read as 0. Each completes with the number or the handle; a refusal completes with its code of Table
12.11 and makes nothing. The destroying commands drop the host reference: the object goes at once when no reference is
left, or stays until the last one is dropped; a number that does not exist completes with 1; a second MEM_FREE of a
handle is an illegal sequence. SET_LAYOUT sets the layout word of a context without kernels. (R393, R394, R398, R399,
R401, R402, R407, R411, R412) -/
def Obligations.HostObjectsAreMadeAndDropped : Prop :=
  (∀ r c b, ∀ s : State, Safety.started s r 0x80 c → b = leNat (memRead s.mem.host (c.arg 0 48) 64) →
    (s.createStatus r.v.val b ≠ 0 → ∃ u, exec (.contextCreate r) s = .next u ∧ Safety.done u r (s.createStatus r.v.val b) 0 ∧
      u = { s with host.queues := u.host.queues }) ∧
    (∀ x i u0, s.createStatus r.v.val b = 0 → s.freeCtx r.v.val = some x → s.freeIndex (ctxKey r.v.val x) = some i →
      s.newFast (ctxKey r.v.val x) 0 0 (fld b 272 8) true 0 i = .ok u0 → ∃ u, exec (.contextCreate r) s = .next u ∧
      Safety.done u r 0 (x + 4096 * i) ∧ u.ctx? (ctxKey r.v.val x) = some (ctxOfBlock b (objKey (ctxKey r.v.val x) i)) ∧
      (∀ k, k ≠ ctxKey r.v.val x → u.ctx? k = s.ctx? k))) ∧
  (∀ r c, ∀ s : State, Safety.started s r 0x81 c → (s.ctx? (ctxKey r.v.val (c.arg 0 12)) = none → ∃ u,
      exec (.contextDestroy r) s = .next u ∧ Safety.done u r 1 0 ∧ u = { s with host.queues := u.host.queues }) ∧
    (∀ x, s.ctx? (ctxKey r.v.val (c.arg 0 12)) = some x → x.destroyCookie = none → ∃ u, exec (.contextDestroy r) s = .next u ∧
      ∀ y, u.ctx? (ctxKey r.v.val (c.arg 0 12)) = some y → y.destroyCookie = some (BitVec.ofNat 32 c.cookie) ∧ y.hostRef = false)) ∧
  (∀ r c x q, ∀ s : State, Safety.started s r 0x82 c → s.liveCtx r.v.val (c.arg 0 12) = .ok x → c.arg 12 4 ≤ 10 →
    c.arg 64 48 % 4096 = 0 → s.queueCount r.v.val < s.obj 0x60014 r.v.val → s.queueTotal < 16384 →
    (List.range 16384).find? (fun q => (s.host.queues.find? (queueKey r.v.val q)).isNone) = some q → ∃ u, exec (.queueCreate r) s = .next u ∧
    u = { s with host.queues := u.host.queues } ∧ (r.q.val = adminQ → Safety.done u r 0 q ∧
      u.queueAt r.v.val q = some { ctx := c.arg 0 12, z := c.arg 12 4, priority := c.arg 16 4, ring := c.arg 64 48, report := c.arg 128 48 })) ∧
  (∀ r c e, ∀ s : State, Safety.started s r 0x82 c → s.liveCtx r.v.val (c.arg 0 12) = .error e → ∃ u, exec (.queueCreate r) s = .next u ∧
    Safety.done u r e 0 ∧ u = { s with host.queues := u.host.queues }) ∧
  (∀ r c x, ∀ s : State, Safety.started s r 0x83 c → r.q.val = adminQ → s.host.queues.find? (queueKey r.v.val (c.arg 0 14)) = some x →
    x.destroying = none → c.arg 0 14 < 16384 → ∃ u, exec (.queueDestroy r) s = .next u ∧
    (x.cmds = [] → u.host.queues.find? (queueKey r.v.val (c.arg 0 14)) = none ∧ Safety.done u r 0 0) ∧
    (x.cmds ≠ [] → u.host.queues.find? (queueKey r.v.val (c.arg 0 14)) = some { x with head := x.tail, destroying := some r } ∧
      u.cmd? r = some { c with busy := true })) ∧
  (∀ r c i, ∀ s : State, Safety.started s r 0x84 c →
    (s.host.timelines.filter (fun x => x.1 / 65536 == r.v.val)).length < s.obj 0x60015 r.v.val → s.host.timelines.length < 65536 →
    (List.range 65536).find? (fun i => (s.host.timelines.find? (tlKey r.v.val i)).isNone) = some i → ∃ u,
    exec (.timelineCreate r) s = .next u ∧ Safety.done u r 0 i ∧
    u.host.timelines.find? (tlKey r.v.val i) = some { value := BitVec.ofNat 64 (c.arg 64 64) } ∧ u = { s with host := u.host }) ∧
  (∀ r c x, ∀ s : State, Safety.started s r 0x85 c → s.host.timelines.find? (tlKey r.v.val (c.arg 0 16)) = some x → x.hostRef = true →
    ∃ u, exec (.timelineDestroy r) s = .next u ∧ Safety.done u r 0 0 ∧ u.host.timelines.find? (tlKey r.v.val (c.arg 0 16)) =
      if x.refs = 0 then none else some { x with hostRef := false }) ∧
  (∀ r c x, ∀ s : State, Safety.started s r 0x86 c → s.liveCtx r.v.val (c.arg 0 12) = .ok x → ∃ u, exec (.setLayout r) s = .next u ∧
    (badLayout (16 * c.arg 36 8) = false → (x.layout.toNat = 16 * c.arg 36 8 ∨
      s.host.kernels.any (fun y => y.1 / 65536 == ctxKey r.v.val (c.arg 0 12)) = false) → Safety.done u r 0 0 ∧
      u.ctx? (ctxKey r.v.val (c.arg 0 12)) = some { x with layout := BitVec.ofNat 32 (16 * c.arg 36 8) } ∧ u = { s with host := u.host }) ∧
    (badLayout (16 * c.arg 36 8) = true ∨ (x.layout.toNat ≠ 16 * c.arg 36 8 ∧
      s.host.kernels.any (fun y => y.1 / 65536 == ctxKey r.v.val (c.arg 0 12)) = true) → Safety.done u r 7 0 ∧
      u = { s with host.queues := u.host.queues })) ∧
  (∀ r c x i, ∀ s : State, Safety.started s r 0x87 c → s.liveCtx r.v.val (c.arg 0 12) = .ok x → c.arg 20 20 ≠ 0 →
    s.host.objects.length < 1048576 → s.freeIndex (ctxKey r.v.val (c.arg 0 12)) = some i →
    let k := ctxKey r.v.val (c.arg 0 12)
    (∀ u0, c.arg 12 2 < 2 → s.newFast k (c.arg 12 2) (c.arg 14 4) (c.arg 20 20) (c.arg 18 1 = 1) (x.objGen.get 0 i) i = .ok u0 → ∃ u o,
      exec (.memCreate r) s = .next u ∧ Safety.done u r 0 ((x.objGen.get 0 i).toNat * 65536 + i) ∧
      u.host.objects.find? (objKey k i) = some o ∧ o.kind = c.arg 12 2 ∧ o.stack = c.arg 14 4 ∧ o.pages.length = c.arg 20 20 ∧
      o.hostRef = true ∧ o.refs = 0 ∧ ∀ p ∈ o.pages, ∀ a, a < o.pageBytes → memGet u.mem.hbm (p + a) = 0) ∧
    (2 ≤ c.arg 12 2 → (∀ p ∈ s.hostPages (c.arg 64 48) (c.arg 20 20), p % (if c.arg 18 1 = 1 then 2097152 else 65536) = 0) → ∃ u,
      exec (.memCreate r) s = .next u ∧ Safety.done u r 0 ((x.objGen.get 0 i).toNat * 65536 + i) ∧ u.mem = s.mem ∧
      u.host.objects.find? (objKey k i) = some { kind := c.arg 12 2, big := c.arg 18 1 = 1, gen := x.objGen.get 0 i, pages := s.hostPages (c.arg 64 48) (c.arg 20 20) })) ∧
  (∀ r c, ∀ s : State, Safety.started s r 0x88 c →
    (s.objOfVi r.v.val (c.arg 0 32) = none → s.wasFreed r.v.val (c.arg 0 32) = true → ∃ u, exec (.memFree r) s = .next u ∧
      u.cmd? r = none ∧ u.obj 0x60100 r.v.val = (s.obj 0x60100 r.v.val + 1) % 2 ^ 64 ∧ (c.objs = [] → c.kernels = [] → u.mem = s.mem)) ∧
    (s.objOfVi r.v.val (c.arg 0 32) = none → s.wasFreed r.v.val (c.arg 0 32) = false → ∃ u, exec (.memFree r) s = .next u ∧
      Safety.done u r 1 0 ∧ u = { s with host.queues := u.host.queues }) ∧
    (∀ ok o, s.objOfVi r.v.val (c.arg 0 32) = some (ok, o) → o.hostRef = true → ∃ u, exec (.memFree r) s = .next u ∧ Safety.done u r 0 0 ∧
      (o.refs = 0 → u.host.objects.find? ok = none) ∧ (o.refs ≠ 0 → u.host.objects.find? ok =
        some { o with hostRef := false, freeCookie := some (BitVec.ofNat 32 c.cookie) } ∧ u.mem = s.mem)))

/-- Timelines, head doorbells, mailboxes, resets and CXL.mem. A timeline takes a greater value and counts a lower one. A
head doorbell moves the head of its ring. A post to a channel with room enters its queue with its master, one without
room is dropped and counted; a read takes the oldest word of the reader's direction, or 0 with RX_UNDERFLOW. A
doorbell wakes the Maltster. A function-level reset empties the admin queue, rings and mailbox queues of the function,
whose timelines read 0; that of the physical function clears VF Enable. A CXL.mem read returns a line of device
memory, with poison where its data are poisoned or uncorrectable; a write stores one; before Memory_Active neither
does anything. (R294, R387, R389, R390, R412, R415, R417, R420) -/
def Obligations.HostPortServesItsFunctions : Prop :=
  (∀ (v : Fin 64) (t : BitVec 16) (value : BitVec 64) bytes x, ∀ s : State, s.hasVi v.val = true → s.barOpen = true →
    s.host.timelines.find? (tlKey v.val t.toNat) = some x → (8 ≤ bytes → ∃ u, exec (.timelineSignal v t value bytes) s = .next u ∧
      (x.value.toNat < value.toNat → u.host.timelines.find? (tlKey v.val t.toNat) = some { x with value := value } ∧ u.mem = s.mem) ∧
      (value.toNat < x.value.toNat → u = s.bump 0x60105 v.val) ∧ (value = x.value → u = s)) ∧
    (bytes < 8 → exec (.timelineSignal v t value bytes) s = .next (s.illegal v.val 0 noQueue 0 6))) ∧
  (∀ (v : Fin 64) (ctx : Fin 4096) value bytes c h, ∀ s : State, s.hasVi v.val = true → s.barOpen = true → 8 ≤ bytes →
    s.ctx? (ctxKey v.val ctx.val) = some c →
    (c.evt.newHead value = some h → c.heldEvents = [] → ∃ u y, exec (.eventRingHeadDoorbell v ⟨ctx.val, by omega⟩ value bytes) s = .next u ∧
      u.ctx? (ctxKey v.val ctx.val) = some y ∧ y.evt.head = h ∧ y.evt.written = c.evt.written) ∧
    (c.flt.newHead value = some h → c.faultWait = [] → ∃ u y, exec (.faultRingHeadDoorbell v ctx value bytes) s = .next u ∧
      u.ctx? (ctxKey v.val ctx.val) = some y ∧ y.flt.head = h ∧ y.flt.written = c.flt.written) ∧
    (c.ntc.newHead value = some h → ∃ u y, exec (.noticeRingHeadDoorbell v ctx value bytes) s = .next u ∧
      u.ctx? (ctxKey v.val ctx.val) = some y ∧ y.ntc.head = h ∧ y.ntc.written = c.ntc.written)) ∧
  (∀ (v : Fin 64) value bytes h, ∀ s : State, s.hasVi v.val = true → s.barOpen = true → 8 ≤ bytes →
    (s.host.adminEvent.get {} v.val).newHead value = some h → s.host.adminHeld.get [] v.val = [] → ∃ u,
    exec (.eventRingHeadDoorbell v 4096 value bytes) s = .next u ∧ (u.host.adminEvent.get {} v.val).head = h) ∧
  (∀ master (ch : Fin 256) w, ∀ s : State, s.mailReaches master.toNat = true →
    (s.mailPosts master.toNat ch.val = none → exec (.txData master ch w) s = .next (s.dropPost master.toNat ch.val)) ∧
    (∀ d, s.mailPosts master.toNat ch.val = some d → ((s.mailQueue ch.val d).length < 16 →
      exec (.txData master ch w) s = .next (s.putMail ch.val d (s.mailQueue ch.val d ++ [(w, master)]))) ∧
      (16 ≤ (s.mailQueue ch.val d).length → exec (.txData master ch w) s = .next (s.dropPost master.toNat ch.val)))) ∧
  (∀ master (ch : Fin 256), ∀ s : State, s.mailReaches master.toNat = true → ∀ d, s.mailReads master.toNat ch.val = some d →
    (s.mailQueue ch.val d = [] → ∃ u, exec (.rxData master ch) s = .next u ∧ u.host.rxLast = 0 ∧ u.host.mail = s.host.mail ∧
      (ch.val, master.toNat) ∈ u.host.rxUnderflow) ∧
    (∀ w m l, master ≠ 0x40#8 → s.mailQueue ch.val d = (w, m) :: l → s.mgmt.mailOut.get [] ch.val = [] → ∃ u,
      exec (.rxData master ch) s = .next u ∧ u.host.rxLast = w ∧ u.mailQueue ch.val d = l ∧ u.mgmt = s.mgmt)) ∧
  (∀ master (ch : Fin 256) value d, ∀ s : State, s.mailReaches master.toNat = true → value.getLsbD 0 = true →
    s.mailPosts master.toNat ch.val = some d → s.mailEnd ch.val (d == 0) = 0x40 →
    exec (.doorbell master ch value) s = .next { s with host.maltsterAwake := true }) ∧
  (∀ (v : Fin 64), ∀ s : State, s.host.ctxs = [] → ∃ u, exec (.functionLevelReset v) s = .next u ∧
    Bank.find? u.host.adminRing v.val = none ∧ Bank.find? u.host.adminEvent v.val = none ∧
    Bank.find? u.host.queues (queueKey v.val adminQ) = none ∧ (s.host.objects = [] → u.mem = s.mem) ∧
    (∀ i t, i < 65536 → u.host.timelines.find? (tlKey v.val i) = some t → t.value = 0) ∧ (v.val = 0 → u.host.numVfs = 0) ∧
    (v.val ≠ 0 → u.host.numVfs = s.host.numVfs)) ∧
  (∀ on (n : Fin 64), ∀ s : State, s.barOpen = true →
    exec (.vfEnable on n) s = .next { s with host.numVfs := if on then n.val else 0 }) ∧
  (∀ offset bs, ∀ s : State, s.boot.memoryActive = true → s.fastExists (offset / 64 * 64) = true →
    (∀ ecc, s.poisoned (.fast (offset / 64 * 64)) = false → s.stackLost (s.pchanOf (offset / 64 * 64)) = false →
      ecc ≠ .uncorrectable → ∃ u,
      exec (.cxlMemRequest none offset ecc) s = .next u ∧ u.mem.hbm = s.mem.hbm ∧ u.mem.host = s.mem.host ∧
      u.host = { s.host with cxlLast := some (memRead s.mem.hbm (offset / 64 * 64) 64) }) ∧
    (∀ ecc, s.poisoned (.fast (offset / 64 * 64)) = true →
      exec (.cxlMemRequest none offset ecc) s = .next { s with host.cxlLast := none }) ∧
    (∀ ecc, s.stackLost (s.pchanOf (offset / 64 * 64)) = true →
      exec (.cxlMemRequest none offset ecc) s = .next { s with host.cxlLast := none }) ∧
    (s.poisoned (.fast (offset / 64 * 64)) = false → s.stackLost (s.pchanOf (offset / 64 * 64)) = false → ∃ u,
      exec (.cxlMemRequest none offset .uncorrectable) s = .next u ∧ u.host.cxlLast = none ∧ offset / 256 ∈ u.mem.poison) ∧
    ∀ ecc, ∃ u, exec (.cxlMemRequest (some bs) offset ecc) s = .next u ∧
      u.mem.hbm = memWrite s.mem.hbm (offset / 64 * 64) (bs.data.take 64) ∧ (bs.poison = true → offset / 256 ∈ u.mem.poison) ∧
      u.mem.host = s.mem.host ∧ u.host.cxlLast = s.host.cxlLast) ∧
  (∀ w offset ecc, ∀ s : State, s.boot.memoryActive = false → exec (.cxlMemRequest w offset ecc) s = .next s)

/-- STEP_COMMIT of a step without a pass is ignored and counted. A STEP_COMMIT for a step whose final verdict is not a
pass, or that has none, changes no step and no Kiln, and 60.100 of its virtual interface counts an illegal sequence.
(R30) -/
def Obligations.StepCommitOfAnotherStepIsIgnored : Prop :=
  ∀ r c, ∀ s : State, Safety.started s r 0x2A c → (∀ rev, s.steps.lastFinal ≠ some (BitVec.ofNat 32 (c.arg 0 32), 1, rev)) → ∃ u,
    exec (.stepCommit r) s = .next u ∧ u.steps = s.steps ∧ u.kilns = s.kilns ∧ u.conv = s.conv ∧ u.cores = s.cores ∧
    u.groups = s.groups ∧ u.cmd? r = none ∧ u.obj 0x60100 r.v.val = (s.obj 0x60100 r.v.val + 1) % 2 ^ 64

/-- A full or empty mask stack faults and stays. PUSHM on a stack of 32 entries parks its group precisely with
MASK_OVERFLOW (cause 0x03), and POPM and FLIPM on an empty stack with MASK_UNDERFLOW (cause 0x04), where they act
(R211): the group stays at the instruction with its mask stack as it was. (R214) -/
def Obligations.MaskStackFaults : Prop :=
  (∀ gid w s, Safety.parks (.pushm gid w) gid w s [] (fun g => g.stack.length = 32) 0x03 (fun _ => 0)) ∧
  (∀ gid w s, Safety.parks (.popm gid w) gid w s [] (fun g => groupActs g w = true ∧ g.stack = []) 0x04 (fun _ => 0)) ∧
  (∀ gid w s, Safety.parks (.flipm gid w) gid w s [] (fun g => groupActs g w = true ∧ g.stack = []) 0x04 (fun _ => 0))

/-- Nalora messages: reads, identity, responses and what is dropped. A sound READ for this module is answered with the
bytes of its object, zeros for one that is only written; one that Table 13.6 refuses gets its status: NO_OBJECT,
NO_INDEX, ACCESS or LENGTH. IDENTIFY returns the 49 bytes of identity, a reserved kind BAD_KIND; a RESPONSE or NOTICE
is only counted, a NOTICE as dropped. A frame that the management port does not accept carries no message. A message
that Table 13.4 calls malformed is dropped and counted in 00.102, one for another module without effect; a repeated
SRC and SEQ gets the kept response again. An MGMT packet for this node carries its message as received on the fabric
path. (R10, R423, R426, R428, R430, R431, R433, R436, R549, 13_management_and_security.md) -/
def Obligations.NaloraMessagesAreServed : Prop :=
  (∀ m x, ∀ s : State, Safety.asks s m 1 → s.objInfo m.object.toNat = some x → serviceGroup m.object.toNat = false →
    let n := if m.dataLen = 0 then min 208 (x.size - m.offset.toNat) else m.dataLen.toNat
    (x.indexOk m.object.toNat m.index.toNat = true → m.offset = 0 ∨ x.blob = true → m.offset.toNat + n ≤ x.size → n ≤ 208 → ∃ u,
      exec (.naloraRead m) s = .next u ∧
      Safety.answered s u m 0 ((s.bump 0x00100 0).objBytes m.object.toNat m.index.toNat m.offset.toNat n) ∧
      (x.acc = .wo ∨ x.acc = .wog →
        (s.bump 0x00100 0).objBytes m.object.toNat m.index.toNat m.offset.toNat n = List.replicate n 0)) ∧
    (x.indexOk m.object.toNat m.index.toNat = false → ∃ u, exec (.naloraRead m) s = .next u ∧ Safety.answered s u m 2 []) ∧
    (x.indexOk m.object.toNat m.index.toNat = true → (m.offset ≠ 0 ∧ x.blob = false) ∨ x.size < m.offset.toNat + n ∨ 208 < n → ∃ u,
      exec (.naloraRead m) s = .next u ∧ Safety.answered s u m 4 [])) ∧
  (∀ m, ∀ s : State, Safety.asks s m 1 → s.objInfo m.object.toNat = none → serviceGroup m.object.toNat = false → ∃ u,
    exec (.naloraRead m) s = .next u ∧ Safety.answered s u m 1 []) ∧
  (∀ m, ∀ s : State, Safety.asks s m 1 → serviceGroup m.object.toNat = true → ∃ u,
    exec (.naloraRead m) s = .next u ∧ Safety.answered s u m 3 []) ∧
  (∀ m, ∀ s : State, Safety.asks s m 6 → ∃ u, exec (.naloraIdentify m) s = .next u ∧
    Safety.answered s u m 0 (s.bump 0x00100 0).identity ∧ (s.bump 0x00100 0).identity.length = 49) ∧
  (∀ m k, ∀ s : State, 8 ≤ k → Safety.asks s m k → ∃ u, exec (.naloraReservedKind m) s = .next u ∧ Safety.answered s u m 8 []) ∧
  (∀ m, ∀ s : State, (Safety.asks s m 5 → exec (.naloraResponse m) s = .next (s.bump 0x00100 0)) ∧
    (Safety.asks s m 7 → exec (.naloraNotice m) s = .next ((s.bump 0x00100 0).bump 0x00102 0))) ∧
  (∀ m, ∀ s : State, s.serves = true → m.path = .port → frameOk m = false → m.frame.collisions = 0 →
    exec (Safety.nalRow m) s = .next s) ∧
  (∀ m, ∀ s : State, s.serves = true → m.path = .port → frameOk m = false → m.frame.collisions ≠ 0 →
    exec (Safety.nalRow m) s = .next (s.bumpBy 0x00105 0 m.frame.collisions)) ∧
  (∀ m, ∀ s : State, s.serves = true → s.boot.phase ≠ .recovery → (m.path = .port → frameOk m = true ∧ m.frame.collisions = 0) →
    (badMessage m = true → exec (Safety.nalRow m) s = .next ((s.bump 0x00100 0).bump 0x00102 0)) ∧
    (badMessage m = false → s.notForUs m = true → exec (Safety.nalRow m) s = .next (s.bump 0x00100 0))) ∧
  (∀ m, m.magic ≠ 0x4E4C#16 ∨ m.version ≠ 1#8 ∨ m.kind = 0#8 → badMessage m = true) ∧
  (∀ m x, ∀ s : State, s.serves = true → s.boot.phase ≠ .recovery → m.path = .port → frameOk m = true →
    m.frame.collisions = 0 → s.quiet = false → badMessage m = false → s.notForUs m = false →
    m.kind ≠ 5 → m.kind ≠ 7 → s.mgmt.kept.find? (fun y => y.1.src == m.src && y.1.seq == m.seq) = some x → ∃ u,
    exec (Safety.nalRow m) s = .next u ∧ u = { s with mgmt := u.mgmt } ∧ u.mgmt.sent = s.mgmt.sent ++ [x.2] ∧
    u.mgmt.queue = s.mgmt.queue ∧ u.mgmt.kept = s.mgmt.kept ∧ u.mgmt.staging = s.mgmt.staging) ∧
  (∀ m, ∀ s : State, s.serves = false → exec (Safety.nalRow m) s = .next s) ∧
  (∀ p m, ∀ s : State, p.dst.toNat = s.node → p.type = 9 → ∃ u, exec (.fabMgmt p m) s = .next u ∧
    u = s.receive (Packet1.message p) ∧ exec (Safety.nalRow (Packet1.message p)) s = .next u) ∧
  (∀ p, (Packet1.message p).path = .fabric ∧ (Packet1.message p).from_ = p.src.setWidth 16 ∧ (Packet1.message p).incarn = p.incarn ∧
    (Packet1.message p).kind = BitVec.ofNat 8 (fld (leNat (p.payload.take 48)) 24 8) ∧
    (Packet1.message p).object = BitVec.ofNat 20 (fld (leNat (p.payload.take 48)) 152 20)) ∧
  (∀ p m, ∀ s : State, p.dst.toNat ≠ s.node ∨ p.type ≠ 9 → exec (.fabMgmt p m) s = .next s)

/-- Writes of the dictionary: unguarded, staged, guarded, and the journal. An unguarded write within the range of a
setting sets it, to be saved by the next commit, and is answered OK; a value outside gets RANGE and a closed path
ACCESS, both without effect. A segment that follows joins the staging buffer, one that does not follow or is too long
empties it with LENGTH. A guarded write that fails a check is not answered: 90.020 counts it, 90.021 tells its cause,
and from check 5 on its counter is used up. One that passes waits for JOURNAL_COMMIT, which stores the value and the
counter and answers. Unguarded values are saved together. Provisioning sets key slot 0. (R434, R438, R442, R443, R444,
R446, R447, R448, R549, 13_management_and_security.md) -/
def Obligations.WritesAreCheckedAndCommitted : Prop :=
  (∀ m x, ∀ s : State, Safety.asks s m 2 → Safety.plainSetting m.object.toNat → m.index = 0 → m.offset = 0 →
    s.objInfo m.object.toNat = some x → m.data.length = x.size → m.dataLen.toNat ≤ 208 →
    (s.pathOpen .port = true → s.rangeOk m.object.toNat 0 (leNat m.data) = true → ∃ u, exec (.naloraWrite m) s = .next u ∧
      Safety.answered s u m 0 [] ∧ u.obj m.object.toNat 0 = leNat m.data ∧ okey m.object.toNat 0 ∈ u.mgmt.unsaved) ∧
    (s.pathOpen .port = true → s.rangeOk m.object.toNat 0 (leNat m.data) = false → ∃ u, exec (.naloraWrite m) s = .next u ∧
      Safety.answered s u m 5 [] ∧ u.obj m.object.toNat 0 = s.obj m.object.toNat 0) ∧
    (s.pathOpen .port = false → ∃ u, exec (.naloraWrite m) s = .next u ∧ Safety.answered s u m 3 [] ∧
      u.obj m.object.toNat 0 = s.obj m.object.toNat 0)) ∧
  (∀ m x, ∀ s : State, Safety.asks s m 4 → m.object ≠ 0xA0010#20 → serviceGroup m.object.toNat = false →
    s.objInfo m.object.toNat = some x → x.acc ≠ .ro → x.indexOk m.object.toNat m.index.toNat = true → m.dataLen.toNat ≤ 208 →
    (∀ b, s.mgmt.staging.find? m.src.toNat = some b → b.object = m.object → b.index = m.index →
      (m.offset.toNat = b.bytes.length → b.bytes.length + m.data.length ≤ min x.size 4096 → ∃ u, exec (.naloraStage m) s = .next u ∧
        Safety.answered s u m 0 [] ∧ u.mgmt.staging.find? m.src.toNat = some { b with bytes := b.bytes ++ m.data }) ∧
      (m.offset.toNat ≠ b.bytes.length → ∃ u, exec (.naloraStage m) s = .next u ∧
        Safety.answered s u m 4 [] ∧ u.mgmt.staging.find? m.src.toNat = none)) ∧
    (s.mgmt.staging.find? m.src.toNat = none → m.offset = 0 →
    (m.data.length ≤ min x.size 4096 → ∃ u, exec (.naloraStage m) s = .next u ∧ Safety.answered s u m 0 [] ∧
      u.mgmt.staging.find? m.src.toNat = some { object := m.object, index := m.index, bytes := m.data }) ∧
    (min x.size 4096 < m.data.length → ∃ u, exec (.naloraStage m) s = .next u ∧ Safety.answered s u m 4 [] ∧
      u.mgmt.staging.find? m.src.toNat = none))) ∧
  (∀ m, ∀ s : State, Safety.asks s m 3 → s.mgmt.pageBudget ≠ 0 → serviceGroup m.object.toNat = true → ∃ u,
    exec (.naloraWriteG m) s = .next u ∧ Safety.answered s u m 3 []) ∧
  (∀ m c, ∀ s : State, Safety.asks s m 3 → s.mgmt.pageBudget ≠ 0 → serviceGroup m.object.toNat = false → m.flags.getLsbD 1 = false →
    c = (s.bump 0x00100 0).guardCause m m.data → ∃ u, exec (.naloraWriteG m) s = .next u ∧ u = { s with mgmt := u.mgmt } ∧
    u.mgmt.sent = s.mgmt.sent ∧ (c = 0 → Safety.waits u m m.object.toNat) ∧
    (c ≠ 0 → u.mgmt.journal = none ∧ u.obj 0x90020 0 = (s.obj 0x90020 0 + 1) % 2 ^ 64 ∧
      u.obj 0x90021 0 = packFields [(32, m.object.toNat), (16, m.index.toNat), (8, m.keySlot.toNat), (8, c), (64, m.counter.toNat)] ∧
      u.obj 0x90004 m.keySlot.toNat = if 5 ≤ c then m.counter.toNat else s.obj 0x90004 m.keySlot.toNat)) ∧
  (∀ m v, ∀ s : State, let k := s.keySlot m.keySlot.toNat
    (k.active = false → s.guardCause m v = 1) ∧
    (∀ b, k.active = true → guardScope m.object.toNat = some b → k.scope.getLsbD b = true →
      (m.tag ≠ (Config.kmac256 k.key (s.tagInput m v) (ascii "NALORA GUARD")).setWidth 128 → s.guardCause m v = 3) ∧
      (m.tag = (Config.kmac256 k.key (s.tagInput m v) (ascii "NALORA GUARD")).setWidth 128 →
        m.counter.toNat ≤ s.obj 0x90004 m.keySlot.toNat → s.guardCause m v = 4))) ∧
  (∀ w : PendingWrite, ∀ s : State, s.mgmt.journal = some w → s.mgmt.queue = [] → w.req.cmd = none → w.req.msg.path = .port → w.slot < 8 →
    Safety.plainGuarded w.object → w.index < 65536 → ∃ u, exec .journalCommit s = .next u ∧
    u = { s with mgmt := u.mgmt, mem.bucketOld := u.mem.bucketOld } ∧ u.mgmt.journal = none ∧ (∀ v, u.bucketSet v = s.bucketSet v) ∧
    u.mgmt.pageBudget = s.mgmt.pageBudget ∧ (∀ i x, u.mgmt.pages.find? i = some x → w.first ≤ x.seq → x.named = true) ∧ u.obj w.object w.index = w.value ∧
    u.mgmt.store.find? (okey w.object w.index) = some w.value ∧ u.obj 0x90004 w.slot = w.counter.toNat ∧
    u.mgmt.sent = s.mgmt.sent ++ [Safety.response w.req.msg 0 []]) ∧
  (∀ s : State, s.mgmt.journal = none → (s.mgmt.unsaved ≠ [] → s.mgmt.pageBudget ≠ 0 → ∃ u, exec .journalCommit s = .next u ∧
      u = { s with mgmt := u.mgmt } ∧ u.mgmt.unsaved = [] ∧
      u.mgmt.pageBudget = s.mgmt.pageBudget - (pagesOf s.mgmt.unsaved).length ∧ u.mgmt.dict = s.mgmt.dict ∧
      ∀ k ∈ s.mgmt.unsaved, u.mgmt.store.find? k = some (s.valueAt k)) ∧
    (s.mgmt.unsaved = [] ∨ s.mgmt.pageBudget = 0 → exec .journalCommit s = .next s)) ∧
  (∀ s : State, s.mgmt.queue = [] →
    (s.mgmt.pageDebt = 0 → exec .pageBudgetRefill s = .next { s with mgmt.pageBudget := min 600 (s.mgmt.pageBudget + 1) }) ∧
    (s.mgmt.pageDebt ≠ 0 → exec .pageBudgetRefill s = .next { s with mgmt.pageDebt := s.mgmt.pageDebt - 1 })) ∧
  (∀ a, ∀ s : State, ∃ u, exec (.stagingTimeout a) s = .next u ∧ u = { s with mgmt.staging := u.mgmt.staging } ∧
    u.mgmt.staging.find? a.toNat = none ∧ ∀ b, b ≠ a.toNat → u.mgmt.staging.find? b = s.mgmt.staging.find? b) ∧
  (∀ m, ∀ s : State, m.kind = 2 → m.object = 0x90010#20 → exec (.keyProvision m) s = exec (.naloraWrite m) s) ∧
  (∀ m k, ∀ s : State, Safety.asks s m 2 → m.object = 0x90010#20 → m.index = 0 → m.offset = 0 → m.data.length = 64 → m.dataLen.toNat ≤ 208 →
    s.pathOpen .port = true → s.obj 0x90000 0 ≠ 1 → s.idReady = true → fld (leNat m.data) 0 3 = 0 →
    bit (fld (leNat m.data) 32 32) 3 = true → fld (leNat m.data) 32 32 < 32 →
    k = { active := true, key := BitVec.ofNat 256 (fld (leNat m.data) 256 256), scope := BitVec.ofNat 32 (fld (leNat m.data) 32 32) } →
    ∃ u, exec (.keyProvision m) s = .next u ∧ u.mgmt.keys.get {} 0 = k ∧ u.mgmt.keyStore.get {} 0 = k ∧ u.obj 0x90000 0 = 1 ∧
    u.obj 0x90004 0 = 0 ∧ u.mem = s.mem ∧ u.host = s.host ∧ Safety.response m 0 [] ∈ u.mgmt.sent) ∧
  (∀ v : BitVec 8, ∀ s : State, (s.boot.phase = .recovery → exec (.plcaIdWrite v) s = .next s) ∧
    (s.boot.phase ≠ .recovery → 1 ≤ v.toNat → v.toNat ≤ 16 → ∃ u, exec (.plcaIdWrite v) s = .next u ∧ u = { s with mgmt := u.mgmt } ∧
      u.obj 0x00020 0 = v.toNat ∧ u.mgmt.plcaWritten = true ∧ okey 0x00020 0 ∈ u.mgmt.unsaved) ∧
    (v = 0 ∨ 16 < v.toNat → exec (.plcaIdWrite v) s = .next s)) ∧
  (∀ s : State, exec .plcaBeaconTimeout s = .next (s.setObj 0x00022 0 0) ∧ exec .plcaBeaconReceived s = .next (s.setObj 0x00022 0 1)) ∧
  (∀ s : State, (s.mgmt.mailIn = [] → exec .mbxMessageTimeout s = .next s) ∧ (∀ x l, s.mgmt.mailIn = x :: l →
    exec .mbxMessageTimeout s = .next (({ s with mgmt.mailIn := l } : State).bump 0x00102 0)))

/-- Dictionary commands of the admin queue. DICT_READ stores the bytes of its object in host memory and completes with OK
and their number; DICT_WRITE sets a setting and completes with OK. DICT_WRITE_G, KEY_ROTATE and FW_ACTIVATE carry a
tag: one that passes the checks waits for its commit with the command busy, one that fails is an illegal sequence and
counts in 60.100 and 90.020. A command of more than 65,536 bytes completes with LENGTH, one whose buffer the function
does not reach with RANGE, one that finds 64 requests waiting with BUSY. At its commit a key rotation masks and stores
the new key, and an activation starts the handover. (R422, R429, R443, R446, R447, R449, R457,
13_management_and_security.md) -/
def Obligations.DictionaryCommandsReachTheMaltster : Prop :=
  (∀ r c, ∀ s : State, 65536 < c.arg 160 32 →
    (Safety.started s r 0x90 c → ∃ u, exec (.dictRead r) s = .next u ∧ Safety.done u r 0 4 ∧ u = { s with host.queues := u.host.queues }) ∧
    (Safety.started s r 0x91 c → ∃ u, exec (.dictWrite r) s = .next u ∧ Safety.done u r 0 4 ∧ u = { s with host.queues := u.host.queues }) ∧
    (Safety.started s r 0x92 c → ∃ u, exec (.dictWriteG r) s = .next u ∧ Safety.done u r 0 4 ∧ u = { s with host.queues := u.host.queues })) ∧
  (∀ r c, ∀ s : State, Safety.started s r 0x90 c → c.arg 160 32 ≤ 65536 → s.hostReaches r.v.val c.buffer (s.dictBytes c none) = false →
    ∃ u, exec (.dictRead r) s = .next u ∧ Safety.done u r 0 5 ∧ u = { s with host.queues := u.host.queues }) ∧
  (∀ r c, ∀ s : State, Safety.started s r 0x90 c → c.arg 160 32 ≤ 65536 →
    s.hostReaches r.v.val c.buffer (s.dictBytes c none) = true → 64 ≤ s.mgmt.queue.length → ∃ u,
    exec (.dictRead r) s = .next u ∧ Safety.done u r 0 7 ∧ u.obj 0x00103 0 = (s.obj 0x00103 0 + 1) % 2 ^ 64 ∧ u.mem = s.mem) ∧
  (∀ r c x, ∀ s : State, Safety.started s r 0x90 c → s.boot.phase ≠ .recovery → s.quiet = false →
    s.hostReaches r.v.val c.buffer (s.dictBytes c none) = true → s.mgmt.journal = none → s.mgmt.queue = [] →
    s.objInfo (c.arg 0 20) = some x → serviceGroup (c.arg 0 20) = false →
    x.indexOk (c.arg 0 20) (c.arg 20 16) = true → c.arg 128 32 = 0 → 0 < x.size → x.size ≤ 65536 →
    c.arg 160 32 = 0 ∨ c.arg 160 32 = x.size → ∃ u, exec (.dictRead r) s = .next u ∧ Safety.done u r 0 (256 * x.size) ∧
    u.mem.host = memWrite s.mem.host c.buffer ((s.keepBusy r).objBytes (c.arg 0 20) (c.arg 20 16) 0 x.size) ∧ u.mem.hbm = s.mem.hbm) ∧
  (∀ r c x v, ∀ s : State, Safety.started s r 0x91 c → s.boot.phase ≠ .recovery → s.quiet = false →
    s.hostReaches r.v.val c.buffer (s.dictBytes c none) = true → s.mgmt.journal = none → s.mgmt.queue = [] →
    Safety.plainSetting (c.arg 0 20) → s.objInfo (c.arg 0 20) = some x → c.arg 20 16 = 0 → c.arg 128 32 = 0 → c.arg 160 32 = x.size →
    s.pathOpen .admin = true → v = leNat (memRead s.mem.host c.buffer x.size) → s.rangeOk (c.arg 0 20) 0 v = true → ∃ u,
    exec (.dictWrite r) s = .next u ∧ Safety.done u r 0 (256 * x.size) ∧ u.obj (c.arg 0 20) 0 = v ∧ u.mem = s.mem ∧
    okey (c.arg 0 20) 0 ∈ u.mgmt.unsaved) ∧
  (∀ r c m a, ∀ s : State, s.boot.phase ≠ .recovery → s.quiet = false → (∀ x ∈ s.host.closed, x.1 ≠ r.v.val) → s.mgmt.journal = none → s.mgmt.queue = [] → s.mgmt.pageBudget ≠ 0 →
    c.arg 160 32 ≤ 65536 → a = (s.keepBusy r).guardCause m m.data →
    (Safety.started s r 0x92 c → m = (s.dictRequest r c 3 none).msg → m.offset = 0 → m.flags = 1 →
      serviceGroup (c.arg 0 20) = false → ∃ u, exec (.dictWriteG r) s = .next u ∧
      (a = 0 → Safety.waits u m (c.arg 0 20) ∧ u.cmd? r = some { c with busy := true }) ∧
      (a ≠ 0 → u.cmd? r = none ∧ u.obj 0x90020 0 = (s.obj 0x90020 0 + 1) % 2 ^ 64 ∧
        u.obj 0x60100 r.v.val = (s.obj 0x60100 r.v.val + 1) % 2 ^ 64)) ∧
    (Safety.started s r 0x93 c → m = (s.dictRequest r c 3 (some 0x90010)).msg → ∃ u, exec (.keyRotate r) s = .next u ∧
      (a = 0 → Safety.waits u m 0x90010 ∧ u.cmd? r = some { c with busy := true }) ∧
      (a ≠ 0 → u.cmd? r = none ∧ u.obj 0x90020 0 = (s.obj 0x90020 0 + 1) % 2 ^ 64 ∧
        u.obj 0x60100 r.v.val = (s.obj 0x60100 r.v.val + 1) % 2 ^ 64)) ∧
    (Safety.started s r 0x94 c → m = (s.dictRequest r c 3 (some 0xA0020)).msg → ∃ u, exec (.fwActivate r) s = .next u ∧
      (a = 0 → Safety.waits u m 0xA0020 ∧ u.cmd? r = some { c with busy := true }) ∧
      (a ≠ 0 → u.cmd? r = none ∧ u.obj 0x90020 0 = (s.obj 0x90020 0 + 1) % 2 ^ 64 ∧
        u.obj 0x60100 r.v.val = (s.obj 0x60100 r.v.val + 1) % 2 ^ 64))) ∧
  (∀ w : PendingWrite, ∀ n v key, ∀ s : State, s.mgmt.journal = some w → s.mgmt.queue = [] → w.object = 0x90010 → w.slot < 8 → v = w.value →
    n = fld v 0 3 → s.idReady = true → key = BitVec.ofNat 256 (fld v 256 256) ^^^ Config.kmac256 (s.keySlot w.slot).key
      (leBytes 16 (s.obj 0x00003 0) ++ leBytes 1 n ++ leBytes 8 w.counter.toNat) (ascii "NALORA KEY") → ∃ u,
    exec .journalCommit s = .next u ∧ u.mgmt.journal = none ∧ u.mgmt.keyStore.get {} n = u.mgmt.keys.get {} n ∧ u.obj 0x90004 n = 0 ∧
    u.mgmt.keys.get {} n = (if key = 0 then {} else { active := true, key := key, scope := BitVec.ofNat 32 (fld v 32 32) }) ∧
    ∀ i, i ≠ n → u.mgmt.keys.get {} i = s.mgmt.keys.get {} i) ∧
  (∀ w : PendingWrite, ∀ s : State, s.mgmt.journal = some w → s.mgmt.queue = [] → w.object = 0xA0020 → w.slot < 8 → ∃ u,
    exec .journalCommit s = .next u ∧ u.mgmt.journal = none ∧ u.obj 0xA0000 0 = 1 ∧ u.mgmt.fw.commitSvn = bit w.value 0 ∧
    u.mgmt.fw.newStarted = false ∧ u.mgmt.fw.running = s.mgmt.fw.running)

/-- Attestation reports and signed exports of the Cask. A nonce starts a report over a snapshot of the module unless one
is being generated; without an identity it fails with state 3. When the report is ready it is the snapshot with its
signature under NALORA ATTEST, and KEY_USE is posted. An export of up to 4,096 committed records does the same with
its header, its records and NALORA CASK; a count or a range that does not exist fails with state 3. (R453, R489, R490,
R485, 13_management_and_security.md, 14_resilience_and_cask.md) -/
def Obligations.ReportsAndExportsAreSigned : Prop :=
  (∀ n, ∀ s : State, (s.obj 0x00041 0 = 1 → exec (.attestNonce n) s = .next s) ∧
    (s.boot.phase = .recovery → exec (.attestNonce n) s = .next s) ∧
    (s.boot.phase ≠ .recovery → s.obj 0x00041 0 ≠ 1 → s.idReady = false → exec (.attestNonce n) s = .next (s.setObj 0x00041 0 3)) ∧
    (s.boot.phase ≠ .recovery → s.obj 0x00041 0 ≠ 1 → s.idReady = true → ∃ u x, exec (.attestNonce n) s = .next u ∧ u = { s with mgmt := u.mgmt } ∧
      u.obj 0x00041 0 = 1 ∧ u.mgmt.attest = some x ∧ x.nonce = n ∧ x.time = s.now ∧ x.body = s.reportBody n)) ∧
  (∀ s : State, (s.mgmt.attest = none → exec .attestReportReady s = .next s) ∧ (∀ x, s.mgmt.attest = some x → ∃ u,
    exec .attestReportReady s = .next u ∧ u = { s with mgmt := u.mgmt, cask := u.cask } ∧ u.mgmt.attest = none ∧ u.obj 0x00041 0 = 2 ∧
    u.mgmt.report = x.body ++ leBytes 2420 (Config.sign (sha3Bytes x.body) (ascii "NALORA ATTEST")).toNat ∧
    Safety.posts s u 0x0804 (source 0 0) (leBytes 128 (packFields [(8, 0), (64, x.nonce.toNat)])))) ∧
  (∀ (first count : BitVec 64) n, ∀ s : State, (s.obj 0x80022 0 = 1 → exec (.caskExportReq first count n) s = .next s) ∧
    (s.boot.phase = .recovery → exec (.caskExportReq first count n) s = .next s) ∧
    (s.boot.phase ≠ .recovery → s.obj 0x80022 0 ≠ 1 → s.idReady = false ∨ count = 0 ∨ 4096 < count.toNat ∨ s.exportRange first.toNat count.toNat = none →
      exec (.caskExportReq first count n) s = .next (s.setObj 0x80022 0 3)) ∧
    (∀ l, s.boot.phase ≠ .recovery → s.obj 0x80022 0 ≠ 1 → s.idReady = true → count ≠ 0 → count.toNat ≤ 4096 → s.exportRange first.toNat count.toNat = some l →
      ∃ u x, exec (.caskExportReq first count n) s = .next u ∧ u = { s with mgmt := u.mgmt, cask := u.cask } ∧ u.obj 0x80022 0 = 1 ∧
      u.cask.export_ = some x ∧ x.nonce = n ∧ u.cask.records = s.cask.records ∧
      x.body = s.exportHeader first.toNat count.toNat n ++ l.flatMap CaskRecord.bytes)) ∧
  (∀ (first count : Nat) l, ∀ s : State, s.exportRange first count = some l → l.length = count ∧ ∀ r ∈ l, ∃ p,
    s.cask.records.find? p = some r) ∧
  (∀ s : State, (s.cask.export_ = none → exec .caskExportReady s = .next s) ∧ (∀ x, s.cask.export_ = some x → ∃ u,
    exec .caskExportReady s = .next u ∧ u = { s with mgmt := u.mgmt, cask := u.cask } ∧ u.cask.export_ = none ∧ u.obj 0x80022 0 = 2 ∧
    u.cask.exported = x.body ++ leBytes 2420 (Config.sign (sha3Bytes x.body) (ascii "NALORA CASK")).toNat ∧
    Safety.posts s u 0x0804 (source 0 0) (leBytes 128 (packFields [(8, 1), (64, x.nonce.toNat)]))))

/-- Firmware: load, verification, handover, revert and the recovery loader. A first segment opens a load and erases the
inactive slot, which takes the bytes of every segment; the last one starts verification; during a handover or a
verification every segment is refused. Verification that fails leaves LOAD_STATE 4 and the number of the first check
that fails; under the recovery loader an image that passes fills both slots and restarts the module. A handover reads
the staged image into the idle code bank, checks it again and starts it, switches each unit once and, when the self-
check passes, makes the slot active and raises the minimum SVN if asked; a revert returns to the old image with
UPDATE_STATE 2. The loader runs when ROM found no image, and sends a notice a second. (R435, R455, R456, R457, R458,
R459, R460, 13_management_and_security.md) -/
def Obligations.FirmwareIsLoadedAndHandedOver : Prop :=
  (∀ r off d last, ∀ s : State, (s.obj 0xA0000 0 = 1 ∨ s.obj 0xA0011 0 = 2 → exec (.fwLoad r off d last) s = .next s) ∧
    (s.obj 0xA0000 0 ≠ 1 → s.obj 0xA0011 0 ≠ 2 → s.obj 0xA0011 0 ≠ 1 → off = 0 → d.length ≤ 33554432 → ∃ u,
      exec (.fwLoad r off d last) s = .next u ∧ u = { s with mgmt := u.mgmt } ∧ u.obj 0xA0011 0 = (if last then 2 else 1) ∧
      u.mgmt.fw.slot (1 - s.activeSlot) = d ∧ u.mgmt.fw.loadOwner = r ∧ u.mgmt.fw.loadNext = d.length ∧ u.obj 0xA0012 0 = 0 ∧
      u.mgmt.fw.running = s.mgmt.fw.running) ∧
    (s.obj 0xA0000 0 ≠ 1 → s.obj 0xA0011 0 = 1 → off ≠ 0 → r = s.mgmt.fw.loadOwner → s.mgmt.fw.loadNext ≤ off →
      off + d.length ≤ 33554432 → ∃ u, exec (.fwLoad r off d last) s = .next u ∧ u = { s with mgmt := u.mgmt } ∧
      u.obj 0xA0011 0 = (if last then 2 else 1) ∧ u.mgmt.fw = { s.mgmt.fw.putSlot (1 - s.activeSlot) (imageBytes (s.mgmt.fw.slot (1 - s.activeSlot)) 0 off ++ d) with loadNext := off + d.length, loadBytes := off + d.length }) ∧
    (s.obj 0xA0011 0 = 1 → r ≠ s.mgmt.fw.loadOwner ∨ off < s.mgmt.fw.loadNext → exec (.fwLoad r off d last) s = .next s)) ∧
  (∀ s : State, (s.obj 0xA0011 0 = 1 → exec .fwLoadAbandon s = .next (s.setObj 0xA0011 0 0)) ∧
    (s.obj 0xA0011 0 ≠ 1 → exec .fwLoadAbandon s = .next s)) ∧
  (∀ (f : FlashErrors) (s : State),
    let b := readSlot (s.mgmt.fw.slot (1 - s.activeSlot)) f
    let fw := s.mgmt.fw.putSlot (1 - s.activeSlot) b
    (s.obj 0xA0011 0 ≠ 2 → exec (.fwVerifyDone f) s = .next s) ∧
    (s.obj 0xA0011 0 = 2 → s.imageReason b ≠ 0 → exec (.fwVerifyDone f) s =
      .next ((({ s with mgmt.fw := fw } : State).setObj 0xA0011 0 4).setObj 0xA0012 0 (s.imageReason b))) ∧
    (s.obj 0xA0011 0 = 2 → s.boot.phase ≠ .recovery → s.imageReason b = 0 → ∃ u, exec (.fwVerifyDone f) s = .next u ∧
      u = { s with mgmt := u.mgmt } ∧ u.obj 0xA0011 0 = 3 ∧ u.obj 0xA0013 0 = imageVersion b ∧ u.obj 0xA0014 0 = imageSvn b ∧
      u.mgmt.fw = fw) ∧
    (s.obj 0xA0011 0 = 2 → s.boot.phase = .recovery → s.imageReason b = 0 → ∃ u, exec (.fwVerifyDone f) s = .next u ∧
      u.boot.phase = .held ∧ u.mgmt.fw.slotA = b ∧ u.mgmt.fw.slotB = b ∧ u.obj 0x00011 0 = 3 ∧
      u.cask.records = s.cask.records ∧ u.mgmt.store.find? (okey 0xA0006 0) = some 0)) ∧
  (∀ b, ∀ s : State, (imageFramed b = false → s.imageReason b = 1) ∧
    (imageFramed b = true → Config.sha3 (imageSigner b) ∉ s.mgmt.signers → s.imageReason b = 2) ∧
    (imageFramed b = true → Config.sha3 (imageSigner b) ∈ s.mgmt.signers → (imageSigned b = false → s.imageReason b = 3) ∧
      (imageSigned b = true → imageBodyDigest b = (Config.sha3 (imageBody b)).toNat → s.imageReason b =
        if imageSvn b < s.obj 0xA0003 0 then 5 else if imageForStepping b = true then 0 else 6))) ∧
  (∀ s : State, let b := s.mgmt.fw.slot (1 - s.activeSlot)
    (s.obj 0xA0000 0 = 1 → s.mgmt.fw.newStarted = false → s.mgmt.journal = none → s.imageReason b = 0 → ∃ u,
      exec .handoverNewImageStart s = .next u ∧ u = { s with mgmt.fw := u.mgmt.fw } ∧ u.mgmt.fw.newStarted = true ∧
      u.mgmt.fw.running = b ∧ u.mgmt.fw.quietUntil = s.now + 50000000 ∧ u.mgmt.fw.slotA = s.mgmt.fw.slotA ∧
      u.mgmt.fw.slotB = s.mgmt.fw.slotB) ∧
    (s.obj 0xA0000 0 = 1 → s.mgmt.fw.newStarted = false → s.mgmt.journal = none → s.imageReason b ≠ 0 → ∃ u,
      exec .handoverNewImageStart s = .next u ∧ u = { s with mgmt := u.mgmt } ∧ u.mgmt.fw.newStarted = false ∧
      u.mgmt.fw.running = s.mgmt.fw.running ∧ u.obj 0xA0012 0 = s.imageReason b) ∧
    (s.obj 0xA0000 0 ≠ 1 ∨ s.mgmt.fw.newStarted = true ∨ s.mgmt.journal ≠ none → exec .handoverNewImageStart s = .next s)) ∧
  (∀ (m : McUnit) (s : State), (s.obj 0xA0000 0 = 1 → s.mgmt.fw.newStarted = true → m ∉ s.mgmt.fw.switched →
      exec (.microcodeSwitch m) s = .next { s with mgmt.fw.switched := s.mgmt.fw.switched ++ [m] }) ∧
    (s.obj 0xA0000 0 = 1 → m ∈ s.mgmt.fw.switched ∨ s.mgmt.fw.newStarted = false → exec (.microcodeSwitch m) s = .next s) ∧
    (s.obj 0xA0000 0 ≠ 1 → exec (.microcodeSwitch m) s = .next { s with mgmt.fw.switched := s.mgmt.fw.switched.filter (· ≠ m) })) ∧
  (∀ s : State, (s.obj 0xA0000 0 = 1 → s.mgmt.fw.newStarted = true → s.mgmt.fw.switched.length = 4 → ∃ u,
      exec .handoverSelfCheck s = .next u ∧ u = { s with mgmt := u.mgmt, cask := u.cask } ∧ u.obj 0xA0000 0 = 0 ∧
      u.activeSlot = 1 - s.activeSlot ∧ u.obj 0xA0021 0 = s.obj 0xA0021 0 + 1 ∧ u.mgmt.fw.running = s.mgmt.fw.running ∧
      u.obj 0xA0003 0 = (if s.mgmt.fw.commitSvn then imageSvn s.mgmt.fw.running else s.obj 0xA0003 0)) ∧
    (s.obj 0xA0000 0 ≠ 1 ∨ s.mgmt.fw.newStarted = false ∨ s.mgmt.fw.switched.length ≠ 4 → exec .handoverSelfCheck s = .next s)) ∧
  (∀ s : State, (s.obj 0xA0000 0 = 1 → ∃ u, exec .fwRevert s = .next u ∧ u = { s with mgmt := u.mgmt, cask := u.cask } ∧
      u.obj 0xA0000 0 = 2 ∧ 
      u.mgmt.fw.running = (if s.mgmt.fw.newStarted = s.mgmt.fw.second then s.mgmt.fw.bank0 else s.mgmt.fw.bank1) ∧ u.activeSlot = s.activeSlot ∧
      u.obj 0xA0022 0 = s.obj 0xA0022 0 + 1 ∧ u.obj 0xA0011 0 = 4 ∧ u.obj 0xA0012 0 = 7 ∧ u.obj 0xA0003 0 = s.obj 0xA0003 0) ∧
    (s.obj 0xA0000 0 ≠ 1 → exec .fwRevert s = .next s)) ∧
  (∀ s : State, (s.boot.phase = .rom → ∃ u, exec .recoveryLoader s = .next u ∧ u.boot.phase = .recovery ∧ u.obj 0xA0000 0 = 3 ∧
      u.cask = s.cask ∧ u.mem = s.mem) ∧
    (s.boot.phase ≠ .rom → exec .recoveryLoader s = .next s)) ∧
  (∀ s : State, (s.boot.phase = .recovery → s.mgmt.notices = [] → ∃ u n, exec .recoveryNotice s = .next u ∧
      u = { s with mgmt := u.mgmt } ∧ u.mgmt.notices = [n] ∧ n.dst = 0xFFFF#16 ∧ n.code = 5 ∧ n.time = s.now) ∧
    (s.boot.phase ≠ .recovery → exec .recoveryNotice s = .next s))

/-- Brown-hold, the power controller, FORCE_SAFE_N, droops and temperature. Brown-hold stretches every die to at most m =
32 at once, and the conveyor with it, counts and records itself, and ends with its duration added. A power sample
lowers m by 1 at 5,300 W or in an excursion and lets it rise by 1 in ten while no limit calls; m in force moves by at
most 4 a sample. FORCE_SAFE_N takes every die to at most 16. A droop owes one period. A sensor beyond its level lowers
the request of its die by 1, not below 16, and one 3 degrees below it raises it again. A die at its stop level stops
and resumes at m = 16. A limit outside its range changes nothing. (R478, R479, R512, R513, R514, R518, R519, R520,
R522, 16_power_clocks_start.md) -/
def Obligations.ClocksStretchForPowerAndHeat : Prop :=
  (∀ mv, ∀ s : State, (s.watches = false ∨ s.obj 0x10010 0 ≤ mv → exec (.brownHoldEnter mv) s = .next s) ∧
    (s.watches = true → mv < s.obj 0x10010 0 → s.power.brown = false → ∃ u, exec (.brownHoldEnter mv) s = .next u ∧
      u = { s with power := u.power, mgmt := u.mgmt, cask := u.cask, conv := u.conv } ∧ u.conv.m = u.convClock ∧
      u.conv = { s.conv with m := u.conv.m, upDelay := u.conv.upDelay, downDelay := u.conv.downDelay } ∧
      u.power = { s.power with inputMv := mv, brown := true, brownSince := s.now, brownMin := mv, m := u.power.m } ∧
      (∀ d, d < 8 → u.power.m.get 64 d = min 32 (s.power.m.get 64 d)) ∧ u.obj 0x10100 0 = (s.obj 0x10100 0 + 1) % 2 ^ 64 ∧
      Safety.posts s u 0x0101 (source 0 0) (leBytes 128 mv))) ∧
  (∀ s : State, (s.power.brown = false ∨ s.watches = false → exec .brownHoldLeave s = .next s) ∧
    (s.power.brown = true → s.watches = true → ∃ u, exec .brownHoldLeave s = .next u ∧
      u = { s with power := u.power, mgmt := u.mgmt, cask := u.cask } ∧ u.power = { s.power with brown := false } ∧
      u.obj 0x10101 0 = (s.obj 0x10101 0 + (s.now - s.power.brownSince)) % 2 ^ 64)) ∧
  (∀ p10 near, ∀ s : State, (s.clocked = false → exec (.powerSample p10 near) s = .next s) ∧
    (s.clocked = true → ∃ u, exec (.powerSample p10 near) s = .next u ∧ u = { s with power := u.power, mgmt := u.mgmt } ∧
      u.obj 0x10002 0 = p10 ∧
      (5300 ≤ p10 ∨ s.obj 0x10020 0 < p10 ∧ near = true → u.power.mPower = max 16 (s.power.mPower - 1)) ∧
      (p10 < 5300 → p10 ≤ s.obj 0x10020 0 → u.power.mPower =
        if s.power.mPower < 64 ∧ 9 ≤ s.power.raise then s.power.mPower + 1 else s.power.mPower) ∧
      (∀ d, d < 8 → u.power.m.get 64 d =
        if s.power.stopped.contains d then s.power.m.get 64 d else rampM (s.power.m.get 64 d) (u.power.target d)))) ∧
  (∀ m t, rampM m t ≤ m + 4 ∧ m ≤ rampM m t + 4 ∧ (m ≤ t → m ≤ rampM m t ∧ rampM m t ≤ t) ∧ (t ≤ m → t ≤ rampM m t ∧ rampM m t ≤ m)) ∧
  (∀ p10, ∀ s : State, (s.clocked = true → s.obj 0x10020 0 < p10 → ∃ u, exec (.powerExcursionLimit p10) s = .next u ∧
      u = { s with power := u.power } ∧ u.power.excursion = true ∧ u.power.limitActing = true ∧
      u.power.mPower = max 16 (s.power.mPower - 1) ∧ u.power.m = s.power.m) ∧
    (s.clocked = false ∨ p10 ≤ s.obj 0x10020 0 → exec (.powerExcursionLimit p10) s = .next s)) ∧
  (∀ v : BitVec 32, ∀ s : State, (1000 ≤ v.toNat → v.toNat ≤ 4700 → ∃ u, exec (.pLimitWrite v) s = .next u ∧ u = { s with mgmt := u.mgmt } ∧
      u.obj 0x10020 0 = v.toNat ∧ okey 0x10020 0 ∈ u.mgmt.unsaved) ∧
    (v.toNat < 1000 ∨ 4700 < v.toNat → exec (.pLimitWrite v) s = .next s)) ∧
  (∀ s : State, (s.clocked = false → exec .forceSafeAssert s = .next { s with pins.forceSafeN := false }) ∧
    (s.clocked = true → ∃ u, exec .forceSafeAssert s = .next u ∧ u = { s with power := u.power, pins := u.pins } ∧
      u.pins = { s.pins with forceSafeN := false } ∧ u.power = { s.power with forceSafe := true, m := u.power.m } ∧
      ∀ d, d < 8 → u.power.m.get 64 d = min 16 (s.power.m.get 64 d))) ∧
  (∀ s : State, exec .forceSafeRelease s = .next { s with pins.forceSafeN := true, power.forceSafe := false }) ∧
  (∀ d : Fin 8, ∀ s : State, (s.clocked = true → d.val ∉ s.power.stopped → ∃ u, exec (.coreRailDroop d) s = .next u ∧
      u = { s with clock := u.clock } ∧ u.clock.droopLeft.get 0 d.val = s.clock.droopLeft.get 0 d.val + 6400 ∧
      u.clock.dieAcc = s.clock.dieAcc ∧ ∀ e, e ≠ d.val → u.clock.droopLeft.get 0 e = s.clock.droopLeft.get 0 e) ∧
    (s.clocked = false ∨ d.val ∈ s.power.stopped → exec (.coreRailDroop d) s = .next s)) ∧
  (∀ (d : Fin 8) mc, ∀ s : State, s.serves = true → (95000 < mc → ∃ u, exec (.thermalThrottle (.die d) mc) s = .next u ∧
      u = { s with power := u.power, mgmt := u.mgmt, cask := u.cask } ∧ u.obj 0x20010 d.val = (BitVec.ofInt 32 mc).toNat ∧
      .die d ∈ u.power.hot ∧ u.power.mDie.get 64 d.val = max 16 (s.power.mDie.get 64 d.val - 1) ∧
      u.power.m.get 64 d.val = min (s.power.m.get 64 d.val) (u.power.thermalM d.val) ∧
      (∀ e, e ≠ d.val → u.power.m.get 64 e = s.power.m.get 64 e) ∧
      (.die d ∉ s.power.hot → Safety.posts s u 0x0201 (source 1 d.val) (sensorPayload (.die d) mc))) ∧
    (mc < 95000 → ∃ u, exec (.thermalRecover (.die d) mc) s = .next u ∧ u = { s with power := u.power, mgmt := u.mgmt, cask := u.cask } ∧
      u.obj 0x20010 d.val = (BitVec.ofInt 32 mc).toNat ∧ .die d ∉ u.power.hot ∧ u.power.m = s.power.m ∧
      u.power.mDie.get 64 d.val = if mc ≤ 92000 then min 64 (s.power.mDie.get 64 d.val + 1) else s.power.mDie.get 64 d.val)) ∧
  (∀ x mc, ∀ s : State, s.serves = false ∨ s.beyond x mc = false → exec (.thermalThrottle x mc) s = .next s) ∧
  (∀ x mc, ∀ s : State, s.serves = false ∨ s.behind x mc = false → exec (.thermalRecover x mc) s = .next s) ∧
  (∀ d : Fin 8, ∀ s : State, (s.clocked = false → exec (.dieStop d) s = .next s) ∧ (s.clocked = true → ∃ u, exec (.dieStop d) s = .next u ∧
      u = { s with power := u.power } ∧ d.val ∈ u.power.stopped ∧ u.power.m.get 64 d.val = 16 ∧
      ∀ e, e ≠ d.val → u.power.m.get 64 e = s.power.m.get 64 e)) ∧
  (∀ d : Fin 8, ∀ s : State, (d.val ∉ s.power.stopped → exec (.dieResume d) s = .next s) ∧
    (d.val ∈ s.power.stopped → ∃ u, exec (.dieResume d) s = .next u ∧ u = { s with power := u.power } ∧ d.val ∉ u.power.stopped ∧
      u.power.m.get 64 d.val = 16))

/-- Power loss, overvoltage, trips, warm resets and the reference. A loss of input, an overvoltage and a trip post their
record and drop everything outside the Maltster's domain; flash and committed records stay. The module is held until
its input returns, below 60 V, or until PERST_N has been cycled with every sensor below its level. When the hold-up
energy is used up the timestamp and uncommitted postings go. PERST_N and a hot reset restart the module with
RESET_CAUSE 1 and 2 and keep the timestamp and the queue of the Cask. A coalesced second ends in one record. A lost
reference takes every fabric port and the span link down. (R480, R481, R485, R493, R508, R510, R517, R523, R524, R529,
R538, 14_resilience_and_cask.md) -/
def Obligations.PowerLossAndResets : Prop :=
  (∀ mv w, ∀ s : State, (s.running = true → mv < s.obj 0x10011 0 → ∃ u, exec (.powerLoss mv w) s = .next u ∧ Safety.workLost u ∧
      Safety.flashKept s u ∧ u.power.hold = .powerLoss ∧ u.power.onHoldUp = true ∧ u.mgmt.journal = none ∧ u.boot.phase = .held ∧
      u.now = s.now ∧ (∃ payload, Safety.posts s u 0x0002 (source 0 0) payload)) ∧
    (s.running = false ∨ s.obj 0x10011 0 ≤ mv → exec (.powerLoss mv w) s = .next s)) ∧
  (∀ mv w, ∀ s : State, (s.running = true → 62000 ≤ mv → ∃ u, exec (.overvoltage mv w) s = .next u ∧ Safety.workLost u ∧
      Safety.flashKept s u ∧ u.power.hold = .overvoltage ∧ u.power.onHoldUp = true ∧ u.boot.phase = .held) ∧
    (s.running = false ∨ mv < 62000 → exec (.overvoltage mv w) s = .next s)) ∧
  (∀ s : State, (s.power.hold = .overvoltage → ∃ u, exec .overvoltageRelease s = .next u ∧ u.power.hold = .off ∧ Safety.flashKept s u ∧
      u.cask.queue = []) ∧
    (s.power.hold ≠ .overvoltage → exec .overvoltageRelease s = .next s)) ∧
  (∀ s : State, (s.power.onHoldUp = true → ∃ u, exec .holdUpEnergyExhausted s = .next u ∧ u.power.dark = true ∧ Safety.flashKept s u ∧
      u.cask.queue = [] ∧ u.now = 0 ∧ (u.power.hold = .overvoltage ↔ s.power.hold = .overvoltage)) ∧
    (s.power.onHoldUp = false → exec .holdUpEnergyExhausted s = .next s)) ∧
  (∀ s : State, (s.power.hold = .powerLoss ∨ s.power.hold = .off → ∃ u, exec .powerReturn s = .next u ∧ u.power.hold = .none ∧
      u.boot.phase = .held ∧ Safety.workLost u ∧ Safety.flashKept s u ∧ u.mgmt.dict = []) ∧
    (s.power.hold ≠ .powerLoss → s.power.hold ≠ .off → exec .powerReturn s = .next s)) ∧
  (∀ x mc, ∀ s : State, (s.power.hold = .none → tripping x mc = true → ∃ u, exec (.thermalTrip x mc) s = .next u ∧ Safety.workLost u ∧
      Safety.flashKept s u ∧ u.power.hold = .tripped ∧ u.power.trippedBy = some x ∧ u.boot.phase = s.boot.phase ∧
      u.boot.memoryActive = false ∧ u.boot.adminServed = false ∧ Safety.posts s u 0x0201 (sensorSource x) (sensorPayload x mc)) ∧
    (s.power.hold ≠ .none ∨ tripping x mc = false → exec (.thermalTrip x mc) s = .next s)) ∧
  (∀ s : State, (s.power.hold = .tripped → s.power.trippedBy = none → s.pins.perstN = true →
      exec .tripSensorsBelowThrottle s = .next { s with power.hold := .none }) ∧
    (s.power.hold ≠ .tripped ∨ s.power.trippedBy ≠ none ∨ s.pins.perstN = false → exec .tripSensorsBelowThrottle s = .next s)) ∧
  (∀ s : State, (s.pins.perstN = false → exec .perstNAssert s = .next s) ∧ (s.pins.perstN = true → s.running = true → ∃ u,
      exec .perstNAssert s = .next u ∧ Safety.workLost u ∧ Safety.flashKept s u ∧ u.boot.phase = .held ∧ u.pins.perstN = false ∧
      u.obj 0x00011 0 = 1 ∧ u.now = s.now ∧ u.cask.queue = s.cask.queue ∧ u.power.hold = s.power.hold ∧ u.power.trippedBy = none) ∧
    (s.pins.perstN = true → s.running = false → exec .perstNAssert s = .next { s with pins.perstN := false })) ∧
  (∀ slot slow, ∀ s : State, (s.pins.perstN = true → exec (.perstNRelease slot slow) s = .next s) ∧
    (s.pins.perstN = false → ∃ u, exec (.perstNRelease slot slow) s = .next u ∧
      u.pins = { s.pins with perstN := true, slotId := slot } ∧ u.boot.slowStart = slow ∧ u.cask = s.cask ∧ u.mem = s.mem ∧
      (s.power.hold = .none → s.boot.phase = .image → u.boot.phase = .ramped ∧ u.obj 0x00005 0 = slot.toNat ∧
        ∀ d, d < 8 → u.power.m.get 64 d = min (s.power.m.get 64 d)
          (min (if slow ∨ s.pins.forceSafeN = false then 16 else 64) (if s.power.brown then 32 else 64))) ∧
      (s.boot.phase ≠ .image → u.boot.phase = s.boot.phase))) ∧
  (∀ s : State, (s.barOpen = true → ∃ u, exec .hotReset s = .next u ∧ Safety.workLost u ∧ Safety.flashKept s u ∧ u.boot.phase = .held ∧
      u.obj 0x00011 0 = 2 ∧ u.now = s.now ∧ u.cask.queue = s.cask.queue ∧ u.pins = s.pins) ∧
    (s.barOpen = false → s.boot.phase ≠ .recovery → exec .hotReset s = .next s)) ∧
  (∀ n, ∀ s : State, (s.cask.pairs[n]? = none → exec (.caskCoalesceFlush n) s = .next s) ∧ (∀ p, s.cask.pairs[n]? = some p →
    s.power.dark = false → p.start + 1000000000 ≤ s.now → s.obj 0x80000 0 ≠ 2 → s.power.onHoldUp = false → s.cask.queue.length < 256 →
    ∃ u r, exec (.caskCoalesceFlush n) s = .next u ∧ u = { s with mgmt := u.mgmt, cask := u.cask } ∧ u.cask.pairs = s.cask.pairs.eraseIdx n ∧
    u.cask.queue = s.cask.queue ++ [r] ∧ r.type = p.type ∧ r.source = p.source ∧ r.payload = p.payload ∧
    r.suppressed = BitVec.ofNat 32 p.count ∧ u.cask.records = s.cask.records)) ∧
  (∀ s : State, (s.clock.refPresent = false → exec .referenceLoss s = .next s) ∧ (s.clock.refPresent = true → ∃ u,
      exec .referenceLoss s = .next u ∧ u.clock.refPresent = false ∧ (∀ p, p < 32 → (u.port p).up = false) ∧ u.obj 0x70010 0 = 0x80000000 ∧
      u.obj 0x70011 0 = s.node ∧ (s.conv.span.n = 1 → u.conv.state = s.conv.state) ∧
      (s.conv.span.n ≠ 1 → s.moving = true → u.conv.state = .broken))) ∧
  (∀ s : State, exec .referenceReturn s = .next { s with clock.refPresent := true })

/-- ROM start, training, self test and the start of the conveyor. ROM start takes the timestamp of the start, keeps a
raised BOOT_COUNT, posts START first and derives the identity; with both images sound it runs the one of ACTIVE_SLOT,
with that one rejected the other one and switches the slot, with neither it stays in ROM. Training sets the rate of
each stack and package; the self test stops start-up when a die is silent, a package pair has failed or a stack has
more failures than spares, and else opens device memory and the admin queues. The conveyor then starts alone or forms
its span. None of these acts outside its phase. (R459, R464, R487, R526, R527, 16_power_clocks_start.md) -/
def Obligations.StartUpSequence : Prop :=
  (∀ torn sram a b l, ∀ s : State, s.boot.phase ≠ .held ∨ s.power.hold ≠ .none → exec (.romStart torn sram a b l) s = .next s) ∧
  (∀ torn sram x y, ∀ s : State, s.boot.phase = .held → s.power.hold = .none → s.mgmt.store = [] → s.obj 0xA0006 0 = 0 →
    let a := readSlot s.mgmt.fw.slotA x
    let b := readSlot s.mgmt.fw.slotB y
    let key := Config.mlDsaKey (Config.pufSeed sram s.mgmt.helper)
    ∃ u, exec (.romStart torn sram x y []) s = .next u ∧ u.boot.startNs = s.now ∧ u.obj 0x00010 0 = (s.obj 0x00010 0 + 1) % 2 ^ 32 ∧
    u.mgmt.store.find? (okey 0x00010 0) = some (u.obj 0x00010 0) ∧ u.mgmt.idKey = key ∧
    (Config.sha3 (leBytes 1312 key.toNat) = s.mgmt.idDigest → u.obj 0x00030 0 = 1 ∧ u.mgmt.keys = s.mgmt.keyStore) ∧
    (Config.sha3 (leBytes 1312 key.toNat) ≠ s.mgmt.idDigest → u.obj 0x00030 0 = 2 ∧ u.mgmt.keys = s.mgmt.keys) ∧
    u.cask.records = s.cask.records ∧ u.mem = s.mem ∧
    (s.obj 0x80000 0 ≠ 2 → s.power.onHoldUp = false → s.cask.queue.length < 256 → ∃ r q, u.cask.queue = s.cask.queue ++ r :: q ∧ r.type = 0x0001) ∧
    (s.imageReason a = 0 → u.mgmt.fw.running = a ∧ u.mgmt.fw.runs = true ∧ u.activeSlot = 0 ∧
      u.boot.phase = (if s.pins.perstN then .ramped else .image)) ∧
    (s.imageReason a ≠ 0 → s.imageReason b = 0 → u.mgmt.fw.running = b ∧ u.mgmt.fw.runs = true ∧ u.activeSlot = 1 ∧
      u.boot.phase = (if s.pins.perstN then .ramped else .image)) ∧
    (s.imageReason a ≠ 0 → s.imageReason b ≠ 0 → u.boot.phase = .rom ∧ u.mgmt.fw.runs = s.mgmt.fw.runs ∧
      u.obj 0xA0012 0 = s.imageReason b)) ∧
  (∀ t : SelfTest, ∀ s : State, (s.boot.phase ≠ .ramped ∨ s.power.hold ≠ .none → exec (.trainingDone t) s = .next s) ∧
    (s.boot.phase = .ramped → s.power.hold = .none → ∃ u, exec (.trainingDone t) s = .next u ∧ u.boot = { s.boot with phase := .trained } ∧
      u.groups = s.groups ∧ u.cask.records = s.cask.records ∧ (∀ p, u.trainedAt p = (s.now, t.stackMc.get 0 (p / 64))) ∧
      (∀ q, q < 32 → u.obj 0x40002 q = if q ∈ t.lpSlow then 8533 else 9600) ∧
      ∀ h, h < 16 → u.obj 0x40001 h = let r := t.hbmRate.get 9600 h; if r = 9600 ∨ r = 8000 then r else 0)) ∧
  (∀ t : SelfTest, ∀ s : State, (s.boot.phase ≠ .trained ∨ s.power.hold ≠ .none → exec (.selfTestDone t) s = .next s) ∧
    (s.boot.phase = .trained → s.power.hold = .none → ∃ u, exec (.selfTestDone t) s = .next u ∧ u.mem.hbm = s.mem.hbm ∧
      (t.silentDie ≠ none ∨ (∃ h, h < 16 ∧ (s.obj 0x40001 h = 0 ∨ 2 < (s.failedOf t h).length)) ∨
        (∃ i, i < 16 ∧ (s.lp (2 * i)).failed = true ∧ (s.lp (2 * i + 1)).failed = true) →
          u.boot = { s.boot with phase := .stopped }) ∧
      (t.silentDie = none → (∀ h, h < 16 → s.obj 0x40001 h ≠ 0 ∧ (s.failedOf t h).length ≤ 2) →
        (∀ i, i < 16 → (s.lp (2 * i)).failed = false ∨ (s.lp (2 * i + 1)).failed = false) →
          u.boot = { s.boot with phase := .tested, memoryActive := true, adminServed := true }))) ∧
  (∀ s : State, (s.boot.phase ≠ .tested ∨ s.power.hold ≠ .none → exec .conveyorStart s = .next s) ∧
    (s.boot.phase = .tested → s.power.hold = .none → ∃ u, exec .conveyorStart s = .next u ∧ u = { s with conv := u.conv, wort := u.wort, boot := u.boot } ∧
      u.boot = { s.boot with phase := .started } ∧ u.conv.rev = 0 ∧ u.conv.acc = 0 ∧ u.conv.span = s.conv.span ∧ u.conv.m = s.convClock ∧
      u.conv.state = if s.conv.span.n = 1 then .running else .forming))

/-- Health polls, sparing, lanes and cables. A unit that misses 10 polls in a row is lost: of a lost cluster every group
is gone and its store reads 0; a lost die breaks the conveyor and takes its Kiln. Fewer misses are counted, an answer
clears the count. A swap gives the place of a lost cluster to the lowest spare of its die; a station that cannot get
back to eight clusters is withdrawn. A lane with more than 21,250 errors, or without lock, degrades: the first of a
fabric port takes it down to train without it. A failed port trains again on its good lanes. Cables switch their
supply, their lanes and their ports; PRESENT_N is only recorded. (R463, R466, R467, R468, R470, R471, R472, R477,
R535, R542, 14_resilience_and_cask.md) -/
def Obligations.LossAndRepair : Prop :=
  (∀ l, ∀ s : State, s.polls = false → exec (.healthPoll l) s = .next s) ∧
  (∀ s : State, s.polls = true → exec (.healthPoll []) s = .next { s with health.missed := [] }) ∧
  (∀ x, ∀ s : State, s.polls = true → x ∉ s.health.lost → s.health.missed.get 0 (pollNumber x) < 9 →
    exec (.healthPoll [x]) s = .next { s with health.missed := [(pollNumber x, s.health.missed.get 0 (pollNumber x) + 1)] }) ∧
  (∀ c : Fin 1088, ∀ s : State, s.polls = true → .cluster c ∉ s.health.lost → c.val ∉ s.health.absent →
    9 ≤ s.health.missed.get 0 (pollNumber (.cluster c)) → ∃ u, exec (.healthPoll [.cluster c]) s = .next u ∧ .cluster c ∈ u.health.lost ∧
    c.val ∈ u.health.absent ∧ (∀ g ∈ u.groups, clusterKeyOf g.1 ≠ c.val) ∧ u.mem.hbm = s.mem.hbm ∧
    (∀ a, c.val * 4194304 ≤ a → a < (c.val + 1) * 4194304 → memGet u.mem.store a = 0) ∧
    (∀ a, a < c.val * 4194304 ∨ (c.val + 1) * 4194304 ≤ a → memGet u.mem.store a = memGet s.mem.store a)) ∧
  (∀ d : Fin 8, ∀ s : State, s.polls = true → .die d ∉ s.health.lost → 9 ≤ s.health.missed.get 0 (pollNumber (.die d)) → ∃ u,
    exec (.healthPoll [.die d]) s = .next u ∧ .die d ∈ u.health.lost ∧ .kiln d ∈ u.health.lost ∧ u.conv.state = .broken ∧
    Bank.find? u.kilns d.val = none) ∧
  (∀ v : Fin 64, ∀ s : State, (s.hasContext v.val = true → exec (.clusterSwap v) s = .next s) ∧
    (s.hasContext v.val = false → (∀ cl ∈ (s.stationsOf v.val).flatMap s.stationClusters,
      cl ∉ s.health.absent ∧ cl ∉ s.health.pendingRetire) → exec (.clusterSwap v) s = .next s) ∧
    (∀ cl st spare l, s.hasContext v.val = false → s.health.pendingRetire = [] → ((s.stationsOf v.val).flatMap s.stationClusters).filter
      (fun c => s.health.absent.contains c) = [cl] → s.stationOf cl = some st → s.sparesOf (cl / 136) = spare :: l → ∃ u,
      exec (.clusterSwap v) s = .next u ∧ u = { s with health := u.health, mgmt := u.mgmt, cask := u.cask } ∧ spare ∈ u.stationClusters st ∧
      (cl ≠ spare → cl ∉ u.stationClusters st) ∧ cl ∉ u.health.absent ∧ cl ∈ u.health.repair.clusters)) ∧
  (∀ st : Fin 128, ∀ s : State, (s.shortStation st.val = false → exec (.stationWithdraw st) s = .next s) ∧
    (s.shortStation st.val = true → s.viOfStation st.val = none → ∃ u, exec (.stationWithdraw st) s = .next u ∧
      u = { s with health := u.health, mgmt := u.mgmt, cask := u.cask } ∧ st.val ∈ u.health.withdrawn ∧ st.val ∈ u.health.repair.stations ∧
      u.obj 0x00006 (st.val / 16) = s.obj 0x00006 (st.val / 16) - 8)) ∧
  (∀ (p : Fin 32) (i : Fin 4) n, ∀ s : State, n ≤ 21250 → exec (.laneErrorCheck (.fab p i) n) s = .next s) ∧
  (∀ (down : Bool) (i : Fin 64) n d, ∀ s : State, d = (if down then 1 else 0) → n ≤ 21250 →
    ∃ u, exec (.laneErrorCheck (.span down i) n) s = .next u ∧ u = { s with health.spanSpared := u.health.spanSpared } ∧
      ∀ g, g ∈ Bank.get u.health.spanSpared [] d ↔ g ∈ Bank.get s.health.spanSpared [] d ∧
        ¬(g = i.val / 4 ∧ (s.conv.state = .halted ∨ s.conv.state = .forming))) ∧
  (∀ (l : Lane) n, ∀ s : State, 21250 < n → ∃ u, exec (.laneErrorCheck l n) s = .next u ∧ exec (.laneLosesLock l) s = .next u) ∧
  (∀ (p : Fin 32) (i : Fin 4), ∀ s : State, (s.port p.val).up = true → s.cabled p.val = true → Bank.get s.health.fabDegraded [] p.val = [] → ∃ u,
    exec (.laneLosesLock (.fab p i)) s = .next u ∧ Bank.get u.health.fabDegraded [] p.val = [i.val] ∧ (u.port p.val).state = 1 ∧
    u.obj 0x50106 p.val = (s.obj 0x50106 p.val + 1) % 2 ^ 64) ∧
  (∀ (down : Bool) (i : Fin 64) d, ∀ s : State, s.conv.span.n ≠ 1 → d = (if down then 1 else 0) → i.val / 4 ∉ Bank.get s.health.spanDegraded [] d →
    i.val / 4 ∉ Bank.get s.health.spanSpared [] d → ∃ u, exec (.laneLosesLock (.span down i)) s = .next u ∧ u = { s with health := u.health } ∧
    Bank.get u.health.spanDegraded [] d = Bank.get s.health.spanDegraded [] d ++ [i.val / 4]) ∧
  (∀ (p : Fin 32) (good : BitVec 4), ∀ s : State, ((s.port p.val).state ≠ 4 ∨ s.cabled p.val = false →
      exec (.fabPortRetryHourly p good) s = .next s) ∧
    ((s.port p.val).state = 4 → s.cabled p.val = true → (good = 0xF#4 → ∃ u, exec (.fabPortRetryHourly p good) s = .next u ∧
        (u.port p.val).state = 1 ∧ Bank.get u.health.fabDegraded [] p.val = []) ∧
      (good = 0 → ∃ u, exec (.fabPortRetryHourly p good) s = .next u ∧ (u.port p.val).state = 4))) ∧
  (∀ (down : Bool) (g : Fin 16) d, ∀ s : State, d = (if down then 1 else 0) →
    (s.conv.span.n ≠ 1 → s.conv.k2 = true → s.moving = true → g.val ∉ Bank.get s.health.spanSpared [] d → ∃ u,
      exec (.spanLaneSpare down g) s = .next u ∧ u = { s with health := u.health } ∧ g.val ∈ Bank.get u.health.spanNamed [] d) ∧
    (s.conv.span.n = 1 ∨ s.conv.k2 = false ∨ s.moving = false ∨ g.val ∈ Bank.get s.health.spanSpared [] d →
      exec (.spanLaneSpare down g) s = .next s)) ∧
  (∀ (c : Conn) r a, ∀ s : State, ((s.pins.cables.get {} (connKey c)).present = true → exec (.cableInsert c r a) s = .next s) ∧
    ((s.pins.cables.get {} (connKey c)).present = false → ∃ u, exec (.cableInsert c r a) s = .next u ∧
      u.pins.cables.get {} (connKey c) = { present := true, active := r && a, supply := r && a, overcurrent := false, lanesUp := true } ∧
      u.cask = s.cask ∧ u.conv = s.conv)) ∧
  (∀ (c : Conn) x, ∀ s : State, x = s.pins.cables.get {} (connKey c) →
    (x.supply = false → exec (.cableOvercurrent c) s = .next s) ∧ (x.present = false → exec (.cableRemove c) s = .next s) ∧
    (x.supply = true → ∃ u, exec (.cableOvercurrent c) s = .next u ∧ u.pins.cables.get {} (connKey c) =
      { x with supply := false, overcurrent := true, lanesUp := false } ∧ ∀ j i, c = .fab j → i < 8 → u.port (8 * j.val + i) = {}) ∧
    (x.present = true → ∃ u, exec (.cableRemove c) s = .next u ∧ u.pins.cables.get {} (connKey c) = {} ∧
      ∀ j i, c = .fab j → i < 8 → u.port (8 * j.val + i) = {})) ∧
  (∀ s : State, exec .presentNHigh s = .next { s with pins.presentN := true })

/-- What reset leaves. At reset the registers hold the values that their tables give, memory lists nothing and is in
canonical form, no command waits, no group, kernel, launch, context or queue exists, the conveyor stands, no step is
named, PERST_N holds the module, and no port is up. (Values that the specification gives; those that the model chose
are named in the assumption log and not stated here.) (R439, R524, 12_host_interface.md,
13_management_and_security.md, 16_power_clocks_start.md) -/
def Obligations.ResetValues : Prop :=
  State.reset.pending = [] ∧ State.reset.groups = [] ∧ State.reset.host.kernels = [] ∧ State.reset.host.launches = [] ∧
  State.reset.host.ctxs = [] ∧ State.reset.host.queues = [] ∧ State.reset.host.numVfs = 0 ∧ State.reset.conv.state = .stopped ∧
  State.reset.steps.open_ = none ∧ State.reset.steps.closed = none ∧ State.reset.pins.perstN = false ∧
  State.reset.boot.memoryActive = false ∧ State.reset.now = 0 ∧ Safety.memoryWf State.reset = true ∧
  State.reset.mem.hbm = [] ∧ State.reset.mem.host = [] ∧ State.reset.mem.store = [] ∧ (∀ p, (State.reset.port p).up = false) ∧
  State.reset.obj 0x00024 0 = 15 ∧ State.reset.obj 0x10010 0 = 42000 ∧ State.reset.obj 0x10011 0 = 38000 ∧
  State.reset.obj 0x10012 0 = 44000 ∧ State.reset.obj 0x10020 0 = 4700 ∧ State.reset.obj 0x20020 0 = 45000 ∧
  State.reset.obj 0x20021 0 = 6000 ∧ State.reset.obj 0x40010 0 = 64 ∧ State.reset.obj 0x60100 0 = 0
end

