-- ==== Sys2Proof/Laws/Bank.lean ====
section
/-!
SUPPORT. The laws of banks and of memories: what is read after a write, and that every operation keeps the canonical form.
-/

namespace Sys2Proof

variable {α : Type}

@[simp] theorem Bank.find?_put_self (b : Bank α) (k : Nat) (v : α) : Bank.find? (Bank.put b k v) k = some v := by
  induction b with
  | nil => simp [Bank.put, Bank.find?]
  | cons x r ih =>
    obtain ⟨k', v'⟩ := x
    unfold Bank.put
    split
    · simp [Bank.find?]
    · split
      · simp [Bank.find?]
      · rename_i h
        simp [Bank.find?, h, ih]

theorem Bank.find?_put_ne (b : Bank α) (j k : Nat) (v : α) (h : j ≠ k) :
    Bank.find? (Bank.put b k v) j = Bank.find? b j := by
  induction b with
  | nil => simp [Bank.put, Bank.find?, h.symm]
  | cons x r ih =>
    obtain ⟨k', v'⟩ := x
    unfold Bank.put
    split
    · simp [Bank.find?, h.symm]
    · split
      · rename_i e
        subst e
        simp [Bank.find?, h.symm]
      · simp [Bank.find?, ih]

theorem Bank.find?_erase_ne (b : Bank α) (j k : Nat) (h : j ≠ k) : Bank.find? (Bank.erase b k) j = Bank.find? b j := by
  induction b with
  | nil => rfl
  | cons x r ih =>
    obtain ⟨k', v'⟩ := x
    unfold Bank.erase
    split
    · rename_i e
      subst e
      simp [Bank.find?, h.symm, ih]
    · simp [Bank.find?, ih]

/-- Keys strictly rising. -/
def Bank.sorted (b : Bank α) : Prop := b.Pairwise (fun x y => x.1 < y.1)

@[simp] theorem Bank.find?_erase_self (b : Bank α) (k : Nat) : Bank.find? (Bank.erase b k) k = none := by
  induction b with
  | nil => rfl
  | cons x r ih =>
    obtain ⟨k', v'⟩ := x
    unfold Bank.erase
    split
    · exact ih
    · rename_i e
      simp [Bank.find?, e, ih]

theorem Bank.mem_put (b : Bank α) (k : Nat) (v : α) (x : Nat × α) (h : x ∈ Bank.put b k v) : x = (k, v) ∨ x ∈ b := by
  induction b with
  | nil => simpa [Bank.put] using h
  | cons y r ih =>
    obtain ⟨k', v'⟩ := y
    unfold Bank.put at h
    split at h
    · simpa using h
    · split at h
      · rcases List.mem_cons.mp h with h | h
        · exact .inl h
        · exact .inr (by simp [h])
      · rcases List.mem_cons.mp h with h | h
        · exact .inr (by simp [h])
        · rcases ih h with h | h
          · exact .inl h
          · exact .inr (by simp [h])

theorem Bank.mem_erase (b : Bank α) (k : Nat) (x : Nat × α) (h : x ∈ Bank.erase b k) : x ∈ b := by
  induction b with
  | nil => exact h
  | cons y r ih =>
    obtain ⟨k', v'⟩ := y
    unfold Bank.erase at h
    split at h
    · simp [ih h]
    · rcases List.mem_cons.mp h with h | h
      · simp [h]
      · simp [ih h]

theorem Bank.sorted_put (b : Bank α) (k : Nat) (v : α) (h : b.sorted) : (Bank.put b k v).sorted := by
  induction b with
  | nil => simp [Bank.put, Bank.sorted]
  | cons y r ih =>
    obtain ⟨k', v'⟩ := y
    have hp := List.pairwise_cons.mp h
    unfold Bank.put
    split
    · rename_i lt
      refine List.pairwise_cons.mpr ⟨?_, h⟩
      intro z hz
      rcases List.mem_cons.mp hz with e | e
      · subst e
        exact lt
      · exact Nat.lt_trans lt (hp.1 z e)
    · split
      · rename_i e
        subst e
        exact List.pairwise_cons.mpr ⟨hp.1, hp.2⟩
      · rename_i nlt ne
        refine List.pairwise_cons.mpr ⟨?_, ih hp.2⟩
        intro z hz
        rcases Bank.mem_put r k v z hz with e | e
        · subst e
          exact Nat.lt_of_le_of_ne (Nat.le_of_not_lt nlt) ne
        · exact hp.1 z e

theorem Bank.sorted_erase (b : Bank α) (k : Nat) (h : b.sorted) : (Bank.erase b k).sorted := by
  induction b with
  | nil => exact h
  | cons y r ih =>
    obtain ⟨k', v'⟩ := y
    have hp := List.pairwise_cons.mp h
    unfold Bank.erase
    split
    · exact ih hp.2
    · exact List.pairwise_cons.mpr ⟨fun z hz => hp.1 z (Bank.mem_erase r k z hz), ih hp.2⟩

theorem Bank.wf_iff [DecidableEq α] (b : Bank α) (d : α) : Bank.wf b d = true ↔ b.sorted ∧ ∀ x ∈ b, x.2 ≠ d := by
  simp [Bank.wf, Bank.sorted]

/-- Storing a value keeps the canonical form. -/
theorem Bank.wf_set [DecidableEq α] (b : Bank α) (d v : α) (k : Nat) (h : Bank.wf b d = true) :
    Bank.wf (Bank.set b d k v) d = true := by
  obtain ⟨hs, hd⟩ := (Bank.wf_iff b d).mp h
  unfold Bank.set
  split
  · exact (Bank.wf_iff _ d).mpr ⟨Bank.sorted_erase b k hs, fun x hx => hd x (Bank.mem_erase b k x hx)⟩
  · rename_i ne
    refine (Bank.wf_iff _ d).mpr ⟨Bank.sorted_put b k v hs, fun x hx => ?_⟩
    rcases Bank.mem_put b k v x hx with e | e
    · subst e
      exact ne
    · exact hd x e

/-- Dropping entries keeps the canonical form. -/
theorem Bank.wf_filter [DecidableEq α] (b : Bank α) (d : α) (p : Nat × α → Bool) (h : Bank.wf b d = true) :
    Bank.wf (b.filter p) d = true := by
  obtain ⟨hs, hd⟩ := (Bank.wf_iff b d).mp h
  exact (Bank.wf_iff _ d).mpr ⟨hs.sublist List.filter_sublist, fun x hx => hd x (List.mem_of_mem_filter hx)⟩

/-- A read after a write to the same place gives the value written. -/
@[simp] theorem Bank.get_set_self [DecidableEq α] (b : Bank α) (d v : α) (k : Nat) :
    Bank.get (Bank.set b d k v) d k = v := by
  unfold Bank.get Bank.set
  split
  · rename_i e
    simp [e]
  · simp

/-- A write leaves every other place alone. -/
theorem Bank.get_set_ne [DecidableEq α] (b : Bank α) (d v : α) (j k : Nat) (h : j ≠ k) :
    Bank.get (Bank.set b d k v) d j = Bank.get b d j := by
  unfold Bank.get Bank.set
  split
  · rw [Bank.find?_erase_ne b j k h]
  · rw [Bank.find?_put_ne b j k v h]

namespace Machine

theorem memSet_wf (m : List Host.Cell) (a : Nat) (v : Byte) (h : Memory.wf m = true) : Memory.wf (memSet m a v) = true :=
  Bank.wf_set m 0 v a h

theorem memWrite_wf (m : List Host.Cell) (a : Nat) (bs : Bytes) (h : Memory.wf m = true) :
    Memory.wf (memWrite m a bs) = true := by
  induction bs generalizing m a with
  | nil => exact h
  | cons b r ih => exact ih _ _ (memSet_wf m a b h)

theorem memZero_wf (m : List Host.Cell) (a n : Nat) (h : Memory.wf m = true) : Memory.wf (memZero m a n) = true :=
  Bank.wf_filter m 0 _ h

@[simp] theorem memGet_memSet_self (m : List Host.Cell) (a : Nat) (v : Byte) : memGet (memSet m a v) a = v :=
  Bank.get_set_self m 0 v a

theorem memGet_memSet_ne (m : List Host.Cell) (a b : Nat) (v : Byte) (h : b ≠ a) : memGet (memSet m a v) b = memGet m b :=
  Bank.get_set_ne m 0 v b a h

/-- A write changes only its own bytes. -/
theorem memGet_memWrite_outside (m : List Host.Cell) (a : Nat) (bs : Bytes) (b : Nat) (h : b < a ∨ a + bs.length ≤ b) :
    memGet (memWrite m a bs) b = memGet m b := by
  induction bs generalizing m a with
  | nil => rfl
  | cons x r ih =>
    simp only [List.length_cons] at h
    rw [memWrite, ih _ _ (by omega), memGet_memSet_ne _ _ _ _ (by omega)]

/-- Each byte of a write reads back. -/
theorem memGet_memWrite_inside (m : List Host.Cell) (a : Nat) (bs : Bytes) (i : Nat) (h : i < bs.length) : memGet (memWrite m a bs) (a + i) = bs[i] := by
  induction bs generalizing m a i with
  | nil => simp at h
  | cons x r ih =>
    cases i with
    | zero =>
      rw [memWrite, memGet_memWrite_outside _ _ _ _ (by omega)]
      exact memGet_memSet_self m a x
    | succ i =>
      have e : a + (i + 1) = (a + 1) + i := by omega
      rw [memWrite, e, ih _ _ _ (by simpa using h)]
      rfl

theorem reset_memoryWf : Safety.memoryWf State.reset = true := by decide

end Machine

end Sys2Proof
end

