-- ==== Sys2Proof/Laws/KeepsBase.lean ====
section
/-!
SUPPORT. For the shared operations: one lemma per definition that answers a state. Its state has the queue of
waiting commands and the record memory of the Cask as they were before; of a command, that it goes on.
-/

namespace Sys2Proof.Machine

/-! ### Ops -/

/-- `t` has the queue of waiting commands of `s`, and the Cask's record memory with its length. -/
@[simp] abbrev State.keeps (t s : State) : Prop :=
  t.pending = s.pending ∧ t.cask.records = s.cask.records ∧ t.cask.nextSeq = s.cask.nextSeq

/-- A command whose outcome is a next state that keeps these. -/
def Out.keeps (o : Out) (s : State) : Prop :=
  match o with
  | .next t => t.keeps s
  | _ => False

@[simp] theorem Out.keeps_next (t s : State) : Out.keeps (.next t) s = t.keeps s := by simp only [Out.keeps]

@[simp] theorem Out.keeps_ite (c : Prop) [Decidable c] (a b : Out) (s : State) :
    Out.keeps (if c then a else b) s = if c then Out.keeps a s else Out.keeps b s := by split <;> rfl

theorem State.keeps_trans {r t s : State} (g : r.keeps t) (h : t.keeps s) : r.keeps s := by
  simp_all

theorem foldl_keeps {α : Type} (f : State → α → State) (h : ∀ t x, (f t x).keeps t) (l : List α) (s : State) :
    (l.foldl f s).keeps s := by
  induction l generalizing s with
  | nil => simp
  | cons a r ih => simp [List.foldl, ih, h]

theorem foldl_fst_keeps {α β : Type} (f : State × β → α → State × β) (h : ∀ t x, (f t x).1.keeps t.1) (l : List α) (s : State × β) :
    (l.foldl f s).1.keeps s.1 := by
  induction l generalizing s with
  | nil => simp
  | cons a r ih => simp [List.foldl, ih, h]

theorem foldl_snd_keeps {α β : Type} (f : β × State → α → β × State) (h : ∀ t x, (f t x).2.keeps t.2) (l : List α) (s : β × State) :
    (l.foldl f s).2.keeps s.2 := by
  induction l generalizing s with
  | nil => simp
  | cons a r ih => simp [List.foldl, ih, h]

@[simp] theorem foldl_pending {α : Type} (f : State → α → State) (l : List α) (s : State) (h : ∀ t x, (f t x).pending = t.pending) :
    (l.foldl f s).pending = s.pending := by
  induction l generalizing s with
  | nil => rfl
  | cons a r ih => simp [List.foldl, ih, h]

@[simp] theorem foldl_records {α : Type} (f : State → α → State) (l : List α) (s : State) (h : ∀ t x, (f t x).cask.records = t.cask.records) :
    (l.foldl f s).cask.records = s.cask.records := by
  induction l generalizing s with
  | nil => rfl
  | cons a r ih => simp [List.foldl, ih, h]

@[simp] theorem foldl_nextSeq {α : Type} (f : State → α → State) (l : List α) (s : State) (h : ∀ t x, (f t x).cask.nextSeq = t.cask.nextSeq) :
    (l.foldl f s).cask.nextSeq = s.cask.nextSeq := by
  induction l generalizing s with
  | nil => rfl
  | cons a r ih => simp [List.foldl, ih, h]

@[simp] theorem ite_state_pending (c : Prop) [Decidable c] (a b : State) : (if c then a else b).pending = if c then a.pending else b.pending := by
  split <;> rfl

@[simp] theorem ite_state_cask (c : Prop) [Decidable c] (a b : State) : (if c then a else b).cask = if c then a.cask else b.cask := by
  split <;> rfl

@[simp] theorem ite_cask_records (c : Prop) [Decidable c] (a b : Cask) : (if c then a else b).records = if c then a.records else b.records := by
  split <;> rfl

@[simp] theorem ite_cask_nextSeq (c : Prop) [Decidable c] (a b : Cask) : (if c then a else b).nextSeq = if c then a.nextSeq else b.nextSeq := by
  split <;> rfl

@[simp] theorem State.setObj_kept (s : State) (o i v : Nat) :
    (State.setObj s o i v).keeps s := by
  unfold State.setObj
  simp

@[simp] theorem State.bumpBy_kept (s : State) (o i n : Nat) :
    (State.bumpBy s o i n).keeps s := by
  unfold State.bumpBy
  simp

@[simp] theorem State.bump_kept (s : State) (o i : Nat) :
    (State.bump s o i).keeps s := by
  unfold State.bump
  simp

@[simp] theorem State.sendFrame_kept (s : State) (dst : BitVec 48) (bs : Bytes) :
    (State.sendFrame s dst bs).keeps s := by
  unfold State.sendFrame
  simp

@[simp] theorem State.noticeTo_kept (s : State) (dst : BitVec 16) (code object : Nat) :
    (State.noticeTo s dst code object).keeps s := by
  unfold State.noticeTo
  simp

@[simp] theorem State.notice_kept (s : State) (code object : Nat) :
    (State.notice s code object).keeps s := by
  unfold State.notice
  simp

@[simp] theorem State.caskRefuse_kept (s : State) :
    (State.caskRefuse s).keeps s := by
  unfold State.caskRefuse
  simp

@[simp] theorem State.caskEnter_kept (s : State) (t src : Nat) (payload : Bytes) (flags suppressed : Nat) :
    (State.caskEnter s t src payload flags suppressed).keeps s := by
  unfold State.caskEnter
  simp

@[simp] theorem State.caskPost_kept (s : State) (t src : Nat) (payload : Bytes) (flags : Nat) :
    (State.caskPost s t src payload flags).keeps s := by
  unfold State.caskPost
  (repeat' split) <;> simp_all

@[simp] theorem State.noteSpares_kept (s : State) (d : Nat) :
    (State.noteSpares s d).keeps s := by
  unfold State.noteSpares
  simp

@[simp] theorem State.putCtx_kept (s : State) (k : Nat) (c : Ctx) :
    (State.putCtx s k c).keeps s := by
  unfold State.putCtx
  simp

@[simp] theorem State.onCtx_kept (s : State) (k : Nat) (f : Ctx → Ctx) :
    (State.onCtx s k f).keeps s := by
  unfold State.onCtx
  (repeat' split) <;> simp_all

@[simp] theorem State.msi_kept (s : State) (v n : Nat) :
    (State.msi s v n).keeps s := by
  unfold State.msi
  simp

@[simp] theorem State.hostWrite_kept (s : State) (a : Nat) (bs : Bytes) :
    (State.hostWrite s a bs).keeps s := by
  unfold State.hostWrite
  simp

@[simp] theorem State.ringVector_kept (s : State) (k : Nat) (sel : Ctx → Ring) (upd : Ctx → Ring → Ctx) :
    (State.ringVector s k sel upd).keeps s := by
  unfold State.ringVector
  (repeat' split) <;> simp_all

@[simp] theorem State.noteStop_kept (s : State) (k : Nat) :
    (State.noteStop s k).keeps s := by
  unfold State.noteStop
  (repeat' split) <;> simp_all

@[simp] theorem State.writeEvent_kept (s : State) (k : Nat) (c : Ctx) (e : Event) :
    (State.writeEvent s k c e).keeps s := by
  unfold State.writeEvent
  simp

@[simp] theorem State.event_kept (s : State) (k : Nat) (e : Event) :
    (State.event s k e).keeps s := by
  unfold State.event
  (repeat' split) <;> simp_all

@[simp] theorem State.drainEvents_kept (n k : Nat) (s : State) :
    (State.drainEvents n k s).keeps s := by
  induction n generalizing s with
  | zero => simp [State.drainEvents]
  | succ n ih =>
    unfold State.drainEvents
    (repeat' split) <;> simp_all

@[simp] theorem State.adminEvent_kept (s : State) (v : Nat) (e : Event) :
    (State.adminEvent s v e).keeps s := by
  unfold State.adminEvent
  simp

@[simp] theorem State.drainAdmin_kept (n v : Nat) (s : State) :
    (State.drainAdmin n v s).keeps s := by
  induction n generalizing s with
  | zero => simp [State.drainAdmin]
  | succ n ih =>
    unfold State.drainAdmin
    (repeat' split) <;> simp_all

@[simp] theorem State.wideEvent_kept (s : State) (k type cookie status step item wide : Nat) :
    (State.wideEvent s k type cookie status step item wide).keeps s := by
  unfold State.wideEvent
  (repeat' split) <;> simp_all

@[simp] theorem State.illegal_kept (s : State) (v cookie queue opcode reason : Nat) :
    (State.illegal s v cookie queue opcode reason).keeps s := by
  unfold State.illegal
  simp

@[simp] theorem State.clearPages_kept (s : State) (pages : List Nat) (bytes : Nat) :
    (State.clearPages s pages bytes).keeps s := by
  unfold State.clearPages
  simp

@[simp] theorem State.releaseObj_kept (s : State) (ok : Nat) (o : MemObj) :
    (State.releaseObj s ok o).keeps s := by
  unfold State.releaseObj
  (repeat' split) <;> simp_all

@[simp] theorem State.takeObj_kept (s : State) (ok : Nat) :
    (State.takeObj s ok).keeps s := by
  unfold State.takeObj
  (repeat' split) <;> simp_all

@[simp] theorem State.dropObj_kept (s : State) (ok : Nat) :
    (State.dropObj s ok).keeps s := by
  unfold State.dropObj
  (repeat' split) <;> simp_all

@[simp] theorem State.dropObjHost_kept (s : State) (ok : Nat) :
    (State.dropObjHost s ok).keeps s := by
  unfold State.dropObjHost
  (repeat' split) <;> simp_all

@[simp] theorem State.freeWord_kept (s : State) :
    (State.freeWord s).2.keeps s := by
  unfold State.freeWord
  simp

/-! ### Tick -/

@[simp] theorem State.keepBucket_kept (s : State) (v : Nat) :
    (State.keepBucket s v).keeps s := by
  unfold State.keepBucket
  simp

@[simp] theorem State.turnBuckets_kept (s : State) :
    (State.turnBuckets s).keeps s := by
  unfold State.turnBuckets
  simp

@[simp] theorem State.creditBuckets_kept (s : State) :
    (State.creditBuckets s).keeps s := by
  unfold State.creditBuckets
  simp

@[simp] theorem State.tick_kept (s : State) :
    (State.tick s).keeps s := by
  unfold State.tick
  simp

/-! ### Operands -/

@[simp] theorem State.writePlace_kept (s : State) (p : Place) (bs : Bytes) :
    (State.writePlace s p bs).keeps s := by
  unfold State.writePlace
  (repeat' split) <;> simp_all

@[simp] theorem State.writeVirt_kept (s : State) (k va : Nat) (bs : Bytes) :
    (State.writeVirt s k va bs).keeps s := by
  unfold State.writeVirt
  refine foldl_fst_keeps _ ?_ _ _
  intro t x
  split <;> simp

@[simp] theorem State.storeWrite_kept (s : State) (cluster o : Nat) (bs : Bytes) : (s.storeWrite cluster o bs).keeps s := by
  induction bs generalizing s o with
  | nil => simp [State.storeWrite]
  | cons b r ih => simp [State.storeWrite, ih]

/-! ### Commands -/

@[simp] theorem State.putQueue_kept (s : State) (v q : Nat) (x : Queue) :
    (State.putQueue s v q x).keeps s := by
  unfold State.putQueue
  simp

@[simp] theorem State.putCmd_kept (s : State) (r : CmdRef) (c : Cmd) :
    (State.putCmd s r c).keeps s := by
  unfold State.putCmd
  (repeat' split) <;> simp_all

@[simp] theorem State.removeCmd_kept (s : State) (r : CmdRef) :
    (State.removeCmd s r).keeps s := by
  unfold State.removeCmd
  (repeat' split) <;> simp_all

@[simp] theorem State.takeKernel_kept (s : State) (kk : Nat) :
    (State.takeKernel s kk).keeps s := by
  unfold State.takeKernel
  (repeat' split) <;> simp_all

@[simp] theorem State.settleKernel_kept (s : State) (kk : Nat) (k : Kernel) :
    (State.settleKernel s kk k).keeps s := by
  unfold State.settleKernel
  simp

@[simp] theorem State.dropKernel_kept (s : State) (kk : Nat) :
    (State.dropKernel s kk).keeps s := by
  unfold State.dropKernel
  (repeat' split) <;> simp_all

@[simp] theorem State.takeTl_kept (s : State) (tk : Nat) :
    (State.takeTl s tk).keeps s := by
  unfold State.takeTl
  (repeat' split) <;> simp_all

@[simp] theorem State.settleTl_kept (s : State) (tk : Nat) (t : Timeline) :
    (State.settleTl s tk t).keeps s := by
  unfold State.settleTl
  simp

@[simp] theorem State.dropTl_kept (s : State) (tk : Nat) :
    (State.dropTl s tk).keeps s := by
  unfold State.dropTl
  (repeat' split) <;> simp_all

@[simp] theorem State.dropRefs_kept (s : State) (c : Cmd) :
    (State.dropRefs s c).keeps s := by
  unfold State.dropRefs
  simp

@[simp] theorem State.finish_kept (s : State) (r : CmdRef) (status detail : Nat) :
    (State.finish s r status detail).keeps s := by
  unfold State.finish
  (repeat' split) <;> simp_all

@[simp] theorem State.keepBusy_kept (s : State) (r : CmdRef) :
    (State.keepBusy s r).keeps s := by
  unfold State.keepBusy
  (repeat' split) <;> simp_all

@[simp] theorem State.settleQueue_kept (s : State) (v q : Nat) :
    (State.settleQueue s v q).keeps s := by
  unfold State.settleQueue
  (repeat' split) <;> simp_all

@[simp] theorem State.illegalCmd_kept (s : State) (r : CmdRef) (reason : Nat) :
    (State.illegalCmd s r reason).keeps s := by
  unfold State.illegalCmd
  (repeat' split) <;> simp_all

@[simp] theorem runCmd_kept (op : Nat) (r : CmdRef) (body : Cmd → Nat → State → State) (s : State)
    (h : ∀ c k t, (body c k t).keeps t) : Out.keeps (runCmd op r body s) s := by
  unfold runCmd
  (repeat' split) <;> simp_all

/-! ### Groups -/

@[simp] theorem State.putGroup_kept (s : State) (gk : Nat) (g : Group) :
    (State.putGroup s gk g).keeps s := by
  unfold State.putGroup
  simp

@[simp] theorem State.putCore_kept (s : State) (ck : Nat) (c : Core) :
    (State.putCore s ck c).keeps s := by
  unfold State.putCore
  simp

@[simp] theorem State.putCluster_kept (s : State) (c : Nat) (x : Cluster) :
    (State.putCluster s c x).keeps s := by
  unfold State.putCluster
  simp

@[simp] theorem State.enterFault_kept (s : State) (c : Ctx) (r : FaultRec) :
    (State.enterFault s c r).keeps s := by
  unfold State.enterFault
  simp

@[simp] theorem State.writeFault_kept (s : State) (r : FaultRec) :
    (State.writeFault s r).keeps s := by
  unfold State.writeFault
  (repeat' split) <;> simp_all

@[simp] theorem State.drainFaults_kept (n k : Nat) (s : State) :
    (State.drainFaults n k s).keeps s := by
  induction n generalizing s with
  | zero => simp [State.drainFaults]
  | succ n ih =>
    unfold State.drainFaults
    (repeat' split) <;> simp_all

@[simp] theorem State.ignoreReplay_kept (s : State) (g : Group) :
    (State.ignoreReplay s g).keeps s := by
  unfold State.ignoreReplay
  (repeat' split) <;> simp_all

@[simp] theorem State.park_kept (s : State) (gk : Nat) (f : FaultInfo) :
    (State.park s gk f).keeps s := by
  unfold State.park
  (repeat' split) <;> simp_all

@[simp] theorem State.parkAll_kept (s : State) (gk : Nat) (l : List FaultInfo) :
    (State.parkAll s gk l).keeps s := by
  unfold State.parkAll
  simp

@[simp] theorem State.takeAsync_kept (s : State) (gk : Nat) (g : Group) :
    (State.takeAsync s gk g).keeps s := by
  unfold State.takeAsync
  simp

@[simp] theorem State.fetched_kept (s : State) (gk : Nat) (g : Group) :
    (State.fetched s gk g).keeps s := by
  unfold State.fetched
  simp

/-- The state that an instruction's result holds keeps the queue and the Cask's records. -/
def Res.keeps (r : Res) (s : State) : Prop :=
  match r with
  | .next t _ => t.keeps s
  | .goto t _ _ => t.keeps s
  | .hold t _ => t.keeps s
  | .fault _ => True
  | .faultAt t _ => t.keeps s

@[simp] theorem Res.keeps_next (t s : State) (g : Group) : Res.keeps (.next t g) s =
    (t.keeps s) := by simp only [Res.keeps]

@[simp] theorem Res.keeps_goto (t s : State) (g : Group) (p : BitVec 48) : Res.keeps (.goto t g p) s =
    (t.keeps s) := by simp only [Res.keeps]

@[simp] theorem Res.keeps_hold (t s : State) (g : Group) : Res.keeps (.hold t g) s =
    (t.keeps s) := by simp only [Res.keeps]

@[simp] theorem Res.keeps_fault (f : FaultInfo) (s : State) : Res.keeps (.fault f) s = True := by simp only [Res.keeps]

@[simp] theorem Res.keeps_faultAt (t s : State) (f : FaultInfo) : Res.keeps (.faultAt t f) s =
    (t.keeps s) := by simp only [Res.keeps]

@[simp] theorem Res.keeps_ite (c : Prop) [Decidable c] (a b : Res) (s : State) :
    Res.keeps (if c then a else b) s = if c then Res.keeps a s else Res.keeps b s := by split <;> rfl

theorem Res.keeps_cases {c : Prop} [Decidable c] {a b : Res} {s : State} (h : c → Res.keeps a s) (k : ¬c → Res.keeps b s) :
    Res.keeps (if c then a else b) s := by split <;> simp_all

@[simp] theorem Res.finish_kept (gk : Nat) (s : State) (r : Res) (h : Res.keeps r s) :
    (Res.finish gk s r).keeps s := by
  cases r <;> simp_all [Res.finish]

@[simp] theorem runWord_kept (gid : Gid) (w : Instr64) (regs : List Nat) (body : Group → State → Res) (s : State)
    (h : ∀ g t, Res.keeps (body g t) t) :
    Out.keeps (runWord gid w regs body s) s := by
  unfold runWord
  dsimp only
  (repeat' split) <;> simp_all

@[simp] theorem runInstr_kept (opc : Nat) (gid : Gid) (w : Instr64) (regs : List Nat) (body : Group → State → Res) (s : State)
    (h : ∀ g t, Res.keeps (body g t) t) :
    Out.keeps (runInstr opc gid w regs body s) s := by
  unfold runInstr
  split <;> simp_all

/-! ### FabricOps -/

@[simp] theorem whenActive_keeps (g : Group) (s : State) (r : Res) (h : Res.keeps r s) : Res.keeps (whenActive g s r) s := by
  unfold whenActive
  split <;> simp_all

@[simp] theorem State.putPort_kept (s : State) (p : Nat) (x : Port) :
    (State.putPort s p x).keeps s := by
  unfold State.putPort
  simp

@[simp] theorem State.txFrame_kept (s : State) (port : Nat) (m : Moving) :
    (State.txFrame s port m).keeps s := by
  unfold State.txFrame
  simp

@[simp] theorem State.sendPacket_kept (n : Nat) (m : Moving) (s : State) :
    (State.sendPacket n m s).keeps s := by
  induction n generalizing m s with
  | zero => simp [State.sendPacket]
  | succ n ih =>
    unfold State.sendPacket
    dsimp only
    (repeat' split) <;> simp_all

@[simp] theorem State.send_kept (s : State) (p : Packet) :
    (State.send s p).keeps s := by
  unfold State.send
  simp

@[simp] theorem State.sendAll_kept (s : State) (l : List Moving) :
    (State.sendAll s l).keeps s := by
  unfold State.sendAll
  simp

@[simp] theorem State.releaseDelayed_kept (s : State) :
    (State.releaseDelayed s).keeps s := by
  unfold State.releaseDelayed
  simp

@[simp] theorem State.fabIssue_kept (s : State) (k : Nat) (gid : Option Nat) (type node window offset len : Nat) (payload : Bytes) (dest : List (Nat × Nat × Nat × Nat)) (dma : Option (Nat × Nat)) :
    (State.fabIssue s k gid type node window offset len payload dest dma).keeps s := by
  unfold State.fabIssue
  simp

@[simp] theorem State.fabLeave_kept (s : State) (n : Nat) (o : Outstanding) :
    (State.fabLeave s n o).keeps s := by
  unfold State.fabLeave
  simp

@[simp] theorem State.creditsFor_kept (s : State) (src : Nat) :
    (State.creditsFor s src).2.keeps s := by
  unfold State.creditsFor
  dsimp only
  (repeat' split) <;> simp_all

@[simp] theorem State.respond_kept (s : State) (p : Packet) (type status : Nat) (seq : BitVec 16) (data : Bytes) (extra : Nat) (epoch : BitVec 8) :
    (State.respond s p type status seq data extra epoch).keeps s := by
  unfold State.respond
  simp

@[simp] theorem State.refuse_kept (s : State) (p : Packet) (status : Nat) :
    (State.refuse s p status).keeps s := by
  unfold State.refuse
  simp

@[simp] theorem State.openSource_kept (s : State) (p : Packet) :
    (State.openSource s p).keeps s := by
  unfold State.openSource
  (repeat' split) <;> simp_all

@[simp] theorem State.notePerformed_kept (s : State) (p : Packet) :
    (State.notePerformed s p).keeps s := by
  unfold State.notePerformed
  (repeat' split) <;> simp_all

theorem State.arrive_kept (s : State) (p : Packet) (fresh : State → State)
    (h : ∀ t, (fresh t).keeps t) :
    (s.arrive p fresh).keeps s := by
  unfold State.arrive
  split <;> simp_all

/-! ### Arbiter -/

@[simp] theorem State.onArb_kept (s : State) (c : ArbClass) (inst : Nat) (t : Nat) (f : Arb → Arb) :
    (State.onArb s c inst t f).keeps s := by
  unfold State.onArb
  simp

@[simp] theorem State.settleClass_kept (s : State) (die : Nat) (c : ArbClass) (t : Nat) :
    (State.settleClass s die c t).keeps s := by
  unfold State.settleClass
  simp

@[simp] theorem State.writePriority_kept (s : State) (die : Nat) (c : ArbClass) (j value cycle : Nat) :
    (State.writePriority s die c j value cycle).keeps s := by
  unfold State.writePriority
  simp

/-! ### MemoryOps -/

@[simp] theorem State.putLines_kept (s : State) (k : Nat) (l : List SliceLine) :
    (State.putLines s k l).keeps s := by
  unfold State.putLines
  simp

@[simp] theorem State.charge_kept (s : State) (v d : Nat) :
    (State.charge s v d).keeps s := by
  unfold State.charge
  simp

@[simp] theorem State.unusedPrefetch_kept (s : State) (sector : Nat) :
    (State.unusedPrefetch s sector).keeps s := by
  unfold State.unusedPrefetch
  simp

@[simp] theorem State.lineOut_kept (s : State) (k : Nat) (x : SliceLine) :
    (State.lineOut s k x).keeps s := by
  unfold State.lineOut
  simp

@[simp] theorem State.lineIn_kept (s : State) (k : Nat) (x : SliceLine) :
    (State.lineIn s k x).keeps s := by
  unfold State.lineIn
  dsimp only
  (repeat' split) <;> simp_all

@[simp] theorem State.homeUse_kept (s : State) (p : Place) :
    (State.homeUse s p).keeps s := by
  unfold State.homeUse
  simp

@[simp] theorem State.homeRead_kept (s : State) (d : Nat) (p : Place) :
    (State.homeRead s d p).keeps s := by
  unfold State.homeRead
  (repeat' split) <;> simp_all

@[simp] theorem State.homeWrite_kept (s : State) (v : Nat) (p : Place) :
    (State.homeWrite s v p).keeps s := by
  unfold State.homeWrite
  (repeat' split) <;> simp_all

@[simp] theorem State.homeWrites_kept (s : State) (v : Nat) (p : Place) (n : Nat) :
    (State.homeWrites s v p n).keeps s := by
  unfold State.homeWrites
  simp

@[simp] theorem State.clearPoison_kept (s : State) (p : Place) (n : Nat) :
    (State.clearPoison s p n).keeps s := by
  unfold State.clearPoison
  (repeat' split) <;> simp_all

@[simp] theorem State.hbmUe_kept (s : State) (a requester : Nat) :
    (State.hbmUe s a requester).keeps s := by
  unfold State.hbmUe
  simp

@[simp] theorem State.clusterUe_kept (s : State) (cl : Nat) :
    (State.clusterUe s cl).keeps s := by
  unfold State.clusterUe
  simp

@[simp] theorem State.dropTags_kept (s : State) (p : Place) (n : Nat) :
    (State.dropTags s p n).keeps s := by
  unfold State.dropTags
  simp

@[simp] theorem State.raiseBanks_kept (s : State) (cl req : Nat) (l : List (Nat × Nat)) :
    (State.raiseBanks s cl req l).keeps s := by
  unfold State.raiseBanks
  (repeat' split) <;> simp_all

@[simp] theorem State.raiseEndpoint_kept (s : State) (p : Place) (node units : Nat) :
    (State.raiseEndpoint s p node units).keeps s := by
  unfold State.raiseEndpoint
  simp

@[simp] theorem State.raiseLines_kept (s : State) (k : Nat) (acc : Acc) (addrs : List Nat) :
    (State.raiseLines s k acc addrs).keeps s := by
  unfold State.raiseLines
  refine foldl_keeps _ ?_ _ _
  intro t x
  (try dsimp only)
  (repeat' split) <;> simp_all

@[simp] theorem State.settlePrefetch_kept (s : State) (units cl : Nat) :
    (State.settlePrefetch s units cl).keeps s := by
  unfold State.settlePrefetch
  simp

@[simp] theorem State.fenceCaches_kept (s : State) (ck : Nat) :
    (State.fenceCaches s ck).keeps s := by
  unfold State.fenceCaches
  simp

@[simp] theorem State.fillCluster_kept (s : State) (units cl k : Nat) (line : Bytes) :
    (State.fillCluster s units cl k line).keeps s := by
  unfold State.fillCluster
  simp

@[simp] theorem State.demandPrefetched_kept (s : State) (cl k : Nat) :
    (State.demandPrefetched s cl k).keeps s := by
  unfold State.demandPrefetched
  simp

@[simp] theorem State.trainTracker_kept (s : State) (cl a : Nat) :
    (State.trainTracker s cl a).keeps s := by
  unfold State.trainTracker
  simp

@[simp] theorem State.followStream_kept (s : State) (cl a : Nat) :
    (State.followStream s cl a).keeps s := by
  unfold State.followStream
  dsimp only
  (repeat' split) <;> simp_all

@[simp] theorem State.dropMiss_kept (s : State) (cl : Nat) (e : MissEntry) :
    (State.dropMiss s cl e).keeps s := by
  unfold State.dropMiss
  simp

@[simp] theorem State.startWait_kept (s : State) (cl : Nat) (o : MissOwner) :
    (State.startWait s cl o).keeps s := by
  unfold State.startWait
  simp

@[simp] theorem State.endWaits_kept (s : State) (cl : Nat) (o : MissOwner) :
    (State.endWaits s cl o).keeps s := by
  unfold State.endWaits
  simp

@[simp] theorem State.arrayRead_kept (s : State) (a : Nat) (ecc : EccResult) (requester : Nat) :
    (State.arrayRead s a ecc requester).keeps s := by
  unfold State.arrayRead
  (repeat' split) <;> simp_all

@[simp] theorem State.readArrays_kept (s : State) (a n requester : Nat) :
    (State.readArrays s a n requester).keeps s := by
  unfold State.readArrays
  simp

@[simp] theorem State.homeFetch_kept (s : State) (pl : Place) (ecc : EccResult) (requester : Nat) :
    (State.homeFetch s pl ecc requester).2.keeps s := by
  unfold State.homeFetch
  (repeat' split) <;> simp_all

@[simp] theorem State.obtain_kept (s : State) (cl v : Nat) (o : MissOwner) (r : SectorReq) :
    (State.obtain s cl v o r).2.keeps s := by
  unfold State.obtain
  dsimp only
  (repeat' split) <;> simp_all

@[simp] theorem State.obtainAll_kept (cl v : Nat) (o : MissOwner) (l : List SectorReq) (got : List Nat) (s : State) :
    (State.obtainAll cl v o l got s).2.2.keeps s := by
  induction l generalizing got s with
  | nil => simp [State.obtainAll]
  | cons r rest ih =>
    unfold State.obtainAll
    dsimp only
    (repeat' split) <;> simp_all

@[simp] theorem State.demandAll_kept (s : State) (cl : Nat) (sectors : List (Nat × Nat)) :
    (State.demandAll s cl sectors).keeps s := by
  unfold State.demandAll
  simp

@[simp] theorem State.freeMiss_kept (s : State) (cl : Nat) (o : MissOwner) :
    (State.freeMiss s cl o).keeps s := by
  unfold State.freeMiss
  simp

@[simp] theorem State.prefetchArrive_kept (s : State) (cl : Nat) (e : MissEntry) :
    (State.prefetchArrive s cl e).keeps s := by
  unfold State.prefetchArrive
  simp

@[simp] theorem State.domainWrite_kept (s : State) (v : Nat) (p : Place) (bs : Bytes) :
    (State.domainWrite s v p bs).keeps s := by
  unfold State.domainWrite
  simp

@[simp] theorem State.clearWhole_kept (s : State) (sectors : List Nat) :
    (State.clearWhole s sectors).keeps s := by
  unfold State.clearWhole
  simp

@[simp] theorem State.patchCaches_kept (s : State) (ck sector o : Nat) (bs : Bytes) :
    (State.patchCaches s ck sector o bs).keeps s := by
  unfold State.patchCaches
  simp

/-! ### Records -/

@[simp] theorem State.stationEvent_kept (s : State) (k st j : Nat) :
    (State.stationEvent s k st j).keeps s := by
  unfold State.stationEvent
  simp

@[simp] theorem State.writeRecord_kept (s : State) (k : Nat) (mk : Nat → Bytes) :
    (State.writeRecord s k mk).keeps s := by
  unfold State.writeRecord
  dsimp only
  (repeat' split) <;> simp_all

@[simp] theorem State.countStep_kept (s : State) (step : BitVec 32) (c : StepCounts) :
    (State.countStep s step c).keeps s := by
  unfold State.countStep
  simp

@[simp] theorem State.countSpec_kept (s : State) (step : BitVec 32) (c : StepCounts) :
    (State.countSpec s step c).keeps s := by
  unfold State.countSpec
  simp

end Sys2Proof.Machine
end

