-- ==== Sys2Proof/Laws/KeepsThreads.lean ====
section
/-!
SUPPORT. For the thread instructions: one lemma per definition that answers a state. Its state has the queue of
waiting commands and the record memory of the Cask as they were before; of a command, that it goes on.
-/

namespace Sys2Proof.Machine

/-! ### ThreadInt -/

@[simp] theorem aluInstr_kept (opc n : Nat) (f : Word → Word → Word → Word) (g : Gid) (w : BitVec 64) (s : State) :
    Out.keeps (aluInstr opc n f g w s) s := by
  unfold aluInstr
  simp

@[simp] theorem cmpInstr_kept (opc : Nat) (rel : Word → Word → Bool) (g : Gid) (w : BitVec 64) (s : State) :
    Out.keeps (cmpInstr opc rel g w s) s := by
  unfold cmpInstr
  simp

@[simp] theorem execIadd_kept (g : Gid) (w : BitVec 64) (s : State) :
    Out.keeps (execIadd g w s) s := by
  unfold execIadd
  simp

@[simp] theorem execIsub_kept (g : Gid) (w : BitVec 64) (s : State) :
    Out.keeps (execIsub g w s) s := by
  unfold execIsub
  simp

@[simp] theorem execImul_kept (g : Gid) (w : BitVec 64) (s : State) :
    Out.keeps (execImul g w s) s := by
  unfold execImul
  simp

@[simp] theorem execImulhi_kept (g : Gid) (w : BitVec 64) (s : State) :
    Out.keeps (execImulhi g w s) s := by
  unfold execImulhi
  simp

@[simp] theorem execImad_kept (g : Gid) (w : BitVec 64) (s : State) :
    Out.keeps (execImad g w s) s := by
  unfold execImad
  simp

@[simp] theorem execImin_kept (g : Gid) (w : BitVec 64) (s : State) :
    Out.keeps (execImin g w s) s := by
  unfold execImin
  simp

@[simp] theorem execImax_kept (g : Gid) (w : BitVec 64) (s : State) :
    Out.keeps (execImax g w s) s := by
  unfold execImax
  simp

@[simp] theorem execIabs_kept (g : Gid) (w : BitVec 64) (s : State) :
    Out.keeps (execIabs g w s) s := by
  unfold execIabs
  simp

@[simp] theorem execAnd_kept (g : Gid) (w : BitVec 64) (s : State) :
    Out.keeps (execAnd g w s) s := by
  unfold execAnd
  simp

@[simp] theorem execOr_kept (g : Gid) (w : BitVec 64) (s : State) :
    Out.keeps (execOr g w s) s := by
  unfold execOr
  simp

@[simp] theorem execXor_kept (g : Gid) (w : BitVec 64) (s : State) :
    Out.keeps (execXor g w s) s := by
  unfold execXor
  simp

@[simp] theorem execNot_kept (g : Gid) (w : BitVec 64) (s : State) :
    Out.keeps (execNot g w s) s := by
  unfold execNot
  simp

@[simp] theorem execShl_kept (g : Gid) (w : BitVec 64) (s : State) :
    Out.keeps (execShl g w s) s := by
  unfold execShl
  simp

@[simp] theorem execShr_kept (g : Gid) (w : BitVec 64) (s : State) :
    Out.keeps (execShr g w s) s := by
  unfold execShr
  simp

@[simp] theorem execSar_kept (g : Gid) (w : BitVec 64) (s : State) :
    Out.keeps (execSar g w s) s := by
  unfold execSar
  simp

@[simp] theorem execPopc_kept (g : Gid) (w : BitVec 64) (s : State) :
    Out.keeps (execPopc g w s) s := by
  unfold execPopc
  simp

@[simp] theorem execClz_kept (g : Gid) (w : BitVec 64) (s : State) :
    Out.keeps (execClz g w s) s := by
  unfold execClz
  simp

@[simp] theorem execMov_kept (g : Gid) (w : BitVec 64) (s : State) :
    Out.keeps (execMov g w s) s := by
  unfold execMov
  simp

@[simp] theorem execIdiv_kept (g : Gid) (w : BitVec 64) (s : State) :
    Out.keeps (execIdiv g w s) s := by
  unfold execIdiv
  simp

@[simp] theorem execIrem_kept (g : Gid) (w : BitVec 64) (s : State) :
    Out.keeps (execIrem g w s) s := by
  unfold execIrem
  simp

@[simp] theorem execIcmp_kept (g : Gid) (w : BitVec 64) (s : State) :
    Out.keeps (execIcmp g w s) s := by
  unfold execIcmp
  simp

@[simp] theorem execSel_kept (g : Gid) (w : BitVec 64) (s : State) :
    Out.keeps (execSel g w s) s := by
  unfold execSel
  simp

@[simp] theorem execMovi_kept (g : Gid) (w : BitVec 64) (s : State) :
    Out.keeps (execMovi g w s) s := by
  unfold execMovi
  simp

/-! ### ThreadFloat -/

@[simp] theorem execFadd_kept (g : Gid) (w : BitVec 64) (s : State) :
    Out.keeps (execFadd g w s) s := by
  unfold execFadd
  simp

@[simp] theorem execFsub_kept (g : Gid) (w : BitVec 64) (s : State) :
    Out.keeps (execFsub g w s) s := by
  unfold execFsub
  simp

@[simp] theorem execFmul_kept (g : Gid) (w : BitVec 64) (s : State) :
    Out.keeps (execFmul g w s) s := by
  unfold execFmul
  simp

@[simp] theorem execFfma_kept (g : Gid) (w : BitVec 64) (s : State) :
    Out.keeps (execFfma g w s) s := by
  unfold execFfma
  simp

@[simp] theorem execFmin_kept (g : Gid) (w : BitVec 64) (s : State) :
    Out.keeps (execFmin g w s) s := by
  unfold execFmin
  simp

@[simp] theorem execFmax_kept (g : Gid) (w : BitVec 64) (s : State) :
    Out.keeps (execFmax g w s) s := by
  unfold execFmax
  simp

@[simp] theorem execFabs_kept (g : Gid) (w : BitVec 64) (s : State) :
    Out.keeps (execFabs g w s) s := by
  unfold execFabs
  simp

@[simp] theorem execFneg_kept (g : Gid) (w : BitVec 64) (s : State) :
    Out.keeps (execFneg g w s) s := by
  unfold execFneg
  simp

@[simp] theorem execFcmp_kept (g : Gid) (w : BitVec 64) (s : State) :
    Out.keeps (execFcmp g w s) s := by
  unfold execFcmp
  simp

@[simp] theorem execFrcp_kept (g : Gid) (w : BitVec 64) (s : State) :
    Out.keeps (execFrcp g w s) s := by
  unfold execFrcp
  simp

@[simp] theorem execFrsq_kept (g : Gid) (w : BitVec 64) (s : State) :
    Out.keeps (execFrsq g w s) s := by
  unfold execFrsq
  simp

@[simp] theorem execFsqrt_kept (g : Gid) (w : BitVec 64) (s : State) :
    Out.keeps (execFsqrt g w s) s := by
  unfold execFsqrt
  simp

@[simp] theorem execFexp2_kept (g : Gid) (w : BitVec 64) (s : State) :
    Out.keeps (execFexp2 g w s) s := by
  unfold execFexp2
  simp

@[simp] theorem execFlog2_kept (g : Gid) (w : BitVec 64) (s : State) :
    Out.keeps (execFlog2 g w s) s := by
  unfold execFlog2
  simp

@[simp] theorem execFsin_kept (g : Gid) (w : BitVec 64) (s : State) :
    Out.keeps (execFsin g w s) s := by
  unfold execFsin
  simp

@[simp] theorem execFcos_kept (g : Gid) (w : BitVec 64) (s : State) :
    Out.keeps (execFcos g w s) s := by
  unfold execFcos
  simp

@[simp] theorem execFtanh_kept (g : Gid) (w : BitVec 64) (s : State) :
    Out.keeps (execFtanh g w s) s := by
  unfold execFtanh
  simp

@[simp] theorem execCvtF2f_kept (g : Gid) (w : BitVec 64) (s : State) :
    Out.keeps (execCvtF2f g w s) s := by
  unfold execCvtF2f
  simp

@[simp] theorem execCvtF2i_kept (g : Gid) (w : BitVec 64) (s : State) :
    Out.keeps (execCvtF2i g w s) s := by
  unfold execCvtF2i
  simp

@[simp] theorem execCvtI2f_kept (g : Gid) (w : BitVec 64) (s : State) :
    Out.keeps (execCvtI2f g w s) s := by
  unfold execCvtI2f
  simp

@[simp] theorem execPack_kept (g : Gid) (w : BitVec 64) (s : State) :
    Out.keeps (execPack g w s) s := by
  unfold execPack
  simp

@[simp] theorem execUnpack_kept (g : Gid) (w : BitVec 64) (s : State) :
    Out.keeps (execUnpack g w s) s := by
  unfold execUnpack
  simp

/-! ### ThreadControl -/

@[simp] theorem execShfl_kept (g : Gid) (w : BitVec 64) (s : State) :
    Out.keeps (execShfl g w s) s := by
  unfold execShfl
  simp

@[simp] theorem execVote_kept (g : Gid) (w : BitVec 64) (s : State) :
    Out.keeps (execVote g w s) s := by
  unfold execVote
  simp

@[simp] theorem execMovu_kept (g : Gid) (w : BitVec 64) (s : State) :
    Out.keeps (execMovu g w s) s := by
  unfold execMovu
  refine runInstr_kept _ _ _ _ _ _ ?_
  intro g t
  (try dsimp only)
  (repeat' split) <;> simp_all

@[simp] theorem execMovs_kept (g : Gid) (w : BitVec 64) (s : State) :
    Out.keeps (execMovs g w s) s := by
  unfold execMovs
  simp

@[simp] theorem branchTo_kept (w : Instr64) (g : Group) (s : State) (target : Int) :
    Res.keeps (branchTo w g s target) s := by
  unfold branchTo
  simp

@[simp] theorem branchTo_keeps (w : Instr64) (g : Group) (s : State) (target : Int) :
    Res.keeps (branchTo w g s target) s := by
  unfold branchTo
  dsimp only
  split <;> simp

@[simp] theorem takeBranch_kept (w : Instr64) (g : Group) (s : State) :
    Res.keeps (takeBranch w g s) s := by
  unfold takeBranch
  simp

@[simp] theorem takeBranch_keeps (w : Instr64) (g : Group) (s : State) : Res.keeps (takeBranch w g s) s :=
  branchTo_keeps _ _ _ _

@[simp] theorem execNop_kept (g : Gid) (w : BitVec 64) (s : State) :
    Out.keeps (execNop g w s) s := by
  unfold execNop
  simp

@[simp] theorem execBra_kept (g : Gid) (w : BitVec 64) (s : State) :
    Out.keeps (execBra g w s) s := by
  unfold execBra
  simp

@[simp] theorem execBraAny_kept (g : Gid) (w : BitVec 64) (s : State) :
    Out.keeps (execBraAny g w s) s := by
  unfold execBraAny
  simp

@[simp] theorem maskBranch_kept (w : Instr64) (g : Group) (s : State) :
    Res.keeps (maskBranch w g s) s := by
  unfold maskBranch
  simp

@[simp] theorem maskBranch_keeps (w : Instr64) (g : Group) (s : State) : Res.keeps (maskBranch w g s) s := by
  unfold maskBranch
  split <;> simp

@[simp] theorem execPushm_kept (g : Gid) (w : BitVec 64) (s : State) :
    Out.keeps (execPushm g w s) s := by
  unfold execPushm
  simp

@[simp] theorem execFlipm_kept (g : Gid) (w : BitVec 64) (s : State) :
    Out.keeps (execFlipm g w s) s := by
  unfold execFlipm
  refine runInstr_kept _ _ _ _ _ _ ?_
  intro g t
  (try dsimp only)
  (repeat' split) <;> simp_all

@[simp] theorem execClrm_kept (g : Gid) (w : BitVec 64) (s : State) :
    Out.keeps (execClrm g w s) s := by
  unfold execClrm
  simp

@[simp] theorem execPopm_kept (g : Gid) (w : BitVec 64) (s : State) :
    Out.keeps (execPopm g w s) s := by
  unfold execPopm
  refine runInstr_kept _ _ _ _ _ _ ?_
  intro g t
  (try dsimp only)
  (repeat' split) <;> simp_all

@[simp] theorem execCall_kept (g : Gid) (w : BitVec 64) (s : State) :
    Out.keeps (execCall g w s) s := by
  unfold execCall
  simp

@[simp] theorem execRet_kept (g : Gid) (w : BitVec 64) (s : State) :
    Out.keeps (execRet g w s) s := by
  unfold execRet
  simp

@[simp] theorem execExit_kept (g : Gid) (w : BitVec 64) (s : State) :
    Out.keeps (execExit g w s) s := by
  unfold execExit
  simp

@[simp] theorem execTrap_kept (g : Gid) (w : BitVec 64) (s : State) :
    Out.keeps (execTrap g w s) s := by
  unfold execTrap
  simp

@[simp] theorem execIllegalInstruction_kept (g : Gid) (w : BitVec 64) (s : State) :
    Out.keeps (execIllegalInstruction g w s) s := by
  unfold execIllegalInstruction
  simp

@[simp] theorem execMxWait_kept (g : Gid) (w : BitVec 64) (s : State) :
    Out.keeps (execMxWait g w s) s := by
  unfold execMxWait
  simp

@[simp] theorem execMxTest_kept (g : Gid) (w : BitVec 64) (s : State) :
    Out.keeps (execMxTest g w s) s := by
  unfold execMxTest
  simp

@[simp] theorem execDmaWait_kept (g : Gid) (w : BitVec 64) (s : State) :
    Out.keeps (execDmaWait g w s) s := by
  unfold execDmaWait
  simp

@[simp] theorem execBar_kept (g : Gid) (w : BitVec 64) (s : State) :
    Out.keeps (execBar g w s) s := by
  unfold execBar
  simp

@[simp] theorem execBarrierRelease_kept (g : Gid) (s : State) :
    Out.keeps (execBarrierRelease g s) s := by
  unfold execBarrierRelease
  (repeat' split) <;> simp_all

/-! ### ThreadMem -/

@[simp] theorem State.noteUe_kept (s : State) (gk : Nat) (g : Group) (global : Bool) (a : Nat) :
    (State.noteUe s gk g global a).keeps s := by
  unfold State.noteUe
  (repeat' split) <;> simp_all

@[simp] theorem State.loadBytes_kept (s : State) (gk : Nat) (g : Group) (global nc : Bool) (a n : Nat) :
    (State.loadBytes s gk g global nc a n).2.keeps s := by
  unfold State.loadBytes
  dsimp only
  (repeat' split) <;> simp_all

@[simp] theorem State.remoteLoad_kept (s : State) (gk : Nat) (g : Group) (w : Instr64) (n : Nat) (lanes : List (Nat × Nat)) :
    (State.remoteLoad s gk g w n lanes).keeps s := by
  unfold State.remoteLoad
  refine foldl_keeps _ ?_ _ _
  intro t x
  (try dsimp only)
  (repeat' split) <;> simp_all

@[simp] theorem State.loadSectors_kept (gk : Nat) (g : Group) (global nc : Bool) (l : List Nat) (s : State) :
    (State.loadSectors gk g global nc l s).1.keeps s := by
  induction l generalizing s with
  | nil => simp [State.loadSectors]
  | cons a r ih => unfold State.loadSectors; simp [ih]

@[simp] theorem State.loadLanes_kept (gk : Nat) (w : Instr64) (global nc : Bool) (n : Nat) (l : List (Nat × Nat)) (s : State) (g : Group) :
    (State.loadLanes gk w global nc n l s g).1.keeps s := by
  unfold State.loadLanes
  exact State.loadSectors_kept _ _ _ _ _ _

@[simp] theorem State.farWait_kept (s : State) (cl : Nat) (o : MissOwner) (near : Bool) :
    (State.farWait s cl o near).keeps s := by
  unfold State.farWait
  simp

theorem State.groupObtain_kept (s : State) (gk : Nat) (g : Group) (sectors : List (Nat × Nat)) (reqs : List SectorReq) :
    (State.groupObtain s gk g sectors reqs).2.2.keeps s := by
  unfold State.groupObtain
  simp

@[simp] theorem loadInstr_kept (opc : Nat) (nc : Bool) (gid : Gid) (w : BitVec 64) (ecc : ReadEcc) (s : State) :
    Out.keeps (loadInstr opc nc gid w ecc s) s := by
  unfold loadInstr
  refine runInstr_kept _ _ _ _ _ _ ?_
  intro g t
  beta_reduce
  refine Res.keeps_cases (fun _ => by simp) (fun _ => ?_)
  refine Res.keeps_cases (fun _ => by simp) (fun _ => ?_)
  lift_lets
  intro lanes near far q r g'
  have hq : q.2.2.keeps t := by
    unfold q
    split
    · exact State.groupObtain_kept _ _ _ _ _
    · simp
  clear_value q
  have hr : r.1.keeps t := State.keeps_trans (State.loadLanes_kept _ _ _ _ _ _ _ _) hq
  clear_value r g'
  split
  · exact Res.keeps_cases (fun _ => by simp) (fun _ => by simp)
  · refine Res.keeps_cases (fun _ => State.keeps_trans (State.farWait_kept _ _ _ _) hq) (fun _ => ?_)
    refine Res.keeps_cases (fun _ => State.keeps_trans (State.raiseBanks_kept _ _ _ _) hr) (fun _ => ?_)
    exact Res.keeps_cases (fun _ => by simpa using hr) (fun _ => State.keeps_trans (State.remoteLoad_kept _ _ _ _ _ _) hr)

@[simp] theorem execLd_kept (g : Gid) (w : BitVec 64) (ecc : ReadEcc) (s : State) :
    Out.keeps (execLd g w ecc s) s := by
  unfold execLd
  simp

@[simp] theorem execLdNc_kept (g : Gid) (w : BitVec 64) (ecc : ReadEcc) (s : State) :
    Out.keeps (execLdNc g w ecc s) s := by
  unfold execLdNc
  simp

@[simp] theorem State.storeLocal_kept (s : State) (gk : Nat) (g : Group) (global : Bool) (a : Nat) (bs : Bytes) :
    (State.storeLocal s gk g global a bs).keeps s := by
  unfold State.storeLocal
  (repeat' split) <;> simp_all

@[simp] theorem State.remoteStore_kept (s : State) (gk : Nat) (g : Group) (stores : List (Nat × Nat × Bytes)) :
    (State.remoteStore s gk g stores).keeps s := by
  unfold State.remoteStore
  refine foldl_keeps _ ?_ _ _
  intro t x
  (try dsimp only)
  (repeat' split) <;> simp_all

@[simp] theorem execSt_kept (gid : Gid) (w : BitVec 64) (s : State) :
    Out.keeps (execSt gid w s) s := by
  unfold execSt
  refine runInstr_kept _ _ _ _ _ _ ?_
  intro g t
  beta_reduce
  refine Res.keeps_cases (fun _ => by simp) (fun _ => ?_)
  refine Res.keeps_cases (fun _ => by simp) (fun _ => ?_)
  lift_lets
  intro lanes all stores need free sh c near far runs q u v
  have hq : q.2.2.keeps t := by
    unfold q
    split
    · exact State.groupObtain_kept _ _ _ _ _
    · simp
  clear_value q
  have hu : u.keeps t := by
    unfold u
    refine State.keeps_trans ?_ hq
    refine foldl_keeps _ ?_ _ _
    intro v x
    simp
  clear_value u
  have hv : v.keeps t := by
    unfold v
    split
    · exact State.keeps_trans (by simp) hu
    · exact State.keeps_trans (State.raiseBanks_kept _ _ _ _) hu
  clear_value v
  split
  · simp
  · refine Res.keeps_cases (fun _ => ?_) (fun _ => ?_)
    · exact Res.keeps_cases (fun _ => by simp) (fun _ => by simp)
    · exact Res.keeps_cases (fun _ => State.keeps_trans (State.farWait_kept _ _ _ _) hq) (fun _ => State.keeps_trans (State.remoteStore_kept _ _ _ _) hv)

theorem State.openEpoch_kept (s : State) (e : Nat) (t : State) (h : s.openEpoch = some (e, t)) :
    t.keeps s := by
  unfold State.openEpoch at h
  dsimp only at h
  (repeat' split at h) <;> simp_all <;> obtain ⟨_, rfl⟩ := h <;> simp

theorem Res.keeps_of {r : Res} {t s : State} (h : Res.keeps r t) (k : t.keeps s) : Res.keeps r s := by
  cases r <;> simp_all

@[simp] theorem startSysFence_keeps (kind : Nat) (g : Group) (s : State) : Res.keeps (startSysFence kind g s) s := by
  unfold startSysFence
  split
  · simp
  · rename_i e t h
    simpa using State.openEpoch_kept s e t h

@[simp] theorem execMfence_kept (gid : Gid) (w : BitVec 64) (s : State) :
    Out.keeps (execMfence gid w s) s := by
  unfold execMfence
  refine runInstr_kept _ _ _ _ _ _ ?_
  intro g t
  dsimp only
  split
  · simp
  · split
    · simp
    · split
      · simp
      · split
        · have k := startSysFence_keeps ((w.extractLsb' 20 2).toNat) g (t.fenceCaches (coreKeyOf (gidKey gid)))
          revert k
          cases startSysFence ((w.extractLsb' 20 2).toNat) g (t.fenceCaches (coreKeyOf (gidKey gid))) <;> simp
        · simp

@[simp] theorem State.retryEpoch_kept (s : State) (f : Fence) :
    (s.retryEpoch f).2.keeps s := by
  unfold State.retryEpoch
  split
  · simp
  · split
    · rename_i e t h
      simpa using State.openEpoch_kept s e t h
    · simp

@[simp] theorem execFenceComplete_kept (gid : Gid) (s : State) :
    Out.keeps (execFenceComplete gid s) s := by
  unfold execFenceComplete
  dsimp only
  (repeat' split) <;> simp_all

@[simp] theorem execFenceTimeout_kept (gid : Gid) (s : State) :
    Out.keeps (execFenceTimeout gid s) s := by
  unfold execFenceTimeout
  dsimp only
  (repeat' split) <;> simp_all

@[simp] theorem State.setTags_kept (s : State) (p : Place) (n gk lane : Nat) :
    (State.setTags s p n gk lane).keeps s := by
  unfold State.setTags
  simp

@[simp] theorem State.atomLane_kept (s : State) (gk : Nat) (v : Nat) (p : Place) (n lane aop x c : Nat) :
    (State.atomLane s gk v p n lane aop x c).2.keeps s := by
  unfold State.atomLane
  dsimp only
  (repeat' split) <;> simp_all

@[simp] theorem State.dropCopies_kept (s : State) (ck : Nat) (p : Place) :
    (State.dropCopies s ck p).keeps s := by
  unfold State.dropCopies
  simp

@[simp] theorem State.raiseSets_kept (s : State) (g : Group) (aop : Nat) (addrs : List Nat) :
    (State.raiseSets s g aop addrs).keeps s := by
  unfold State.raiseSets
  refine foldl_keeps _ ?_ _ _
  intro t x
  (try dsimp only)
  (repeat' split) <;> simp_all

@[simp] theorem State.atomLanes_kept (gk : Nat) (g : Group) (n aop : Nat) (l : List (Nat × Nat × Nat × Nat)) (s : State) :
    (State.atomLanes gk g n aop l s).2.keeps s := by
  induction l generalizing s with
  | nil => simp [State.atomLanes]
  | cons a r ih =>
    unfold State.atomLanes
    dsimp only
    split <;> simp [ih]

@[simp] theorem State.remoteSets_kept (s : State) (gk : Nat) (g : Group) (n aop dst : Nat) (ops : List (Nat × Nat × Nat × Nat)) :
    (State.remoteSets s gk g n aop dst ops).keeps s := by
  unfold State.remoteSets
  refine foldl_keeps _ ?_ _ _
  intro t x
  (try dsimp only)
  (repeat' split) <;> simp_all

theorem State.atomObtain_kept (s : State) (gk : Nat) (g : Group) (lanes : List (Nat × Nat)) (n : Nat) :
    (State.atomObtain s gk g lanes n).2.2.keeps s := State.groupObtain_kept _ _ _ _ _

@[simp] theorem execAtom_kept (gid : Gid) (w : BitVec 64) (s : State) :
    Out.keeps (execAtom gid w s) s := by
  unfold execAtom
  refine runInstr_kept _ _ _ _ _ _ ?_
  intro g t
  beta_reduce
  refine Res.keeps_cases (fun _ => by simp) (fun _ => ?_)
  refine Res.keeps_cases (fun _ => by simp) (fun _ => ?_)
  refine Res.keeps_cases (fun _ => by simp) (fun _ => ?_)
  refine Res.keeps_cases (fun _ => by simp) (fun _ => ?_)
  refine Res.keeps_cases (fun _ => by simp) (fun _ => ?_)
  lift_lets
  intro lanes fenced opAt x c ops far near q g0 r u g'
  have hq : q.2.2.keeps t := State.atomObtain_kept _ _ _ _ _
  clear_value q
  have hu : u.keeps t := by
    unfold u r
    split <;> exact State.keeps_trans (by simp) hq
  clear_value u g'
  split
  · simp
  · refine Res.keeps_cases (fun _ => ?_) (fun _ => ?_)
    · exact Res.keeps_of (startSysFence_keeps _ _ _) (by simp)
    · refine Res.keeps_cases (fun _ => State.keeps_trans (State.farWait_kept _ _ _ _) hq) (fun _ => ?_)
      exact Res.keeps_cases (fun _ => by simpa using hu) (fun _ => State.keeps_trans (State.remoteSets_kept _ _ _ _ _ _ _) hu)

@[simp] theorem execAcqG_kept (gid : Gid) (w : BitVec 64) (s : State) :
    Out.keeps (execAcqG gid w s) s := by
  unfold execAcqG
  refine runInstr_kept _ _ _ _ _ _ ?_
  intro g t
  beta_reduce
  refine Res.keeps_cases (fun _ => by simp) (fun _ => ?_)
  refine Res.keeps_cases (fun _ => by simp) (fun _ => ?_)
  refine Res.keeps_cases (fun _ => by simp) (fun _ => ?_)
  lift_lets
  intro lanes ops far near q r took g' u
  have hq : q.2.2.keeps t := State.atomObtain_kept _ _ _ _ _
  clear_value q
  have hu : u.keeps t := by
    unfold u r
    exact State.keeps_trans (by simp) hq
  clear_value u g'
  split
  · simp
  · refine Res.keeps_cases (fun _ => State.keeps_trans (State.farWait_kept _ _ _ _) hq) (fun _ => ?_)
    exact Res.keeps_cases (fun _ => by simpa using hu) (fun _ => State.keeps_trans (State.remoteSets_kept _ _ _ _ _ _ _) hu)

@[simp] theorem State.readLocks_kept (s : State) (gk : Nat) (g : Group) (far : List (Nat × Nat)) :
    (State.readLocks s gk g far).keeps s := by
  unfold State.readLocks
  refine foldl_keeps _ ?_ _ _
  intro t x
  (try dsimp only)
  (repeat' split) <;> simp_all

@[simp] theorem execRelG_kept (gid : Gid) (w : BitVec 64) (s : State) :
    Out.keeps (execRelG gid w s) s := by
  unfold execRelG
  refine runInstr_kept _ _ _ _ _ _ ?_
  intro g t
  beta_reduce
  refine Res.keeps_cases (fun _ => by simp) (fun _ => ?_)
  refine Res.keeps_cases (fun _ => by simp) (fun _ => ?_)
  refine Res.keeps_cases (fun _ => by simp) (fun _ => ?_)
  lift_lets
  intro lanes near far q g0 seen bad put u g'
  have hq : q.2.2.keeps t := State.atomObtain_kept _ _ _ _ _
  clear_value q
  have hu : u.keeps t := by
    unfold u
    refine State.keeps_trans (State.fenceCaches_kept _ _) (State.keeps_trans (foldl_keeps _ ?_ _ _) hq)
    intro v x
    unfold put
    split <;> simp
  clear_value u
  generalize State.atomFault t g 0xA 4 lanes = f
  cases f
  · refine Res.keeps_cases (fun _ => State.keeps_trans (State.farWait_kept _ _ _ _) hq) (fun _ => ?_)
    refine Res.keeps_cases (fun _ => State.keeps_trans (State.readLocks_kept _ _ _ _) hq) (fun _ => ?_)
    generalize bad = l
    cases l
    · exact State.keeps_trans (State.remoteStore_kept _ _ _ _) (State.keeps_trans (State.raiseLines_kept _ _ _ _) hu)
    · simp
  · simp

end Sys2Proof.Machine
end

