-- ==== Sys2Proof/Laws/KeepsMatrix.lean ====
section
/-!
SUPPORT. For the matrix commands: one lemma per definition that answers a state. Its state has the queue of
waiting commands and the record memory of the Cask as they were before; of a command, that it goes on.
-/

namespace Sys2Proof.Machine

/-! ### Matrix -/

@[simp] theorem State.wakeIssue_kept (s : State) (ck : Nat) :
    (State.wakeIssue s ck).keeps s := by
  unfold State.wakeIssue
  simp

@[simp] theorem State.postToken_kept (s : State) (gk token : Nat) :
    (State.postToken s gk token).keeps s := by
  unfold State.postToken
  (repeat' split) <;> simp_all

@[simp] theorem State.faultAsync_kept (s : State) (gk : Nat) (f : FaultInfo) :
    (State.faultAsync s gk f).keeps s := by
  unfold State.faultAsync
  (repeat' split) <;> simp_all

@[simp] theorem State.mxRecord_kept (s : State) (ck : Nat) (x : MxCmd) (removed : Bool) :
    (State.mxRecord s ck x removed).keeps s := by
  unfold State.mxRecord
  simp

@[simp] theorem State.noteHazard_kept (s : State) (ck : Nat) :
    (State.noteHazard s ck).keeps s := by
  unfold State.noteHazard
  simp

@[simp] theorem State.countNumerics_kept (s : State) (die : Nat) (c : MxCounts) :
    (State.countNumerics s die c).keeps s := by
  unfold State.countNumerics
  simp

@[simp] theorem State.dropCmd_kept (s : State) (ck : Nat) (x : MxCmd) (list : Bool) :
    (State.dropCmd s ck x list).keeps s := by
  unfold State.dropCmd
  dsimp only
  (repeat' split) <;> simp_all

@[simp] theorem State.removeCmds_kept (s : State) (ck : Nat) (bad : MxCmd → Bool) (list : Bool) :
    (State.removeCmds s ck bad list).keeps s := by
  unfold State.removeCmds
  simp

@[simp] theorem State.mxFault_kept (s : State) (ck i cause : Nat) (detail : Option Nat) :
    (State.mxFault s ck i cause detail).keeps s := by
  unfold State.mxFault
  (repeat' split) <;> simp_all

@[simp] theorem State.enqueueMx_kept (s : State) (gk : Nat) (g : Group) (addr token : Nat) (desc : BitVec 512) :
    (State.enqueueMx s gk g addr token desc).1.keeps s := by
  unfold State.enqueueMx
  simp

@[simp] theorem execMxIssue_kept (gid : Gid) (w : BitVec 64) (s : State) :
    Out.keeps (execMxIssue gid w s) s := by
  unfold execMxIssue
  refine runInstr_kept _ _ _ _ _ _ ?_
  intro g t
  (try dsimp only)
  (repeat' split) <;> simp_all

@[simp] theorem State.takeCell_kept (s : State) (ck j : Nat) (x : MxCmd) (i : Nat) :
    (State.takeCell s ck j x i).keeps s := by
  unfold State.takeCell
  simp

@[simp] theorem State.headCell_kept (s : State) (ck j : Nat) (x : MxCmd) (d : Desc) :
    (State.headCell s ck j x d).keeps s := by
  unfold State.headCell
  dsimp only
  (repeat' split) <;> simp_all

@[simp] theorem execMxHead_kept (c : Cid) (s : State) :
    Out.keeps (execMxHead c s) s := by
  unfold execMxHead
  dsimp only
  (repeat' split) <;> simp_all

@[simp] theorem execWeightTimeout_kept (c : Cid) (s : State) :
    Out.keeps (execWeightTimeout c s) s := by
  unfold execWeightTimeout
  dsimp only
  (repeat' split) <;> simp_all

@[simp] theorem execLocalWeightLoad_kept (c : Cid) (n : Fin 8) (s : State) :
    Out.keeps (execLocalWeightLoad c n s) s := by
  unfold execLocalWeightLoad
  dsimp only
  (repeat' split) <;> simp_all

@[simp] theorem State.multiply_kept (s : State) (ck : Nat) (op : Nat) (ecc : Option Bool) :
    (State.multiply s ck op ecc).keeps s := by
  unfold State.multiply
  dsimp only
  (repeat' split) <;> simp_all

@[simp] theorem execMmaRow_kept (c : Cid) (ecc : Option Bool) (s : State) :
    Out.keeps (execMmaRow c ecc s) s := by
  unfold execMmaRow
  simp

@[simp] theorem execMmaCol_kept (c : Cid) (ecc : Option Bool) (s : State) :
    Out.keeps (execMmaCol c ecc s) s := by
  unfold execMmaCol
  simp

@[simp] theorem execMmaOs_kept (c : Cid) (ecc : Bool) (s : State) :
    Out.keeps (execMmaOs c ecc s) s := by
  unfold execMmaOs
  dsimp only
  (repeat' split) <;> simp_all

@[simp] theorem execLoada_kept (c : Cid) (s : State) :
    Out.keeps (execLoada c s) s := by
  unfold execLoada
  dsimp only
  (repeat' split) <;> simp_all

@[simp] theorem State.startTie_kept (s : State) (ck op : Nat) :
    (State.startTie s ck op).keeps s := by
  unfold State.startTie
  (repeat' split) <;> simp_all

@[simp] theorem execTieSet_kept (c : Cid) (s : State) :
    Out.keeps (execTieSet c s) s := by
  unfold execTieSet
  simp

@[simp] theorem execTieClr_kept (c : Cid) (s : State) :
    Out.keeps (execTieClr c s) s := by
  unfold execTieClr
  simp

@[simp] theorem State.storeOutputs_kept (s : State) (ck : Nat) (ws : List (Nat × Bytes)) :
    (State.storeOutputs s ck ws).keeps s := by
  unfold State.storeOutputs
  simp

theorem State.mxWrites_kept (s : State) (ck : Nat) (x : MxCmd) (ws : List (Nat × Bytes)) (t : State)
    (h : s.mxWrites ck x ws = .ok t) : t.keeps s := by
  unfold State.mxWrites at h
  dsimp only at h
  (repeat' split at h) <;> first | (cases h; done) | (obtain rfl := Except.ok.inj h; simp)

@[simp] theorem State.runEpilogue_kept (s : State) (ck j : Nat) (x : MxCmd) (ecc : Bool) :
    (State.runEpilogue s ck j x ecc).keeps s := by
  unfold State.runEpilogue
  dsimp only
  split
  · simp
  · split
    · simp
    · split
      · simp
      · rename_i t h
        simpa using State.mxWrites_kept _ _ _ _ _ h

@[simp] theorem execEpi_kept (c : Cid) (ecc : Bool) (s : State) :
    Out.keeps (execEpi c ecc s) s := by
  unfold execEpi
  dsimp only
  (repeat' split) <;> simp_all

@[simp] theorem execEpilogueStep_kept (c : Cid) (ecc : Bool) (s : State) :
    Out.keeps (execEpilogueStep c ecc s) s := by
  unfold execEpilogueStep
  dsimp only
  (repeat' split) <;> simp_all

@[simp] theorem execAccAdd_kept (c : Cid) (s : State) :
    Out.keeps (execAccAdd c s) s := by
  unfold execAccAdd
  dsimp only
  split
  · simp
  · split
    · simp
    · split
      · simp
      · split
        · simp
        · split
          · simp
          · split
            · simp
            · rename_i t h
              simpa using State.mxWrites_kept _ _ _ _ _ h

@[simp] theorem State.countCommand_kept (s : State) (launch ctx : Nat) (void : Bool) (c : MxCounts) :
    (State.countCommand s launch ctx void c).keeps s := by
  unfold State.countCommand
  dsimp only
  (repeat' split) <;> simp_all

@[simp] theorem execMxCommandComplete_kept (c : Cid) (s : State) :
    Out.keeps (execMxCommandComplete c s) s := by
  unfold execMxCommandComplete
  dsimp only
  (repeat' split) <;> simp_all

end Sys2Proof.Machine
end

