-- ==== Sys2Proof/Laws/KeepsTasks.lean ====
section
/-!
SUPPORT. For tasks, transfers and the host interface: one lemma per definition that answers a state. Its state has the queue of
waiting commands and the record memory of the Cask as they were before; of a command, that it goes on.
-/

namespace Sys2Proof.Machine

/-! ### HostOps -/

@[simp] theorem State.wakeDma_kept (s : State) (cl : Nat) :
    (State.wakeDma s cl).keeps s := by
  unfold State.wakeDma
  simp

@[simp] theorem State.freeDmaSlots_kept (s : State) (gk : Nat) :
    (State.freeDmaSlots s gk).keeps s := by
  unfold State.freeDmaSlots
  simp

@[simp] theorem State.detachDma_kept (s : State) (cl slot : Nat) :
    (State.detachDma s cl slot).keeps s := by
  unfold State.detachDma
  simp

@[simp] theorem State.endGroup_kept (s : State) (gk : Nat) (aborted : Bool) :
    (State.endGroup s gk aborted).keeps s := by
  unfold State.endGroup
  dsimp only
  (repeat' split) <;> simp_all

@[simp] theorem State.abortLaunch_kept (s : State) (id : Nat) :
    (State.abortLaunch s id).keeps s := by
  unfold State.abortLaunch
  (repeat' split) <;> simp_all

@[simp] theorem State.resolveCells_kept (s : State) (cl : Nat) (committed : Bool) :
    (State.resolveCells s cl committed).keeps s := by
  unfold State.resolveCells
  simp

@[simp] theorem State.commitSpec_kept (s : State) (p : SpecCond → Bool) :
    (State.commitSpec s p).keeps s := by
  unfold State.commitSpec
  simp

@[simp] theorem State.discardCluster_kept (s : State) (cl : Nat) :
    (State.discardCluster s cl).keeps s := by
  unfold State.discardCluster
  simp

@[simp] theorem State.discardLaunch_kept (s : State) (id : Nat) :
    (State.discardLaunch s id).keeps s := by
  unfold State.discardLaunch
  (repeat' split) <;> simp_all

@[simp] theorem State.discardSpec_kept (s : State) (p : SpecCond → Bool) :
    (State.discardSpec s p).keeps s := by
  unfold State.discardSpec
  simp

@[simp] theorem State.settleCtx_kept (s : State) (k : Nat) :
    (State.settleCtx s k).keeps s := by
  unfold State.settleCtx
  (repeat' split) <;> simp_all

@[simp] theorem State.settleAll_kept (s : State) :
    (State.settleAll s).keeps s := by
  unfold State.settleAll
  simp

@[simp] theorem State.storeAs_kept (s : State) (writer k va : Nat) (bs : Bytes) :
    (State.storeAs s writer k va bs).keeps s := by
  unfold State.storeAs
  refine foldl_fst_keeps _ ?_ _ _
  intro t x
  split <;> simp

@[simp] theorem State.storeRange_kept (s : State) (k va : Nat) (bs : Bytes) :
    (State.storeRange s k va bs).keeps s := by
  unfold State.storeRange
  refine foldl_fst_keeps _ ?_ _ _
  intro t x
  split <;> simp

@[simp] theorem State.readRange_kept (s : State) (k va n : Nat) :
    (State.readRange s k va n).keeps s := by
  unfold State.readRange
  refine foldl_keeps _ ?_ _ _
  intro t x
  (try dsimp only)
  (repeat' split) <;> simp_all

@[simp] theorem State.signalTl_kept (s : State) (v t value : Nat) :
    (State.signalTl s v t value).keeps s := by
  unfold State.signalTl
  (repeat' split) <;> simp_all

/-! ### Kernels -/

@[simp] theorem execClusterStoreClear_kept (cluster : Fin 1088) (launch : Nat) (s : State) :
    Out.keeps (execClusterStoreClear cluster launch s) s := by
  unfold execClusterStoreClear
  (repeat' split) <;> simp_all

@[simp] theorem State.forgetCtx_kept (s : State) (k : Nat) :
    (State.forgetCtx s k).keeps s := by
  unfold State.forgetCtx
  simp

@[simp] theorem execKernelStartCore_kept (c : Cid) (launch : Nat) (s : State) :
    Out.keeps (execKernelStartCore c launch s) s := by
  unfold execKernelStartCore
  (repeat' split) <;> simp_all

@[simp] theorem execGroupStart_kept (launch index : Nat) (s : State) :
    Out.keeps (execGroupStart launch index s) s := by
  unfold execGroupStart
  dsimp only
  (repeat' split) <;> simp_all

@[simp] theorem execGroupEnd_kept (g : Gid) (s : State) :
    Out.keeps (execGroupEnd g s) s := by
  unfold execGroupEnd
  dsimp only
  (repeat' split) <;> simp_all

@[simp] theorem execGroupParkAsync_kept (g : Gid) (s : State) :
    Out.keeps (execGroupParkAsync g s) s := by
  unfold execGroupParkAsync
  dsimp only
  (repeat' split) <;> simp_all

@[simp] theorem execGroupSelfWait_kept (g : Gid) (s : State) :
    Out.keeps (execGroupSelfWait g s) s := by
  unfold execGroupSelfWait
  dsimp only
  (repeat' split) <;> simp_all

@[simp] theorem execReplayGroup_kept (r : CmdRef) (s : State) :
    Out.keeps (execReplayGroup r s) s := by
  unfold execReplayGroup
  refine runCmd_kept _ _ _ _ ?_
  intro c k t
  (try dsimp only)
  (repeat' split) <;> simp_all

@[simp] theorem State.doneReplay_kept (s : State) (g : Group) :
    (State.doneReplay s g).keeps s := by
  unfold State.doneReplay
  (repeat' split) <;> simp_all

@[simp] theorem State.resume_kept (s : State) (gk : Nat) (g : Group) (pc : BitVec 48) :
    (State.resume s gk g pc).keeps s := by
  unfold State.resume
  simp

@[simp] theorem State.resumeDma_kept (s : State) (gk : Nat) :
    (State.resumeDma s gk).keeps s := by
  unfold State.resumeDma
  simp

@[simp] theorem State.dropDmaToken_kept (s : State) (gk token : Nat) :
    (State.dropDmaToken s gk token).keeps s := by
  unfold State.dropDmaToken
  (repeat' split) <;> simp_all

@[simp] theorem State.endDma_kept (s : State) (cl slot : Nat) (d : DmaSlot) :
    (State.endDma s cl slot d).keeps s := by
  unfold State.endDma
  dsimp only
  (repeat' split) <;> simp_all

@[simp] theorem State.skipDma_kept (s : State) (gk : Nat) :
    (State.skipDma s gk).keeps s := by
  unfold State.skipDma
  simp

@[simp] theorem execRetry_kept (g : Gid) (s : State) :
    Out.keeps (execRetry g s) s := by
  unfold execRetry
  (repeat' split) <;> simp_all

@[simp] theorem execSkip_kept (g : Gid) (s : State) :
    Out.keeps (execSkip g s) s := by
  unfold execSkip
  dsimp only
  (repeat' split) <;> simp_all

@[simp] theorem State.reissueAll_kept (n gk : Nat) (s : State) : (State.reissueAll n gk s).1.keeps s := by
  induction n generalizing s with
  | zero => simp [State.reissueAll]
  | succ n ih =>
    unfold State.reissueAll
    dsimp only
    (repeat' split) <;> simp_all

@[simp] theorem execReissue_kept (g : Gid) (s : State) :
    Out.keeps (execReissue g s) s := by
  unfold execReissue
  dsimp only
  (repeat' split) <;> simp_all

@[simp] theorem execAbort_kept (g : Gid) (s : State) :
    Out.keeps (execAbort g s) s := by
  unfold execAbort
  (repeat' split) <;> simp_all

@[simp] theorem State.noteTask_kept (s : State) (id : Nat) (l : Launch) :
    (State.noteTask s id l).keeps s := by
  unfold State.noteTask
  (repeat' split) <;> simp_all

@[simp] theorem execKernelComplete_kept (launch : Nat) (s : State) :
    Out.keeps (execKernelComplete launch s) s := by
  unfold execKernelComplete
  (repeat' split) <;> simp_all

@[simp] theorem State.mergedLine_kept (s : State) (cl sector o : Nat) (bs : Bytes) :
    (State.mergedLine s cl sector o bs).keeps s := by
  unfold State.mergedLine
  simp

@[simp] theorem State.mergeEntry_kept (s : State) (cl k : Nat) (e : ShadowEntry) :
    (State.mergeEntry s cl k e).keeps s := by
  unfold State.mergeEntry
  dsimp only
  (repeat' split) <;> first | (simp_all; done) | (refine foldl_keeps _ ?_ _ _; intro t x; (try dsimp only); (repeat' split) <;> simp_all; done)

@[simp] theorem execSpecMergeDone_kept (cluster : Fin 1088) (s : State) :
    Out.keeps (execSpecMergeDone cluster s) s := by
  unfold execSpecMergeDone
  simp

@[simp] theorem execSpecDiscard_kept (r : CmdRef) (s : State) :
    Out.keeps (execSpecDiscard r s) s := by
  unfold execSpecDiscard
  simp

/-! ### Dma -/

@[simp] theorem execDmaStart_kept (gid : Gid) (w : BitVec 64) (s : State) :
    Out.keeps (execDmaStart gid w s) s := by
  unfold execDmaStart
  refine runInstr_kept _ _ _ _ _ _ ?_
  intro g t
  (try dsimp only)
  (repeat' split) <;> simp_all

@[simp] theorem State.dmaRead_kept (s : State) (cl : Nat) (d : DmaSlot) (p : Piece) (ue : Bool) : (s.dmaRead cl d p ue).2.keeps s := by
  unfold State.dmaRead
  dsimp only
  (repeat' split) <;> simp_all

theorem State.dmaWrite_kept (s : State) (cl : Nat) (d : DmaSlot) (p : Piece) (bs : Bytes) (t : State)
    (h : s.dmaWrite cl d p bs = .inl t) : t.keeps s := by
  unfold State.dmaWrite at h
  dsimp only at h
  (repeat' split at h) <;> first | (cases h; done) | (obtain rfl := Sum.inl.inj h; simp)

theorem State.dmaRemoteRead_kept (s : State) (cl slot idx : Nat) (d : DmaSlot) (p : Piece) (t : State)
    (h : s.dmaRemoteRead cl slot idx d p = .inl t) : t.keeps s := by
  unfold State.dmaRemoteRead at h
  dsimp only at h
  (repeat' split at h) <;> first | (cases h; done) | (obtain rfl := Sum.inl.inj h; simp)

theorem State.dmaRemoteWrite_kept (s : State) (cl slot : Nat) (d : DmaSlot) (p : Piece) (bs : Bytes) (t : State × Nat)
    (h : s.dmaRemoteWrite cl slot d p bs = .inl t) : t.1.keeps s := by
  unfold State.dmaRemoteWrite at h
  dsimp only at h
  (repeat' split at h) <;> first | (cases h; done) | (obtain rfl := Sum.inl.inj h; simp)

@[simp] theorem State.putSlot_kept (s : State) (cl slot : Nat) (d : DmaSlot) :
    (State.putSlot s cl slot d).keeps s := by
  unfold State.putSlot
  simp

@[simp] theorem State.suspendDma_kept (s : State) (cl slot : Nat) (d : DmaSlot) (f : DmaFault) :
    (State.suspendDma s cl slot d f).keeps s := by
  unfold State.suspendDma
  (repeat' split) <;> simp_all

@[simp] theorem State.dmaReadAll_kept (cl : Nat) (d : DmaSlot) (ue : Bool) (l : List (Nat × Piece)) (s : State) :
    (State.dmaReadAll cl d ue l s).2.keeps s := by
  induction l generalizing s with
  | nil => simp [State.dmaReadAll]
  | cons a r ih =>
    unfold State.dmaReadAll
    dsimp only
    (repeat' split) <;> simp_all

@[simp] theorem State.dmaWriteAll_kept (cl slot : Nat) (d : DmaSlot) (l : List Piece) (bs : Bytes) (s : State) :
    (State.dmaWriteAll cl slot d l bs s).2.keeps s := by
  induction l generalizing bs s with
  | nil => simp [State.dmaWriteAll]
  | cons p r ih =>
    unfold State.dmaWriteAll
    dsimp only
    split
    · simp
    · rename_i t h
      have k : t.1.keeps s := by
        split at h
        · exact State.dmaRemoteWrite_kept _ _ _ _ _ _ _ h
        · split at h
          · rename_i u e
            obtain rfl := Sum.inl.inj h
            exact State.dmaWrite_kept _ _ _ _ _ _ e
          · cases h
      split <;> simp_all

@[simp] theorem State.dmaFetch_kept (cl slot : Nat) (d : DmaSlot) (l : List (Nat × Piece)) (s : State) :
    (State.dmaFetch cl slot d l s).2.keeps s := by
  induction l generalizing s with
  | nil => simp [State.dmaFetch]
  | cons a r ih =>
    unfold State.dmaFetch
    dsimp only
    split
    · simp
    · rename_i t h
      have k := State.dmaRemoteRead_kept _ _ _ _ _ _ _ h
      split <;> simp_all

/-- The state of a turn on a transfer. -/
def DmaTurn.state : DmaTurn → State
  | .more s => s
  | .stop s => s

theorem State.dmaTurn_kept (s : State) (cl slot : Nat) (d : DmaSlot) (ecc : ReadEcc) : (s.dmaTurn cl slot d ecc).state.keeps s := by
  unfold State.dmaTurn
  lift_lets
  intro w
  split
  · simp [DmaTurn.state]
  · lift_lets
    intro next reads missing reqs q
    have hq : q.2.2.keeps s := by
      unfold q
      exact State.keeps_trans (State.obtainAll_kept _ _ _ _ _ _) (by simp)
    clear_value q next
    split
    · simp [DmaTurn.state]
    · split
      · split
        · simp [DmaTurn.state]
        · split <;> rename_i e <;> have k := congrArg (fun x => x.2) e <;> dsimp only at k <;> subst k <;> simp [DmaTurn.state]
      · split
        · simpa [DmaTurn.state] using hq
        · have k := State.dmaReadAll_kept cl d (ecc.ue == some d.progress) reads q.2.2
          split <;> rename_i e <;> rw [e] at k
          · have k := State.keeps_trans k hq
            simpa [DmaTurn.state] using k
          · rename_i bs t
            have k := State.keeps_trans k hq
            have m := State.dmaWriteAll_kept cl slot d ‹Chunk›.writes (chunkData w d.progress ‹Chunk› bs) t
            split <;> rename_i e <;> rw [e] at m <;> have m := State.keeps_trans m k <;> simpa [DmaTurn.state] using m

@[simp] theorem State.dmaRun_kept (cl slot : Nat) (ue : ReadEcc) (n : Nat) (s : State) : (State.dmaRun cl slot ue n s).keeps s := by
  induction n generalizing s with
  | zero => simp [State.dmaRun]
  | succ n ih =>
    unfold State.dmaRun
    split
    · simp
    · rename_i d _
      have k := State.dmaTurn_kept s cl slot d ue
      split <;> simp_all [DmaTurn.state]

@[simp] theorem State.dmaGo_kept (s : State) (mode : Nat) (cluster : Fin 1088) (slot : Fin 256) (ue : ReadEcc) :
    (State.dmaGo s mode cluster slot ue).keeps s := by
  unfold State.dmaGo
  (repeat' split) <;> simp_all

@[simp] theorem execDmaCopy_kept (cluster : Fin 1088) (slot : Fin 256) (ue : ReadEcc) (s : State) :
    Out.keeps (execDmaCopy cluster slot ue s) s := by
  unfold execDmaCopy
  simp

@[simp] theorem execTranspose_kept (cluster : Fin 1088) (slot : Fin 256) (ue : ReadEcc) (s : State) :
    Out.keeps (execTranspose cluster slot ue s) s := by
  unfold execTranspose
  simp

@[simp] theorem execPrefetch_kept (cluster : Fin 1088) (slot : Fin 256) (ue : ReadEcc) (s : State) :
    Out.keeps (execPrefetch cluster slot ue s) s := by
  unfold execPrefetch
  simp

@[simp] theorem execZero_kept (cluster : Fin 1088) (slot : Fin 256) (s : State) :
    Out.keeps (execZero cluster slot s) s := by
  unfold execZero
  simp

@[simp] theorem execDmaTransferComplete_kept (cluster : Fin 1088) (slot : Fin 256) (s : State) :
    Out.keeps (execDmaTransferComplete cluster slot s) s := by
  unfold execDmaTransferComplete
  (repeat' split) <;> simp_all

/-! ### HostQueues -/

@[simp] theorem State.placeHost_kept (s : State) (mem : List (Nat × Bytes)) :
    (State.placeHost s mem).keeps s := by
  unfold State.placeHost
  simp

@[simp] theorem execQueueTailDoorbell_kept (v : Fin 64) (q : Fin 16385) (value : BitVec 32) (bytes : Nat) (mem : List (Nat × Bytes)) (s : State) :
    Out.keeps (execQueueTailDoorbell v q value bytes mem s) s := by
  unfold execQueueTailDoorbell
  dsimp only
  (repeat' split) <;> simp_all

@[simp] theorem State.advanceHead_kept (s : State) (v q n : Nat) :
    (State.advanceHead s v q n).keeps s := by
  unfold State.advanceHead
  (repeat' split) <;> simp_all

@[simp] theorem State.noteOpen_kept (s : State) (q : Nat) (c : Cmd) :
    (State.noteOpen s q c).keeps s := by
  unfold State.noteOpen
  simp

@[simp] theorem State.enterCmd_kept (s : State) (v q : Nat) (x : Queue) (c : Cmd) :
    (State.enterCmd s v q x c).keeps s := by
  unfold State.enterCmd
  dsimp only
  (repeat' split) <;> simp_all

@[simp] theorem execCommandSubmit_kept (v : Fin 64) (q : Fin 16385) (s : State) :
    Out.keeps (execCommandSubmit v q s) s := by
  unfold execCommandSubmit
  (repeat' split) <;> simp_all

@[simp] theorem execCommandStart_kept (r : CmdRef) (s : State) :
    Out.keeps (execCommandStart r s) s := by
  unfold execCommandStart
  (repeat' split) <;> simp_all

@[simp] theorem State.queueRecord_kept (s : State) (r : CmdRef) (c : Cmd) :
    (State.queueRecord s r c).keeps s := by
  unfold State.queueRecord
  simp

@[simp] theorem execCommandComplete_kept (r : CmdRef) (s : State) :
    Out.keeps (execCommandComplete r s) s := by
  unfold execCommandComplete
  (repeat' split) <;> simp_all

@[simp] theorem execNopCommand_kept (r : CmdRef) (s : State) :
    Out.keeps (execNopCommand r s) s := by
  unfold execNopCommand
  simp

@[simp] theorem execKernelLoad_kept (r : CmdRef) (s : State) :
    Out.keeps (execKernelLoad r s) s := by
  unfold execKernelLoad
  refine runCmd_kept _ _ _ _ ?_
  intro c k t
  (try dsimp only)
  (repeat' split) <;> simp_all

@[simp] theorem execKernelUnload_kept (r : CmdRef) (s : State) :
    Out.keeps (execKernelUnload r s) s := by
  unfold execKernelUnload
  refine runCmd_kept _ _ _ _ ?_
  intro c k t
  (try dsimp only)
  (repeat' split) <;> simp_all

@[simp] theorem execLaunch_kept (r : CmdRef) (s : State) :
    Out.keeps (execLaunch r s) s := by
  unfold execLaunch
  refine runCmd_kept _ _ _ _ ?_
  intro c k t
  (try dsimp only)
  (repeat' split) <;> simp_all

@[simp] theorem execKernelAbort_kept (r : CmdRef) (s : State) :
    Out.keeps (execKernelAbort r s) s := by
  unfold execKernelAbort
  refine runCmd_kept _ _ _ _ ?_
  intro c k t
  dsimp only
  split
  · simp
  · split
    · simp
    · refine State.keeps_trans (State.keepBusy_kept _ _) (State.keeps_trans (foldl_keeps _ ?_ _ _) (by simp))
      intro u x
      split <;> simp

@[simp] theorem execCopy_kept (r : CmdRef) (s : State) :
    Out.keeps (execCopy r s) s := by
  unfold execCopy
  simp

@[simp] theorem execFill_kept (r : CmdRef) (s : State) :
    Out.keeps (execFill r s) s := by
  unfold execFill
  simp

@[simp] theorem execMapSync_kept (r : CmdRef) (s : State) :
    Out.keeps (execMapSync r s) s := by
  unfold execMapSync
  simp

/-! ### HostObjects -/

@[simp] theorem State.newFast_kept (s : State) (k kind stack n : Nat) (big : Bool) (gen : BitVec 8) (i : Nat) :
    ∀ t, State.newFast s k kind stack n big gen i = .ok t → t.keeps s := by
  unfold State.newFast
  dsimp only
  (repeat' split) <;> simp_all

@[simp] theorem State.placeCtx_kept (s : State) (r : CmdRef) (b k x i : Nat) :
    (State.placeCtx s r b k x i).keeps s := by
  unfold State.placeCtx
  have e := State.newFast_kept s k 0 0 (fld b 272 8) true 0 i
  generalize s.newFast k 0 0 (fld b 272 8) true 0 i = nf at e ⊢
  cases nf with
  | error x => simp
  | ok u => exact State.keeps_trans (State.finish_kept _ _ _ _) (State.keeps_trans (State.putCtx_kept _ _ _) (State.keeps_trans (State.takeObj_kept _ _) (e _ rfl)))

@[simp] theorem execContextCreate_kept (r : CmdRef) (s : State) :
    Out.keeps (execContextCreate r s) s := by
  unfold execContextCreate
  refine runCmd_kept _ _ _ _ ?_
  intro c k t
  extract_lets v b st
  split
  · simp
  · generalize t.freeCtx v = q
    cases q with
    | none => simp
    | some x =>
      generalize e : t.freeIndex (ctxKey v x) = fi
      cases fi <;> simp [e]

@[simp] theorem State.closeWindow_kept (s : State) (w : Nat) :
    (State.closeWindow s w).keeps s := by
  unfold State.closeWindow
  (repeat' split) <;> simp_all

@[simp] theorem State.endWindow_kept (s : State) (w : Nat) :
    (State.endWindow s w).keeps s := by
  unfold State.endWindow
  (repeat' split) <;> simp_all

@[simp] theorem State.dropEntries_kept (s : State) (k : Nat) :
    (State.dropEntries s k).keeps s := by
  unfold State.dropEntries
  simp

@[simp] theorem State.stopTasks_kept (s : State) (k : Nat) :
    (State.stopTasks s k).keeps s := by
  unfold State.stopTasks
  dsimp only
  refine State.keeps_trans (foldl_keeps _ ?_ _ _) (foldl_keeps _ ?_ _ _)
  · intro t x
    simp
  · intro t x
    split
    · split <;> simp
    · simp

@[simp] theorem State.destroyCtx_kept (s : State) (k : Nat) (cookie : BitVec 32) :
    (State.destroyCtx s k cookie).keeps s := by
  unfold State.destroyCtx
  dsimp only
  refine State.keeps_trans (State.settleCtx_kept _ _) ?_
  refine State.keeps_trans (foldl_keeps _ (by simp) _ _) ?_
  refine State.keeps_trans (foldl_keeps _ ?_ _ _) ?_
  · intro t x
    split <;> simp
  · simp

@[simp] theorem execContextDestroy_kept (r : CmdRef) (s : State) :
    Out.keeps (execContextDestroy r s) s := by
  unfold execContextDestroy
  refine runCmd_kept _ _ _ _ ?_
  intro c k t
  (try dsimp only)
  (repeat' split) <;> simp_all

@[simp] theorem execQueueCreate_kept (r : CmdRef) (s : State) :
    Out.keeps (execQueueCreate r s) s := by
  unfold execQueueCreate
  refine runCmd_kept _ _ _ _ ?_
  intro c k t
  (try dsimp only)
  (repeat' split) <;> simp_all

@[simp] theorem execQueueDestroy_kept (r : CmdRef) (s : State) :
    Out.keeps (execQueueDestroy r s) s := by
  unfold execQueueDestroy
  refine runCmd_kept _ _ _ _ ?_
  intro c k t
  dsimp only
  split
  · simp
  · split
    · simp
    · simp

@[simp] theorem execTimelineCreate_kept (r : CmdRef) (s : State) :
    Out.keeps (execTimelineCreate r s) s := by
  unfold execTimelineCreate
  refine runCmd_kept _ _ _ _ ?_
  intro c k t
  (try dsimp only)
  (repeat' split) <;> simp_all

@[simp] theorem execTimelineDestroy_kept (r : CmdRef) (s : State) :
    Out.keeps (execTimelineDestroy r s) s := by
  unfold execTimelineDestroy
  refine runCmd_kept _ _ _ _ ?_
  intro c k t
  (try dsimp only)
  (repeat' split) <;> simp_all

@[simp] theorem execSetLayout_kept (r : CmdRef) (s : State) :
    Out.keeps (execSetLayout r s) s := by
  unfold execSetLayout
  refine runCmd_kept _ _ _ _ ?_
  intro c k t
  (try dsimp only)
  (repeat' split) <;> simp_all

@[simp] theorem execMemCreate_kept (r : CmdRef) (s : State) :
    Out.keeps (execMemCreate r s) s := by
  unfold execMemCreate
  refine runCmd_kept _ _ _ _ ?_
  intro c k t
  dsimp only
  split
  · simp
  · split
    · simp
    · split
      · simp
      · split
        · simp
        · split
          · split
            · simp
            · rename_i u h
              have e := State.newFast_kept _ _ _ _ _ _ _ _ _ h
              simp_all
          · split <;> simp

@[simp] theorem execMemFree_kept (r : CmdRef) (s : State) :
    Out.keeps (execMemFree r s) s := by
  unfold execMemFree
  refine runCmd_kept _ _ _ _ ?_
  intro c k t
  (try dsimp only)
  (repeat' split) <;> simp_all

@[simp] theorem State.clearMail_kept (s : State) (v : Nat) :
    (State.clearMail s v).keeps s := by
  unfold State.clearMail
  simp

@[simp] theorem State.resetBar_kept (s : State) (v : Nat) :
    (State.resetBar s v).keeps s := by
  unfold State.resetBar
  simp

@[simp] theorem State.destroyWhere_kept (s : State) (p : Nat → Bool) :
    (State.destroyWhere s p).keeps s := by
  unfold State.destroyWhere
  simp

@[simp] theorem execFunctionLevelReset_kept (v : Fin 64) (s : State) :
    Out.keeps (execFunctionLevelReset v s) s := by
  unfold execFunctionLevelReset
  simp

@[simp] theorem execVfEnable_kept (on : Bool) (numVfs : Fin 64) (s : State) :
    Out.keeps (execVfEnable on numVfs s) s := by
  unfold execVfEnable
  simp

/-! ### HostPort -/

@[simp] theorem execTimelineSignal_kept (v : Fin 64) (t : BitVec 16) (value : BitVec 64) (bytes : Nat) (s : State) :
    Out.keeps (execTimelineSignal v t value bytes s) s := by
  unfold execTimelineSignal
  simp

@[simp] theorem State.headDoorbell_kept (s : State) (v ctx : Nat) (value : BitVec 64) (bytes : Nat) (sel : Ctx → Ring) (upd : Ctx → Ring → Ctx) :
    (State.headDoorbell s v ctx value bytes sel upd).keeps s := by
  unfold State.headDoorbell
  (repeat' split) <;> simp_all

@[simp] theorem State.endStop_kept (s : State) (k : Nat) :
    (State.endStop s k).keeps s := by
  unfold State.endStop
  simp

@[simp] theorem execEventRingHeadDoorbell_kept (v : Fin 64) (ctx : Fin 4097) (value : BitVec 64) (bytes : Nat) (s : State) :
    Out.keeps (execEventRingHeadDoorbell v ctx value bytes s) s := by
  unfold execEventRingHeadDoorbell
  (repeat' split) <;> simp_all

@[simp] theorem execFaultRingHeadDoorbell_kept (v : Fin 64) (ctx : Fin 4096) (value : BitVec 64) (bytes : Nat) (s : State) :
    Out.keeps (execFaultRingHeadDoorbell v ctx value bytes s) s := by
  unfold execFaultRingHeadDoorbell
  simp

@[simp] theorem execNoticeRingHeadDoorbell_kept (v : Fin 64) (ctx : Fin 4096) (value : BitVec 64) (bytes : Nat) (s : State) :
    Out.keeps (execNoticeRingHeadDoorbell v ctx value bytes s) s := by
  unfold execNoticeRingHeadDoorbell
  simp

@[simp] theorem State.putMail_kept (s : State) (ch dir : Nat) (l : List (BitVec 32 × BitVec 8)) :
    (State.putMail s ch dir l).keeps s := by
  unfold State.putMail
  simp

@[simp] theorem State.dropPost_kept (s : State) (master ch : Nat) :
    (State.dropPost s master ch).keeps s := by
  unfold State.dropPost
  simp

@[simp] theorem execTxData_kept (master : BitVec 8) (ch : Fin 256) (word : BitVec 32) (s : State) :
    Out.keeps (execTxData master ch word s) s := by
  unfold execTxData
  (repeat' split) <;> simp_all

@[simp] theorem State.wake_kept (s : State) (reader ch : Nat) :
    (State.wake s reader ch).keeps s := by
  unfold State.wake
  simp

@[simp] theorem execDoorbell_kept (master : BitVec 8) (ch : Fin 256) (value : BitVec 32) (s : State) :
    Out.keeps (execDoorbell master ch value s) s := by
  unfold execDoorbell
  (repeat' split) <;> simp_all

@[simp] theorem execCxlMemRequest_kept (write : Option CxlWrite) (offset : Nat) (ecc : EccResult) (s : State) :
    Out.keeps (execCxlMemRequest write offset ecc s) s := by
  unfold execCxlMemRequest
  (repeat' split) <;> simp_all

end Sys2Proof.Machine
end

