-- ==== Sys2Proof/Laws/KeepsConveyor.lean ====
section
/-!
SUPPORT. For the conveyors: one lemma per definition that answers a state. Its state has the queue of
waiting commands and the record memory of the Cask as they were before; of a command, that it goes on.
-/

namespace Sys2Proof.Machine

/-! ### Latches -/

@[simp] theorem State.layoutSlots_kept (s : State) (v n : Nat) :
    (State.layoutSlots s v n).keeps s := by
  unfold State.layoutSlots
  simp

@[simp] theorem State.layoutWort_kept (s : State) (v n : Nat) :
    (State.layoutWort s v n).keeps s := by
  unfold State.layoutWort
  simp

@[simp] theorem State.putStation_kept (s : State) (st : Nat) (x : Station) :
    (State.putStation s st x).keeps s := by
  unfold State.putStation
  simp

@[simp] theorem State.putGrist_kept (s : State) (n : Nat) (x : Slot) :
    (State.putGrist s n x).keeps s := by
  unfold State.putGrist
  simp

@[simp] theorem State.spoilGrist_kept (s : State) (n : Nat) (crcFail : Bool) :
    (State.spoilGrist s n crcFail).keeps s := by
  unfold State.spoilGrist
  simp

@[simp] theorem State.onCores_kept (s : State) (cl : Nat) (e : StaEntry) (f : Core → Core) :
    (State.onCores s cl e f).keeps s := by
  unfold State.onCores
  simp

theorem State.claimCluster_kept (s : State) (cl : Nat) (e : StaEntry) (needScale : Bool) (t : State × List (Nat × Nat × Nat))
    (h : s.claimCluster cl e needScale = some t) : t.1.keeps s := by
  unfold State.claimCluster at h
  have g : ∀ (l : List Nat) (a : Option (State × List (Nat × Nat × Nat))), (∀ u, a = some u → u.1.keeps s) → ∀ u,
      l.foldl (fun a n => a.bind (fun x => ((x.1.core (cl * 4 + n)).claimFor e needScale).map
        (fun y => (x.1.putCore (cl * 4 + n) y.1, x.2 ++ [(n, y.2)])))) a = some u → u.1.keeps s := by
    intro l
    induction l with
    | nil => exact fun a ha => ha
    | cons n r ih =>
      intro a ha
      refine ih _ ?_
      intro u hu
      obtain ⟨v, hv, hw⟩ := Option.bind_eq_some_iff.mp hu
      obtain ⟨c, _, rfl⟩ := Option.map_eq_some_iff.mp hw
      have := ha v hv
      simp_all
  exact g _ _ (by simp) _ h

@[simp] theorem State.onCells_kept (s : State) (st : Nat) (c : Claim) (l : List Nat) (f : Core → Nat → Core) :
    (State.onCells s st c l f).keeps s := by
  unfold State.onCells
  refine foldl_keeps _ ?_ _ _
  intro t x
  (try dsimp only)
  (repeat' split) <;> simp_all

@[simp] theorem State.releaseCells_kept (s : State) (st : Nat) (c : Claim) (l : List Nat) :
    (State.releaseCells s st c l).keeps s := by
  unfold State.releaseCells
  simp

@[simp] theorem State.loseCells_kept (s : State) (st : Nat) (c : Claim) (l : List Nat) :
    (State.loseCells s st c l).keeps s := by
  unfold State.loseCells
  simp

@[simp] theorem State.raiseCopies_kept (s : State) (st : Nat) (c : Claim) (l : List Nat) :
    (State.raiseCopies s st c l).keeps s := by
  unfold State.raiseCopies
  simp

@[simp] theorem State.withdrawCopies_kept (s : State) (st : Nat) (c : Claim) (l : List Nat) :
    (State.withdrawCopies s st c l).keeps s := by
  unfold State.withdrawCopies
  simp

@[simp] theorem State.replaceClaim_kept (s : State) (st : Nat) (c : Claim) (d : Option Claim) :
    (State.replaceClaim s st c d).keeps s := by
  unfold State.replaceClaim
  simp

@[simp] theorem State.cancelClaim_kept (s : State) (st : Nat) (lose : Bool) (c : Claim) :
    (State.cancelClaim s st lose c).keeps s := by
  unfold State.cancelClaim
  simp

@[simp] theorem State.tellLatchLost_kept (s : State) (st : Nat) (e : StaEntry) (l : List Nat) :
    (State.tellLatchLost s st e l).keeps s := by
  unfold State.tellLatchLost
  refine foldl_keeps _ ?_ _ _
  intro t x
  split
  · split <;> simp
  · simp

@[simp] theorem State.loseLatches_kept (s : State) (st k : Nat) (e : StaEntry) (l : List Nat) :
    (State.loseLatches s st k e l).keeps s := by
  unfold State.loseLatches
  simp

@[simp] theorem State.retryLatches_kept (s : State) (st k entry : Nat) (e : StaEntry) (gen : BitVec 16) (cause : MissCause) (l : List Nat) :
    (State.retryLatches s st k entry e gen cause l).keeps s := by
  unfold State.retryLatches
  simp

@[simp] theorem State.claimEntry_kept (s : State) (st k entry n rev : Nat) (p : ConvProg) (e : StaEntry) (gen : BitVec 16)
    (fetched : Bool) (l : List Nat) : (State.claimEntry s st k entry n rev p e gen fetched l).keeps s := by
  unfold State.claimEntry
  extract_lets gone u l one r v stn c
  have hu : u.keeps s := State.loseLatches_kept _ _ _ _ _
  clear_value u
  have g : ∀ a i, (one a i).1.keeps a.1 := by
    intro a i
    unfold one
    split
    · rename_i h
      obtain ⟨w, _, hw⟩ := Option.bind_eq_some_iff.mp h
      split at hw
      · cases hw
      · exact State.claimCluster_kept _ _ _ _ _ hw
    · simp
  have hr : r.1.keeps s := State.keeps_trans (foldl_fst_keeps _ g _ _) hu
  have hv : v.keeps s := State.keeps_trans (State.retryLatches_kept _ _ _ _ _ _ _ _) hr
  clear_value v
  split
  · exact hu
  · split
    · exact State.keeps_trans (State.loseLatches_kept _ _ _ _ _) hu
    · split
      · exact State.keeps_trans (State.retryLatches_kept _ _ _ _ _ _ _ _) (State.keeps_trans (State.stationEvent_kept _ _ _ _) hu)
      · exact State.keeps_trans (State.putStation_kept _ _ _) hv

@[simp] theorem execStationClaim_kept (st : Fin 128) (ctx entry : Nat) (fetched : Bool) (s : State) :
    Out.keeps (execStationClaim st ctx entry fetched s) s := by
  unfold execStationClaim
  dsimp only
  (repeat' split) <;> simp_all

@[simp] theorem State.missClaim_kept (s : State) (st : Nat) (c : Claim) (event : Nat) (cause : MissCause) :
    (State.missClaim s st c event cause).keeps s := by
  unfold State.missClaim
  simp

@[simp] theorem State.supersedeClaim_kept (s : State) (st : Nat) (c : Claim) :
    (State.supersedeClaim s st c).keeps s := by
  unfold State.supersedeClaim
  simp

@[simp] theorem State.meetClaim_kept (s : State) (st : Nat) (x : Slot) (c : Claim) :
    (State.meetClaim s st x c).keeps s := by
  unfold State.meetClaim
  (repeat' split) <;> simp_all

@[simp] theorem execStationCapture_kept (st : Fin 128) (slot : Fin 76800) (crcFail : Bool) (s : State) :
    Out.keeps (execStationCapture st slot crcFail s) s := by
  unfold execStationCapture
  dsimp only
  (repeat' split) <;> simp_all

@[simp] theorem execLatchCopyDone_kept (st : Fin 128) (ctx entry : Nat) (i : Fin 8) (s : State) :
    Out.keeps (execLatchCopyDone st ctx entry i s) s := by
  unfold execLatchCopyDone
  dsimp only
  (repeat' split) <;> simp_all

@[simp] theorem State.retireAt_kept (q n rev : Nat) (x : Slot) (s : State) (st : Nat) :
    (State.retireAt q n rev x s st).keeps s := by
  unfold State.retireAt
  dsimp only
  split
  · simp
  · refine State.keeps_trans (foldl_keeps _ ?_ _ _) (State.keeps_trans (foldl_keeps _ ?_ _ _)
      (State.keeps_trans (foldl_keeps _ ?_ _ _) (State.putStation_kept _ _ _)))
    · intro t y
      simp
    · intro t y
      cases t.staEntry y.ctx y.entry <;> simp
    · intro t y
      simp

@[simp] theorem State.retireLatches_kept (s : State) (q n rev : Nat) (x : Slot) :
    (State.retireLatches s q n rev x).keeps s := by
  unfold State.retireLatches
  simp

@[simp] theorem State.cancelOne_kept (st : Nat) (lose : Bool) (s : State) (c : Claim) :
    (State.cancelOne st lose s c).keeps s := by
  unfold State.cancelOne
  simp

@[simp] theorem State.cancelAt_kept (p : Nat → StaEntry → Bool) (lose : Bool) (s : State) (st : Nat) :
    (State.cancelAt p lose s st).keeps s := by
  unfold State.cancelAt
  dsimp only
  split
  · simp
  · split
    · refine State.keeps_trans (foldl_keeps _ ?_ _ _) (State.keeps_trans (foldl_keeps _ ?_ _ _) (State.putStation_kept _ _ _))
      · intro t y
        split <;> simp
      · intro t y
        simp
    · refine State.keeps_trans (foldl_keeps _ ?_ _ _) (State.putStation_kept _ _ _)
      intro t y
      simp

@[simp] theorem State.cancelLatches_kept (s : State) (p : Nat → StaEntry → Bool) (lose : Bool) :
    (State.cancelLatches s p lose).keeps s := by
  unfold State.cancelLatches
  simp

/-! ### Injectors -/

@[simp] theorem State.putInjector_kept (s : State) (j : Nat) (x : Injector) :
    (State.putInjector s j x).keeps s := by
  unfold State.putInjector
  simp

@[simp] theorem State.fillSlot_kept (s : State) (j n : Nat) (e : InjEntry) (r : InjSlot) (poison : Bool) (payload : Bytes) :
    (State.fillSlot s j n e r poison payload).keeps s := by
  unfold State.fillSlot
  simp

@[simp] theorem State.retireSlot_kept (s : State) (j n counter : Nat) :
    (State.retireSlot s j n counter).keeps s := by
  unfold State.retireSlot
  simp

@[simp] theorem State.injected_kept (s : State) (k entry : Nat) (r : ConvRun) :
    (State.injected s k entry r).keeps s := by
  unfold State.injected
  simp

@[simp] theorem State.askRewrite_kept (s : State) (j n : Nat) :
    (State.askRewrite s j n).keeps s := by
  unfold State.askRewrite
  simp

@[simp] theorem State.tryInject_kept (s : State) (j n : Nat) (y : Nat × Nat × ConvRun × InjEntry) :
    ∀ t, State.tryInject s j n y = some t → t.keeps s := by
  unfold State.tryInject
  dsimp only
  (repeat' split) <;> simp_all

@[simp] theorem State.tryEntries_kept (j n : Nat) (l : List (Nat × Nat × ConvRun × InjEntry)) (s : State) :
    (State.tryEntries j n l s).keeps s := by
  induction l generalizing s with
  | nil => simp [State.tryEntries]
  | cons y r ih =>
    unfold State.tryEntries
    split
    · rename_i t h
      have e := State.tryInject_kept _ _ _ _ _ h
      simp_all
    · simp [ih]

@[simp] theorem State.reinject_kept (s : State) (j : Nat) (a : Reinject) :
    (State.reinject s j a).keeps s := by
  unfold State.reinject
  (repeat' split) <;> simp_all

@[simp] theorem State.injectorFill_kept (s : State) (j n rev : Nat) :
    (State.injectorFill s j n rev).keeps s := by
  unfold State.injectorFill
  dsimp only
  (repeat' split) <;> simp_all

@[simp] theorem State.addFollower_kept (s : State) (j n rev : Nat) (f : InjSlot) :
    (State.addFollower s j n rev f).keeps s := by
  unfold State.addFollower
  (repeat' split) <;> simp_all

@[simp] theorem State.haltRetire_kept (s : State) (j n : Nat) (x : Slot) (f : InjSlot) :
    (State.haltRetire s j n x f).keeps s := by
  unfold State.haltRetire
  dsimp only
  (repeat' split) <;> simp_all

@[simp] theorem State.refreshSlot_kept (s : State) (j n : Nat) (f : InjSlot) (left : BitVec 12) (poison : Bool) :
    (State.refreshSlot s j n f left poison).keeps s := by
  unfold State.refreshSlot
  (repeat' split) <;> simp_all

@[simp] theorem State.putFilled_kept (s : State) (j n : Nat) (f : InjSlot) :
    (State.putFilled s j n f).keeps s := by
  unfold State.putFilled
  simp

@[simp] theorem State.refresh_kept (s : State) (j n : Nat) (f : InjSlot) (left : BitVec 12) :
    (State.refresh s j n f left).keeps s := by
  unfold State.refresh
  simp

@[simp] theorem State.countPass_kept (s : State) (j n rev : Nat) (x : Slot) (f : InjSlot) :
    (State.countPass s j n rev x f).keeps s := by
  unfold State.countPass
  simp

@[simp] theorem State.injectorReturn_kept (s : State) (j n rev : Nat) (x : Slot) (f : InjSlot) :
    (State.injectorReturn s j n rev x f).keeps s := by
  unfold State.injectorReturn
  dsimp only
  (repeat' split) <;> simp_all

@[simp] theorem execInjectorSlotPass_kept (j : Fin 16) (slot : Fin 76800) (crcFail : Bool) (s : State) :
    Out.keeps (execInjectorSlotPass j slot crcFail s) s := by
  unfold execInjectorSlotPass
  dsimp only
  (repeat' split) <;> simp_all

@[simp] theorem execStagingReadDone_kept (j : Fin 16) (ctx entry : Nat) (ecc : EccResult) (s : State) :
    Out.keeps (execStagingReadDone j ctx entry ecc s) s := by
  unfold execStagingReadDone
  dsimp only
  (repeat' split) <;> simp_all

/-! ### StepOps -/

@[simp] theorem State.onStep_kept (s : State) (st : BitVec 32) (f : LiveStep → LiveStep) :
    (State.onStep s st f).keeps s := by
  unfold State.onStep
  simp

@[simp] theorem State.putKiln_kept (s : State) (k : Nat) (x : Kiln) :
    (State.putKiln s k x).keeps s := by
  unfold State.putKiln
  simp

@[simp] theorem State.holdFinal_kept (s : State) (v : Verdict) :
    (State.holdFinal s v).keeps s := by
  unfold State.holdFinal
  (repeat' split) <;> simp_all

@[simp] theorem State.verdictEvent_kept (s : State) (x : LiveStep) (result origin cause decideRev : Nat) :
    (State.verdictEvent s x result origin cause decideRev).keeps s := by
  unfold State.verdictEvent
  simp

@[simp] theorem State.onKilns_kept (s : State) (f : Nat → Kiln → Kiln) :
    (State.onKilns s f).keeps s := by
  unfold State.onKilns
  simp

@[simp] theorem State.mergeCounts_kept (s : State) (st : BitVec 32) (keep : Bool) :
    (State.mergeCounts s st keep).keeps s := by
  unfold State.mergeCounts
  simp

@[simp] theorem State.finishCommits_kept (s : State) (st : BitVec 32) :
    (State.finishCommits s st).keeps s := by
  unfold State.finishCommits
  simp

@[simp] theorem State.commitStep_kept (s : State) (x : LiveStep) (decideRev : Nat) :
    (State.commitStep s x decideRev).keeps s := by
  unfold State.commitStep
  simp

@[simp] theorem State.settleApplies_kept (s : State) :
    (State.settleApplies s).keeps s := by
  unfold State.settleApplies
  simp

@[simp] theorem State.carryClaim_kept (st : Nat) (new : BitVec 16) (s : State) (c : Claim) :
    (State.carryClaim st new s c).keeps s := by
  unfold State.carryClaim
  simp

@[simp] theorem State.carryAt_kept (old new : BitVec 16) (s : State) (st : Nat) :
    (State.carryAt old new s st).keeps s := by
  unfold State.carryAt
  simp

@[simp] theorem State.carryInjector_kept (old new : BitVec 16) (s : State) (j : Nat) :
    (State.carryInjector old new s j).keeps s := by
  unfold State.carryInjector
  simp

@[simp] theorem State.dropGradients_kept (s : State) (gone : BitVec 32 → Bool) :
    (State.dropGradients s gone).keeps s := by
  unfold State.dropGradients
  simp

@[simp] theorem State.carryGen_kept (st : BitVec 32) (old new : BitVec 16) (s : State) :
    (State.carryGen st old new s).keeps s := by
  unfold State.carryGen
  simp

@[simp] theorem State.discardStep_kept (s : State) (x : LiveStep) (origin cause decideRev : Nat) :
    (State.discardStep s x origin cause decideRev).keeps s := by
  unfold State.discardStep
  simp

@[simp] theorem State.decideVerdict_kept (s : State) (r : Nat) :
    (State.decideVerdict s r).keeps s := by
  unfold State.decideVerdict
  (repeat' split) <;> simp_all

@[simp] theorem State.unloadUpd_kept (s : State) (k : Nat) :
    (State.unloadUpd s k).keeps s := by
  unfold State.unloadUpd
  simp

@[simp] theorem State.unloadRet_kept (s : State) (k : Nat) :
    (State.unloadRet s k).keeps s := by
  unfold State.unloadRet
  simp

@[simp] theorem State.unloadConv_kept (s : State) (k : Nat) :
    (State.unloadConv s k).keeps s := by
  unfold State.unloadConv
  simp

@[simp] theorem State.unloadNow_kept (s : State) (k : Nat) :
    (State.unloadNow s k).keeps s := by
  unfold State.unloadNow
  (repeat' split) <;> simp_all

@[simp] theorem State.unloadAll_kept (s : State) :
    (State.unloadAll s).keeps s := by
  unfold State.unloadAll
  simp

@[simp] theorem State.turnMap_kept (st : BitVec 32) (s : State) (k : Nat) :
    (State.turnMap st s k).keeps s := by
  unfold State.turnMap
  (repeat' split) <;> simp_all

@[simp] theorem State.startStep_kept (s : State) (st : BitVec 32) (r : Nat) :
    (State.startStep s st r).keeps s := by
  unfold State.startStep
  simp

@[simp] theorem State.failBroken_kept (s : State) (x : LiveStep) :
    (State.failBroken s x).keeps s := by
  unfold State.failBroken
  simp

@[simp] theorem State.breakSpan_kept (s : State) (cause : Nat) :
    (State.breakSpan s cause).keeps s := by
  unfold State.breakSpan
  simp

/-! ### Programs -/

@[simp] theorem State.dropWaiting_kept (s : State) (k : Nat) :
    (State.dropWaiting s k).keeps s := by
  unfold State.dropWaiting
  (repeat' split) <;> simp_all

@[simp] theorem State.dropWaitingRet_kept (s : State) (k : Nat) :
    (State.dropWaitingRet s k).keeps s := by
  unfold State.dropWaitingRet
  (repeat' split) <;> simp_all

@[simp] theorem State.unloadSoon_kept (s : State) (k : Nat) :
    (State.unloadSoon s k).keeps s := by
  unfold State.unloadSoon
  simp

@[simp] theorem execConveyorLoad_kept (r : CmdRef) (s : State) :
    Out.keeps (execConveyorLoad r s) s := by
  unfold execConveyorLoad
  simp

@[simp] theorem execConveyorUnload_kept (r : CmdRef) (s : State) :
    Out.keeps (execConveyorUnload r s) s := by
  unfold execConveyorUnload
  simp

@[simp] theorem execReturnLoad_kept (r : CmdRef) (s : State) :
    Out.keeps (execReturnLoad r s) s := by
  unfold execReturnLoad
  refine runCmd_kept _ _ _ _ ?_
  intro c k t
  (try dsimp only)
  (repeat' split) <;> simp_all

@[simp] theorem execUpdateLoad_kept (r : CmdRef) (s : State) :
    Out.keeps (execUpdateLoad r s) s := by
  unfold execUpdateLoad
  refine runCmd_kept _ _ _ _ ?_
  intro c k t
  (try dsimp only)
  (repeat' split) <;> simp_all

/-! ### Conveyor -/

@[simp] theorem State.setDelays_kept (s : State) :
    (State.setDelays s).keeps s := by
  unfold State.setDelays
  simp

@[simp] theorem State.setClock_kept (s : State) :
    (State.setClock s).keeps s := by
  unfold State.setClock
  simp

@[simp] theorem execConveyorClockChange_kept (m : Fin 65) (s : State) :
    Out.keeps (execConveyorClockChange m s) s := by
  unfold execConveyorClockChange
  simp

@[simp] theorem State.cancelShared_kept (s : State) :
    (State.cancelShared s).keeps s := by
  unfold State.cancelShared
  simp

@[simp] theorem State.nameStep_kept (s : State) (r : Nat) :
    (State.nameStep s r).keeps s := by
  unfold State.nameStep
  (repeat' split) <;> simp_all

@[simp] theorem State.startNamed_kept (s : State) (r : Nat) :
    (State.startNamed s r).keeps s := by
  unfold State.startNamed
  (repeat' split) <;> simp_all

@[simp] theorem State.openVerdict_kept (s : State) (r : Nat) :
    (State.openVerdict s r).keeps s := by
  unfold State.openVerdict
  (repeat' split) <;> simp_all

@[simp] theorem State.announceHalt_kept (s : State) (r : Nat) :
    (State.announceHalt s r).keeps s := by
  unfold State.announceHalt
  simp

@[simp] theorem State.freshMarkers_kept (s : State) (r : Nat) :
    (State.freshMarkers s r).keeps s := by
  unfold State.freshMarkers
  simp

@[simp] theorem State.haltNow_kept (s : State) :
    (State.haltNow s).keeps s := by
  unfold State.haltNow
  simp

@[simp] theorem State.spareGroup_kept (dir : Nat) (s : State) (g : Nat) :
    (State.spareGroup dir s g).keeps s := by
  unfold State.spareGroup
  simp

@[simp] theorem State.spareNamed_kept (s : State) :
    (State.spareNamed s).keeps s := by
  unfold State.spareNamed
  simp

@[simp] theorem State.boundaryActions_kept (s : State) (r : Nat) :
    (State.boundaryActions s r).keeps s := by
  unfold State.boundaryActions
  simp

@[simp] theorem execRevolutionBoundary_kept (s : State) :
    Out.keeps (execRevolutionBoundary s) s := by
  unfold execRevolutionBoundary
  simp

@[simp] theorem State.rollForward_kept (s : State) :
    ∀ t, State.rollForward s = some t → t.keeps s := by
  unfold State.rollForward
  dsimp only
  (repeat' split) <;> simp_all

@[simp] theorem State.paceLock_kept (s : State) (m : Marker) :
    (State.paceLock s m).keeps s := by
  unfold State.paceLock
  split
  · simp
  · rename_i t h
    have e := State.rollForward_kept _ _ h
    simp_all

@[simp] theorem State.countMarker_kept (s : State) (m : Marker) :
    (State.countMarker s m).keeps s := by
  unfold State.countMarker
  simp

@[simp] theorem State.paceDisagree_kept (s : State) (src kept marker : Nat) :
    (State.paceDisagree s src kept marker).keeps s := by
  unfold State.paceDisagree
  simp

@[simp] theorem State.takeMarker_kept (s : State) (m : Marker) :
    (State.takeMarker s m).keeps s := by
  unfold State.takeMarker
  simp

@[simp] theorem State.passMarker_kept (s : State) (m : Marker) :
    (State.passMarker s m).keeps s := by
  unfold State.passMarker
  simp

@[simp] theorem execMemberMarkerPass_kept (crcFail : Bool) (s : State) :
    Out.keeps (execMemberMarkerPass crcFail s) s := by
  unfold execMemberMarkerPass
  (repeat' split) <;> simp_all

@[simp] theorem State.readStatusBytes_kept (s : State) (m : Marker) :
    (State.readStatusBytes s m).keeps s := by
  unfold State.readStatusBytes
  simp

@[simp] theorem execMarkerReturnMaster_kept (s : State) :
    Out.keeps (execMarkerReturnMaster s) s := by
  unfold execMarkerReturnMaster
  (repeat' split) <;> simp_all

@[simp] theorem execStationMarkerPass_kept (st : Fin 128) (crcFail : Bool) (s : State) :
    Out.keeps (execStationMarkerPass st crcFail s) s := by
  unfold execStationMarkerPass
  simp

@[simp] theorem State.askHalt_kept (s : State) :
    (State.askHalt s).keeps s := by
  unfold State.askHalt
  simp

@[simp] theorem execConveyorHalt_kept (r : CmdRef) (s : State) :
    Out.keeps (execConveyorHalt r s) s := by
  unfold execConveyorHalt
  refine runCmd_kept _ _ _ _ ?_
  intro c k t
  (try dsimp only)
  (repeat' split) <;> simp_all

@[simp] theorem State.shiftRuns_kept (s : State) (h d : Nat) :
    (State.shiftRuns s h d).keeps s := by
  unfold State.shiftRuns
  simp

@[simp] theorem State.resumeNow_kept (s : State) :
    (State.resumeNow s).keeps s := by
  unfold State.resumeNow
  (repeat' split) <;> simp_all

@[simp] theorem execConveyorResume_kept (r : CmdRef) (s : State) :
    Out.keeps (execConveyorResume r s) s := by
  unfold execConveyorResume
  simp

@[simp] theorem State.dropMismatched_kept (s : State) (k : Nat) :
    (State.dropMismatched s k).keeps s := by
  unfold State.dropMismatched
  (repeat' split) <;> simp_all

@[simp] theorem State.writeSpan_kept (s : State) (value : Nat) :
    (State.writeSpan s value).keeps s := by
  unfold State.writeSpan
  simp

@[simp] theorem execSpanConfigWrite_kept (value : BitVec 64) (s : State) :
    Out.keeps (execSpanConfigWrite value s) s := by
  unfold execSpanConfigWrite
  simp

@[simp] theorem execSpanNeighbourExchange_kept (down : Bool) (spanId : BitVec 32) (index : BitVec 6) (lastCommitted : BitVec 32) (latency10ps : Nat) (s : State) :
    Out.keeps (execSpanNeighbourExchange down spanId index lastCommitted latency10ps s) s := by
  unfold execSpanNeighbourExchange
  simp

@[simp] theorem State.enterTile_kept (s : State) (n : Nat) (y : Slot) :
    (State.enterTile s n y).keeps s := by
  unfold State.enterTile
  simp

@[simp] theorem execSpanIngress_kept (slot : Fin 76800) (x : Ingress) (s : State) :
    Out.keeps (execSpanIngress slot x s) s := by
  unfold execSpanIngress
  (repeat' split) <;> simp_all

@[simp] theorem execSpanStarveTimeout_kept (s : State) :
    Out.keeps (execSpanStarveTimeout s) s := by
  unfold execSpanStarveTimeout
  simp

@[simp] theorem execMarkerReturnTimeout_kept (s : State) :
    Out.keeps (execMarkerReturnTimeout s) s := by
  unfold execMarkerReturnTimeout
  simp

@[simp] theorem execHaltedLinkLoss_kept (down : Bool) (s : State) :
    Out.keeps (execHaltedLinkLoss down s) s := by
  unfold execHaltedLinkLoss
  simp

@[simp] theorem State.writeGrant_kept (s : State) (v value : Nat) :
    (State.writeGrant s v value).keeps s := by
  unfold State.writeGrant
  simp

@[simp] theorem execSharedGrantWrite_kept (v : Fin 64) (value : BitVec 8) (s : State) :
    Out.keeps (execSharedGrantWrite v value s) s := by
  unfold execSharedGrantWrite
  simp

/-! ### WortLine -/

@[simp] theorem State.putWort_kept (s : State) (n : Nat) (x : Slot) :
    (State.putWort s n x).keeps s := by
  unfold State.putWort
  simp

@[simp] theorem State.onRetRun_kept (s : State) (k : Nat) (st : BitVec 32) (f : RetRun → RetRun) :
    (State.onRetRun s k st f).keeps s := by
  unfold State.onRetRun
  simp

@[simp] theorem State.poisonStep_kept (s : State) (st : BitVec 32) :
    (State.poisonStep s st).keeps s := by
  unfold State.poisonStep
  simp

@[simp] theorem State.putGrad_kept (s : State) (k n : Nat) (x : Option GradSlot) :
    (State.putGrad s k n x).keeps s := by
  unfold State.putGrad
  simp

theorem State.handTile_kept (s : State) (k : Nat) (x : KilnTile) (t : State) (h : s.handTile k x = some t) : t.keeps s := by
  unfold State.handTile at h
  dsimp only at h
  (repeat' split at h) <;> first | (cases h; done) | (obtain rfl := Option.some.inj h; simp)

@[simp] theorem State.emptyWort_kept (s : State) (k n : Nat) :
    (State.emptyWort s k n).keeps s := by
  unfold State.emptyWort
  simp

@[simp] theorem State.putTally_kept (s : State) (n : Nat) (x : Slot) (c : Nat) :
    (State.putTally s n x c).keeps s := by
  unfold State.putTally
  simp

@[simp] theorem State.gradLap_kept (s : State) (k n : Nat) (x : Slot) (g : GradSlot) :
    (State.gradLap s k n x g).keeps s := by
  unfold State.gradLap
  simp

@[simp] theorem State.gradRetire_kept (s : State) (k n : Nat) (g : GradSlot) :
    (State.gradRetire s k n g).keeps s := by
  unfold State.gradRetire
  simp

@[simp] theorem State.gradReturn_kept (s : State) (k n : Nat) (x : Slot) (g : GradSlot) :
    (State.gradReturn s k n x g).keeps s := by
  unfold State.gradReturn
  split
  · simp
  · split
    · simp
    · split
      · split
        · simp
        · rename_i t h
          have e := State.handTile_kept _ _ _ _ h
          split <;> simp_all
      · simp

@[simp] theorem State.copyOne_kept (k : Nat) (x : Slot) (s : State) (y : Nat × Nat × BitVec 32) :
    (State.copyOne k x s y).keeps s := by
  unfold State.copyOne
  split
  · simp
  · rename_i t h
    have e := State.handTile_kept _ _ _ _ h
    simp_all

@[simp] theorem State.openGrad_kept (s : State) (k n : Nat) (y : Nat × Nat × RetRun × GateEntry) :
    (State.openGrad s k n y).keeps s := by
  unfold State.openGrad
  simp

@[simp] theorem State.gradOpen_kept (s : State) (k n rev : Nat) :
    (State.gradOpen s k n rev).keeps s := by
  unfold State.gradOpen
  (repeat' split) <;> simp_all

@[simp] theorem State.gradPark_kept (s : State) (k n : Nat) (x : Slot) :
    (State.gradPark s k n x).keeps s := by
  unfold State.gradPark
  simp

@[simp] theorem State.unpark_kept (s : State) (k n : Nat) :
    (State.unpark s k n).keeps s := by
  unfold State.unpark
  simp

@[simp] theorem State.gradReopen_kept (s : State) (k n : Nat) (x : Slot) :
    (State.gradReopen s k n x).keeps s := by
  unfold State.gradReopen
  simp

@[simp] theorem State.gradBadkind_kept (s : State) (k n : Nat) :
    (State.gradBadkind s k n).keeps s := by
  unfold State.gradBadkind
  simp

@[simp] theorem State.gradCrc_kept (s : State) (k n : Nat) (g : GradSlot) :
    (State.gradCrc s k n g).keeps s := by
  unfold State.gradCrc
  simp

@[simp] theorem State.gradMeet_kept (s : State) (k n : Nat) (x : Slot) :
    (State.gradMeet s k n x).keeps s := by
  unfold State.gradMeet
  (repeat' split) <;> simp_all

@[simp] theorem State.gradHalt_kept (s : State) (k n : Nat) (x : Slot) :
    (State.gradHalt s k n x).keeps s := by
  unfold State.gradHalt
  (repeat' split) <;> simp_all

@[simp] theorem State.gradUnpark_kept (s : State) (k n rev : Nat) (p : ParkedSlot) :
    (State.gradUnpark s k n rev p).keeps s := by
  unfold State.gradUnpark
  simp

@[simp] theorem State.gradCopy_kept (s : State) (k n : Nat) (x : Slot) :
    (State.gradCopy s k n x).keeps s := by
  unfold State.gradCopy
  simp

@[simp] theorem State.gradMarkerPass_kept (s : State) (k : Nat) (crcFail : Bool) :
    (State.gradMarkerPass s k crcFail).keeps s := by
  unfold State.gradMarkerPass
  simp

@[simp] theorem execGradientInjectorPass_kept (k : Fin 8) (slot : Fin 76800) (crcFail : Bool) (s : State) :
    Out.keeps (execGradientInjectorPass k slot crcFail s) s := by
  unfold execGradientInjectorPass
  dsimp only
  (repeat' split) <;> simp_all

@[simp] theorem State.putContribs_kept (s : State) (st : Nat) (l : List Contribution) :
    (State.putContribs s st l).keeps s := by
  unfold State.putContribs
  simp

@[simp] theorem execContributionDue_kept (st : Fin 128) (ctx entry : Nat) (s : State) :
    Out.keeps (execContributionDue st ctx entry s) s := by
  unfold execContributionDue
  (repeat' split) <;> simp_all

@[simp] theorem State.countAddSat_kept (s : State) (k st : Nat) (step : BitVec 32) (n : Nat) :
    (State.countAddSat s k st step n).keeps s := by
  unfold State.countAddSat
  simp

@[simp] theorem State.replaceContrib_kept (s : State) (st : Nat) (c : Contribution) (d : Option Contribution) :
    (State.replaceContrib s st c d).keeps s := by
  unfold State.replaceContrib
  simp

@[simp] theorem State.loseContrib_kept (s : State) (st : Nat) (c : Contribution) :
    (State.loseContrib s st c).keeps s := by
  unfold State.loseContrib
  simp

@[simp] theorem State.readSubtile_kept (s : State) (st : Nat) (e : RstaEntry) (c : Contribution) (i cl : Nat) :
    (State.readSubtile s st e c i cl).keeps s := by
  unfold State.readSubtile
  simp

@[simp] theorem State.subtileGrant_kept (s : State) (st : Nat) (c : Contribution) (i : Nat) :
    (State.subtileGrant s st c i).1.keeps s := by
  unfold State.subtileGrant
  dsimp only
  (repeat' split) <;> simp_all

@[simp] theorem execSubtileRead_kept (st : Fin 128) (ctx entry : Nat) (uncorrectable : Bool) (s : State) :
    Out.keeps (execSubtileRead st ctx entry uncorrectable s) s := by
  unfold execSubtileRead
  cases (s.contribs st.val).find? (fun c => c.ctx == ctx && c.entry == entry && !c.armed) with
  | none => simp
  | some c =>
    cases s.rstaEntry ctx entry with
    | none => simp
    | some e =>
      dsimp only
      cases nextCluster e c with
      | none => simp
      | some i =>
        dsimp only
        cases (s.stationClusters st.val)[i]? with
        | none => simp
        | some cl =>
          dsimp only
          have k := State.subtileGrant_kept s st.val c i
          generalize s.subtileGrant st.val c i = q at k ⊢
          obtain ⟨t, d⟩ := q
          cases d <;> (repeat' split) <;> simp_all

@[simp] theorem State.meetWindow_kept (st n rev : Nat) (late bufferUe : Bool) (s : State) (c : Contribution) :
    (State.meetWindow st n rev late bufferUe s c).keeps s := by
  unfold State.meetWindow
  (repeat' split) <;> simp_all

@[simp] theorem State.missWindow_kept (st n rev : Nat) (s : State) (k : Nat) :
    (State.missWindow st n rev s k).keeps s := by
  unfold State.missWindow
  (repeat' split) <;> simp_all

@[simp] theorem State.tallyFold_kept (s : State) (n : Nat) :
    (State.tallyFold s n).keeps s := by
  unfold State.tallyFold
  simp

@[simp] theorem State.wortMarkerPass_kept (s : State) (st : Nat) (crcFail : Bool) :
    (State.wortMarkerPass s st crcFail).keeps s := by
  unfold State.wortMarkerPass
  simp

@[simp] theorem execAddWindowPass_kept (st : Fin 128) (slot : Fin 76800) (late bufferUe crcFail : Bool) (s : State) :
    Out.keeps (execAddWindowPass st slot late bufferUe crcFail s) s := by
  unfold execAddWindowPass
  dsimp only
  (repeat' split) <;> simp_all

@[simp] theorem State.settleAborts_kept (s : State) (x : LiveStep) (stands : Bool) :
    (State.settleAborts s x stands).keeps s := by
  unfold State.settleAborts
  simp

@[simp] theorem State.passVerdict_kept (s : State) (rev : Nat) :
    (State.passVerdict s rev).keeps s := by
  unfold State.passVerdict
  dsimp only
  (repeat' split) <;> simp_all

@[simp] theorem execVerdictRecordWrite_kept (crcFail : Bool) (s : State) :
    Out.keeps (execVerdictRecordWrite crcFail s) s := by
  unfold execVerdictRecordWrite
  simp

@[simp] theorem execVerdictSlotRebuild_kept (s : State) :
    Out.keeps (execVerdictSlotRebuild s) s := by
  unfold execVerdictSlotRebuild
  (repeat' split) <;> simp_all

end Sys2Proof.Machine
end

