-- ==== Sys2Proof/Laws/KeepsKiln.lean ====
section
/-!
SUPPORT. For the Kilns, the steps, the arbiters and the memory tiers: one lemma per definition that answers a state. Its state has the queue of
waiting commands and the record memory of the Cask as they were before; of a command, that it goes on.
-/

namespace Sys2Proof.Machine

/-! ### KilnOps -/

@[simp] theorem State.loseStripe_kept (k : Nat) (s : State) (i : Nat) :
    (State.loseStripe k s i).keeps s := by
  unfold State.loseStripe
  simp

@[simp] theorem State.gristWrite_kept (s : State) (k va : Nat) (bs : Bytes) :
    (State.gristWrite s k va bs).keeps s := by
  unfold State.gristWrite
  (repeat' split) <;> simp_all

@[simp] theorem State.writeScales_kept (s : State) (k : Nat) (m : MapEntry) (gen : BitVec 16) (l : List (Nat × Nat)) :
    (State.writeScales s k m gen l).keeps s := by
  unfold State.writeScales
  simp

@[simp] theorem State.writePart_kept (s : State) (k : Nat) (m : MapEntry) (gen : BitVec 16) (e : GroupEntry) (p : WcPart) :
    (State.writePart s k m gen e p).keeps s := by
  unfold State.writePart
  simp

@[simp] theorem State.copyPart_kept (s : State) (q : Nat) (st : BitVec 32) (k : Nat) (m : MapEntry) (gen : BitVec 16)
    (format : BitVec 8) (e : Option GroupEntry) : (State.copyPart s q st k m gen format e).keeps s := by
  unfold State.copyPart
  dsimp only
  split
  · split <;> simp
  · refine State.keeps_trans (foldl_keeps _ ?_ _ _) (by split <;> simp)
    intro t y
    split <;> simp

@[simp] theorem State.report_kept (s : State) (j a : Nat) (gen : BitVec 16) :
    (State.report s j a gen).keeps s := by
  unfold State.report
  simp

@[simp] theorem State.scaleDone_kept (s : State) (q k : Nat) (m : MapEntry) (gen : BitVec 16) :
    (State.scaleDone s q k m gen).keeps s := by
  unfold State.scaleDone
  (repeat' split) <;> simp_all

@[simp] theorem State.partDone_kept (s : State) (q k : Nat) (m : MapEntry) (gen : BitVec 16) :
    (State.partDone s q k m gen).keeps s := by
  unfold State.partDone
  (repeat' split) <;> simp_all

@[simp] theorem State.failLive_kept (s : State) (shared : Bool) :
    (State.failLive s shared).keeps s := by
  unfold State.failLive
  simp

@[simp] theorem State.tellLost_kept (s : State) (a tile : Nat) :
    (State.tellLost s a tile).keeps s := by
  unfold State.tellLost
  simp

@[simp] theorem State.declareLost_kept (s : State) (q a : Nat) (tile : BitVec 32) (blocks : List Nat) (cause : Nat) :
    (State.declareLost s q a tile blocks cause).keeps s := by
  unfold State.declareLost
  simp

@[simp] theorem State.refuseTile_kept (s : State) (q : Nat) (st : BitVec 32) :
    (State.refuseTile s q st).keeps s := by
  unfold State.refuseTile
  simp

@[simp] theorem State.loseParked_kept (s : State) (q : Nat) :
    (State.loseParked s q).keeps s := by
  unfold State.loseParked
  simp

@[simp] theorem State.noteLost_kept (s : State) (q : Nat) :
    (State.noteLost s q).keeps s := by
  unfold State.noteLost
  refine State.keeps_trans (foldl_keeps _ ?_ _ _) (State.loseParked_kept s q)
  intro t x
  (try dsimp only)
  (repeat' split) <;> simp_all

@[simp] theorem State.readUnits_kept (s : State) (k : Nat) (units : List Nat) (reads : SlowReads) :
    (State.readUnits s k units reads).keeps s := by
  unfold State.readUnits
  simp

@[simp] theorem State.loseAll_kept (s : State) (k : Nat) :
    (State.loseAll s k).keeps s := by
  unfold State.loseAll
  simp

@[simp] theorem State.countNonfinite_kept (s : State) (q : Nat) (st : BitVec 32) (ws : List Word) :
    (State.countNonfinite s q st ws).keeps s := by
  unfold State.countNonfinite
  simp

@[simp] theorem State.countSat_kept (s : State) (q n : Nat) :
    (State.countSat s q n).keeps s := by
  unfold State.countSat
  simp

@[simp] theorem State.countKilnSat_kept (s : State) (q : Nat) (st : BitVec 32) (n : Nat) :
    (State.countKilnSat s q st n).keeps s := by
  unfold State.countKilnSat
  simp

/-! ### Kiln -/

@[simp] theorem State.exportTile_kept (s : State) (q : Nat) (t : KilnTile) :
    (State.exportTile s q t).keeps s := by
  unfold State.exportTile
  (repeat' split) <;> simp_all

@[simp] theorem State.countTile_kept (s : State) (q : Nat) (t : KilnTile) (c : TileCheck) :
    (State.countTile s q t c).keeps s := by
  unfold State.countTile
  dsimp only
  (repeat' split) <;> simp_all

@[simp] theorem State.settleTile_kept (s : State) (q : Nat) (old new : KilnTile) (parked : Bool) :
    (State.settleTile s q old new parked).keeps s := by
  unfold State.settleTile
  simp

@[simp] theorem State.dropTile_kept (s : State) (q : Nat) (t : KilnTile) :
    (State.dropTile s q t).keeps s := by
  unfold State.dropTile
  simp

@[simp] theorem execKilnTileTakeover_kept (k : Fin 8) (s : State) :
    Out.keeps (execKilnTileTakeover k s) s := by
  unfold execKilnTileTakeover
  dsimp only
  (repeat' split) <;> simp_all

@[simp] theorem State.addJob_kept (s : State) (q : Nat) (t : KilnTile) (frozen : Bool) :
    (State.addJob s q t frozen).keeps s := by
  unfold State.addJob
  (repeat' split) <;> simp_all

@[simp] theorem State.updateTile_kept (s : State) (q : Nat) (t : KilnTile) (reads : SlowReads) (e : GroupEntry) (m : MapEntry) :
    (State.updateTile s q t reads e m).keeps s := by
  unfold State.updateTile
  dsimp only
  (repeat' split) <;> simp_all

@[simp] theorem State.readParked_kept (s : State) (q : Nat) (t : KilnTile) (reads : SlowReads) :
    (State.readParked s q t reads).keeps s := by
  unfold State.readParked
  simp

@[simp] theorem execKilnUpdateTile_kept (k : Fin 8) (reads : SlowReads) (s : State) :
    Out.keeps (execKilnUpdateTile k reads s) s := by
  unfold execKilnUpdateTile
  dsimp only
  (repeat' split) <;> simp_all

@[simp] theorem State.doJob_kept (s : State) (q : Nat) (j : WcJob) :
    (State.doJob s q j).keeps s := by
  unfold State.doJob
  dsimp only
  (repeat' split) <;> simp_all

@[simp] theorem State.countWaits_kept (s : State) (q : Nat) :
    (State.countWaits s q).keeps s := by
  unfold State.countWaits
  simp

@[simp] theorem execWorkingCopyWrite_kept (k : Fin 8) (s : State) :
    Out.keeps (execWorkingCopyWrite k s) s := by
  unfold execWorkingCopyWrite
  dsimp only
  (repeat' split) <;> simp_all

@[simp] theorem State.rewritePart_kept (gen : BitVec 16) (s : State) (y : Nat × MapEntry) :
    (State.rewritePart gen s y).keeps s := by
  unfold State.rewritePart
  (repeat' split) <;> simp_all

@[simp] theorem execKilnRewriteDone_kept (k : Fin 8) (j : Fin 16) (slot : Fin 76800) (reads : SlowReads) (s : State) :
    Out.keeps (execKilnRewriteDone k j slot reads s) s := by
  unfold execKilnRewriteDone
  dsimp only
  (repeat' split) <;> simp_all

@[simp] theorem execStripeFlushTimeout_kept (k : Fin 8) (s : State) :
    Out.keeps (execStripeFlushTimeout k s) s := by
  unfold execStripeFlushTimeout
  dsimp only
  (repeat' split) <;> simp_all

@[simp] theorem State.putStripe_kept (q : Nat) (reads : SlowReads) (s : State) (i : Nat) :
    (State.putStripe q reads s i).keeps s := by
  unfold State.putStripe
  simp

@[simp] theorem execStripeWriteDone_kept (k : Fin 8) (reads : SlowReads) (s : State) :
    Out.keeps (execStripeWriteDone k reads s) s := by
  unfold execStripeWriteDone
  dsimp only
  (repeat' split) <;> simp_all

@[simp] theorem execKilnRead_kept (r : CmdRef) (reads : SlowReads) (s : State) :
    Out.keeps (execKilnRead r reads s) s := by
  unfold execKilnRead
  simp

@[simp] theorem State.writeBlock_kept (q : Nat) (s : State) (b : Nat) (ws : List Word) :
    (State.writeBlock q s b ws).keeps s := by
  unfold State.writeBlock
  simp

@[simp] theorem State.foundTiles_kept (s : State) (q k first count : Nat) :
    (State.foundTiles s q k first count).keeps s := by
  unfold State.foundTiles
  simp

@[simp] theorem State.writeCopies_kept (s : State) (q k first count : Nat) (table : List GroupEntry) :
    (State.writeCopies s q k first count table).keeps s := by
  unfold State.writeCopies
  refine foldl_keeps _ ?_ _ _
  intro t x
  (try dsimp only)
  (repeat' split) <;> simp_all

@[simp] theorem State.holdWrite_kept (s : State) (q n : Nat) (r : CmdRef) :
    (State.holdWrite s q n r).keeps s := by
  unfold State.holdWrite
  simp

@[simp] theorem State.writeRange_kept (s : State) (q first : Nat) (words : List (List Word)) (reads : SlowReads) :
    (State.writeRange s q first words reads).keeps s := by
  unfold State.writeRange
  simp

@[simp] theorem execKilnWrite_kept (r : CmdRef) (reads : SlowReads) (s : State) :
    Out.keeps (execKilnWrite r reads s) s := by
  unfold execKilnWrite
  simp

@[simp] theorem State.applyEntry_kept (r : CmdRef) (c : Cmd) (k : Nat) (s : State) (n : Nat) :
    (State.applyEntry r c k s n).keeps s := by
  unfold State.applyEntry
  dsimp only
  (repeat' split) <;> simp_all

@[simp] theorem execKilnApply_kept (r : CmdRef) (s : State) :
    Out.keeps (execKilnApply r s) s := by
  unfold execKilnApply
  simp

/-! ### Steps -/

@[simp] theorem execStepOpen_kept (r : CmdRef) (s : State) :
    Out.keeps (execStepOpen r s) s := by
  unfold execStepOpen
  simp

@[simp] theorem State.latchAll_kept (s : State) (t : LatchedTable) :
    (State.latchAll s t).keeps s := by
  unfold State.latchAll
  simp

@[simp] theorem State.openedFor_kept (s : State) (q : OpenReq) :
    (State.openedFor s q).keeps s := by
  unfold State.openedFor
  simp

@[simp] theorem execStepOpenExecute_kept (s : State) :
    Out.keeps (execStepOpenExecute s) s := by
  unfold execStepOpenExecute
  (repeat' split) <;> simp_all

@[simp] theorem execStepClose_kept (r : CmdRef) (s : State) :
    Out.keeps (execStepClose r s) s := by
  unfold execStepClose
  refine runCmd_kept _ _ _ _ ?_
  intro c k t
  (try dsimp only)
  (repeat' split) <;> simp_all

@[simp] theorem execStepCloseAbort_kept (r : CmdRef) (s : State) :
    Out.keeps (execStepCloseAbort r s) s := by
  unfold execStepCloseAbort
  simp

@[simp] theorem execStepCommit_kept (r : CmdRef) (s : State) :
    Out.keeps (execStepCommit r s) s := by
  unfold execStepCommit
  refine runCmd_kept _ _ _ _ ?_
  intro c k t
  (try dsimp only)
  (repeat' split) <;> simp_all

@[simp] theorem execEvalOpen_kept (r : CmdRef) (s : State) :
    Out.keeps (execEvalOpen r s) s := by
  unfold execEvalOpen
  simp

@[simp] theorem execEvalClose_kept (r : CmdRef) (s : State) :
    Out.keeps (execEvalClose r s) s := by
  unfold execEvalClose
  simp

/-! ### MemoryTiers -/

@[simp] theorem State.putPchan_kept (s : State) (p : Nat) (x : Pchan) :
    (State.putPchan s p x).keeps s := by
  unfold State.putPchan
  simp

@[simp] theorem State.missReturn_kept (s : State) (p cl : Nat) :
    (State.missReturn s p cl).keeps s := by
  unfold State.missReturn
  (repeat' split) <;> simp_all

@[simp] theorem State.onPchan_kept (s : State) (p t : Nat) (f : Arb → Arb) :
    (State.onPchan s p t f).keeps s := by
  unfold State.onPchan
  refine foldl_keeps _ ?_ _ _
  intro t x
  (try dsimp only)
  (repeat' split) <;> simp_all

@[simp] theorem State.onInst_kept (s : State) (c : ArbClass) (inst t : Nat) (f : Arb → Arb) :
    (State.onInst s c inst t f).keeps s := by
  unfold State.onInst
  simp

@[simp] theorem State.letIn_kept (s : State) (p : Nat) (h : Head) :
    (State.letIn s p h).2.keeps s := by
  unfold State.letIn
  dsimp only
  (repeat' split) <;> simp_all

@[simp] theorem State.admit_kept (s : State) (p : Nat) (h : Head) :
    (State.letIn s p h).2.keeps s := by
  unfold State.letIn
  dsimp only
  (repeat' split) <;> simp_all

@[simp] theorem State.requestPchan_kept (s : State) (p : Nat) (h : Head) :
    (State.requestPchan s p h).keeps s := by
  unfold State.requestPchan
  (repeat' split) <;> simp_all

@[simp] theorem State.startMigration_kept (s : State) (h : Nat) :
    (State.startMigration s h).keeps s := by
  unfold State.startMigration
  dsimp only
  (repeat' split) <;> simp_all

@[simp] theorem State.keepRepair_kept (s : State) (r : RepairList) (l : List (Nat × Nat × Nat)) :
    (State.keepRepair s r l).keeps s := by
  unfold State.keepRepair
  simp

@[simp] theorem State.failPchan_kept (s : State) (p : Nat) :
    (State.failPchan s p).keeps s := by
  unfold State.failPchan
  simp

@[simp] theorem execMigrationSectorCopy_kept (h : Fin 16) (ecc : EccResult) (s : State) :
    Out.keeps (execMigrationSectorCopy h ecc s) s := by
  unfold execMigrationSectorCopy
  dsimp only
  (repeat' split) <;> simp_all

@[simp] theorem State.releaseHeld_kept (s : State) (p q t : Nat) :
    (State.releaseHeld s p q t).keeps s := by
  unfold State.releaseHeld
  simp

@[simp] theorem State.repoint_kept (s : State) (p q : Nat) :
    (State.repoint s p q).keeps s := by
  unfold State.repoint
  simp

@[simp] theorem execMigrationSwitch_kept (h : Fin 16) (cycle : Nat) (s : State) :
    Out.keeps (execMigrationSwitch h cycle s) s := by
  unfold execMigrationSwitch
  dsimp only
  (repeat' split) <;> simp_all

@[simp] theorem State.openWindow_kept (s : State) (p : Nat) (cause : RetrainCause) (t : Nat) :
    (State.openWindow s p cause t).keeps s := by
  unfold State.openWindow
  simp

@[simp] theorem State.closeWindow1_kept (s : State) (p t : Nat) :
    (State.closeWindow1 s p t).keeps s := by
  unfold State.closeWindow1
  dsimp only
  (repeat' split) <;> simp_all

@[simp] theorem State.escalate_kept (s : State) (p : Nat) (r : HbmTransfer) (t : Nat) :
    (State.escalate s p r t).keeps s := by
  unfold State.escalate
  simp

@[simp] theorem execHbmParityRetry_kept (p : Fin 1024) (req : HbmTransfer) (passes : Bool) (cycle : Nat) (s : State) :
    Out.keeps (execHbmParityRetry p req passes cycle s) s := by
  unfold execHbmParityRetry
  simp

@[simp] theorem execRetrainWindowOpen_kept (p : Fin 1024) (cause : RetrainCause) (cycle : Nat) (s : State) :
    Out.keeps (execRetrainWindowOpen p cause cycle s) s := by
  unfold execRetrainWindowOpen
  (repeat' split) <;> simp_all

@[simp] theorem execRetrainWindowEnd_kept (p : Fin 1024) (mC : Int) (cycle : Nat) (s : State) :
    Out.keeps (execRetrainWindowEnd p mC cycle s) s := by
  unfold execRetrainWindowEnd
  simp

@[simp] theorem execRetrainTimeout_kept (p : Fin 1024) (cycle : Nat) (s : State) :
    Out.keeps (execRetrainTimeout p cycle s) s := by
  unfold execRetrainTimeout
  simp

@[simp] theorem execPatrolScrubRead_kept (p : Fin 1024) (offset : Nat) (result : EccResult) (last : Bool) (s : State) :
    Out.keeps (execPatrolScrubRead p offset result last s) s := by
  unfold execPatrolScrubRead
  (repeat' split) <;> simp_all

@[simp] theorem execMissEntryAlloc_kept (cluster : Fin 1088) (p : Fin 1024) (waited : Nat) (s : State) :
    Out.keeps (execMissEntryAlloc cluster p waited s) s := by
  unfold execMissEntryAlloc
  simp

@[simp] theorem execRegulatorCharge_kept (v : Fin 64) (d : Fin 8) (waitedNs : Nat) (s : State) :
    Out.keeps (execRegulatorCharge v d waitedNs s) s := by
  unfold execRegulatorCharge
  (repeat' split) <;> simp_all

@[simp] theorem State.roomPrefetch_kept (s : State) (cl : Nat) :
    (State.roomPrefetch s cl).keeps s := by
  unfold State.roomPrefetch
  simp

@[simp] theorem State.tablePrefetch_kept (s : State) (cl k : Nat) :
    (State.tablePrefetch s cl k).keeps s := by
  unfold State.tablePrefetch
  simp

@[simp] theorem execPrefetchIssue_kept (cluster : Fin 1088) (tracker : Fin 16) (s : State) :
    Out.keeps (execPrefetchIssue cluster tracker s) s := by
  unfold execPrefetchIssue
  dsimp only
  (repeat' split) <;> simp_all

@[simp] theorem State.putLp_kept (s : State) (q : Nat) (x : LpPackage) :
    (State.putLp s q x).keeps s := by
  unfold State.putLp
  simp

@[simp] theorem State.failLp_kept (s : State) (q reason : Nat) :
    (State.failLp s q reason).keeps s := by
  unfold State.failLp
  simp

@[simp] theorem execLpLinkRetry_kept (q : Fin 32) (passes : LinkTry) (s : State) :
    Out.keeps (execLpLinkRetry q passes s) s := by
  unfold execLpLinkRetry
  simp

@[simp] theorem execLpRetrainWindow_kept (q : Fin 32) (succeeds : Bool) (s : State) :
    Out.keeps (execLpRetrainWindow q succeeds s) s := by
  unfold execLpRetrainWindow
  simp

/-! ### ArbiterCommands -/

@[simp] theorem execArbiterRequest_kept (c : ArbClass) (inst req beats cycle : Nat) (s : State) :
    Out.keeps (execArbiterRequest c inst req beats cycle s) s := by
  unfold execArbiterRequest
  simp

@[simp] theorem execArbiterDecision_kept (c : ArbClass) (inst cycle : Nat) (s : State) :
    Out.keeps (execArbiterDecision c inst cycle s) s := by
  unfold execArbiterDecision
  simp

@[simp] theorem execBackoffExpire_kept (c : ArbClass) (inst req cycle : Nat) (s : State) :
    Out.keeps (execBackoffExpire c inst req cycle s) s := by
  unfold execBackoffExpire
  simp

@[simp] theorem execEmergencyPreempt_kept (c : ArbClass) (inst cycle : Nat) (s : State) :
    Out.keeps (execEmergencyPreempt c inst cycle s) s := by
  unfold execEmergencyPreempt
  simp

@[simp] theorem execEmergencyEnd_kept (c : ArbClass) (inst cycle : Nat) (s : State) :
    Out.keeps (execEmergencyEnd c inst cycle s) s := by
  unfold execEmergencyEnd
  simp

@[simp] theorem execArbiterControlWrite_kept (die : Fin 12) (c : ArbClass) (viaVf : Bool) (value : BitVec 32) (cycle : Nat) (s : State) :
    Out.keeps (execArbiterControlWrite die c viaVf value cycle s) s := by
  unfold execArbiterControlWrite
  simp

end Sys2Proof.Machine
end

