-- ==== Sys2Proof/Laws/KeepsModule.lean ====
section
/-!
SUPPORT. For the fabric, management, the Cask, power and start-up: one lemma per definition that answers a state. Its state has the queue of
waiting commands and the record memory of the Cask as they were before; of a command, that it goes on.
-/

namespace Sys2Proof.Machine

/-! ### FabricLink -/

@[simp] theorem State.ownReference_kept (s : State) :
    (State.ownReference s).keeps s := by
  unfold State.ownReference
  simp

@[simp] theorem State.noteFabric_kept (s : State) :
    (State.noteFabric s).keeps s := by
  unfold State.noteFabric
  simp

@[simp] theorem State.reroute_kept (s : State) (held : List Moving) :
    (State.reroute s held).keeps s := by
  unfold State.reroute
  simp

@[simp] theorem State.portDown_kept (s : State) (p cause : Nat) :
    (State.portDown s p cause).keeps s := by
  unfold State.portDown
  simp

@[simp] theorem execFabPortDown_kept (p : Fin 32) (resendLimit : Bool) (s : State) :
    Out.keeps (execFabPortDown p resendLimit s) s := by
  unfold execFabPortDown
  simp

@[simp] theorem State.measureTime_kept (s : State) (p : Nat) (pr : Probe) :
    (State.measureTime s p pr).keeps s := by
  unfold State.measureTime
  simp

@[simp] theorem State.portTrained_kept (s : State) (p : Nat) :
    (State.portTrained s p).keeps s := by
  unfold State.portTrained
  (repeat' split) <;> simp_all

@[simp] theorem execFabPortUp_kept (p : Fin 32) (pr : Probe) (s : State) :
    Out.keeps (execFabPortUp p pr s) s := by
  unfold execFabPortUp
  simp

@[simp] theorem execFrameReceive_kept (p : Fin 32) (f : Packet) (crc : BitVec 32) (corrected uncorrectable : Nat) (s : State) :
    Out.keeps (execFrameReceive p f crc corrected uncorrectable s) s := by
  unfold execFrameReceive
  simp

@[simp] theorem execLinkAck_kept (p : Fin 32) (lseq : BitVec 12) (s : State) :
    Out.keeps (execLinkAck p lseq s) s := by
  unfold execLinkAck
  simp

@[simp] theorem State.resendAll_kept (s : State) (p : Nat) :
    (State.resendAll s p).keeps s := by
  unfold State.resendAll
  simp

@[simp] theorem execNak_kept (p : Fin 32) (lseq : BitVec 12) (s : State) :
    Out.keeps (execNak p lseq s) s := by
  unfold execNak
  simp

@[simp] theorem execLinkReplayTimeout_kept (p : Fin 32) (s : State) :
    Out.keeps (execLinkReplayTimeout p s) s := by
  unfold execLinkReplayTimeout
  simp

@[simp] theorem execCredit_kept (p : Fin 32) (vc : Fin 8) (units : Nat) (s : State) :
    Out.keeps (execCredit p vc units s) s := by
  unfold execCredit
  simp

@[simp] theorem State.retrainAll_kept (s : State) :
    (State.retrainAll s).keeps s := by
  unfold State.retrainAll
  simp

@[simp] theorem State.writeTopology_kept (s : State) (topology : Bool) (value : Nat) :
    (State.writeTopology s topology value).keeps s := by
  unfold State.writeTopology
  simp

@[simp] theorem execNodeTopologyWrite_kept (topology : Bool) (value : BitVec 128) (s : State) :
    Out.keeps (execNodeTopologyWrite topology value s) s := by
  unfold execNodeTopologyWrite
  simp

/-! ### Fabric -/

@[simp] theorem State.refuseWith_kept (s : State) (p : Packet) (type status : Nat) (extra : Nat) :
    (State.refuseWith s p type status extra).keeps s := by
  unfold State.refuseWith
  simp

@[simp] theorem State.landed_kept (s : State) (p : Packet) :
    (State.landed s p).keeps s := by
  unfold State.landed
  simp

theorem State.reaches_kept (s : State) (p : Packet) (fresh : State → State) (h : ∀ t, (fresh t).keeps t) :
    (State.reaches s p fresh).keeps s := by
  unfold State.reaches
  split
  · simp
  · exact State.keeps_trans (State.arrive_kept _ _ _ h) (by simp)

theorem State.atHome_kept (s : State) (p : Packet) (type n : Nat) (perform : Window → State → State)
    (h : ∀ x t, (perform x t).keeps t) : (s.atHome p type n perform).keeps s := by
  unfold State.atHome
  refine State.reaches_kept _ _ _ ?_
  intro t
  beta_reduce
  split
  · dsimp only
    split
    · simp
    · exact h _ _
  · simp

@[simp] theorem State.remoteFetch_kept (s : State) (pl : Place) (ecc : EccResult) :
    (State.remoteFetch s pl ecc).2.keeps s := by
  unfold State.remoteFetch
  (repeat' split) <;> simp_all

@[simp] theorem execFabRead_kept (p : Packet) (ecc : EccResult) (s : State) :
    Out.keeps (execFabRead p ecc s) s := by
  unfold execFabRead
  simp only [Out.keeps_next]
  refine State.atHome_kept _ _ _ _ _ ?_
  intro x t
  split
  · simp
  · split <;> simp

@[simp] theorem State.raiseWrite_kept (s : State) (p : Packet) (k va : Nat) :
    (State.raiseWrite s p k va).keeps s := by
  unfold State.raiseWrite
  split <;> simp

@[simp] theorem execFabWrite_kept (p : Packet) (s : State) :
    Out.keeps (execFabWrite p s) s := by
  unfold execFabWrite
  simp only [Out.keeps_next]
  (repeat' split) <;> first | (simp; done) | (refine State.atHome_kept _ _ _ _ _ ?_; intro x t; simp; done)

@[simp] theorem execFabWriteMask_kept (p : Packet) (s : State) :
    Out.keeps (execFabWriteMask p s) s := by
  unfold execFabWriteMask
  simp only [Out.keeps_next]
  (repeat' split) <;> first | (simp; done) | (refine State.atHome_kept _ _ _ _ _ ?_; intro x t; simp; done)

@[simp] theorem State.performLanes_kept (v : Nat) (pl : Place) (n aop k : Nat) (ops : Bytes) (s : State) :
    (State.performLanes v pl n aop k ops s).2.keeps s := by
  induction k generalizing ops s with
  | zero => simp [State.performLanes]
  | succ k ih =>
    unfold State.performLanes
    dsimp only
    refine State.keeps_trans (ih _ _) ?_
    split <;> simp

@[simp] theorem State.performSet_kept (s : State) (p : Packet) (x : Window) (body : Bytes) (ecc : EccResult) :
    (State.performSet s p x body ecc).keeps s := by
  unfold State.performSet
  dsimp only
  split
  · simp
  · simp
  · split
    · simp
    · split
      · simp
      · refine State.keeps_trans (State.respond_kept _ _ _ _ _ _ _ _) ?_
        exact State.keeps_trans (State.performLanes_kept _ _ _ _ _ _ _) (by simp)

@[simp] theorem State.keepParts_kept (s : State) (p : Packet) (l : List Packet) :
    (State.keepParts s p l).keeps s := by
  unfold State.keepParts
  (repeat' split) <;> simp_all

@[simp] theorem State.settleWindow_kept (s : State) (w : Nat) :
    (State.settleWindow s w).keeps s := by
  unfold State.settleWindow
  split
  · simp
  · split
    · simp
    · split <;> simp

@[simp] theorem State.joinSet_kept (s : State) (x : Window) (l : List Packet) (p : Packet) (ecc : EccResult) :
    (State.joinSet s x l p ecc).keeps s := by
  unfold State.joinSet
  (repeat' split) <;> simp_all

@[simp] theorem execFabAtomic_kept (p : Packet) (ecc : EccResult) (s : State) :
    Out.keeps (execFabAtomic p ecc s) s := by
  unfold execFabAtomic
  refine State.reaches_kept _ _ _ ?_
  intro t
  dsimp only
  split
  · split <;> simp
  · simp

@[simp] theorem execFabAtomicCont_kept (p : Packet) (ecc : EccResult) (s : State) :
    Out.keeps (execFabAtomicCont p ecc s) s := by
  unfold execFabAtomicCont
  refine State.reaches_kept _ _ _ ?_
  intro t
  beta_reduce
  split
  · simp
  · split <;> simp

@[simp] theorem execFabReservedType_kept (p : Packet) (s : State) :
    Out.keeps (execFabReservedType p s) s := by
  unfold execFabReservedType
  split
  · simp
  · split
    · simp
    · refine State.reaches_kept _ _ _ ?_
      intro t
      simp

@[simp] theorem State.takeCredits_kept (s : State) (p : Packet) (withdrawn : Nat) :
    (State.takeCredits s p withdrawn).keeps s := by
  unfold State.takeCredits
  simp

@[simp] theorem State.failRequest_kept (s : State) (o : Outstanding) (cause detail : Nat) :
    (State.failRequest s o cause detail).keeps s := by
  unfold State.failRequest
  (repeat' split) <;> simp_all

@[simp] theorem State.answerDma_kept (s : State) (o : Outstanding) (cl slot : Nat) (fault : Option (Nat × Nat)) (data : Bytes) :
    (State.answerDma s o cl slot fault data).keeps s := by
  unfold State.answerDma
  cases s.slot? cl slot with
  | none => simp
  | some d =>
    dsimp only
    split
    · simp
    · cases fault with
      | none => simp
      | some f =>
        dsimp only
        refine State.keeps_trans (State.suspendDma_kept _ _ _ _ _) ?_
        split <;> simp

@[simp] theorem State.settleRemote_kept (s : State) (gk : Nat) :
    (State.settleRemote s gk).keeps s := by
  unfold State.settleRemote
  (repeat' split) <;> simp_all

@[simp] theorem State.answer_kept (s : State) (o : Outstanding) (fault : Option (Nat × Nat)) (data : Bytes) :
    (State.answer s o fault data).keeps s := by
  have f : ∀ t : State, t.keeps s → (o.gid.elim t t.settleRemote).keeps s := by
    intro t h
    cases o.gid <;> simpa using h
  unfold State.answer
  split
  · simp
  · split
    · simp
    · refine f _ ?_
      split
      · simp
      · split
        · simp
        · dsimp only
          split <;> simp

@[simp] theorem State.acknowledged_kept (s : State) (o : Outstanding) (alone : Bool) :
    (State.acknowledged s o alone).2.keeps s := by
  unfold State.acknowledged
  simp

@[simp] theorem State.answerOne_kept (s : State) (p : Packet) (types : List (BitVec 8)) :
    (State.answerOne s p types).keeps s := by
  unfold State.answerOne
  dsimp only
  (repeat' split) <;> simp_all

@[simp] theorem execFabReadResp_kept (p : Packet) (s : State) :
    Out.keeps (execFabReadResp p s) s := by
  unfold execFabReadResp
  simp

@[simp] theorem execFabAtomicResp_kept (p : Packet) (s : State) :
    Out.keeps (execFabAtomicResp p s) s := by
  unfold execFabAtomicResp
  simp

@[simp] theorem execFabWriteAck_kept (p : Packet) (s : State) :
    Out.keeps (execFabWriteAck p s) s := by
  unfold execFabWriteAck
  simp

@[simp] theorem execFabTimeout_kept (dst : BitVec 14) (cls : BitVec 2) (seq : BitVec 16) (s : State) :
    Out.keeps (execFabTimeout dst cls seq s) s := by
  unfold execFabTimeout
  (repeat' split) <;> simp_all

@[simp] theorem State.egressBackoff_kept (s : State) (o : Outstanding) :
    (State.egressBackoff s o).keeps s := by
  unfold State.egressBackoff
  (repeat' split) <;> simp_all

@[simp] theorem execFabRequestEgress_kept (n : Nat) (waitedNs : Nat) (s : State) :
    Out.keeps (execFabRequestEgress n waitedNs s) s := by
  unfold execFabRequestEgress
  (repeat' split) <;> simp_all

@[simp] theorem execRegionKeys_kept (r : CmdRef) (s : State) :
    Out.keeps (execRegionKeys r s) s := by
  unfold execRegionKeys
  simp

@[simp] theorem execRegionOpen_kept (r : CmdRef) (s : State) :
    Out.keeps (execRegionOpen r s) s := by
  unfold execRegionOpen
  refine runCmd_kept _ _ _ _ ?_
  intro c k t
  (try dsimp only)
  (repeat' split) <;> simp_all

@[simp] theorem execRegionClose_kept (r : CmdRef) (s : State) :
    Out.keeps (execRegionClose r s) s := by
  unfold execRegionClose
  refine runCmd_kept _ _ _ _ ?_
  intro c k t
  dsimp only
  split
  · simp
  · split
    · simp
    · split <;> simp

/-! ### Objects -/

@[simp] theorem State.setPersistent_kept (s : State) (o i v : Nat) :
    (State.setPersistent s o i v).keeps s := by
  unfold State.setPersistent
  simp

@[simp] theorem State.keepAll_kept (s : State) (l : List (Nat × Nat × Nat)) :
    (State.keepAll s l).keeps s := by
  unfold State.keepAll
  simp

@[simp] theorem State.setKept_kept (s : State) (o i v : Nat) :
    (State.setKept s o i v).keeps s := by
  unfold State.setKept
  simp

@[simp] theorem State.putStored_kept (s : State) (o i v : Nat) :
    (State.putStored s o i v).keeps s := by
  unfold State.putStored
  simp

@[simp] theorem State.applySetting_kept (s : State) (o i v : Nat) :
    (State.applySetting s o i v).keeps s := by
  unfold State.applySetting
  (repeat' split) <;> simp_all

/-! ### Firmware -/

@[simp] theorem State.noteKeyUse_kept (s : State) (use : Nat) (nonce : BitVec 256) :
    (State.noteKeyUse s use nonce).keeps s := by
  unfold State.noteKeyUse
  simp

@[simp] theorem State.startReport_kept (s : State) (nonce : BitVec 256) :
    (State.startReport s nonce).2.keeps s := by
  unfold State.startReport
  (repeat' split) <;> simp_all

@[simp] theorem execAttestNonce_kept (nonce : BitVec 256) (s : State) :
    Out.keeps (execAttestNonce nonce s) s := by
  unfold execAttestNonce
  simp

@[simp] theorem execAttestReportReady_kept (s : State) :
    Out.keeps (execAttestReportReady s) s := by
  unfold execAttestReportReady
  (repeat' split) <;> simp_all

@[simp] theorem State.startExport_kept (s : State) (first count : Nat) (nonce : BitVec 256) :
    (State.startExport s first count nonce).2.keeps s := by
  unfold State.startExport
  (repeat' split) <;> simp_all

@[simp] theorem execCaskExportReq_kept (first count : BitVec 64) (nonce : BitVec 256) (s : State) :
    Out.keeps (execCaskExportReq first count nonce s) s := by
  unfold execCaskExportReq
  simp

@[simp] theorem execCaskExportReady_kept (s : State) :
    Out.keeps (execCaskExportReady s) s := by
  unfold execCaskExportReady
  (repeat' split) <;> simp_all

@[simp] theorem State.setFwState_kept (s : State) (v : Nat) :
    (State.setFwState s v).keeps s := by
  unfold State.setFwState
  simp

@[simp] theorem State.takeSegment_kept (s : State) (requester : BitVec 16) (offset : Nat) (data : Bytes) (last : Bool) :
    (State.takeSegment s requester offset data last).keeps s := by
  unfold State.takeSegment
  simp

@[simp] theorem State.loadSegment_kept (s : State) (requester : BitVec 16) (offset : Nat) (data : Bytes) (last : Bool) :
    (State.loadSegment s requester offset data last).2.keeps s := by
  unfold State.loadSegment
  (repeat' split) <;> simp_all

@[simp] theorem execFwLoad_kept (requester : BitVec 16) (offset : Nat) (data : Bytes) (last : Bool) (s : State) :
    Out.keeps (execFwLoad requester offset data last s) s := by
  unfold execFwLoad
  simp

@[simp] theorem State.recovered_kept (s : State) (b : Bytes) :
    (State.recovered s b).keeps s := by
  unfold State.recovered
  simp

@[simp] theorem State.noteReject_kept (s : State) (reason : Nat) :
    (State.noteReject s reason).keeps s := by
  unfold State.noteReject
  simp

@[simp] theorem State.verified_kept (s : State) (b : Bytes) :
    (State.verified s b).keeps s := by
  unfold State.verified
  simp

@[simp] theorem execFwLoadAbandon_kept (s : State) :
    Out.keeps (execFwLoadAbandon s) s := by
  unfold execFwLoadAbandon
  simp

@[simp] theorem State.startHandover_kept (s : State) (commitSvn : Bool) :
    (State.startHandover s commitSvn).keeps s := by
  unfold State.startHandover
  simp

@[simp] theorem execHandoverNewImageStart_kept (s : State) :
    Out.keeps (execHandoverNewImageStart s) s := by
  unfold execHandoverNewImageStart
  simp

@[simp] theorem execMicrocodeSwitch_kept (u : McUnit) (s : State) :
    Out.keeps (execMicrocodeSwitch u s) s := by
  unfold execMicrocodeSwitch
  simp

@[simp] theorem execHandoverSelfCheck_kept (s : State) :
    Out.keeps (execHandoverSelfCheck s) s := by
  unfold execHandoverSelfCheck
  simp

@[simp] theorem execFwRevert_kept (s : State) :
    Out.keeps (execFwRevert s) s := by
  unfold execFwRevert
  simp

@[simp] theorem execRecoveryNotice_kept (s : State) :
    Out.keeps (execRecoveryNotice s) s := by
  unfold execRecoveryNotice
  simp

/-! ### Management -/

@[simp] theorem State.pumpMail_kept (s : State) (ch : Nat) :
    (State.pumpMail s ch).keeps s := by
  unfold State.pumpMail
  (repeat' split) <;> simp_all

@[simp] theorem State.sendResponse_kept (s : State) (m : NalMsg) (r : Response) :
    (State.sendResponse s m r).keeps s := by
  unfold State.sendResponse
  dsimp only
  (repeat' split) <;> simp_all

@[simp] theorem State.respondMsg_kept (s : State) (m : NalMsg) (status : Nat) (data : Bytes) :
    (State.respondMsg s m status data).keeps s := by
  unfold State.respondMsg
  simp

@[simp] theorem State.answerRequest_kept (s : State) (q : Request) (status moved : Nat) (data : Bytes) :
    (State.answerRequest s q status moved data).keeps s := by
  unfold State.answerRequest
  dsimp only
  (repeat' split) <;> simp_all

@[simp] theorem State.serveRead_kept (s : State) (q : Request) :
    (State.serveRead s q).keeps s := by
  unfold State.serveRead
  simp

@[simp] theorem State.clearStaging_kept (s : State) (m : NalMsg) :
    (State.clearStaging s m).keeps s := by
  unfold State.clearStaging
  simp

@[simp] theorem State.stageSegment_kept (s : State) (m : NalMsg) (size limit : Nat) :
    ∀ t, State.stageSegment s m size limit = some t → t.keeps s := by
  unfold State.stageSegment
  dsimp only
  (repeat' split) <;> simp_all

@[simp] theorem State.putKey_kept (s : State) (i : Nat) (k : KeySlot) :
    (State.putKey s i k).keeps s := by
  unfold State.putKey
  simp

@[simp] theorem State.provision_kept (s : State) (v : Nat) :
    (State.provision s v).2.keeps s := by
  unfold State.provision
  dsimp only
  (repeat' split) <;> simp_all

@[simp] theorem State.rotateKey_kept (s : State) (auth : Nat) (counter : BitVec 64) (v : Nat) :
    (State.rotateKey s auth counter v).keeps s := by
  unfold State.rotateKey
  simp

@[simp] theorem State.applyWrite_kept (s : State) (o i v : Nat) :
    (State.applyWrite s o i v).2.keeps s := by
  unfold State.applyWrite
  dsimp only
  (repeat' split) <;> simp_all

@[simp] theorem State.writeBytes_kept (s : State) (q : Request) (x : ObjInfo) :
    (State.writeBytes s q x).2.keeps s := by
  unfold State.writeBytes
  dsimp only
  split
  · simp
  · split
    · simp
    · split
      · simp
      · rename_i t h
        have e := State.stageSegment_kept _ _ _ _ _ h
        split
        · simpa using e
        · split <;> simp_all

@[simp] theorem State.writeStatus_kept (s : State) (q : Request) :
    (State.writeStatus s q).2.keeps s := by
  unfold State.writeStatus
  dsimp only
  (repeat' split) <;> simp_all

@[simp] theorem State.serveWrite_kept (s : State) (q : Request) :
    (State.serveWrite s q).keeps s := by
  unfold State.serveWrite
  simp

@[simp] theorem State.stageStatus_kept (s : State) (q : Request) :
    (State.stageStatus s q).2.keeps s := by
  unfold State.stageStatus
  dsimp only
  (repeat' split) <;> first
    | (simp; done)
    | (rename_i h; simpa using State.stageSegment_kept _ _ _ _ _ h)

@[simp] theorem State.serveStage_kept (s : State) (q : Request) :
    (State.serveStage s q).keeps s := by
  unfold State.serveStage
  simp

@[simp] theorem State.failGuard_kept (s : State) (q : Request) (cause : Nat) :
    (State.failGuard s q cause).keeps s := by
  unfold State.failGuard
  (repeat' split) <;> simp_all

theorem State.guardedValue_kept (s : State) (q : Request) (v : Option Bytes) (t : State)
    (h : s.guardedValue q = .ok (v, t)) : t.keeps s := by
  unfold State.guardedValue at h
  dsimp only at h
  split at h
  · split at h
    · simp only [Except.ok.injEq, Prod.mk.injEq] at h
      obtain ⟨_, rfl⟩ := h
      simp
    · split at h
      · cases h
      · rename_i u g
        have e := State.stageSegment_kept _ _ _ _ _ g
        split at h <;> simp only [Except.ok.injEq, Prod.mk.injEq] at h <;> obtain ⟨_, rfl⟩ := h <;> simpa using e
  · split at h <;> simp only [Except.ok.injEq, Prod.mk.injEq] at h <;> obtain ⟨_, rfl⟩ := h <;> simp

@[simp] theorem State.serveGuarded_kept (s : State) (q : Request) :
    (State.serveGuarded s q).keeps s := by
  unfold State.serveGuarded
  split
  · simp
  · split
    · simp
    · rename_i t h
      simpa using State.guardedValue_kept _ _ _ _ h
    · rename_i v t h
      have e := State.guardedValue_kept _ _ _ _ h
      dsimp only
      split <;> simpa using e

@[simp] theorem State.direct_kept (s : State) (m : NalMsg) :
    ∀ t, State.direct s m = some t → t.keeps s := by
  unfold State.direct
  dsimp only
  (repeat' split) <;> simp_all

@[simp] theorem State.serveOne_kept (s : State) (q : Request) :
    (State.serveOne s q).keeps s := by
  unfold State.serveOne
  split
  · rename_i t h
    split at h
    · simp at h
    · exact State.direct_kept _ _ _ h
  · (repeat' split) <;> simp

@[simp] theorem State.serve_kept (n : Nat) (s : State) : (State.serve n s).keeps s := by
  induction n generalizing s with
  | zero => simp [State.serve]
  | succ n ih =>
    unfold State.serve
    (repeat' split) <;> simp [ih]

@[simp] theorem State.request_kept (s : State) (q : Request) :
    (State.request s q).keeps s := by
  unfold State.request
  simp

@[simp] theorem State.endQuiet_kept (s : State) :
    (State.endQuiet s).keeps s := by
  unfold State.endQuiet
  simp

@[simp] theorem State.idle_kept (s : State) :
    (State.idle s).keeps s := by
  unfold State.idle
  simp

@[simp] theorem State.completeGuarded_kept (s : State) (w : PendingWrite) :
    (State.completeGuarded s w).keeps s := by
  unfold State.completeGuarded
  (repeat' split) <;> simp_all

@[simp] theorem State.commitUnsaved_kept (s : State) :
    (State.commitUnsaved s).keeps s := by
  unfold State.commitUnsaved
  simp

@[simp] theorem execJournalCommit_kept (s : State) :
    Out.keeps (execJournalCommit s) s := by
  unfold execJournalCommit
  (repeat' split) <;> simp_all

@[simp] theorem execPageBudgetRefill_kept (s : State) :
    Out.keeps (execPageBudgetRefill s) s := by
  unfold execPageBudgetRefill
  simp

@[simp] theorem State.handle_kept (s : State) (m : NalMsg) :
    (State.handle s m).keeps s := by
  unfold State.handle
  have h : ((s.direct m).getD (s.request { msg := m, len := m.dataLen.toNat })).keeps s := by
    cases k : s.direct m with
    | none => simp
    | some t => exact State.direct_kept _ _ _ k
  (repeat' split) <;> simp_all

@[simp] theorem State.noteCollisions_kept (s : State) (n : Nat) :
    (State.noteCollisions s n).keeps s := by
  unfold State.noteCollisions
  simp

@[simp] theorem State.receive_kept (s : State) (m : NalMsg) :
    (State.receive s m).keeps s := by
  unfold State.receive
  simp

@[simp] theorem receiveKind_kept (m : NalMsg) (p : Nat → Bool) (s : State) :
    Out.keeps (receiveKind m p s) s := by
  unfold receiveKind
  simp

@[simp] theorem execNaloraRead_kept (m : NalMsg) (s : State) :
    Out.keeps (execNaloraRead m s) s := by
  unfold execNaloraRead
  simp

@[simp] theorem execNaloraWrite_kept (m : NalMsg) (s : State) :
    Out.keeps (execNaloraWrite m s) s := by
  unfold execNaloraWrite
  simp

@[simp] theorem execNaloraWriteG_kept (m : NalMsg) (s : State) :
    Out.keeps (execNaloraWriteG m s) s := by
  unfold execNaloraWriteG
  simp

@[simp] theorem execNaloraStage_kept (m : NalMsg) (s : State) :
    Out.keeps (execNaloraStage m s) s := by
  unfold execNaloraStage
  simp

@[simp] theorem execNaloraResponse_kept (m : NalMsg) (s : State) :
    Out.keeps (execNaloraResponse m s) s := by
  unfold execNaloraResponse
  simp

@[simp] theorem execNaloraIdentify_kept (m : NalMsg) (s : State) :
    Out.keeps (execNaloraIdentify m s) s := by
  unfold execNaloraIdentify
  simp

@[simp] theorem execNaloraNotice_kept (m : NalMsg) (s : State) :
    Out.keeps (execNaloraNotice m s) s := by
  unfold execNaloraNotice
  simp

@[simp] theorem execNaloraReservedKind_kept (m : NalMsg) (s : State) :
    Out.keeps (execNaloraReservedKind m s) s := by
  unfold execNaloraReservedKind
  simp

@[simp] theorem execKeyProvision_kept (m : NalMsg) (s : State) :
    Out.keeps (execKeyProvision m s) s := by
  unfold execKeyProvision
  simp

@[simp] theorem execFabMgmt_kept (p : Packet) (_m : NalMsg) (s : State) :
    Out.keeps (execFabMgmt p _m s) s := by
  unfold execFabMgmt
  simp

@[simp] theorem execStagingTimeout_kept (addr : BitVec 16) (s : State) :
    Out.keeps (execStagingTimeout addr s) s := by
  unfold execStagingTimeout
  simp

@[simp] theorem State.mailWord_kept (s : State) (ch : Nat) (w : BitVec 32) (stamp : BitVec 8) :
    (State.mailWord s ch w stamp).keeps s := by
  unfold State.mailWord
  simp

@[simp] theorem execMbxMessageTimeout_kept (s : State) :
    Out.keeps (execMbxMessageTimeout s) s := by
  unfold execMbxMessageTimeout
  (repeat' split) <;> simp_all

@[simp] theorem execRxData_kept (master : BitVec 8) (ch : Fin 256) (s : State) :
    Out.keeps (execRxData master ch s) s := by
  unfold execRxData
  (repeat' split) <;> simp_all

@[simp] theorem dictCommand_kept (op kind : Nat) (fixed : Option Nat) (r : CmdRef) (s : State) :
    Out.keeps (dictCommand op kind fixed r s) s := by
  unfold dictCommand
  simp

@[simp] theorem execDictRead_kept (r : CmdRef) (s : State) :
    Out.keeps (execDictRead r s) s := by
  unfold execDictRead
  simp

@[simp] theorem execDictWrite_kept (r : CmdRef) (s : State) :
    Out.keeps (execDictWrite r s) s := by
  unfold execDictWrite
  simp

@[simp] theorem execDictWriteG_kept (r : CmdRef) (s : State) :
    Out.keeps (execDictWriteG r s) s := by
  unfold execDictWriteG
  simp

@[simp] theorem execKeyRotate_kept (r : CmdRef) (s : State) :
    Out.keeps (execKeyRotate r s) s := by
  unfold execKeyRotate
  simp

@[simp] theorem execFwActivate_kept (r : CmdRef) (s : State) :
    Out.keeps (execFwActivate r s) s := by
  unfold execFwActivate
  simp

@[simp] theorem execPlcaBeaconTimeout_kept (s : State) :
    Out.keeps (execPlcaBeaconTimeout s) s := by
  unfold execPlcaBeaconTimeout
  simp

@[simp] theorem execPlcaBeaconReceived_kept (s : State) :
    Out.keeps (execPlcaBeaconReceived s) s := by
  unfold execPlcaBeaconReceived
  simp

@[simp] theorem execPlcaIdWrite_kept (value : BitVec 8) (s : State) :
    Out.keeps (execPlcaIdWrite value s) s := by
  unfold execPlcaIdWrite
  simp

/-! ### Registers -/

@[simp] theorem State.writeObject_kept (s : State) (o i v : Nat) :
    (State.writeObject s o i v).keeps s := by
  unfold State.writeObject
  (repeat' split) <;> simp_all

@[simp] theorem State.writeAdmin_kept (s : State) (v : Nat) (r : AdminReg) (x : Nat) :
    (State.writeAdmin s v r x).keeps s := by
  unfold State.writeAdmin
  (repeat' split) <;> simp_all

@[simp] theorem State.clearMailStatus_kept (s : State) (master ch v : Nat) :
    (State.clearMailStatus s master ch v).keeps s := by
  unfold State.clearMailStatus
  simp

@[simp] theorem State.clearMailPending_kept (s : State) (f v : Nat) :
    (State.clearMailPending s f v).keeps s := by
  unfold State.clearMailPending
  simp

@[simp] theorem execRegisterWrite_kept (r : RegRef) (viaVf : Bool) (value : Nat) (cycle : Nat) (s : State) :
    Out.keeps (execRegisterWrite r viaVf value cycle s) s := by
  unfold execRegisterWrite
  (repeat' split) <;> simp_all

/-! ### Resilience -/

@[simp] theorem State.dropLatches_kept (s : State) (st i : Nat) :
    (State.dropLatches s st i).keeps s := by
  unfold State.dropLatches
  simp

@[simp] theorem State.fenceCluster_kept (s : State) (cl : Nat) :
    (State.fenceCluster s cl).keeps s := by
  unfold State.fenceCluster
  simp

@[simp] theorem State.loseCluster_kept (s : State) (cl : Nat) :
    (State.loseCluster s cl).keeps s := by
  unfold State.loseCluster
  dsimp only
  (repeat' split) <;> simp_all

@[simp] theorem State.takeKiln_kept (s : State) (k : Nat) :
    (State.takeKiln s k).keeps s := by
  unfold State.takeKiln
  simp

@[simp] theorem State.takeSpanLanes_kept (s : State) (i : Nat) :
    (State.takeSpanLanes s i).keeps s := by
  unfold State.takeSpanLanes
  simp

@[simp] theorem State.loseUnit_kept (s : State) (u : PollUnit) :
    (State.loseUnit s u).keeps s := by
  unfold State.loseUnit
  (repeat' split) <;> simp_all

@[simp] theorem execHealthPoll_kept (missed : List PollUnit) (s : State) :
    Out.keeps (execHealthPoll missed s) s := by
  unfold execHealthPoll
  simp

@[simp] theorem State.replaceCluster_kept (s : State) (st cl spare : Nat) :
    (State.replaceCluster s st cl spare).keeps s := by
  unfold State.replaceCluster
  simp

@[simp] theorem State.swapOne_kept (s : State) (cl : Nat) :
    (State.swapOne s cl).keeps s := by
  unfold State.swapOne
  (repeat' split) <;> simp_all

@[simp] theorem execClusterSwap_kept (v : Fin 64) (s : State) :
    Out.keeps (execClusterSwap v s) s := by
  unfold execClusterSwap
  simp

@[simp] theorem State.withdraw_kept (s : State) (st : Nat) :
    (State.withdraw s st).keeps s := by
  unfold State.withdraw
  (repeat' split) <;> simp_all

@[simp] theorem execStationWithdraw_kept (st : Fin 128) (s : State) :
    Out.keeps (execStationWithdraw st s) s := by
  unfold execStationWithdraw
  simp

@[simp] theorem State.degradeFab_kept (s : State) (p i : Nat) :
    (State.degradeFab s p i).keeps s := by
  unfold State.degradeFab
  simp

@[simp] theorem State.degradeSpan_kept (s : State) (dir i : Nat) :
    (State.degradeSpan s dir i).keeps s := by
  unfold State.degradeSpan
  simp

@[simp] theorem State.degrade_kept (s : State) (l : Lane) :
    (State.degrade s l).keeps s := by
  unfold State.degrade
  (repeat' split) <;> simp_all

@[simp] theorem State.restoreGroup_kept (s : State) (l : Lane) :
    (State.restoreGroup s l).keeps s := by
  unfold State.restoreGroup
  (repeat' split) <;> simp_all

@[simp] theorem execLaneErrorCheck_kept (l : Lane) (errors : Nat) (s : State) :
    Out.keeps (execLaneErrorCheck l errors s) s := by
  unfold execLaneErrorCheck
  simp

@[simp] theorem execLaneLosesLock_kept (l : Lane) (s : State) :
    Out.keeps (execLaneLosesLock l s) s := by
  unfold execLaneLosesLock
  simp

@[simp] theorem execFabPortRetryHourly_kept (p : Fin 32) (goodLanes : BitVec 4) (s : State) :
    Out.keeps (execFabPortRetryHourly p goodLanes s) s := by
  unfold execFabPortRetryHourly
  simp

@[simp] theorem execSpanLaneSpare_kept (down : Bool) (group : Fin 16) (s : State) :
    Out.keeps (execSpanLaneSpare down group s) s := by
  unfold execSpanLaneSpare
  simp

@[simp] theorem execBrownHoldEnter_kept (mv : Nat) (s : State) :
    Out.keeps (execBrownHoldEnter mv s) s := by
  unfold execBrownHoldEnter
  simp

@[simp] theorem execBrownHoldLeave_kept (s : State) :
    Out.keeps (execBrownHoldLeave s) s := by
  unfold execBrownHoldLeave
  simp

/-! ### Cask -/

theorem execCaskCommit_pending (firstOk secondOk : Bool) (s : State) :
    ∃ t, execCaskCommit firstOk secondOk s = .next t ∧ t.pending = s.pending := by
  unfold execCaskCommit
  split
  · simp
  · dsimp only
    (repeat' split) <;> simp [State.commitRecord]

@[simp] theorem execCaskCoalesceFlush_kept (n : Nat) (s : State) :
    Out.keeps (execCaskCoalesceFlush n s) s := by
  unfold execCaskCoalesceFlush
  (repeat' split) <;> simp_all

/-! ### Power -/

@[simp] theorem execPowerSample_kept (p10 : Nat) (nearLimit : Bool) (s : State) :
    Out.keeps (execPowerSample p10 nearLimit s) s := by
  unfold execPowerSample
  simp

@[simp] theorem execPowerExcursionLimit_kept (p10 : Nat) (s : State) :
    Out.keeps (execPowerExcursionLimit p10 s) s := by
  unfold execPowerExcursionLimit
  simp

@[simp] theorem execPLimitWrite_kept (value : BitVec 32) (s : State) :
    Out.keeps (execPLimitWrite value s) s := by
  unfold execPLimitWrite
  simp

@[simp] theorem execForceSafeAssert_kept (s : State) :
    Out.keeps (execForceSafeAssert s) s := by
  unfold execForceSafeAssert
  simp

@[simp] theorem execForceSafeRelease_kept (s : State) :
    Out.keeps (execForceSafeRelease s) s := by
  unfold execForceSafeRelease
  simp

@[simp] theorem State.portsLoseLock_kept (s : State) :
    (State.portsLoseLock s).keeps s := by
  unfold State.portsLoseLock
  simp

@[simp] theorem State.spanLosesLock_kept (s : State) :
    (State.spanLosesLock s).keeps s := by
  unfold State.spanLosesLock
  simp

@[simp] theorem execReferenceLoss_kept (s : State) :
    Out.keeps (execReferenceLoss s) s := by
  unfold execReferenceLoss
  simp

@[simp] theorem execReferenceReturn_kept (s : State) :
    Out.keeps (execReferenceReturn s) s := by
  unfold execReferenceReturn
  simp

@[simp] theorem execCoreRailDroop_kept (d : Fin 8) (s : State) :
    Out.keeps (execCoreRailDroop d s) s := by
  unfold execCoreRailDroop
  simp

@[simp] theorem State.readSensor_kept (s : State) (x : Sensor) (v : Int) :
    (State.readSensor s x v).keeps s := by
  unfold State.readSensor
  simp

@[simp] theorem State.postThermal_kept (s : State) (type : Nat) (x : Sensor) (v : Int) :
    (State.postThermal s type x v).keeps s := by
  unfold State.postThermal
  simp

@[simp] theorem State.crossUp_kept (s : State) (x : Sensor) (v : Int) :
    (State.crossUp s x v).keeps s := by
  unfold State.crossUp
  simp

@[simp] theorem execThermalThrottle_kept (x : Sensor) (mC : Int) (s : State) :
    Out.keeps (execThermalThrottle x mC s) s := by
  unfold execThermalThrottle
  simp

@[simp] theorem execThermalRecover_kept (x : Sensor) (mC : Int) (s : State) :
    Out.keeps (execThermalRecover x mC s) s := by
  unfold execThermalRecover
  simp

@[simp] theorem execDieStop_kept (d : Fin 8) (s : State) :
    Out.keeps (execDieStop d s) s := by
  unfold execDieStop
  simp

@[simp] theorem execDieResume_kept (d : Fin 8) (s : State) :
    Out.keeps (execDieResume d s) s := by
  unfold execDieResume
  simp

@[simp] theorem State.connDown_kept (s : State) (c : Conn) :
    (State.connDown s c).keeps s := by
  unfold State.connDown
  (repeat' split) <;> simp_all

@[simp] theorem State.connTrain_kept (s : State) (c : Conn) :
    (State.connTrain s c).keeps s := by
  unfold State.connTrain
  (repeat' split) <;> simp_all

@[simp] theorem State.putCable_kept (s : State) (c : Conn) (x : Cable) :
    (State.putCable s c x).keeps s := by
  unfold State.putCable
  simp

@[simp] theorem execCableInsert_kept (c : Conn) (readable active : Bool) (s : State) :
    Out.keeps (execCableInsert c readable active s) s := by
  unfold execCableInsert
  simp

@[simp] theorem execCableOvercurrent_kept (c : Conn) (s : State) :
    Out.keeps (execCableOvercurrent c s) s := by
  unfold execCableOvercurrent
  simp

@[simp] theorem execCableRemove_kept (c : Conn) (s : State) :
    Out.keeps (execCableRemove c s) s := by
  unfold execCableRemove
  simp

@[simp] theorem execPresentNHigh_kept (s : State) :
    Out.keeps (execPresentNHigh s) s := by
  unfold execPresentNHigh
  simp

/-! ### Startup -/

@[simp] theorem State.stripped_kept (s : State) :
    (State.stripped s).keeps s := by
  unfold State.stripped
  simp

@[simp] theorem State.restarted_kept (s : State) (cause : Nat) :
    (State.restarted s cause).keeps s := by
  unfold State.restarted
  simp [Cask.kept, State.stripped]

@[simp] theorem State.powerOff_kept (s : State) (hold : HoldState) :
    (State.powerOff s hold).keeps s := by
  unfold State.powerOff
  simp

@[simp] theorem State.powerDown_kept (s : State) (hold : HoldState) (mv watts : Nat) :
    (State.powerDown s hold mv watts).keeps s := by
  unfold State.powerDown
  simp

@[simp] theorem execPowerLoss_kept (mv watts : Nat) (s : State) :
    Out.keeps (execPowerLoss mv watts s) s := by
  unfold execPowerLoss
  simp

@[simp] theorem execOvervoltage_kept (mv watts : Nat) (s : State) :
    Out.keeps (execOvervoltage mv watts s) s := by
  unfold execOvervoltage
  simp

@[simp] theorem execOvervoltageRelease_kept (s : State) :
    Out.keeps (execOvervoltageRelease s) s := by
  unfold execOvervoltageRelease
  simp

@[simp] theorem execHoldUpEnergyExhausted_kept (s : State) :
    Out.keeps (execHoldUpEnergyExhausted s) s := by
  unfold execHoldUpEnergyExhausted
  simp

@[simp] theorem execPowerReturn_kept (s : State) :
    Out.keeps (execPowerReturn s) s := by
  unfold execPowerReturn
  simp

@[simp] theorem execThermalTrip_kept (x : Sensor) (mC : Int) (s : State) :
    Out.keeps (execThermalTrip x mC s) s := by
  unfold execThermalTrip
  simp

@[simp] theorem execTripSensorsBelowThrottle_kept (s : State) :
    Out.keeps (execTripSensorsBelowThrottle s) s := by
  unfold execTripSensorsBelowThrottle
  simp

@[simp] theorem State.sampleSlot_kept (s : State) :
    (State.sampleSlot s).keeps s := by
  unfold State.sampleSlot
  simp

@[simp] theorem State.powerUp_kept (s : State) :
    (State.powerUp s).keeps s := by
  unfold State.powerUp
  simp

@[simp] theorem execPerstNAssert_kept (s : State) :
    Out.keeps (execPerstNAssert s) s := by
  unfold execPerstNAssert
  simp

@[simp] theorem execPerstNRelease_kept (slotId : BitVec 6) (slowStart : Bool) (s : State) :
    Out.keeps (execPerstNRelease slotId slowStart s) s := by
  unfold execPerstNRelease
  simp

@[simp] theorem execHotReset_kept (s : State) :
    Out.keeps (execHotReset s) s := by
  unfold execHotReset
  simp

@[simp] theorem State.loadStore_kept (s : State) (unreadable : List Nat) :
    (State.loadStore s unreadable).keeps s := by
  unfold State.loadStore
  extract_lets good load m t u
  have ht : t.keeps s := ⟨rfl, rfl, rfl⟩
  clear_value t
  have hu : u.keeps s := by
    unfold u
    split
    · exact State.keeps_trans (State.setKept_kept _ _ _ _) ht
    · exact ht
  clear_value u
  split
  · exact hu
  · exact hu

@[simp] theorem State.postDefaults_kept (old : Bank Nat) (s : State) (page : Nat) :
    (State.postDefaults old s page).keeps s := by
  unfold State.postDefaults
  simp

@[simp] theorem State.postStart_kept (s : State) :
    (State.postStart s).keeps s := by
  unfold State.postStart
  simp

@[simp] theorem State.deriveIdentity_kept (s : State) (sram : Bytes) :
    (State.deriveIdentity s sram).keeps s := by
  unfold State.deriveIdentity
  simp

@[simp] theorem State.runImage_kept (s : State) (b : Bytes) :
    (State.runImage s b).keeps s := by
  unfold State.runImage
  simp

@[simp] theorem State.chooseImage_kept (s : State) :
    (State.chooseImage s).keeps s := by
  unfold State.chooseImage
  simp

@[simp] theorem execRomStart_kept (torn : Option Nat) (sram : Bytes) (slotA slotB : FlashErrors) (unreadable : List Nat) (s : State) :
    Out.keeps (execRomStart torn sram slotA slotB unreadable s) s := by
  unfold execRomStart
  (repeat' split) <;> simp_all

@[simp] theorem execRecoveryLoader_kept (s : State) :
    Out.keeps (execRecoveryLoader s) s := by
  unfold execRecoveryLoader
  simp

@[simp] theorem execFwVerifyDone_kept (f : FlashErrors) (s : State) :
    Out.keeps (execFwVerifyDone f s) s := by
  unfold execFwVerifyDone
  simp

@[simp] theorem State.trainStack_kept (rates : Bank Nat) (s : State) (h : Nat) :
    (State.trainStack rates s h).keeps s := by
  unfold State.trainStack
  simp

@[simp] theorem State.trainPackage_kept (slow : List Nat) (s : State) (q : Nat) :
    (State.trainPackage slow s q).keeps s := by
  unfold State.trainPackage
  simp

@[simp] theorem State.applyRepairs_kept (s : State) :
    (State.applyRepairs s).keeps s := by
  unfold State.applyRepairs
  simp

@[simp] theorem execTrainingDone_kept (t : SelfTest) (s : State) :
    Out.keeps (execTrainingDone t s) s := by
  unfold execTrainingDone
  simp

@[simp] theorem State.postStops_kept (s : State) (t : SelfTest) :
    (State.postStops s t).keeps s := by
  unfold State.postStops
  dsimp only
  split
  · refine State.keeps_trans (State.caskPost_kept _ _ _ _ _) (foldl_keeps _ ?_ _ _)
    intro t x
    split <;> simp
  · refine foldl_keeps _ ?_ _ _
    intro t x
    split <;> simp

@[simp] theorem State.mapOut_kept (t : SelfTest) (s : State) (p : Nat) :
    (State.mapOut t s p).keeps s := by
  unfold State.mapOut
  simp

@[simp] theorem State.noteFailed_kept (d : Nat) (before : Bank (List Nat)) (s : State) (cl : Nat) :
    (State.noteFailed d before s cl).keeps s := by
  unfold State.noteFailed
  (repeat' split) <;> simp_all

@[simp] theorem State.spareDie_kept (t : SelfTest) (s : State) (d : Nat) :
    (State.spareDie t s d).keeps s := by
  unfold State.spareDie
  simp

@[simp] theorem execSelfTestDone_kept (t : SelfTest) (s : State) :
    Out.keeps (execSelfTestDone t s) s := by
  unfold execSelfTestDone
  simp

@[simp] theorem execConveyorStart_kept (s : State) :
    Out.keeps (execConveyorStart s) s := by
  unfold execConveyorStart
  simp

/-- Every command but CASK_COMMIT goes on, with the queue and the record memory as they were. -/
theorem exec_keeps (c : Instr) (s : State) (h : ∀ a b, c ≠ .caskCommit a b) : Out.keeps (exec c s) s := by
  cases c <;> first
    | exact absurd rfl (h _ _)
    | (simp only [exec]; simp)

end Sys2Proof.Machine
end

