-- ==== Sys2Proof/Laws/State.lean ====
section
/-!
SUPPORT. The fields of the state after each of the model's named updates: one lemma per field and update, true by `rfl`, so
that no later proof unfolds a record update.
-/

namespace Sys2Proof.Machine

/-! ### State.setObj -/

@[simp] theorem State.setObj_pending (s : State) (o i v : Nat) : (s.setObj o i v).pending = s.pending := rfl
@[simp] theorem State.setObj_free (s : State) (o i v : Nat) : (s.setObj o i v).free = s.free := rfl
@[simp] theorem State.setObj_arb (s : State) (o i v : Nat) : (s.setObj o i v).arb = s.arb := rfl
@[simp] theorem State.setObj_clock (s : State) (o i v : Nat) : (s.setObj o i v).clock = s.clock := rfl
@[simp] theorem State.setObj_power (s : State) (o i v : Nat) : (s.setObj o i v).power = s.power := rfl
@[simp] theorem State.setObj_pins (s : State) (o i v : Nat) : (s.setObj o i v).pins = s.pins := rfl
@[simp] theorem State.setObj_boot (s : State) (o i v : Nat) : (s.setObj o i v).boot = s.boot := rfl
@[simp] theorem State.setObj_cask (s : State) (o i v : Nat) : (s.setObj o i v).cask = s.cask := rfl
@[simp] theorem State.setObj_health (s : State) (o i v : Nat) : (s.setObj o i v).health = s.health := rfl
@[simp] theorem State.setObj_conv (s : State) (o i v : Nat) : (s.setObj o i v).conv = s.conv := rfl
@[simp] theorem State.setObj_wort (s : State) (o i v : Nat) : (s.setObj o i v).wort = s.wort := rfl
@[simp] theorem State.setObj_verdict (s : State) (o i v : Nat) : (s.setObj o i v).verdict = s.verdict := rfl
@[simp] theorem State.setObj_cores (s : State) (o i v : Nat) : (s.setObj o i v).cores = s.cores := rfl
@[simp] theorem State.setObj_clusters (s : State) (o i v : Nat) : (s.setObj o i v).clusters = s.clusters := rfl
@[simp] theorem State.setObj_groups (s : State) (o i v : Nat) : (s.setObj o i v).groups = s.groups := rfl
@[simp] theorem State.setObj_mem (s : State) (o i v : Nat) : (s.setObj o i v).mem = s.mem := rfl
@[simp] theorem State.setObj_kilns (s : State) (o i v : Nat) : (s.setObj o i v).kilns = s.kilns := rfl
@[simp] theorem State.setObj_steps (s : State) (o i v : Nat) : (s.setObj o i v).steps = s.steps := rfl
@[simp] theorem State.setObj_fab (s : State) (o i v : Nat) : (s.setObj o i v).fab = s.fab := rfl
@[simp] theorem State.setObj_host (s : State) (o i v : Nat) : (s.setObj o i v).host = s.host := rfl
@[simp] theorem State.setObj_mgmt_dict (s : State) (o i v : Nat) : (s.setObj o i v).mgmt.dict = s.mgmt.dict.set (objDefault o i) (okey o i) v := rfl

/-! ### State.caskRefuse -/

@[simp] theorem State.caskRefuse_pending (s : State) : (s.caskRefuse).pending = s.pending := rfl
@[simp] theorem State.caskRefuse_free (s : State) : (s.caskRefuse).free = s.free := rfl
@[simp] theorem State.caskRefuse_arb (s : State) : (s.caskRefuse).arb = s.arb := rfl
@[simp] theorem State.caskRefuse_clock (s : State) : (s.caskRefuse).clock = s.clock := rfl
@[simp] theorem State.caskRefuse_power (s : State) : (s.caskRefuse).power = s.power := rfl
@[simp] theorem State.caskRefuse_pins (s : State) : (s.caskRefuse).pins = s.pins := rfl
@[simp] theorem State.caskRefuse_boot (s : State) : (s.caskRefuse).boot = s.boot := rfl
@[simp] theorem State.caskRefuse_mgmt (s : State) : (s.caskRefuse).mgmt = s.mgmt := rfl
@[simp] theorem State.caskRefuse_health (s : State) : (s.caskRefuse).health = s.health := rfl
@[simp] theorem State.caskRefuse_conv (s : State) : (s.caskRefuse).conv = s.conv := rfl
@[simp] theorem State.caskRefuse_wort (s : State) : (s.caskRefuse).wort = s.wort := rfl
@[simp] theorem State.caskRefuse_verdict (s : State) : (s.caskRefuse).verdict = s.verdict := rfl
@[simp] theorem State.caskRefuse_cores (s : State) : (s.caskRefuse).cores = s.cores := rfl
@[simp] theorem State.caskRefuse_clusters (s : State) : (s.caskRefuse).clusters = s.clusters := rfl
@[simp] theorem State.caskRefuse_groups (s : State) : (s.caskRefuse).groups = s.groups := rfl
@[simp] theorem State.caskRefuse_mem (s : State) : (s.caskRefuse).mem = s.mem := rfl
@[simp] theorem State.caskRefuse_kilns (s : State) : (s.caskRefuse).kilns = s.kilns := rfl
@[simp] theorem State.caskRefuse_steps (s : State) : (s.caskRefuse).steps = s.steps := rfl
@[simp] theorem State.caskRefuse_fab (s : State) : (s.caskRefuse).fab = s.fab := rfl
@[simp] theorem State.caskRefuse_host (s : State) : (s.caskRefuse).host = s.host := rfl
@[simp] theorem State.caskRefuse_cask_dropped (s : State) : (s.caskRefuse).cask.dropped = s.cask.dropped + 1 := rfl

/-! ### State.putCtx -/

@[simp] theorem State.putCtx_pending (s : State) (k : Nat) (c : Ctx) : (s.putCtx k c).pending = s.pending := rfl
@[simp] theorem State.putCtx_free (s : State) (k : Nat) (c : Ctx) : (s.putCtx k c).free = s.free := rfl
@[simp] theorem State.putCtx_arb (s : State) (k : Nat) (c : Ctx) : (s.putCtx k c).arb = s.arb := rfl
@[simp] theorem State.putCtx_clock (s : State) (k : Nat) (c : Ctx) : (s.putCtx k c).clock = s.clock := rfl
@[simp] theorem State.putCtx_power (s : State) (k : Nat) (c : Ctx) : (s.putCtx k c).power = s.power := rfl
@[simp] theorem State.putCtx_pins (s : State) (k : Nat) (c : Ctx) : (s.putCtx k c).pins = s.pins := rfl
@[simp] theorem State.putCtx_boot (s : State) (k : Nat) (c : Ctx) : (s.putCtx k c).boot = s.boot := rfl
@[simp] theorem State.putCtx_mgmt (s : State) (k : Nat) (c : Ctx) : (s.putCtx k c).mgmt = s.mgmt := rfl
@[simp] theorem State.putCtx_cask (s : State) (k : Nat) (c : Ctx) : (s.putCtx k c).cask = s.cask := rfl
@[simp] theorem State.putCtx_health (s : State) (k : Nat) (c : Ctx) : (s.putCtx k c).health = s.health := rfl
@[simp] theorem State.putCtx_conv (s : State) (k : Nat) (c : Ctx) : (s.putCtx k c).conv = s.conv := rfl
@[simp] theorem State.putCtx_wort (s : State) (k : Nat) (c : Ctx) : (s.putCtx k c).wort = s.wort := rfl
@[simp] theorem State.putCtx_verdict (s : State) (k : Nat) (c : Ctx) : (s.putCtx k c).verdict = s.verdict := rfl
@[simp] theorem State.putCtx_cores (s : State) (k : Nat) (c : Ctx) : (s.putCtx k c).cores = s.cores := rfl
@[simp] theorem State.putCtx_clusters (s : State) (k : Nat) (c : Ctx) : (s.putCtx k c).clusters = s.clusters := rfl
@[simp] theorem State.putCtx_groups (s : State) (k : Nat) (c : Ctx) : (s.putCtx k c).groups = s.groups := rfl
@[simp] theorem State.putCtx_mem (s : State) (k : Nat) (c : Ctx) : (s.putCtx k c).mem = s.mem := rfl
@[simp] theorem State.putCtx_kilns (s : State) (k : Nat) (c : Ctx) : (s.putCtx k c).kilns = s.kilns := rfl
@[simp] theorem State.putCtx_steps (s : State) (k : Nat) (c : Ctx) : (s.putCtx k c).steps = s.steps := rfl
@[simp] theorem State.putCtx_fab (s : State) (k : Nat) (c : Ctx) : (s.putCtx k c).fab = s.fab := rfl
@[simp] theorem State.putCtx_host_ctxs (s : State) (k : Nat) (c : Ctx) : (s.putCtx k c).host.ctxs = s.host.ctxs.put k c := rfl

/-! ### State.msi -/

@[simp] theorem State.msi_pending (s : State) (v n : Nat) : (s.msi v n).pending = s.pending := rfl
@[simp] theorem State.msi_free (s : State) (v n : Nat) : (s.msi v n).free = s.free := rfl
@[simp] theorem State.msi_arb (s : State) (v n : Nat) : (s.msi v n).arb = s.arb := rfl
@[simp] theorem State.msi_clock (s : State) (v n : Nat) : (s.msi v n).clock = s.clock := rfl
@[simp] theorem State.msi_power (s : State) (v n : Nat) : (s.msi v n).power = s.power := rfl
@[simp] theorem State.msi_pins (s : State) (v n : Nat) : (s.msi v n).pins = s.pins := rfl
@[simp] theorem State.msi_boot (s : State) (v n : Nat) : (s.msi v n).boot = s.boot := rfl
@[simp] theorem State.msi_mgmt (s : State) (v n : Nat) : (s.msi v n).mgmt = s.mgmt := rfl
@[simp] theorem State.msi_cask (s : State) (v n : Nat) : (s.msi v n).cask = s.cask := rfl
@[simp] theorem State.msi_health (s : State) (v n : Nat) : (s.msi v n).health = s.health := rfl
@[simp] theorem State.msi_conv (s : State) (v n : Nat) : (s.msi v n).conv = s.conv := rfl
@[simp] theorem State.msi_wort (s : State) (v n : Nat) : (s.msi v n).wort = s.wort := rfl
@[simp] theorem State.msi_verdict (s : State) (v n : Nat) : (s.msi v n).verdict = s.verdict := rfl
@[simp] theorem State.msi_cores (s : State) (v n : Nat) : (s.msi v n).cores = s.cores := rfl
@[simp] theorem State.msi_clusters (s : State) (v n : Nat) : (s.msi v n).clusters = s.clusters := rfl
@[simp] theorem State.msi_groups (s : State) (v n : Nat) : (s.msi v n).groups = s.groups := rfl
@[simp] theorem State.msi_mem (s : State) (v n : Nat) : (s.msi v n).mem = s.mem := rfl
@[simp] theorem State.msi_kilns (s : State) (v n : Nat) : (s.msi v n).kilns = s.kilns := rfl
@[simp] theorem State.msi_steps (s : State) (v n : Nat) : (s.msi v n).steps = s.steps := rfl
@[simp] theorem State.msi_fab (s : State) (v n : Nat) : (s.msi v n).fab = s.fab := rfl
@[simp] theorem State.msi_host_msix (s : State) (v n : Nat) : (s.msi v n).host.msix = s.host.msix ++ (if s.host.d3hot.contains v then [] else [fld (s.obj 0x60012 v) 16 12 + n]) := rfl

/-! ### State.hostWrite -/

@[simp] theorem State.hostWrite_pending (s : State) (a : Nat) (bs : Bytes) : (s.hostWrite a bs).pending = s.pending := rfl
@[simp] theorem State.hostWrite_free (s : State) (a : Nat) (bs : Bytes) : (s.hostWrite a bs).free = s.free := rfl
@[simp] theorem State.hostWrite_arb (s : State) (a : Nat) (bs : Bytes) : (s.hostWrite a bs).arb = s.arb := rfl
@[simp] theorem State.hostWrite_clock (s : State) (a : Nat) (bs : Bytes) : (s.hostWrite a bs).clock = s.clock := rfl
@[simp] theorem State.hostWrite_power (s : State) (a : Nat) (bs : Bytes) : (s.hostWrite a bs).power = s.power := rfl
@[simp] theorem State.hostWrite_pins (s : State) (a : Nat) (bs : Bytes) : (s.hostWrite a bs).pins = s.pins := rfl
@[simp] theorem State.hostWrite_boot (s : State) (a : Nat) (bs : Bytes) : (s.hostWrite a bs).boot = s.boot := rfl
@[simp] theorem State.hostWrite_mgmt (s : State) (a : Nat) (bs : Bytes) : (s.hostWrite a bs).mgmt = s.mgmt := rfl
@[simp] theorem State.hostWrite_cask (s : State) (a : Nat) (bs : Bytes) : (s.hostWrite a bs).cask = s.cask := rfl
@[simp] theorem State.hostWrite_health (s : State) (a : Nat) (bs : Bytes) : (s.hostWrite a bs).health = s.health := rfl
@[simp] theorem State.hostWrite_conv (s : State) (a : Nat) (bs : Bytes) : (s.hostWrite a bs).conv = s.conv := rfl
@[simp] theorem State.hostWrite_wort (s : State) (a : Nat) (bs : Bytes) : (s.hostWrite a bs).wort = s.wort := rfl
@[simp] theorem State.hostWrite_verdict (s : State) (a : Nat) (bs : Bytes) : (s.hostWrite a bs).verdict = s.verdict := rfl
@[simp] theorem State.hostWrite_cores (s : State) (a : Nat) (bs : Bytes) : (s.hostWrite a bs).cores = s.cores := rfl
@[simp] theorem State.hostWrite_clusters (s : State) (a : Nat) (bs : Bytes) : (s.hostWrite a bs).clusters = s.clusters := rfl
@[simp] theorem State.hostWrite_groups (s : State) (a : Nat) (bs : Bytes) : (s.hostWrite a bs).groups = s.groups := rfl
@[simp] theorem State.hostWrite_kilns (s : State) (a : Nat) (bs : Bytes) : (s.hostWrite a bs).kilns = s.kilns := rfl
@[simp] theorem State.hostWrite_steps (s : State) (a : Nat) (bs : Bytes) : (s.hostWrite a bs).steps = s.steps := rfl
@[simp] theorem State.hostWrite_fab (s : State) (a : Nat) (bs : Bytes) : (s.hostWrite a bs).fab = s.fab := rfl
@[simp] theorem State.hostWrite_host (s : State) (a : Nat) (bs : Bytes) : (s.hostWrite a bs).host = s.host := rfl
@[simp] theorem State.hostWrite_mem_host (s : State) (a : Nat) (bs : Bytes) : (s.hostWrite a bs).mem.host = memWrite s.mem.host a bs := rfl

/-! ### State.putGroup -/

@[simp] theorem State.putGroup_pending (s : State) (gk : Nat) (g : Group) : (s.putGroup gk g).pending = s.pending := rfl
@[simp] theorem State.putGroup_free (s : State) (gk : Nat) (g : Group) : (s.putGroup gk g).free = s.free := rfl
@[simp] theorem State.putGroup_arb (s : State) (gk : Nat) (g : Group) : (s.putGroup gk g).arb = s.arb := rfl
@[simp] theorem State.putGroup_clock (s : State) (gk : Nat) (g : Group) : (s.putGroup gk g).clock = s.clock := rfl
@[simp] theorem State.putGroup_power (s : State) (gk : Nat) (g : Group) : (s.putGroup gk g).power = s.power := rfl
@[simp] theorem State.putGroup_pins (s : State) (gk : Nat) (g : Group) : (s.putGroup gk g).pins = s.pins := rfl
@[simp] theorem State.putGroup_boot (s : State) (gk : Nat) (g : Group) : (s.putGroup gk g).boot = s.boot := rfl
@[simp] theorem State.putGroup_mgmt (s : State) (gk : Nat) (g : Group) : (s.putGroup gk g).mgmt = s.mgmt := rfl
@[simp] theorem State.putGroup_cask (s : State) (gk : Nat) (g : Group) : (s.putGroup gk g).cask = s.cask := rfl
@[simp] theorem State.putGroup_health (s : State) (gk : Nat) (g : Group) : (s.putGroup gk g).health = s.health := rfl
@[simp] theorem State.putGroup_conv (s : State) (gk : Nat) (g : Group) : (s.putGroup gk g).conv = s.conv := rfl
@[simp] theorem State.putGroup_wort (s : State) (gk : Nat) (g : Group) : (s.putGroup gk g).wort = s.wort := rfl
@[simp] theorem State.putGroup_verdict (s : State) (gk : Nat) (g : Group) : (s.putGroup gk g).verdict = s.verdict := rfl
@[simp] theorem State.putGroup_cores (s : State) (gk : Nat) (g : Group) : (s.putGroup gk g).cores = s.cores := rfl
@[simp] theorem State.putGroup_clusters (s : State) (gk : Nat) (g : Group) : (s.putGroup gk g).clusters = s.clusters := rfl
@[simp] theorem State.putGroup_mem (s : State) (gk : Nat) (g : Group) : (s.putGroup gk g).mem = s.mem := rfl
@[simp] theorem State.putGroup_kilns (s : State) (gk : Nat) (g : Group) : (s.putGroup gk g).kilns = s.kilns := rfl
@[simp] theorem State.putGroup_steps (s : State) (gk : Nat) (g : Group) : (s.putGroup gk g).steps = s.steps := rfl
@[simp] theorem State.putGroup_fab (s : State) (gk : Nat) (g : Group) : (s.putGroup gk g).fab = s.fab := rfl
@[simp] theorem State.putGroup_host (s : State) (gk : Nat) (g : Group) : (s.putGroup gk g).host = s.host := rfl
@[simp] theorem State.putGroup_groups (s : State) (gk : Nat) (g : Group) : (s.putGroup gk g).groups = s.groups.put gk g := rfl

/-! ### State.putCore -/

@[simp] theorem State.putCore_pending (s : State) (ck : Nat) (c : Core) : (s.putCore ck c).pending = s.pending := rfl
@[simp] theorem State.putCore_free (s : State) (ck : Nat) (c : Core) : (s.putCore ck c).free = s.free := rfl
@[simp] theorem State.putCore_arb (s : State) (ck : Nat) (c : Core) : (s.putCore ck c).arb = s.arb := rfl
@[simp] theorem State.putCore_clock (s : State) (ck : Nat) (c : Core) : (s.putCore ck c).clock = s.clock := rfl
@[simp] theorem State.putCore_power (s : State) (ck : Nat) (c : Core) : (s.putCore ck c).power = s.power := rfl
@[simp] theorem State.putCore_pins (s : State) (ck : Nat) (c : Core) : (s.putCore ck c).pins = s.pins := rfl
@[simp] theorem State.putCore_boot (s : State) (ck : Nat) (c : Core) : (s.putCore ck c).boot = s.boot := rfl
@[simp] theorem State.putCore_mgmt (s : State) (ck : Nat) (c : Core) : (s.putCore ck c).mgmt = s.mgmt := rfl
@[simp] theorem State.putCore_cask (s : State) (ck : Nat) (c : Core) : (s.putCore ck c).cask = s.cask := rfl
@[simp] theorem State.putCore_health (s : State) (ck : Nat) (c : Core) : (s.putCore ck c).health = s.health := rfl
@[simp] theorem State.putCore_conv (s : State) (ck : Nat) (c : Core) : (s.putCore ck c).conv = s.conv := rfl
@[simp] theorem State.putCore_wort (s : State) (ck : Nat) (c : Core) : (s.putCore ck c).wort = s.wort := rfl
@[simp] theorem State.putCore_verdict (s : State) (ck : Nat) (c : Core) : (s.putCore ck c).verdict = s.verdict := rfl
@[simp] theorem State.putCore_clusters (s : State) (ck : Nat) (c : Core) : (s.putCore ck c).clusters = s.clusters := rfl
@[simp] theorem State.putCore_groups (s : State) (ck : Nat) (c : Core) : (s.putCore ck c).groups = s.groups := rfl
@[simp] theorem State.putCore_mem (s : State) (ck : Nat) (c : Core) : (s.putCore ck c).mem = s.mem := rfl
@[simp] theorem State.putCore_kilns (s : State) (ck : Nat) (c : Core) : (s.putCore ck c).kilns = s.kilns := rfl
@[simp] theorem State.putCore_steps (s : State) (ck : Nat) (c : Core) : (s.putCore ck c).steps = s.steps := rfl
@[simp] theorem State.putCore_fab (s : State) (ck : Nat) (c : Core) : (s.putCore ck c).fab = s.fab := rfl
@[simp] theorem State.putCore_host (s : State) (ck : Nat) (c : Core) : (s.putCore ck c).host = s.host := rfl
@[simp] theorem State.putCore_cores (s : State) (ck : Nat) (c : Core) : (s.putCore ck c).cores = s.cores.put ck c := rfl

/-! ### State.putCluster -/

@[simp] theorem State.putCluster_pending (s : State) (c : Nat) (x : Cluster) : (s.putCluster c x).pending = s.pending := rfl
@[simp] theorem State.putCluster_free (s : State) (c : Nat) (x : Cluster) : (s.putCluster c x).free = s.free := rfl
@[simp] theorem State.putCluster_arb (s : State) (c : Nat) (x : Cluster) : (s.putCluster c x).arb = s.arb := rfl
@[simp] theorem State.putCluster_clock (s : State) (c : Nat) (x : Cluster) : (s.putCluster c x).clock = s.clock := rfl
@[simp] theorem State.putCluster_power (s : State) (c : Nat) (x : Cluster) : (s.putCluster c x).power = s.power := rfl
@[simp] theorem State.putCluster_pins (s : State) (c : Nat) (x : Cluster) : (s.putCluster c x).pins = s.pins := rfl
@[simp] theorem State.putCluster_boot (s : State) (c : Nat) (x : Cluster) : (s.putCluster c x).boot = s.boot := rfl
@[simp] theorem State.putCluster_mgmt (s : State) (c : Nat) (x : Cluster) : (s.putCluster c x).mgmt = s.mgmt := rfl
@[simp] theorem State.putCluster_cask (s : State) (c : Nat) (x : Cluster) : (s.putCluster c x).cask = s.cask := rfl
@[simp] theorem State.putCluster_health (s : State) (c : Nat) (x : Cluster) : (s.putCluster c x).health = s.health := rfl
@[simp] theorem State.putCluster_conv (s : State) (c : Nat) (x : Cluster) : (s.putCluster c x).conv = s.conv := rfl
@[simp] theorem State.putCluster_wort (s : State) (c : Nat) (x : Cluster) : (s.putCluster c x).wort = s.wort := rfl
@[simp] theorem State.putCluster_verdict (s : State) (c : Nat) (x : Cluster) : (s.putCluster c x).verdict = s.verdict := rfl
@[simp] theorem State.putCluster_cores (s : State) (c : Nat) (x : Cluster) : (s.putCluster c x).cores = s.cores := rfl
@[simp] theorem State.putCluster_groups (s : State) (c : Nat) (x : Cluster) : (s.putCluster c x).groups = s.groups := rfl
@[simp] theorem State.putCluster_mem (s : State) (c : Nat) (x : Cluster) : (s.putCluster c x).mem = s.mem := rfl
@[simp] theorem State.putCluster_kilns (s : State) (c : Nat) (x : Cluster) : (s.putCluster c x).kilns = s.kilns := rfl
@[simp] theorem State.putCluster_steps (s : State) (c : Nat) (x : Cluster) : (s.putCluster c x).steps = s.steps := rfl
@[simp] theorem State.putCluster_fab (s : State) (c : Nat) (x : Cluster) : (s.putCluster c x).fab = s.fab := rfl
@[simp] theorem State.putCluster_host (s : State) (c : Nat) (x : Cluster) : (s.putCluster c x).host = s.host := rfl
@[simp] theorem State.putCluster_clusters (s : State) (c : Nat) (x : Cluster) : (s.putCluster c x).clusters = s.clusters.put c x := rfl

/-! ### State.putPort -/

@[simp] theorem State.putPort_pending (s : State) (p : Nat) (x : Port) : (s.putPort p x).pending = s.pending := rfl
@[simp] theorem State.putPort_free (s : State) (p : Nat) (x : Port) : (s.putPort p x).free = s.free := rfl
@[simp] theorem State.putPort_arb (s : State) (p : Nat) (x : Port) : (s.putPort p x).arb = s.arb := rfl
@[simp] theorem State.putPort_clock (s : State) (p : Nat) (x : Port) : (s.putPort p x).clock = s.clock := rfl
@[simp] theorem State.putPort_power (s : State) (p : Nat) (x : Port) : (s.putPort p x).power = s.power := rfl
@[simp] theorem State.putPort_pins (s : State) (p : Nat) (x : Port) : (s.putPort p x).pins = s.pins := rfl
@[simp] theorem State.putPort_boot (s : State) (p : Nat) (x : Port) : (s.putPort p x).boot = s.boot := rfl
@[simp] theorem State.putPort_mgmt (s : State) (p : Nat) (x : Port) : (s.putPort p x).mgmt = s.mgmt := rfl
@[simp] theorem State.putPort_cask (s : State) (p : Nat) (x : Port) : (s.putPort p x).cask = s.cask := rfl
@[simp] theorem State.putPort_health (s : State) (p : Nat) (x : Port) : (s.putPort p x).health = s.health := rfl
@[simp] theorem State.putPort_conv (s : State) (p : Nat) (x : Port) : (s.putPort p x).conv = s.conv := rfl
@[simp] theorem State.putPort_wort (s : State) (p : Nat) (x : Port) : (s.putPort p x).wort = s.wort := rfl
@[simp] theorem State.putPort_verdict (s : State) (p : Nat) (x : Port) : (s.putPort p x).verdict = s.verdict := rfl
@[simp] theorem State.putPort_cores (s : State) (p : Nat) (x : Port) : (s.putPort p x).cores = s.cores := rfl
@[simp] theorem State.putPort_clusters (s : State) (p : Nat) (x : Port) : (s.putPort p x).clusters = s.clusters := rfl
@[simp] theorem State.putPort_groups (s : State) (p : Nat) (x : Port) : (s.putPort p x).groups = s.groups := rfl
@[simp] theorem State.putPort_mem (s : State) (p : Nat) (x : Port) : (s.putPort p x).mem = s.mem := rfl
@[simp] theorem State.putPort_kilns (s : State) (p : Nat) (x : Port) : (s.putPort p x).kilns = s.kilns := rfl
@[simp] theorem State.putPort_steps (s : State) (p : Nat) (x : Port) : (s.putPort p x).steps = s.steps := rfl
@[simp] theorem State.putPort_host (s : State) (p : Nat) (x : Port) : (s.putPort p x).host = s.host := rfl
@[simp] theorem State.putPort_fab_ports (s : State) (p : Nat) (x : Port) : (s.putPort p x).fab.ports = s.fab.ports.set {} p x := rfl

/-! ### State.putQueue -/

@[simp] theorem State.putQueue_pending (s : State) (v q : Nat) (x : Queue) : (s.putQueue v q x).pending = s.pending := rfl
@[simp] theorem State.putQueue_free (s : State) (v q : Nat) (x : Queue) : (s.putQueue v q x).free = s.free := rfl
@[simp] theorem State.putQueue_arb (s : State) (v q : Nat) (x : Queue) : (s.putQueue v q x).arb = s.arb := rfl
@[simp] theorem State.putQueue_clock (s : State) (v q : Nat) (x : Queue) : (s.putQueue v q x).clock = s.clock := rfl
@[simp] theorem State.putQueue_power (s : State) (v q : Nat) (x : Queue) : (s.putQueue v q x).power = s.power := rfl
@[simp] theorem State.putQueue_pins (s : State) (v q : Nat) (x : Queue) : (s.putQueue v q x).pins = s.pins := rfl
@[simp] theorem State.putQueue_boot (s : State) (v q : Nat) (x : Queue) : (s.putQueue v q x).boot = s.boot := rfl
@[simp] theorem State.putQueue_mgmt (s : State) (v q : Nat) (x : Queue) : (s.putQueue v q x).mgmt = s.mgmt := rfl
@[simp] theorem State.putQueue_cask (s : State) (v q : Nat) (x : Queue) : (s.putQueue v q x).cask = s.cask := rfl
@[simp] theorem State.putQueue_health (s : State) (v q : Nat) (x : Queue) : (s.putQueue v q x).health = s.health := rfl
@[simp] theorem State.putQueue_conv (s : State) (v q : Nat) (x : Queue) : (s.putQueue v q x).conv = s.conv := rfl
@[simp] theorem State.putQueue_wort (s : State) (v q : Nat) (x : Queue) : (s.putQueue v q x).wort = s.wort := rfl
@[simp] theorem State.putQueue_verdict (s : State) (v q : Nat) (x : Queue) : (s.putQueue v q x).verdict = s.verdict := rfl
@[simp] theorem State.putQueue_cores (s : State) (v q : Nat) (x : Queue) : (s.putQueue v q x).cores = s.cores := rfl
@[simp] theorem State.putQueue_clusters (s : State) (v q : Nat) (x : Queue) : (s.putQueue v q x).clusters = s.clusters := rfl
@[simp] theorem State.putQueue_groups (s : State) (v q : Nat) (x : Queue) : (s.putQueue v q x).groups = s.groups := rfl
@[simp] theorem State.putQueue_mem (s : State) (v q : Nat) (x : Queue) : (s.putQueue v q x).mem = s.mem := rfl
@[simp] theorem State.putQueue_kilns (s : State) (v q : Nat) (x : Queue) : (s.putQueue v q x).kilns = s.kilns := rfl
@[simp] theorem State.putQueue_steps (s : State) (v q : Nat) (x : Queue) : (s.putQueue v q x).steps = s.steps := rfl
@[simp] theorem State.putQueue_fab (s : State) (v q : Nat) (x : Queue) : (s.putQueue v q x).fab = s.fab := rfl
@[simp] theorem State.putQueue_host_queues (s : State) (v q : Nat) (x : Queue) : (s.putQueue v q x).host.queues = s.host.queues.put (queueKey v q) x := rfl

/-! ### State.putMail -/

@[simp] theorem State.putMail_pending (s : State) (ch dir : Nat) (l : List (BitVec 32 × BitVec 8)) : (s.putMail ch dir l).pending = s.pending := rfl
@[simp] theorem State.putMail_free (s : State) (ch dir : Nat) (l : List (BitVec 32 × BitVec 8)) : (s.putMail ch dir l).free = s.free := rfl
@[simp] theorem State.putMail_arb (s : State) (ch dir : Nat) (l : List (BitVec 32 × BitVec 8)) : (s.putMail ch dir l).arb = s.arb := rfl
@[simp] theorem State.putMail_clock (s : State) (ch dir : Nat) (l : List (BitVec 32 × BitVec 8)) : (s.putMail ch dir l).clock = s.clock := rfl
@[simp] theorem State.putMail_power (s : State) (ch dir : Nat) (l : List (BitVec 32 × BitVec 8)) : (s.putMail ch dir l).power = s.power := rfl
@[simp] theorem State.putMail_pins (s : State) (ch dir : Nat) (l : List (BitVec 32 × BitVec 8)) : (s.putMail ch dir l).pins = s.pins := rfl
@[simp] theorem State.putMail_boot (s : State) (ch dir : Nat) (l : List (BitVec 32 × BitVec 8)) : (s.putMail ch dir l).boot = s.boot := rfl
@[simp] theorem State.putMail_mgmt (s : State) (ch dir : Nat) (l : List (BitVec 32 × BitVec 8)) : (s.putMail ch dir l).mgmt = s.mgmt := rfl
@[simp] theorem State.putMail_cask (s : State) (ch dir : Nat) (l : List (BitVec 32 × BitVec 8)) : (s.putMail ch dir l).cask = s.cask := rfl
@[simp] theorem State.putMail_health (s : State) (ch dir : Nat) (l : List (BitVec 32 × BitVec 8)) : (s.putMail ch dir l).health = s.health := rfl
@[simp] theorem State.putMail_conv (s : State) (ch dir : Nat) (l : List (BitVec 32 × BitVec 8)) : (s.putMail ch dir l).conv = s.conv := rfl
@[simp] theorem State.putMail_wort (s : State) (ch dir : Nat) (l : List (BitVec 32 × BitVec 8)) : (s.putMail ch dir l).wort = s.wort := rfl
@[simp] theorem State.putMail_verdict (s : State) (ch dir : Nat) (l : List (BitVec 32 × BitVec 8)) : (s.putMail ch dir l).verdict = s.verdict := rfl
@[simp] theorem State.putMail_cores (s : State) (ch dir : Nat) (l : List (BitVec 32 × BitVec 8)) : (s.putMail ch dir l).cores = s.cores := rfl
@[simp] theorem State.putMail_clusters (s : State) (ch dir : Nat) (l : List (BitVec 32 × BitVec 8)) : (s.putMail ch dir l).clusters = s.clusters := rfl
@[simp] theorem State.putMail_groups (s : State) (ch dir : Nat) (l : List (BitVec 32 × BitVec 8)) : (s.putMail ch dir l).groups = s.groups := rfl
@[simp] theorem State.putMail_mem (s : State) (ch dir : Nat) (l : List (BitVec 32 × BitVec 8)) : (s.putMail ch dir l).mem = s.mem := rfl
@[simp] theorem State.putMail_kilns (s : State) (ch dir : Nat) (l : List (BitVec 32 × BitVec 8)) : (s.putMail ch dir l).kilns = s.kilns := rfl
@[simp] theorem State.putMail_steps (s : State) (ch dir : Nat) (l : List (BitVec 32 × BitVec 8)) : (s.putMail ch dir l).steps = s.steps := rfl
@[simp] theorem State.putMail_fab (s : State) (ch dir : Nat) (l : List (BitVec 32 × BitVec 8)) : (s.putMail ch dir l).fab = s.fab := rfl
@[simp] theorem State.putMail_host_mail (s : State) (ch dir : Nat) (l : List (BitVec 32 × BitVec 8)) : (s.putMail ch dir l).host.mail = s.host.mail.set [] (2 * ch + dir) l := rfl

/-! ### State.putStation -/

@[simp] theorem State.putStation_pending (s : State) (st : Nat) (x : Station) : (s.putStation st x).pending = s.pending := rfl
@[simp] theorem State.putStation_free (s : State) (st : Nat) (x : Station) : (s.putStation st x).free = s.free := rfl
@[simp] theorem State.putStation_arb (s : State) (st : Nat) (x : Station) : (s.putStation st x).arb = s.arb := rfl
@[simp] theorem State.putStation_clock (s : State) (st : Nat) (x : Station) : (s.putStation st x).clock = s.clock := rfl
@[simp] theorem State.putStation_power (s : State) (st : Nat) (x : Station) : (s.putStation st x).power = s.power := rfl
@[simp] theorem State.putStation_pins (s : State) (st : Nat) (x : Station) : (s.putStation st x).pins = s.pins := rfl
@[simp] theorem State.putStation_boot (s : State) (st : Nat) (x : Station) : (s.putStation st x).boot = s.boot := rfl
@[simp] theorem State.putStation_mgmt (s : State) (st : Nat) (x : Station) : (s.putStation st x).mgmt = s.mgmt := rfl
@[simp] theorem State.putStation_cask (s : State) (st : Nat) (x : Station) : (s.putStation st x).cask = s.cask := rfl
@[simp] theorem State.putStation_health (s : State) (st : Nat) (x : Station) : (s.putStation st x).health = s.health := rfl
@[simp] theorem State.putStation_wort (s : State) (st : Nat) (x : Station) : (s.putStation st x).wort = s.wort := rfl
@[simp] theorem State.putStation_verdict (s : State) (st : Nat) (x : Station) : (s.putStation st x).verdict = s.verdict := rfl
@[simp] theorem State.putStation_cores (s : State) (st : Nat) (x : Station) : (s.putStation st x).cores = s.cores := rfl
@[simp] theorem State.putStation_clusters (s : State) (st : Nat) (x : Station) : (s.putStation st x).clusters = s.clusters := rfl
@[simp] theorem State.putStation_groups (s : State) (st : Nat) (x : Station) : (s.putStation st x).groups = s.groups := rfl
@[simp] theorem State.putStation_mem (s : State) (st : Nat) (x : Station) : (s.putStation st x).mem = s.mem := rfl
@[simp] theorem State.putStation_kilns (s : State) (st : Nat) (x : Station) : (s.putStation st x).kilns = s.kilns := rfl
@[simp] theorem State.putStation_steps (s : State) (st : Nat) (x : Station) : (s.putStation st x).steps = s.steps := rfl
@[simp] theorem State.putStation_fab (s : State) (st : Nat) (x : Station) : (s.putStation st x).fab = s.fab := rfl
@[simp] theorem State.putStation_host (s : State) (st : Nat) (x : Station) : (s.putStation st x).host = s.host := rfl
@[simp] theorem State.putStation_conv_stn (s : State) (st : Nat) (x : Station) : (s.putStation st x).conv.stn = s.conv.stn.put st x := rfl

/-! ### State.putGrist -/

@[simp] theorem State.putGrist_pending (s : State) (n : Nat) (x : Slot) : (s.putGrist n x).pending = s.pending := rfl
@[simp] theorem State.putGrist_free (s : State) (n : Nat) (x : Slot) : (s.putGrist n x).free = s.free := rfl
@[simp] theorem State.putGrist_arb (s : State) (n : Nat) (x : Slot) : (s.putGrist n x).arb = s.arb := rfl
@[simp] theorem State.putGrist_clock (s : State) (n : Nat) (x : Slot) : (s.putGrist n x).clock = s.clock := rfl
@[simp] theorem State.putGrist_power (s : State) (n : Nat) (x : Slot) : (s.putGrist n x).power = s.power := rfl
@[simp] theorem State.putGrist_pins (s : State) (n : Nat) (x : Slot) : (s.putGrist n x).pins = s.pins := rfl
@[simp] theorem State.putGrist_boot (s : State) (n : Nat) (x : Slot) : (s.putGrist n x).boot = s.boot := rfl
@[simp] theorem State.putGrist_mgmt (s : State) (n : Nat) (x : Slot) : (s.putGrist n x).mgmt = s.mgmt := rfl
@[simp] theorem State.putGrist_cask (s : State) (n : Nat) (x : Slot) : (s.putGrist n x).cask = s.cask := rfl
@[simp] theorem State.putGrist_health (s : State) (n : Nat) (x : Slot) : (s.putGrist n x).health = s.health := rfl
@[simp] theorem State.putGrist_wort (s : State) (n : Nat) (x : Slot) : (s.putGrist n x).wort = s.wort := rfl
@[simp] theorem State.putGrist_verdict (s : State) (n : Nat) (x : Slot) : (s.putGrist n x).verdict = s.verdict := rfl
@[simp] theorem State.putGrist_cores (s : State) (n : Nat) (x : Slot) : (s.putGrist n x).cores = s.cores := rfl
@[simp] theorem State.putGrist_clusters (s : State) (n : Nat) (x : Slot) : (s.putGrist n x).clusters = s.clusters := rfl
@[simp] theorem State.putGrist_groups (s : State) (n : Nat) (x : Slot) : (s.putGrist n x).groups = s.groups := rfl
@[simp] theorem State.putGrist_mem (s : State) (n : Nat) (x : Slot) : (s.putGrist n x).mem = s.mem := rfl
@[simp] theorem State.putGrist_kilns (s : State) (n : Nat) (x : Slot) : (s.putGrist n x).kilns = s.kilns := rfl
@[simp] theorem State.putGrist_steps (s : State) (n : Nat) (x : Slot) : (s.putGrist n x).steps = s.steps := rfl
@[simp] theorem State.putGrist_fab (s : State) (n : Nat) (x : Slot) : (s.putGrist n x).fab = s.fab := rfl
@[simp] theorem State.putGrist_host (s : State) (n : Nat) (x : Slot) : (s.putGrist n x).host = s.host := rfl
@[simp] theorem State.putGrist_conv_slots (s : State) (n : Nat) (x : Slot) : (s.putGrist n x).conv.slots = s.conv.slots.set {} n x := rfl

/-! ### State.putInjector -/

@[simp] theorem State.putInjector_pending (s : State) (j : Nat) (x : Injector) : (s.putInjector j x).pending = s.pending := rfl
@[simp] theorem State.putInjector_free (s : State) (j : Nat) (x : Injector) : (s.putInjector j x).free = s.free := rfl
@[simp] theorem State.putInjector_arb (s : State) (j : Nat) (x : Injector) : (s.putInjector j x).arb = s.arb := rfl
@[simp] theorem State.putInjector_clock (s : State) (j : Nat) (x : Injector) : (s.putInjector j x).clock = s.clock := rfl
@[simp] theorem State.putInjector_power (s : State) (j : Nat) (x : Injector) : (s.putInjector j x).power = s.power := rfl
@[simp] theorem State.putInjector_pins (s : State) (j : Nat) (x : Injector) : (s.putInjector j x).pins = s.pins := rfl
@[simp] theorem State.putInjector_boot (s : State) (j : Nat) (x : Injector) : (s.putInjector j x).boot = s.boot := rfl
@[simp] theorem State.putInjector_mgmt (s : State) (j : Nat) (x : Injector) : (s.putInjector j x).mgmt = s.mgmt := rfl
@[simp] theorem State.putInjector_cask (s : State) (j : Nat) (x : Injector) : (s.putInjector j x).cask = s.cask := rfl
@[simp] theorem State.putInjector_health (s : State) (j : Nat) (x : Injector) : (s.putInjector j x).health = s.health := rfl
@[simp] theorem State.putInjector_wort (s : State) (j : Nat) (x : Injector) : (s.putInjector j x).wort = s.wort := rfl
@[simp] theorem State.putInjector_verdict (s : State) (j : Nat) (x : Injector) : (s.putInjector j x).verdict = s.verdict := rfl
@[simp] theorem State.putInjector_cores (s : State) (j : Nat) (x : Injector) : (s.putInjector j x).cores = s.cores := rfl
@[simp] theorem State.putInjector_clusters (s : State) (j : Nat) (x : Injector) : (s.putInjector j x).clusters = s.clusters := rfl
@[simp] theorem State.putInjector_groups (s : State) (j : Nat) (x : Injector) : (s.putInjector j x).groups = s.groups := rfl
@[simp] theorem State.putInjector_mem (s : State) (j : Nat) (x : Injector) : (s.putInjector j x).mem = s.mem := rfl
@[simp] theorem State.putInjector_kilns (s : State) (j : Nat) (x : Injector) : (s.putInjector j x).kilns = s.kilns := rfl
@[simp] theorem State.putInjector_steps (s : State) (j : Nat) (x : Injector) : (s.putInjector j x).steps = s.steps := rfl
@[simp] theorem State.putInjector_fab (s : State) (j : Nat) (x : Injector) : (s.putInjector j x).fab = s.fab := rfl
@[simp] theorem State.putInjector_host (s : State) (j : Nat) (x : Injector) : (s.putInjector j x).host = s.host := rfl
@[simp] theorem State.putInjector_conv_inj (s : State) (j : Nat) (x : Injector) : (s.putInjector j x).conv.inj = s.conv.inj.put j x := rfl

/-! ### State.putKiln -/

@[simp] theorem State.putKiln_pending (s : State) (k : Nat) (x : Kiln) : (s.putKiln k x).pending = s.pending := rfl
@[simp] theorem State.putKiln_free (s : State) (k : Nat) (x : Kiln) : (s.putKiln k x).free = s.free := rfl
@[simp] theorem State.putKiln_arb (s : State) (k : Nat) (x : Kiln) : (s.putKiln k x).arb = s.arb := rfl
@[simp] theorem State.putKiln_clock (s : State) (k : Nat) (x : Kiln) : (s.putKiln k x).clock = s.clock := rfl
@[simp] theorem State.putKiln_power (s : State) (k : Nat) (x : Kiln) : (s.putKiln k x).power = s.power := rfl
@[simp] theorem State.putKiln_pins (s : State) (k : Nat) (x : Kiln) : (s.putKiln k x).pins = s.pins := rfl
@[simp] theorem State.putKiln_boot (s : State) (k : Nat) (x : Kiln) : (s.putKiln k x).boot = s.boot := rfl
@[simp] theorem State.putKiln_mgmt (s : State) (k : Nat) (x : Kiln) : (s.putKiln k x).mgmt = s.mgmt := rfl
@[simp] theorem State.putKiln_cask (s : State) (k : Nat) (x : Kiln) : (s.putKiln k x).cask = s.cask := rfl
@[simp] theorem State.putKiln_health (s : State) (k : Nat) (x : Kiln) : (s.putKiln k x).health = s.health := rfl
@[simp] theorem State.putKiln_conv (s : State) (k : Nat) (x : Kiln) : (s.putKiln k x).conv = s.conv := rfl
@[simp] theorem State.putKiln_wort (s : State) (k : Nat) (x : Kiln) : (s.putKiln k x).wort = s.wort := rfl
@[simp] theorem State.putKiln_verdict (s : State) (k : Nat) (x : Kiln) : (s.putKiln k x).verdict = s.verdict := rfl
@[simp] theorem State.putKiln_cores (s : State) (k : Nat) (x : Kiln) : (s.putKiln k x).cores = s.cores := rfl
@[simp] theorem State.putKiln_clusters (s : State) (k : Nat) (x : Kiln) : (s.putKiln k x).clusters = s.clusters := rfl
@[simp] theorem State.putKiln_groups (s : State) (k : Nat) (x : Kiln) : (s.putKiln k x).groups = s.groups := rfl
@[simp] theorem State.putKiln_mem (s : State) (k : Nat) (x : Kiln) : (s.putKiln k x).mem = s.mem := rfl
@[simp] theorem State.putKiln_steps (s : State) (k : Nat) (x : Kiln) : (s.putKiln k x).steps = s.steps := rfl
@[simp] theorem State.putKiln_fab (s : State) (k : Nat) (x : Kiln) : (s.putKiln k x).fab = s.fab := rfl
@[simp] theorem State.putKiln_host (s : State) (k : Nat) (x : Kiln) : (s.putKiln k x).host = s.host := rfl
@[simp] theorem State.putKiln_kilns (s : State) (k : Nat) (x : Kiln) : (s.putKiln k x).kilns = s.kilns.put k x := rfl

/-! ### State.putWort -/

@[simp] theorem State.putWort_pending (s : State) (n : Nat) (x : Slot) : (s.putWort n x).pending = s.pending := rfl
@[simp] theorem State.putWort_free (s : State) (n : Nat) (x : Slot) : (s.putWort n x).free = s.free := rfl
@[simp] theorem State.putWort_arb (s : State) (n : Nat) (x : Slot) : (s.putWort n x).arb = s.arb := rfl
@[simp] theorem State.putWort_clock (s : State) (n : Nat) (x : Slot) : (s.putWort n x).clock = s.clock := rfl
@[simp] theorem State.putWort_power (s : State) (n : Nat) (x : Slot) : (s.putWort n x).power = s.power := rfl
@[simp] theorem State.putWort_pins (s : State) (n : Nat) (x : Slot) : (s.putWort n x).pins = s.pins := rfl
@[simp] theorem State.putWort_boot (s : State) (n : Nat) (x : Slot) : (s.putWort n x).boot = s.boot := rfl
@[simp] theorem State.putWort_mgmt (s : State) (n : Nat) (x : Slot) : (s.putWort n x).mgmt = s.mgmt := rfl
@[simp] theorem State.putWort_cask (s : State) (n : Nat) (x : Slot) : (s.putWort n x).cask = s.cask := rfl
@[simp] theorem State.putWort_health (s : State) (n : Nat) (x : Slot) : (s.putWort n x).health = s.health := rfl
@[simp] theorem State.putWort_conv (s : State) (n : Nat) (x : Slot) : (s.putWort n x).conv = s.conv := rfl
@[simp] theorem State.putWort_verdict (s : State) (n : Nat) (x : Slot) : (s.putWort n x).verdict = s.verdict := rfl
@[simp] theorem State.putWort_cores (s : State) (n : Nat) (x : Slot) : (s.putWort n x).cores = s.cores := rfl
@[simp] theorem State.putWort_clusters (s : State) (n : Nat) (x : Slot) : (s.putWort n x).clusters = s.clusters := rfl
@[simp] theorem State.putWort_groups (s : State) (n : Nat) (x : Slot) : (s.putWort n x).groups = s.groups := rfl
@[simp] theorem State.putWort_mem (s : State) (n : Nat) (x : Slot) : (s.putWort n x).mem = s.mem := rfl
@[simp] theorem State.putWort_kilns (s : State) (n : Nat) (x : Slot) : (s.putWort n x).kilns = s.kilns := rfl
@[simp] theorem State.putWort_steps (s : State) (n : Nat) (x : Slot) : (s.putWort n x).steps = s.steps := rfl
@[simp] theorem State.putWort_fab (s : State) (n : Nat) (x : Slot) : (s.putWort n x).fab = s.fab := rfl
@[simp] theorem State.putWort_host (s : State) (n : Nat) (x : Slot) : (s.putWort n x).host = s.host := rfl
@[simp] theorem State.putWort_wort_slots (s : State) (n : Nat) (x : Slot) : (s.putWort n x).wort.slots = s.wort.slots.set {} n x := rfl

/-! ### State.putContribs -/

@[simp] theorem State.putContribs_pending (s : State) (st : Nat) (l : List Contribution) : (s.putContribs st l).pending = s.pending := rfl
@[simp] theorem State.putContribs_free (s : State) (st : Nat) (l : List Contribution) : (s.putContribs st l).free = s.free := rfl
@[simp] theorem State.putContribs_arb (s : State) (st : Nat) (l : List Contribution) : (s.putContribs st l).arb = s.arb := rfl
@[simp] theorem State.putContribs_clock (s : State) (st : Nat) (l : List Contribution) : (s.putContribs st l).clock = s.clock := rfl
@[simp] theorem State.putContribs_power (s : State) (st : Nat) (l : List Contribution) : (s.putContribs st l).power = s.power := rfl
@[simp] theorem State.putContribs_pins (s : State) (st : Nat) (l : List Contribution) : (s.putContribs st l).pins = s.pins := rfl
@[simp] theorem State.putContribs_boot (s : State) (st : Nat) (l : List Contribution) : (s.putContribs st l).boot = s.boot := rfl
@[simp] theorem State.putContribs_mgmt (s : State) (st : Nat) (l : List Contribution) : (s.putContribs st l).mgmt = s.mgmt := rfl
@[simp] theorem State.putContribs_cask (s : State) (st : Nat) (l : List Contribution) : (s.putContribs st l).cask = s.cask := rfl
@[simp] theorem State.putContribs_health (s : State) (st : Nat) (l : List Contribution) : (s.putContribs st l).health = s.health := rfl
@[simp] theorem State.putContribs_conv (s : State) (st : Nat) (l : List Contribution) : (s.putContribs st l).conv = s.conv := rfl
@[simp] theorem State.putContribs_verdict (s : State) (st : Nat) (l : List Contribution) : (s.putContribs st l).verdict = s.verdict := rfl
@[simp] theorem State.putContribs_cores (s : State) (st : Nat) (l : List Contribution) : (s.putContribs st l).cores = s.cores := rfl
@[simp] theorem State.putContribs_clusters (s : State) (st : Nat) (l : List Contribution) : (s.putContribs st l).clusters = s.clusters := rfl
@[simp] theorem State.putContribs_groups (s : State) (st : Nat) (l : List Contribution) : (s.putContribs st l).groups = s.groups := rfl
@[simp] theorem State.putContribs_mem (s : State) (st : Nat) (l : List Contribution) : (s.putContribs st l).mem = s.mem := rfl
@[simp] theorem State.putContribs_kilns (s : State) (st : Nat) (l : List Contribution) : (s.putContribs st l).kilns = s.kilns := rfl
@[simp] theorem State.putContribs_steps (s : State) (st : Nat) (l : List Contribution) : (s.putContribs st l).steps = s.steps := rfl
@[simp] theorem State.putContribs_fab (s : State) (st : Nat) (l : List Contribution) : (s.putContribs st l).fab = s.fab := rfl
@[simp] theorem State.putContribs_host (s : State) (st : Nat) (l : List Contribution) : (s.putContribs st l).host = s.host := rfl
@[simp] theorem State.putContribs_wort_contrib (s : State) (st : Nat) (l : List Contribution) : (s.putContribs st l).wort.contrib = s.wort.contrib.set [] st l := rfl

/-! ### State.putPchan -/

@[simp] theorem State.putPchan_pending (s : State) (p : Nat) (x : Pchan) : (s.putPchan p x).pending = s.pending := rfl
@[simp] theorem State.putPchan_free (s : State) (p : Nat) (x : Pchan) : (s.putPchan p x).free = s.free := rfl
@[simp] theorem State.putPchan_arb (s : State) (p : Nat) (x : Pchan) : (s.putPchan p x).arb = s.arb := rfl
@[simp] theorem State.putPchan_clock (s : State) (p : Nat) (x : Pchan) : (s.putPchan p x).clock = s.clock := rfl
@[simp] theorem State.putPchan_power (s : State) (p : Nat) (x : Pchan) : (s.putPchan p x).power = s.power := rfl
@[simp] theorem State.putPchan_pins (s : State) (p : Nat) (x : Pchan) : (s.putPchan p x).pins = s.pins := rfl
@[simp] theorem State.putPchan_boot (s : State) (p : Nat) (x : Pchan) : (s.putPchan p x).boot = s.boot := rfl
@[simp] theorem State.putPchan_mgmt (s : State) (p : Nat) (x : Pchan) : (s.putPchan p x).mgmt = s.mgmt := rfl
@[simp] theorem State.putPchan_cask (s : State) (p : Nat) (x : Pchan) : (s.putPchan p x).cask = s.cask := rfl
@[simp] theorem State.putPchan_health (s : State) (p : Nat) (x : Pchan) : (s.putPchan p x).health = s.health := rfl
@[simp] theorem State.putPchan_conv (s : State) (p : Nat) (x : Pchan) : (s.putPchan p x).conv = s.conv := rfl
@[simp] theorem State.putPchan_wort (s : State) (p : Nat) (x : Pchan) : (s.putPchan p x).wort = s.wort := rfl
@[simp] theorem State.putPchan_verdict (s : State) (p : Nat) (x : Pchan) : (s.putPchan p x).verdict = s.verdict := rfl
@[simp] theorem State.putPchan_cores (s : State) (p : Nat) (x : Pchan) : (s.putPchan p x).cores = s.cores := rfl
@[simp] theorem State.putPchan_clusters (s : State) (p : Nat) (x : Pchan) : (s.putPchan p x).clusters = s.clusters := rfl
@[simp] theorem State.putPchan_groups (s : State) (p : Nat) (x : Pchan) : (s.putPchan p x).groups = s.groups := rfl
@[simp] theorem State.putPchan_kilns (s : State) (p : Nat) (x : Pchan) : (s.putPchan p x).kilns = s.kilns := rfl
@[simp] theorem State.putPchan_steps (s : State) (p : Nat) (x : Pchan) : (s.putPchan p x).steps = s.steps := rfl
@[simp] theorem State.putPchan_fab (s : State) (p : Nat) (x : Pchan) : (s.putPchan p x).fab = s.fab := rfl
@[simp] theorem State.putPchan_host (s : State) (p : Nat) (x : Pchan) : (s.putPchan p x).host = s.host := rfl
@[simp] theorem State.putPchan_mem_pchan (s : State) (p : Nat) (x : Pchan) : (s.putPchan p x).mem.pchan = s.mem.pchan.set {} p x := rfl

/-! ### State.putLp -/

@[simp] theorem State.putLp_pending (s : State) (q : Nat) (x : LpPackage) : (s.putLp q x).pending = s.pending := rfl
@[simp] theorem State.putLp_free (s : State) (q : Nat) (x : LpPackage) : (s.putLp q x).free = s.free := rfl
@[simp] theorem State.putLp_arb (s : State) (q : Nat) (x : LpPackage) : (s.putLp q x).arb = s.arb := rfl
@[simp] theorem State.putLp_clock (s : State) (q : Nat) (x : LpPackage) : (s.putLp q x).clock = s.clock := rfl
@[simp] theorem State.putLp_power (s : State) (q : Nat) (x : LpPackage) : (s.putLp q x).power = s.power := rfl
@[simp] theorem State.putLp_pins (s : State) (q : Nat) (x : LpPackage) : (s.putLp q x).pins = s.pins := rfl
@[simp] theorem State.putLp_boot (s : State) (q : Nat) (x : LpPackage) : (s.putLp q x).boot = s.boot := rfl
@[simp] theorem State.putLp_mgmt (s : State) (q : Nat) (x : LpPackage) : (s.putLp q x).mgmt = s.mgmt := rfl
@[simp] theorem State.putLp_cask (s : State) (q : Nat) (x : LpPackage) : (s.putLp q x).cask = s.cask := rfl
@[simp] theorem State.putLp_health (s : State) (q : Nat) (x : LpPackage) : (s.putLp q x).health = s.health := rfl
@[simp] theorem State.putLp_conv (s : State) (q : Nat) (x : LpPackage) : (s.putLp q x).conv = s.conv := rfl
@[simp] theorem State.putLp_wort (s : State) (q : Nat) (x : LpPackage) : (s.putLp q x).wort = s.wort := rfl
@[simp] theorem State.putLp_verdict (s : State) (q : Nat) (x : LpPackage) : (s.putLp q x).verdict = s.verdict := rfl
@[simp] theorem State.putLp_cores (s : State) (q : Nat) (x : LpPackage) : (s.putLp q x).cores = s.cores := rfl
@[simp] theorem State.putLp_clusters (s : State) (q : Nat) (x : LpPackage) : (s.putLp q x).clusters = s.clusters := rfl
@[simp] theorem State.putLp_groups (s : State) (q : Nat) (x : LpPackage) : (s.putLp q x).groups = s.groups := rfl
@[simp] theorem State.putLp_kilns (s : State) (q : Nat) (x : LpPackage) : (s.putLp q x).kilns = s.kilns := rfl
@[simp] theorem State.putLp_steps (s : State) (q : Nat) (x : LpPackage) : (s.putLp q x).steps = s.steps := rfl
@[simp] theorem State.putLp_fab (s : State) (q : Nat) (x : LpPackage) : (s.putLp q x).fab = s.fab := rfl
@[simp] theorem State.putLp_host (s : State) (q : Nat) (x : LpPackage) : (s.putLp q x).host = s.host := rfl
@[simp] theorem State.putLp_mem_lp (s : State) (q : Nat) (x : LpPackage) : (s.putLp q x).mem.lp = s.mem.lp.set {} q x := rfl

/-! ### State.setPersistent -/

@[simp] theorem State.setPersistent_pending (s : State) (o i v : Nat) : (s.setPersistent o i v).pending = s.pending := rfl
@[simp] theorem State.setPersistent_free (s : State) (o i v : Nat) : (s.setPersistent o i v).free = s.free := rfl
@[simp] theorem State.setPersistent_arb (s : State) (o i v : Nat) : (s.setPersistent o i v).arb = s.arb := rfl
@[simp] theorem State.setPersistent_clock (s : State) (o i v : Nat) : (s.setPersistent o i v).clock = s.clock := rfl
@[simp] theorem State.setPersistent_power (s : State) (o i v : Nat) : (s.setPersistent o i v).power = s.power := rfl
@[simp] theorem State.setPersistent_pins (s : State) (o i v : Nat) : (s.setPersistent o i v).pins = s.pins := rfl
@[simp] theorem State.setPersistent_boot (s : State) (o i v : Nat) : (s.setPersistent o i v).boot = s.boot := rfl
@[simp] theorem State.setPersistent_cask (s : State) (o i v : Nat) : (s.setPersistent o i v).cask = s.cask := rfl
@[simp] theorem State.setPersistent_health (s : State) (o i v : Nat) : (s.setPersistent o i v).health = s.health := rfl
@[simp] theorem State.setPersistent_conv (s : State) (o i v : Nat) : (s.setPersistent o i v).conv = s.conv := rfl
@[simp] theorem State.setPersistent_wort (s : State) (o i v : Nat) : (s.setPersistent o i v).wort = s.wort := rfl
@[simp] theorem State.setPersistent_verdict (s : State) (o i v : Nat) : (s.setPersistent o i v).verdict = s.verdict := rfl
@[simp] theorem State.setPersistent_cores (s : State) (o i v : Nat) : (s.setPersistent o i v).cores = s.cores := rfl
@[simp] theorem State.setPersistent_clusters (s : State) (o i v : Nat) : (s.setPersistent o i v).clusters = s.clusters := rfl
@[simp] theorem State.setPersistent_groups (s : State) (o i v : Nat) : (s.setPersistent o i v).groups = s.groups := rfl
@[simp] theorem State.setPersistent_mem (s : State) (o i v : Nat) : (s.setPersistent o i v).mem = s.mem := rfl
@[simp] theorem State.setPersistent_kilns (s : State) (o i v : Nat) : (s.setPersistent o i v).kilns = s.kilns := rfl
@[simp] theorem State.setPersistent_steps (s : State) (o i v : Nat) : (s.setPersistent o i v).steps = s.steps := rfl
@[simp] theorem State.setPersistent_fab (s : State) (o i v : Nat) : (s.setPersistent o i v).fab = s.fab := rfl
@[simp] theorem State.setPersistent_host (s : State) (o i v : Nat) : (s.setPersistent o i v).host = s.host := rfl

/-! ### State.setKept -/

@[simp] theorem State.setKept_pending (s : State) (o i v : Nat) : (s.setKept o i v).pending = s.pending := rfl
@[simp] theorem State.setKept_free (s : State) (o i v : Nat) : (s.setKept o i v).free = s.free := rfl
@[simp] theorem State.setKept_arb (s : State) (o i v : Nat) : (s.setKept o i v).arb = s.arb := rfl
@[simp] theorem State.setKept_clock (s : State) (o i v : Nat) : (s.setKept o i v).clock = s.clock := rfl
@[simp] theorem State.setKept_power (s : State) (o i v : Nat) : (s.setKept o i v).power = s.power := rfl
@[simp] theorem State.setKept_pins (s : State) (o i v : Nat) : (s.setKept o i v).pins = s.pins := rfl
@[simp] theorem State.setKept_boot (s : State) (o i v : Nat) : (s.setKept o i v).boot = s.boot := rfl
@[simp] theorem State.setKept_cask (s : State) (o i v : Nat) : (s.setKept o i v).cask = s.cask := rfl
@[simp] theorem State.setKept_health (s : State) (o i v : Nat) : (s.setKept o i v).health = s.health := rfl
@[simp] theorem State.setKept_conv (s : State) (o i v : Nat) : (s.setKept o i v).conv = s.conv := rfl
@[simp] theorem State.setKept_wort (s : State) (o i v : Nat) : (s.setKept o i v).wort = s.wort := rfl
@[simp] theorem State.setKept_verdict (s : State) (o i v : Nat) : (s.setKept o i v).verdict = s.verdict := rfl
@[simp] theorem State.setKept_cores (s : State) (o i v : Nat) : (s.setKept o i v).cores = s.cores := rfl
@[simp] theorem State.setKept_clusters (s : State) (o i v : Nat) : (s.setKept o i v).clusters = s.clusters := rfl
@[simp] theorem State.setKept_groups (s : State) (o i v : Nat) : (s.setKept o i v).groups = s.groups := rfl
@[simp] theorem State.setKept_mem (s : State) (o i v : Nat) : (s.setKept o i v).mem = s.mem := rfl
@[simp] theorem State.setKept_kilns (s : State) (o i v : Nat) : (s.setKept o i v).kilns = s.kilns := rfl
@[simp] theorem State.setKept_steps (s : State) (o i v : Nat) : (s.setKept o i v).steps = s.steps := rfl
@[simp] theorem State.setKept_fab (s : State) (o i v : Nat) : (s.setKept o i v).fab = s.fab := rfl
@[simp] theorem State.setKept_host (s : State) (o i v : Nat) : (s.setKept o i v).host = s.host := rfl

/-! ### State.clearStaging -/

@[simp] theorem State.clearStaging_pending (s : State) (m : NalMsg) : (s.clearStaging m).pending = s.pending := rfl
@[simp] theorem State.clearStaging_free (s : State) (m : NalMsg) : (s.clearStaging m).free = s.free := rfl
@[simp] theorem State.clearStaging_arb (s : State) (m : NalMsg) : (s.clearStaging m).arb = s.arb := rfl
@[simp] theorem State.clearStaging_clock (s : State) (m : NalMsg) : (s.clearStaging m).clock = s.clock := rfl
@[simp] theorem State.clearStaging_power (s : State) (m : NalMsg) : (s.clearStaging m).power = s.power := rfl
@[simp] theorem State.clearStaging_pins (s : State) (m : NalMsg) : (s.clearStaging m).pins = s.pins := rfl
@[simp] theorem State.clearStaging_boot (s : State) (m : NalMsg) : (s.clearStaging m).boot = s.boot := rfl
@[simp] theorem State.clearStaging_cask (s : State) (m : NalMsg) : (s.clearStaging m).cask = s.cask := rfl
@[simp] theorem State.clearStaging_health (s : State) (m : NalMsg) : (s.clearStaging m).health = s.health := rfl
@[simp] theorem State.clearStaging_conv (s : State) (m : NalMsg) : (s.clearStaging m).conv = s.conv := rfl
@[simp] theorem State.clearStaging_wort (s : State) (m : NalMsg) : (s.clearStaging m).wort = s.wort := rfl
@[simp] theorem State.clearStaging_verdict (s : State) (m : NalMsg) : (s.clearStaging m).verdict = s.verdict := rfl
@[simp] theorem State.clearStaging_cores (s : State) (m : NalMsg) : (s.clearStaging m).cores = s.cores := rfl
@[simp] theorem State.clearStaging_clusters (s : State) (m : NalMsg) : (s.clearStaging m).clusters = s.clusters := rfl
@[simp] theorem State.clearStaging_groups (s : State) (m : NalMsg) : (s.clearStaging m).groups = s.groups := rfl
@[simp] theorem State.clearStaging_mem (s : State) (m : NalMsg) : (s.clearStaging m).mem = s.mem := rfl
@[simp] theorem State.clearStaging_kilns (s : State) (m : NalMsg) : (s.clearStaging m).kilns = s.kilns := rfl
@[simp] theorem State.clearStaging_steps (s : State) (m : NalMsg) : (s.clearStaging m).steps = s.steps := rfl
@[simp] theorem State.clearStaging_fab (s : State) (m : NalMsg) : (s.clearStaging m).fab = s.fab := rfl
@[simp] theorem State.clearStaging_host (s : State) (m : NalMsg) : (s.clearStaging m).host = s.host := rfl
@[simp] theorem State.clearStaging_mgmt_staging (s : State) (m : NalMsg) : (s.clearStaging m).mgmt.staging = s.mgmt.staging.erase m.src.toNat := rfl

/-! ### State.putKey -/

@[simp] theorem State.putKey_pending (s : State) (i : Nat) (k : KeySlot) : (s.putKey i k).pending = s.pending := rfl
@[simp] theorem State.putKey_free (s : State) (i : Nat) (k : KeySlot) : (s.putKey i k).free = s.free := rfl
@[simp] theorem State.putKey_arb (s : State) (i : Nat) (k : KeySlot) : (s.putKey i k).arb = s.arb := rfl
@[simp] theorem State.putKey_clock (s : State) (i : Nat) (k : KeySlot) : (s.putKey i k).clock = s.clock := rfl
@[simp] theorem State.putKey_power (s : State) (i : Nat) (k : KeySlot) : (s.putKey i k).power = s.power := rfl
@[simp] theorem State.putKey_pins (s : State) (i : Nat) (k : KeySlot) : (s.putKey i k).pins = s.pins := rfl
@[simp] theorem State.putKey_boot (s : State) (i : Nat) (k : KeySlot) : (s.putKey i k).boot = s.boot := rfl
@[simp] theorem State.putKey_cask (s : State) (i : Nat) (k : KeySlot) : (s.putKey i k).cask = s.cask := rfl
@[simp] theorem State.putKey_health (s : State) (i : Nat) (k : KeySlot) : (s.putKey i k).health = s.health := rfl
@[simp] theorem State.putKey_conv (s : State) (i : Nat) (k : KeySlot) : (s.putKey i k).conv = s.conv := rfl
@[simp] theorem State.putKey_wort (s : State) (i : Nat) (k : KeySlot) : (s.putKey i k).wort = s.wort := rfl
@[simp] theorem State.putKey_verdict (s : State) (i : Nat) (k : KeySlot) : (s.putKey i k).verdict = s.verdict := rfl
@[simp] theorem State.putKey_cores (s : State) (i : Nat) (k : KeySlot) : (s.putKey i k).cores = s.cores := rfl
@[simp] theorem State.putKey_clusters (s : State) (i : Nat) (k : KeySlot) : (s.putKey i k).clusters = s.clusters := rfl
@[simp] theorem State.putKey_groups (s : State) (i : Nat) (k : KeySlot) : (s.putKey i k).groups = s.groups := rfl
@[simp] theorem State.putKey_mem (s : State) (i : Nat) (k : KeySlot) : (s.putKey i k).mem = s.mem := rfl
@[simp] theorem State.putKey_kilns (s : State) (i : Nat) (k : KeySlot) : (s.putKey i k).kilns = s.kilns := rfl
@[simp] theorem State.putKey_steps (s : State) (i : Nat) (k : KeySlot) : (s.putKey i k).steps = s.steps := rfl
@[simp] theorem State.putKey_fab (s : State) (i : Nat) (k : KeySlot) : (s.putKey i k).fab = s.fab := rfl
@[simp] theorem State.putKey_host (s : State) (i : Nat) (k : KeySlot) : (s.putKey i k).host = s.host := rfl
@[simp] theorem State.putKey_mgmt_keys (s : State) (i : Nat) (k : KeySlot) : (s.putKey i k).mgmt.keys = s.mgmt.keys.set {} i k := rfl
@[simp] theorem State.putKey_mgmt_keyStore (s : State) (i : Nat) (k : KeySlot) : (s.putKey i k).mgmt.keyStore = s.mgmt.keyStore.set {} i k := rfl

/-! ### State.putCable -/

@[simp] theorem State.putCable_pending (s : State) (c : Conn) (x : Cable) : (s.putCable c x).pending = s.pending := rfl
@[simp] theorem State.putCable_free (s : State) (c : Conn) (x : Cable) : (s.putCable c x).free = s.free := rfl
@[simp] theorem State.putCable_arb (s : State) (c : Conn) (x : Cable) : (s.putCable c x).arb = s.arb := rfl
@[simp] theorem State.putCable_clock (s : State) (c : Conn) (x : Cable) : (s.putCable c x).clock = s.clock := rfl
@[simp] theorem State.putCable_power (s : State) (c : Conn) (x : Cable) : (s.putCable c x).power = s.power := rfl
@[simp] theorem State.putCable_boot (s : State) (c : Conn) (x : Cable) : (s.putCable c x).boot = s.boot := rfl
@[simp] theorem State.putCable_mgmt (s : State) (c : Conn) (x : Cable) : (s.putCable c x).mgmt = s.mgmt := rfl
@[simp] theorem State.putCable_cask (s : State) (c : Conn) (x : Cable) : (s.putCable c x).cask = s.cask := rfl
@[simp] theorem State.putCable_health (s : State) (c : Conn) (x : Cable) : (s.putCable c x).health = s.health := rfl
@[simp] theorem State.putCable_conv (s : State) (c : Conn) (x : Cable) : (s.putCable c x).conv = s.conv := rfl
@[simp] theorem State.putCable_wort (s : State) (c : Conn) (x : Cable) : (s.putCable c x).wort = s.wort := rfl
@[simp] theorem State.putCable_verdict (s : State) (c : Conn) (x : Cable) : (s.putCable c x).verdict = s.verdict := rfl
@[simp] theorem State.putCable_cores (s : State) (c : Conn) (x : Cable) : (s.putCable c x).cores = s.cores := rfl
@[simp] theorem State.putCable_clusters (s : State) (c : Conn) (x : Cable) : (s.putCable c x).clusters = s.clusters := rfl
@[simp] theorem State.putCable_groups (s : State) (c : Conn) (x : Cable) : (s.putCable c x).groups = s.groups := rfl
@[simp] theorem State.putCable_mem (s : State) (c : Conn) (x : Cable) : (s.putCable c x).mem = s.mem := rfl
@[simp] theorem State.putCable_kilns (s : State) (c : Conn) (x : Cable) : (s.putCable c x).kilns = s.kilns := rfl
@[simp] theorem State.putCable_steps (s : State) (c : Conn) (x : Cable) : (s.putCable c x).steps = s.steps := rfl
@[simp] theorem State.putCable_fab (s : State) (c : Conn) (x : Cable) : (s.putCable c x).fab = s.fab := rfl
@[simp] theorem State.putCable_host (s : State) (c : Conn) (x : Cable) : (s.putCable c x).host = s.host := rfl
@[simp] theorem State.putCable_pins_cables (s : State) (c : Conn) (x : Cable) : (s.putCable c x).pins.cables = s.pins.cables.set {} (connKey c) x := rfl

/-! ### State.putTally -/

@[simp] theorem State.putTally_pending (s : State) (n : Nat) (x : Slot) (c : Nat) : (s.putTally n x c).pending = s.pending := rfl
@[simp] theorem State.putTally_free (s : State) (n : Nat) (x : Slot) (c : Nat) : (s.putTally n x c).free = s.free := rfl
@[simp] theorem State.putTally_arb (s : State) (n : Nat) (x : Slot) (c : Nat) : (s.putTally n x c).arb = s.arb := rfl
@[simp] theorem State.putTally_clock (s : State) (n : Nat) (x : Slot) (c : Nat) : (s.putTally n x c).clock = s.clock := rfl
@[simp] theorem State.putTally_power (s : State) (n : Nat) (x : Slot) (c : Nat) : (s.putTally n x c).power = s.power := rfl
@[simp] theorem State.putTally_pins (s : State) (n : Nat) (x : Slot) (c : Nat) : (s.putTally n x c).pins = s.pins := rfl
@[simp] theorem State.putTally_boot (s : State) (n : Nat) (x : Slot) (c : Nat) : (s.putTally n x c).boot = s.boot := rfl
@[simp] theorem State.putTally_mgmt (s : State) (n : Nat) (x : Slot) (c : Nat) : (s.putTally n x c).mgmt = s.mgmt := rfl
@[simp] theorem State.putTally_cask (s : State) (n : Nat) (x : Slot) (c : Nat) : (s.putTally n x c).cask = s.cask := rfl
@[simp] theorem State.putTally_health (s : State) (n : Nat) (x : Slot) (c : Nat) : (s.putTally n x c).health = s.health := rfl
@[simp] theorem State.putTally_conv (s : State) (n : Nat) (x : Slot) (c : Nat) : (s.putTally n x c).conv = s.conv := rfl
@[simp] theorem State.putTally_verdict (s : State) (n : Nat) (x : Slot) (c : Nat) : (s.putTally n x c).verdict = s.verdict := rfl
@[simp] theorem State.putTally_cores (s : State) (n : Nat) (x : Slot) (c : Nat) : (s.putTally n x c).cores = s.cores := rfl
@[simp] theorem State.putTally_clusters (s : State) (n : Nat) (x : Slot) (c : Nat) : (s.putTally n x c).clusters = s.clusters := rfl
@[simp] theorem State.putTally_groups (s : State) (n : Nat) (x : Slot) (c : Nat) : (s.putTally n x c).groups = s.groups := rfl
@[simp] theorem State.putTally_mem (s : State) (n : Nat) (x : Slot) (c : Nat) : (s.putTally n x c).mem = s.mem := rfl
@[simp] theorem State.putTally_kilns (s : State) (n : Nat) (x : Slot) (c : Nat) : (s.putTally n x c).kilns = s.kilns := rfl
@[simp] theorem State.putTally_steps (s : State) (n : Nat) (x : Slot) (c : Nat) : (s.putTally n x c).steps = s.steps := rfl
@[simp] theorem State.putTally_fab (s : State) (n : Nat) (x : Slot) (c : Nat) : (s.putTally n x c).fab = s.fab := rfl
@[simp] theorem State.putTally_host (s : State) (n : Nat) (x : Slot) (c : Nat) : (s.putTally n x c).host = s.host := rfl
@[simp] theorem State.putTally_wort_tally (s : State) (n : Nat) (x : Slot) (c : Nat) : (s.putTally n x c).wort.tally = s.wort.tally.set {} n { tile := x.tileId, gen := x.gen, count := c } := rfl

/-! ### State.unpark -/

@[simp] theorem State.unpark_pending (s : State) (k n : Nat) : (s.unpark k n).pending = s.pending := rfl
@[simp] theorem State.unpark_free (s : State) (k n : Nat) : (s.unpark k n).free = s.free := rfl
@[simp] theorem State.unpark_arb (s : State) (k n : Nat) : (s.unpark k n).arb = s.arb := rfl
@[simp] theorem State.unpark_clock (s : State) (k n : Nat) : (s.unpark k n).clock = s.clock := rfl
@[simp] theorem State.unpark_power (s : State) (k n : Nat) : (s.unpark k n).power = s.power := rfl
@[simp] theorem State.unpark_pins (s : State) (k n : Nat) : (s.unpark k n).pins = s.pins := rfl
@[simp] theorem State.unpark_boot (s : State) (k n : Nat) : (s.unpark k n).boot = s.boot := rfl
@[simp] theorem State.unpark_mgmt (s : State) (k n : Nat) : (s.unpark k n).mgmt = s.mgmt := rfl
@[simp] theorem State.unpark_cask (s : State) (k n : Nat) : (s.unpark k n).cask = s.cask := rfl
@[simp] theorem State.unpark_health (s : State) (k n : Nat) : (s.unpark k n).health = s.health := rfl
@[simp] theorem State.unpark_conv (s : State) (k n : Nat) : (s.unpark k n).conv = s.conv := rfl
@[simp] theorem State.unpark_verdict (s : State) (k n : Nat) : (s.unpark k n).verdict = s.verdict := rfl
@[simp] theorem State.unpark_cores (s : State) (k n : Nat) : (s.unpark k n).cores = s.cores := rfl
@[simp] theorem State.unpark_clusters (s : State) (k n : Nat) : (s.unpark k n).clusters = s.clusters := rfl
@[simp] theorem State.unpark_groups (s : State) (k n : Nat) : (s.unpark k n).groups = s.groups := rfl
@[simp] theorem State.unpark_mem (s : State) (k n : Nat) : (s.unpark k n).mem = s.mem := rfl
@[simp] theorem State.unpark_kilns (s : State) (k n : Nat) : (s.unpark k n).kilns = s.kilns := rfl
@[simp] theorem State.unpark_steps (s : State) (k n : Nat) : (s.unpark k n).steps = s.steps := rfl
@[simp] theorem State.unpark_fab (s : State) (k n : Nat) : (s.unpark k n).fab = s.fab := rfl
@[simp] theorem State.unpark_host (s : State) (k n : Nat) : (s.unpark k n).host = s.host := rfl
@[simp] theorem State.unpark_wort_parked (s : State) (k n : Nat) : (s.unpark k n).wort.parked = s.wort.parked.set [] k ((s.parkedSlots k).filter (fun y => y.n != n)) := rfl

/-! ### State.putLines -/

@[simp] theorem State.putLines_pending (s : State) (k : Nat) (l : List SliceLine) : (s.putLines k l).pending = s.pending := rfl
@[simp] theorem State.putLines_free (s : State) (k : Nat) (l : List SliceLine) : (s.putLines k l).free = s.free := rfl
@[simp] theorem State.putLines_arb (s : State) (k : Nat) (l : List SliceLine) : (s.putLines k l).arb = s.arb := rfl
@[simp] theorem State.putLines_clock (s : State) (k : Nat) (l : List SliceLine) : (s.putLines k l).clock = s.clock := rfl
@[simp] theorem State.putLines_power (s : State) (k : Nat) (l : List SliceLine) : (s.putLines k l).power = s.power := rfl
@[simp] theorem State.putLines_pins (s : State) (k : Nat) (l : List SliceLine) : (s.putLines k l).pins = s.pins := rfl
@[simp] theorem State.putLines_boot (s : State) (k : Nat) (l : List SliceLine) : (s.putLines k l).boot = s.boot := rfl
@[simp] theorem State.putLines_mgmt (s : State) (k : Nat) (l : List SliceLine) : (s.putLines k l).mgmt = s.mgmt := rfl
@[simp] theorem State.putLines_cask (s : State) (k : Nat) (l : List SliceLine) : (s.putLines k l).cask = s.cask := rfl
@[simp] theorem State.putLines_health (s : State) (k : Nat) (l : List SliceLine) : (s.putLines k l).health = s.health := rfl
@[simp] theorem State.putLines_conv (s : State) (k : Nat) (l : List SliceLine) : (s.putLines k l).conv = s.conv := rfl
@[simp] theorem State.putLines_wort (s : State) (k : Nat) (l : List SliceLine) : (s.putLines k l).wort = s.wort := rfl
@[simp] theorem State.putLines_verdict (s : State) (k : Nat) (l : List SliceLine) : (s.putLines k l).verdict = s.verdict := rfl
@[simp] theorem State.putLines_cores (s : State) (k : Nat) (l : List SliceLine) : (s.putLines k l).cores = s.cores := rfl
@[simp] theorem State.putLines_clusters (s : State) (k : Nat) (l : List SliceLine) : (s.putLines k l).clusters = s.clusters := rfl
@[simp] theorem State.putLines_groups (s : State) (k : Nat) (l : List SliceLine) : (s.putLines k l).groups = s.groups := rfl
@[simp] theorem State.putLines_kilns (s : State) (k : Nat) (l : List SliceLine) : (s.putLines k l).kilns = s.kilns := rfl
@[simp] theorem State.putLines_steps (s : State) (k : Nat) (l : List SliceLine) : (s.putLines k l).steps = s.steps := rfl
@[simp] theorem State.putLines_fab (s : State) (k : Nat) (l : List SliceLine) : (s.putLines k l).fab = s.fab := rfl
@[simp] theorem State.putLines_host (s : State) (k : Nat) (l : List SliceLine) : (s.putLines k l).host = s.host := rfl
@[simp] theorem State.putLines_mem_slices (s : State) (k : Nat) (l : List SliceLine) : (s.putLines k l).mem.slices = s.mem.slices.set [] k l := rfl

/-! ### State.clearWhole -/

@[simp] theorem State.clearWhole_pending (s : State) (l : List Nat) : (s.clearWhole l).pending = s.pending := rfl
@[simp] theorem State.clearWhole_free (s : State) (l : List Nat) : (s.clearWhole l).free = s.free := rfl
@[simp] theorem State.clearWhole_arb (s : State) (l : List Nat) : (s.clearWhole l).arb = s.arb := rfl
@[simp] theorem State.clearWhole_clock (s : State) (l : List Nat) : (s.clearWhole l).clock = s.clock := rfl
@[simp] theorem State.clearWhole_power (s : State) (l : List Nat) : (s.clearWhole l).power = s.power := rfl
@[simp] theorem State.clearWhole_pins (s : State) (l : List Nat) : (s.clearWhole l).pins = s.pins := rfl
@[simp] theorem State.clearWhole_boot (s : State) (l : List Nat) : (s.clearWhole l).boot = s.boot := rfl
@[simp] theorem State.clearWhole_mgmt (s : State) (l : List Nat) : (s.clearWhole l).mgmt = s.mgmt := rfl
@[simp] theorem State.clearWhole_cask (s : State) (l : List Nat) : (s.clearWhole l).cask = s.cask := rfl
@[simp] theorem State.clearWhole_health (s : State) (l : List Nat) : (s.clearWhole l).health = s.health := rfl
@[simp] theorem State.clearWhole_conv (s : State) (l : List Nat) : (s.clearWhole l).conv = s.conv := rfl
@[simp] theorem State.clearWhole_wort (s : State) (l : List Nat) : (s.clearWhole l).wort = s.wort := rfl
@[simp] theorem State.clearWhole_verdict (s : State) (l : List Nat) : (s.clearWhole l).verdict = s.verdict := rfl
@[simp] theorem State.clearWhole_cores (s : State) (l : List Nat) : (s.clearWhole l).cores = s.cores := rfl
@[simp] theorem State.clearWhole_clusters (s : State) (l : List Nat) : (s.clearWhole l).clusters = s.clusters := rfl
@[simp] theorem State.clearWhole_groups (s : State) (l : List Nat) : (s.clearWhole l).groups = s.groups := rfl
@[simp] theorem State.clearWhole_kilns (s : State) (l : List Nat) : (s.clearWhole l).kilns = s.kilns := rfl
@[simp] theorem State.clearWhole_steps (s : State) (l : List Nat) : (s.clearWhole l).steps = s.steps := rfl
@[simp] theorem State.clearWhole_fab (s : State) (l : List Nat) : (s.clearWhole l).fab = s.fab := rfl
@[simp] theorem State.clearWhole_host (s : State) (l : List Nat) : (s.clearWhole l).host = s.host := rfl
@[simp] theorem State.clearWhole_mem_poison (s : State) (l : List Nat) : (s.clearWhole l).mem.poison = s.mem.poison.filter (fun x => !l.contains x) := rfl

/-! ### State.dropMiss -/

@[simp] theorem State.dropMiss_pending (s : State) (cl : Nat) (e : MissEntry) : (s.dropMiss cl e).pending = s.pending := rfl
@[simp] theorem State.dropMiss_free (s : State) (cl : Nat) (e : MissEntry) : (s.dropMiss cl e).free = s.free := rfl
@[simp] theorem State.dropMiss_arb (s : State) (cl : Nat) (e : MissEntry) : (s.dropMiss cl e).arb = s.arb := rfl
@[simp] theorem State.dropMiss_clock (s : State) (cl : Nat) (e : MissEntry) : (s.dropMiss cl e).clock = s.clock := rfl
@[simp] theorem State.dropMiss_power (s : State) (cl : Nat) (e : MissEntry) : (s.dropMiss cl e).power = s.power := rfl
@[simp] theorem State.dropMiss_pins (s : State) (cl : Nat) (e : MissEntry) : (s.dropMiss cl e).pins = s.pins := rfl
@[simp] theorem State.dropMiss_boot (s : State) (cl : Nat) (e : MissEntry) : (s.dropMiss cl e).boot = s.boot := rfl
@[simp] theorem State.dropMiss_mgmt (s : State) (cl : Nat) (e : MissEntry) : (s.dropMiss cl e).mgmt = s.mgmt := rfl
@[simp] theorem State.dropMiss_cask (s : State) (cl : Nat) (e : MissEntry) : (s.dropMiss cl e).cask = s.cask := rfl
@[simp] theorem State.dropMiss_health (s : State) (cl : Nat) (e : MissEntry) : (s.dropMiss cl e).health = s.health := rfl
@[simp] theorem State.dropMiss_conv (s : State) (cl : Nat) (e : MissEntry) : (s.dropMiss cl e).conv = s.conv := rfl
@[simp] theorem State.dropMiss_wort (s : State) (cl : Nat) (e : MissEntry) : (s.dropMiss cl e).wort = s.wort := rfl
@[simp] theorem State.dropMiss_verdict (s : State) (cl : Nat) (e : MissEntry) : (s.dropMiss cl e).verdict = s.verdict := rfl
@[simp] theorem State.dropMiss_cores (s : State) (cl : Nat) (e : MissEntry) : (s.dropMiss cl e).cores = s.cores := rfl
@[simp] theorem State.dropMiss_groups (s : State) (cl : Nat) (e : MissEntry) : (s.dropMiss cl e).groups = s.groups := rfl
@[simp] theorem State.dropMiss_mem (s : State) (cl : Nat) (e : MissEntry) : (s.dropMiss cl e).mem = s.mem := rfl
@[simp] theorem State.dropMiss_kilns (s : State) (cl : Nat) (e : MissEntry) : (s.dropMiss cl e).kilns = s.kilns := rfl
@[simp] theorem State.dropMiss_steps (s : State) (cl : Nat) (e : MissEntry) : (s.dropMiss cl e).steps = s.steps := rfl
@[simp] theorem State.dropMiss_fab (s : State) (cl : Nat) (e : MissEntry) : (s.dropMiss cl e).fab = s.fab := rfl
@[simp] theorem State.dropMiss_host (s : State) (cl : Nat) (e : MissEntry) : (s.dropMiss cl e).host = s.host := rfl

/-! ### State.landed -/

@[simp] theorem State.landed_pending (s : State) (p : Packet) : (s.landed p).pending = s.pending := rfl
@[simp] theorem State.landed_free (s : State) (p : Packet) : (s.landed p).free = s.free := rfl
@[simp] theorem State.landed_arb (s : State) (p : Packet) : (s.landed p).arb = s.arb := rfl
@[simp] theorem State.landed_clock (s : State) (p : Packet) : (s.landed p).clock = s.clock := rfl
@[simp] theorem State.landed_power (s : State) (p : Packet) : (s.landed p).power = s.power := rfl
@[simp] theorem State.landed_pins (s : State) (p : Packet) : (s.landed p).pins = s.pins := rfl
@[simp] theorem State.landed_boot (s : State) (p : Packet) : (s.landed p).boot = s.boot := rfl
@[simp] theorem State.landed_mgmt (s : State) (p : Packet) : (s.landed p).mgmt = s.mgmt := rfl
@[simp] theorem State.landed_cask (s : State) (p : Packet) : (s.landed p).cask = s.cask := rfl
@[simp] theorem State.landed_health (s : State) (p : Packet) : (s.landed p).health = s.health := rfl
@[simp] theorem State.landed_conv (s : State) (p : Packet) : (s.landed p).conv = s.conv := rfl
@[simp] theorem State.landed_wort (s : State) (p : Packet) : (s.landed p).wort = s.wort := rfl
@[simp] theorem State.landed_verdict (s : State) (p : Packet) : (s.landed p).verdict = s.verdict := rfl
@[simp] theorem State.landed_cores (s : State) (p : Packet) : (s.landed p).cores = s.cores := rfl
@[simp] theorem State.landed_clusters (s : State) (p : Packet) : (s.landed p).clusters = s.clusters := rfl
@[simp] theorem State.landed_groups (s : State) (p : Packet) : (s.landed p).groups = s.groups := rfl
@[simp] theorem State.landed_mem (s : State) (p : Packet) : (s.landed p).mem = s.mem := rfl
@[simp] theorem State.landed_kilns (s : State) (p : Packet) : (s.landed p).kilns = s.kilns := rfl
@[simp] theorem State.landed_steps (s : State) (p : Packet) : (s.landed p).steps = s.steps := rfl
@[simp] theorem State.landed_host (s : State) (p : Packet) : (s.landed p).host = s.host := rfl
@[simp] theorem State.landed_fab_sent (s : State) (p : Packet) : (s.landed p).fab.sent = s.fab.sent.erase p := rfl

/-! ### State.putStored -/

@[simp] theorem State.putStored_pending (s : State) (o i v : Nat) : (s.putStored o i v).pending = s.pending := rfl
@[simp] theorem State.putStored_free (s : State) (o i v : Nat) : (s.putStored o i v).free = s.free := rfl
@[simp] theorem State.putStored_arb (s : State) (o i v : Nat) : (s.putStored o i v).arb = s.arb := rfl
@[simp] theorem State.putStored_clock (s : State) (o i v : Nat) : (s.putStored o i v).clock = s.clock := rfl
@[simp] theorem State.putStored_power (s : State) (o i v : Nat) : (s.putStored o i v).power = s.power := rfl
@[simp] theorem State.putStored_pins (s : State) (o i v : Nat) : (s.putStored o i v).pins = s.pins := rfl
@[simp] theorem State.putStored_boot (s : State) (o i v : Nat) : (s.putStored o i v).boot = s.boot := rfl
@[simp] theorem State.putStored_cask (s : State) (o i v : Nat) : (s.putStored o i v).cask = s.cask := rfl
@[simp] theorem State.putStored_health (s : State) (o i v : Nat) : (s.putStored o i v).health = s.health := rfl
@[simp] theorem State.putStored_conv (s : State) (o i v : Nat) : (s.putStored o i v).conv = s.conv := rfl
@[simp] theorem State.putStored_wort (s : State) (o i v : Nat) : (s.putStored o i v).wort = s.wort := rfl
@[simp] theorem State.putStored_verdict (s : State) (o i v : Nat) : (s.putStored o i v).verdict = s.verdict := rfl
@[simp] theorem State.putStored_cores (s : State) (o i v : Nat) : (s.putStored o i v).cores = s.cores := rfl
@[simp] theorem State.putStored_clusters (s : State) (o i v : Nat) : (s.putStored o i v).clusters = s.clusters := rfl
@[simp] theorem State.putStored_groups (s : State) (o i v : Nat) : (s.putStored o i v).groups = s.groups := rfl
@[simp] theorem State.putStored_mem (s : State) (o i v : Nat) : (s.putStored o i v).mem = s.mem := rfl
@[simp] theorem State.putStored_kilns (s : State) (o i v : Nat) : (s.putStored o i v).kilns = s.kilns := rfl
@[simp] theorem State.putStored_steps (s : State) (o i v : Nat) : (s.putStored o i v).steps = s.steps := rfl
@[simp] theorem State.putStored_fab (s : State) (o i v : Nat) : (s.putStored o i v).fab = s.fab := rfl
@[simp] theorem State.putStored_host (s : State) (o i v : Nat) : (s.putStored o i v).host = s.host := rfl
@[simp] theorem State.putStored_mgmt_store (s : State) (o i v : Nat) : (s.putStored o i v).mgmt.store = s.mgmt.store.put (okey o i) v := rfl
@[simp] theorem State.putStored_mgmt_dict (s : State) (o i v : Nat) : (s.putStored o i v).mgmt.dict = s.mgmt.dict.set (objDefault o i) (okey o i) v := rfl

/-! ### State.sendFrame -/

@[simp] theorem State.sendFrame_pending (s : State) (dst : BitVec 48) (bs : Bytes) : (s.sendFrame dst bs).pending = s.pending := rfl
@[simp] theorem State.sendFrame_free (s : State) (dst : BitVec 48) (bs : Bytes) : (s.sendFrame dst bs).free = s.free := rfl
@[simp] theorem State.sendFrame_arb (s : State) (dst : BitVec 48) (bs : Bytes) : (s.sendFrame dst bs).arb = s.arb := rfl
@[simp] theorem State.sendFrame_clock (s : State) (dst : BitVec 48) (bs : Bytes) : (s.sendFrame dst bs).clock = s.clock := rfl
@[simp] theorem State.sendFrame_power (s : State) (dst : BitVec 48) (bs : Bytes) : (s.sendFrame dst bs).power = s.power := rfl
@[simp] theorem State.sendFrame_pins (s : State) (dst : BitVec 48) (bs : Bytes) : (s.sendFrame dst bs).pins = s.pins := rfl
@[simp] theorem State.sendFrame_boot (s : State) (dst : BitVec 48) (bs : Bytes) : (s.sendFrame dst bs).boot = s.boot := rfl
@[simp] theorem State.sendFrame_cask (s : State) (dst : BitVec 48) (bs : Bytes) : (s.sendFrame dst bs).cask = s.cask := rfl
@[simp] theorem State.sendFrame_health (s : State) (dst : BitVec 48) (bs : Bytes) : (s.sendFrame dst bs).health = s.health := rfl
@[simp] theorem State.sendFrame_conv (s : State) (dst : BitVec 48) (bs : Bytes) : (s.sendFrame dst bs).conv = s.conv := rfl
@[simp] theorem State.sendFrame_wort (s : State) (dst : BitVec 48) (bs : Bytes) : (s.sendFrame dst bs).wort = s.wort := rfl
@[simp] theorem State.sendFrame_verdict (s : State) (dst : BitVec 48) (bs : Bytes) : (s.sendFrame dst bs).verdict = s.verdict := rfl
@[simp] theorem State.sendFrame_cores (s : State) (dst : BitVec 48) (bs : Bytes) : (s.sendFrame dst bs).cores = s.cores := rfl
@[simp] theorem State.sendFrame_clusters (s : State) (dst : BitVec 48) (bs : Bytes) : (s.sendFrame dst bs).clusters = s.clusters := rfl
@[simp] theorem State.sendFrame_groups (s : State) (dst : BitVec 48) (bs : Bytes) : (s.sendFrame dst bs).groups = s.groups := rfl
@[simp] theorem State.sendFrame_mem (s : State) (dst : BitVec 48) (bs : Bytes) : (s.sendFrame dst bs).mem = s.mem := rfl
@[simp] theorem State.sendFrame_kilns (s : State) (dst : BitVec 48) (bs : Bytes) : (s.sendFrame dst bs).kilns = s.kilns := rfl
@[simp] theorem State.sendFrame_steps (s : State) (dst : BitVec 48) (bs : Bytes) : (s.sendFrame dst bs).steps = s.steps := rfl
@[simp] theorem State.sendFrame_fab (s : State) (dst : BitVec 48) (bs : Bytes) : (s.sendFrame dst bs).fab = s.fab := rfl
@[simp] theorem State.sendFrame_host (s : State) (dst : BitVec 48) (bs : Bytes) : (s.sendFrame dst bs).host = s.host := rfl
@[simp] theorem State.sendFrame_mgmt_dict (s : State) (dst : BitVec 48) (bs : Bytes) : (s.sendFrame dst bs).mgmt.dict = s.mgmt.dict := rfl
@[simp] theorem State.sendFrame_mgmt_store (s : State) (dst : BitVec 48) (bs : Bytes) : (s.sendFrame dst bs).mgmt.store = s.mgmt.store := rfl

/-! ### State.keepBucket -/

@[simp] theorem State.keepBucket_pending (s : State) (v : Nat) : (s.keepBucket v).pending = s.pending := rfl
@[simp] theorem State.keepBucket_free (s : State) (v : Nat) : (s.keepBucket v).free = s.free := rfl
@[simp] theorem State.keepBucket_arb (s : State) (v : Nat) : (s.keepBucket v).arb = s.arb := rfl
@[simp] theorem State.keepBucket_clock (s : State) (v : Nat) : (s.keepBucket v).clock = s.clock := rfl
@[simp] theorem State.keepBucket_power (s : State) (v : Nat) : (s.keepBucket v).power = s.power := rfl
@[simp] theorem State.keepBucket_pins (s : State) (v : Nat) : (s.keepBucket v).pins = s.pins := rfl
@[simp] theorem State.keepBucket_boot (s : State) (v : Nat) : (s.keepBucket v).boot = s.boot := rfl
@[simp] theorem State.keepBucket_mgmt (s : State) (v : Nat) : (s.keepBucket v).mgmt = s.mgmt := rfl
@[simp] theorem State.keepBucket_cask (s : State) (v : Nat) : (s.keepBucket v).cask = s.cask := rfl
@[simp] theorem State.keepBucket_health (s : State) (v : Nat) : (s.keepBucket v).health = s.health := rfl
@[simp] theorem State.keepBucket_conv (s : State) (v : Nat) : (s.keepBucket v).conv = s.conv := rfl
@[simp] theorem State.keepBucket_wort (s : State) (v : Nat) : (s.keepBucket v).wort = s.wort := rfl
@[simp] theorem State.keepBucket_verdict (s : State) (v : Nat) : (s.keepBucket v).verdict = s.verdict := rfl
@[simp] theorem State.keepBucket_cores (s : State) (v : Nat) : (s.keepBucket v).cores = s.cores := rfl
@[simp] theorem State.keepBucket_clusters (s : State) (v : Nat) : (s.keepBucket v).clusters = s.clusters := rfl
@[simp] theorem State.keepBucket_groups (s : State) (v : Nat) : (s.keepBucket v).groups = s.groups := rfl
@[simp] theorem State.keepBucket_kilns (s : State) (v : Nat) : (s.keepBucket v).kilns = s.kilns := rfl
@[simp] theorem State.keepBucket_steps (s : State) (v : Nat) : (s.keepBucket v).steps = s.steps := rfl
@[simp] theorem State.keepBucket_fab (s : State) (v : Nat) : (s.keepBucket v).fab = s.fab := rfl
@[simp] theorem State.keepBucket_host (s : State) (v : Nat) : (s.keepBucket v).host = s.host := rfl
@[simp] theorem State.keepBucket_mem_bucketOld (s : State) (v : Nat) : (s.keepBucket v).mem.bucketOld = s.mem.bucketOld.put v (s.bucketSet v) := rfl

/-! ### State.putSlot -/

@[simp] theorem State.putSlot_pending (s : State) (cl slot : Nat) (d : DmaSlot) : (s.putSlot cl slot d).pending = s.pending := rfl
@[simp] theorem State.putSlot_free (s : State) (cl slot : Nat) (d : DmaSlot) : (s.putSlot cl slot d).free = s.free := rfl
@[simp] theorem State.putSlot_arb (s : State) (cl slot : Nat) (d : DmaSlot) : (s.putSlot cl slot d).arb = s.arb := rfl
@[simp] theorem State.putSlot_clock (s : State) (cl slot : Nat) (d : DmaSlot) : (s.putSlot cl slot d).clock = s.clock := rfl
@[simp] theorem State.putSlot_power (s : State) (cl slot : Nat) (d : DmaSlot) : (s.putSlot cl slot d).power = s.power := rfl
@[simp] theorem State.putSlot_pins (s : State) (cl slot : Nat) (d : DmaSlot) : (s.putSlot cl slot d).pins = s.pins := rfl
@[simp] theorem State.putSlot_boot (s : State) (cl slot : Nat) (d : DmaSlot) : (s.putSlot cl slot d).boot = s.boot := rfl
@[simp] theorem State.putSlot_mgmt (s : State) (cl slot : Nat) (d : DmaSlot) : (s.putSlot cl slot d).mgmt = s.mgmt := rfl
@[simp] theorem State.putSlot_cask (s : State) (cl slot : Nat) (d : DmaSlot) : (s.putSlot cl slot d).cask = s.cask := rfl
@[simp] theorem State.putSlot_health (s : State) (cl slot : Nat) (d : DmaSlot) : (s.putSlot cl slot d).health = s.health := rfl
@[simp] theorem State.putSlot_conv (s : State) (cl slot : Nat) (d : DmaSlot) : (s.putSlot cl slot d).conv = s.conv := rfl
@[simp] theorem State.putSlot_wort (s : State) (cl slot : Nat) (d : DmaSlot) : (s.putSlot cl slot d).wort = s.wort := rfl
@[simp] theorem State.putSlot_verdict (s : State) (cl slot : Nat) (d : DmaSlot) : (s.putSlot cl slot d).verdict = s.verdict := rfl
@[simp] theorem State.putSlot_cores (s : State) (cl slot : Nat) (d : DmaSlot) : (s.putSlot cl slot d).cores = s.cores := rfl
@[simp] theorem State.putSlot_groups (s : State) (cl slot : Nat) (d : DmaSlot) : (s.putSlot cl slot d).groups = s.groups := rfl
@[simp] theorem State.putSlot_mem (s : State) (cl slot : Nat) (d : DmaSlot) : (s.putSlot cl slot d).mem = s.mem := rfl
@[simp] theorem State.putSlot_kilns (s : State) (cl slot : Nat) (d : DmaSlot) : (s.putSlot cl slot d).kilns = s.kilns := rfl
@[simp] theorem State.putSlot_steps (s : State) (cl slot : Nat) (d : DmaSlot) : (s.putSlot cl slot d).steps = s.steps := rfl
@[simp] theorem State.putSlot_fab (s : State) (cl slot : Nat) (d : DmaSlot) : (s.putSlot cl slot d).fab = s.fab := rfl
@[simp] theorem State.putSlot_host (s : State) (cl slot : Nat) (d : DmaSlot) : (s.putSlot cl slot d).host = s.host := rfl
@[simp] theorem State.putSlot_clusters (s : State) (cl slot : Nat) (d : DmaSlot) : (s.putSlot cl slot d).clusters = s.clusters.put cl { s.cluster cl with dma := (s.cluster cl).dma.put slot d } := rfl

/-! ### State.putGrad -/

@[simp] theorem State.putGrad_pending (s : State) (k n : Nat) (x : Option GradSlot) : (s.putGrad k n x).pending = s.pending := rfl
@[simp] theorem State.putGrad_free (s : State) (k n : Nat) (x : Option GradSlot) : (s.putGrad k n x).free = s.free := rfl
@[simp] theorem State.putGrad_arb (s : State) (k n : Nat) (x : Option GradSlot) : (s.putGrad k n x).arb = s.arb := rfl
@[simp] theorem State.putGrad_clock (s : State) (k n : Nat) (x : Option GradSlot) : (s.putGrad k n x).clock = s.clock := rfl
@[simp] theorem State.putGrad_power (s : State) (k n : Nat) (x : Option GradSlot) : (s.putGrad k n x).power = s.power := rfl
@[simp] theorem State.putGrad_pins (s : State) (k n : Nat) (x : Option GradSlot) : (s.putGrad k n x).pins = s.pins := rfl
@[simp] theorem State.putGrad_boot (s : State) (k n : Nat) (x : Option GradSlot) : (s.putGrad k n x).boot = s.boot := rfl
@[simp] theorem State.putGrad_mgmt (s : State) (k n : Nat) (x : Option GradSlot) : (s.putGrad k n x).mgmt = s.mgmt := rfl
@[simp] theorem State.putGrad_cask (s : State) (k n : Nat) (x : Option GradSlot) : (s.putGrad k n x).cask = s.cask := rfl
@[simp] theorem State.putGrad_health (s : State) (k n : Nat) (x : Option GradSlot) : (s.putGrad k n x).health = s.health := rfl
@[simp] theorem State.putGrad_conv (s : State) (k n : Nat) (x : Option GradSlot) : (s.putGrad k n x).conv = s.conv := rfl
@[simp] theorem State.putGrad_verdict (s : State) (k n : Nat) (x : Option GradSlot) : (s.putGrad k n x).verdict = s.verdict := rfl
@[simp] theorem State.putGrad_cores (s : State) (k n : Nat) (x : Option GradSlot) : (s.putGrad k n x).cores = s.cores := rfl
@[simp] theorem State.putGrad_clusters (s : State) (k n : Nat) (x : Option GradSlot) : (s.putGrad k n x).clusters = s.clusters := rfl
@[simp] theorem State.putGrad_groups (s : State) (k n : Nat) (x : Option GradSlot) : (s.putGrad k n x).groups = s.groups := rfl
@[simp] theorem State.putGrad_mem (s : State) (k n : Nat) (x : Option GradSlot) : (s.putGrad k n x).mem = s.mem := rfl
@[simp] theorem State.putGrad_kilns (s : State) (k n : Nat) (x : Option GradSlot) : (s.putGrad k n x).kilns = s.kilns := rfl
@[simp] theorem State.putGrad_steps (s : State) (k n : Nat) (x : Option GradSlot) : (s.putGrad k n x).steps = s.steps := rfl
@[simp] theorem State.putGrad_fab (s : State) (k n : Nat) (x : Option GradSlot) : (s.putGrad k n x).fab = s.fab := rfl
@[simp] theorem State.putGrad_host (s : State) (k n : Nat) (x : Option GradSlot) : (s.putGrad k n x).host = s.host := rfl
@[simp] theorem State.putGrad_wort_slots (s : State) (k n : Nat) (x : Option GradSlot) : (s.putGrad k n x).wort.slots = s.wort.slots := rfl
@[simp] theorem State.putGrad_wort_tally (s : State) (k n : Nat) (x : Option GradSlot) : (s.putGrad k n x).wort.tally = s.wort.tally := rfl

/-! ### State.keepRepair -/

/-- Setting objects changes the Maltster's part alone. -/
theorem State.setObjs_frame (l : List (Nat × Nat × Nat)) (s : State) :
    l.foldl (fun (t : State) x => t.setObj x.1 x.2.1 x.2.2) s =
      { s with mgmt := (l.foldl (fun (t : State) x => t.setObj x.1 x.2.1 x.2.2) s).mgmt } := by
  induction l generalizing s with
  | nil => rfl
  | cons x l ih => simp only [List.foldl_cons]; exact (ih _).trans rfl

@[simp] theorem State.keepRepair_repair (s : State) (r : RepairList) (l : List (Nat × Nat × Nat)) :
    (s.keepRepair r l).health.repair = r := rfl

/-- A change of the repair list changes that list and the Maltster's part alone. -/
theorem State.keepRepair_frame (s : State) (r : RepairList) (l : List (Nat × Nat × Nat)) :
    s.keepRepair r l = { s with health.repair := r, mgmt := (s.keepRepair r l).mgmt } := by
  unfold State.keepRepair; rw [State.setObjs_frame]

end Sys2Proof.Machine
end

