-- ==== Sys2Proof/Tests/Slice0.lean ====
section
/-!
SUPPORT. The model's own tests: what WellFormed refuses, and for every statement with hypotheses a small state and operands
that meet them.
-/

namespace Sys2Proof.Tests

set_option Elab.async false

open Sys2Proof.Machine

/-! ### WellFormed -/

theorem test_wf_opcode : (Instr.iadd ⟨0, 0, 0⟩ 0#64).wf = true ∧ (Instr.iadd ⟨0, 0, 0⟩ (0x01#64 <<< 56)).wf = false := by decide
theorem test_wf_illegal : (Instr.illegalInstruction ⟨0, 0, 0⟩ (0xFF#64 <<< 56)).wf = true ∧
    (Instr.illegalInstruction ⟨0, 0, 0⟩ 0#64).wf = false := by decide
theorem test_wf_arbiter : (Instr.arbiterRequest .fabricEgress 31 0 1 0).wf = true ∧
    (Instr.arbiterRequest .fabricEgress 32 0 1 0).wf = false ∧ (Instr.arbiterRequest .fabricEgress 31 0 0 0).wf = false ∧
    (Instr.arbiterDecision .hbmQueue 1024 0).wf = false ∧ (Instr.backoffExpire .storeBank 16384 0 0).wf = false ∧
    (Instr.emergencyPreempt .cacheSlice 128 0).wf = false ∧ (Instr.emergencyEnd .homeEndpoint 128 0).wf = false := by decide

/-- A message of a kind for the module at management address 0x8001. -/
def msg (kind : BitVec 8) : NalMsg := { path := .port, from_ := 0, kind := kind, dst := 0x8001, src := 0x8000, seq := 0, object := 0 }

theorem test_wf_message : (Instr.naloraRead (msg 1)).wf = true ∧ (Instr.naloraRead (msg 2)).wf = false ∧
    (Instr.naloraWrite { msg 2 with dataLen := 1 }).wf = false ∧ (Instr.naloraWriteG (msg 1)).wf = false ∧
    (Instr.naloraStage (msg 1)).wf = false ∧ (Instr.naloraResponse (msg 1)).wf = false ∧ (Instr.naloraIdentify (msg 1)).wf = false ∧
    (Instr.naloraNotice (msg 1)).wf = false ∧ (Instr.naloraReservedKind (msg 7)).wf = false ∧
    (Instr.keyProvision (msg 3)).wf = false := by decide

/-- A packet whose payload does not fit its length and that has no type. -/
def badPacket : Packet := { len := 1 }

theorem test_wf_packet : ({ len := 33, payload := [] } : Packet).wf = false ∧ badPacket.wf = false ∧
    ({ type := 2, len := 1, payload := [0, 0, 0, 0, 0, 0, 0, 0] } : Packet).wf = true ∧
    (Instr.fabRead badPacket .clean).wf = false ∧ (Instr.fabWrite badPacket).wf = false ∧ (Instr.fabWriteMask badPacket).wf = false ∧
    (Instr.fabAtomic badPacket .clean).wf = false ∧ (Instr.fabAtomicCont badPacket .clean).wf = false ∧
    (Instr.fabReadResp badPacket).wf = false ∧ (Instr.fabWriteAck badPacket).wf = false ∧
    (Instr.fabAtomicResp badPacket).wf = false ∧ (Instr.fabReservedType badPacket).wf = false ∧
    (Instr.fabMgmt badPacket (msg 1)).wf = false ∧ (Instr.frameReceive 0 badPacket 0 0 0).wf = false := by decide

/-- Table 2.2: units of a request. -/
theorem test_wf_unit : (Instr.arbiterRequest .stationLatch 0 0 64 0).wf = true ∧ (Instr.arbiterRequest .stationLatch 0 0 63 0).wf = false ∧
    (Instr.arbiterRequest .cacheSlice 0 0 4 0).wf = true ∧ (Instr.arbiterRequest .hbmQueue 0 0 7 0).wf = false ∧
    (Instr.arbiterRequest .storeBank 0 0 1 0).wf = true ∧ (Instr.arbiterRequest .storeBank 0 0 5 0).wf = false ∧
    (Instr.arbiterRequest .homeEndpoint 0 0 4 0).wf = false := by decide

/-- The SRAM has 32,768 bytes, and an image slot 32 MiB. -/
theorem test_wf_flash : (Instr.romStart none [] [] [] []).wf = false ∧ (Instr.fwVerifyDone [(33554432, 0)]).wf = false ∧
    (Instr.fwVerifyDone [(33554431, 0)]).wf = true := by decide

/-! ### The machine, and the Cask -/

theorem witness_StepsTakeOneCommand : State.reset.pending = [] ∧ State.reset.power.dark = false ∧
    ({ power := { hold := .off } } : State).power.dark = true ∧ (∃ t, step State.reset = .next t) ∧ State.reset.quiet = false ∧
    (let s : State := { mgmt.fw := { quietUntil := 1 } }; s.pending = [] ∧ s.quiet = true ∧ s.mgmt.fw.quietUntil ≤ s.tick.now) ∧
    ({ mgmt.fw := { quietUntil := 50000000 } } : State).tick.now < 50000000 :=
  ⟨rfl, rfl, rfl, ⟨_, rfl⟩, rfl, by decide +kernel, by decide +kernel⟩

theorem witness_CaskChainKept : Safety.chained ({} : Cask) := fun _ _ h _ _ => absurd h (Nat.not_lt_zero _)

theorem witness_CommittedRecordsStay : (∃ t, step State.reset = .next t) ∧ State.reset.pending.head? = none ∧
    (∃ t, exec (.caskCommit true true) State.reset = .next t) ∧ 1 ≠ State.reset.cask.nextSeq % caskPositions ∧
    State.reset.cask.queue = [] ∧ (let r : CaskRecord := { type := 1, severity := 1, source := 0, payload := [], time := 0, pace := 0, boot := 0 };
      let s : State := { cask := { queue := [r] } }; s.cask.queue = [r] ∧ s.obj 0x80000 0 ≠ 2 ∧ s.power.dark = false) :=
  ⟨⟨_, rfl⟩, rfl, ⟨_, rfl⟩, by decide, rfl, by decide⟩

/-! ### Thread instructions -/

def gid0 : Gid := ⟨0, 0, 0⟩

/-- A group of 256 registers with every thread active, at address 0 of context 0. -/
def gr : Group := { nreg := 256, live := 0xFFFFFFFF, active := 0xFFFFFFFF }

def ref0 : CmdRef := ⟨0, 0, 0⟩
def admin0 : CmdRef := ⟨0, 16384, 0⟩
def kern : Kernel :=
  { nreg := 8, scratchKib := 0, shadowKib := 0, accKib := 0, streams := 4, codeBytes := 1024, entry := 0, code := 0, obj := 2 }
def laun : Launch :=
  { ctx := 0, kernel := 0, groups := 1, lastLive := 0, args := [], cond := none, cmd := ref0, cookie := 0, layer := 0, op := 0 }

/-- One group on core 0, the sector of its code in the instruction cache. -/
def st (g : Group) : State :=
  { groups := [(0, g)], cores := [(0, { l0i := [0] })], host := { launches := [(0, laun)], kernels := [(0, kern)] } }

/-- A word whose guard is p7. -/
def w7 : BitVec 64 := 7#64 <<< 53

theorem runs_gr (g : Group) (w : BitVec 64) (regs : List Nat) (hg : (st g).issues 0 g = true)
    (hf : (st g).fetchFault 0 { g with instr := w } = none) (hr : regRange { g with instr := w } regs = none) :
    Safety.runs (st g) gid0 w regs { g with instr := w } := ⟨g, rfl, hg, rfl, hf, hr⟩

/-- The word of opcode `op` with guard p7 and all other fields 0. -/
def wo (op : Nat) : BitVec 64 := w7 ||| BitVec.ofNat 64 (op * 2 ^ 56)

/-- Every word of Table 7.5 is the command of its row, and the others are reserved (R211). -/
theorem test_opcodes : ∀ op : Fin 256, (decodeThread gid0 (wo op.val) {}).wf = true ∧ opcOf (wo op.val) = op.val := by decide +kernel

/-- OPC 0x12 is SEL, 0x2A FRSQ, 0x44 UNPACK, 0x65 CLRM, 0x73 ATOM, 0x82 BAR, 0x94 DMA.WAIT; 0x17 and 0xA0 are reserved. -/
theorem test_decode_words : decodeThread gid0 0x12E0000000000000 {} = .sel gid0 0x12E0000000000000 ∧
    decodeThread gid0 0x2AE0000000000000 {} = .frsq gid0 0x2AE0000000000000 ∧
    decodeThread gid0 0x44E0000000000000 {} = .unpack gid0 0x44E0000000000000 ∧
    decodeThread gid0 0x65E0000000000000 {} = .clrm gid0 0x65E0000000000000 ∧
    decodeThread gid0 0x73E0000000000000 {} = .atom gid0 0x73E0000000000000 ∧
    decodeThread gid0 0x82E0000000000000 {} = .bar gid0 0x82E0000000000000 ∧
    decodeThread gid0 0x94E0000000000000 {} = .dmaWait gid0 0x94E0000000000000 ∧
    decodeThread gid0 0x17E0000000000000 {} = .illegalInstruction gid0 0x17E0000000000000 ∧
    decodeThread gid0 0xA0E0000000000000 {} = .illegalInstruction gid0 0xA0E0000000000000 := by decide

/-- Every instruction of one to three operands with any opcode runs in the group, and so does one without. -/
theorem runs_op (op : Fin 256) (n : Fin 4) : Safety.runs (st gr) gid0 (wo op.val) (aluRegs (wo op.val) n.val) { gr with instr := wo op.val } ∧
    Safety.runs (st gr) gid0 (wo op.val) [] { gr with instr := wo op.val } := by
  have h : ∀ (op : Fin 256) (n : Fin 4), regRange { gr with instr := wo op.val } (aluRegs (wo op.val) n.val) = none ∧
      (st gr).fetchFault 0 { gr with instr := wo op.val } = none := by decide +kernel
  exact ⟨runs_gr _ _ _ (by decide) (h op n).2 (h op n).1, runs_gr _ _ _ (by decide) (h op n).2 rfl⟩

theorem witness_IntegerResults : Safety.runs (st gr) gid0 w7 (aluRegs w7 3) { gr with instr := w7 } ∧
    Safety.runs (st gr) gid0 w7 (aluRegs w7 1) { gr with instr := w7 } ∧
    (let w := wo 0x14; (Instr.movi gid0 w).wf = true ∧
      Safety.runs (st gr) gid0 w (if isUniform w then [] else [dstOf w]) { gr with instr := w }) ∧
    (Instr.iadd gid0 (wo 0)).wf = true ∧ (Instr.imad gid0 (wo 4)).wf = true ∧ (Instr.irem gid0 (wo 0x16)).wf = true :=
  ⟨runs_gr _ _ _ (by decide) (by decide) (by decide), runs_gr _ _ _ (by decide) (by decide) (by decide),
    ⟨by decide, runs_gr _ _ _ (by decide) (by decide) (by decide)⟩, by decide, by decide, by decide⟩

theorem witness_FloatResults : Safety.runs (st gr) gid0 (wo 0x20) (aluRegs (wo 0x20) 2) { gr with instr := wo 0x20 } ∧
    (Instr.fadd gid0 (wo 0x20)).wf = true ∧ (Instr.ffma gid0 (wo 0x23)).wf = true ∧ (Instr.unpack gid0 (wo 0x44)).wf = true :=
  ⟨(runs_op 0x20 2).1, by decide, by decide, by decide⟩

/-- A word of VOTE with guard p7 and mode `m`. -/
def wm (m : Nat) : BitVec 64 := wo 0x51 ||| BitVec.ofNat 64 (m * 65536)

theorem witness_PredicateResults : (let w := wo 0x11; (Instr.icmp gid0 w).wf = true ∧
      Safety.runs (st gr) gid0 w (srcAOf w :: srcBReg w) { gr with instr := w }) ∧ (Instr.fcmp gid0 (wo 0x28)).wf = true ∧
    (Instr.mxTest gid0 (wo 0x92)).wf = true ∧ (modOf (wm 0)).toNat = 0 ∧ (modOf (wm 1)).toNat = 1 ∧ (modOf (wm 3)).toNat = 3 ∧
    (Instr.vote gid0 (wm 0)).wf = true ∧ (Instr.vote gid0 (wm 1)).wf = true ∧ (Instr.vote gid0 (wm 3)).wf = true ∧
    Safety.runs (st gr) gid0 (wm 3) [] { gr with instr := wm 3 } :=
  ⟨⟨by decide, runs_gr _ _ _ (by decide) (by decide) (by decide)⟩, by decide, by decide, by decide, by decide, by decide, by decide,
    by decide, by decide, runs_gr _ _ _ (by decide) (by decide) (by decide)⟩

theorem witness_CrossThreadResults : (let w := wo 0x12; (Instr.sel gid0 w).wf = true ∧
      Safety.runs (st gr) gid0 w (aluRegs w 2) { gr with instr := w }) ∧
    (let w := wo 0x50; (Instr.shfl gid0 w).wf = true ∧ fld (srcCOf w) 4 3 ≤ 4 ∧
      Safety.runs (st gr) gid0 w ([dstOf w, srcAOf w] ++ srcBReg w) { gr with instr := w }) ∧
    (let w := wo 0x52; (Instr.movu gid0 w).wf = true ∧ Safety.runs (st gr) gid0 w [srcAOf w] { gr with instr := w }) ∧
    (modOf (wm 2)).toNat = 2 ∧ (Instr.vote gid0 (wm 2)).wf = true ∧
    Safety.runs (st gr) gid0 (wm 2) (if Config.dstUniform (wm 2) then [] else [dstOf (wm 2)]) { gr with instr := wm 2 } ∧
    (let w := wo 0x53; (Instr.movs gid0 w).wf = true ∧ srcCOf w ≤ 14 ∧ ({ gr with instr := w } : Group).acting w ≠ 0#32 ∧
      Safety.runs (st gr) gid0 w (if Config.dstUniform w then [] else [dstOf w]) { gr with instr := w }) := by
  refine ⟨⟨by decide, runs_gr _ _ _ (by decide) (by decide) (by decide)⟩,
    ⟨by decide, by decide, runs_gr _ _ _ (by decide) (by decide) (by decide)⟩,
    ⟨by decide, runs_gr _ _ _ (by decide) (by decide) (by decide)⟩, by decide, by decide,
    runs_gr _ _ _ (by decide) (by decide) ?_, ⟨by decide, by decide, by decide, runs_gr _ _ _ (by decide) (by decide) ?_⟩⟩
  · cases Config.dstUniform (wm 2) <;> decide
  · cases Config.dstUniform (wo 0x53) <;> decide

/-- The word of opcode `op` with guard p0, which no thread has: no thread acts. -/
def wz (op : Nat) : BitVec 64 := BitVec.ofNat 64 (op * 2 ^ 56)

/-- BRA to a far target. -/
def braFar : BitVec 64 := wo 0x61 ||| 0x7FFFFFF#64

theorem witness_BranchResults : (Instr.nop gid0 (wo 0x60)).wf = true ∧
    ((Instr.bra gid0 (wo 0x61)).wf = true ∧ gr.acting (wo 0x61) = gr.active ∧ Safety.inCode (st gr) gr (wo 0x61)) ∧
    ((Instr.bra gid0 (wz 0x61)).wf = true ∧ gr.active ≠ 0#32 ∧ gr.acting (wz 0x61) = 0#32 ∧
      Safety.runs (st gr) gid0 (wz 0x61) [] { gr with instr := wz 0x61 }) ∧
    (let g := { gr with preds := [(0, 1#32)] }; g.acting (wz 0x61) ≠ g.active ∧ g.acting (wz 0x61) ≠ 0#32) ∧
    ((Instr.bra gid0 braFar).wf = true ∧ gr.acting braFar = gr.active ∧ ¬ Safety.inCode (st gr) gr braFar) ∧
    ((Instr.braAny gid0 (wo 0x62)).wf = true ∧ gr.acting (wo 0x62) ≠ 0#32 ∧ Safety.inCode (st gr) gr (wo 0x62)) ∧
    ((Instr.braAny gid0 (wz 0x62)).wf = true ∧ gr.acting (wz 0x62) = 0#32) ∧
    ((Instr.call gid0 (wo 0x67)).wf = true ∧ dstOf (wo 0x67) % 2 = 0 ∧ dstOf (wo 0x67) ≤ 62 ∧ groupActs gr (wo 0x67) = true ∧
      Safety.inCode (st gr) gr (wo 0x67)) ∧
    (let w := wo 0x67 ||| 1#64 <<< 44; (Instr.call gid0 w).wf = true ∧ dstOf w % 2 = 1) ∧
    (let w := wo 0x67 ||| 64#64 <<< 44; (Instr.call gid0 w).wf = true ∧ 62 < dstOf w) ∧
    (let w := wo 0x67 ||| 0x7FFFFFF#64; dstOf w % 2 = 0 ∧ dstOf w ≤ 62 ∧ groupActs gr w = true ∧ ¬ Safety.inCode (st gr) gr w) ∧
    ((Instr.ret gid0 (wo 0x68)).wf = true ∧ groupActs gr (wo 0x68) = true ∧
      Safety.inside (st gr) gr (Safety.retAddress gr (wo 0x68))) ∧
    (let g := { gr with uregs := [(1, 1)] }; groupActs g (wo 0x68) = true ∧
      ¬ Safety.inside (st g) g (Safety.retAddress g (wo 0x68))) := by
  simp only [Safety.inCode, Safety.inside]
  refine ⟨by decide, by decide, ⟨by decide, by decide, by decide, runs_gr _ _ _ (by decide) (by decide) (by decide)⟩, by decide,
    by decide, by decide, by decide, by decide, by decide, by decide, by decide, by decide, by decide⟩

theorem witness_MaskStackResults : ((Instr.pushm gid0 (wo 0x63)).wf = true ∧ gr.stack.length < 32 ∧ gr.acting (wo 0x63) ≠ 0#32) ∧
    ((Instr.pushm gid0 (wz 0x63)).wf = true ∧ gr.acting (wz 0x63) = 0#32 ∧ Safety.inCode (st gr) gr (wz 0x63)) ∧
    (let g := { gr with stack := List.replicate 32 (0, 0) }; Safety.runs (st g) gid0 (wo 0x63) [] { g with instr := wo 0x63 } ∧
      32 ≤ g.stack.length) ∧
    (let g := { gr with stack := [(3, 1)] }; Safety.runs (st g) gid0 (wo 0x64) [] { g with instr := wo 0x64 } ∧
      (Instr.flipm gid0 (wo 0x64)).wf = true ∧ groupActs g (wo 0x64) = true ∧ (3#32 &&& ~~~ 1#32) ≠ 0#32) ∧
    ((1#32 &&& ~~~ 1#32) = 0#32 ∧ Safety.inCode (st gr) gr (wo 0x64)) ∧ (Instr.clrm gid0 (wo 0x65)).wf = true ∧
    (groupActs gr (wo 0x64) = true ∧ gr.stack = []) ∧
    ((Instr.popm gid0 (wo 0x66)).wf = true ∧ groupActs gr (wo 0x66) = true ∧ gr.stack = []) := by
  simp only [Safety.inCode, Safety.inside]
  refine ⟨by decide, by decide, ⟨runs_gr _ _ _ (by decide) (by decide) (by decide), by decide⟩,
    ⟨runs_gr _ _ _ (by decide) (by decide) (by decide), by decide, by decide, by decide⟩, by decide, by decide, by decide, by decide⟩

theorem witness_MaskStackFaults : (let g := { gr with stack := List.replicate 32 (0, 0) }
      (Instr.pushm gid0 (wo 0x63)).wf = true ∧ Safety.runs (st g) gid0 (wo 0x63) [] { g with instr := wo 0x63 } ∧ g.stack.length = 32) ∧
    ((Instr.popm gid0 (wo 0x66)).wf = true ∧ groupActs gr (wo 0x66) = true ∧ gr.stack = []) ∧
    ((Instr.flipm gid0 (wo 0x64)).wf = true ∧ groupActs gr (wo 0x64) = true) :=
  ⟨⟨by decide, runs_gr _ _ _ (by decide) (by decide) (by decide), by decide⟩, by decide, by decide⟩

theorem witness_ExitTrapAndWaits : ((Instr.exit gid0 (wo 0x69)).wf = true ∧ groupActs gr (wo 0x69) = true ∧ gr.stack = [] ∧ gr.active = gr.live) ∧
    (let g := { gr with active := 1 }; groupActs g (wo 0x69) = true ∧ g.active ≠ g.live) ∧
    ((Instr.trap gid0 (wo 0x6A)).wf = true ∧ groupActs gr (wo 0x6A) = true) ∧ (Instr.illegalInstruction gid0 (wo 0x6B)).wf = true ∧
    ((Instr.mxWait gid0 (wo 0x91)).wf = true ∧ gr.mxTok.get 0 (tokenOf (wo 0x91)) = 0) ∧
    (let g := { gr with mxTok := [(0, 1)] }; g.acting (wo 0x91) ≠ 0#32 ∧ g.mxTok.get 0 (tokenOf (wo 0x91)) ≠ 0) ∧
    ((Instr.dmaWait gid0 (wo 0x94)).wf = true ∧ gr.dmaTok.get 0 (tokenOf (wo 0x94)) = 0) ∧
    (let g := { gr with dmaTok := [(0, 1)] }; g.acting (wo 0x94) ≠ 0#32 ∧ g.dmaTok.get 0 (tokenOf (wo 0x94)) ≠ 0) ∧
    ((Instr.bar gid0 (wo 0x82)).wf = true ∧ gr.acting (wo 0x82) ≠ 0#32) ∧ (Instr.iadd gid0 w7).opcode? = some (0, w7) := by decide

theorem witness_MissingRegisterParks : let g := { gr with nreg := 8 }; let w := w7 ||| (8#64 <<< 44)
    (st g).group? 0 = some g ∧ (st g).issues 0 g = true ∧ (st g).fetchFault 0 { g with instr := w } = none ∧
    (Instr.iadd gid0 w).wf = true ∧
    regRange g (aluRegs w 2) = some 8 ∧ regRange g (aluRegs w 3) = some 8 ∧ regRange g (aluRegs w 1) = some 8 ∧
    regRange g ([dstOf w, srcAOf w] ++ srcBReg w) = some 8 ∧ (let v := w7 ||| (8#64 <<< 36); regRange g (srcAOf v :: srcBReg v) = some 8 ∧
      regRange g [srcAOf v] = some 8 ∧ regRange g [srcAOf v, srcAOf v + 1] = some 8) := by decide

theorem dataRegs_ok (g : Group) (hg : g.nreg = 256) (k : Fin 5) : regRange g (dataRegs 0 (2 ^ k.val) ++ [0]) = none := by
  simp only [regRange, hg]; revert k; decide

theorem dataRegs_ok2 (g : Group) (hg : g.nreg = 256) (k : Fin 5) : regRange g (dataRegs 0 (2 ^ k.val) ++ [0, 1]) = none := by
  simp only [regRange, hg]; revert k; decide

/-- Every access length of the lanes of a group at offset 0 of the cluster store finds no fault. -/
theorem near_ok (k : Fin 5) (acc : Acc) : (st gr).laneFault gr false 0 (2 ^ k.val) acc false = none := by
  revert k; cases acc <;> decide

theorem witness_LoadResults : let w := wo 0x70; let g := { gr with instr := w }; let t := Safety.fetched (st gr) gid0 g
    (Instr.ld gid0 w {}).wf = true ∧ (Instr.ldNc gid0 (wo 0x72) {}).wf = true ∧
    Safety.runs (st gr) gid0 w (dataRegs (dstOf w) (accessBytes w) ++ [srcAOf w]) g ∧ spaceGlobal w = false ∧
    g.acting w ≠ 0#32 ∧ t.mergeStall 0 g = false ∧ laneAddr g w false 31 = 0 ∧
    cacheGet ((st gr).core 0).l0d (storeSector 0) = none ∧
    (([(0, [7])] : List (Nat × Bytes)).find? (fun y => y.1 == 1 / 256 * 256)).map (·.2) = some [7] := by
  refine ⟨by decide, by decide, runs_gr _ _ _ (by decide) (by decide) (dataRegs_ok _ rfl _), by decide, by decide, by decide, by decide,
    by decide, rfl⟩

/-- A lane at an odd address does not find its word. -/
theorem witness_LoadResults_fault : gatherFaults [(0, some (0x12, 0, 1))] = some (mkFaultInfo 0x12 0 1 1) ∧
    (st gr).laneFault gr false 4194304 1 .load false = some (0x13, 4194304, 4194304) := by decide

theorem witness_StoreResults : let w := wo 0x71; let g := { gr with instr := w }; let t := Safety.fetched (st gr) gid0 g
    (Instr.st gid0 w).wf = true ∧
    Safety.runs (st gr) gid0 w (dataRegs (srcBOf w) (accessBytes w) ++ [srcAOf w]) g ∧ spaceGlobal w = false ∧
    g.acting w ≠ 0#32 ∧ t.mergeStall 0 g = false ∧ t.shadowed 0 g.spec = false ∧ Memory.wf (st gr).mem.store = true := by
  refine ⟨by decide, runs_gr _ _ _ (by decide) (by decide) (dataRegs_ok _ rfl _), by decide, by decide, by decide, by decide, by decide⟩

/-! ### Memory, engines, kernels -/

/-- Context 0 maps a page of 2 MiB at address 0 for every access: page tables at 0, the page at 2 MiB. -/
def hbm0 : List Host.Cell := [(0, 1), (2, 1), (4096, 0xF2), (4101, 2)]
def obj0 : MemObj := { kind := 0, big := true, pages := [0] }
def obj2 : MemObj := { kind := 0, big := true, pages := [2097152] }
def host0 : Host12 := { ctxs := [(0, { pt := 1 })], objects := [(1, obj0), (2, obj2)], launches := [(0, laun)], kernels := [(0, kern)] }

/-- The group of one thread, with that context; `c` is listed in fast memory behind the tables. -/
def mapped (g : Group) (c : List Host.Cell) : State :=
  { groups := [(0, g)], cores := [(0, { l0i := [0] })], mem := { hbm := hbm0 ++ c }, host := host0 }

def one : Group := { nreg := 256, live := 1, active := 1 }

/-- The same with the virtual interface's fast memory regulated and no credit. -/
def regulated (s : State) : State := { s with mgmt.dict := [(okey 0x40050 0, 1), (okey 0x40051 0, 0)] }

/-- Key 0 of context 0 names a window, and the fabric carries requests. -/
def fabKeyed (s : State) : State :=
  { s with host.ctxs := [(0, { pt := 1, keys := [(0, { key := 0, cls := 0, valid := true })] })],
           mgmt.dict := [(okey 0x50020 0, 1), (okey 0x50000 0, 2)] }

/-- A thread whose register pair 0 is a fabric address. -/
def farOne : Group := { one with regs := [(1, 0x80000000)] }

/-- The word of opcode `op` with guard p7 and the global space. -/
def wg (op : Nat) : BitVec 64 := wo op ||| (1#64 <<< 27)

theorem witness_LoadResults_global : let w := wg 0x70; let g := { one with instr := w }; let s := mapped one []; let t := Safety.fetched s gid0 g
    (Instr.ld gid0 w {}).wf = true ∧ Safety.runs s gid0 w (dataRegs (dstOf w) (accessBytes w) ++ (srcAOf w :: [srcAOf w + 1])) g ∧
    spaceGlobal w = true ∧ g.acting w ≠ 0#32 ∧ t.mergeStall 0 g = false ∧ laneAddr g w true 0 = 0 ∧ isFabric 0 = false ∧
    (∀ k : Fin 5, t.laneFault g true 0 (2 ^ k.val) .load false = none) ∧
    (t.groupObtain 0 g (t.laneSectors g .load [(0, 0)]) (t.loadReqs 0 g false [] [(0, 0)])).1 = true ∧
    (let v := regulated t; (v.groupObtain 0 g (v.laneSectors g .load [(0, 0)]) (v.loadReqs 0 g false [] [(0, 0)])).1 = false) := by
  refine ⟨by decide, ⟨one, by decide, by decide, rfl, by decide, dataRegs_ok2 _ rfl _⟩, ?_⟩; decide +kernel

theorem witness_LoadResults_far : let w := wg 0x72; let g := { farOne with instr := w }; let s := fabKeyed (mapped farOne [])
    let t := Safety.fetched s gid0 g; let a := laneAddr g w true 0
    (Instr.ldNc gid0 w {}).wf = true ∧ Safety.runs s gid0 w (dataRegs (dstOf w) (accessBytes w) ++ (srcAOf w :: [srcAOf w + 1])) g ∧
    g.acting w ≠ 0#32 ∧ t.mergeStall 0 g = false ∧ isFabric a = true ∧ (∀ k : Fin 5, t.laneFault g true a (2 ^ k.val) .load false = none) ∧
    t.farFull 0 [a] = false ∧ (t.groupObtain 0 g (t.laneSectors g .load []) (t.loadReqs 0 g true [] [])).1 = true := by
  refine ⟨by decide, ⟨farOne, by decide, by decide, rfl, by decide, dataRegs_ok2 _ rfl _⟩, ?_⟩; decide +kernel

theorem witness_StoreResults_global : let w := wg 0x71; let g := { one with instr := w }; let s := mapped one []; let t := Safety.fetched s gid0 g
    (Instr.st gid0 w).wf = true ∧ Safety.runs s gid0 w (dataRegs (srcBOf w) (accessBytes w) ++ (srcAOf w :: [srcAOf w + 1])) g ∧
    spaceGlobal w = true ∧ g.acting w ≠ 0#32 ∧ t.mergeStall 0 g = false ∧ laneAddr g w true 0 = 0 ∧
    (∀ k : Fin 5, t.laneFault g true 0 (2 ^ k.val) .store false = none) ∧ t.shadowed 0 g.spec = false ∧
    (t.groupObtain 0 g (t.laneSectors g .store [(0, 0)]) (t.storeReqs 0 g .store [(0, 1)])).1 = true ∧
    (let v := regulated t; (v.groupObtain 0 g (v.laneSectors g .store [(0, 0)]) (v.storeReqs 0 g .store [(0, 1)])).1 = false) ∧
    t.translate g.ctx 0 .store = .ok (.fast 2097152) ∧ Memory.wf s.mem.hbm = true ∧ Memory.wf s.mem.host = true := by
  refine ⟨by decide, ⟨one, by decide, by decide, rfl, by decide, dataRegs_ok2 _ rfl _⟩, ?_⟩; decide +kernel

theorem witness_StoreResults_far : let w := wg 0x71; let g := { farOne with instr := w }; let s := fabKeyed (mapped farOne [])
    let t := Safety.fetched s gid0 g; let a := laneAddr g w true 0
    Safety.runs s gid0 w (dataRegs (srcBOf w) (accessBytes w) ++ (srcAOf w :: [srcAOf w + 1])) g ∧ isFabric a = true ∧
    (∀ k : Fin 5, t.laneFault g true a (2 ^ k.val) .store false = none) ∧ t.farFull 0 [a] = false := by
  refine ⟨⟨farOne, by decide, by decide, rfl, by decide, dataRegs_ok2 _ rfl _⟩, ?_⟩; decide +kernel

def condCluster : Cluster := { cond := some { kind := 2, tag := 0, object := 0, value := 0 } }

/-- A speculative group of a cluster with a condition, a layout with shadow entries. -/
theorem witness_StoreResults_shadow : let g := { gr with spec := true, instr := wo 0x71 }
    let s : State := { st { gr with spec := true } with host.ctxs := [(0, { layout := 0xFF00 })], clusters := [(0, condCluster)] }
    let t := Safety.fetched s gid0 g; t.shadowed 0 g.spec = true ∧ t.mergeStall 0 g = false ∧ 1 ≤ t.shadowFree g.ctx 0 := by decide +kernel

theorem witness_AtomicAndLockResults : let w := wg 0x73; let g := { one with instr := w }; let s := mapped one []
    let t := Safety.fetched s gid0 g; (Instr.atom gid0 w).wf = true ∧
    Safety.runs s gid0 w (dataRegs (dstOf w) 4 ++ [srcAOf w, srcAOf w + 1] ++ dataRegs (srcBOf w) 4) g ∧
    srcBImm w = false ∧ fld (srcCOf w) 0 4 = 0 ∧ bit (srcCOf w) 4 = false ∧ spaceGlobal w = true ∧ g.acting w ≠ 0#32 ∧
    t.mergeStall 0 g = false ∧ g.spec = false ∧ fld (srcCOf w) 5 2 < 2 ∧
    (lanesOf (g.acting w)).map (fun l => (l, g.pair l (srcAOf w))) = [(0, 0)] ∧ t.atomFault g 0 4 [(0, 0)] = none ∧ isFabric 0 = false ∧
    (t.atomObtain 0 { g with fence := none } [(0, 0)] 4).1 = true ∧ (t.atomObtain 0 g [(0, 0)] 4).1 = true ∧
    t.atomFault g 0xA 4 [(0, 0)] = none ∧ Memory.wf s.mem.hbm = true ∧ Memory.wf s.mem.host = true := by
  refine ⟨by decide, ⟨one, by decide, by decide, rfl, by decide, by decide⟩, ?_⟩; decide +kernel

/-- ATOM with release and scope SYS meets the condition of its fence, and afterwards that of its operation. -/
theorem witness_AtomicAndLockResults_fence : let w := wg 0x73 ||| 3#64 <<< 16 ||| 2#64 <<< 25; let g := { one with instr := w }
    let s := mapped one []; (Instr.atom gid0 w).wf = true ∧ spaceGlobal w = true ∧
    2 ≤ fld (srcCOf w) 5 2 ∧ (modOf w).toNat = 3 ∧ s.fab.epochUsed = false ∧
    ({ g with fence := some ⟨5, 3, some 0⟩ } : Group).fence.any (fun f => f.kind == 5) = true := by decide

/-- The lock word holds the tag of lane 0, and one that holds another tag. -/
theorem witness_AtomicAndLockResults_release : let g := { one with instr := wo 0x81 }; let s := mapped one [(2097155, 0x80)]
    let w := wo 0x81; let v := mapped one [(2097155, 0x81)]
    (Instr.relG gid0 w).wf = true ∧ (Instr.acqG gid0 (wo 0x80)).wf = true ∧ ((Safety.fetched s gid0 g).atomObtain 0 g [(0, 0)] 4).1 = true ∧
    (Safety.fetched s gid0 g).lockWord g 0 = some (.fast 2097152, (Safety.fetched s gid0 g).lockTag 0 g 0) ∧
    (Safety.fetched v gid0 g).lockWord g 0 = some (.fast 2097152, 0x81000000) ∧
    0x81000000 ≠ (Safety.fetched v gid0 g).lockTag 0 g 0 ∧ Memory.wf s.mem.hbm = true := by decide +kernel

theorem witness_AtomicAndLockResults_spec : let w := wo 0x80; let g := { one with instr := w, spec := true }
    (Instr.acqG gid0 w).wf = true ∧ Safety.runs (st { one with spec := true }) gid0 w [srcAOf w, srcAOf w + 1] g ∧ g.acting w ≠ 0#32 ∧
    (Safety.fetched (st { one with spec := true }) gid0 g).mergeStall 0 g = false ∧ g.spec = true :=
  ⟨by decide, runs_gr _ _ _ (by decide) (by decide) (by decide), by decide, by decide, rfl⟩

/-- A request that a remote node has not acknowledged. -/
def outst : Outstanding := { dst := 1, cls := 0, seq := 0, epoch := 0, type := 2, window := 0, pkt := {} }

/-- MFENCE with mode 3 (SYS). -/
def wf3 : BitVec 64 := wo 0x74 ||| BitVec.ofNat 64 (3 * 65536)

theorem witness_FenceAndBarrierResults : let w := wo 0x74; let g := { one with instr := w }
    (Instr.mfence gid0 w).wf = true ∧ (Instr.mfence gid0 wf3).wf = true ∧
    Safety.runs (st one) gid0 w [] g ∧ g.acting w ≠ 0#32 ∧ (Safety.fetched (st one) gid0 g).mergeStall 0 g = false ∧
    (w.extractLsb' 20 2).toNat < 2 ∧ (modOf w).toNat ≠ 3 ∧ (modOf wf3).toNat = 3 ∧ (wf3.extractLsb' 20 2).toNat < 2 ∧ (st one).fab.epochUsed = false ∧
    (let f : Fence := ⟨0, 3, some 0⟩; let h := { one with status := .fence, fence := some f };
      (st h).group? 0 = some h ∧ f.kind ≠ 4 ∧ (st h).unacked 0 = [] ∧
      ({ st h with fab.outstanding := [outst] } : State).unacked 0 ≠ []) ∧
    (let h := { one with status := .fence, fence := some ⟨0, 3, none⟩ }; (st h).group? 0 = some h ∧ h.async = [] ∧
      ({ h with async := [{ cause := 1 }] } : Group).async = [{ cause := 1 }]) := by
  refine ⟨by decide, by decide, runs_gr _ _ _ (by decide) (by decide) (by decide), ?_⟩; decide

/-- Station 0 alone belongs to virtual interface 0. -/
def small (s : State) : State := { s with mgmt.dict := [(okey 0x60010 0, 1)] }

theorem witness_FenceAndBarrierResults_barrier : let h := { one with status := .barrier true }
    (small (st h)).group? 0 = some h ∧ (small (st h)).barrierComplete 0 h true = true := by decide +kernel

theorem witness_IssueToEngines : let w := wo 0x90; let g := { one with instr := w }; let s := { st one with mem.store := [(0, 7)] }
    (Instr.mxIssue gid0 w).wf = true ∧ Safety.runs s gid0 w [srcAOf w] g ∧ lowest g.active = some 0 ∧ (g.acting w).getLsbD 0 = true ∧
    (Safety.fetched s gid0 g).checkDesc 0 g (g.reg 0 (srcAOf w)).toNat = .ok 7 ∧ (s.core 0).waiting < 8 ∧
    g.mxTok.get 0 (tokenOf w) ≠ 63 ∧ ({ one with mxTok := [(0, 63)] } : Group).mxTok.get 0 (tokenOf w) = 63 := by
  refine ⟨by decide, ⟨one, by decide, by decide, rfl, by decide, by decide⟩, ?_⟩; decide +kernel

/-- A stream of one row of 8 zero bytes. -/
def stream : Nat := 3 * 2 ^ 12 + 2 ^ 336 + 8 * 2 ^ 352

theorem witness_IssueToEngines_stream : let g := { one with instr := wo 0x93 }
    let s := { st one with mem.store := (List.range 64).filterMap (fun i =>
      let b := BitVec.ofNat 8 (stream >>> (8 * i)); if b = 0 then none else some (i, b)) }
    (Instr.dmaStart gid0 (wo 0x93)).wf = true ∧ Safety.runs s gid0 (wo 0x93) [srcAOf (wo 0x93)] g ∧ (g.reg 0 (srcAOf (wo 0x93))).toNat % 64 = 0 ∧
    (g.reg 0 (srcAOf (wo 0x93))).toNat + 64 ≤ scratchBytes ((Safety.fetched s gid0 g).layoutOf 0) ∧
    leNat ((Safety.fetched s gid0 g).storeView 0 false 0 64) = stream ∧ badStream stream = false ∧
    streamRange (scratchBytes (s.layoutOf 0)) stream = none ∧ (s.cluster 0).freeSlot = some 0 ∧
    (s.cluster 0).slotsOf 0 < (Safety.fetched s gid0 g).streamsOf g ∧ g.dmaTok.get 0 (tokenOf (wo 0x93)) ≠ 63 := by
  refine ⟨by decide, ⟨one, by decide, by decide, rfl, by decide, by decide⟩, ?_⟩; decide +kernel

def dslot (d : Nat) : DmaSlot := { desc := BitVec.ofNat 512 d, gid := 0, token := 0 }

theorem witness_TransferResults : (∀ m : Fin 4, smMode (m.val * 4096) = m.val) ∧
    ({ clusters := [(0, { dma := [(0, dslot 0)] })] } : State).slot? 0 0 = some (dslot 0) ∧
    chunkAt (2 ^ 336 + 8 * 2 ^ 352) 8 = none ∧ smMode stream = 3 ∧
    (let d := { dslot 0 with written := true }; let g := { one with status := .dmaWait 0, dmaTok := [(0, 1)] };
      let s : State := { groups := [(0, g)], clusters := [(0, { dma := [(0, d)] })] };
      s.slot? 0 0 = some d ∧ s.group? d.gid = some g ∧ g.status = .dmaWait d.token ∧ g.dmaTok.get 0 d.token = 1) := by decide +kernel

theorem witness_TransferResults_turns : (chunkAt (2 ^ 336 + 8 * 2 ^ 352) 0).map (fun c => (c.reads, c.writes)) =
      some ([⟨false, 0, 8⟩], [⟨false, 0, 8⟩]) ∧
    (chunkAt stream 0).map (fun c => (c.reads, c.writes, c.step)) = some ([], [⟨false, 0, 8⟩], 8) := by decide +kernel

/-- A prefetch of 8 bytes of global address 0. -/
def ahead : Nat := 2 * 2 ^ 12 + 2 ^ 9 + 2 ^ 7 + 2 ^ 336 + 8 * 2 ^ 352

theorem witness_TransferResults_prefetch : gform 0 = .local 0 ∧
    (let s := mapped one []; let d := dslot ahead; let c := (chunkAt ahead 0).getD ⟨[], [], 0⟩
    (chunkAt d.desc.toNat d.progress).map (fun c => (c.reads, c.writes, c.step)) = some ([⟨true, 0, 8⟩], [], 8) ∧
    smMode ahead = 2 ∧ smWrites ahead = false ∧ smCache ahead = true ∧ s.translate d.ctx 0 .load = .ok (.fast 2097152) ∧
    s.poisoned (.fast 2097152) = false ∧
    (State.obtainAll 0 (ctxVi d.ctx) (.dma 0) (s.chunkReqs 0 d c false) d.got (s.demandAll 0 (s.chunkDemands 0 d c))).1 = true) :=
  ⟨rfl, by decide +kernel⟩

theorem witness_KernelsAndGroupsStart : let s := small (st one); s.launch? 0 = some laun ∧ (s.logicalOf 0 1).isSome = true ∧
    (s.cluster 1).ctx ≠ some 0 ∧ s.groups.any (fun g => clusterKeyOf g.1 == 1) = false ∧ (s.cluster 1).cond = none ∧
    laun.stopped = false ∧ (s.core 4).kernel = none ∧ s.residents 4 = [] ∧
    (let u := { s with clusters := [(1, { ctx := some 0 })] }; u.clusterReady 1 0 = true) := by decide +kernel

theorem witness_KernelsAndGroupsStart_group :
    let s : State := { small (st one) with groups := [], clusters := [(0, { ctx := some 0 })], cores := [(0, { kernel := some 0 })] };
    s.launch? 0 = some laun ∧ 0 < laun.groups ∧ laun.started.contains 0 = false ∧ 0 < 4 * s.clusterCount 0 ∧ s.placeOf 0 0 = some (0, 0) ∧
    s.kernelOf laun = some kern ∧ s.health.absent.contains 0 = false ∧ s.freeGroup 0 = some 0 ∧ (s.core 0).kernel = some 0 ∧
    s.clusterReady 0 0 = true ∧ condFits (s.cluster 0) laun = true ∧
    (s.residents 0).length < groupCapacity (roundNreg kern.nreg) := by decide +kernel

/-- The entry of a started command with opcode `op` and operand bits `a`. -/
def cmd (op a : Nat) : Cmd := { n := 0, entry := BitVec.ofNat 512 (op + a * 2 ^ 64), stage := .started }

/-- Context queue 0 and the admin queue of function 0, each with that command. -/
def withCmd (s : State) (op a : Nat) : State :=
  { s with host.queues := [(0, { cmds := [cmd op a] }), (16384, { cmds := [cmd op a] })] }

/-- A fault record. -/
def rec0 : FaultRec := { info := { cause := 1 }, seq := 0, time := 0, pace := 0, active := 1, pc := 0, layer := 0, op := 0, ctx := 0, gid := 0, mdepth := 0, mxCount := 0, instr := 0 }

theorem witness_GroupsAndKernelsEnd : let g := { one with status := .exiting }
    (st g).group? 0 = some g ∧ (st g).groupUnacked 0 = false ∧ (st g).launch? 0 = some laun ∧
    atBoundary { one with async := [{ cause := 1 }] } = true ∧
    (let h := { one with selfWait := { armed := true } }; let s := { st h with clock.dieAcc := [(0, 65536 * 6400)] };
      65536 ≤ s.selfWaitCount 0 h ∧ atBoundary h = true ∧ h.async = []) ∧
    (let p := { one with status := .parked, record := some rec0 }; let s := withCmd (st p) 0x14 0;
      Safety.started s ref0 0x14 (cmd 0x14 0) ∧ s.parkedWith (s.cmdCtx ref0) ((cmd 0x14 0).arg 0 16) = some 0 ∧
      (cmd 0x14 0).arg 16 3 ≤ 3) ∧
    (∀ m : Fin 4, (st { one with status := .parked, record := some rec0, replay := some (m.val, ref0) }).replaying 0 m.val =
      some { one with status := .parked, record := some rec0, replay := some (m.val, ref0) }) ∧ rec0.info.async = false ∧
    (let p := { one with status := .parked, record := some rec0, replay := some (0, ref0) }; let s := withCmd (st p) 0x14 0;
      s.replaying 0 0 = some p ∧ p.replay = some (0, ref0) ∧ s.cmd? ref0 = some (cmd 0x14 0)) := by
  simp only [Safety.started]; decide +kernel

theorem witness_GroupsAndKernelsEnd_reissue :
    let g := { one with status := .parked, replay := some (2, ref0), removed := [(0, 0)] }; let s := { st g with mem.store := [(0, 7)] };
    s.replaying 0 2 = some g ∧ s.checkDesc 0 g 0 = .ok 7 ∧ (s.core 0).waiting < 8 ∧ g.mxTok.get 0 0 ≠ 63 := by decide +kernel

theorem witness_GroupsAndKernelsEnd_launch :
    let l := { laun with ended := [0] }; let s := withCmd { host := { launches := [(0, l)] } } 0x12 0
    s.launch? 0 = some l ∧ s.launchQuiet 0 l = true ∧ s.launchResolved l = true ∧ l.aborters = [] ∧ s.cmd? l.cmd = some (cmd 0x12 0) ∧
    (let m := { l with aborters := [admin0] }; let t := withCmd { host := { launches := [(0, m)] } } 0x12 0;
      t.launchQuiet 0 m = true ∧ t.launchResolved m = true ∧ admin0 ≠ m.cmd ∧ t.cmd? m.cmd = some (cmd 0x12 0) ∧
      t.cmd? admin0 = some (cmd 0x12 0) ∧ (t.host.launches.erase 0).any (fun x => x.2.aborters.contains admin0) = false) := by decide +kernel

/-- A cluster that merges one block of the cluster store, and one that merges a block of a page while the fast memory is regulated. -/
theorem witness_GroupsAndKernelsEnd_merge : let e : ShadowEntry := ⟨false, 0, [(0, 1)]⟩; let f : ShadowEntry := ⟨true, 0, [(0, 1)]⟩
    let s : State := { mapped one [] with clusters := [(0, { ctx := some 0, merging := true, shadow := [e] })] }
    let t := regulated { mapped one [] with clusters := [(0, { ctx := some 0, merging := true, shadow := [f] })] }
    (s.cluster 0).merging = true ∧ (State.obtainAll 0 0 .other (s.mergeReqsOf 0 [e]) [] (s.endWaits 0 .other)).1 = true ∧
    s.specReads 0 = false ∧
    (t.cluster 0).merging = true ∧ (State.obtainAll 0 0 .other (t.mergeReqsOf 0 [f]) [] (t.endWaits 0 .other)).1 = false := by decide +kernel

theorem witness_GroupsAndKernelsEnd_discard : let x : SpecCond := { kind := 2, tag := 0, object := 0, value := 0 }
    let l := { laun with cond := some x }; let s := withCmd { host := { launches := [(0, l)] } } 0x15 0
    Safety.started s ref0 0x15 (cmd 0x15 0) ∧ s.taggedWith (s.cmdCtx ref0) ((cmd 0x15 0).arg 0 16) 1 = [] ∧
    0 ∈ s.taggedWith (s.cmdCtx ref0) ((cmd 0x15 0).arg 0 16) 2 ∧ s.launch? 0 = some l := by
  simp only [Safety.started]; decide +kernel

/-! ### The matrix unit -/

/-- A matrix command in its stage. -/
def mx (d : Nat) (g : MxStage) : MxCmd := { desc := BitVec.ofNat 512 d, addr := 0, group := 0, token := 0, stage := g }

theorem witness_MultiplyResults : (∀ o : Fin 2, ({ queue := [{ mx o.val .head with cell := some 0 }] } : Core).startable [o.val] =
      some (0, { mx o.val .head with cell := some 0 })) ∧
    ({ queue := [mx 4 .head] } : Core).startable [4] = some (0, mx 4 .head) := by decide +kernel

theorem witness_MatrixQueueResults : ({ queue := [mx 2 .queued] } : Core).headIdx = some 0 ∧ needsCell 2 = false ∧
    (let c : Core := { queue := [mx 0 .head], cell0 := { state := .ready, claim := 1 } };
      c.headIdx = some 0 ∧ c.setHeld (mx 0 .head) = false ∧ needsCell 0 = true ∧ dWsrc 0 = false ∧ c.findTile (dTile 0) = .cell 0 ∧
      (c.cell 0).needScale = dBswEn 0) ∧
    State.reset.conv.state ≠ .noticed ∧ State.reset.conv.state ≠ .halted ∧
    (let d := 2 ^ 55; let c : Core := { queue := [mx d .head] }; c.freeCell = some 0 ∧ needsCell d = true ∧ dWsrc d = true ∧
      c.headIdx = some 0 ∧ (mx d .head).wantsLocal = true ∧ ((c.queue.take 0).drop 0).any (·.wantsLocal) = false) ∧
    (∀ o : Fin 8, o.val = 2 ∨ o.val = 6 ∨ o.val = 7 → ({ queue := [mx o.val .head] } : Core).startable [o.val] = some (0, mx o.val .head)) := by
  decide +kernel

theorem witness_EpilogueResults : (let d := 3 + 2 * 2 ^ 51; let c : Core := { queue := [mx d .head] }; c.startable [3] = some (0, mx d .head) ∧ dDest d = 2) ∧
    (let c : Core := { queue := [mx 3 .head] }; c.startable [3] = some (0, mx 3 .head) ∧ dDest 3 ≠ 2) ∧
    (∀ k : Fin 2, let d := 3 + (k.val + 1) * 2 ^ 51; let c : Core := { queue := [mx d .multiplied] };
      c.queue.findIdx? (·.awaitsEpilogue) = some 0 ∧ c.queue[0]? = some (mx d .multiplied) ∧ epilogueFree (c.queue.take 0) = true ∧
      dDest d = k.val + 1 ∧ State.reset.shadowed 0 (mx d .multiplied).spec = false ∧ (mx d .multiplied).void = false) ∧
    (let c : Core := { queue := [mx 3 .epilogued] }; c.queue.findIdx? (fun x => x.stage == .epilogued) = some 0 ∧
      accTarget {} (c.queue.take 0) 3 = some (dAccAddr 3, dAccPitch 3) ∧ accOverrun (geoOf 3) (dAccAddr 3) (dAccPitch 3) = false ∧
      ({} : Cluster).final.contains 0 = false) ∧
    (let g := { one with status := .mxWait 0, mxTok := [(0, 1)] }; (st g).group? 0 = some g ∧ g.mxTok.get 0 0 = 1 ∧
      (mx 3 .accDone).stage = .accDone) := by decide +kernel

/-- A speculative epilogue in a cluster whose shadow has room. -/
theorem witness_EpilogueResults_shadow : let x := { mx 3 .head with spec := true }
    let s : State := { clusters := [(0, condCluster)], host.ctxs := [(0, { layout := 0xFF00 })], cores := [(0, { queue := [x] })] }
    (s.core 0).startable [3] = some (0, x) ∧ s.shadowed 0 x.spec = true ∧ x.void = false ∧ 64 ≤ s.shadowFree x.ctx 0 := by decide +kernel

/-! ### Arbiters and registers -/

def arbs (x : Arb) : State := { arb.insts := [(instKey .storeBank 0, x)] }

theorem witness_ArbitersDecide : 0 < requesters .storeBank ∧ unitFits .storeBank 8 = false ∧ unitFits .storeBank 1 = true ∧ unitFits .storeBank 4 = true ∧
    ArbClass.storeBank ≠ .hbmQueue ∧ (State.reset.arb.insts.get {} (instKey .storeBank 0)).heads = [] ∧
    (let h : Head := ⟨0, 0, 4, 0⟩; let x := ((arbs { heads := [h] }).arb.insts.get {} (instKey .storeBank 0));
      x.heads = [h] ∧ x.running = none ∧ x.emergency = false ∧ x.closed = false ∧ max x.idleFrom (nextCycle .storeBank h.arrived) ≤ 1 ∧
      1 + 1 < max x.idleFrom (nextCycle .storeBank h.arrived) + h.beats) ∧
    (let x : Arb := { heads := [⟨0, 0, 4, 0⟩], count := 63 }; oldest (x.heads.filter (fun y => decide (y.arrived < 1))) = some ⟨0, 0, 4, 0⟩ ∧
      (State.reset.arb.fairReg 0 .storeBank).at .storeBank 1 ≤ x.count + 1) ∧
    (let x := (arbs { backoff := [(0, ⟨2, 0, 2⟩)] }).arb.insts.get {} (instKey .storeBank 0);
      x.heads = [] ∧ x.running = none ∧ x.emergency = false ∧ x.backoffAt .storeBank 0 (2 ^ 20) = 0 ∧ (x.backoff.get {} 0).last ≠ 0) ∧
    (let g : Grant := ⟨0, 4, 0, 0⟩; let x := (arbs { running := some g }).arb.insts.get {} (instKey .storeBank 0);
      x.emergency = false ∧ x.running = some g ∧ x.closed = false ∧ 1 < g.since + g.left ∧ g.since < 1 ∧
      0 < x.emergencyRoom .storeBank 1 ∧ x.emergencyRoom .fabricEgress 1 = 0 ∧
      (let y := { x with heads := [⟨1, 0, 4, 0⟩] }; y.running = some g ∧ 1 < g.since + g.left)) ∧
    (let x := (arbs { running := some ⟨0, 4, 0, 0⟩, emergency := true, since := 1, until_ := 2 }).arb.insts.get {} (instKey .storeBank 0);
      x.emergency = true ∧ x.running = some ⟨0, 4, 0, 0⟩ ∧ x.since < 2 ∧ 2 ≤ x.until_) ∧
    carries 0 .storeBank = true ∧ carries 8 .fabricEgress = true ∧ 4 ≤ fld 4 0 8 ∧ fld 64 0 8 ≤ 64 ∧ fld 3 0 8 < 4 ∧ 64 < fld 65 0 8 := by
  decide +kernel

/-- A pseudo-channel of HBM in a training window holds requests, and one outside does not. -/
theorem witness_ArbitersDecide_hbm : 1024 < requesters .hbmQueue ∧ unitFits .hbmQueue 8 = true ∧ State.reset.holds 0 = false ∧
    (let s : State := { mem.pchan := [(0, { window := some .periodic })] }; s.holds 0 = true ∧ (s.pchan 0).held.length < 256) ∧
    (let s : State := { mem.pchan := [(0, { window := some .periodic, held := List.replicate 256 ⟨1024, 0, 4, 0⟩ })] };
      s.holds 0 = true ∧ 256 ≤ (s.pchan 0).held.length) := by decide +kernel

theorem witness_RegisterWriteResults : (State.reset.objInfo 0).map (·.acc) = some .ro ∧
    (let s : State := { boot.phase := .started }; (s.objInfo 0x20).map (·.acc) = some .rw ∧ s.serves = true ∧ s.recovering = false ∧ s.objAccepts 0x20 0 = true ∧
      (s.objInfo 0x20).map (fun x => (x.indexOk 0x20 0, decide (0 < 256 ^ x.size))) = some (true, true) ∧
      (s.objInfo 0x21).isSome = true ∧ s.rangeOk 0x21 0 16 = true ∧ s.rangeOk 0x21 0 15 = false ∧
      s.hasVi 0 = true ∧ s.barOpen = true ∧ keyStateOn s = false) ∧
    (let s : State := { boot.phase := .started, mgmt.dict := [(okey 0x90000 0, 1)] }; keyStateOn s = true ∧ s.serves = true ∧ s.recovering = false ∧
      (s.objInfo 0x40010).map (·.acc) = some .rwg) ∧
    carries 0 .storeBank = true ∧ 8 * 0 < requesters .storeBank ∧ State.reset.mailReaches 0x40 = true := by decide +kernel

/-! ### The Grist Conveyor and the wort line -/

def run0 : State := { conv.state := .running }
/-- A member of a span of 2, controlling marker master or not. -/
def span2 (i : Nat) (k : ConvState) : State := { conv.state := k, conv.span := { n := 2, index := i } }

theorem witness_RevolutionsMarkersAndHalts : run0.moving = true ∧ run0.connectorDead 0 = false ∧
    ({ span2 0 .running with health.spanSpared := [(0, List.range 9)] } : State).connectorDead 0 = true ∧ run0.conv.controls = true ∧
    (∀ i : Fin 2, (span2 i.val .running).moving = true ∧ (span2 i.val .running).conv.span.n ≠ 1 ∧
      ((span2 i.val .running).conv.controls = true ↔ i = 0)) ∧ (span2 1 .running).conv.mismatch = false ∧
    (span2 1 .running).conv.halt = none ∧ (span2 1 .running).conv.span.index < 64 ∧ (run0.station 127).unsure = false ∧
    (let t : State := { span2 1 .running with conv.entering := some ({ haltNotice := true, rev := 1 }, false) };
      t.moving = true ∧ t.conv.controls = false ∧ t.conv.mismatch = false ∧ t.conv.halt = none ∧ t.conv.rev ≤ 0) ∧
    run0.conv.span.index < 64 ∧ run0.conv.markerBad = false ∧
    (let t : State := { run0 with conv.halt := some (0, 1), conv.haltRequested := true }; t.moving = true ∧ 1 ≤ t.conv.rev + 1) ∧
    ({ run0 with conv.haltRequested := true } : State).conv.halt = none ∧
    (statusOf ({ status := [2] } : Marker) 0).getLsbD 1 = true ∧ (statusOf ({ status := [8] } : Marker) 0).getLsbD 3 = true ∧
    (∀ i : Fin 2, (statusOf {} i.val).getLsbD 1 = false ∧ (statusOf {} i.val).getLsbD 2 = false) := by decide +kernel

theorem witness_RevolutionsMarkersAndHalts_commands : (∀ i : Fin 2, Safety.started (withCmd (span2 i.val .running) 0x24 0) ref0 0x24 (cmd 0x24 0)) ∧
    Safety.started (withCmd (span2 0 .noticed) 0x24 0) ref0 0x24 (cmd 0x24 0) ∧
    Safety.started (withCmd State.reset 0x24 0) ref0 0x24 (cmd 0x24 0) ∧
    (let s := withCmd { conv.state := .halted } 0x25 0; Safety.started s ref0 0x25 (cmd 0x25 0) ∧ s.conv.state = .halted ∧
      s.conv.span.n = 1 ∧ s.conv.namedStep = none ∧ s.steps.open_ = none ∧ s.steps.evalReq = []) ∧
    (let s := withCmd (span2 0 .broken) 0x25 0; Safety.started s ref0 0x25 (cmd 0x25 0) ∧ s.conv.state = .broken ∧
      s.conv.span.n ≠ 1 ∧ s.conv.locked = false) ∧
    64 = State.reset.convClock ∧ 64 = (span2 0 .running).convClock := by
  simp only [Safety.started]; decide +kernel

def link2 : State := { span2 0 .forming with pins.cables := [(0, { lanesUp := true }), (1, { lanesUp := true })] }

theorem witness_SpansFormAndBreak : ({ conv.state := .halted } : State).spanAccepted (2 ^ 32) = true ∧ State.reset.spanAccepted 0 = false ∧
    (∀ d : Fin 2, (link2.pins.cables.get {} d.val).lanesUp = true ∧ 32 ≤ link2.liveLanes d.val) ∧ link2.conv.state = .forming ∧
    (∀ d : Fin 2, (span2 0 .running).connectorDead d.val = false) ∧ 
    ({ kind := 1, tileId := 1 } : Slot).kind ≠ 0 ∧ ({ kind := 1, tileId := 1 } : Slot).tileId ≠ ({} : Slot).tileId ∧
    (0 + 1) % link2.conv.span.n = 1 ∧ (span2 0 .running).conv.span.n ≠ 1 ∧ (span2 0 .running).moving = true ∧
    2 < (span2 0 .running).conv.span.slots ∧
    (let n : Neighbour := { trained := true }; let t : State := { span2 1 .forming with conv.entering := some ({ rev := 5 }, false), conv.lastMarker := some 4, conv.goodMarkers := 3, conv.upNbr := n, conv.downNbr := n };
      t.conv.state = .forming ∧ t.conv.controls = false ∧ ({ rev := 5 } : Marker).spanId = t.conv.span.spanId ∧
      t.conv.lastMarker = some (({ rev := 5 } : Marker).rev.toNat - 1) ∧ t.conv.upNbr.trained = true ∧ t.steps.brokenStep = none) ∧ (span2 0 .running).conv.controls = true ∧ (span2 0 .halted).conv.state = .halted ∧
    ({ mgmt.dict := [(okey 0x30012 0, 1)] } : State).obj 0x30012 0 = 1 := by decide +kernel

/-- A slot that enters with the CRC of its words, and one that does not. -/
theorem witness_SpansFormAndBreak_crc (y : Slot) : (slotWithCrc y (slotCrc y)).bad = false ∧
    (slotWithCrc y (slotCrc y + 1)).bad = true := by
  simp [slotWithCrc]

/-- An injector entry and a station entry for tile 0 in logical slot 0, and a program that holds them with one run. -/
def inj0 : InjEntry :=
  { tileId := 0, revOffset := 0, slot := 0, genSel := 0, residency := 4, shared := false, format := 1, orient := false, pgroup := 0, gristA := 0, genExpl := 0 }
def sta0 : StaEntry :=
  { tileId := 0, revOffset := 0, slot := 0, genSel := 0, genExpl := 0, lstation := 0, clusters := 1, cores := 1, uses := 1, kind := 0, scFirst := 0, scTwo := false, scBlock := 0, scDir := false, scTile := 0, sharedRef := false }
def prog0 : ConvProg :=
  { spanN := 1, slots := 1, stations := 1, stepRevs := 10, inj := [inj0], sta := [sta0], map := [2], runs := [{ step := 0, startRev := 1, gen := 0 }], index := [(0, 1)] }

/-- The conveyor moves, and context 0 has that program loaded. -/
def conv0 (c : Ctx) (l : List Host.Cell) : State :=
  { small (mapped one l) with host.ctxs := [(0, { c with pt := 1 })], conv.state := .running }
def withProg : State := conv0 { conv := some prog0 } []

def fill : InjSlot := { ctx := 0, entry := 0, tileId := 0, gen := 0, src := 2097152, last := 4 }
def tile0 : Slot := { kind := 1, format := 1, revLeft := 4 }
def kiln0 (f : InjSlot) : State :=
  { withProg with conv.inj := [(0, { filled := [(2, f)] })], kilns := [(0, { rewrites := [(0, 2)] })] }

theorem witness_InjectorsServeTheirSlots :
    ({ withProg with conv.marker := { haltNotice := true } } : State).conv.marker.haltNotice = true ∧ withProg.moving = true ∧
    0 < withProg.conv.span.slots ∧
    (let s : State := { withProg with conv.inj := [(0, { filled := [(2, fill)] })], conv.slots := [(2, tile0)] };
      2 < s.conv.span.slots ∧ Bank.find? (s.injector 0).filled 2 = some fill ∧ (s.injector 0).noticed = false ∧
      (s.gristSlot 2).bad = false ∧ (s.gristSlot 2).kind = 1 ∧ formatFits 1 (s.gristSlot 2).format.toNat = true ∧
      3 ≤ (s.gristSlot 2).revLeft.toNat) ∧
    (let y : Staged := ⟨0, 0, inj0.expected 0, false, []⟩; let s : State := { withProg with conv.inj := [(0, { staged := [y], keptRev := 1 })] };
      s.gristSlot 2 = {} ∧ Bank.find? (s.injector 0).filled 2 = none ∧ (s.injector 0).again = [] ∧
      s.dueEntries 0 2 1 = [(0, 0, { step := 0, startRev := 1, gen := 0 }, inj0)] ∧
      (s.injector 0).stagedTile 0 0 (inj0.expected 0) = some y ∧ y.ue = false ∧
      s.gristAt 0 (bufferOf 0 (inj0.expected 0)) = some 2097152 ∧ s.gristLost 0 0 = false ∧
      s.injectable 0 0 inj0 (inj0.expected 0) 2097152 = .good) ∧
    withProg.convOf 0 = some prog0 ∧ withProg.injEntry 0 0 = some inj0 ∧ withProg.stackOf 0 0 = some 0 ∧
    (withProg.injector 0).staged.length < 64 ∧ (withProg.injector 0).stagedTile 0 0 (inj0.expected 0) = none ∧
    (let t : State := { withProg with kilns := [(0, { rewrites := [(0, 2)] })] };
      (t.kilnAt 0).rewrites.contains (0, 2) = true ∧ t.power.brown = false ∧
      Bank.find? (t.injector 0).filled 2 = none ∧ (t.injector 0).again = []) := by decide +kernel

/-- An update map entry of tile 0 in the buffer at address 0. -/
def map0 : MapEntry := { tileId := 0, master := 0, gristA := 0, scaleA := 0, exportA := 0, partN0 := 0, parts := 4, scFirst := 0 }

theorem witness_InjectorsServeTheirSlots_rewrite :
    let s : State := { kiln0 { fill with rewriting := true } with host.ctxs := [(0, { pt := 1, upd := some { entries := [map0] } })] };
    s.entriesAt 2097152 = [(0, map0)] ∧ s.entryLost (0, map0) = [] ∧ (s.kilnAt 0).rewrites.contains (0, 2) = true ∧
    s.power.brown = false ∧ (s.injector 0).filled = [(2, { fill with rewriting := true })] ∧
    s.unitsWait 0 (s.entryUnits 0 [(0, map0)]) {} = false := by decide +kernel

def claim0 : Claim := { ctx := 0, entry := 0, e := sta0, slot := 2, rev := 0, gen := 0, clusters := 1, cells := [(0, 0, 0, 0)] }
def held0 (c : Claim) : State := { withProg with conv.stn := [(0, { claims := [c] })], conv.slots := [(2, tile0)] }

theorem witness_LatchesAreClaimedAndMade : let s := withProg
    s.moving = true ∧ s.convOf 0 = some prog0 ∧ prog0.sta[0]? = some sta0 ∧ s.phys prog0 sta0.sharedRef sta0.slot = some 2 ∧
    (s.stationsOf (ctxVi 0))[sta0.lstation]? = some 0 ∧ s.stopsFiring (s.station 0) (s.claimRev 0 2) = false ∧
    prog0.dueRun 0 sta0 (s.claimRev 0 2) = some { step := 0, startRev := 1, gen := 0 } ∧ sta0.sharedRef = false ∧
    s.tileLost 0 = false ∧ bitsOf sta0.clusters = [0] ∧ coresOf sta0 = [0] ∧ (s.stationClusters 0)[0]? = some 0 ∧
    s.health.absent.contains 0 = false ∧ s.power.stopped.contains (0 / 136) = false ∧ (s.station 0).claims.length < 4 ∧
    sta0.clusters ≠ 0 ∧
    (bitsOf sta0.clusters).length + (s.station 0).retry.length ≤ 64 ∧
    (s.core 0).freeCell.isSome = true ∧ (s.core 0).joinCell sta0 = none ∧
    (let q := { prog0 with runs := [] }; q.dueRun 0 sta0 0 = none) ∧
    (let t := held0 claim0; t.moving = true ∧ (t.station 0).claims = [claim0] ∧ claim0.rev = (t.station 0).keptRev ∧
      claim0.clusters ≠ 0 ∧ judgeSlot (t.gristSlot 2) claim0.e claim0.gen = .match_ ∧ t.mayLatch sta0 0 0 = true ∧
      (t.gristSlot 2).revLeft ≠ 1 ∧ (bitsOf claim0.clusters).length + (t.station 0).retry.length ≤ 64) := by decide +kernel

/-- A captured claim, the copy of cluster 0 granted at the latch arbiter. -/
theorem witness_LatchesAreClaimedAndMade_copy : let c := { claim0 with captured := some tile0, copies := 1 }
    let s : State := { held0 c with arb.insts := [(instKey .stationLatch 0, { running := some ⟨0, 64, 0, 0⟩ })] }
    (s.station 0).claims = [c] ∧ c.copies = 1#8 <<< 0 ∧ c.dropped = none ∧ (s.arbOf .stationLatch 0).running = some ⟨0, 64, 0, 0⟩ ∧
    (s.arbOf .stationLatch 0).emergency = false ∧ (s.arbOf .stationLatch 0).closed = false ∧ (s.latchEnded 0 0 c.id).isSome = true ∧
    ({ cell0 := { state := .claimed } } : Core).claims_ 0 0 = true ∧ (s.core 0).claims_ 0 0 = false := by
  decide +kernel

/-- The bytes of a program header in virtual address 0 of context 0. -/
def imageOf (k n : Nat) : List Host.Cell := (List.range k).filterMap (fun i =>
  let b := BitVec.ofNat 8 (n >>> (8 * i)); if b = 0 then none else some (2097152 + i, b))
def image (n : Nat) : List Host.Cell := imageOf 64 n
def header (magic : Nat) : Nat := magic * 2 ^ 480 + 2 ^ 472 + if magic = 0x4B494C4E then 0 else 2 ^ 464 + 2 ^ 447 + 10 * 2 ^ 320 + 64 * 2 ^ 192
/-- With a command on that image, 16 slots of each line allocated. -/
def loading (op magic : Nat) (c : Ctx) : State :=
  let s := withCmd (conv0 c (image (header magic))) op (1088 * 2 ^ 64)
  { s with mgmt.dict := [(okey 0x30010 0, 16), (okey 0x30013 0, 16), (okey 0x60010 0, 1)] }

/-- Those bytes with one record behind the header, in an object of which the host holds a reference or not. -/
def naming (s : State) (n : Nat) (held : Bool) : State :=
  { s with mem.hbm := hbm0 ++ imageOf 96 n, host.objects := [(1, obj0), (2, { obj2 with kind := 1, hostRef := held })] }
/-- A header with one injector entry behind it: residency 1, format 1, its tile at address 0. -/
def injImage : Nat := header 0x47524953 + 64 * 2 ^ 256 + 2 ^ 384 + (2 ^ 161 + 2 ^ 152) * 2 ^ 512

theorem witness_ProgramsAreLoadedAndUnloaded_named : ∀ held : Bool, let s := naming (loading 0x20 0x47524953 {}) injImage held
    let c := cmd 0x20 (1088 * 2 ^ 64)
    Safety.started s ref0 0x20 c ∧ s.inRange 0 (c.arg 0 48) (c.arg 64 32) .load = true ∧
    (let b := s.readVirt 0 (c.arg 0 48) (c.arg 64 32); badMagic b 0x47524953 = false ∧ convEntriesFit b = true ∧
      s.convCode 0 (parseConv b) false = 0 ∧ s.convObjects 0 (parseConv b) = [2] ∧
      (s.convObjects 0 (parseConv b)).any s.objStale = !held) := by
  simp only [Safety.started]; decide +kernel

def ret0 : RetProg := { spanN := 1, slots := 1, replicated := false, member := 0, stepRevs := 10, gate := [], rsta := [], map := [2] }

theorem witness_ProgramsAreLoadedAndUnloaded : let s := loading 0x20 0x47524953 {}; let c := cmd 0x20 (1088 * 2 ^ 64)
    Safety.started s ref0 0x20 c ∧ s.cmdCtx ref0 = 0 ∧ s.inRange 0 (c.arg 0 48) (c.arg 64 32) .load = true ∧
    (let b := s.readVirt 0 (c.arg 0 48) (c.arg 64 32); badMagic b 0x47524953 = false ∧ convEntriesFit b = true ∧
      s.convCode 0 (parseConv b) false = 0 ∧ (s.convObjects 0 (parseConv b)).any s.objStale = false ∧
      ({ s with conv.span := { n := 2 } } : State).convCode 0 (parseConv b) false = 0x37) ∧
    s.ctx? 0 = some { pt := 1 } ∧ s.moving = true ∧
    (let t := loading 0x20 0 {}; badMagic (t.readVirt 0 (c.arg 0 48) (c.arg 64 32)) 0x47524953 = true) := by
  simp only [Safety.started]; decide +kernel

theorem witness_ProgramsAreLoadedAndUnloaded_unload :
    (let s := loading 0x21 0 {}; Safety.started s ref0 0x21 (cmd 0x21 (1088 * 2 ^ 64)) ∧ s.convOf (s.cmdCtx ref0) = none) ∧
    (let s := loading 0x21 0 { conv := some prog0 }; Safety.started s ref0 0x21 (cmd 0x21 (1088 * 2 ^ 64)) ∧
      s.ctx? (s.cmdCtx ref0) = some { pt := 1, conv := some prog0 } ∧ s.moving = true) := by
  simp only [Safety.started]; decide +kernel

theorem witness_ProgramsAreLoadedAndUnloaded_return : let c := cmd 0x22 (1088 * 2 ^ 64)
    (let s := loading 0x22 0 {}; Safety.started s ref0 0x22 c ∧ (s.ctx? (s.cmdCtx ref0)).bind (·.convNow) = none) ∧
    (let s := loading 0x22 0x574F5254 { conv := some prog0 }; let x : Ctx := { pt := 1, conv := some prog0 };
      Safety.started s ref0 0x22 c ∧ s.cmdCtx ref0 = 0 ∧ s.ctx? 0 = some x ∧ x.convNow = some prog0 ∧
      s.inRange 0 (c.arg 0 48) (c.arg 64 32) .load = true ∧ s.moving = true ∧
      (let b := s.readVirt 0 (c.arg 0 48) (c.arg 64 32); badMagic b 0x574F5254 = false ∧ convEntriesFit b = true ∧
        s.retCode 0 (parseRet b) prog0 false = 0)) := by
  simp only [Safety.started]; decide +kernel

theorem witness_ProgramsAreLoadedAndUnloaded_update : let c := cmd 0x23 (1088 * 2 ^ 64)
    (let s := loading 0x23 0 {}; Safety.started s ref0 0x23 c ∧ (s.ctx? (s.cmdCtx ref0)).bind (·.retNow) = none) ∧
    (let s := loading 0x23 0x4B494C4E { ret := some ret0 }; let x : Ctx := { pt := 1, ret := some ret0 };
      Safety.started s ref0 0x23 c ∧ s.cmdCtx ref0 = 0 ∧ s.ctx? 0 = some x ∧ x.retNow = some ret0 ∧
      s.inRange 0 (c.arg 0 48) (c.arg 64 32) .load = true ∧
      (let b := s.readVirt 0 (c.arg 0 48) (c.arg 64 32); badMagic b 0x4B494C4E = false ∧ fld (leNat (b.take 64)) 416 32 ≤ 16777216 ∧
        entriesFit b [(fld (leNat (b.take 64)) 320 64, fld (leNat (b.take 64)) 416 32)] = true ∧
        s.updCode 0 ret0 ((recordsAt b (fld (leNat (b.take 64)) 320 64) (fld (leNat (b.take 64)) 416 32)).map mapEntryOf) = 0)) := by
  simp only [Safety.started]; decide +kernel

def mapImage : Nat := header 0x4B494C4E + 64 * 2 ^ 320 + 2 ^ 416 + 2 ^ 37 * 2 ^ 512
def gateZ : GateEntry :=
  { tileId := 0, revOffset := 0, slot := 0, kiln := 0, pgroup := 0, format := 4, owner := 0, kind := 0, waitRevs := 4 }

theorem witness_ProgramsAreLoadedAndUnloaded_mapped : ∀ held : Bool,
    let p := { ret0 with gate := [gateZ] }
    let s := naming { loading 0x23 0x4B494C4E { ret := some p } with mgmt.dict := [(okey 0x30021 0, 1024)] } mapImage held
    let c := cmd 0x23 (1088 * 2 ^ 64)
    Safety.started s ref0 0x23 c ∧ s.inRange 0 (c.arg 0 48) (c.arg 64 32) .load = true ∧
    (let b := s.readVirt 0 (c.arg 0 48) (c.arg 64 32)
     let l := (recordsAt b (fld (leNat (b.take 64)) 320 64) (fld (leNat (b.take 64)) 416 32)).map mapEntryOf
     badMagic b 0x4B494C4E = false ∧ s.updCode 0 p l = 0 ∧ s.mapObjects 0 l = [2] ∧ (s.mapObjects 0 l).any s.objStale = !held) := by
  simp only [Safety.started]; decide +kernel

def gate0 : GateEntry :=
  { tileId := 0, revOffset := 0, slot := 0, kiln := 0, pgroup := 0, format := 4, owner := 0, kind := 0, waitRevs := 4 }
def rsta0 : RstaEntry := { tileId := 0, revOffset := 0, slot := 0, lstation := 0, clusters := 1, accAddr := 0, accPitch := 2, format := 4 }
def run1 : RetRun := { step := 0, startRev := 0, gen := 0 }
def retp (r : RetRun) : RetProg := { ret0 with gate := [gate0], rsta := [rsta0], runs := [r], index := [(0, 1)] }
/-- The conveyor moves, and context 0 has that return program loaded. -/
def withRet (r : RetRun) : State := conv0 { ret := some (retp r) } []
def grad0 (x : Slot) (i : Nat) : State :=
  { withRet run1 with wort.slots := [(2, x)], wort.inj := [(0, [(2, { ctx := 0, entry := 0, step := 0 })])], wort.tally := [(2, { tile := 0, gen := 0, count := 1 })], conv.span := { n := i } }
def grad : Slot := { kind := 2, format := 4, revLeft := 4 }

theorem witness_GradientInjectorsServeTheirSlots : let s := withRet run1
    s.moving = true ∧ 2 < s.conv.span.slots ∧ s.conv.halt = none ∧ (s.gradSlots 0).find? (fun y => y.1 == 2) = none ∧
    (s.parkedSlots 0).find? (fun y => y.n == 2) = none ∧ s.wortSlot 2 = {} ∧
    (s.dueGates 0 2 (s.wort.injRev.get 0 0)).map (fun y => (y.1, y.2.1)) = [(0, 0)] ∧ s.wort.markerBad = false := by decide +kernel

theorem witness_GradientInjectorsServeTheirSlots_meet (i : Fin 2) :
    let t := grad0 { grad with owner := 1, bitmap := BitVec.ofNat 64 i.val } (i.val + 1); let x := t.wortSlot 2; let g : GradSlot := { ctx := 0, entry := 0, step := 0 }
    t.moving = true ∧ 2 < t.conv.span.slots ∧ t.conv.halt = none ∧ t.health.lost.contains (.kiln 0) = false ∧
    (t.gradSlots 0).find? (fun y => y.1 == 2) = some (2, g) ∧ (t.parkedSlots 0).find? (fun y => y.n == 2) = none ∧
    g.retire = false ∧ g.handed = false ∧ t.retOf 0 = some (retp run1) ∧ (retp run1).replicated = false ∧
    (t.kilnAt 0).input.length < 64 ∧ (t.kilnAt 0).park.length + (t.parkedSlots 0).length < parkCapacity ∧ x.kind = 2 ∧ x.bad = false ∧
    wortInvalid x = false ∧ x.revLeft ≠ 0 ∧ t.gradComplete x 2 ((retp run1).expected x.tileId) = decide (i.val = 1) ∧
    ∃ k : Fin (i.val + 1), x.bitmap.getLsbD k = false := by revert i; decide +kernel

theorem witness_GradientInjectorsServeTheirSlots_halt :
    (let t : State := { grad0 grad 1 with conv.halt := some (0, 2) }; t.gradNoticed 0 2 (t.wort.injRev.get 0 0) = true ∧
      gradSlot (t.wortSlot 2) = true ∧ t.conv.span.n = 1 ∧ (t.wortSlot 2).bitmap.getLsbD 0 = false) ∧
    (let t : State := { withRet run1 with wort.parked := [(0, [{ n := 2, x := grad, fromRev := 0 }])] };
      (t.parkedSlots 0).find? (fun y => y.n == 2) = some { n := 2, x := grad, fromRev := 0 } ∧ t.gradSlots 0 = [] ∧ t.wortSlot 2 = {} ∧
      grad.kind = 2) := by decide +kernel

def contrib0 : Contribution := { ctx := 0, entry := 0, step := 0 }
def adds (c : Contribution) : State :=
  { withRet run1 with wort.contrib := [(0, [c]), (1, [c])], wort.slots := [(2, grad)], clusters := [(0, { final := List.range 2048 })] }

theorem witness_StationsAddTheirContributions : let s := withRet run1
    s.retOf 0 = some (retp run1) ∧ s.rstaEntry 0 0 = some rsta0 ∧ (retp run1).dueRun 0 s.conv.rev rsta0 = some run1 ∧
    (s.stationsOf (ctxVi 0))[rsta0.lstation]? = some 0 ∧ (retp run1).indexed rsta0.lstation 0 = true ∧ (s.contribs 0).length < 8 ∧
    8 ≤ (({ s with wort.contrib := [(0, List.replicate 8 contrib0)] } : State).contribs 0).length ∧ run1.waited.contains 0 = false ∧
    ({ run1 with waited := [0] } : RetRun).waited.contains 0 = true ∧
    nextCluster rsta0 contrib0 = some 0 ∧ (s.stationClusters 0)[0]? = some 0 ∧ s.health.absent.contains 0 = false ∧
    (∀ x ∈ subtileUnits rsta0, ((adds contrib0).cluster 0).final.contains x = true ∧ ((adds contrib0).cluster 0).held.contains x = false) ∧
    nextCluster { rsta0 with clusters := 3 } { contrib0 with read := 1 } = some 1 ∧
    (let s := adds contrib0; let t := s.stationCycle 0;
      ((s.onArb .stationLatch 0 (t - 1) (fun x => x.enqueue ⟨0, t, 64, contrib0.id⟩)).latchEnded 0 0 contrib0.id).isSome = true) ∧
    (let s : State := { adds contrib0 with arb.insts := [(instKey .stationLatch 0, { closed := true })] }; let t := s.stationCycle 0;
      ((s.onArb .stationLatch 0 (t - 1) (fun x => x.enqueue ⟨0, t, 64, contrib0.id⟩)).latchEnded 0 0 contrib0.id).isNone = true) ∧
    (let s := adds { contrib0 with asked := true }; (s.latchEnded 0 0 contrib0.id).isNone = true ∧
      (({ s with arb.insts := [(instKey .stationLatch 0, { running := some ⟨0, 64, 0, 0⟩ })] } : State).latchEnded 0 0 contrib0.id).isSome = true) := by
  decide +kernel

theorem witness_StationsAddTheirContributions_add : let c := { contrib0 with armed := true, read := 1 }; let s := adds c
    s.moving = true ∧ 2 < s.conv.span.slots ∧ s.contribs 1 = [c] ∧ s.retOf 0 = some (retp run1) ∧ s.rstaEntry 0 0 = some rsta0 ∧
    (retp run1).map[rsta0.slot]? = some 2 ∧ (retp run1).runs.find? (fun y => y.step == c.step) = some run1 ∧
    run1.startRev + rsta0.revOffset ≤ (s.station 1).wortRev ∧ (s.wortSlot 2).bad = false ∧
    contribMatches (s.wortSlot 2) rsta0 run1.gen = true ∧ c.lateCounted = false ∧ c.lost = false ∧
    (s.station 1).wortUnsure = false ∧ s.wort.markerBad = false ∧
    (let t : State := { s with wort.contrib := [] }; t.contribs 0 = [] ∧ gradSlot (t.wortSlot 2) = true) := by decide +kernel

def live0 : LiveStep := { step := 0, gen := 1 }

theorem witness_VerdictsAreWrittenAndFinal :
    (let s : State := { run0 with verdict.slot1 := { collecting := true }, steps.open_ := some live0 };
      s.moving = true ∧ s.verdict.slot1.collecting = true ∧ s.verdict.crcBad = false ∧ verdictFinal s.verdict.slot1 = false ∧
      s.verdict.held = none ∧ s.steps.deciding = none ∧ s.verdict.openRev ≤ s.slot1Rev ∧ s.stepOf s.verdict.slot1.step = some live0 ∧ live0.abortPending = []) ∧
    (let s : State := { run0 with verdict := { kept := some {}, crcBad := true } };
      s.verdict.kept = some {} ∧ s.moving = true ∧ s.conv.controls = true ∧ s.verdict.crcBad = true) ∧
    verdictFinal { state := 1 } = true ∧ verdictFinal {} = false ∧ ownCause { poisoned := true } ≠ 0 ∧ ownCause {} = 0 ∧
    (∀ i : Fin 1, ({ doneMap := 1 } : Verdict).doneMap.getLsbD i.val = true) ∧
    (∃ i : Fin 1, ({} : Verdict).doneMap.getLsbD i.val = false) := by decide +kernel

/-! ### Memory and Kilns -/

def pch (x : Pchan) : State := { mem.pchan := [(0, x)] }

theorem witness_PseudoChannelsRetryAndMigrate : 0 < requesters .hbmQueue ∧ transferKey ⟨0, 0⟩ = 0 ∧ (State.reset.pchan 0).escalated.contains (transferKey ⟨0, 0⟩) = false ∧
    (State.reset.pchan 0).retries.get 0 0 < 3 ∧ 3 ≤ ((pch { retries := [(0, 3)] }).pchan 0).retries.get 0 0 ∧
    ((pch { escalated := [0] }).pchan 0).window = none ∧ ((pch { escalated := [0] }).pchan 0).failed = false ∧ ((pch { escalated := [0] }).pchan 0).escalated.contains 0 = true ∧
    (∀ i : Fin 64, (State.reset.pchan (0 / 64 * 64 + i.val)).window = none) ∧ State.reset.windowDue 0 .escalation = false ∧
    State.reset.windowDue 0 (.temperature 100000) = true ∧ ((pch { window := some .periodic }).pchan 1).window = none ∧
    (pch { window := some .periodic }).windowDue 1 (.temperature 100000) = true ∧
    ((pch { window := some .periodic }).pchan (1 / 64 * 64 + 0)).window ≠ none ∧ (pch { window := some .periodic }).mem.due.get [] 0 = [] ∧
    State.reset.mappedTo 0 = some 0 ∧ (State.reset.pchan 0).scrubErrors ≤ State.reset.obj 0x40041 0 ∧
    (let s := pch { scrubErrors := State.reset.obj 0x40041 0 }; s.obj 0x40041 0 ≤ (s.pchan 0).scrubErrors ∧
      s.mem.migration.find? 0 = none ∧ s.freeSpares 0 = [62, 63] ∧
      ∀ i : Fin 64, (s.pchan (64 * (0 / 64) + i.val)).failed = false ∧ (s.pchan (64 * (0 / 64) + i.val)).selected = false) := by
  decide +kernel

/-- The end of a window whose arbiter is closed and idle, and of one with another window due. -/
theorem witness_PseudoChannelsRetryAndMigrate_window : let w : Pchan := { window := some .periodic }
    (let s : State := { pch w with arb.insts := [(instKey .hbmQueue 0, { closed := true })] }; (s.pchan 0).window ≠ none ∧
      s.mem.due.get [] 0 = [] ∧ s.switching 0 = false ∧ (s.arbOf .hbmQueue 0).closed = true ∧ (s.arbOf .hbmQueue 0).running = none ∧
      (s.arbOf .hbmQueue 0).emergency = false ∧ (s.arbOf .hbmQueue 0).ended = []) ∧
    (let s : State := { pch w with mem.due := [(0, [(1, .periodic)])] }; (s.pchan 0).window ≠ none ∧
      s.mem.due.get [] (0 / 64) = [(1, .periodic)] ∧ ∀ i : Fin 63, (s.pchan (0 / 64 * 64 + (i.val + 1))).window = none) := by decide +kernel

theorem witness_PseudoChannelsRetryAndMigrate_switch :
    let m : Migration := { source := 0, target := 62, switching := true }; let s : State := { mem.migration := [(0, m)] }
    s.mem.migration.find? 0 = some m ∧ m.copied < pchanBytes ∧ s.mappedTo m.source = some 0 ∧ m.switching = true ∧
    (∀ p ∈ [m.source, m.target], (s.arbOf .hbmQueue p).heads = [] ∧ (s.arbOf .hbmQueue p).queued = [] ∧
      (s.arbOf .hbmQueue p).running = none ∧ (s.arbOf .hbmQueue p).emergency = false ∧ (s.arbOf .hbmQueue p).ended = []) ∧
    ({ m with switching := false } : Migration).switching = false := by decide +kernel

/-- Cluster 0 of context 0 with a tracker that has found a stride. -/
def tracked (s : State) : State :=
  { s with clusters := [(0, { ctx := some 0, trackers := [(0, { last := 0, stride := 1, misses := 3 })] })] }
def prefetching : State := { tracked (mapped one []) with mgmt.dict := [(okey 0x40030 0, 1)] }

theorem witness_SharesAndSlowTier_prefetch : let s := prefetching
    (s.cluster 0).ctx = some 0 ∧ prefetchTarget ((s.cluster 0).trackers.get {} 0) (if fld (s.obj 0x40030 (ctxVi 0)) 1 6 = 0 then 8
      else fld (s.obj 0x40030 (ctxVi 0)) 1 6) = some 8 ∧ bit (s.obj 0x40030 (ctxVi 0)) 0 = true ∧
    s.translate 0 (256 * 8) .load = .ok (.fast (2097152 + 2048)) ∧ s.prefetchRoom 0 (s.pchanOf 2099200) = true ∧
    s.dieHas 0 (.fast 2099200) = false ∧ s.homeHas (.fast 2099200) = false ∧ s.bucketEmpty 0 0 = false ∧
    (let t := { s with mgmt.dict := [(okey 0x40030 0, 1), (okey 0x40050 0, 1), (okey 0x40051 0, 0)] };
      t.bucketEmpty 0 0 = true ∧ t.dieHas 0 (.fast 2099200) = false ∧ t.homeHas (.fast 2099200) = false) ∧
    (let t := s.homeRead 0 (.fast 2099200); t.prefetchRoom 0 (t.pchanOf 2099200) = true ∧ t.dieHas 0 (.fast 2099200) = true) := by decide +kernel

theorem witness_SharesAndSlowTier : State.reset.missUsed 0 < 128 ∧ (State.reset.cluster 0).miss = [] ∧
    (let s : State := { clusters := [(0, { miss := List.replicate 8 { owner := .other, p := 0 } })] };
      8 ≤ ((s.cluster 0).miss.filter (fun e => e.p == 0)).length) ∧
    (let e : MissEntry := { owner := .group 0, p := 0, stage := .waiting }; let s : State := { clusters := [(0, { miss := [e] })] };
      s.bucketWaiter 0 0 = some (0, e) ∧ s.bucketEmpty 0 0 = false ∧ (regulated s).bucketEmpty 0 0 = true ∧ (regulated s).regulated 0 = true) ∧
    State.reset.bucketWaiter 0 0 = none ∧
    (State.reset.lp 0).failed = false ∧ (State.reset.lp 0).retraining = false ∧ (State.reset.lp 0).attempts.get 0 5 < 3 ∧
    (let s : State := { mem.lp := [(0, { attempts := [(5, 3)], escalatedAt := some 0 })] }; 3 ≤ (s.lp 0).attempts.get 0 5 ∧
      (s.lp 0).escalatedAt = some 0 ∧ s.now < 0 + 3600000000000) ∧
    (({ mem.lp := [(0, { attempts := [(5, 3)] })] } : State).lp 0).escalatedAt = none ∧
    (let s : State := { mem.lp := [(0, { retraining := true }), (1, { failed := true })] }; (s.lp 0).retraining = true ∧
      1 / 8 = 0 / 8 ∧ (s.lp 1).failed = true) := by decide +kernel

/-- A gradient tile of step 0 in the input queue of Kiln 0, with the tables and maps of that step. -/
def gt (checked frozen : Bool) : KilnTile := { ctx := 0, step := 0, slot := grad, checked := checked, frozen := frozen }
def ge (frozen export_ : Bool) : GroupEntry :=
  { eta := 0, lambda := 0, clip := 0, wcScale := 0, wcFmt := 1, gradFmt := 4, wcBlock := 0, wcDir := false, wcEn := false, rule := 0, export_ := export_, frozen := frozen, invalid := false, decay := 0 }
def kilnDict : Bank Nat := [(okey 0x30014 0, 4), (okey 0x30019 0, 0), (okey 0x30021 0, 1024)]
def brew (t : KilnTile) (e : GroupEntry) : State :=
  { conv0 { ret := some (retp run1), upd := some { entries := [map0] } } [] with
      mgmt.dict := kilnDict, kilns := [(0, { input := [t], tables := [{ step := 0, entries := [(groupKey 0 0, e)] }] })], steps.open_ := some live0 }

theorem witness_KilnsTakeAndUpdateTiles : let t := gt false false; let s := brew t (ge false false)
    (s.kilnAt 0).input = [t] ∧ (s.kilnAt 0).park = [] ∧ t.checked = false ∧ s.power.brown = false ∧ s.checkTile 0 t = .update ∧
    ({ s with mgmt.dict := [(okey 0x30014 0, 4)] } : State).checkTile 0 t = .frozen ∧
    (let f : KilnTile := { t with slot := { grad with format := 5, payload := List.replicate 4 0xFF } }; (brew f (ge false false)).checkTile 0 f = .nonfinite) ∧
    (let r : State := { s with host.ctxs := [(0, { pt := 1, ret := some (retp run1) })] }; r.checkTile 0 t = .refused) ∧
    ({ s with power.brown := true } : State).power.brown = true := by decide +kernel

theorem witness_KilnsTakeAndUpdateTiles_update : let t := gt true false; let e := ge false false; let s := brew t e
    (s.kilnAt 0).input = [t] ∧ (s.kilnAt 0).park = [] ∧ t.checked = true ∧ t.frozen = false ∧ s.tileWaits t = false ∧
    (s.kilnAt 0).entryOf t.step t.ctx t.slot.pgroup.toNat = some e ∧ s.mapEntry t.ctx t.slot.tileId = some map0 ∧ e.export_ = false ∧
    (s.kilnAt 0).lostUnits = [] ∧ (s.kilnAt 0).allLost = false ∧ s.failedPackages 0 = [] ∧ s.retrainingPackages 0 = [] ∧
    (s.kilnAt 0).roomFor ((s.blocksOf t.ctx map0 t.slot.format).flatMap (fun b => unitsOf (1 - (s.kilnAt 0).activeCopy b) [b])) = true ∧
    (∀ b ∈ s.blocksOf t.ctx map0 t.slot.format, b < 21635072) ∧ (gt true true).frozen = true := by decide +kernel

def job0 : WcJob := { ctx := 0, tileId := 0, gen := 1, gristA := 0, frozen := false, step := 0 }

theorem witness_KilnsWriteAndObeyCommands : (let s := brew (gt true false) (ge false false); s.jobReady job0 = true ∧ s.jobTracked 0 job0 = true) ∧
    ({ withProg with conv.inj := [(0, { filled := [(2, { fill with src := 2097152 + 4096 })] })] } : State).jobReady job0 = false ∧
    (let x : Kiln := { stripes := [(0, [(0, 0)])] }; let s : State := { kilns := [(0, x)] };
      s.kilnAt 0 = x ∧ [(0, 0)].length < 7 ∧ x.flush = [] ∧ s.retrainingPackages 0 = [] ∧ s.failedPackages 0 = []) ∧
    (let x : Kiln := { stripes := [(0, [(0, 0)])], flush := [0] }; ({ kilns := [(0, x)] } : State).kilnAt 0 = x) ∧
    7 ≤ (List.range 7).length := by decide +kernel

/-- A command of the Kilns in both queues: one block of Kiln 0, from its first, at virtual address 0. -/
def kcmd (op : Nat) (s : State) : State := withCmd { s with mgmt.dict := kilnDict, steps := {} } op (2 ^ 32)

theorem witness_KilnsWriteAndObeyCommands_blocks : let c := cmd 0x2D (2 ^ 32); let d := cmd 0x2E (2 ^ 32)
    (let s := kcmd 0x2D withProg; Safety.started s ref0 0x2D c ∧ s.cmdCtx ref0 = 0 ∧ c.arg 32 25 ≠ 0 ∧
      s.inRange 0 (c.arg 64 48) (4096 * c.arg 32 25) .store = true ∧ s.ownBlocks 0 c = true ∧ s.failedPackages 0 = [] ∧ s.kilnLost 0 = false ∧
      ({ s with health.lost := [.kiln 0] } : State).kilnLost 0 = true ∧
      s.unitsWait 0 ((s.kilnAt 0).activeUnits (s.blockRange 0 c)) {} = false) ∧
    (let s := kcmd 0x2E withProg; Safety.started s ref0 0x2E d ∧ s.cmdCtx ref0 = 0 ∧ d.arg 32 25 ≠ 0 ∧
      s.inRange 0 (d.arg 64 48) (4096 * d.arg 32 25) .load = true ∧ s.ownBlocks 0 d = true ∧ s.steps.live = [] ∧
      s.power.brown = false ∧ s.kilnLost (d.arg 0 3) = false ∧ d.arg 112 1 = 0 ∧ s.retrainingPackages (d.arg 0 3) = [] ∧ s.failedPackages (d.arg 0 3) = [] ∧ s.masterFirst (ctxVi 0) + d.arg 7 25 + d.arg 32 25 ≤ 21635072 ∧
      ({ s with steps.open_ := some live0 } : State).steps.live ≠ []) ∧
    (cmd 0x2D 0).arg 32 25 = 0 ∧ Safety.started (withCmd withProg 0x2D 0) ref0 0x2D (cmd 0x2D 0) ∧
    Safety.started (withCmd withProg 0x2E 0) ref0 0x2E (cmd 0x2E 0) ∧
    Safety.started (withCmd withProg 0x2F 0) ref0 0x2F (cmd 0x2F 0) ∧ (cmd 0x2F 0).arg 64 32 = 0 := by
  simp only [Safety.started]; decide +kernel

/-- The direction of tile 0 at virtual address 8192. -/
theorem witness_KilnsWriteAndObeyCommands_apply :
    let b := brew (gt true false) (ge false false); let c := cmd 0x2F (2 ^ 64)
    let s : State := withCmd { b with mem.hbm := hbm0 ++ [(2097152 + 7, 0x20)], kilns := [(0, { b.kilnAt 0 with input := [], exported := [(0, 0, 0)] })] } 0x2F (2 ^ 64)
    Safety.started s ref0 0x2F c ∧ s.cmdCtx ref0 = 0 ∧ c.arg 64 32 = 1 ∧ s.inRange 0 (c.arg 0 48) 16 .load = true ∧
    (let n := leNat ((s.readVirt 0 (c.arg 0 48) 16).take 16); fld n 96 32 = 0 ∧ fld n 48 48 = 8192 ∧
      s.gateEntry 0 (BitVec.ofNat 32 (fld n 96 32)) = some gate0 ∧ (s.kilnAt gate0.kiln).exported = [(0, 0, BitVec.ofNat 32 (fld n 96 32))] ∧
      s.steps.live.any (fun z => z.step == 0) = true ∧ s.parkRoom 1 = true ∧
      s.checkTile gate0.kiln { ctx := 0, step := 0, checked := true, applied := true, slot := { kind := 2, format := gate0.format, tileId := BitVec.ofNat 32 (fld n 96 32), pgroup := gate0.pgroup, gen := ((s.stepOf 0).map (·.gen)).getD 0, payload := trimBytes (s.readVirt 0 (fld n 48 48) (256 * gradCols gate0.format)) } } = .update) := by
  simp only [Safety.started]; decide +kernel

/-! ### Steps -/

/-- A command of the steps, all operand bits `a`, with an update map in the context. -/
def stepCmd (op a : Nat) (t : Steps) : State :=
  { withCmd (conv0 { conv := some prog0, ret := some (retp run1), upd := some { entries := [map0] } } []) op a with steps := t }

theorem witness_StepsOpenCloseAndCommit : let s := stepCmd 0x28 0 {}; let c := cmd 0x28 0
    Safety.started s ref0 0x28 c ∧ s.cmdCtx ref0 = 0 ∧ c.arg 32 13 = 0 ∧ s.badOpen 0 (BitVec.ofNat 32 (c.arg 0 32)) = false ∧
    (stepCmd 0x28 0 { next := some 1 }).badOpen 0 (BitVec.ofNat 32 (c.arg 0 32)) = true ∧
    (let a := 2 ^ 32 + 2 ^ 110; let d := cmd 0x28 a; let t := stepCmd 0x28 a {}; Safety.started t ref0 0x28 d ∧ d.arg 32 13 ≠ 0 ∧
      t.inRange (t.cmdCtx ref0) (d.arg 64 48) (32 * d.arg 32 13) .load = false) ∧
    (let q : OpenReq := { ctx := 0, step := 0, table := 0, count := 0, cmd := ref0 };
      let t := stepCmd 0x28 0 { next := some 0, reqs := [q], participants := [0] }; t.steps.next = some 0 ∧ t.openReady = true) ∧
    s.steps.next = none ∧ s.openReady = false ∧ s.steps.undecided = [] ∧
    (stepCmd 0 0 { open_ := some live0 }).steps.undecided.getLast? = some live0 := by
  simp only [Safety.started]; decide +kernel

theorem witness_StepsOpenCloseAndCommit_close :
    (∀ k : Fin 2, let s := stepCmd 0x29 k.val { open_ := some live0 }; let c := cmd 0x29 k.val
      Safety.started s ref0 0x29 c ∧ c.arg 32 1 = 0 ∧ s.steps.open_ = some live0 ∧ live0.shut = false ∧
      (live0.step.toNat = c.arg 0 32 ↔ k = 0)) ∧
    (∀ k : Fin 2, let a := 2 ^ 32 + k.val; let s := stepCmd 0x29 a { open_ := some live0 }; let c := cmd 0x29 a
      Safety.started s ref0 0x29 c ∧ c.arg 32 1 = 1 ∧ (live0.step = BitVec.ofNat 32 (c.arg 0 32) ↔ k = 0) ∧ s.steps.live = [live0]) ∧
    (∀ k : Fin 2, let s := stepCmd 0x2A k.val { lastFinal := some (0, 1, 0) }; let c := cmd 0x2A k.val
      Safety.started s ref0 0x2A c ∧ s.steps.lastFinal = some (0, 1, 0) ∧ s.steps.deciding = none ∧
      (0#32 = BitVec.ofNat 32 (c.arg 0 32) ↔ k = 0)) ∧
    (stepCmd 0x2A 0 { lastFinal := some (0, 1, 0), deciding := some live0 }).steps.deciding = some live0 ∧ live0.step = 0 := by
  simp only [Safety.started]; decide +kernel

theorem witness_StepsOpenCloseAndCommit_window :
    (let s := stepCmd 0x2B 0 {}; Safety.started s ref0 0x2B (cmd 0x2B 0) ∧ s.steps.undecided = [] ∧ s.steps.evalWindow = false ∧
      s.steps.evalReq = []) ∧
    Safety.started (stepCmd 0x2B 0 { evalWindow := true }) ref0 0x2B (cmd 0x2B 0) ∧
    (let s := stepCmd 0x2C 0 { evalWindow := true }; Safety.started s ref0 0x2C (cmd 0x2C 0) ∧ s.steps.evalWindow = true ∧
      s.windowKernels = true ∧ ({ s with host.launches := [] } : State).windowKernels = false) ∧
    Safety.started (stepCmd 0x2C 0 {}) ref0 0x2C (cmd 0x2C 0) ∧ (stepCmd 0x2C 0 {}).steps.evalWindow = false := by
  simp only [Safety.started]; decide +kernel

theorem witness_StepCommitOfAnotherStepIsIgnored : let s := stepCmd 0x2A 1 { lastFinal := some (0, 1, 0) }
    Safety.started s ref0 0x2A (cmd 0x2A 1) ∧ s.steps.lastFinal = some (0, 1, 0) ∧
    0#32 ≠ BitVec.ofNat 32 ((cmd 0x2A 1).arg 0 32) := by
  simp only [Safety.started]; decide +kernel

theorem witness_DecisionsTakeEffect : ∀ k : Fin 2, let v : Verdict := { state := BitVec.ofNat 2 (k.val + 1), decideRev := 2 }
    let s : State := { steps.deciding := some live0, verdict.held := some v, kilns := [(0, { pending := [1] })] }
    s.steps.deciding = some live0 ∧ s.verdict.held = some v ∧ v.step = live0.step ∧ v.decideRev.toNat ≤ 2 ∧ 1 < v.decideRev.toNat ∧
    v.state = BitVec.ofNat 2 (k.val + 1) ∧ Bank.find? s.kilns 0 = some { pending := [1] } := by decide +kernel

/-! ### The fabric -/

def win0 : Window := { key := 0, base := 0, size := 1, ctx := 0, v := 0, permA := true, permW := true, permR := true }
/-- Node 5 with window 0 open over virtual address 0; the last request of node 1 in class 0 was number `q`. -/
def node5 (l : List (Nat × SourceState)) : State :=
  { mapped one [] with mgmt.dict := [(okey 0x50000 0, 2), (okey 0x50001 0, 5)], fab := { windows := [(0, win0)], sources := l } }
def pkt (t : BitVec 8) (b : Bytes) : Packet := { type := t, dst := 5, src := 1, incarn := 1, seq := 1, len := 1, payload := b }
/-- The control word of an atomic set of one lane and one word. -/
def ctl : Bytes := [1, 0, 0, 0, 0, 0, 0, 0]

theorem witness_FabricRequestsAreServed : let s := node5 []; let b := List.replicate 72 0#8
    (∀ t : Fin 4, let p := pkt (BitVec.ofNat 8 (t.val + 1)) b; p.dst.toNat = s.node ∧ s.carriesRequests = true ∧ s.arrival p = .fresh ∧
      s.fab.windows.find? (Packet1.window p) = some win0 ∧ s.fabCheck p (8 * p.len.toNat) = 0 ∧ s.fabCheck p p.payload.length = 0 ∧
      s.fabCheck p 64 = 0 ∧ s.fabCheck { p with key := 1 } p.payload.length = 3 ∧ s.fabCheck { p with key := 1 } 64 = 3 ∧
      s.translate win0.ctx (win0.base + Packet1.offset p) .load = .ok (.fast 2097152)) ∧ s.poisoned (.fast 2097152) = false ∧
    s.stackLost (s.pchanOf 2097152) = false ∧
    ({ s with mem.poison := [8192] } : State).poisoned (.fast 2097152) = true ∧ s.homeHas (.fast 2097152) = false ∧
    (node5 [(1, { incarn := 2 })]).arrival (pkt 1 b) = .stale ∧
    (node5 [(1, { incarn := 1, seq := [(0, 1)] })]).arrival (pkt 1 b) = .duplicate ∧ State.reset.carriesRequests = false := by decide +kernel

theorem witness_FabricRequestsAreServed_sets : let s := node5 []; let b := ctl ++ [5, 0, 0, 0]; let p := pkt 4 b
    s.arrival p = .fresh ∧ setLegal (setCtl b) = true ∧ s.fabCheck p (setCtl b).n = 0 ∧ setBytes (setCtl b) ≤ b.length ∧
    s.translate win0.ctx (win0.base + Packet1.offset p) .atomic = .ok (.fast 2097152) ∧
    (let q := pkt 4 ctl; let r := { pkt 5 [5] with seq := 2 }; let t := node5 [(1, { incarn := 1, seq := [(0, 1)], parts := [q] })];
      t.arrival r = .fresh ∧ ((t.landed r).openSource r).keptParts r = [q] ∧ q.cls = r.cls ∧ q.src = r.src ∧
      t.fab.windows.find? (Packet1.window q) = some win0 ∧ setLegal (setCtl (q.payload ++ r.payload)) = true ∧
      (q.payload ++ r.payload).length < setBytes (setCtl (q.payload ++ r.payload)) ∧
      setBytes (setCtl (q.payload ++ [5, 0, 0, 0])) ≤ (q.payload ++ [5#8, 0, 0, 0]).length) ∧
    (pkt 0 b).type = 0 ∧ 0x0A ≤ (pkt 0x0A b).type.toNat ∧ s.arrival (pkt 0x0A b) = .fresh := by decide +kernel

/-- An outstanding read or atomic of the group on core 0 that waits for it. -/
def ask (t : BitVec 8) : Outstanding := { dst := 1, cls := 0, seq := 1, epoch := 0, type := t, window := 0, gid := some 0, dest := [(0, 0, 4, 0)], pkt := {} }
def asked (o : Outstanding) : State :=
  { node5 [] with groups := [(0, { one with status := .remote })], fab.outstanding := [o] }

theorem witness_FabricAnswersAndEgress : (let s : State := { node5 [] with fab.waiting := [outst] };
      s.fab.waiting = [outst] ∧ s.carriesRequests = true ∧ s.egressPort outst = none ∧ s.fab.credits.get 1 outst.dst.toNat ≠ 0 ∧
      ({ s with fab.credits := [(1, 0)] } : State).fab.credits.get 1 outst.dst.toNat = 0) ∧
    (∀ t : Fin 2, let o := ask (if t.val = 0 then 1 else 4); let s := asked o; let p := pkt 6 [0, 0, 0, 0]
      p.dst.toNat = s.node ∧ s.fab.outstanding = [o] ∧ s.fab.waiting = [] ∧ o.dst = p.src ∧ o.cls = p.cls ∧ o.seq = p.seq ∧
      o.gid = some 0 ∧ o.dma = none ∧ acquiresAt (wo 0x80) = true ∧ acquiresAt 0 = false ∧ s.group? 0 = some { one with status := .remote } ∧ o.dest = [(0, 0, 4, 0)] ∧
      fld p.key.toNat 0 8 = 0 ∧ fld ({ p with key := 1 } : Packet).key.toNat 0 8 ≠ 0) ∧
    (let o : Outstanding := { outst with seq := 1 }; let s : State := { node5 [] with fab.outstanding := [o] }; let p := pkt 7 [];
      p.dst.toNat = s.node ∧ s.fab.outstanding = [o] ∧ o.dst = p.src ∧ o.cls = p.cls ∧ o.seq = p.seq ∧ o.type = 2 ∧ o.acked = false ∧ o.gid = none ∧
      o.dma = none ∧ fld p.key.toNat 0 8 = 0) ∧ (node5 []).fab.outstanding = [] ∧
    (let o : Outstanding := { outst with seq := 1, gid := some 0 }; let s := { asked o with groups := [(0, one)] };
      s.fab.outstanding = [o] ∧ s.group? 0 = some one ∧ one.status ≠ .remote ∧ o.dest = []) := by decide +kernel

theorem witness_FabricLinksAndWindows :
    (let f : Moving := { pkt := pkt 1 [], resent := 8 }; let s : State := { node5 [] with fab.ports := [(0, { state := 2, replay := [f] })] };
      (s.port 0).up = true ∧ (pkt 1 []).lseq = (s.port 0).rxSeq ∧ ({ pkt 1 [] with lseq := 1 } : Packet).lseq ≠ (s.port 0).rxSeq ∧
      (pkt 1 []).dst.toNat = s.node ∧ ({ pkt 1 [] with dst := 6 } : Packet).dst.toNat ≠ s.node ∧ (pkt 1 []).type ≠ 0 ∧
      s.fab.delayed = [] ∧ (s.port 0).replay ≠ [] ∧ (∀ f ∈ (s.port 0).replay, f.pkt.lseq = 0) ∧ (∃ f ∈ (s.port 0).replay, 8 ≤ f.resent)) ∧
    (State.reset.port 0).up = false ∧ (∀ f ∈ (({ pkt := pkt 1 [] } : Moving) :: (State.reset.port 0).replay), f.resent < 8) ∧
    (let s : State := { fab.ports := [(0, { state := 1 })], pins.cables := [(2, { lanesUp := true })], mgmt.dict := [(okey 0x50030 0, 2 * 2 ^ 56)] };
      (s.port 0).state = 1 ∧ 0 < s.topoPorts ∧ s.cabled 0 = true ∧ s.health.fabDegraded.get [] 0 = []) ∧
    State.reset.topologyAccepted false 1 = true ∧ (node5 []).topologyAccepted false 1 = false := by decide +kernel

theorem witness_FabricLinksAndWindows_regions :
    (let s := withCmd (conv0 {} []) 0x30 0; Safety.started s ref0 0x30 (cmd 0x30 0) ∧ s.cmdCtx ref0 = 0 ∧
      s.inRange 0 ((cmd 0x30 0).arg 0 48) 65536 .load = true ∧ s.ctx? 0 ≠ none) ∧
    (let s := withCmd (conv0 {} []) 0x31 0; Safety.started s ref0 0x31 (cmd 0x31 0) ∧
      s.inRange 0 ((cmd 0x31 0).arg 64 48) 32 .load = true ∧
      s.openStatus 0 0 ((cmd 0x31 0).arg 0 12) (leNat (s.readVirt 0 ((cmd 0x31 0).arg 64 48) 32)) = .error 0x60) ∧
    (let s : State := { withCmd (conv0 {} [(2097152 + 15, 0x08)]) 0x31 0 with mgmt.dict := [(okey 0x50021 0, 1), (okey 0x50020 0, 1)] };
      (s.openStatus 0 0 ((cmd 0x31 0).arg 0 12) (leNat (s.readVirt 0 ((cmd 0x31 0).arg 64 48) 32))).toOption = some [2] ∧
      [2].any s.objStale = false ∧
      (let t : State := { s with host.objects := [(1, obj0), (2, { obj2 with hostRef := false })] };
        (t.openStatus 0 0 ((cmd 0x31 0).arg 0 12) (leNat (t.readVirt 0 ((cmd 0x31 0).arg 64 48) 32))).toOption = some [2] ∧
        [2].any t.objStale = true)) ∧
    (let s := withCmd { node5 [] with fab.windows := [(0, win0)] } 0x32 0; Safety.started s ref0 0x32 (cmd 0x32 0) ∧
      s.fab.windows.find? ((cmd 0x32 0).arg 0 12) = some win0 ∧ win0.ctx = s.cmdCtx ref0 ∧ win0.valid = true ∧
      s.windowBusy ((cmd 0x32 0).arg 0 12) = false) ∧
    (withCmd (node5 [(1, { incarn := 1, parts := [pkt 4 ctl] })]) 0x32 0).windowBusy ((cmd 0x32 0).arg 0 12) = true := by
  simp only [Safety.started]; decide +kernel

/-! ### The host interface -/

/-- A started module with one command waiting in the ring of context queue 0; `l` lies in host memory. -/
def queued (q : Queue) (l : List Host.Cell) : State :=
  { boot := { phase := .started, adminServed := true }, mem.host := l,
    host := { ctxs := [(0, { evt := { size := 256 }, flt := { size := 16 }, ntc := { size := 16 } })], queues := [(0, q)], timelines := [(0, { value := 5 })] } }

theorem witness_QueuesAreReadAndRun : let s := queued {} []
    s.hasVi 0 = true ∧ s.barOpen = true ∧ s.queueAt 0 0 = some {} ∧ ({} : Queue).tailOk 1 = true ∧
    ({} : Queue).tailOk 0x80000000 = false ∧ ({} : Queue).destroying = none ∧
    (∀ k : Fin 2, let t := queued { tail := 1 } (if k.val = 0 then [] else [(0, 0xFF)]); let e := t.ringEntry { tail := 1 } 0
      t.queueAt 0 0 = some { tail := 1 } ∧ t.submitBlocked 0 0 { tail := 1 } = false ∧ e.getLsbD 19 = false ∧
      (entryReason 0 false e = 0 ↔ k = 0) ∧ (t.cmdRefs 0 (ctxKey 0 0) false { n := 0, entry := e }).1 = 0) ∧
    (let c : Cmd := { n := 0, entry := 0 }; let t := queued { cmds := [c] } []; t.queueAt 0 0 = some { cmds := [c] } ∧
      t.cmd? ref0 = some c ∧ c.stage = .submitted ∧ c.flag 18 = false ∧ earlier { cmds := [c] } 0 = [] ∧ c.waitEn = false ∧
      t.outranked ref0 { cmds := [c] } c = false) ∧
    (let c : Cmd := { n := 0, entry := 0x10 }; let w : Cmd := { n := 0, entry := 0x10 ||| (1#512 <<< 16) }; let q : Queue := { priority := 1, cmds := [c] }
      let t := queued { cmds := [c] } []; let t : State := { t with host.queues := t.host.queues ++ [(1, q)] }
      t.outranked ref0 { cmds := [c] } c = true ∧ w.waitEn = true ∧ w.waitValue ≤ 5 ∧
      (t.host.timelines.find? (tlKey 0 w.waitTl)).map (·.value) = some 5) ∧
    (let c : Cmd := { n := 0, entry := 0, stage := .executed }; (queued { cmds := [c] } []).cmd? ref0 = some c) := by decide +kernel

/-- The header of a kernel of 64 bytes of code, and a command on it in virtual address 0. -/
def kernHdr : Nat := 0x494B5253 * 2 ^ 480 + 2 ^ 472 + 8 * 2 ^ 463 + 64 * 2 ^ 384

theorem witness_QueueCommandsAct : let s := withCmd (mapped one (image kernHdr)) 0x10 0; let c := cmd 0x10 0
    Safety.started s ref0 0x10 c ∧ s.cmdCtx ref0 = 0 ∧ s.inRange 0 (c.arg 0 48) 64 .load = true ∧
    (let h := leNat (s.readVirt 0 (c.arg 0 48) 64); let x := imageKernel h (c.arg 0 48); imageStatus h (s.layoutOf 0) x = 0 ∧
      imageStatus 0 (s.layoutOf 0) (imageKernel 0 0) ≠ 0 ∧ s.codeObject 0 x = some 2 ∧ s.host.objects.find? 2 = some obj2 ∧
      obj2.hostRef = true ∧ s.freeKernel 0 = some 1) ∧
    Safety.started (withCmd s 0 0) ref0 0 (cmd 0 0) ∧ Safety.started (withCmd s 0x18 0) ref0 0x18 (cmd 0x18 0) := by
  simp only [Safety.started]; decide +kernel

theorem witness_QueueCommandsAct_kernels : let s := withCmd (mapped one []) 0x11 0; let c := cmd 0x11 0
    Safety.started s ref0 0x11 c ∧ s.cmdCtx ref0 * 65536 + c.arg 0 16 = 0 ∧ s.host.kernels.find? 0 = some kern ∧ kern.hostRef = true ∧
    kern.refs = 0 ∧ ({ kern with refs := 1 } : Kernel).refs ≠ 0 ∧ (withCmd (mapped one []) 0x11 1).host.kernels.find? 1 = none ∧
    (let t := withCmd { mapped one [] with groups := [] } 0x13 0; Safety.started t ref0 0x13 (cmd 0x13 0) ∧
      t.host.launches = [(0, laun)] ∧ t.groups = [] ∧ laun.kernel = t.cmdCtx ref0 * 65536 + (cmd 0x13 0).arg 0 16 ∧
      t.host.kernels.find? laun.kernel ≠ none) ∧
    (let t := withCmd (mapped one []) 0x13 1; Safety.started t ref0 0x13 (cmd 0x13 1) ∧
      ∀ x ∈ t.host.launches, x.2.kernel ≠ t.cmdCtx ref0 * 65536 + (cmd 0x13 1).arg 0 16) := by
  simp only [Safety.started]; decide +kernel

theorem witness_QueueCommandsAct_launch : let s := withCmd (mapped one []) 0x12 (2 ^ 64); let c := cmd 0x12 (2 ^ 64)
    Safety.started s ref0 0x12 c ∧ s.cmdCtx ref0 = 0 ∧ c.arg 64 32 ≠ 0 ∧ c.arg 0 48 % 128 = 0 ∧
    s.inRange 0 (c.arg 0 48) 128 .load = true ∧ launchCond c 0 = { kind := 0, tag := (launchCond c 0).tag, object := (launchCond c 0).object, value := (launchCond c 0).value, v := 0 } ∧
    c.arg 130 14 = 0 ∧
    (let d := cmd 0x12 (3 * 2 ^ 128); Safety.started (withCmd (mapped one []) 0x12 (3 * 2 ^ 128)) ref0 0x12 d ∧ (launchCond d 0).kind = 3) := by
  simp only [Safety.started]; decide +kernel

theorem witness_QueueCommandsAct_copy : (∀ k : Fin 2, let a := k.val * 64 * 2 ^ 128; let s := withCmd (mapped one []) 0x16 a; let c := cmd 0x16 a
      Safety.started s ref0 0x16 c ∧ s.cmdCtx ref0 = 0 ∧ s.inRange 0 (c.arg 0 48) (c.arg 128 32) .load = decide (k.val = 1) ∧
      s.inRange 0 (c.arg 64 48) (c.arg 128 32) .store = decide (k.val = 1)) ∧
    (∀ k : Fin 2, let a := k.val * 64 * 2 ^ 64; let s := withCmd (mapped one []) 0x17 a; let c := cmd 0x17 a
      Safety.started s ref0 0x17 c ∧ s.inRange 0 (c.arg 0 48) (c.arg 64 32) .store = decide (k.val = 1)) := by
  simp only [Safety.started]; decide +kernel

/-- A command of the admin queue on a module with context 0; the block of a CONTEXT_CREATE lies at host address 0. -/
def admin (op a : Nat) : State := withCmd { mapped one [] with mem.host := [(34, 1)] } op a

theorem witness_HostObjectsAreMadeAndDropped : let s := admin 0x80 0; let c := cmd 0x80 0
    Safety.started s admin0 0x80 c ∧ s.createStatus 0 (leNat (memRead s.mem.host (c.arg 0 48) 64)) = 0 ∧ s.freeCtx 0 = some 1 ∧
    ({ s with mem.host := [] } : State).createStatus 0 0 ≠ 0 ∧ s.freeIndex (ctxKey 0 1) = some 3 ∧
    (s.newFast (ctxKey 0 1) 0 0 1 true 0 3).toOption.isSome = true := by
  simp only [Safety.started]; decide +kernel

theorem witness_HostObjectsAreMadeAndDropped_contexts :
    (∀ k : Fin 2, let s := admin 0x81 k.val; Safety.started s admin0 0x81 (cmd 0x81 k.val) ∧
      s.ctx? (ctxKey 0 ((cmd 0x81 k.val).arg 0 12)) = if k.val = 0 then some { pt := 1 } else none) ∧
    (let s := admin 0x82 0; let c := cmd 0x82 0; Safety.started s admin0 0x82 c ∧ (s.liveCtx 0 (c.arg 0 12)).toOption = some { pt := 1 } ∧
      c.arg 12 4 ≤ 10 ∧ c.arg 64 48 % 4096 = 0 ∧ s.queueCount 0 < s.obj 0x60014 0 ∧ s.queueTotal < 16384 ∧
      (List.range 16384).find? (fun q => (s.host.queues.find? (queueKey 0 q)).isNone) = some 1) ∧
    (let s := admin 0x82 1; Safety.started s admin0 0x82 (cmd 0x82 1) ∧ (s.liveCtx 0 ((cmd 0x82 1).arg 0 12)).toOption = none) ∧
    (let s := admin 0x83 0; let c := cmd 0x83 0; Safety.started s admin0 0x83 c ∧ admin0.q.val = adminQ ∧
      (s.host.queues.find? (queueKey 0 (c.arg 0 14))).map (·.cmds) = some [c] ∧
      (s.host.queues.find? (queueKey 0 (c.arg 0 14))).bind (·.destroying) = none ∧ c.arg 0 14 < 16384) ∧
    (let s := admin 0x86 0; let c := cmd 0x86 0; let t : State := { s with host.kernels := [] }; Safety.started t admin0 0x86 c ∧ badLayout (16 * c.arg 36 8) = false ∧ (t.ctx? 0).map (·.layout) = some 0 ∧ badLayout (16 * 255) = true ∧
      t.host.kernels.any (fun y => y.1 / 65536 == ctxKey 0 (c.arg 0 12)) = false) := by
  simp only [Safety.started]; decide +kernel

theorem witness_HostObjectsAreMadeAndDropped_objects :
    (let s := admin 0x84 0; Safety.started s admin0 0x84 (cmd 0x84 0) ∧
      (s.host.timelines.filter (fun x => x.1 / 65536 == 0)).length < s.obj 0x60015 0 ∧ s.host.timelines.length < 65536 ∧
      (List.range 65536).find? (fun i => (s.host.timelines.find? (tlKey 0 i)).isNone) = some 0) ∧
    (let s : State := { admin 0x85 0 with host.timelines := [(0, {})] }; s.host.timelines.find? (tlKey 0 ((cmd 0x85 0).arg 0 16)) = some {} ∧
      ({} : Timeline).hostRef = true) ∧ Safety.started (admin 0x85 0) admin0 0x85 (cmd 0x85 0) ∧
    (∀ k : Fin 2, let a := 2 ^ 20 + 2 ^ 18 + 2 * k.val * 2 ^ 12; let s := admin 0x87 a; let c := cmd 0x87 a
      Safety.started s admin0 0x87 c ∧ (s.liveCtx 0 (c.arg 0 12)).toOption = some { pt := 1 } ∧ c.arg 20 20 ≠ 0 ∧ s.host.objects.length < 1048576 ∧
      s.freeIndex (ctxKey 0 (c.arg 0 12)) = some 3 ∧ (k.val = 0 → c.arg 12 2 < 2 ∧
        (s.newFast (ctxKey 0 (c.arg 0 12)) (c.arg 12 2) (c.arg 14 4) (c.arg 20 20) (decide (c.arg 18 1 = 1)) 0 3).toOption.isSome = true) ∧
      (k.val = 1 → 2 ≤ c.arg 12 2 ∧ (s.hostPages 4096 1) = [0])) ∧
    (∀ k : Fin 2, let a := 2 + 7 * k.val; let s := admin 0x88 a; Safety.started s admin0 0x88 (cmd 0x88 a) ∧
      s.objOfVi 0 ((cmd 0x88 a).arg 0 32) = (if k.val = 0 then some (2, obj2) else none) ∧ s.wasFreed 0 ((cmd 0x88 a).arg 0 32) = false ∧
      (cmd 0x88 a).objs = [] ∧ (cmd 0x88 a).kernels = [] ∧
      (let t : State := { s with host := { s.host with ctxs := [(0, { pt := 1, objGen := [(2, 1)] })], objects := [(1, obj0)] } };
        t.objOfVi 0 ((cmd 0x88 2).arg 0 32) = none ∧ t.wasFreed 0 ((cmd 0x88 2).arg 0 32) = true)) := by
  simp only [Safety.started]; decide +kernel

theorem witness_HostPortServesItsFunctions : let s := queued {} []
    s.hasVi 0 = true ∧ s.barOpen = true ∧ s.host.timelines.find? (tlKey 0 0) = some { value := 5 } ∧
    (s.ctx? (ctxKey 0 0)).map (fun c => (c.evt.newHead 0, c.flt.newHead 0, c.ntc.newHead 0)) = some (some 0, some 0, some 0) ∧
    (s.ctx? (ctxKey 0 0)).map (·.heldEvents) = some [] ∧ (s.ctx? (ctxKey 0 0)).map (·.faultWait) = some [] ∧
    (s.host.adminEvent.get {} 0).newHead 0 = some 0 ∧ s.host.adminHeld.get [] 0 = [] ∧
    State.reset.host.ctxs = [] ∧ ({ boot.memoryActive := true } : State).fastExists (0 / 64 * 64) = true ∧
    s.poisoned (.fast (0 / 64 * 64)) = false ∧ s.homeHas (.fast (0 / 64 * 64)) = false ∧
    s.stackLost (s.pchanOf (0 / 64 * 64)) = false ∧ State.reset.host.objects = [] ∧
    ({ s with health.lost := [.die 0] } : State).stackLost (s.pchanOf (0 / 64 * 64)) = true ∧
    ({ s with mem.poison := [0] } : State).poisoned (.fast (0 / 64 * 64)) = true ∧ s.boot.memoryActive = false := by decide +kernel

theorem witness_HostPortServesItsFunctions_mail : let s := queued {} []
    s.mailReaches 0x40 = true ∧ s.mailPosts 5 0 = none ∧ s.mailPosts 0x40 0 = some 0 ∧ (s.mailQueue 0 0).length < 16 ∧
    s.mailReaches 0 = true ∧ s.mailReads 0 0 = some 0 ∧ s.mailPosts 0 0 = some 1 ∧ s.mailEnd 0 (1 == 0) = 0x40 ∧
    (let t : State := { s with host.mail := [(0, List.replicate 16 (7, 0x40))] }; 16 ≤ (t.mailQueue 0 0).length ∧
      (t.mailQueue 0 0).head? = some (7, 0x40) ∧ t.mgmt.mailOut.get [] 0 = []) := by decide +kernel

/-! ### Management -/

/-- A started module at management address 0x8001, with key 0 of every scope. -/
def mgr (m : Mgmt) : State := { boot.phase := .started, mgmt := m }
def key0 : KeySlot := { active := true, scope := 0x1F }
def keyed : State := mgr { keys := [(0, key0)], dict := [(okey 0x30 0, 1)] }

/-- A broadcast frame of Nalora's EtherType of a size that Ethernet allows is accepted. -/
theorem frame_ok (m : NalMsg) (h : m.frame = {}) (n : m.data.length ≤ 208) : frameOk m = true := by
  simp only [frameOk, h, Bool.and_eq_true, Bool.or_eq_true, beq_self_eq_true, or_true, true_and, decide_eq_true_eq]
  simp; omega

/-- A frame too short, one of another EtherType, and one that collided: none carries a message. -/
theorem witness_NaloraMessagesAreServed_frames : frameOk { msg 1 with frame := { ether := 0x0800 } } = false ∧
    frameOk { msg 1 with frame := { padding := 1500 } } = false ∧
    (let m := { msg 1 with frame := { ether := 0x0800, collisions := 1 } }; m.path = .port ∧ m.frame.collisions ≠ 0 ∧ frameOk m = false) ∧
    (mgr {}).serves = true := by
  refine ⟨?_, ?_, ⟨rfl, by decide, ?_⟩, by decide⟩
  · cases h : frameOk { msg 1 with frame := { ether := 0x0800 } } <;> simp_all [frameOk]
  · cases h : frameOk { msg 1 with frame := { padding := 1500 } } <;> simp_all [frameOk, msg]
  · cases h : frameOk { msg 1 with frame := { ether := 0x0800, collisions := 1 } } <;> simp_all [frameOk]

theorem witness_NaloraMessagesAreServed : (∀ k : Fin 9, k.val ≠ 0 → Safety.asks (mgr {}) (msg (BitVec.ofNat 8 k.val)) k.val) ∧
    (let s := mgr {}; (s.objInfo 0).isSome = true ∧ serviceGroup 0 = false ∧
      (s.objInfo 0).map (fun x => (x.acc, x.indexOk 0 0, decide (x.size ≤ 208))) = some (.ro, true, true) ∧
      (s.objInfo 0).map (fun x => (x.indexOk 0 1, x.blob)) = some (false, false) ∧
      (s.objInfo 0x40).map (·.acc) = some .wo ∧ (s.objInfo 0x90010).map (·.acc) = some .wog ∧
      (s.objInfo 0x00FFF).isNone = true ∧ serviceGroup 0xF0000 = true) ∧
    badMessage { msg 1 with magic := 0 } = true ∧ (mgr {}).notForUs { msg 1 with dst := 0x8002 } = true ∧
    badMessage { msg 1 with dst := 0x8002 } = false ∧ State.reset.serves = false ∧
    (let m := msg 1; let x : Response := { dst := 0x8000, seq := 0, kind := 5, status := 0 }; let s := mgr { kept := [(m, x)] };
      s.serves = true ∧ m.kind ≠ 5 ∧ m.kind ≠ 7 ∧ s.mgmt.kept.find? (fun y => y.1.src == m.src && y.1.seq == m.seq) = some (m, x)) ∧
    (mgr {}).quiet = false ∧ (msg 1).frame.collisions = 0 ∧ ({ dst := 0, type := 9 } : Packet).dst.toNat = (mgr {}).node := by
  refine ⟨fun k h => ?_, by decide +kernel⟩
  simp only [Safety.asks, frame_ok (msg (BitVec.ofNat 8 k.val)) rfl (Nat.zero_le _), true_and]; revert k; decide +kernel

theorem witness_WritesAreCheckedAndCommitted : let m := { msg 2 with object := 0x00021, data := [16] }; let s := mgr {}
    Safety.asks s m 2 ∧ m.dataLen.toNat ≤ 208 ∧ Safety.plainSetting m.object.toNat ∧ (s.objInfo 0x00021).map (·.size) = some 1 ∧ s.pathOpen .port = true ∧
    s.rangeOk 0x00021 0 (leNat m.data) = true ∧ s.rangeOk 0x00021 0 0 = false ∧
    (mgr { dict := [(okey 0x00024 0, 0)] }).pathOpen .port = false := by
  simp (disch := first | rfl | decide) only [Safety.asks, Safety.plainSetting, frame_ok]; decide +kernel

theorem witness_WritesAreCheckedAndCommitted_first : let p := { msg 4 with object := 0x00021, data := [1] }; let s := mgr {}
    Safety.asks s p 4 ∧ p.object ≠ 0xA0010#20 ∧
    serviceGroup p.object.toNat = false ∧ (s.objInfo 0x00021).map (fun x => (x.acc, x.indexOk 0x00021 0)) = some (.rw, true) ∧
    s.mgmt.staging.find? p.src.toNat = none := by
  simp (disch := first | rfl | decide) only [Safety.asks, frame_ok]; decide +kernel

theorem witness_WritesAreCheckedAndCommitted_keys : let g := { msg 3 with object := 0x50020, counter := 1 }; let t := keyed
    Safety.asks t g 3 ∧ serviceGroup g.object.toNat = false ∧
    t.mgmt.pageBudget ≠ 0 ∧ g.flags.getLsbD 1 = false ∧ (t.keySlot 0).active = true ∧ guardScope 0x50020 = some 0 ∧
    key0.scope.getLsbD 0 = true ∧ ((mgr {}).keySlot 0).active = false := by
  simp (disch := first | rfl | decide) only [Safety.asks, frame_ok]; decide +kernel

theorem witness_WritesAreCheckedAndCommitted_stage :
    (let b : Staging := { object := 0x00021, index := 0, bytes := [] }; let t := mgr { staging := [(0x8000, b)] }
      let p := { msg 4 with object := 0x00021, data := [1] }; Safety.asks t p 4 ∧ t.mgmt.staging.find? p.src.toNat = some b ∧
      b.object = p.object ∧ b.index = p.index ∧ p.offset.toNat = b.bytes.length ∧ p.data.length ≤ min 1 4096 ∧
      Safety.asks t { p with offset := 1 } 4 ∧ (1 : BitVec 32).toNat ≠ b.bytes.length) ∧
    (let g := { msg 3 with object := 0xF0000 }; Safety.asks keyed g 3 ∧ keyed.mgmt.pageBudget ≠ 0 ∧ serviceGroup g.object.toNat = true) := by
  simp (disch := first | rfl | decide) only [Safety.asks, frame_ok]; decide +kernel

/-- A guarded write of 50.020 with the tag that its key gives, over the fields that the tag covers. -/
def guarded : NalMsg := { msg 3 with object := 0x50020, counter := 1, data := [1, 0] }
def tagged : NalMsg :=
  { guarded with tag := (Config.kmac256 0 (keyed.tagInput guarded [1, 0]) (ascii "NALORA GUARD")).setWidth 128 }

theorem witness_WritesAreCheckedAndCommitted_guard : keyed.guardCause tagged tagged.data = 0 ∧
    (mgr {}).guardCause tagged tagged.data = 1 := by
  refine ⟨?_, by decide +kernel⟩
  unfold State.guardCause
  rw [if_neg (by decide +kernel), if_neg (by decide +kernel), if_neg (by exact fun h => h rfl), if_neg (by decide +kernel),
    if_neg (by decide +kernel), if_neg (by decide +kernel)]

/-- A guarded write of `o` from the port, with its tag accepted, that waits for its commit. -/
def wait0 (o v : Nat) : PendingWrite := { req := { msg := msg 3 }, object := o, index := 0, value := v, slot := 0, counter := 1 }

theorem witness_WritesAreCheckedAndCommitted_commit :
    (let w := wait0 0x50020 1; let s := mgr { journal := some w }; s.mgmt.journal = some w ∧ s.mgmt.queue = [] ∧ w.req.cmd = none ∧
      w.req.msg.path = .port ∧ w.slot < 8 ∧ Safety.plainGuarded w.object ∧ w.index < 65536) ∧
    (let s := mgr { unsaved := [okey 0x21 0] }; s.mgmt.journal = none ∧ s.mgmt.unsaved ≠ [] ∧ s.mgmt.pageBudget ≠ 0) ∧
    (mgr { pageDebt := 1 }).mgmt.pageDebt ≠ 0 ∧ (mgr {}).mgmt.pageDebt = 0 ∧ (mgr {}).boot.phase ≠ .recovery ∧
    (mgr {}).mgmt.unsaved = [] ∧ (mgr { pageBudget := 0 }).mgmt.pageBudget = 0 ∧
    (let m := { msg 2 with object := 0x90010, data := leBytes 64 (8 * 2 ^ 32 + 2 ^ 256) }; let s := mgr { dict := [(okey 0x30 0, 1)] };
      Safety.asks s m 2 ∧ m.dataLen.toNat ≤ 208 ∧ m.data.length = 64 ∧ s.pathOpen .port = true ∧ s.obj 0x90000 0 ≠ 1 ∧ s.idReady = true ∧
      fld (leNat m.data) 0 3 = 0 ∧ bit (fld (leNat m.data) 32 32) 3 = true ∧ fld (leNat m.data) 32 32 < 32) := by
  simp (disch := first | rfl | decide) only [Safety.asks, Safety.plainGuarded, frame_ok]; decide +kernel

/-- A dictionary command in both queues of a started module: object `o`, LENGTH `n`. -/
def dictCmd (op o n : Nat) (m : Mgmt) : State := withCmd (mgr m) op (o + n * 2 ^ 160)

theorem witness_DictionaryCommandsReachTheMaltster : (∀ k : Fin 3, let c := cmd (0x90 + k.val) (65537 * 2 ^ 160);
      Safety.started (dictCmd (0x90 + k.val) 0 65537 {}) admin0 (0x90 + k.val) c ∧ 65536 < c.arg 160 32) ∧
    (let s := dictCmd 0x90 0 0 { queue := List.replicate 64 { msg := msg 1 } }; Safety.started s admin0 0x90 (cmd 0x90 0) ∧
      (cmd 0x90 0).arg 160 32 ≤ 65536 ∧ 64 ≤ s.mgmt.queue.length) ∧
    (let s := dictCmd 0x90 0 0 {}; let c := cmd 0x90 0; Safety.started s admin0 0x90 c ∧ s.boot.phase ≠ .recovery ∧ s.mgmt.journal = none ∧ s.quiet = false ∧
      s.hostReaches 0 c.buffer (s.dictBytes c none) = true ∧
      s.mgmt.queue = [] ∧ serviceGroup (c.arg 0 20) = false ∧ c.arg 128 32 = 0 ∧ c.arg 160 32 = 0 ∧
      (s.objInfo (c.arg 0 20)).map (fun x => (x.acc, x.indexOk 0 0, decide (0 < x.size ∧ x.size ≤ 65536))) = some (.ro, true, true)) ∧
    (let a := 0x21 + 2 ^ 160; let s : State := { dictCmd 0x91 0x21 1 {} with mem.host := [(0, 16)] }; let c := cmd 0x91 a;
      s.boot.phase ≠ .recovery ∧ s.quiet = false ∧ s.hostReaches 0 c.buffer (s.dictBytes c none) = true ∧ s.mgmt.journal = none ∧ s.mgmt.queue = [] ∧ c.arg 128 32 = 0 ∧
      Safety.started s admin0 0x91 c ∧ Safety.plainSetting (c.arg 0 20) ∧ c.arg 20 16 = 0 ∧ c.arg 160 32 = 1 ∧ s.pathOpen .admin = true ∧
      (s.objInfo 0x21).map (·.size) = some 1 ∧ s.rangeOk 0x21 0 (leNat (memRead s.mem.host c.buffer 1)) = true) := by
  simp only [Safety.started, Safety.plainSetting]; decide +kernel

/-- A read of one byte into host memory that the function no longer reaches. -/
theorem witness_DictionaryCommandsReachTheMaltster_range : let s : State := { dictCmd 0x90 0x21 1 {} with host.closed := [(0, 0, 4096)] }
    let c := cmd 0x90 (0x21 + 2 ^ 160); Safety.started s admin0 0x90 c ∧ c.arg 160 32 ≤ 65536 ∧
    s.hostReaches 0 c.buffer (s.dictBytes c none) = false := by
  simp only [Safety.started]; decide +kernel

theorem witness_DictionaryCommandsReachTheMaltster_guarded : (∀ k : Fin 3, let o := 0x92 + k.val; let a := 0x50020 + 2 ^ 192; let c := cmd o a
      let s := withCmd keyed o a; let m := (s.dictRequest admin0 c 3 (if k.val = 0 then none else if k.val = 1 then some 0x90010 else some 0xA0020)).msg
      Safety.started s admin0 o c ∧ s.boot.phase ≠ .recovery ∧ s.mgmt.journal = none ∧ s.mgmt.queue = [] ∧ s.mgmt.pageBudget ≠ 0 ∧
      s.quiet = false ∧ (∀ x ∈ s.host.closed, x.1 ≠ 0) ∧ serviceGroup (c.arg 0 20) = false ∧ c.arg 160 32 ≤ 65536 ∧ m.offset = 0 ∧ m.flags = 1) ∧
    (∀ k : Fin 2, let w := wait0 (if k.val = 0 then 0x90010 else 0xA0020) 0; let s := mgr { dict := [(okey 0x30 0, 1)], journal := some w }
      s.mgmt.journal = some w ∧ s.mgmt.queue = [] ∧ w.slot < 8 ∧ s.idReady = true) := by
  simp only [Safety.started]; decide +kernel

/-- A module in that phase of its start. -/
def at0 (p : StartPhase) : State := { boot.phase := p }

theorem witness_ReportsAndExportsAreSigned : let s := keyed; let x : Signing := { nonce := 0, time := 0, pace := 0, headPos := 0, headHash := 0, body := [] }
    s.obj 0x00041 0 ≠ 1 ∧ s.idReady = true ∧ (mgr {}).idReady = false ∧ (mgr { dict := [(okey 0x41 0, 1)] }).obj 0x00041 0 = 1 ∧
    s.mgmt.attest = none ∧ (mgr { attest := some x }).mgmt.attest = some x ∧
    s.obj 0x80000 0 ≠ 2 ∧ s.power.onHoldUp = false ∧ s.cask.queue.length < 256 ∧ s.cask.lastOf 0x0804 (source 0 0) = none ∧
    (mgr { dict := [(okey 0x80022 0, 1)] }).obj 0x80022 0 = 1 ∧ s.obj 0x80022 0 ≠ 1 ∧ s.exportRange 0 1 = none ∧
    (let r : CaskRecord := { type := 0, severity := 0, source := 0, payload := [], time := 0, pace := 0, boot := 0 };
      let t : State := { s with cask := { records := [(0, r)], nextSeq := 1 } }; t.exportRange 0 1 = some [r] ∧ t.cask.export_ = none) ∧
    s.boot.phase ≠ .recovery ∧ (at0 .recovery).boot.phase = .recovery := by
  decide +kernel

/-- Firmware at that HANDOVER_STATE and LOAD_STATE. -/
def fw (h l : Nat) (f : Firmware) : State := mgr { dict := [(okey 0xA0000 0, h), (okey 0xA0011 0, l)], fw := f }

/-! An image that the module accepts, written from the header's fields and Config's opaque functions. -/

theorem leBytes_length (k x : Nat) : (leBytes k x).length = k := by simp [leBytes]

theorem leNat_leBytes (k x : Nat) (h : x < 256 ^ k) : leNat (leBytes k x) = x := by
  induction k generalizing x with
  | zero => simp_all [leBytes, leNat]
  | succ k ih =>
    have e : leBytes (k + 1) x = BitVec.ofNat 8 x :: leBytes k (x / 256) := by
      simp only [leBytes, List.range_succ_eq_map, List.map_cons, List.map_map, Nat.mul_zero, Nat.shiftRight_zero]
      refine congrArg _ (List.map_congr_left fun i _ => ?_)
      have e : 2 ^ (8 * (i + 1)) = 256 * 2 ^ (8 * i) := by rw [Nat.mul_succ, Nat.pow_add, Nat.mul_comm]
      simp only [Function.comp, Nat.shiftRight_eq_div_pow, Nat.div_div_eq_div_mul, Nat.succ_eq_add_one, e]
    rw [e, leNat, List.foldr_cons, ← leNat, ih _ (by rw [Nat.div_lt_iff_lt_mul (by omega)]; omega), BitVec.toNat_ofNat]
    omega

/-- The bytes of an image between those before and those behind them. -/
theorem imageBytes_parts (l : List Bytes) (i n off k : Nat) (ho : (l.take i).flatten.length = off)
    (hk : ((l.drop i).take n).flatten.length = k) : imageBytes l.flatten off k = ((l.drop i).take n).flatten := by
  subst ho hk
  have e : l.flatten = (l.take i).flatten ++ (((l.drop i).take n).flatten ++ ((l.drop i).drop n).flatten) := by
    rw [← List.flatten_append, List.take_append_drop, ← List.flatten_append, List.take_append_drop]
  rw [e]
  generalize (l.take i).flatten = p, ((l.drop i).take n).flatten = m, ((l.drop i).drop n).flatten = q
  simp [imageBytes]

/-- The ROM's signer in these tests, and the header that an image with these fields signs. -/
def pk0 : Bytes := leBytes 1312 0
def hdr0 (svn steps digest : Nat) : List Bytes :=
  [leBytes 4 0x4E414C46, leBytes 2 1, leBytes 2 0, leBytes 4 1, leBytes 2 svn, leBytes 1 steps, leBytes 1 0, leBytes 4 1,
   leBytes 32 digest, pk0]
def sig0 (svn steps digest : Nat) : BitVec 19360 := Config.mlDsaSign pk0 (sha3Bytes (hdr0 svn steps digest).flatten) []
/-- An image of one byte of code, signed by that signer. -/
def parts0 (svn steps digest : Nat) : List Bytes :=
  hdr0 svn steps digest ++ [leBytes 2420 (sig0 svn steps digest).toNat, leBytes 312 0, leBytes 1 7]
def image0 (svn steps digest : Nat) : Bytes := (parts0 svn steps digest).flatten

theorem image0_parts (svn steps digest : Nat) (hs : svn < 65536) (ht : steps < 256) (hd : digest < 2 ^ 256) :
    imageFramed (image0 svn steps digest) = true ∧ imageSigner (image0 svn steps digest) = pk0 ∧
    imageSigned (image0 svn steps digest) = true ∧ imageBodyDigest (image0 svn steps digest) = digest ∧
    imageBody (image0 svn steps digest) = leBytes 1 7 ∧ imageSvn (image0 svn steps digest) = svn ∧
    imageSteppings (image0 svn steps digest) = steps := by
  have f : ∀ i n off k m, (((parts0 svn steps digest).drop i).take n).flatten = m → ((parts0 svn steps digest).take i).flatten.length = off →
      m.length = k → imageBytes (image0 svn steps digest) off k = m := fun i n off k m h ho hk => by
    rw [← h] at hk ⊢; exact imageBytes_parts _ _ _ _ _ ho hk
  have g : ∀ i off k m, (((parts0 svn steps digest).drop i).take 1).flatten = m → ((parts0 svn steps digest).take i).flatten.length = off →
      m.length = k → imageBytes (image0 svn steps digest) off k = m := fun i => f i 1
  have bl : imageBodyLen (image0 svn steps digest) = 1 := by
    rw [imageBodyLen, imageNum, g 7 16 4 (leBytes 4 1) (by simp [parts0, hdr0]) (by simp [parts0, hdr0, leBytes_length]) (leBytes_length _ _)]; decide
  have bp := g 9 52 1312 pk0 (by simp [parts0, hdr0]) (by simp [parts0, hdr0, leBytes_length]) (leBytes_length _ _)
  have bh := f 0 10 0 1364 (hdr0 svn steps digest).flatten (by simp [parts0, hdr0]) (by simp) (by simp [hdr0, leBytes_length, pk0])
  have bs := g 10 1364 2420 (leBytes 2420 (sig0 svn steps digest).toNat) (by simp [parts0, hdr0]) (by simp [parts0, hdr0, leBytes_length, pk0]) (leBytes_length _ _)
  refine ⟨?_, bp, ?_, ?_, ?_, ?_, ?_⟩
  · unfold imageFramed
    rw [bl, imageMagic, imageNum, g 0 0 4 (leBytes 4 0x4E414C46) (by simp [parts0, hdr0]) (by simp) (leBytes_length _ _), imageFormat,
      imageNum, g 1 4 2 (leBytes 2 1) (by simp [parts0, hdr0]) (by simp [parts0, hdr0, leBytes_length]) (leBytes_length _ _)]; decide
  · unfold imageSigned mlDsaVerifies imageSignature
    rw [imageSigner, bp, bh, imageNum, bs, leNat_leBytes _ _ (by exact lt_of_lt_of_eq (sig0 svn steps digest).isLt (Nat.pow_mul 2 8 2420))]
    simp [sig0]
  · rw [imageBodyDigest, imageNum, g 8 20 32 (leBytes 32 digest) (by simp [parts0, hdr0]) (by simp [parts0, hdr0, leBytes_length]) (leBytes_length _ _),
      leNat_leBytes _ _ hd]
  · rw [imageBody, bl, g 12 4096 1 (leBytes 1 7) (by simp [parts0, hdr0]) (by simp [parts0, hdr0, leBytes_length, pk0]) (leBytes_length _ _)]
  · rw [imageSvn, imageNum, g 4 12 2 (leBytes 2 svn) (by simp [parts0, hdr0]) (by simp [parts0, hdr0, leBytes_length]) (leBytes_length _ _),
      leNat_leBytes _ _ hs]
  · rw [imageSteppings, imageNum, g 5 14 1 (leBytes 1 steps) (by simp [parts0, hdr0]) (by simp [parts0, hdr0, leBytes_length]) (leBytes_length _ _),
      leNat_leBytes _ _ ht]

def code0 : Nat := (Config.sha3 (leBytes 1 7)).toNat

theorem image0_reason (s : State) (svn steps digest : Nat) (hs : svn < 65536) (ht : steps < 256) (hd : digest < 2 ^ 256)
    (h : s.mgmt.signers = [Config.sha3 pk0]) : s.imageReason (image0 svn steps digest) =
    if digest ≠ code0 then 4 else if svn < s.obj 0xA0003 0 then 5 else if !bit steps (if Config.steppingB1 then 1 else 0) then 6 else 0 := by
  obtain ⟨a, b, c, d, e, f, g⟩ := image0_parts svn steps digest hs ht hd
  simp only [State.imageReason, imageForStepping, a, b, c, d, e, f, g, h]
  simp [code0]

theorem code0_lt : code0 < 2 ^ 256 := (Config.sha3 (leBytes 1 7)).isLt

/-- Images for both steppings, for neither, and with the wrong digest. -/
theorem image0_reasons (s : State) (h : s.mgmt.signers = [Config.sha3 pk0]) (k : s.obj 0xA0003 0 = 1) :
    s.imageReason (image0 1 3 code0) = 0 ∧ s.imageReason (image0 0 3 code0) = 5 ∧ s.imageReason (image0 1 0 code0) = 6 ∧
    s.imageReason (image0 1 3 (if code0 = 0 then 1 else 0)) = 4 ∧ s.imageReason [0, 0, 0, 0] = 1 := by
  refine ⟨?_, ?_, ?_, ?_, ?_⟩
  · rw [image0_reason _ _ _ _ (by decide) (by decide) code0_lt h, k, if_neg (fun x => x rfl)]; cases Config.steppingB1 <;> decide
  · rw [image0_reason _ _ _ _ (by decide) (by decide) code0_lt h, k]; simp
  · rw [image0_reason _ _ _ _ (by decide) (by decide) code0_lt h, k, if_neg (fun x => x rfl)]; cases Config.steppingB1 <;> decide
  · rw [image0_reason _ _ _ _ (by decide) (by decide) (by split <;> decide) h, if_pos (by split <;> omega)]
  · have e : imageFramed [0, 0, 0, 0] = false := by
      unfold imageFramed
      rw [show imageMagic [0, 0, 0, 0] = 0 by decide]; decide
    unfold State.imageReason; rw [e]; rfl

/-- Firmware at that HANDOVER_STATE and LOAD_STATE, with those images in its slots; the ROM takes `pk0` as a signer and the lowest
security version is 1. -/
def fwI (h l : Nat) (a b : Bytes) : State :=
  mgr { dict := [(okey 0xA0000 0, h), (okey 0xA0011 0, l), (okey 0xA0003 0, 1)], fw := { slotA := a, slotB := b }, signers := [Config.sha3 pk0] }

theorem readSlot_none (b : Bytes) : readSlot b [] = b := rfl

theorem witness_FirmwareIsLoadedAndHandedOver : (fw 1 0 {}).obj 0xA0000 0 = 1 ∧ (fw 0 2 {}).obj 0xA0011 0 = 2 ∧ (fw 0 0 {}).obj 0xA0000 0 ≠ 1 ∧
    (fw 0 0 {}).obj 0xA0011 0 ≠ 2 ∧ (fw 0 0 {}).obj 0xA0011 0 ≠ 1 ∧
    (fw 0 1 {}).obj 0xA0000 0 ≠ 1 ∧ (fw 0 1 {}).obj 0xA0011 0 = 1 ∧ (fw 0 1 {}).mgmt.fw.loadNext ≤ 8 ∧
    0 = (fw 0 1 {}).mgmt.fw.loadOwner ∧ 8 + [(0 : Byte)].length ≤ 33554432 ∧
    (1 ≠ (fw 0 1 {}).mgmt.fw.loadOwner ∧ 8 < (fw 0 1 { loadNext := 9 }).mgmt.fw.loadNext) ∧
    (fw 1 0 {}).mgmt.fw.newStarted = false ∧ (fw 1 0 {}).mgmt.journal = none ∧ (fw 1 0 { newStarted := true }).mgmt.fw.newStarted = true ∧
    ({ fw 1 0 {} with mgmt.journal := some (wait0 0x50020 1) } : State).mgmt.journal ≠ none ∧
    McUnit.links ∉ (fw 1 0 { newStarted := true }).mgmt.fw.switched ∧
    McUnit.links ∈ (fw 1 0 { newStarted := true, switched := [.links] }).mgmt.fw.switched ∧
    (fw 1 0 { newStarted := true, switched := [.conveyor, .memory, .kilns, .links] }).mgmt.fw.switched.length = 4 ∧
    (at0 .rom).boot.phase = .rom ∧ (at0 .recovery).mgmt.notices = [] := by decide +kernel

/-- The image of the other slot, accepted and refused, while the module runs and in recovery; what is read back is what was written. -/
theorem witness_FirmwareIsLoadedAndHandedOver_images : (fwI 0 2 [] (image0 1 3 code0)).obj 0xA0011 0 = 2 ∧
    (fwI 0 2 [] (image0 1 3 code0)).activeSlot = 0 ∧ (fwI 0 2 [] (image0 1 3 code0)).boot.phase ≠ .recovery ∧
    (let s := fwI 0 2 [] (image0 1 3 code0); s.imageReason (readSlot (s.mgmt.fw.slot 1) []) = 0) ∧
    (let s := fwI 0 2 [] (image0 0 3 code0); s.imageReason (readSlot (s.mgmt.fw.slot 1) []) ≠ 0) ∧
    (let s : State := { fwI 0 2 [] (image0 1 3 code0) with boot.phase := .recovery }; s.obj 0xA0011 0 = 2 ∧ s.boot.phase = .recovery ∧
      s.imageReason (readSlot (s.mgmt.fw.slot 1) []) = 0) ∧
    (let s := fwI 1 0 [] (image0 1 3 code0); s.obj 0xA0000 0 = 1 ∧ s.mgmt.fw.newStarted = false ∧ s.mgmt.journal = none ∧
      s.imageReason (s.mgmt.fw.slot (1 - s.activeSlot)) = 0) ∧
    (let s := fwI 1 0 [] (image0 1 0 code0); s.obj 0xA0000 0 = 1 ∧ s.mgmt.fw.newStarted = false ∧ s.mgmt.journal = none ∧
      s.imageReason (s.mgmt.fw.slot (1 - s.activeSlot)) ≠ 0) := by
  have k : ∀ h l a b, (fwI h l a b).obj 0xA0003 0 = 1 := fun h l a b => rfl
  refine ⟨rfl, by decide, by decide, (image0_reasons _ rfl rfl).1, ?_, ⟨rfl, rfl, (image0_reasons _ rfl rfl).1⟩,
    ⟨rfl, rfl, rfl, (image0_reasons _ rfl rfl).1⟩, ⟨rfl, rfl, rfl, ?_⟩⟩
  · exact fun h => absurd ((image0_reasons _ rfl rfl).2.1.symm.trans h) (by decide)
  · exact fun h => absurd ((image0_reasons _ rfl rfl).2.2.1.symm.trans h) (by decide)

/-- An image for each check of R455: not framed, of an unknown signer, not signed, signed. -/
theorem witness_FirmwareIsLoadedAndHandedOver_checks : let s := fwI 0 2 [] []; let b := image0 1 3 code0
    imageFramed [0, 0, 0, 0] = false ∧ imageFramed b = true ∧ Config.sha3 (imageSigner b) ∉ (mgr {}).mgmt.signers ∧
    Config.sha3 (imageSigner b) ∈ s.mgmt.signers ∧ imageSigned b = true ∧ imageBodyDigest b = (Config.sha3 (imageBody b)).toNat ∧
    ¬ imageSvn b < s.obj 0xA0003 0 ∧ imageForStepping b = true ∧ imageForStepping (image0 1 0 code0) = false ∧
    imageSvn (image0 0 3 code0) < s.obj 0xA0003 0 := by
  obtain ⟨f, g, h, i, j, k, l⟩ := image0_parts 1 3 code0 (by decide) (by decide) code0_lt
  obtain ⟨-, -, -, -, -, -, l0⟩ := image0_parts 1 0 code0 (by decide) (by decide) code0_lt
  obtain ⟨-, -, -, -, -, k0, -⟩ := image0_parts 0 3 code0 (by decide) (by decide) code0_lt
  have e : (fwI 0 2 [] []).obj 0xA0003 0 = 1 := rfl
  have m : (fwI 0 2 [] []).mgmt.signers = [Config.sha3 pk0] := rfl
  simp only [f, g, h, i, j, k, k0, e, m, imageForStepping, l, l0]
  refine ⟨?_, trivial, (by intro h; cases h), by simp, trivial, rfl, by decide, ?_, ?_, by decide⟩
  · unfold imageFramed
    rw [show imageMagic [0, 0, 0, 0] = 0 by decide]; decide
  all_goals cases Config.steppingB1 <;> decide


/-! ### Power, start-up, repair -/

/-- A module at that phase with that power state. -/
def at_ (ph : StartPhase) (p : Power) : State := { boot.phase := ph, power := p }

theorem witness_ClocksStretchForPowerAndHeat : let s := at_ .started {}; let off := at_ .held { hold := .off }
    off.watches = false ∧ s.watches = true ∧ 30000 < s.obj 0x10010 0 ∧ s.power.brown = false ∧ (at_ .started { brown := true }).power.brown = true ∧
    (at_ .started { brown := true }).watches = true ∧ s.obj 0x80000 0 ≠ 2 ∧ s.power.onHoldUp = false ∧ s.cask.queue.length < 256 ∧
    s.cask.lastOf 0x0101 (source 0 0) = none ∧ s.clocked = true ∧ off.clocked = false ∧ s.obj 0x10020 0 < 5000 ∧ 0 ≤ s.obj 0x10020 0 ∧
    s.power.stopped.contains 7 = false ∧ 7 ∈ (at_ .started { stopped := [7] }).power.stopped ∧ s.serves = true ∧ off.serves = false ∧
    .die 7 ∉ s.power.hot ∧ s.cask.lastOf 0x0201 (source 1 7) = none ∧ s.beyond (.die 7) 95000 = false ∧ s.behind (.die 7) 95000 = false := by
  decide +kernel

theorem witness_PowerLossAndResets : let s := at_ .started {}; let off := at_ .held { hold := .off }
    s.running = true ∧ off.running = false ∧ 0 < s.obj 0x10011 0 ∧ (at_ .held { hold := .overvoltage }).power.hold = .overvoltage ∧
    s.power.hold ≠ .overvoltage ∧ (at_ .held { hold := .powerLoss, onHoldUp := true }).power.onHoldUp = true ∧ s.power.onHoldUp = false ∧
    off.power.hold = .off ∧ (at_ .held { hold := .powerLoss }).power.hold = .powerLoss ∧ s.power.hold = .none ∧ tripping (.die 0) 115000 = true ∧
    tripping .inlet 200000 = false ∧
    (let t : State := { at_ .held { hold := .tripped } with pins.perstN := true }; t.power.hold = .tripped ∧ t.power.trippedBy = none ∧ t.pins.perstN = true) ∧
    s.pins.perstN = false ∧ ({ s with pins.perstN := true } : State).running = true ∧ ({ off with pins.perstN := true } : State).running = false ∧
    (at_ .image {}).boot.phase = .image ∧ s.barOpen = true ∧ off.barOpen = false ∧ off.boot.phase ≠ .recovery ∧ s.cask.pairs[0]? = none ∧
    (let p : Coalesced := { type := 0x0201, source := 0, start := 0, count := 1, payload := [], severity := 0 };
      let t : State := { s with cask.pairs := [p], clock.oscNs := 2000000000 }; t.cask.pairs[0]? = some p ∧ t.power.dark = false ∧
      p.start + 1000000000 ≤ t.now ∧ t.obj 0x80000 0 ≠ 2) ∧
    s.clock.refPresent = true ∧ (span2 0 .running).moving = true ∧ (span2 0 .running).conv.span.n ≠ 1 := by decide +kernel

theorem witness_StartUpSequence : let s := State.reset
    s.boot.phase = .held ∧ s.power.hold = .none ∧ s.mgmt.store = [] ∧ s.obj 0xA0006 0 = 0 ∧ s.obj 0x80000 0 ≠ 2 ∧ s.power.onHoldUp = false ∧
    s.cask.queue.length < 256 ∧ (at_ .started {}).boot.phase ≠ .held ∧
    (at_ .ramped {}).power.hold = .none ∧ (at_ .ramped {}).boot.phase = .ramped ∧ (at_ .tested {}).boot.phase = .tested ∧
    ({ silentDie := some 0 } : SelfTest).silentDie ≠ none ∧
    (let t : State := { at_ .trained {} with mgmt.dict := (List.range 16).map (fun h => (okey 0x40001 h, 9600)) };
      t.boot.phase = .trained ∧ ({} : SelfTest).silentDie = none ∧
      (∀ h : Fin 16, t.obj 0x40001 h.val ≠ 0 ∧ (t.failedOf {} h.val).length ≤ 2) ∧ ∀ i : Fin 16, (t.lp (2 * i.val)).failed = false) := by
  decide +kernel

/-- A module held at reset with those images in its slots. -/
def romI (a b : Bytes) : State := { mgmt := { dict := [(okey 0xA0003 0, 1)], fw := { slotA := a, slotB := b }, signers := [Config.sha3 pk0] } }

/-- The first slot's image accepted, the second's only, and neither; the lowest bootable version is 1. -/
theorem witness_StartUpSequence_images : ∀ x : Bytes, (romI x x).boot.phase = .held ∧ (romI x x).power.hold = .none ∧ (romI x x).mgmt.store = [] ∧
    (romI x x).obj 0xA0006 0 = 0 ∧
    (let i := image0 1 3 code0; (romI i x).imageReason (readSlot (romI i x).mgmt.fw.slotA []) = 0) ∧
    (let i := image0 1 3 code0; let s := romI [0, 0, 0, 0] i; s.imageReason (readSlot s.mgmt.fw.slotA []) ≠ 0 ∧
      s.imageReason (readSlot s.mgmt.fw.slotB []) = 0) ∧
    (let s := romI [0, 0, 0, 0] [0, 0, 0, 0]; s.imageReason (readSlot s.mgmt.fw.slotA []) ≠ 0 ∧ s.imageReason (readSlot s.mgmt.fw.slotB []) ≠ 0) := by
  have k : ∀ a b, (romI a b).obj 0xA0003 0 = 1 := fun a b => rfl
  have z : ∀ a b, (romI a b).imageReason [0, 0, 0, 0] = 1 := fun a b => (image0_reasons _ rfl (k a b)).2.2.2.2
  have o : ∀ a b, (romI a b).imageReason (image0 1 3 code0) = 0 := fun a b => (image0_reasons _ rfl (k a b)).1
  have n : ∀ a b, (romI a b).imageReason [0, 0, 0, 0] ≠ 0 := fun a b => by rw [z]; decide
  intro x
  exact ⟨rfl, rfl, rfl, rfl, o _ _, ⟨n _ _, o _ _⟩, n _ _, n _ _⟩

/-- The identity that the SRAM and the helper data give, with its own digest in flash and with another. -/
theorem witness_StartUpSequence_identity : ∀ sram : Bytes, let d := Config.sha3 (leBytes 1312 (Config.mlDsaKey (Config.pufSeed sram [])).toNat)
    let s : State := { mgmt := { idDigest := d } }; let t : State := { mgmt := { idDigest := d + 1 } }
    d = s.mgmt.idDigest ∧ d ≠ t.mgmt.idDigest ∧ s.boot.phase = .held ∧ t.boot.phase = .held ∧ s.mgmt.store = [] ∧ t.mgmt.store = [] := by
  intro sram d s t
  refine ⟨rfl, fun h => ?_, rfl, rfl, rfl, rfl⟩
  have e : d = d + 1 := h
  bv_omega

/-- A started module with eight missed polls before of everything that is polled under the number `n`. -/
def missing (n : Nat) : State := { at_ .started {} with health.missed := [(n, 9)] }

theorem witness_LossAndRepair : let s := at_ .started {}
    State.reset.polls = false ∧ s.polls = true ∧ PollUnit.kiln 3 ∉ s.health.lost ∧ s.health.missed.get 0 (pollNumber (.kiln 3)) < 9 ∧
    (let t := missing (pollNumber (.cluster 1087)); t.polls = true ∧ 9 ≤ t.health.missed.get 0 (pollNumber (.cluster 1087)) ∧
      1087 ∉ t.health.absent) ∧
    (let t := missing (pollNumber (.die 7)); 9 ≤ t.health.missed.get 0 (pollNumber (.die 7)) ∧ .die 7 ∉ t.health.lost) ∧
    (withProg.hasContext 0 = true) ∧ s.hasContext 0 = false ∧ s.health.pendingRetire = [] ∧
    (let t : State := { small s with health.absent := [5] };
      ((t.stationsOf 0).flatMap t.stationClusters).filter (fun c => t.health.absent.contains c) = [5] ∧ t.stationOf 5 = some 0 ∧
      (t.sparesOf (5 / 136)).head? = some 128) ∧
    (let t : State := { s with health := { absent := [5], failedTest := [128, 129, 130, 131, 132, 133, 134, 135] }, mgmt.dict := [(okey 0x60010 0, 2)] };
      t.shortStation 0 = true ∧ t.shortStation 1 = false ∧ t.viOfStation 0 = none) := by decide +kernel

theorem witness_LossAndRepair_links : let s := at_ .started {}
    (let t : State := { s with fab.ports := [(0, { state := 2 })], pins.cables := [(2, { lanesUp := true })] };
      (t.port 0).up = true ∧ t.cabled 0 = true ∧ Bank.get t.health.fabDegraded [] 0 = [] ∧ (t.port 0).state ≠ 4) ∧
    (let t : State := { s with fab.ports := [(0, { state := 4 })], pins.cables := [(2, { lanesUp := true })] }; (t.port 0).state = 4 ∧ t.cabled 0 = true) ∧
    (let t := span2 0 .running; t.conv.span.n ≠ 1 ∧ 63 / 4 ∉ Bank.get t.health.spanDegraded [] 1 ∧ 63 / 4 ∉ Bank.get t.health.spanSpared [] 1) ∧
    (let t : State := { span2 0 .running with conv.k2 := true }; t.conv.span.n ≠ 1 ∧ t.conv.k2 = true ∧ t.moving = true ∧
      15 ∉ Bank.get t.health.spanSpared [] 1) ∧
    (s.pins.cables.get {} 0).present = false ∧
    (let x : Cable := { present := true, supply := true }; let t : State := { s with pins.cables := [(0, x)] };
      (t.pins.cables.get {} 0) = x ∧ x.present = true ∧ x.supply = true) := by decide +kernel

end Sys2Proof.Tests
end

/-! PROOFS. O27: what a plain write to a register does, one equation for each kind of register. -/

namespace Sys2Proof

/-! ### Banks -/

theorem Bank.find?_set_ne {α : Type} [DecidableEq α] (b : Bank α) (d v : α) (j k : Nat) (h : j ≠ k) :
    Bank.find? (Bank.set b d k v) j = Bank.find? b j := by
  unfold Bank.set
  split
  · exact Bank.find?_erase_ne b j k h
  · exact Bank.find?_put_ne b j k v h

@[simp] theorem Bank.get_put_self {α : Type} (b : Bank α) (d v : α) (k : Nat) : Bank.get (Bank.put b k v) d k = v := by
  simp [Bank.get]

namespace Machine

/-! ### Objects of the dictionary after a write to one of them -/

@[simp] theorem State.obj_setObj_self (s : State) (o i v : Nat) : (s.setObj o i v).obj o i = v :=
  Bank.get_set_self _ _ _ _

theorem State.obj_setObj_ne (s : State) (o i v p j : Nat) (h : okey p j ≠ okey o i) :
    (s.setObj o i v).obj p j = s.obj p j := by
  simp [State.obj, Bank.get, Bank.find?_set_ne _ _ _ _ _ h]

@[simp] theorem State.obj_bump_self (s : State) (o i : Nat) : (s.bump o i).obj o i = (s.obj o i + 1) % 2 ^ 64 :=
  s.obj_setObj_self o i _

theorem State.obj_bump_ne (s : State) (o i p j : Nat) (h : okey p j ≠ okey o i) : (s.bump o i).obj p j = s.obj p j :=
  s.obj_setObj_ne o i _ p j h

/-! ### A write to an object by its access code (R10) -/

theorem State.writeObject_readOnly {s : State} {o : Nat} {x : ObjInfo} (i v : Nat) (hx : s.objInfo o = some x)
    (hacc : x.acc = .ro) : s.writeObject o i v = s := by
  simp [State.writeObject, hx, hacc]

/-- No tag is asked for: the value goes on to the dictionary. -/
theorem State.writeObject_unguarded {s : State} {o i v : Nat} {x : ObjInfo} (hx : s.objInfo o = some x) (hacc : x.acc ≠ .ro)
    (hkey : keyStateOn s = false ∨ (x.acc ≠ .rwg ∧ x.acc ≠ .wog)) (hserves : s.serves = true)
    (hrec : s.recovering = false) (himage : o ≠ 0xA0010) (haccepts : s.objAccepts o i = true)
    (hindex : x.indexOk o i = true) (hv : v < 256 ^ x.size) : s.writeObject o i v = (s.applyWrite o i v).2 := by
  have hguard : (keyStateOn s && (x.acc == .rwg || x.acc == .wog)) = false := by
    rcases hkey with hkey | ⟨hrwg, hwog⟩
    · simp [hkey]
    · simp [hrwg, hwog]
  simp [State.writeObject, hx, hacc, hserves, hrec, himage, hguard, haccepts, hindex, hv]

/-- R448: a tag is asked for, and a plain write has none. -/
theorem State.writeObject_guarded {s : State} {o : Nat} {x : ObjInfo} (i v : Nat) (hx : s.objInfo o = some x)
    (hkey : keyStateOn s = true) (hacc : x.acc = .rwg ∨ x.acc = .wog) (hserves : s.serves = true)
    (hrec : s.recovering = false) (himage : o ≠ 0xA0010) : s.writeObject o i v = s.bump 0x90020 0 := by
  rcases hacc with hacc | hacc <;> simp [State.writeObject, hx, hkey, hacc, hserves, hrec, himage]

/-! ### Plain settings -/

theorem objInfo_plainSetting {o : Nat} (s : State) (h : Safety.plainSetting o) :
    ∃ n, s.objInfo o = some { size := n, acc := .rw } := by
  rcases h with rfl | rfl | rfl | rfl | rfl | rfl | rfl | rfl | rfl <;> exact ⟨_, rfl⟩

theorem objAccepts_plainSetting {o : Nat} (s : State) (i : Nat) (h : Safety.plainSetting o) : s.objAccepts o i = true := by
  rcases h with rfl | rfl | rfl | rfl | rfl | rfl | rfl | rfl | rfl <;> rfl

/-- A plain setting takes a value in its range, to be saved by the next commit, and no other. -/
theorem applyWrite_plainSetting {o : Nat} (s : State) (i v : Nat) (h : Safety.plainSetting o) :
    s.applyWrite o i v = if s.rangeOk o i v then (0, s.setPersistent o i v) else (5, s) := by
  rcases h with rfl | rfl | rfl | rfl | rfl | rfl | rfl | rfl | rfl <;> rfl

@[simp] theorem State.obj_setPersistent_self (s : State) (o i v : Nat) : (s.setPersistent o i v).obj o i = v :=
  s.obj_setObj_self o i v

theorem State.find?_setPersistent_ne (s : State) (o i v k : Nat) (h : k ≠ okey o i) :
    Bank.find? (s.setPersistent o i v).mgmt.dict k = Bank.find? s.mgmt.dict k :=
  Bank.find?_set_ne _ _ _ _ _ h

theorem writeObject_plainSetting {s : State} {o v : Nat} {x : ObjInfo} (h : Safety.plainSetting o)
    (hx : s.objInfo o = some x) (hserves : s.serves = true) (hrec : s.recovering = false) (hv : v < 256 ^ x.size) :
    s.writeObject o 0 v = if s.rangeOk o 0 v then s.setPersistent o 0 v else s := by
  obtain ⟨n, hn⟩ := objInfo_plainSetting s h
  obtain rfl : x = { size := n, acc := .rw } := Option.some.inj (hx.symm.trans hn)
  have himage : o ≠ 0xA0010 := by rintro rfl; simp [Safety.plainSetting] at h
  rw [State.writeObject_unguarded hx (by simp) (.inr (by simp)) hserves hrec himage (objAccepts_plainSetting s 0 h) rfl hv,
    applyWrite_plainSetting s 0 v h, apply_ite Prod.snd]

/-! ### Registers of the arbiters, of a function and of the mailboxes -/

theorem TimedReg.at_write_later (r : TimedReg) (c : ArbClass) (v t u : Nat) (h : cycleOf c t < cycleOf c u) :
    (r.write c v t).at c u = v := by
  simp [TimedReg.at, TimedReg.write, h]

theorem State.writePriority_eq {s : State} {die j : Nat} {c : ArbClass} (value cycle : Nat) (hc : carries die c = true)
    (hj : 8 * j < requesters c) : s.writePriority die c j value cycle =
      { s.settleClass die c cycle with
        arb.priority := s.arb.priority.put (prioKey die c j)
          ((s.arb.prioReg die c j).write c (value % 2 ^ 32) cycle) } := by
  rw [State.writePriority, if_neg (by simp [hc, hj])]
  rfl

theorem State.writePriority_later {s : State} {die j : Nat} {c : ArbClass} (value cycle t : Nat) (hc : carries die c = true)
    (hj : 8 * j < requesters c) (ht : cycleOf c cycle < cycleOf c t) :
    ((s.writePriority die c j value cycle).arb.prioReg die c j).at c t = value % 2 ^ 32 := by
  simp only [State.writePriority_eq value cycle hc hj, Arbiters.prioReg, Bank.find?_put_self, Option.getD_some]
  exact TimedReg.at_write_later _ c _ cycle t ht

/-! The admin block (Table 12.3) of an enabled function whose BAR0 is open, register by register. -/

section AdminBlock

variable {s : State} {v : Nat} (x : Nat) (hvi : s.hasVi v = true) (hbar : s.barOpen = true)
include hvi hbar

theorem State.writeAdmin_ringBase : s.writeAdmin v .ringBase x =
    { s with host.adminRing := s.host.adminRing.put v { s.host.adminRing.get {} v with base := x % 2 ^ 64 } } := by
  simp [State.writeAdmin, hvi, hbar]

theorem State.writeAdmin_ringSize : s.writeAdmin v .ringSize x =
    if 10 < x then s
    else { s with host.adminRing := s.host.adminRing.put v { s.host.adminRing.get {} v with size := x } } := by
  simp [State.writeAdmin, hvi, hbar]

theorem State.writeAdmin_eventBase : s.writeAdmin v .eventBase x =
    { s with host.adminEvent := s.host.adminEvent.put v { s.host.adminEvent.get {} v with base := x % 2 ^ 64 } } := by
  simp [State.writeAdmin, hvi, hbar]

theorem State.writeAdmin_eventSize : s.writeAdmin v .eventSize x =
    if 8 < x then s
    else { s with host.adminEvent := s.host.adminEvent.put v { s.host.adminEvent.get {} v with size := 256 * 2 ^ x } } := by
  simp [State.writeAdmin, hvi, hbar]

theorem State.writeAdmin_vector : s.writeAdmin v .vector x =
    { s with host.adminVector := s.host.adminVector.put v (x % 4096) } := by
  simp [State.writeAdmin, hvi, hbar]

end AdminBlock

theorem State.clearMailStatus_reached {s : State} (master ch v : Nat) (h : s.mailReaches master = true) :
    s.clearMailStatus master ch v = { s with
      host.txOverflow := if bit v 16 then s.host.txOverflow.filter (fun x => x != (ch, master)) else s.host.txOverflow,
      host.rxUnderflow := if bit v 17 then s.host.rxUnderflow.filter (fun x => x != (ch, master)) else s.host.rxUnderflow } := by
  simp [State.clearMailStatus, h]

theorem State.clearMailPending_open {s : State} (f v : Nat) (hbar : s.barOpen = true) : s.clearMailPending f v =
    { s with host.mailPending := s.host.mailPending.filter (fun x => !(x.1 == f && bit v x.2)) } := by
  simp [State.clearMailPending, hbar]

/-- A write of 1 to the bit of a list of marks takes the channel's mark away; a write of 0 leaves the list. -/
theorem mem_ite_filter_ne {α : Type} [BEq α] [LawfulBEq α] (b : Bool) (l : List α) (a y : α) :
    y ∈ (if b then l.filter (fun x => x != a) else l) ↔ y ∈ l ∧ ¬(b = true ∧ y = a) := by
  cases b <;> simp

/-- Settles O27, by the equation of each register's write (log entry 87). -/
theorem registerWriteResults : Obligations.RegisterWriteResults := by
  refine ⟨fun _ _ _ _ _ => rfl, fun _ _ _ _ _ _ => rfl, ?readOnly, ?plain, ?accepted, ?guarded, ?priority, ?admin,
    ?status, ?pending⟩
  case readOnly =>
    intro o i value cycle s x hx hacc
    exact congrArg Host.Outcome.next (State.writeObject_readOnly i value hx hacc)
  case plain =>
    intro o value cycle s x h hx hserves hrec hv
    have hw := writeObject_plainSetting h hx hserves hrec hv
    constructor
    · intro hr
      exact ⟨_, congrArg Host.Outcome.next (hw.trans (if_pos hr)), s.obj_setPersistent_self o 0 value,
        s.find?_setPersistent_ne o 0 value, rfl⟩
    · intro hr
      exact congrArg Host.Outcome.next (hw.trans (if_neg (by simp [hr])))
  case accepted =>
    intro o i value cycle s x hx hacc hkey hserves hrec himage haccepts hindex hv
    exact congrArg Host.Outcome.next (State.writeObject_unguarded hx hacc hkey hserves hrec himage haccepts hindex hv)
  case guarded =>
    intro o i value cycle s x hx hkey hacc hserves hrec himage
    exact ⟨_, congrArg Host.Outcome.next (State.writeObject_guarded i value hx hkey hacc hserves hrec himage),
      s.obj_bump_self _ _, rfl⟩
  case priority =>
    intro die c j value cycle s hc hj
    refine ⟨_, rfl, fun t ht => State.writePriority_later value cycle t hc hj ht, ?_⟩
    rw [if_neg (by decide), State.writePriority_eq value cycle hc hj]
    rfl
  case admin =>
    intro v vf value cycle s hvi hbar
    exact ⟨⟨_, congrArg Host.Outcome.next (State.writeAdmin_ringBase value hvi hbar), Bank.get_put_self _ _ _ _, rfl⟩,
      ⟨_, congrArg Host.Outcome.next (State.writeAdmin_eventBase value hvi hbar), Bank.get_put_self _ _ _ _, rfl⟩,
      ⟨_, congrArg Host.Outcome.next (State.writeAdmin_vector value hvi hbar), Bank.get_put_self _ _ _ _, rfl⟩,
      fun h => ⟨_, congrArg Host.Outcome.next ((State.writeAdmin_ringSize value hvi hbar).trans (if_neg h.not_gt)),
        Bank.get_put_self _ _ _ _, rfl⟩,
      fun h => congrArg Host.Outcome.next ((State.writeAdmin_ringSize value hvi hbar).trans (if_pos h)),
      fun h => ⟨_, congrArg Host.Outcome.next ((State.writeAdmin_eventSize value hvi hbar).trans (if_neg h.not_gt)),
        Bank.get_put_self _ _ _ _, rfl⟩,
      fun h => congrArg Host.Outcome.next ((State.writeAdmin_eventSize value hvi hbar).trans (if_pos h))⟩
  case status =>
    intro master ch vf value cycle s hreach
    exact ⟨_, congrArg Host.Outcome.next (State.clearMailStatus_reached _ ch.val value hreach),
      mem_ite_filter_ne (bit value 16) s.host.txOverflow _,
      mem_ite_filter_ne (bit value 17) s.host.rxUnderflow _, rfl⟩
  case pending =>
    intro v vf value cycle s hbar
    refine ⟨_, congrArg Host.Outcome.next (State.clearMailPending_open v.val value hbar), fun y => ?_, rfl⟩
    simp [imp_iff_not_or]

end Machine

end Sys2Proof

/-! PROOFS. O51: Nalora messages, from the row of a message to its answer on the management port. -/

namespace Sys2Proof.Machine

/-! ### What counting a message leaves unchanged -/

/-- 00.100 is no part of an address: counting a message changes nothing about whom it is for. -/
@[simp] theorem State.bump_notForUs (s : State) (m : NalMsg) : (s.bump 0x00100 0).notForUs m = s.notForUs m := by
  have hport : (s.bump 0x00100 0).portAddress = s.portAddress :=
    congrArg (0x8000 + ·) (s.obj_bump_ne 0x00100 0 0x00020 0 (by decide))
  have hnode : (s.bump 0x00100 0).node = s.node := s.obj_bump_ne 0x00100 0 0x50001 0 (by decide)
  rw [State.notForUs, State.notForUs, hport, hnode]

/-! ### The row of a message receives it -/

section Rows

variable {m : NalMsg} (s : State)

theorem receiveKind_of {p : Nat → Bool} {k : Nat} (hk : m.kind.toNat = k) (h : p k = true) :
    receiveKind m p s = .next (s.receive m) := by
  simp [receiveKind, hk, h]

theorem exec_naloraRead (h : m.kind.toNat = 1) : exec (.naloraRead m) s = .next (s.receive m) :=
  receiveKind_of (p := (· == 1)) s h rfl

theorem exec_naloraWrite (h : m.kind.toNat = 2) : exec (.naloraWrite m) s = .next (s.receive m) :=
  receiveKind_of (p := (· == 2)) s h rfl

theorem exec_naloraWriteG (h : m.kind.toNat = 3) : exec (.naloraWriteG m) s = .next (s.receive m) :=
  receiveKind_of (p := (· == 3)) s h rfl

theorem exec_naloraStage (h : m.kind.toNat = 4) : exec (.naloraStage m) s = .next (s.receive m) :=
  receiveKind_of (p := (· == 4)) s h rfl

theorem exec_naloraResponse (h : m.kind.toNat = 5) : exec (.naloraResponse m) s = .next (s.receive m) :=
  receiveKind_of (p := (· == 5)) s h rfl

theorem exec_naloraIdentify (h : m.kind.toNat = 6) : exec (.naloraIdentify m) s = .next (s.receive m) :=
  receiveKind_of (p := (· == 6)) s h rfl

theorem exec_naloraNotice (h : m.kind.toNat = 7) : exec (.naloraNotice m) s = .next (s.receive m) :=
  receiveKind_of (p := (· == 7)) s h rfl

theorem exec_naloraReservedKind (h : m.kind.toNat = 0 ∨ 8 ≤ m.kind.toNat) :
    exec (.naloraReservedKind m) s = .next (s.receive m) :=
  receiveKind_of (p := fun k => k == 0 || decide (8 ≤ k)) s rfl (by simpa using h)

end Rows

theorem exec_nalRow (m : NalMsg) (s : State) : exec (Safety.nalRow m) s = .next (s.receive m) := by
  unfold Safety.nalRow
  split
  case h_1 h => exact exec_naloraRead s h
  case h_2 h => exact exec_naloraWrite s h
  case h_3 h => exact exec_naloraWriteG s h
  case h_4 h => exact exec_naloraStage s h
  case h_5 h => exact exec_naloraResponse s h
  case h_6 h => exact exec_naloraIdentify s h
  case h_7 h => exact exec_naloraNotice s h
  case h_8 => exact exec_naloraReservedKind s (by simp only [imp_false] at *; omega)

/-- A message as the Maltster's queue holds it. -/
abbrev messageRequest (m : NalMsg) : Request := { msg := m, len := m.dataLen.toNat }

/-! ### What the Maltster does with a message that arrives (R428, R431) -/

section Receive

variable {s : State} {m : NalMsg}

theorem State.receive_not_serving (h : s.serves = false) : s.receive m = s := by
  simp [State.receive, h]

/-- R424: a frame that the port does not accept carries no message; only its collisions are counted. -/
theorem State.receive_bad_frame (hserves : s.serves = true) (hport : m.path = .port) (hframe : frameOk m = false) :
    s.receive m = s.noteCollisions m.frame.collisions := by
  simp [State.receive, hserves, hport, hframe]

section Carried

variable (hserves : s.serves = true) (hphase : s.boot.phase ≠ .recovery)
  (hframe : m.path = .port → frameOk m = true ∧ m.frame.collisions = 0)
include hserves hphase hframe

/-- A message that gets as far as its header is counted in 00.100. -/
theorem State.receive_carried : s.receive m =
    if badMessage m then (s.bump 0x00100 0).bump 0x00102 0
    else if s.notForUs m then s.bump 0x00100 0
    else (s.bump 0x00100 0).handle m := by
  have hrec : s.recovering = false := by simp [State.recovering, hphase]
  by_cases hport : m.path = .port
  · obtain ⟨hok, hcol⟩ := hframe hport
    simp [State.receive, hserves, hrec, hport, hok, hcol, State.noteCollisions]
  · simp [State.receive, hserves, hrec, hport]

theorem State.receive_for_us (hbad : badMessage m = false) (hus : s.notForUs m = false) :
    s.receive m = (s.bump 0x00100 0).handle m := by
  simp [State.receive_carried hserves hphase hframe, hbad, hus]

end Carried

/-- A message that is answered without an object is answered at once. -/
theorem State.handle_of_direct {t : State} (h5 : m.kind ≠ 5) (h7 : m.kind ≠ 7) (hquiet : s.quiet = false)
    (h : s.direct m = some t) : s.handle m = t := by
  rw [State.handle, if_neg h5, if_neg h7]
  simp [hquiet, h]

theorem State.handle_of_request (h5 : m.kind ≠ 5) (h7 : m.kind ≠ 7) (hquiet : s.quiet = false)
    (h : s.direct m = none) : s.handle m = s.request (messageRequest m) := by
  rw [State.handle, if_neg h5, if_neg h7]
  simp [hquiet, h]

/-- R431: a RESPONSE is never answered. -/
theorem State.handle_response (hk : m.kind.toNat = 5) : s.handle m = s := by
  rw [State.handle, if_pos (BitVec.eq_of_toNat_eq hk)]

/-- R431: a NOTICE is dropped. -/
theorem State.handle_notice (hk : m.kind.toNat = 7) : s.handle m = s.bump 0x00102 0 := by
  have h7 : m.kind = 7 := BitVec.eq_of_toNat_eq hk
  rw [State.handle, h7]
  rfl

end Receive

/-! ### The queue of the Maltster -/

theorem State.withQueue_eq {s : State} {l : List Request} (h : s.mgmt.queue = l) : { s with mgmt.queue := l } = s := by
  subst h; rfl

/-- The request at the head of the queue is served, and then the others, while nothing waits for a commit. -/
theorem State.serve_cons {s : State} {q : Request} {rest : List Request} (n : Nat) (hquiet : s.quiet = false)
    (hjournal : s.mgmt.journal = none) (hqueue : s.mgmt.queue = q :: rest) (hkind : q.msg.kind ≠ 3) :
    State.serve (n + 1) s = State.serve n (({ s with mgmt.queue := rest } : State).serveOne q) := by
  rw [State.serve, hquiet, hjournal, hqueue]
  simp only [if_neg (fun h : q.msg.kind = 3 ∧ s.mgmt.pageBudget = 0 => hkind h.1)]
  rfl

/-- Where nothing waits, a request other than a guarded write is served at once. -/
theorem State.request_idle {s : State} {q : Request} (hquiet : s.quiet = false) (hjournal : s.mgmt.journal = none)
    (hqueue : s.mgmt.queue = []) (hkind : q.msg.kind ≠ 3) : s.request q = s.serveOne q := by
  have hserve := State.serve_cons (s := { s with mgmt.queue := [q] }) 0 hquiet hjournal rfl hkind
  rw [State.request, hqueue, if_neg (by simp)]
  exact hserve.trans (congrArg (State.serveOne · q) (State.withQueue_eq hqueue))

/-! ### Answers on the management port -/

theorem State.mailForbidden_port {m : NalMsg} (s : State) (h : m.path = .port) : s.mailForbidden m = false := by
  simp [State.mailForbidden, h]

theorem State.direct_of_kept {s : State} {m : NalMsg} {x : NalMsg × Response} (hport : m.path = .port)
    (hkept : s.keptFor m = some x) : s.direct m = some (s.sendResponse m x.2) := by
  simp [State.direct, s.mailForbidden_port hport, hkept]

section Fresh

variable {s : State} {m : NalMsg} (hport : m.path = .port) (hkept : s.keptFor m = none) (hrec : s.recovering = false)
include hport hkept hrec

theorem State.direct_identify (hk : m.kind.toNat = 6) : s.direct m = some (s.respondMsg m 0 s.identity) := by
  simp [State.direct, s.mailForbidden_port hport, hkept, hrec, hk]

theorem State.direct_reserved (hk : 8 ≤ m.kind.toNat) : s.direct m = some (s.respondMsg m 8 []) := by
  have h6 : m.kind.toNat ≠ 6 := by omega
  have h5 : 5 ≤ m.kind.toNat := by omega
  simp [State.direct, s.mailForbidden_port hport, hkept, hrec, h6, h5]

/-- READ, WRITE, WRITE_G and STAGE ask for an object. -/
theorem State.direct_object (hk : m.kind.toNat ≠ 0) (hlt : m.kind.toNat < 5) : s.direct m = none := by
  have h6 : m.kind.toNat ≠ 6 := by omega
  simp [State.direct, s.mailForbidden_port hport, hkept, hrec, h6, hk, hlt]

end Fresh

theorem State.answerRequest_message {s : State} {q : Request} {status : Nat} (moved : Nat) (data : Bytes) (hcmd : q.cmd = none)
    (hbusy : status ≠ 7) : s.answerRequest q status moved data = s.respondMsg q.msg status data := by
  simp [State.answerRequest, hcmd, hbusy]

@[simp] theorem State.obj_sendFrame (s : State) (dst : BitVec 48) (bs : Bytes) (o i : Nat) :
    (s.sendFrame dst bs).obj o i = s.obj o i := rfl

/-- What sending a response on the management port changes. -/
theorem State.sendResponse_port {m : NalMsg} (s : State) (r : Response) (h : m.path = .port) : s.sendResponse m r =
    (({ s with mgmt.sent := s.mgmt.sent ++ [r] } : State).bump 0x00101 0).sendFrame m.frame.src
      ((({ s with mgmt.sent := s.mgmt.sent ++ [r] } : State).bump 0x00101 0).responseBytes .port r) := by
  simp [State.sendResponse, h]

/-- A response on the management port to a message that has been counted answers it. -/
theorem answered_respondMsg {s : State} {m : NalMsg} (status : Nat) (data : Bytes) (hport : m.path = .port)
    (hqueue : s.mgmt.queue = []) : Safety.answered s ((s.bump 0x00100 0).respondMsg m status data) m status data := by
  have hcount (t : State) (ht : t.mgmt.dict = (s.bump 0x00100 0).mgmt.dict) :
      (t.bump 0x00101 0).obj 0x00100 0 = (s.obj 0x00100 0 + 1) % 2 ^ 64 := by
    rw [State.obj_bump_ne t 0x00101 0 0x00100 0 (by decide), ← s.obj_bump_self 0x00100 0, State.obj, State.obj, ht]
  rw [State.respondMsg, State.sendResponse_port _ _ hport]
  refine ⟨rfl, rfl, hqueue, ?_⟩
  rw [State.obj_sendFrame]
  exact hcount _ rfl

/-! ### Reads (R549) -/

theorem objLow_writeOnly {o : Nat} {x : ObjInfo} (hx : objLow o = some x) (h : x.acc = .wo ∨ x.acc = .wog) :
    o = 0x00040 := by
  unfold objLow at hx
  split at hx <;> cases hx <;> revert h <;> simp

theorem objMid_not_writeOnly {o : Nat} {x : ObjInfo} (hx : objMid o = some x) : ¬(x.acc = .wo ∨ x.acc = .wog) := by
  unfold objMid at hx
  split at hx <;> (repeat' split at hx) <;> cases hx <;> decide

theorem objHigh_writeOnly {s : State} {o : Nat} {x : ObjInfo} (hx : objHigh s o = some x) (h : x.acc = .wo ∨ x.acc = .wog) :
    o = 0x80020 ∨ o = 0x90010 ∨ o = 0xA0010 ∨ o = 0xA0020 := by
  unfold objHigh at hx
  split at hx <;> (repeat' split at hx) <;> cases hx <;> revert h <;> simp

/-- A write-only object is one of five. -/
theorem objInfo_writeOnly {s : State} {o : Nat} {x : ObjInfo} (hx : s.objInfo o = some x) (h : x.acc = .wo ∨ x.acc = .wog) :
    o = 0x00040 ∨ o = 0x80020 ∨ o = 0x90010 ∨ o = 0xA0010 ∨ o = 0xA0020 := by
  rw [State.objInfo, Option.or_eq_some_iff, Option.or_eq_some_iff] at hx
  rcases hx with (hlow | ⟨-, hmid⟩) | ⟨-, hhigh⟩
  · exact .inl (objLow_writeOnly hlow h)
  · exact absurd h (objMid_not_writeOnly hmid)
  · exact .inr (objHigh_writeOnly hhigh h)

theorem State.objBytes_writeOnly {s : State} {o : Nat} {x : ObjInfo} (t : State) (i off n : Nat) (hx : s.objInfo o = some x)
    (h : x.acc = .wo ∨ x.acc = .wog) : t.objBytes o i off n = List.replicate n 0 := by
  rcases objInfo_writeOnly hx h with rfl | rfl | rfl | rfl | rfl <;> rfl

@[simp] theorem length_leBytes (k x : Nat) : (leBytes k x).length = k := by simp [leBytes]

theorem State.length_identity (s : State) : s.identity.length = 49 := by
  simp [State.identity, State.objBytes]

/-- The bytes that a READ asks for: LEN, or what is left of the object. -/
def readLength (m : NalMsg) (x : ObjInfo) : Nat :=
  if m.dataLen = 0 then min 208 (x.size - m.offset.toNat) else m.dataLen.toNat

section ReadStatus

variable {s : State} {m : NalMsg} (hrec : s.recovering = false)
include hrec

theorem State.readStatus_service (hgroup : serviceGroup m.object.toNat = true) :
    s.readStatus (messageRequest m) = (3, 0) := by
  simp [State.readStatus, hrec, hgroup]

theorem State.readStatus_noObject (hgroup : serviceGroup m.object.toNat = false) (hx : s.objInfo m.object.toNat = none) :
    s.readStatus (messageRequest m) = (1, 0) := by
  simp [State.readStatus, hrec, hgroup, hx]

variable {x : ObjInfo} (hgroup : serviceGroup m.object.toNat = false) (hx : s.objInfo m.object.toNat = some x)
include hgroup hx

theorem State.readStatus_noIndex (hindex : x.indexOk m.object.toNat m.index.toNat = false) :
    s.readStatus (messageRequest m) = (2, 0) := by
  simp [State.readStatus, hrec, hgroup, hx, hindex]

theorem State.readStatus_object (hindex : x.indexOk m.object.toNat m.index.toNat = true) :
    s.readStatus (messageRequest m) =
      if (m.offset ≠ 0 ∧ x.blob = false) ∨ x.size < m.offset.toNat + readLength m x ∨ 208 < readLength m x then (4, 0)
      else (0, readLength m x) := by
  have hlen : m.dataLen.toNat = 0 ↔ m.dataLen = 0 := BitVec.toNat_inj (y := 0)
  have hoff : m.offset.toNat = 0 ↔ m.offset = 0 := BitVec.toNat_inj (y := 0)
  simp [State.readStatus, hrec, hgroup, hx, hindex, hlen, hoff, readLength]
  congr  -- the two conditions are the same, decided in two ways

end ReadStatus

theorem State.serveRead_refused {s : State} {m : NalMsg} {status : Nat} (h : s.readStatus (messageRequest m) = (status, 0))
    (hne : status ≠ 0) (hbusy : status ≠ 7) : s.serveRead (messageRequest m) = s.respondMsg m status [] := by
  simp [State.serveRead, h, hne, State.answerRequest_message _ _ _ hbusy]

theorem State.serveRead_served {s : State} {m : NalMsg} {n : Nat} (h : s.readStatus (messageRequest m) = (0, n)) :
    s.serveRead (messageRequest m) =
      s.respondMsg m 0 (s.objBytes m.object.toNat m.index.toNat m.offset.toNat n) := by
  simp [State.serveRead, h, State.answerRequest_message]

/-! ### A sound request on the management port, in the state that has counted it -/

section Asks

variable {s : State} {m : NalMsg} {k : Nat} (h : Safety.asks s m k)
include h

theorem asks_recovering : (s.bump 0x00100 0).recovering = false := by
  obtain ⟨-, hphase, -⟩ := h
  exact beq_eq_false_iff_ne.mpr hphase

theorem asks_keptFor : (s.bump 0x00100 0).keptFor m = none := by
  obtain ⟨-, -, -, -, -, -, -, -, -, hkept, -, -⟩ := h
  change s.keptFor m = none
  simpa [State.keptFor] using hkept

theorem asks_path : m.path = .port := by
  obtain ⟨-, -, hport, -⟩ := h
  exact hport

theorem asks_kind : m.kind.toNat = k := by
  obtain ⟨-, -, -, -, -, -, -, -, hkind, -⟩ := h
  exact hkind

theorem asks_kind_ne (j : BitVec 8) (hj : k ≠ j.toNat) : m.kind ≠ j := by
  rintro rfl
  exact hj (asks_kind h).symm

/-- The Maltster serves requests, and none waits. -/
theorem asks_idle : (s.bump 0x00100 0).quiet = false ∧ (s.bump 0x00100 0).mgmt.journal = none ∧
    (s.bump 0x00100 0).mgmt.queue = [] := by
  obtain ⟨-, -, -, -, -, hquiet, -, -, -, -, hjournal, hqueue⟩ := h
  exact ⟨hquiet, hjournal, hqueue⟩

theorem asks_receive : s.receive m = (s.bump 0x00100 0).handle m := by
  obtain ⟨hserves, hphase, -, hframe, hcol, -, hbad, hus, -, -, -, -⟩ := h
  exact State.receive_for_us hserves hphase (fun _ => ⟨hframe, hcol⟩) hbad hus

/-- A request that no object is needed for is answered at once. -/
theorem asks_receive_direct {status : Nat} {data : Bytes} (h5 : k ≠ 5) (h7 : k ≠ 7)
    (hdirect : (s.bump 0x00100 0).direct m = some ((s.bump 0x00100 0).respondMsg m status data)) :
    Safety.answered s (s.receive m) m status data := by
  obtain ⟨hquiet, -, hqueue⟩ := asks_idle h
  rw [asks_receive h, State.handle_of_direct (asks_kind_ne h 5 h5) (asks_kind_ne h 7 h7) hquiet hdirect]
  exact answered_respondMsg status data (asks_path h) hqueue

end Asks

section Read

variable {s : State} {m : NalMsg} (h : Safety.asks s m 1)
include h

/-- A READ is served at once. -/
theorem asks_receive_read : s.receive m = (s.bump 0x00100 0).serveRead (messageRequest m) := by
  obtain ⟨hquiet, hjournal, hqueue⟩ := asks_idle h
  have hdirect : (s.bump 0x00100 0).direct m = none :=
    State.direct_object (asks_path h) (asks_keptFor h) (asks_recovering h) (by simp [asks_kind h]) (by simp [asks_kind h])
  rw [asks_receive h, State.handle_of_request (asks_kind_ne h 5 (by decide)) (asks_kind_ne h 7 (by decide)) hquiet hdirect,
    State.request_idle hquiet hjournal hqueue (asks_kind_ne h 3 (by decide))]
  simp [State.serveOne, hdirect, asks_kind h]

theorem naloraRead_refused {status : Nat} (hstatus : (s.bump 0x00100 0).readStatus (messageRequest m) = (status, 0))
    (hne : status ≠ 0) (hbusy : status ≠ 7) :
    ∃ u, exec (.naloraRead m) s = .next u ∧ Safety.answered s u m status [] := by
  obtain ⟨-, -, hqueue⟩ := asks_idle h
  refine ⟨_, exec_naloraRead s (asks_kind h), ?_⟩
  rw [asks_receive_read h, State.serveRead_refused hstatus hne hbusy]
  exact answered_respondMsg status [] (asks_path h) hqueue

theorem naloraRead_served {n : Nat} (hstatus : (s.bump 0x00100 0).readStatus (messageRequest m) = (0, n)) :
    ∃ u, exec (.naloraRead m) s = .next u ∧ Safety.answered s u m 0
      ((s.bump 0x00100 0).objBytes m.object.toNat m.index.toNat m.offset.toNat n) := by
  obtain ⟨-, -, hqueue⟩ := asks_idle h
  refine ⟨_, exec_naloraRead s (asks_kind h), ?_⟩
  rw [asks_receive_read h, State.serveRead_served hstatus]
  exact answered_respondMsg 0 _ (asks_path h) hqueue

end Read

/-! ### Messages that are dropped, counted, or answered again -/

theorem badMessage_of {m : NalMsg} (h : m.magic ≠ 0x4E4C#16 ∨ m.version ≠ 1#8 ∨ m.kind = 0#8) : badMessage m = true := by
  rcases h with h | h | h <;> simp [badMessage, h]

/-- R433: a request that has been answered gets the kept response again. -/
theorem receive_repeated {s : State} {m : NalMsg} {x : NalMsg × Response} (hserves : s.serves = true)
    (hphase : s.boot.phase ≠ .recovery) (hport : m.path = .port) (hframe : frameOk m = true)
    (hcol : m.frame.collisions = 0) (hquiet : s.quiet = false) (hbad : badMessage m = false) (hus : s.notForUs m = false)
    (h5 : m.kind ≠ 5) (h7 : m.kind ≠ 7) (hkept : s.keptFor m = some x) :
    s.receive m = (s.bump 0x00100 0).sendResponse m x.2 := by
  rw [State.receive_for_us hserves hphase (fun _ => ⟨hframe, hcol⟩) hbad hus]
  exact State.handle_of_direct (s := s.bump 0x00100 0) h5 h7 hquiet (State.direct_of_kept hport hkept)

theorem message_of_packet_fields (p : Packet) :
    (Packet1.message p).path = .fabric ∧ (Packet1.message p).from_ = p.src.setWidth 16 ∧
      (Packet1.message p).incarn = p.incarn ∧
      (Packet1.message p).kind = BitVec.ofNat 8 (fld (leNat (p.payload.take 48)) 24 8) ∧
      (Packet1.message p).object = BitVec.ofNat 20 (fld (leNat (p.payload.take 48)) 152 20) :=
  ⟨rfl, rfl, rfl, rfl, rfl⟩

theorem exec_fabMgmt (p : Packet) (m : NalMsg) (s : State) : exec (.fabMgmt p m) s =
    .next (if p.dst.toNat = s.node ∧ p.type = 9 then s.receive (Packet1.message p) else s) := rfl

/-- Settles O51: every row of a message receives it, and what `State.receive` does is said case by case
above (log entries 80 and 134). -/
theorem naloraMessagesAreServed : Obligations.NaloraMessagesAreServed := by
  refine ⟨?read, ?noObject, ?service, ?identify, ?reserved, ?uncounted, ?badFrame, ?collided, ?dropped,
    fun m => badMessage_of, ?repeated, ?notServing, ?mgmtPacket, message_of_packet_fields, ?otherPacket⟩
  case read =>
    intro m x s h hx hgroup
    have hstatus := State.readStatus_object (s := s.bump 0x00100 0) (asks_recovering h) hgroup hx
    refine ⟨fun hindex hoff hsize hlimit => ?_, fun hindex => ?_, fun hindex hbad => ?_⟩
    · have hfits : ¬((m.offset ≠ 0 ∧ x.blob = false) ∨ x.size < m.offset.toNat + readLength m x ∨ 208 < readLength m x) := by
        rintro (⟨hne, hblob⟩ | hsize' | hlimit')
        · exact hoff.elim hne (by simp [hblob])
        · exact absurd hsize hsize'.not_ge
        · exact absurd hlimit hlimit'.not_ge
      obtain ⟨u, hu, hanswer⟩ := naloraRead_served h ((hstatus hindex).trans (if_neg hfits))
      exact ⟨u, hu, hanswer, State.objBytes_writeOnly _ _ _ _ hx⟩
    · exact naloraRead_refused h (State.readStatus_noIndex (asks_recovering h) hgroup hx hindex) (by decide) (by decide)
    · exact naloraRead_refused h ((hstatus hindex).trans (if_pos hbad)) (by decide) (by decide)
  case noObject =>
    intro m s h hx hgroup
    exact naloraRead_refused h (State.readStatus_noObject (asks_recovering h) hgroup hx) (by decide) (by decide)
  case service =>
    intro m s h hgroup
    exact naloraRead_refused h (State.readStatus_service (asks_recovering h) hgroup) (by decide) (by decide)
  case identify =>
    intro m s h
    have hdirect := State.direct_identify (s := s.bump 0x00100 0) (asks_path h) (asks_keptFor h) (asks_recovering h)
      (asks_kind h)
    exact ⟨_, exec_naloraIdentify s (asks_kind h), asks_receive_direct h (by decide) (by decide) hdirect,
      State.length_identity _⟩
  case reserved =>
    intro m k s hk h
    have hkind : 8 ≤ m.kind.toNat := hk.trans_eq (asks_kind h).symm
    have hdirect := State.direct_reserved (s := s.bump 0x00100 0) (asks_path h) (asks_keptFor h) (asks_recovering h) hkind
    exact ⟨_, exec_naloraReservedKind s (.inr hkind), asks_receive_direct h (by omega) (by omega) hdirect⟩
  case uncounted =>
    intro m s
    refine ⟨fun h => ?_, fun h => ?_⟩
    · rw [exec_naloraResponse s (asks_kind h), asks_receive h, State.handle_response (asks_kind h)]
    · rw [exec_naloraNotice s (asks_kind h), asks_receive h, State.handle_notice (asks_kind h)]
  case badFrame =>
    intro m s hserves hport hframe hcol
    rw [exec_nalRow, State.receive_bad_frame hserves hport hframe, State.noteCollisions, if_pos hcol]
  case collided =>
    intro m s hserves hport hframe hcol
    rw [exec_nalRow, State.receive_bad_frame hserves hport hframe, State.noteCollisions, if_neg hcol]
  case dropped =>
    intro m s hserves hphase hframe
    rw [exec_nalRow, State.receive_carried hserves hphase hframe]
    exact ⟨fun hbad => by simp [hbad], fun hbad hus => by simp [hbad, hus]⟩
  case repeated =>
    intro m x s hserves hphase hport hframe hcol hquiet hbad hus h5 h7 hkept
    refine ⟨_, exec_nalRow m s, ?_⟩
    rw [receive_repeated hserves hphase hport hframe hcol hquiet hbad hus h5 h7 hkept, State.sendResponse_port _ _ hport]
    exact ⟨rfl, rfl, rfl, rfl, rfl⟩
  case notServing =>
    intro m s h
    rw [exec_nalRow, State.receive_not_serving h]
  case mgmtPacket =>
    intro p m s hdst htype
    exact ⟨_, (exec_fabMgmt p m s).trans (congrArg Host.Outcome.next (if_pos ⟨hdst, htype⟩)), rfl, exec_nalRow _ s⟩
  case otherPacket =>
    intro p m s h
    rw [exec_fabMgmt, if_neg (not_and_or.mpr h)]

end Sys2Proof.Machine

/-! PROOFS. O49: an illegal sequence of a queue (R405) counts itself, drops what the command holds and takes it from its queue;
STEP_COMMIT of a step without a pass is one. -/

namespace Sys2Proof.Machine

/-! ### What events and dropped references leave as it was -/

/-- `t` differs from `s` in the host interface, the memories and the Maltster's part alone, and in no object below 60.103, the
counter of stopped event rings. -/
structure State.hostOnly (t s : State) : Prop where
  frame : t = { s with mgmt := t.mgmt, mem := t.mem, host := t.host }
  low : ∀ o i, okey o i < okey 0x60103 0 → t.obj o i = s.obj o i

theorem State.hostOnly.refl (s : State) : s.hostOnly s := ⟨rfl, fun _ _ _ => rfl⟩

theorem State.hostOnly.trans {r t s : State} (g : r.hostOnly t) (h : t.hostOnly s) : r.hostOnly s :=
  ⟨g.frame.trans (congrArg (fun u : State => { u with mgmt := r.mgmt, mem := r.mem, host := r.host }) h.frame),
    fun o i hlow => (g.low o i hlow).trans (h.low o i hlow)⟩

theorem State.hostOnly.setHost {t s : State} (h : t.hostOnly s) (x : Host12) : ({ t with host := x } : State).hostOnly s :=
  .trans ⟨rfl, fun _ _ _ => rfl⟩ h

theorem State.hostOnly.setMem {t s : State} (h : t.hostOnly s) (x : Memory) : ({ t with mem := x } : State).hostOnly s :=
  .trans ⟨rfl, fun _ _ _ => rfl⟩ h

theorem State.hostOnly.foldl {α : Type} {f : State → α → State} (h : ∀ t x, (f t x).hostOnly t) (l : List α) (s : State) :
    (l.foldl f s).hostOnly s := by
  induction l generalizing s with
  | nil => exact .refl s
  | cons x l ih => exact (ih (f s x)).trans (h s x)

/-- A counter from 60.103 on rises. -/
theorem State.hostOnly_bump (s : State) {o : Nat} (i : Nat) (h : 0x60103 ≤ o) : (s.bump o i).hostOnly s :=
  ⟨rfl, fun p j hlow => s.obj_bump_ne o i p j (by unfold okey at *; omega)⟩

theorem State.hostOnly_onCtx (s : State) (k : Nat) (f : Ctx → Ctx) : (s.onCtx k f).hostOnly s := by
  unfold State.onCtx
  split
  · exact (State.hostOnly.refl s).setHost _
  · exact .refl s

theorem State.hostOnly_ringVector (s : State) (k : Nat) (sel : Ctx → Ring) (upd : Ctx → Ring → Ctx) :
    (s.ringVector k sel upd).hostOnly s := by
  unfold State.ringVector
  split
  · split
    · exact ((State.hostOnly.refl s).setHost _).setHost _
    · exact .refl s
  · exact .refl s

theorem State.hostOnly_noteStop (s : State) (k : Nat) : (s.noteStop k).hostOnly s := by
  unfold State.noteStop
  split
  · split
    · exact (State.hostOnly_bump _ _ le_rfl).trans ((State.hostOnly.refl s).setHost _)
    · exact .refl s
  · exact .refl s

theorem State.hostOnly_writeEvent (s : State) (k : Nat) (c : Ctx) (e : Event) : (s.writeEvent k c e).hostOnly s :=
  (State.hostOnly_noteStop _ k).trans
    ((State.hostOnly_ringVector _ k _ _).trans (((State.hostOnly.refl s).setMem _).setHost _))

theorem State.hostOnly_event (s : State) (k : Nat) (e : Event) : (s.event k e).hostOnly s := by
  unfold State.event
  split
  · exact .refl s
  · split
    · exact State.hostOnly_writeEvent s k _ e
    · exact (State.hostOnly.refl s).setHost _

theorem State.hostOnly.clearPages {t s : State} (h : t.hostOnly s) (fast : Bool) (pages : List Nat) (bytes : Nat) :
    (if fast then t.clearPages pages bytes else t).hostOnly s := by
  split
  · exact h.setMem _
  · exact h

theorem State.hostOnly_releaseObj (s : State) (ok : Nat) (o : MemObj) : (s.releaseObj ok o).hostOnly s := by
  refine State.hostOnly.setHost (State.hostOnly.clearPages ?_ _ _ _) _
  split
  · exact (State.hostOnly_event _ _ _).trans (State.hostOnly_onCtx s _ _)
  · exact State.hostOnly_onCtx s _ _

theorem State.hostOnly_dropObj (s : State) (ok : Nat) : (s.dropObj ok).hostOnly s := by
  unfold State.dropObj
  split
  · split
    · exact State.hostOnly_releaseObj s ok _
    · exact (State.hostOnly.refl s).setHost _
  · exact .refl s

theorem State.hostOnly_dropKernel (s : State) (kk : Nat) : (s.dropKernel kk).hostOnly s := by
  unfold State.dropKernel State.settleKernel
  split
  · split
    · exact (State.hostOnly_dropObj _ _).trans ((State.hostOnly.refl s).setHost _)
    · exact (State.hostOnly.refl s).setHost _
  · exact .refl s

theorem State.hostOnly_dropTl (s : State) (tk : Nat) : (s.dropTl tk).hostOnly s := by
  unfold State.dropTl State.settleTl
  split
  · split <;> exact (State.hostOnly.refl s).setHost _
  · exact .refl s

theorem State.hostOnly_dropRefs (s : State) (c : Cmd) : (s.dropRefs c).hostOnly s :=
  (State.hostOnly.foldl State.hostOnly_dropTl _ _).trans
    ((State.hostOnly.foldl State.hostOnly_dropKernel _ _).trans (State.hostOnly.foldl State.hostOnly_dropObj _ s))

/-! ### What the operations on queues leave as it was -/

theorem State.hostOnly_putCmd (s : State) (r : CmdRef) (c : Cmd) : (s.putCmd r c).hostOnly s := by
  unfold State.putCmd
  split
  · exact (State.hostOnly.refl s).setHost _
  · exact .refl s

theorem State.hostOnly_removeCmd (s : State) (r : CmdRef) : (s.removeCmd r).hostOnly s := by
  unfold State.removeCmd
  split
  · exact (State.hostOnly.refl s).setHost _
  · exact .refl s

theorem State.hostOnly_finish (s : State) (r : CmdRef) (status detail : Nat) : (s.finish r status detail).hostOnly s := by
  unfold State.finish
  split
  · exact State.hostOnly_putCmd s r _
  · exact .refl s

theorem State.hostOnly_settleQueue (s : State) (v q : Nat) : (s.settleQueue v q).hostOnly s := by
  unfold State.settleQueue
  split
  · split
    · split
      · exact (State.hostOnly_finish _ _ 0 0).trans ((State.hostOnly.refl s).setHost _)
      · exact .refl s
    · exact .refl s
  · exact .refl s

/-! ### The commands of a queue after a change -/

theorem queueKey_inj {v v' q q' : Nat} (hq : q < 16385) (hq' : q' < 16385) :
    queueKey v q = queueKey v' q' ↔ v = v' ∧ q = q' := by
  unfold queueKey; omega

theorem State.cmd?_putQueue_self (s : State) (r : CmdRef) (x : Queue) :
    (s.putQueue r.v.val r.q.val x).cmd? r = x.cmds.find? (fun c => c.n == r.n) := by
  by_cases hq : r.q.val = adminQ <;> simp [State.cmd?, State.queueAt, State.putQueue, hq, Bank.get]

/-- The commands of the other queues of the module stand as they were. -/
theorem State.cmd?_putQueue_ne (s : State) {r d : CmdRef} (x : Queue) (h : ¬(r.v = d.v ∧ r.q = d.q)) :
    (s.putQueue d.v.val d.q.val x).cmd? r = s.cmd? r := by
  have hkey : queueKey r.v.val r.q.val ≠ queueKey d.v.val d.q.val := by
    rwa [Ne, queueKey_inj r.q.isLt d.q.isLt, Fin.val_inj, Fin.val_inj]
  have hfind := Bank.find?_put_ne s.host.queues _ _ x hkey
  simp [State.cmd?, State.queueAt, State.putQueue, Bank.get, hfind]

theorem State.cmd?_eraseQueue (s : State) (r : CmdRef) :
    ({ s with host.queues := s.host.queues.erase (queueKey r.v.val r.q.val) } : State).cmd? r = none := by
  by_cases hq : r.q.val = adminQ <;> simp [State.cmd?, State.queueAt, hq, Bank.get]

theorem State.cmd?_n {s : State} {r : CmdRef} {c : Cmd} (h : s.cmd? r = some c) : c.n = r.n := by
  unfold State.cmd? at h
  split at h
  · simpa using List.find?_some h
  · exact absurd h (by simp)

@[simp] theorem State.cmd?_removeCmd_self (s : State) (r : CmdRef) : (s.removeCmd r).cmd? r = none := by
  unfold State.removeCmd
  split
  · rw [State.cmd?_putQueue_self]; simp
  · rename_i hqueue
    simp [State.cmd?, hqueue]

/-- A command that is changed in its place does not bring another one back. -/
theorem State.cmd?_putCmd_none {s : State} {r d : CmdRef} {c : Cmd} (hn : c.n = d.n) (h : s.cmd? r = none) :
    (s.putCmd d c).cmd? r = none := by
  unfold State.putCmd
  split
  case h_2 => exact h
  case h_1 x hqueue =>
    by_cases hsame : r.v = d.v ∧ r.q = d.q
    · obtain ⟨hv, hq⟩ := hsame
      have hnone : ∀ y ∈ x.cmds, y.n ≠ r.n := by simpa [State.cmd?, hv, hq, hqueue] using h
      rw [← hv, ← hq, State.cmd?_putQueue_self]
      simp only [List.find?_eq_none, List.forall_mem_map, beq_iff_eq]
      intro y hy
      split
      case isTrue hyd => exact fun hc => hnone y hy (hyd.trans (hn.symm.trans hc))
      case isFalse => exact hnone y hy
    · rwa [State.cmd?_putQueue_ne s _ hsame]

theorem State.cmd?_finish_none {s : State} {r : CmdRef} (d : CmdRef) (status detail : Nat) (h : s.cmd? r = none) :
    (s.finish d status detail).cmd? r = none := by
  unfold State.finish
  split
  case h_1 c hc =>
    have hn : c.n = d.n := State.cmd?_n hc
    exact State.cmd?_putCmd_none hn h
  case h_2 => exact h

theorem State.cmd?_settleQueue_none {s : State} {r : CmdRef} (h : s.cmd? r = none) :
    (s.settleQueue r.v.val r.q.val).cmd? r = none := by
  unfold State.settleQueue
  split
  · split
    · split
      · exact State.cmd?_finish_none _ 0 0 (s.cmd?_eraseQueue r)
      · exact h
    · exact h
  · exact h

/-! ### An illegal sequence of a queue (R405) -/

theorem State.illegal_frame (s : State) (v cookie queue opcode reason : Nat) :
    s.illegal v cookie queue opcode reason = { s with mgmt := (s.illegal v cookie queue opcode reason).mgmt } := rfl

section Illegal

variable {s : State} {r : CmdRef} {c : Cmd} (hc : s.cmd? r = some c) (reason : Nat)
include hc

/-- After the record in 60.100 and 60.101, an illegal command changes what dropping it changes. -/
theorem State.hostOnly_illegalCmd :
    (s.illegalCmd r reason).hostOnly (s.illegal r.v.val c.cookie (queueNumber r) c.opcode reason) := by
  rw [State.illegalCmd, hc]
  exact (State.hostOnly_settleQueue _ _ _).trans ((State.hostOnly_removeCmd _ r).trans (State.hostOnly_dropRefs _ c))

/-- An illegal sequence has no effect outside the host interface, the memories and the Maltster's part. -/
theorem State.illegalCmd_frame : s.illegalCmd r reason =
    { s with mgmt := (s.illegalCmd r reason).mgmt, mem := (s.illegalCmd r reason).mem,
             host := (s.illegalCmd r reason).host } :=
  (State.hostOnly_illegalCmd hc reason).frame.trans
    (congrArg (fun u : State => { u with mgmt := (s.illegalCmd r reason).mgmt, mem := (s.illegalCmd r reason).mem,
                                         host := (s.illegalCmd r reason).host }) (s.illegal_frame _ _ _ _ _))

theorem State.obj_illegalCmd_count :
    (s.illegalCmd r reason).obj 0x60100 r.v.val = (s.obj 0x60100 r.v.val + 1) % 2 ^ 64 := by
  have hv := r.v.isLt
  rw [(State.hostOnly_illegalCmd hc reason).low _ _ (by unfold okey; omega), State.illegal,
    State.obj_setObj_ne _ _ _ _ _ _ (by unfold okey; omega), State.obj_bump_self]

theorem State.cmd?_illegalCmd : (s.illegalCmd r reason).cmd? r = none := by
  rw [State.illegalCmd, hc]
  exact State.cmd?_settleQueue_none (State.cmd?_removeCmd_self _ r)

end Illegal

/-! ### Queue commands that have started -/

theorem runCmd_started {s : State} {r : CmdRef} {op : Nat} {c : Cmd} (body : Cmd → Nat → State → State)
    (h : Safety.started s r op c) : runCmd op r body s = .next (body c (s.cmdCtx r) s) := by
  obtain ⟨hcmd, hstage, hop, hbusy⟩ := h
  simp [runCmd, hcmd, hstage, hop, hbusy]

theorem exec_stepCommit (r : CmdRef) (s : State) : exec (.stepCommit r) s = execStepCommit r s := rfl

/-- R405 for STEP_COMMIT: reason 5 of a step that is not the last one with a final verdict, or did not pass. -/
theorem exec_stepCommit_illegal {s : State} {r : CmdRef} {c : Cmd} (h : Safety.started s r 0x2A c)
    (hpass : ∀ rev, s.steps.lastFinal ≠ some (BitVec.ofNat 32 (c.arg 0 32), 1, rev)) :
    exec (.stepCommit r) s = .next (s.illegalCmd r 5) := by
  rw [exec_stepCommit, execStepCommit, runCmd_started _ h]
  refine congrArg Host.Outcome.next ?_
  cases hfinal : s.steps.lastFinal with
  | none => rfl
  | some final =>
    obtain ⟨st, result, rev⟩ := final
    have hnot : st ≠ BitVec.ofNat 32 (c.arg 0 32) ∨ result ≠ 1 := by
      by_contra hboth
      obtain ⟨rfl, rfl⟩ : st = BitVec.ofNat 32 (c.arg 0 32) ∧ result = 1 := by simpa using hboth
      exact hpass rev hfinal
    exact if_pos hnot

/-- Settles O49: the command is an illegal sequence, and an illegal sequence counts itself and reaches no step and no Kiln. -/
theorem stepCommitOfAnotherStepIsIgnored : Obligations.StepCommitOfAnotherStepIsIgnored := by
  intro r c s h hpass
  have hcmd : s.cmd? r = some c := h.1
  refine ⟨_, exec_stepCommit_illegal h hpass, ?_, ?_, ?_, ?_, ?_, State.cmd?_illegalCmd hcmd 5,
    State.obj_illegalCmd_count hcmd 5⟩ <;> rw [State.illegalCmd_frame hcmd 5]

end Sys2Proof.Machine

/-! PROOFS. O26: the common arbiter: what one arbiter does up to a cycle, and what each command of the arbiters makes of it. -/

namespace Sys2Proof.Machine

/-! ### The events of an arbiter up to a cycle -/

/-- Nothing happens up to a cycle before the next event. -/
theorem Arb.upTo_eq_self {x : Arb} {a : Arbiters} {c : ArbClass} {die t : Nat} (h : ∀ e ∈ x.nextEvent c, t < e.time) :
    x.upTo a c die t = x := by
  unfold Arb.upTo Arb.fuel Arb.run
  split
  case h_1 e he => exact if_neg (by simpa using h e he)
  case h_2 => rfl

/-- The next event happens, and the one behind it comes later. -/
theorem Arb.upTo_eq_apply {x : Arb} {a : Arbiters} {c : ArbClass} {die t : Nat} {e : ArbEvent} (he : x.nextEvent c = some e)
    (ht : e.time ≤ t) (hnext : ∀ d ∈ (x.apply a c die e).nextEvent c, t < d.time) :
    x.upTo a c die t = x.apply a c die e := by
  unfold Arb.upTo Arb.fuel Arb.run
  simp only [he, ht, decide_true, if_true]
  unfold Arb.run
  split
  case h_1 d hd => exact if_neg (by simpa using hnext d hd)
  case h_2 => rfl

section NextEvent

variable {x : Arb} (c : ArbClass) (hemergency : x.emergency = false)
include hemergency

theorem Arb.nextEvent_idle (hrunning : x.running = none) (hheads : x.heads = []) : x.nextEvent c = none := by
  simp [Arb.nextEvent, hemergency, hrunning, hheads, oldest]

theorem Arb.nextEvent_running {g : Grant} (hrunning : x.running = some g) (hclosed : x.closed = false) :
    x.nextEvent c = some (.decide (g.since + g.left - 1) (g.since + g.left)) := by
  simp [Arb.nextEvent, hemergency, hrunning, hclosed]

/-- R33: an idle resource decides in the cycle behind the arrival. -/
theorem Arb.nextEvent_head {h : Head} (hrunning : x.running = none) (hclosed : x.closed = false) (hheads : x.heads = [h]) :
    x.nextEvent c = some (.decide (max x.idleFrom (nextCycle c h.arrived)) (max x.idleFrom (nextCycle c h.arrived))) := by
  simp [Arb.nextEvent, hemergency, hrunning, hclosed, hheads, oldest]

end NextEvent

theorem Arb.nextEvent_emergency {x : Arb} (c : ArbClass) (h : x.emergency = true) : x.nextEvent c = some (.resume x.until_) := by
  simp [Arb.nextEvent, h]

theorem Arb.upTo_idle {x : Arb} {a : Arbiters} {c : ArbClass} {die t : Nat} (hemergency : x.emergency = false)
    (hrunning : x.running = none) (hheads : x.heads = []) : x.upTo a c die t = x :=
  Arb.upTo_eq_self (by simp [Arb.nextEvent_idle c hemergency hrunning hheads])

/-- R40: before its last beat a running grant is left alone. -/
theorem Arb.upTo_running {x : Arb} {a : Arbiters} {c : ArbClass} {die t : Nat} {g : Grant} (hemergency : x.emergency = false)
    (hrunning : x.running = some g) (hclosed : x.closed = false) (ht : t + 1 < g.since + g.left) : x.upTo a c die t = x := by
  refine Arb.upTo_eq_self ?_
  simp only [Arb.nextEvent_running c hemergency hrunning hclosed, Option.mem_some_iff, forall_eq', ArbEvent.time]
  omega

theorem Arb.upTo_emergency {x : Arb} {a : Arbiters} {c : ArbClass} {die t : Nat} (hemergency : x.emergency = true)
    (ht : t < x.until_) : x.upTo a c die t = x :=
  Arb.upTo_eq_self (by simpa [Arb.nextEvent_emergency c hemergency, ArbEvent.time])

/-! ### Cycles, grants and decisions -/

theorem lt_nextCycle (c : ArbClass) (t : Nat) : t < nextCycle c t := by
  cases c <;> simp only [nextCycle] <;> omega

theorem cycleOf_nextCycle (c : ArbClass) (t : Nat) : cycleOf c (nextCycle c t) = cycleOf c t + 1 := by
  cases c <;> simp only [nextCycle, cycleOf]
  omega

/-- R548: no beat of a later cycle comes before `nextCycle`. -/
theorem nextCycle_le {c : ArbClass} {t q : Nat} (h : cycleOf c t < cycleOf c q) : nextCycle c t ≤ q := by
  cases c <;> simp only [nextCycle, cycleOf] at * <;> omega

theorem Arb.grant_frame (x : Arb) (h : Head) (t start k : Nat) : x.grant h t start k =
    { x with heads := (x.grant h t start k).heads, queued := (x.grant h t start k).queued,
             running := some ⟨h.req, h.beats, start, h.tag⟩, lastGranted := some h.req, count := k,
             backoff := x.backoff.erase h.req } := by
  unfold Arb.grant Arb.promote
  split <;> rfl

@[simp] theorem Arb.grant_running (x : Arb) (h : Head) (t start k : Nat) :
    (x.grant h t start k).running = some ⟨h.req, h.beats, start, h.tag⟩ :=
  (congrArg Arb.running (x.grant_frame h t start k) :)

@[simp] theorem Arb.grant_lastGranted (x : Arb) (h : Head) (t start k : Nat) :
    (x.grant h t start k).lastGranted = some h.req :=
  (congrArg Arb.lastGranted (x.grant_frame h t start k) :)

@[simp] theorem Arb.grant_emergency (x : Arb) (h : Head) (t start k : Nat) : (x.grant h t start k).emergency = x.emergency :=
  (congrArg Arb.emergency (x.grant_frame h t start k) :)

@[simp] theorem Arb.grant_closed (x : Arb) (h : Head) (t start k : Nat) : (x.grant h t start k).closed = x.closed :=
  (congrArg Arb.closed (x.grant_frame h t start k) :)

@[simp] theorem Arb.grant_ended (x : Arb) (h : Head) (t start k : Nat) : (x.grant h t start k).ended = x.ended :=
  (congrArg Arb.ended (x.grant_frame h t start k) :)

/-- The next request of the requester is all that stands behind the only head. -/
theorem Arb.grant_heads {x : Arb} {h : Head} (t start k : Nat) (hheads : x.heads = [h]) : (x.grant h t start k).heads =
    ((x.queued.find? (fun y => y.req == h.req)).map (fun y => { y with arrived := max y.arrived t })).toList := by
  unfold Arb.grant Arb.promote
  cases x.queued.find? (fun y => y.req == h.req) <;> simp [hheads]

theorem Arb.finish_of_not_running {x : Arb} (c : ArbClass) (h : x.running = none) : x.finish c = x := by
  simp [Arb.finish, h]

theorem Arb.finish_count (x : Arb) (c : ArbClass) : (x.finish c).count = x.count := by
  unfold Arb.finish
  split <;> rfl

/-- R34, R36: the grant of a fairness decision. -/
theorem Arb.decide_fair {a : Arbiters} {c : ArbClass} {die t : Nat} {x : Arb} {h : Head} (start : Nat)
    (hold : oldest (x.heads.filter (fun y => Decidable.decide (y.arrived < t))) = some h)
    (hfair : (a.fairReg die c).at c t ≤ x.count + 1) : x.decide a c die t start = (x.finish c).grant h t start 0 := by
  have hsome : x.heads.filter (fun y => Decidable.decide (y.arrived < t)) ≠ [] := by
    intro hnil
    simp [hnil, oldest] at hold
  simp only [Arb.decide, List.isEmpty_iff, hsome, Arb.finish_count, hfair, hold, if_true, if_false]

/-- The only head at an idle resource is granted by a decision of either kind, whatever its priority and its back-off. -/
theorem Arb.decide_only {x : Arb} {h : Head} {t : Nat} (a : Arbiters) (c : ArbClass) (die start : Nat) (hheads : x.heads = [h])
    (hrunning : x.running = none) (hbefore : h.arrived < t) : ∃ k, x.decide a c die t start = x.grant h t start k := by
  by_cases hfair : (a.fairReg die c).at c t ≤ x.count + 1
  case pos =>
    refine ⟨0, (Arb.decide_fair start ?_ hfair).trans (by rw [Arb.finish_of_not_running c hrunning])⟩
    simp [hheads, hbefore, oldest]
  case neg =>
    refine ⟨x.count + 1, ?_⟩
    cases hable : x.backoffAt c h.req t == 0 <;>
      simp [Arb.decide, hheads, hbefore, Arb.finish_of_not_running c hrunning, hfair, hable, Arb.best, oldest]

/-- R33: an idle resource with one head grants it from the cycle behind its arrival. -/
theorem Arb.upTo_only {x : Arb} {h : Head} {c : ArbClass} {cycle : Nat} (a : Arbiters) (die : Nat) (hheads : x.heads = [h])
    (hrunning : x.running = none) (hemergency : x.emergency = false) (hclosed : x.closed = false)
    (hdue : max x.idleFrom (nextCycle c h.arrived) ≤ cycle)
    (hlong : cycle + 1 < max x.idleFrom (nextCycle c h.arrived) + h.beats) : ∃ k, x.upTo a c die cycle =
      x.grant h (max x.idleFrom (nextCycle c h.arrived)) (max x.idleFrom (nextCycle c h.arrived)) k := by
  have hbefore : h.arrived < max x.idleFrom (nextCycle c h.arrived) := lt_max_of_lt_right (lt_nextCycle c h.arrived)
  obtain ⟨k, hk⟩ := Arb.decide_only a c die (max x.idleFrom (nextCycle c h.arrived)) hheads hrunning hbefore
  refine ⟨k, (Arb.upTo_eq_apply (Arb.nextEvent_head c hemergency hrunning hclosed hheads) hdue ?_).trans hk⟩
  rw [Arb.apply, hk, Arb.nextEvent_running c (by simpa) (Arb.grant_running x h _ _ k) (by simpa)]
  simp only [Option.mem_some_iff, forall_eq', ArbEvent.time]
  omega

/-! ### Back-off and emergencies -/

theorem Arb.lose_backoff (t : Nat) (x : Arb) (req : Nat) : ((x.lose t req).backoff.get {} req).last =
      (if (x.backoff.get {} req).last = 0 then 2 else min 1024 (2 * (x.backoff.get {} req).last)) ∧
    ((x.lose t req).backoff.get {} req).value = ((x.lose t req).backoff.get {} req).last := by
  simp [Arb.lose]

theorem foldl_min_le {α : Type} (f : α → Nat) (l : List α) (a : Nat) : l.foldl (fun m y => min m (f y)) a ≤ a := by
  induction l generalizing a with
  | nil => exact le_rfl
  | cons y l ih => exact (ih _).trans (min_le_left _ _)

theorem refreshRoom_le (uses : List (Nat × Nat)) (t : Nat) : refreshRoom uses t ≤ 421 := foldl_min_le _ _ _

/-- R45: no emergency begins during another, and a refresh is as long as its share leaves it. -/
theorem Arb.emergencyRoom_hbmQueue_le (x : Arb) (t : Nat) : x.emergencyRoom .hbmQueue t ≤ 421 := by
  unfold Arb.emergencyRoom
  split
  · exact Nat.zero_le _
  · exact refreshRoom_le x.uses t

/-- R45: the debug port takes one beat, and none within 16 cycles of another. -/
theorem Arb.emergencyRoom_debugPort {x : Arb} {c : ArbClass} (t : Nat) (hc : c = .storeBank ∨ c = .cacheSlice)
    (h : x.emergency = false) : x.emergencyRoom c t = if ∃ v ∈ x.uses, t < v.1 + 16 then 0 else 1 := by
  have hroom : x.emergencyRoom c t = if x.uses.all (fun v => Decidable.decide (v.1 + 16 ≤ t)) then 1 else 0 := by
    unfold Arb.emergencyRoom
    rw [h]
    rcases hc with rfl | rfl <;> rfl
  rw [hroom]
  split
  case isTrue hall => exact (if_neg (by simpa using hall)).symm
  case isFalse hall => exact (if_pos (by simpa using hall)).symm

/-! ### What does not reach the arbiters -/

@[simp] theorem State.bump_arb (s : State) (o i : Nat) : (s.bump o i).arb = s.arb := rfl

@[simp] theorem State.noticeTo_arb (s : State) (dst : BitVec 16) (code object : Nat) :
    (s.noticeTo dst code object).arb = s.arb := by
  unfold State.noticeTo
  split <;> rfl

@[simp] theorem State.caskEnter_arb (s : State) (t src : Nat) (payload : Bytes) (flags suppressed : Nat) :
    (s.caskEnter t src payload flags suppressed).arb = s.arb := by
  unfold State.caskEnter
  split
  · rfl
  · split
    · exact State.noticeTo_arb _ _ _ _
    · rfl

@[simp] theorem State.caskPost_arb (s : State) (t src : Nat) (payload : Bytes) (flags : Nat) :
    (s.caskPost t src payload flags).arb = s.arb := by
  unfold State.caskPost
  split
  · split
    · split
      · rfl
      · split
        · exact State.caskEnter_arb s _ _ _ _ _
        · rfl
    · exact State.caskEnter_arb s _ _ _ _ _
  · exact State.caskEnter_arb s _ _ _ _ _

theorem State.unusedPrefetch_arb (s : State) (sector : Nat) : (s.unusedPrefetch sector).arb = s.arb :=
  List.foldlRecOn (motive := fun t : State => t.arb = s.arb) _ _ rfl (fun _ ht _ _ => ht)

theorem State.charge_arb (s : State) (v d : Nat) : (s.charge v d).arb = s.arb := by
  unfold State.charge
  split <;> rfl

theorem State.lineOut_arb (s : State) (k : Nat) (x : SliceLine) : (s.lineOut k x).arb = s.arb := by
  unfold State.lineOut
  split
  · rfl
  · rw [State.unusedPrefetch_arb]
    split
    · exact State.charge_arb s _ _
    · rfl

@[simp] theorem State.lineIn_arb (s : State) (k : Nat) (x : SliceLine) : (s.lineIn k x).arb = s.arb := by
  unfold State.lineIn
  dsimp only
  split
  · exact State.lineOut_arb s k _
  · rfl

@[simp] theorem State.homeUse_arb (s : State) (p : Place) : (s.homeUse p).arb = s.arb := State.lineIn_arb s _ _

theorem State.homeRead_arb (s : State) (d : Nat) (p : Place) : (s.homeRead d p).arb = s.arb := by
  unfold State.homeRead
  split
  · rfl
  · split
    · exact State.homeUse_arb s p
    · rw [State.lineIn_arb]
      split
      · rfl
      · exact State.homeUse_arb s p

theorem State.arrayRead_arb (s : State) (a : Nat) (ecc : EccResult) (requester : Nat) :
    (s.arrayRead a ecc requester).arb = s.arb := by
  cases ecc with
  | clean => exact State.homeUse_arb s _
  | corrected => exact State.homeUse_arb s _
  | uncorrectable =>
    unfold State.arrayRead
    dsimp only
    split
    · exact State.homeUse_arb s _
    · exact (State.caskPost_arb _ _ _ _ _).trans (State.homeUse_arb s _)

theorem State.settlePrefetch_arb (s : State) (units cl : Nat) : (s.settlePrefetch units cl).arb = s.arb := by
  unfold State.settlePrefetch
  dsimp only
  split <;> rfl

theorem State.prefetchArrive_arb (s : State) (cl : Nat) (e : MissEntry) : (s.prefetchArrive cl e).arb = s.arb := by
  have hread : (((s.dropMiss cl e).arrayRead e.addr (s.latentAt e.addr)).homeRead (dieOfCluster cl) (.fast e.addr)).arb = s.arb :=
    (State.homeRead_arb _ _ _).trans (State.arrayRead_arb _ _ _ _)
  unfold State.prefetchArrive
  dsimp only
  split
  · exact hread
  · exact (State.settlePrefetch_arb _ _ _).trans hread

/-- A sector that returns to its cluster is no request. -/
theorem State.missReturn_arb (s : State) (p cl : Nat) : (s.missReturn p cl).arb = s.arb := by
  unfold State.missReturn
  split
  · rfl
  · split
    · rfl
    · exact State.prefetchArrive_arb s cl _
    · rfl

/-! ### One arbiter of the state changes -/

/-- `u` is `s` but for the arbiter at key `k`, which is `x`. -/
structure State.instOnly (u s : State) (k : Nat) (x : Arb) : Prop where
  frame : u = { s with arb := { s.arb with insts := u.arb.insts } }
  self : u.arb.insts.get {} k = x
  other : ∀ j, j ≠ k → u.arb.insts.get {} j = s.arb.insts.get {} j

theorem State.instOnly_set (s : State) (k : Nat) (x : Arb) :
    State.instOnly { s with arb.insts := s.arb.insts.set {} k x } s k x :=
  ⟨rfl, Bank.get_set_self _ _ _ _, fun j hj => Bank.get_set_ne _ _ _ j k hj⟩

theorem State.instOnly.trans {r t s : State} {k : Nat} {x y : Arb} (g : r.instOnly t k x) (h : t.instOnly s k y) :
    r.instOnly s k x :=
  ⟨g.frame.trans (congrArg (fun u : State => { u with arb := { u.arb with insts := r.arb.insts } }) h.frame), g.self,
    fun j hj => (g.other j hj).trans (h.other j hj)⟩

theorem State.instOnly_onArb (s : State) (c : ArbClass) (inst t : Nat) (f : Arb → Arb) :
    (s.onArb c inst t f).instOnly s (instKey c inst)
      (f ((s.arb.insts.get {} (instKey c inst)).upTo s.arb c (dieOf c inst) t)) :=
  State.instOnly_set s _ _

/-- The grants that have ended by cycle `t` are accounted for. -/
def Arb.settleEnded (x : Arb) (t : Nat) : Arb := { x with ended := x.ended.filter (fun e => Decidable.decide (t < e.2.2)) }

theorem Arb.settleEnded_of_nil {x : Arb} (t : Nat) (h : x.ended = []) : x.settleEnded t = x := by
  rw [Arb.settleEnded, h, List.filter_nil, ← h]

/-- The sectors that return to their clusters reach no arbiter. -/
theorem State.onPchan_inst_self (s : State) (p t : Nat) (f : Arb → Arb) :
    (s.onPchan p t f).arb.insts.get {} (instKey .hbmQueue p) =
    f (((s.arb.insts.get {} (instKey .hbmQueue p)).upTo s.arb .hbmQueue (dieOf .hbmQueue p) t).settleEnded t) := by
  let x := ((s.onArb .hbmQueue p t id).arbOf .hbmQueue p).settleEnded t
  have harb : (s.onPchan p t f).arb.insts = (s.onArb .hbmQueue p t id).arb.insts.set {} (instKey .hbmQueue p) (f x) := by
    refine List.foldlRecOn (motive := fun u : State => u.arb.insts = _) _ _ rfl fun u hu e _ => ?_
    split
    · rw [State.missReturn_arb, hu]
    · exact hu
  have hx : (s.onArb .hbmQueue p t id).arbOf .hbmQueue p = _ := (s.instOnly_onArb .hbmQueue p t id).self
  rw [harb, Bank.get_set_self]
  exact congrArg (fun y : Arb => f (y.settleEnded t)) hx

/-- Where no grant of a pseudo-channel has ended, a change of an arbiter of any class reaches that one alone. -/
theorem State.instOnly_onInst {s : State} {c : ArbClass} {inst t : Nat} {x y : Arb} (f : Arb → Arb)
    (hx : s.arb.insts.get {} (instKey c inst) = x) (hy : x.upTo s.arb c (dieOf c inst) t = y)
    (hended : c = .hbmQueue → y.ended = []) : (s.onInst c inst t f).instOnly s (instKey c inst) (f y) := by
  subst hx
  unfold State.onInst
  split
  case isFalse => exact hy ▸ s.instOnly_onArb c inst t f
  case isTrue hc =>
    subst hc
    have hset := s.instOnly_onArb .hbmQueue inst t id
    have hsame : (s.onArb .hbmQueue inst t id).arbOf .hbmQueue inst = y := hset.self.trans hy
    have hpchan : s.onPchan inst t f = { s.onArb .hbmQueue inst t id with
        arb.insts := (s.onArb .hbmQueue inst t id).arb.insts.set {} (instKey .hbmQueue inst) (f (y.settleEnded t)) } := by
      simp only [State.onPchan, hsame, hended rfl, List.filter_nil, List.foldl_nil]
      rw [Arb.settleEnded, hended rfl, List.filter_nil]
    rw [hpchan, Arb.settleEnded_of_nil t (hended rfl)]
    exact (State.instOnly_set _ _ _).trans hset

/-! ### Requests -/

theorem Arb.enqueue_head {x : Arb} {h : Head} (hnone : ∀ y ∈ x.heads, y.req ≠ h.req) :
    x.enqueue h = { x with heads := x.heads ++ [h] } :=
  if_neg (by simpa using hnone)

theorem Arb.enqueue_behind {x : Arb} {h y : Head} (hmem : y ∈ x.heads) (hreq : y.req = h.req) :
    x.enqueue h = { x with queued := x.queued ++ [h] } :=
  if_pos (by simpa using ⟨y, hmem, hreq⟩)

theorem State.letIn_open {s : State} {p : Nat} (h : Head) (hopen : s.holds p = false) :
    s.letIn p h = (true, s.onPchan p (h.arrived - 1) (fun a => a.enqueue h)) := by
  simp [State.letIn, hopen]

theorem State.letIn_held {s : State} {p : Nat} (h : Head) (hheld : s.holds p = true) : s.letIn p h =
    if (s.pchan p).held.length < 256 then
      (true, s.putPchan p { s.pchan p with held := (s.pchan p).held ++ [h] }) else (false, s.bump 0x40105 p) := by
  simp [State.letIn, hheld]

@[simp] theorem State.pchan_putPchan_self (s : State) (p : Nat) (x : Pchan) : (s.putPchan p x).pchan p = x :=
  Bank.get_set_self _ _ _ _

section Request

variable {s : State} {inst req beats : Nat} (cycle : Nat)

theorem exec_arbiterRequest_unfit {c : ArbClass} (hfits : unitFits c beats = false) :
    exec (.arbiterRequest c inst req beats cycle) s = .next s :=
  if_pos (.inr (by simp [hfits]))

theorem exec_arbiterRequest_queue {c : ArbClass} (hreq : req < requesters c) (hfits : unitFits c beats = true)
    (hc : c ≠ .hbmQueue) : exec (.arbiterRequest c inst req beats cycle) s =
      .next (s.onArb c inst (cycle - 1) (fun x => x.enqueue ⟨req, cycle, beats, 0⟩)) :=
  (if_neg (by simp [hfits, hreq])).trans (if_neg hc)

/-- A requester of a pseudo-channel that is no cluster has no miss-tracking entries (R46). -/
theorem exec_arbiterRequest_pchan (hother : 1024 ≤ req) (hreq : req < requesters .hbmQueue)
    (hfits : unitFits .hbmQueue beats = true) : exec (.arbiterRequest .hbmQueue inst req beats cycle) s =
      .next (s.letIn inst ⟨req, cycle, beats, 0⟩).2 :=
  (if_neg (by simp [hfits, hreq])).trans (congrArg Host.Outcome.next (if_neg hother.not_gt))

end Request

/-! ### The commands at one arbiter -/

section AtOneArbiter

variable {s : State} {c : ArbClass} {inst : Nat} {x : Arb} (hx : s.arb.insts.get {} (instKey c inst) = x)
include hx

/-- The first request of an idle arbiter becomes a head. -/
theorem exec_arbiterRequest_idle {req beats : Nat} (cycle : Nat) (hreq : req < requesters c) (hfits : unitFits c beats = true)
    (hc : c ≠ .hbmQueue) (hrunning : x.running = none) (hemergency : x.emergency = false) (hheads : x.heads = []) :
    ∃ u, exec (.arbiterRequest c inst req beats cycle) s = .next u ∧
      u.instOnly s (instKey c inst) { x with heads := [⟨req, cycle, beats, 0⟩] } := by
  refine ⟨_, exec_arbiterRequest_queue cycle hreq hfits hc, ?_⟩
  have h := s.instOnly_onArb c inst (cycle - 1) (fun y => y.enqueue ⟨req, cycle, beats, 0⟩)
  rwa [hx, Arb.upTo_idle hemergency hrunning hheads, Arb.enqueue_head (by simp [hheads]), hheads] at h

/-- R40: a request during a grant waits; that of another requester than the head's is a second head. -/
theorem exec_arbiterRequest_running {req beats cycle : Nat} {g : Grant} {h : Head} (hreq : req < requesters c)
    (hfits : unitFits c beats = true) (hc : c ≠ .hbmQueue) (hrunning : x.running = some g) (hemergency : x.emergency = false)
    (hclosed : x.closed = false) (hcycle : cycle < g.since + g.left) (hpos : 0 < cycle) (hheads : x.heads = [h]) :
    ∃ u, exec (.arbiterRequest c inst req beats cycle) s = .next u ∧ u.instOnly s (instKey c inst)
      (if h.req = req then { x with queued := x.queued ++ [⟨req, cycle, beats, 0⟩] }
        else { x with heads := [h, ⟨req, cycle, beats, 0⟩] }) := by
  refine ⟨_, exec_arbiterRequest_queue cycle hreq hfits hc, ?_⟩
  have hset := s.instOnly_onArb c inst (cycle - 1) (fun y => y.enqueue ⟨req, cycle, beats, 0⟩)
  rw [hx, Arb.upTo_running hemergency hrunning hclosed (by omega)] at hset
  split
  case isTrue hsame => rwa [Arb.enqueue_behind (by simp [hheads]) hsame] at hset
  case isFalse hother => rwa [Arb.enqueue_head (by simpa [hheads] using hother), hheads] at hset

/-- A decision at an idle arbiter with one head grants it. -/
theorem exec_arbiterDecision_only {cycle : Nat} {h : Head} (hheads : x.heads = [h]) (hrunning : x.running = none)
    (hemergency : x.emergency = false) (hclosed : x.closed = false) (hended : c = .hbmQueue → x.ended = [])
    (hdue : max x.idleFrom (nextCycle c h.arrived) ≤ cycle)
    (hlong : cycle + 1 < max x.idleFrom (nextCycle c h.arrived) + h.beats) : ∃ k u,
      exec (.arbiterDecision c inst cycle) s = .next u ∧ u.instOnly s (instKey c inst)
        (x.grant h (max x.idleFrom (nextCycle c h.arrived)) (max x.idleFrom (nextCycle c h.arrived)) k) := by
  obtain ⟨k, hk⟩ := Arb.upTo_only s.arb (dieOf c inst) hheads hrunning hemergency hclosed hdue hlong
  exact ⟨k, _, rfl, State.instOnly_onInst id hx hk (fun hc => (x.grant_ended h _ _ k).trans (hended hc))⟩

/-- R37: a back-off that has run down. -/
theorem exec_backoffExpire_zero {req cycle : Nat} (hheads : x.heads = []) (hrunning : x.running = none)
    (hemergency : x.emergency = false) (hended : c = .hbmQueue → x.ended = []) (hzero : x.backoffAt c req cycle = 0) :
    ∃ u, exec (.backoffExpire c inst req cycle) s = .next u ∧ u.instOnly s (instKey c inst)
      { x with backoff := x.backoff.set {} req { x.backoff.get {} req with value := 0, at_ := 0 } } := by
  have h := State.instOnly_onInst (fun y => if y.backoffAt c req cycle = 0 then
      { y with backoff := y.backoff.set {} req { y.backoff.get {} req with value := 0, at_ := 0 } } else y) hx
    (Arb.upTo_idle (t := cycle - 1) hemergency hrunning hheads) hended
  rw [if_pos hzero] at h
  exact ⟨_, rfl, h⟩

/-- R40: the emergency ends, and the interrupted grant goes on. -/
theorem exec_emergencyEnd_running {cycle : Nat} (hemergency : x.emergency = true) (hsince : x.since < cycle)
    (huntil : cycle ≤ x.until_) (hended : c = .hbmQueue → x.ended = []) :
    ∃ u, exec (.emergencyEnd c inst cycle) s = .next u ∧ u.instOnly s (instKey c inst) (x.resume cycle) := by
  have h := State.instOnly_onInst (fun y => if y.emergency && decide (y.since < cycle) then y.resume cycle else y) hx
    (Arb.upTo_emergency (t := cycle - 1) hemergency (by omega)) hended
  rw [if_pos (by simp [hemergency, hsince])] at h
  exact ⟨_, rfl, h⟩

section Preempt

variable {cycle : Nat} {g : Grant} (hemergency : x.emergency = false) (hrunning : x.running = some g)
  (hclosed : x.closed = false) (hcycle : cycle < g.since + g.left) (hsince : g.since < cycle)
  (hended : c = .hbmQueue → x.ended = [])
include hemergency hrunning hclosed hcycle hsince hended

/-- The state in which the emergency finds the arbiter. -/
theorem State.instOnly_beforePreempt : (s.onInst c inst (cycle - 1) id).instOnly s (instKey c inst) x :=
  State.instOnly_onInst id hx (Arb.upTo_running hemergency hrunning hclosed (by omega)) hended

/-- R45: an emergency beyond its share does not take place. -/
theorem exec_emergencyPreempt_refused (hroom : x.emergencyRoom c cycle = 0) :
    ∃ u, exec (.emergencyPreempt c inst cycle) s = .next u ∧ u.instOnly s (instKey c inst) x := by
  have h := State.instOnly_beforePreempt hx hemergency hrunning hclosed hcycle hsince hended
  have harb : (s.onInst c inst (cycle - 1) id).arbOf c inst = x := h.self
  refine ⟨_, if_pos ?_, h⟩
  rwa [harb]

/-- R40, R42: a grant that has begun stops where it is, and is counted. -/
theorem exec_emergencyPreempt_taken (hroom : 0 < x.emergencyRoom c cycle) :
    ∃ u, exec (.emergencyPreempt c inst cycle) s = .next u ∧
      u.arb.insts.get {} (instKey c inst) = x.preempt c cycle ∧
      u.arb.preempts.get 0 (classKey (dieOf c inst) c) = min 0xFFFF (s.arb.preempts.get 0 (classKey (dieOf c inst) c) + 1) ∧
      u = { s with arb := { s.arb with insts := u.arb.insts, preempts := u.arb.preempts } } := by
  obtain ⟨hframe, hself, -⟩ := State.instOnly_beforePreempt hx hemergency hrunning hclosed hcycle hsince hended
  have harb : (s.onInst c inst (cycle - 1) id).arbOf c inst = x := hself
  have hexec : exec (.emergencyPreempt c inst cycle) s = .next { s.onInst c inst (cycle - 1) id with
      arb := { (s.onInst c inst (cycle - 1) id).arb.countPreempt (dieOf c inst) c with
        insts := (s.onInst c inst (cycle - 1) id).arb.insts.set {} (instKey c inst) (x.preempt c cycle) } } := by
    refine (if_neg ?_).trans ?_
    · rw [harb]
      exact hroom.ne'
    · rw [harb, hrunning, if_pos (by simpa using hsince)]
      rfl
  refine ⟨_, hexec, Bank.get_set_self _ _ _ _, ?_, ?_⟩
  · rw [hframe]
    exact Bank.get_set_self _ _ _ _
  · rw [hframe]
    rfl

end Preempt

end AtOneArbiter

/-! ### The control register (R39, R42) -/

theorem TimedReg.at_write_earlier (r : TimedReg) (c : ArbClass) (v t u : Nat) (h : cycleOf c u ≤ cycleOf c t) :
    (r.write c v t).at c u = r.at c t := by
  simp [TimedReg.at, TimedReg.write, h.not_gt]

/-- The state after a write of the control register whose FAIR_N is `n`, before FAIR_N or N_REJECT is set. -/
def State.clearReject (s : State) (die : Nat) (c : ArbClass) (value cycle : Nat) : State :=
  let s := s.settleClass die c cycle
  if bit value 31 then { s with arb.reject := s.arb.reject.set false (classKey die c) false } else s

theorem State.clearReject_eq (s : State) (die : Nat) (c : ArbClass) (value cycle : Nat) : s.clearReject die c value cycle =
    { s with arb := { s.arb with
        insts := (s.clearReject die c value cycle).arb.insts,
        reject := if bit value 31 then s.arb.reject.set false (classKey die c) false else s.arb.reject } } := by
  unfold State.clearReject
  cases bit value 31 <;> rfl

theorem State.clearReject_fairN (s : State) (die : Nat) (c : ArbClass) (value cycle : Nat) :
    (s.clearReject die c value cycle).arb.fairN = s.arb.fairN := by
  rw [State.clearReject_eq]

section Control

variable {s : State} {die : Fin 12} {c : ArbClass} {value : BitVec 32} (cycle : Nat) (hcarries : carries die.val c = true)
include hcarries

theorem exec_arbiterControlWrite_legal (hlow : 4 ≤ fld value.toNat 0 8) (hhigh : fld value.toNat 0 8 ≤ 64) :
    exec (.arbiterControlWrite die c false value cycle) s = .next { s.clearReject die.val c value.toNat cycle with
      arb.fairN := (s.clearReject die.val c value.toNat cycle).arb.fairN.put (classKey die.val c)
        (((s.clearReject die.val c value.toNat cycle).arb.fairReg die.val c).write c (fld value.toNat 0 8) cycle) } :=
  (if_neg (by simp [hcarries])).trans (if_pos ⟨hlow, hhigh⟩)

theorem exec_arbiterControlWrite_refused (h : fld value.toNat 0 8 < 4 ∨ 64 < fld value.toNat 0 8) :
    exec (.arbiterControlWrite die c false value cycle) s = .next { s.clearReject die.val c value.toNat cycle with
      arb.reject := (s.clearReject die.val c value.toNat cycle).arb.reject.set false (classKey die.val c) true } :=
  (if_neg (by simp [hcarries])).trans (if_neg (by omega))

end Control

theorem exec_arbiterControlWrite_viaVf (s : State) (die : Fin 12) (c : ArbClass) (value : BitVec 32) (cycle : Nat) :
    exec (.arbiterControlWrite die c true value cycle) s = .next s :=
  rfl

/-- Settles O26: each clause is what the command makes of its one arbiter, or what a decision, a loss or an emergency makes
of an `Arb` (log entries 21 and 22). -/
theorem arbitersDecide : Obligations.ArbitersDecide := by
  refine ⟨⟨?idle, ?behind, ?pchan, ?held, ?unfit, ?decision, ?cycles, ?fair, fun t x req => x.lose_backoff t req⟩,
    ?expire, ?preempt, ?room, ?resume, ?legal, ?refused,
    fun die c value cycle s => exec_arbiterControlWrite_viaVf s die c value cycle⟩
  case idle =>
    intro c inst req beats cycle s x hreq hfits hc hrunning hemergency hheads
    obtain ⟨u, hexec, hframe, hself, hother⟩ :=
      exec_arbiterRequest_idle (x := x) rfl cycle hreq hfits hc hrunning hemergency hheads
    exact ⟨u, hexec, by rw [hself], by rw [hself], hother, hframe⟩
  case behind =>
    intro c inst req beats cycle s g h x hreq hfits hc hrunning hemergency hclosed hcycle hpos hheads
    obtain ⟨u, hexec, -, hself, -⟩ :=
      exec_arbiterRequest_running (x := x) rfl hreq hfits hc hrunning hemergency hclosed hcycle hpos hheads
    refine ⟨u, hexec, ?_, fun hsame => ?_, fun hother => ?_⟩
    · rw [hself]
      split <;> exact hrunning
    · rw [hself, if_pos hsame]
      exact ⟨hheads, rfl⟩
    · rw [hself, if_neg hother]
      exact ⟨rfl, rfl⟩
  case pchan =>
    intro inst req beats cycle s x hother hreq hfits hopen hrunning hemergency hheads
    refine ⟨_, exec_arbiterRequest_pchan cycle hother hreq hfits, ?_⟩
    rw [State.letIn_open _ hopen, State.onPchan_inst_self, Arb.upTo_idle hemergency hrunning hheads,
      Arb.enqueue_head (by simp [Arb.settleEnded, hheads])]
    exact congrArg (· ++ _) hheads
  case held =>
    intro inst req beats cycle s hother hreq hfits hheld
    have hexec := exec_arbiterRequest_pchan (s := s) (inst := inst) cycle hother hreq hfits
    rw [State.letIn_held _ hheld] at hexec
    refine ⟨fun hroom => ⟨_, hexec, ?_⟩, fun hfull => ?_⟩
    · rw [if_pos hroom]
      exact ⟨by simp, rfl⟩
    · rw [hexec, if_neg hfull.not_gt]
  case unfit =>
    intro c inst req beats cycle s hfits
    exact exec_arbiterRequest_unfit cycle hfits
  case decision =>
    intro c inst cycle s h x t hheads hrunning hemergency hclosed hended hdue hlong
    obtain ⟨k, u, hexec, hframe, hself, hother⟩ :=
      exec_arbiterDecision_only (x := x) rfl hheads hrunning hemergency hclosed hended hdue hlong
    refine ⟨u, hexec, ?_, ?_, ?_, hother, hframe⟩
    · rw [hself, Arb.grant_running]
    · rw [hself, Arb.grant_heads _ _ k hheads]
      cases x.queued.find? (fun y => y.req == h.req) <;> rfl
    · rw [hself, Arb.grant_lastGranted]
  case cycles =>
    exact fun c t => ⟨lt_nextCycle c t, cycleOf_nextCycle c t, fun q _ h => nextCycle_le h⟩
  case fair =>
    intro a c die t start x h hold hfair
    exact Arb.decide_fair start hold hfair
  case expire =>
    intro c inst req cycle s x hheads hrunning hemergency hended hzero
    obtain ⟨u, hexec, hframe, hself, -⟩ := exec_backoffExpire_zero (x := x) rfl hheads hrunning hemergency hended hzero
    refine ⟨u, hexec, ?_, ?_, hframe⟩ <;> rw [hself, Bank.get_set_self]
  case preempt =>
    intro c inst cycle s g x hemergency hrunning hclosed hcycle hsince hended
    refine ⟨fun hroom => ?_, fun hroom => ?_⟩
    · obtain ⟨u, hexec, hself, hcount, hframe⟩ :=
        exec_emergencyPreempt_taken (x := x) rfl hemergency hrunning hclosed hcycle hsince hended hroom
      refine ⟨u, hexec, ?_, ?_, ?_, hcount, hframe⟩ <;> rw [hself]
      · rfl
      · rfl
      · rw [Arb.preempt, hrunning]
        rfl
    · obtain ⟨u, hexec, hframe, hself, -⟩ :=
        exec_emergencyPreempt_refused (x := x) rfl hemergency hrunning hclosed hcycle hsince hended hroom
      exact ⟨u, hexec, by rw [hself, hemergency], by rw [hself, hrunning], by rw [hframe]⟩
  case room =>
    exact fun x t => ⟨rfl, rfl, x.emergencyRoom_hbmQueue_le t, Arb.emergencyRoom_debugPort t (.inl rfl),
      Arb.emergencyRoom_debugPort t (.inr rfl)⟩
  case resume =>
    intro c inst cycle s g x hemergency hrunning hsince huntil hended
    obtain ⟨u, hexec, hframe, hself, -⟩ := exec_emergencyEnd_running (x := x) rfl hemergency hsince huntil hended
    refine ⟨u, hexec, ?_, ?_, ?_, hframe⟩ <;> rw [hself]
    · rfl
    · rw [Arb.resume, hrunning]
      rfl
    · rfl
  case legal =>
    intro die c value cycle s hcarries hlow hhigh
    have hclear := s.clearReject_eq die.val c value.toNat cycle
    refine ⟨_, exec_arbiterControlWrite_legal cycle hcarries hlow hhigh, fun t ht => ?_, fun t ht => ?_, ?_, ?_⟩
    · rw [Arbiters.fairReg, Bank.find?_put_self]
      exact TimedReg.at_write_later _ c _ cycle t ht
    · rw [Arbiters.fairReg, Bank.find?_put_self]
      refine (TimedReg.at_write_earlier _ c _ cycle t ht).trans ?_
      rw [hclear]
      rfl
    · exact congrArg (fun u : State => u.arb.reject) hclear
    · rw [hclear]
  case refused =>
    intro die c value cycle s hcarries hn
    refine ⟨_, exec_arbiterControlWrite_refused cycle hcarries hn, ?_, ?_⟩
    · exact s.clearReject_fairN die.val c value.toNat cycle
    · exact Bank.get_set_self (s.clearReject die.val c value.toNat cycle).arb.reject false true (classKey die.val c)

end Sys2Proof.Machine

/-! PROOFS. O37 fails in its clause on a window that does not succeed. The dictionary gives the elements of an object 16 bits of
its keys (`okey`), and the statement bounds no number of a station that the state lists: the lost latch of a station numbered far
beyond the module's 128 is counted (30.106) on the very key of the element of 40.134 that shows the failed package. -/

namespace Sys2Proof.Machine

/-! ### Every stripe of a Kiln is lost -/

/-- The stripes without a lost unit are counted when a Kiln loses every stripe (R312): none, where each had one. -/
theorem State.loseAll_of_stripes_lost {s : State} {k : Nat} (hall : (s.kilnAt k).allLost = false)
    (hstripes : ∀ i < stripeCount, i ∈ (s.kilnAt k).lostUnits.map stripeOf) : s.loseAll k =
      (s.putKiln k { s.kilnAt k with masters := [], lostUnits := [], allLost := true, restored := [] }).noteLost k := by
  unfold State.loseAll
  dsimp only
  rw [if_neg (by simp [hall])]
  generalize stripeCount = n at hstripes ⊢
  refine congrArg (fun t : State => t.noteLost k)
    (List.foldlRecOn (motive := fun t : State => t = s.putKiln k _) _ _ rfl fun t ht i hi => ?_)
  rw [if_pos (by simpa using hstripes i (List.mem_range.mp hi)), ht]

theorem State.loseAll_of_allLost {s : State} {k : Nat} (h : (s.kilnAt k).allLost = true) : s.loseAll k = s :=
  if_pos h

/-- The first unit of each of the first `n` stripes. -/
@[irreducible] def firstUnits (n : Nat) : List Nat := (List.range n).map (7 * ·)

theorem stripeOf_firstUnit {i : Nat} (hi : i < stripeCount) : stripeOf (7 * i) = i := by
  have hunits : unitCount = 7 * stripeCount := rfl
  rw [stripeOf, if_pos (by omega), Nat.mul_div_cancel_left i (by decide)]

theorem mem_stripes_firstUnits {n i : Nat} (hi : i < n) (hn : n ≤ stripeCount) : i ∈ (firstUnits n).map stripeOf := by
  have hstripe := stripeOf_firstUnit (hi.trans_le hn)
  unfold firstUnits
  simpa using ⟨i, hi, hstripe⟩

/-! ### A package fails -/

/-- A package has become failed, and its pair has not lost its stripes yet. -/
def State.lpFailed (s : State) (q reason : Nat) : State :=
  let s := (s.putLp q { s.lp q with failed := true, retraining := false, attempts := [] }).setObj 0x40134 q 1
  (s.keepRepair { s.health.repair with packages := insertNat q s.health.repair.packages }).caskPost 0x0407
    (source 4 q) (leBytes 128 reason)

theorem State.failLp_second {s : State} {q reason : Nat}
    (h : 2 ≤ ((s.lpFailed q reason).failedPackages (2 * (q / 8))).length) :
    s.failLp q reason = ((s.lpFailed q reason).loseAll (2 * (q / 8))).loseAll (2 * (q / 8) + 1) :=
  if_pos (decide_eq_true h)

/-! ### The state -/

/-- The station whose count of lost latches has the key of 40.134[0]: `okey 0x30106 farStation = okey 0x40134 0`. -/
def farStation : Nat := (0x40134 - 0x30106) * 65536

/-- The gradient tile 0 of the counterexample, updated by Kiln 0, and its place in the update map. -/
def farGate : GateEntry :=
  { tileId := 0, revOffset := 0, slot := 0, kiln := 0, pgroup := 0, format := 0, owner := 0, kind := 0, waitRevs := 0 }
def farMap : MapEntry :=
  { tileId := 0, master := 0, gristA := 0, scaleA := 0, exportA := 0, partN0 := 0, parts := 0, scFirst := 0 }

/-- Context 0 with both, whose page table at 0 maps the 2 MiB behind it at address 0. -/
def farCtx : Ctx :=
  { pt := 1, upd := some { entries := [farMap] },
    ret := some { spanN := 1, slots := 1, replicated := false, member := 0, stepRevs := 1, gate := [farGate], rsta := [],
                  map := [] } }

/-- A claim for the copy of tile 0 into no cluster. -/
def farClaim : Claim :=
  { ctx := 0, entry := 0, slot := 0, rev := 0, gen := 0, clusters := 0,
    e := { tileId := 0, revOffset := 0, slot := 0, genSel := 0, genExpl := 0, lstation := 0, clusters := 0, cores := 0, uses := 0,
           kind := 0, scFirst := 0, scTwo := false, scBlock := 0, scDir := false, scTile := 0, sharedRef := false } }

/-- Package 0 is in its window and package 1 has failed; Kiln 0 has lost a unit of each stripe, Kiln 1 all its stripes. -/
def farState : State :=
  { mem := { hbm := [(0, 1), (2, 1), (4096, 0x12), (4101, 2)], lp := [(0, { retraining := true }), (1, { failed := true })] },
    kilns := [(0, { lostUnits := firstUnits stripeCount }), (1, { allLost := true })],
    conv := { stn := [(farStation, { claims := [farClaim] })] },
    host := { ctxs := [(0, farCtx)],
              objects := [(1, { kind := 0, big := true, pages := [0] }), (2, { kind := 0, big := true, pages := [2097152] })] } }

/-- Package 0 has failed too. -/
def farFailed : State := farState.lpFailed 0 0

/-- With the second failed package every stripe of Kiln 0 is lost, and its lost tiles are not told yet. -/
def farLost : State :=
  farFailed.putKiln 0 { farFailed.kilnAt 0 with masters := [], lostUnits := [], allLost := true, restored := [] }

theorem farState_failLp : farState.failLp 0 0 = (farFailed.loseAll 0).loseAll 1 :=
  State.failLp_second (by decide +kernel)

theorem farFailed_lostUnits : (farFailed.kilnAt 0).lostUnits = firstUnits stripeCount := rfl

theorem farFailed_loseAll : farFailed.loseAll 0 = farLost.noteLost 0 :=
  State.loseAll_of_stripes_lost rfl fun i hi => by
    rw [farFailed_lostUnits]
    exact mem_stripes_firstUnits hi le_rfl

theorem farLost_kiln1 : ((farLost.noteLost 0).kilnAt 1).allLost = true := by decide +kernel

theorem farLost_obj : (farLost.noteLost 0).obj 0x40134 0 = 2 := by decide +kernel

theorem exec_farState : exec (.lpRetrainWindow 0 false) farState = .next (farLost.noteLost 0) := by
  have hexec : exec (.lpRetrainWindow 0 false) farState = .next (farState.failLp 0 0) := rfl
  rw [hexec, farState_failLp, farFailed_loseAll, State.loseAll_of_allLost farLost_kiln1]

/-- Refutes O37: a window of package 0 that does not succeed leaves 2 in 40.134 and not 1, since the second failed package of the
pair loses tile 0, and its latch at `farStation` is counted there too. -/
theorem not_sharesAndSlowTier : ¬ Obligations.SharesAndSlowTier := by
  rintro ⟨-, -, hwindow⟩
  obtain ⟨-, u, hexec, -, -, hobj, -⟩ := hwindow 0 farState rfl
  obtain rfl : farLost.noteLost 0 = u := Host.Outcome.next.inj (exec_farState.symm.trans hexec)
  exact absurd (farLost_obj.symm.trans hobj) (by decide)

end Sys2Proof.Machine

/-! PROOFS. O31: what a station does with a due entry, with the slot that it claimed and with a copy that ends. -/

namespace Sys2Proof.Machine

/-! ### Reading back what was put -/

theorem Bank.get_put_ne {α : Type} (b : Bank α) (d v : α) {j k : Nat} (h : j ≠ k) :
    Bank.get (Bank.put b k v) d j = Bank.get b d j :=
  congrArg (·.getD d) (Bank.find?_put_ne b j k v h)

@[simp] theorem State.station_putStation_self (s : State) (st : Nat) (x : Station) : (s.putStation st x).station st = x :=
  Bank.get_put_self _ _ _ _

@[simp] theorem State.gristSlot_putGrist_self (s : State) (n : Nat) (x : Slot) : (s.putGrist n x).gristSlot n = x :=
  Bank.get_set_self _ _ _ _

@[simp] theorem State.station_putGrist (s : State) (n st : Nat) (x : Slot) : (s.putGrist n x).station st = s.station st := rfl

@[simp] theorem State.gristSlot_putStation (s : State) (st n : Nat) (x : Station) : (s.putStation st x).gristSlot n = s.gristSlot n :=
  rfl

@[simp] theorem State.station_putCore (s : State) (ck st : Nat) (c : Core) : (s.putCore ck c).station st = s.station st := rfl

@[simp] theorem State.arbOf_putCore (s : State) (ck : Nat) (x : Core) (c : ArbClass) (inst : Nat) :
    (s.putCore ck x).arbOf c inst = s.arbOf c inst := rfl

@[simp] theorem State.core_putCore_self (s : State) (ck : Nat) (c : Core) : (s.putCore ck c).core ck = c :=
  Bank.get_put_self _ _ _ _

theorem State.core_putCore_ne (s : State) {j k : Nat} (c : Core) (h : j ≠ k) : (s.putCore k c).core j = s.core j :=
  Bank.get_put_ne _ _ _ h

@[simp] theorem Core.cell_setCell_self (c : Core) (i : Nat) (x : WeightCell) : (c.setCell i x).cell i = x := by
  by_cases h : i = 0 <;> simp [Core.setCell, Core.cell, h]

/-! ### Masks of clusters -/

theorem maskOf8_bitsOf (b : BitVec 8) : maskOf8 (bitsOf b) = b := by
  revert b
  decide

theorem bitsOf_ne_nil {b : BitVec 8} (h : b ≠ 0) : bitsOf b ≠ [] := by
  intro hnil
  exact h ((maskOf8_bitsOf b).symm.trans (congrArg maskOf8 hnil))

theorem getLsbD_oneBit (i : Fin 8) : (1#8 <<< i.val).getLsbD i.val = true := by
  revert i
  decide

theorem oneBit_without_itself (i : Fin 8) : 1#8 <<< i.val &&& ~~~(1#8 <<< i.val) = 0#8 := by
  revert i
  decide

/-! ### What a change of a context and a station event leave as they were -/

theorem State.onCtx_frame (s : State) (k : Nat) (f : Ctx → Ctx) :
    s.onCtx k f = { s with host.ctxs := (s.onCtx k f).host.ctxs } := by
  unfold State.onCtx
  split <;> rfl

theorem State.stationEvent_frame (s : State) (k st j : Nat) : s.stationEvent k st j =
    { s with mgmt := (s.stationEvent k st j).mgmt, host.ctxs := (s.stationEvent k st j).host.ctxs } := by
  unfold State.stationEvent
  dsimp only
  rw [State.onCtx_frame]
  rfl

@[simp] theorem State.onCtx_conv (s : State) (k : Nat) (f : Ctx → Ctx) : (s.onCtx k f).conv = s.conv :=
  (congrArg State.conv (s.onCtx_frame k f) :)
@[simp] theorem State.onCtx_cores (s : State) (k : Nat) (f : Ctx → Ctx) : (s.onCtx k f).cores = s.cores :=
  (congrArg State.cores (s.onCtx_frame k f) :)
@[simp] theorem State.onCtx_health (s : State) (k : Nat) (f : Ctx → Ctx) : (s.onCtx k f).health = s.health :=
  (congrArg State.health (s.onCtx_frame k f) :)
@[simp] theorem State.onCtx_power (s : State) (k : Nat) (f : Ctx → Ctx) : (s.onCtx k f).power = s.power :=
  (congrArg State.power (s.onCtx_frame k f) :)
@[simp] theorem State.onCtx_mgmt (s : State) (k : Nat) (f : Ctx → Ctx) : (s.onCtx k f).mgmt = s.mgmt :=
  (congrArg State.mgmt (s.onCtx_frame k f) :)

@[simp] theorem State.stationEvent_conv (s : State) (k st j : Nat) : (s.stationEvent k st j).conv = s.conv :=
  (congrArg State.conv (s.stationEvent_frame k st j) :)
@[simp] theorem State.stationEvent_cores (s : State) (k st j : Nat) : (s.stationEvent k st j).cores = s.cores :=
  (congrArg State.cores (s.stationEvent_frame k st j) :)
@[simp] theorem State.stationEvent_arb (s : State) (k st j : Nat) : (s.stationEvent k st j).arb = s.arb :=
  (congrArg State.arb (s.stationEvent_frame k st j) :)
@[simp] theorem State.stationEvent_mem (s : State) (k st j : Nat) : (s.stationEvent k st j).mem = s.mem :=
  (congrArg State.mem (s.stationEvent_frame k st j) :)

@[simp] theorem State.station_onCtx (s : State) (k : Nat) (f : Ctx → Ctx) (st : Nat) : (s.onCtx k f).station st = s.station st :=
  (congrArg (fun c : Conv => c.stn.get {} st) (s.onCtx_conv k f) :)

@[simp] theorem State.core_onCtx (s : State) (k : Nat) (f : Ctx → Ctx) (ck : Nat) : (s.onCtx k f).core ck = s.core ck :=
  (congrArg (fun b : Bank Core => b.get {} ck) (s.onCtx_cores k f) :)

@[simp] theorem State.stationClusters_onCtx (s : State) (k : Nat) (f : Ctx → Ctx) (st : Nat) :
    (s.onCtx k f).stationClusters st = s.stationClusters st := by
  simp [State.stationClusters]

@[simp] theorem State.tileLost_onCtx (s : State) (k : Nat) (f : Ctx → Ctx) (tile : BitVec 32) :
    (s.onCtx k f).tileLost tile = s.tileLost tile := by
  simp [State.tileLost]

@[simp] theorem State.obj_onCtx (s : State) (k : Nat) (f : Ctx → Ctx) (o i : Nat) : (s.onCtx k f).obj o i = s.obj o i :=
  (congrArg (fun m : Mgmt => m.dict.get (objDefault o i) (okey o i)) (s.onCtx_mgmt k f) :)

@[simp] theorem State.station_stationEvent (s : State) (k st j i : Nat) : (s.stationEvent k st j).station i = s.station i :=
  (congrArg (fun c : Conv => c.stn.get {} i) (s.stationEvent_conv k st j) :)

theorem State.obj_stationEvent (s : State) (k st : Nat) :
    (s.stationEvent k st 1).obj 0x30101 st = (s.obj 0x30101 st + 1) % 2 ^ 64 :=
  (State.obj_onCtx _ _ _ _ _).trans (s.obj_bump_self 0x30101 st)

@[simp] theorem State.gristSlot_stationEvent (s : State) (k st j n : Nat) : (s.stationEvent k st j).gristSlot n = s.gristSlot n :=
  (congrArg (fun c : Conv => c.slots.get {} n) (s.stationEvent_conv k st j) :)

@[simp] theorem State.core_stationEvent (s : State) (k st j ck : Nat) : (s.stationEvent k st j).core ck = s.core ck :=
  (congrArg (fun b : Bank Core => b.get {} ck) (s.stationEvent_cores k st j) :)

@[simp] theorem State.arbOf_stationEvent (s : State) (k st j : Nat) (c : ArbClass) (inst : Nat) :
    (s.stationEvent k st j).arbOf c inst = s.arbOf c inst :=
  (congrArg (fun x : Arbiters => x.insts.get {} (instKey c inst)) (s.stationEvent_arb k st j) :)

/-! ### Claims and misses -/

/-- R77: the retry list takes the clusters for which it has room. -/
theorem State.retryLatches_room {s : State} {st : Nat} (k entry : Nat) (e : StaEntry) (gen : BitVec 16) (cause : MissCause)
    {l : List Nat} (h : l.length + (s.station st).retry.length ≤ 64) : s.retryLatches st k entry e gen cause l =
      s.putStation st { s.station st with retry := (s.station st).retry ++ l.map (fun i => ⟨k, entry, gen, i, cause⟩) } := by
  have htake : l.take (64 - (s.station st).retry.length) = l := List.take_of_length_le (by omega)
  have hdrop : l.drop (64 - (s.station st).retry.length) = [] := List.drop_of_length_le (by omega)
  simp [State.retryLatches, State.loseLatches, htake, hdrop]

theorem State.retryLatches_nil (s : State) (st k entry : Nat) (e : StaEntry) (gen : BitVec 16) (cause : MissCause) :
    s.retryLatches st k entry e gen cause [] = s.putStation st (s.station st) := by
  simp [State.retryLatches, State.loseLatches]

/-- The clusters in `l` are attached to the station, and none of them is absent. -/
def State.present (s : State) (st : Nat) (l : List Nat) : Prop :=
  ∀ i ∈ l, ∃ cl, (s.stationClusters st)[i]? = some cl ∧ s.health.absent.contains cl = false

theorem State.present.gone {s : State} {st : Nat} {l : List Nat} (h : s.present st l) :
    l.filter (fun i => ((s.stationClusters st)[i]?).elim true (fun cl => s.health.absent.contains cl)) = [] ∧
    l.filter (fun i => !((s.stationClusters st)[i]?).elim true (fun cl => s.health.absent.contains cl)) = l := by
  have hgone : ∀ i ∈ l, ((s.stationClusters st)[i]?).elim true (fun cl => s.health.absent.contains cl) = false := by
    intro i hi
    obtain ⟨cl, hcl, habsent⟩ := h i hi
    simpa [hcl] using habsent
  exact ⟨by simpa using hgone, by simpa using hgone⟩

/-- R77: an entry whose slot header has not been fetched in time. -/
theorem State.claimEntry_unfetched {s : State} {st : Nat} (k entry n rev : Nat) (p : ConvProg) {e : StaEntry} (gen : BitVec 16)
    {l : List Nat} (hpresent : s.present st l) (hl : l ≠ []) (hlost : s.tileLost e.tileId = false) :
    s.claimEntry st k entry n rev p e gen false l =
      (s.stationEvent k st 1).retryLatches st k entry e gen .noCapture l := by
  obtain ⟨hnone, hall⟩ := hpresent.gone
  simp only [State.claimEntry, hnone, hall]
  simp [State.loseLatches, hlost, hl]

/-- R73: the free buffer that the claim of an entry takes. -/
def StaEntry.claimed (e : StaEntry) (number : Nat) (needScale : Bool) : WeightCell :=
  { state := .claimed, tileId := e.tag, uses := if e.kind = 1 then 0 else e.uses, claim := number,
    needScale := needScale || e.kind == 1, scaleClaim := e.kind == 1 }

theorem Core.claimFor_free {c : Core} {e : StaEntry} (needScale : Bool) {b : Nat} (hjoin : c.joinCell e = none)
    (hfree : c.freeCell = some b) : c.claimFor e needScale =
      some ({ c.setCell b (e.claimed c.claims needScale) with claims := c.claims + 1 }, b, c.claims) := by
  simp [Core.claimFor, hjoin, hfree, StaEntry.claimed]

theorem Core.cell_claims (c : Core) (i n : Nat) : ({ c with claims := n } : Core).cell i = c.cell i := rfl

/-- The claim that a station makes of an entry for one buffer of one core. -/
def Station.claimOf (x : Station) (k entry : Nat) (e : StaEntry) (n rev : Nat) (gen : BitVec 16) (i m b number : Nat) : Claim :=
  { id := x.nextClaim, ctx := k, entry := entry, e := e, slot := n, rev := rev, gen := gen, clusters := maskOf8 [i],
    cells := [(i, m, b, number)] }

/-- R73: one named core of one cluster has a free buffer, and the station a free capture buffer. -/
theorem State.claimEntry_one {s : State} {st i cl m b : Nat} (k entry n rev : Nat) (p : ConvProg) {e : StaEntry} (gen : BitVec 16)
    {x : Core} {number : Nat} (hcores : coresOf e = [m]) (hcl : (s.stationClusters st)[i]? = some cl)
    (habsent : s.health.absent.contains cl = false) (hlost : s.tileLost e.tileId = false)
    (hruns : s.power.stopped.contains (cl / 136) = false) (hroom : (s.station st).claims.length < 4)
    (hclaim : (s.core (cl * 4 + m)).claimFor e (p.hasScales e i) = some (x, b, number)) :
    s.claimEntry st k entry n rev p e gen true [i] =
      ((s.putCore (cl * 4 + m) x).putStation st (s.station st)).putStation st
        { s.station st with claims := (s.station st).claims ++ [(s.station st).claimOf k entry e n rev gen i m b number],
                            nextClaim := (s.station st).nextClaim + 1 } := by
  have hpresent : s.present st [i] := by
    simpa [State.present] using ⟨cl, hcl, by simpa using habsent⟩
  obtain ⟨hnone, hall⟩ := hpresent.gone
  have hcluster : s.claimCluster cl e (p.hasScales e i) = some (s.putCore (cl * 4 + m) x, [(m, b, number)]) := by
    simp [State.claimCluster, hcores, hclaim]
  have hgo : cl / 136 ∉ s.power.stopped := by simpa using hruns
  simp only [State.claimEntry, hnone, hall, List.foldl_cons, List.foldl_nil]
  simp [State.loseLatches, hlost, hroom.not_ge, hcl, hgo, hcluster, State.retryLatches_nil, Station.claimOf]

/-! ### STATION_CLAIM (R73, R77) -/

section Claim

variable {s : State} {st : Fin 128} {ctx n q : Nat} {p : ConvProg} {e : StaEntry} (fetched : Bool)
  (hmoving : s.moving = true) (hprog : s.convOf ctx = some p) (hentry : p.sta[n]? = some e)
  (hphys : s.phys p e.sharedRef e.slot = some q) (hstation : (s.stationsOf (ctxVi ctx))[e.lstation]? = some st.val)
include hmoving hprog hentry hphys hstation

/-- The first firing of an entry. -/
theorem exec_stationClaim_due {run : ConvRun} (hfires : s.stopsFiring (s.station st.val) (s.claimRev st.val q) = false)
    (hdue : p.dueRun n e (s.claimRev st.val q) = some run) (hgrant : e.sharedRef = false ∨ s.obj 0x30012 (ctxVi ctx) = 1) :
    exec (.stationClaim st ctx n fetched) s =
      .next ((s.onCtx ctx (fun c => { c with conv := some (p.fire n (s.claimRev st.val q) e) })).claimEntry st.val ctx n q
        (s.claimRev st.val q) p e (e.expected run.gen) fetched (bitsOf e.clusters)) := by
  have hshared : (e.sharedRef && s.obj 0x30012 (ctxVi ctx) != 1) = false := by
    rcases hgrant with h | h <;> simp [h]
  show execStationClaim st ctx n fetched s = _
  simp [execStationClaim, hprog, hentry, hphys, hmoving, hstation, hfires, hdue, hshared]

/-- The claim of the one cluster on the retry list. -/
theorem exec_stationClaim_retry {r : Retry} (hdue : p.dueRun n e (s.claimRev st.val q) = none)
    (hretry : (s.station st.val).retry = [r]) (hctx : r.ctx = ctx) (hn : r.entry = n) :
    exec (.stationClaim st ctx n fetched) s =
      .next ((s.putStation st.val { s.station st.val with retry := [] }).claimEntry st.val ctx n q
        (s.claimRev st.val q) p e r.gen fetched [r.cluster]) := by
  show execStationClaim st ctx n fetched s = _
  simp [execStationClaim, hprog, hentry, hphys, hmoving, hstation, hdue, hretry, hctx, hn]

end Claim

/-! ### STATION_CAPTURE (R75, R62) -/

theorem State.replaceClaim_only {s : State} {st : Nat} {c : Claim} (h : (s.station st).claims = [c]) (d : Option Claim) :
    s.replaceClaim st c d = s.putStation st { s.station st with claims := d.toList } := by
  simp [State.replaceClaim, h]

theorem State.onCells_frame (s : State) (st : Nat) (c : Claim) (l : List Nat) (f : Core → Nat → Core) :
    s.onCells st c l f = { s with cores := (s.onCells st c l f).cores } := by
  refine List.foldlRecOn (motive := fun t : State => t = { s with cores := t.cores }) _ _ rfl fun t ht x _ => ?_
  split
  · dsimp only
    split
    · exact (congrArg (fun u : State => u.putCore _ _) ht).trans rfl
    · exact ht
  · exact ht

theorem State.onCells_nil (s : State) (st : Nat) (c : Claim) (f : Core → Nat → Core) : s.onCells st c [] f = s := by
  simp [State.onCells]

@[simp] theorem State.onCells_conv (s : State) (st : Nat) (c : Claim) (l : List Nat) (f : Core → Nat → Core) :
    (s.onCells st c l f).conv = s.conv :=
  (congrArg State.conv (s.onCells_frame st c l f) :)

@[simp] theorem State.station_releaseCells (s : State) (st : Nat) (c : Claim) (l : List Nat) (i : Nat) :
    (s.releaseCells st c l).station i = s.station i :=
  (congrArg (fun c : Conv => c.stn.get {} i) (s.onCells_conv st c l _) :)

@[simp] theorem State.gristSlot_releaseCells (s : State) (st : Nat) (c : Claim) (l : List Nat) (n : Nat) :
    (s.releaseCells st c l).gristSlot n = s.gristSlot n :=
  (congrArg (fun c : Conv => c.slots.get {} n) (s.onCells_conv st c l _) :)

/-- R75: the claim is captured for all its clusters, since each of them may latch the generation. -/
theorem State.meetClaim_match {s : State} {st : Nat} {x : Slot} {c : Claim} (hclaims : (s.station st).claims = [c])
    (hne : c.clusters ≠ 0) (hjudge : judgeSlot x c.e c.gen = .match_)
    (hlatch : ∀ i ∈ bitsOf c.clusters, ∃ cl, (s.stationClusters st)[i]? = some cl ∧ s.mayLatch c.e c.gen cl = true) :
    s.meetClaim st x c = ((s.putStation st { s.station st with
        claims := [{ c with captured := some x, copies := c.clusters }] }).raiseCopies st c (bitsOf c.clusters)).putStation st
      { s.station st with claims := [{ c with captured := some x, copies := c.clusters }] } := by
  have hok : ∀ i ∈ bitsOf c.clusters, ((s.stationClusters st)[i]?).any (fun cl => s.mayLatch c.e c.gen cl) = true := by
    intro i hi
    obtain ⟨cl, hcl, hmay⟩ := hlatch i hi
    simpa [hcl] using hmay
  have hyes : (bitsOf c.clusters).filter (fun i => ((s.stationClusters st)[i]?).any (fun cl => s.mayLatch c.e c.gen cl)) =
      bitsOf c.clusters := by simpa using hok
  have hno : (bitsOf c.clusters).filter (fun i => !((s.stationClusters st)[i]?).any (fun cl => s.mayLatch c.e c.gen cl)) =
      [] := by simpa using hok
  simp only [State.meetClaim, hjudge, hyes, hno]
  simp only [List.isEmpty_iff, bitsOf_ne_nil hne, if_false, if_true, maskOf8_bitsOf, State.releaseCells, State.onCells_nil,
    State.retryLatches_nil, State.replaceClaim_only hclaims, Option.toList_some]
  exact congrArg (State.putStation _ st) (s.station_putStation_self st _)

/-- R75, R77: a slot that fails its CRC is a miss of the whole claim. -/
theorem State.meetClaim_bad {s : State} {st : Nat} {x : Slot} {c : Claim} (hclaims : (s.station st).claims = [c])
    (hbad : x.bad = true) : s.meetClaim st x c =
      (((s.putStation st { s.station st with claims := [] }).stationEvent c.ctx st 4).releaseCells st c (bitsOf c.clusters)).retryLatches
        st c.ctx c.entry c.e c.gen .crc (bitsOf c.clusters) := by
  simp [State.meetClaim, judgeSlot, hbad, State.missClaim, State.replaceClaim_only hclaims]

section Capture

variable {s : State} {st : Fin 128} {slot : Fin 76800} {c : Claim} (hmoving : s.moving = true)
  (hslot : slot.val < s.conv.span.slots) (hclaims : (s.station st.val).claims = [c]) (hat : c.slot = slot.val)
  (hrev : c.rev = (s.station st.val).keptRev) (hopen : c.captured = none)
include hmoving hslot hclaims hat hrev hopen

/-- The last revolution of a residency aside, a sound slot meets the claim and is left as it is. -/
theorem exec_stationCapture_good (hleft : (s.gristSlot slot.val).revLeft ≠ 1#12) :
    exec (.stationCapture st slot false) s = .next (s.meetClaim st.val (s.gristSlot slot.val) c) := by
  show execStationCapture st slot false s = _
  simp [execStationCapture, hmoving, hslot.not_ge, State.spoilGrist, hclaims, hat, hrev, hopen, hleft]

theorem exec_stationCapture_bad : exec (.stationCapture st slot true) s =
    .next ((s.putGrist slot.val { s.gristSlot slot.val with bad := true }).meetClaim st.val
      { s.gristSlot slot.val with bad := true } c) := by
  show execStationCapture st slot true s = _
  simp [execStationCapture, hmoving, hslot.not_ge, State.spoilGrist, hclaims, hat, hrev, hopen]

end Capture

/-! ### LATCH_COPY_DONE (R76, R552) -/

/-- The running grant of an arbiter that no emergency and no window stops is noted when it ends. -/
theorem Arb.decide_ended (a : Arbiters) (c : ArbClass) (die t start : Nat) (x : Arb) :
    (x.decide a c die t start).ended = (x.finish c).ended := by
  have hlose : ∀ (l : List Head) (y : Arb), (l.foldl (fun y h => Arb.lose t y h.req) y).ended = y.ended := fun l y =>
    List.foldlRecOn (motive := fun z : Arb => z.ended = y.ended) l _ rfl fun _ hz _ _ => hz
  unfold Arb.decide
  dsimp only
  split
  · rfl
  · split
    · split
      · exact Arb.grant_ended _ _ _ _ _
      · rfl
    · split
      · rw [hlose, Arb.grant_ended]
      · split
        · exact Arb.grant_ended _ _ _ _ _
        · rfl

/-- The run of an arbiter stops where its condition no longer holds. -/
theorem Arb.run_stop {a : Arbiters} {c : ArbClass} {die n : Nat} {go : Arb → Nat → Bool} {x : Arb} (h : ∀ t, go x t = false) :
    Arb.run a c die go n x = x := by
  cases n with
  | zero => rfl
  | succ n =>
    unfold Arb.run
    split
    · simp [h]
    · rfl

theorem Arb.served_ended {x : Arb} (a : Arbiters) {c : ArbClass} (die : Nat) {g : Grant} (hrunning : x.running = some g)
    (hemergency : x.emergency = false) (hclosed : x.closed = false) (hnotes : notesEnd c = true) :
    (x.served a c die g.req g.tag).ended.any (fun e => e.1 == g.req && e.2.1 == g.tag) = true := by
  by_cases hdone : x.ended.any (fun e => e.1 == g.req && e.2.1 == g.tag) = true
  case pos =>
    unfold Arb.served
    rw [Arb.run_stop (by simp only [hdone, Bool.not_true, implies_true])]
    exact hdone
  case neg =>
    have hnow : (x.apply a c die (.decide (g.since + g.left - 1) (g.since + g.left))).ended.any
        (fun e => e.1 == g.req && e.2.1 == g.tag) = true := by
      simp [Arb.apply, Arb.decide_ended, Arb.finish, hrunning, hnotes]
    unfold Arb.served Arb.fuel Arb.run
    simp only [Arb.nextEvent_running c hemergency hrunning hclosed, hdone, Bool.not_false, if_true]
    rw [Arb.run_stop (by simp only [hnow, Bool.not_true, implies_true])]
    exact hnow

theorem State.latchEnded_isSome {s : State} {st i : Nat} {tag : Nat} {g : Grant} (hrunning : (s.arbOf .stationLatch st).running = some g)
    (hreq : g.req = i) (htag : g.tag = tag) (hemergency : (s.arbOf .stationLatch st).emergency = false)
    (hclosed : (s.arbOf .stationLatch st).closed = false) : (s.latchEnded st i tag).isSome = true := by
  subst hreq htag
  simp only [State.latchEnded,
    Arb.served_ended (c := .stationLatch) s.arb (dieOf .stationLatch st) hrunning hemergency hclosed rfl, if_true,
    Option.isSome_some]

/-- The last copy of the only claim of a station has ended: the claim is gone, and the latch arbiter stands as `a`. -/
def State.endClaim (s : State) (st : Nat) (a : Arb) : State :=
  ({ s with arb.insts := s.arb.insts.set {} (instKey .stationLatch st) a } : State).putStation st { s.station st with claims := [] }

theorem State.endClaim_cores (s : State) (st : Nat) (a : Arb) : (s.endClaim st a).cores = s.cores := rfl

@[simp] theorem State.core_endClaim (s : State) (st : Nat) (a : Arb) (ck : Nat) : (s.endClaim st a).core ck = s.core ck := rfl

@[simp] theorem State.claims_endClaim (s : State) (st : Nat) (a : Arb) : ((s.endClaim st a).station st).claims = [] := by
  simp [State.endClaim]

@[simp] theorem State.arbOf_endClaim (s : State) (st : Nat) (a : Arb) : (s.endClaim st a).arbOf .stationLatch st = a :=
  Bank.get_set_self _ _ _ _

theorem exec_latchCopyDone_last {s : State} {st : Fin 128} {i : Fin 8} {c : Claim} {x : Slot} {a : Arb}
    (hclaims : (s.station st.val).claims = [c]) (hcaptured : c.captured = some x) (hcopies : c.copies = 1#8 <<< i.val)
    (hdropped : c.dropped = none) (hended : s.latchEnded st.val i.val c.id = some a) :
    exec (.latchCopyDone st c.ctx c.entry i) s = .next (((s.endClaim st.val a).onCells st.val c [i.val]
      (fun w b => w.copyIn c.e x (c.e.genSel == 0 && serialNewer 16 c.gen.toNat s.steps.gen.toNat) b)).stationEvent
        c.ctx st.val 0) := by
  have hreplace := State.replaceClaim_only (s := { s with arb.insts := s.arb.insts.set {} (instKey .stationLatch st.val) a }) hclaims
  show execLatchCopyDone st c.ctx c.entry i s = _
  simp only [execLatchCopyDone, hclaims, hcopies, List.find?_cons, beq_self_eq_true, Bool.true_and, getLsbD_oneBit, hcaptured,
    hended, hdropped, oneBit_without_itself, hreplace]
  rfl

/-- A copy into one buffer of one core. -/
theorem State.onCells_one {s : State} {st i cl m b number : Nat} {c : Claim} (f : Core → Nat → Core)
    (hcells : c.cells = [(i, m, b, number)]) (hcl : (s.stationClusters st)[i]? = some cl) :
    s.onCells st c [i] f = if (s.core (cl * 4 + m)).claims_ b number then
      s.putCore (cl * 4 + m) (f (s.core (cl * 4 + m)) b) else s := by
  simp [State.onCells, hcells, hcl]

/-- Settles O31: each clause is one command at a station, and what `State.claimEntry`, `State.meetClaim` and a copy make of the
single claim, cluster and core that it speaks of. -/
theorem latchesAreClaimedAndMade : Obligations.LatchesAreClaimedAndMade := by
  refine ⟨?unfetched, ?due, ?retry, ?capture, ?miss, ?copy, ?ended⟩
  case unfetched =>
    intro st ctx n p e q run s hmoving hprog hentry hphys hstation hfires hdue hgrant hlost hpresent hne hroom
    refine ⟨_, exec_stationClaim_due false hmoving hprog hentry hphys hstation hfires hdue hgrant, ?_⟩
    have hpresent' : (s.onCtx ctx (fun c => { c with conv := some (p.fire n (s.claimRev st.val q) e) })).present st.val
        (bitsOf e.clusters) := by
      simpa only [State.present, State.stationClusters_onCtx, State.onCtx_health] using hpresent
    rw [State.claimEntry_unfetched _ _ _ _ _ _ hpresent' (bitsOf_ne_nil hne) (by simpa using hlost),
      State.retryLatches_room _ _ _ _ _ (by simpa using hroom)]
    refine ⟨by simp, by simp, by simp, ?_⟩
    exact (State.obj_stationEvent _ ctx st.val).trans (by rw [State.obj_onCtx])
  case due =>
    intro st ctx n p e q run i cl m s hmoving hprog hentry hphys hstation hfires hdue hgrant hlost hbits hcores hcl habsent hruns
      hclaims hfree hjoin number
    obtain ⟨b, hb⟩ := Option.isSome_iff_exists.mp hfree
    have hclaim := Core.claimFor_free (p.hasScales e i) hjoin hb
    refine ⟨_, _, b, exec_stationClaim_due true hmoving hprog hentry hphys hstation hfires hdue hgrant, hclaim, ?_⟩
    rw [hbits, State.claimEntry_one _ _ _ _ _ _ hcores (by simpa using hcl) (by simpa using habsent) (by simpa using hlost)
      (by simpa using hruns) (by simpa using hclaims) (by simpa using hclaim)]
    simp only [Core.cell_claims, Core.cell_setCell_self, State.station_putStation_self, State.station_onCtx]
    exact ⟨rfl, State.core_putCore_self _ _ _, trivial, rfl, rfl, rfl, trivial,
      fun k hk => (State.core_putCore_ne _ _ hk).trans (State.core_onCtx _ _ _ _)⟩
  case retry =>
    intro st ctx n p e q r cl m s hmoving hprog hentry hphys hstation hdue hretry hctx hn hlost hcores hcl habsent hruns hclaims
      hfree hjoin
    obtain ⟨b, hb⟩ := Option.isSome_iff_exists.mp hfree
    have hclaim := Core.claimFor_free (p.hasScales e r.cluster) hjoin hb
    refine ⟨_, b, exec_stationClaim_retry true hmoving hprog hentry hphys hstation hdue hretry hctx hn, ?_⟩
    rw [State.claimEntry_one (s := s.putStation st.val { s.station st.val with retry := [] }) _ _ _ _ _ _ hcores hcl habsent hlost
      hruns (by simpa using hclaims) hclaim]
    simp [Station.claimOf]
  case capture =>
    intro st slot c s hmoving hslot hclaims hat hrev hopen hne hjudge hlatch hleft
    refine ⟨_, exec_stationCapture_good hmoving hslot hclaims hat hrev hopen hleft, ?_⟩
    rw [State.meetClaim_match hclaims hne hjudge hlatch, State.station_putStation_self]
    exact ⟨rfl, rfl, rfl, rfl, rfl⟩
  case miss =>
    intro st slot c s hmoving hslot hclaims hat hrev hopen hroom
    refine ⟨_, exec_stationCapture_bad hmoving hslot hclaims hat hrev hopen, ?_⟩
    rw [State.meetClaim_bad (s := s.putGrist slot.val { s.gristSlot slot.val with bad := true }) hclaims rfl,
      State.retryLatches_room _ _ _ _ _ (by simpa using hroom)]
    exact ⟨by simp, by simp, by simp⟩
  case copy =>
    intro st ctx n i c x a cl m b number s hclaims hctx hn hcaptured hcopies hdropped hcells hcl hended
    subst hctx hn
    refine ⟨_, exec_latchCopyDone_last hclaims hcaptured hcopies hdropped hended, ?_⟩
    have hone := State.onCells_one (s := s.endClaim st.val a) (fun w b =>
      w.copyIn c.e x (c.e.genSel == 0 && serialNewer 16 c.gen.toNat s.steps.gen.toNat) b) hcells hcl
    rw [hone]
    cases hholds : (s.core (cl * 4 + m)).claims_ b number
    case true =>
      rw [if_pos (by simpa using hholds)]
      refine ⟨?_, ?_, fun _ => by simp, fun h => absurd h (by simp), fun k hk => ?_, by simp; rfl⟩
      · simp
      · simp
      · rw [State.core_stationEvent, State.core_putCore_ne _ _ hk, State.core_endClaim]
    case false =>
      rw [if_neg (by simp [hholds])]
      exact ⟨by simp, by simp, fun h => absurd h (by simp), fun _ => by simp [State.endClaim_cores], fun k hk => by simp,
        by simp; rfl⟩
  case ended =>
    exact fun st c i g s hrunning hreq htag hemergency hclosed => State.latchEnded_isSome hrunning hreq htag hemergency hclosed

end Sys2Proof.Machine

/-! PROOFS. What the operations of steps, contexts, losses and Kilns leave of the conveyor, the wort and the verdict slot. -/

namespace Sys2Proof.Machine

/-! ### Operations that leave the conveyor, the wort and the verdict slot as they were -/

/-- `t` has the conveyor, the wort and the verdict slot of `s`. -/
@[simp] abbrev State.linesKept (t s : State) : Prop := t.conv = s.conv ∧ t.wort = s.wort ∧ t.verdict = s.verdict

@[simp] theorem foldl_conv {α : Type} (f : State → α → State) (l : List α) (s : State) (h : ∀ t x, (f t x).conv = t.conv) :
    (l.foldl f s).conv = s.conv :=
  List.foldlRecOn (motive := fun t => t.conv = s.conv) l f rfl (fun t ht x _ => (h t x).trans ht)

@[simp] theorem foldl_wort {α : Type} (f : State → α → State) (l : List α) (s : State) (h : ∀ t x, (f t x).wort = t.wort) :
    (l.foldl f s).wort = s.wort :=
  List.foldlRecOn (motive := fun t => t.wort = s.wort) l f rfl (fun t ht x _ => (h t x).trans ht)

@[simp] theorem foldl_verdict {α : Type} (f : State → α → State) (l : List α) (s : State) (h : ∀ t x, (f t x).verdict = t.verdict) :
    (l.foldl f s).verdict = s.verdict :=
  List.foldlRecOn (motive := fun t => t.verdict = s.verdict) l f rfl (fun t ht x _ => (h t x).trans ht)

theorem foldl_lines {α : Type} (f : State → α → State) (l : List α) (s : State) (h : ∀ t x, (f t x).linesKept t) :
    (l.foldl f s).linesKept s :=
  ⟨foldl_conv f l s fun t x => (h t x).1, foldl_wort f l s fun t x => (h t x).2.1, foldl_verdict f l s fun t x => (h t x).2.2⟩

@[simp] theorem ite_state_conv (c : Prop) [Decidable c] (a b : State) : (if c then a else b).conv = if c then a.conv else b.conv :=
  apply_ite State.conv c a b

@[simp] theorem ite_state_wort (c : Prop) [Decidable c] (a b : State) : (if c then a else b).wort = if c then a.wort else b.wort :=
  apply_ite State.wort c a b

@[simp] theorem ite_state_verdict (c : Prop) [Decidable c] (a b : State) :
    (if c then a else b).verdict = if c then a.verdict else b.verdict :=
  apply_ite State.verdict c a b

/-- An operation of the host interface. -/
theorem State.hostOnly.linesKept {t s : State} (h : t.hostOnly s) : t.linesKept s :=
  ⟨(congrArg State.conv h.frame :), (congrArg State.wort h.frame :), (congrArg State.verdict h.frame :)⟩

/-! #### Counters, records and events -/

@[simp] theorem State.bumpBy_lines (s : State) (o i n : Nat) : (s.bumpBy o i n).linesKept s := ⟨rfl, rfl, rfl⟩
@[simp] theorem State.bump_lines (s : State) (o i : Nat) : (s.bump o i).linesKept s := ⟨rfl, rfl, rfl⟩

/-- `t` differs from `s` in the Maltster's part and the Cask alone. -/
def State.caskOnly (t s : State) : Prop := t = { s with mgmt := t.mgmt, cask := t.cask }

theorem State.caskOnly.trans {r t s : State} (g : r.caskOnly t) (h : t.caskOnly s) : r.caskOnly s :=
  Eq.trans g (congrArg (fun u : State => { u with mgmt := r.mgmt, cask := r.cask }) h)

theorem State.caskOnly_noticeTo (s : State) (dst : BitVec 16) (code object : Nat) : (s.noticeTo dst code object).caskOnly s := by
  unfold State.noticeTo
  split <;> rfl

theorem State.caskOnly_caskEnter (s : State) (t src : Nat) (payload : Bytes) (flags n : Nat) :
    (s.caskEnter t src payload flags n).caskOnly s := by
  unfold State.caskEnter
  split
  · rfl
  · split
    · exact (State.caskOnly_noticeTo _ _ _ _).trans rfl
    · rfl

theorem State.caskOnly_caskPost (s : State) (t src : Nat) (payload : Bytes) (flags : Nat) :
    (s.caskPost t src payload flags).caskOnly s := by
  unfold State.caskPost
  split
  · split
    · split
      · rfl
      · split
        · exact State.caskOnly_caskEnter s t src payload flags 0
        · rfl
    · exact State.caskOnly_caskEnter s t src payload flags 0
  · exact State.caskOnly_caskEnter s t src payload flags 0

@[simp] theorem State.caskPost_lines (s : State) (t src : Nat) (payload : Bytes) (flags : Nat) :
    (s.caskPost t src payload flags).linesKept s :=
  have h := s.caskOnly_caskPost t src payload flags
  ⟨(congrArg State.conv h :), (congrArg State.wort h :), (congrArg State.verdict h :)⟩

@[simp] theorem State.caskPost_mem (s : State) (t src : Nat) (payload : Bytes) (flags : Nat) :
    (s.caskPost t src payload flags).mem = s.mem :=
  (congrArg State.mem (s.caskOnly_caskPost t src payload flags) :)

@[simp] theorem State.onCtx_lines (s : State) (k : Nat) (f : Ctx → Ctx) : (s.onCtx k f).linesKept s :=
  (s.hostOnly_onCtx k f).linesKept

@[simp] theorem State.event_lines (s : State) (k : Nat) (e : Event) : (s.event k e).linesKept s :=
  (s.hostOnly_event k e).linesKept

@[simp] theorem State.ringVector_lines (s : State) (k : Nat) (sel : Ctx → Ring) (upd : Ctx → Ring → Ctx) :
    (s.ringVector k sel upd).linesKept s :=
  (s.hostOnly_ringVector k sel upd).linesKept

@[simp] theorem State.wideEvent_lines (s : State) (k type cookie status step item wide : Nat) :
    (s.wideEvent k type cookie status step item wide).linesKept s := by
  unfold State.wideEvent
  split
  · simp
  · split <;> simp

@[simp] theorem State.adminEvent_lines (s : State) (v : Nat) (e : Event) : (s.adminEvent v e).linesKept s := by
  dsimp only [State.adminEvent]
  split
  · exact ⟨rfl, rfl, rfl⟩
  · split <;> exact ⟨rfl, rfl, rfl⟩

@[simp] theorem State.stationEvent_lines (s : State) (k st j : Nat) : (s.stationEvent k st j).linesKept s := by
  simp [State.stationEvent]

/-! #### Writes of the coherence domain -/

@[simp] theorem State.charge_lines (s : State) (v d : Nat) : (s.charge v d).linesKept s := by
  simp [State.charge]

@[simp] theorem State.unusedPrefetch_lines (s : State) (x : Nat) : (s.unusedPrefetch x).linesKept s := by
  simp [State.unusedPrefetch]

@[simp] theorem State.lineOut_lines (s : State) (k : Nat) (x : SliceLine) : (s.lineOut k x).linesKept s := by
  simp [State.lineOut]

@[simp] theorem State.lineIn_lines (s : State) (k : Nat) (x : SliceLine) : (s.lineIn k x).linesKept s := by
  dsimp only [State.lineIn]
  split <;> simp

@[simp] theorem State.homeWrite_lines (s : State) (v : Nat) (p : Place) : (s.homeWrite v p).linesKept s := by
  simp [State.homeWrite]

@[simp] theorem State.homeWrites_lines (s : State) (v : Nat) (p : Place) (n : Nat) : (s.homeWrites v p n).linesKept s := by
  simp [State.homeWrites]

@[simp] theorem State.clearPoison_lines (s : State) (p : Place) (n : Nat) : (s.clearPoison p n).linesKept s := by
  cases p <;> exact ⟨rfl, rfl, rfl⟩

@[simp] theorem State.dropTags_lines (s : State) (p : Place) (n : Nat) : (s.dropTags p n).linesKept s := ⟨rfl, rfl, rfl⟩

@[simp] theorem State.writePlace_lines (s : State) (p : Place) (bs : Bytes) : (s.writePlace p bs).linesKept s := by
  cases p <;> exact ⟨rfl, rfl, rfl⟩

@[simp] theorem State.domainWrite_lines (s : State) (v : Nat) (p : Place) (bs : Bytes) : (s.domainWrite v p bs).linesKept s := by
  simp [State.domainWrite]

/-! #### Commands, objects and contexts -/

@[simp] theorem State.finish_lines (s : State) (r : CmdRef) (status detail : Nat) : (s.finish r status detail).linesKept s :=
  (s.hostOnly_finish r status detail).linesKept

@[simp] theorem State.dropObj_lines (s : State) (ok : Nat) : (s.dropObj ok).linesKept s :=
  (s.hostOnly_dropObj ok).linesKept

@[simp] theorem State.illegalCmd_lines (s : State) (r : CmdRef) (reason : Nat) : (s.illegalCmd r reason).linesKept s := by
  cases hc : s.cmd? r
  case none => simp [State.illegalCmd, hc]
  case some c =>
    have h := State.illegalCmd_frame (reason := reason) hc
    exact ⟨(congrArg State.conv h :), (congrArg State.wort h :), (congrArg State.verdict h :)⟩

@[simp] theorem State.settleCtx_lines (s : State) (k : Nat) : (s.settleCtx k).linesKept s := by
  unfold State.settleCtx
  split
  · simp
  · split
    · simp
    · split <;> simp

@[simp] theorem State.settleAll_lines (s : State) : s.settleAll.linesKept s := by
  simp [State.settleAll]

/-! #### Kilns and steps -/

@[simp] theorem State.onStep_lines (s : State) (st : BitVec 32) (f : LiveStep → LiveStep) : (s.onStep st f).linesKept s :=
  ⟨rfl, rfl, rfl⟩

@[simp] theorem State.onKilns_lines (s : State) (f : Nat → Kiln → Kiln) : (s.onKilns f).linesKept s := ⟨rfl, rfl, rfl⟩

@[simp] theorem State.countStep_lines (s : State) (step : BitVec 32) (c : StepCounts) : (s.countStep step c).linesKept s :=
  ⟨rfl, rfl, rfl⟩

@[simp] theorem State.mergeCounts_lines (s : State) (st : BitVec 32) (keep : Bool) : (s.mergeCounts st keep).linesKept s := by
  cases keep <;> exact ⟨rfl, rfl, rfl⟩

@[simp] theorem State.verdictEvent_lines (s : State) (x : LiveStep) (result origin cause decideRev : Nat) :
    (s.verdictEvent x result origin cause decideRev).linesKept s := by
  simp [State.verdictEvent]

@[simp] theorem State.finishCommits_lines (s : State) (st : BitVec 32) : (s.finishCommits st).linesKept s := by
  simp [State.finishCommits]

@[simp] theorem State.settleApplies_lines (s : State) : s.settleApplies.linesKept s := by
  simp [State.settleApplies]

@[simp] theorem State.resolveCells_lines (s : State) (cl : Nat) (committed : Bool) : (s.resolveCells cl committed).linesKept s := by
  simp [State.resolveCells]

/-! #### Launches that are discarded -/

@[simp] theorem State.writeRecord_lines (s : State) (k : Nat) (mk : Nat → Bytes) : (s.writeRecord k mk).linesKept s := by
  dsimp only [State.writeRecord]
  split
  · simp
  · split
    · simp
    · split
      · simp
      · split <;> simp

@[simp] theorem State.mxRecord_lines (s : State) (ck : Nat) (x : MxCmd) (removed : Bool) : (s.mxRecord ck x removed).linesKept s := by
  simp [State.mxRecord]

@[simp] theorem State.countNumerics_lines (s : State) (die : Nat) (c : MxCounts) : (s.countNumerics die c).linesKept s := by
  simp [State.countNumerics]

@[simp] theorem State.dropCmd_lines (s : State) (ck : Nat) (x : MxCmd) (list : Bool) : (s.dropCmd ck x list).linesKept s := by
  dsimp only [State.dropCmd]
  split <;> simp

@[simp] theorem State.noteHazard_lines (s : State) (ck : Nat) : (s.noteHazard ck).linesKept s := ⟨rfl, rfl, rfl⟩
@[simp] theorem State.wakeIssue_lines (s : State) (ck : Nat) : (s.wakeIssue ck).linesKept s := ⟨rfl, rfl, rfl⟩
@[simp] theorem State.wakeDma_lines (s : State) (cl : Nat) : (s.wakeDma cl).linesKept s := ⟨rfl, rfl, rfl⟩
@[simp] theorem State.detachDma_lines (s : State) (cl slot : Nat) : (s.detachDma cl slot).linesKept s := ⟨rfl, rfl, rfl⟩

@[simp] theorem State.removeCmds_lines (s : State) (ck : Nat) (bad : MxCmd → Bool) (list : Bool) :
    (s.removeCmds ck bad list).linesKept s := by
  simp [State.removeCmds]

@[simp] theorem State.ignoreReplay_lines (s : State) (g : Group) : (s.ignoreReplay g).linesKept s := by
  unfold State.ignoreReplay
  split <;> simp

@[simp] theorem State.endWaits_lines (s : State) (cl : Nat) (o : MissOwner) : (s.endWaits cl o).linesKept s := by
  simp [State.endWaits]

@[simp] theorem State.freeMiss_lines (s : State) (cl : Nat) (o : MissOwner) : (s.freeMiss cl o).linesKept s := by
  simp [State.freeMiss]

@[simp] theorem State.freeDmaSlots_lines (s : State) (gk : Nat) : (s.freeDmaSlots gk).linesKept s := by
  simp [State.freeDmaSlots]

@[simp] theorem State.endGroup_lines (s : State) (gk : Nat) (aborted : Bool) : (s.endGroup gk aborted).linesKept s := by
  dsimp only [State.endGroup]
  split
  · simp
  · split <;> simp

@[simp] theorem State.discardLaunch_lines (s : State) (id : Nat) : (s.discardLaunch id).linesKept s := by
  dsimp only [State.discardLaunch]
  split <;> simp

@[simp] theorem State.discardCluster_lines (s : State) (cl : Nat) : (s.discardCluster cl).linesKept s := by
  simp [State.discardCluster]

@[simp] theorem State.discardSpec_lines (s : State) (p : SpecCond → Bool) : (s.discardSpec p).linesKept s := by
  simp [State.discardSpec]

@[simp] theorem State.commitSpec_lines (s : State) (p : SpecCond → Bool) : (s.commitSpec p).linesKept s := by
  simp [State.commitSpec]

/-! #### Lost units and the writes of a Kiln -/

@[simp] theorem State.failLive_lines (s : State) (shared : Bool) : (s.failLive shared).linesKept s := by
  simp [State.failLive]

@[simp] theorem State.tellLost_lines (s : State) (a tile : Nat) : (s.tellLost a tile).linesKept s := by
  simp [State.tellLost]

@[simp] theorem State.refuseTile_lines (s : State) (q : Nat) (st : BitVec 32) : (s.refuseTile q st).linesKept s := by
  simp [State.refuseTile, State.poisonStep]

@[simp] theorem State.loseParked_lines (s : State) (q : Nat) : (s.loseParked q).linesKept s := by
  simp [State.loseParked]

@[simp] theorem State.loseStripe_lines (k : Nat) (s : State) (i : Nat) : (State.loseStripe k s i).linesKept s := by
  simp [State.loseStripe]

@[simp] theorem State.gristWrite_lines (s : State) (k va : Nat) (bs : Bytes) : (s.gristWrite k va bs).linesKept s := by
  unfold State.gristWrite
  split <;> simp

@[simp] theorem State.writeScales_lines (s : State) (k : Nat) (m : MapEntry) (gen : BitVec 16) (l : List (Nat × Nat)) :
    (s.writeScales k m gen l).linesKept s := by
  simp [State.writeScales]

@[simp] theorem State.writePart_lines (s : State) (k : Nat) (m : MapEntry) (gen : BitVec 16) (e : GroupEntry) (p : WcPart) :
    (s.writePart k m gen e p).linesKept s := by
  simp [State.writePart]

@[simp] theorem State.countSat_lines (s : State) (q n : Nat) : (s.countSat q n).linesKept s := by
  simp [State.countSat]

@[simp] theorem State.rewritePart_lines (gen : BitVec 16) (s : State) (y : Nat × MapEntry) :
    (State.rewritePart gen s y).linesKept s := by
  unfold State.rewritePart
  split
  · simp
  · split <;> simp

/-! ### Operations on stations -/

/-- The conveyor but for its stations and its injectors. -/
def Conv.line (c : Conv) : Conv := { c with stn := [], inj := [] }

/-- `t` differs from `s` in its stations alone, as to the conveyor, the wort and the verdict slot. -/
@[simp] abbrev State.pathKept (t s : State) : Prop :=
  t.conv.inj = s.conv.inj ∧ t.conv.line = s.conv.line ∧ t.wort = s.wort ∧ t.verdict = s.verdict

@[simp] theorem foldl_inj {α : Type} (f : State → α → State) (l : List α) (s : State) (h : ∀ t x, (f t x).conv.inj = t.conv.inj) :
    (l.foldl f s).conv.inj = s.conv.inj :=
  List.foldlRecOn (motive := fun t => t.conv.inj = s.conv.inj) l f rfl (fun t ht x _ => (h t x).trans ht)

@[simp] theorem foldl_line {α : Type} (f : State → α → State) (l : List α) (s : State) (h : ∀ t x, (f t x).conv.line = t.conv.line) :
    (l.foldl f s).conv.line = s.conv.line :=
  List.foldlRecOn (motive := fun t => t.conv.line = s.conv.line) l f rfl (fun t ht x _ => (h t x).trans ht)

theorem State.pathKept_trans {r t s : State} (g : r.pathKept t) (h : t.pathKept s) : r.pathKept s := by
  obtain ⟨hinj, hline, hwort, hverdict⟩ := h
  simpa only [State.pathKept, hinj, hline, hwort, hverdict] using g

theorem foldl_path {α : Type} (f : State → α → State) (l : List α) (s : State) (h : ∀ t x, (f t x).pathKept t) :
    (l.foldl f s).pathKept s :=
  ⟨foldl_inj f l s fun t x => (h t x).1, foldl_line f l s fun t x => (h t x).2.1, foldl_wort f l s fun t x => (h t x).2.2.1,
    foldl_verdict f l s fun t x => (h t x).2.2.2⟩

@[simp] theorem ite_conv_inj (c : Prop) [Decidable c] (a b : Conv) : (if c then a else b).inj = if c then a.inj else b.inj :=
  apply_ite Conv.inj c a b

@[simp] theorem ite_conv_line (c : Prop) [Decidable c] (a b : Conv) : (if c then a else b).line = if c then a.line else b.line :=
  apply_ite Conv.line c a b

@[simp] theorem State.putStation_path (s : State) (st : Nat) (x : Station) : (s.putStation st x).pathKept s := ⟨rfl, rfl, rfl, rfl⟩

@[simp] theorem State.onArb_lines (s : State) (c : ArbClass) (inst t : Nat) (f : Arb → Arb) : (s.onArb c inst t f).linesKept s :=
  ⟨rfl, rfl, rfl⟩

@[simp] theorem State.onCells_lines (s : State) (st : Nat) (c : Claim) (l : List Nat) (f : Core → Nat → Core) :
    (s.onCells st c l f).linesKept s :=
  have h := s.onCells_frame st c l f
  ⟨(congrArg State.conv h :), (congrArg State.wort h :), (congrArg State.verdict h :)⟩

@[simp] theorem State.onCores_lines (s : State) (cl : Nat) (e : StaEntry) (f : Core → Core) : (s.onCores cl e f).linesKept s := by
  refine foldl_lines _ _ _ fun t n => ?_
  simp

@[simp] theorem State.tellLatchLost_lines (s : State) (st : Nat) (e : StaEntry) (l : List Nat) :
    (s.tellLatchLost st e l).linesKept s := by
  refine foldl_lines _ _ _ fun t i => ?_
  split <;> simp

@[simp] theorem State.replaceClaim_path (s : State) (st : Nat) (c : Claim) (d : Option Claim) : (s.replaceClaim st c d).pathKept s :=
  ⟨rfl, rfl, rfl, rfl⟩

@[simp] theorem State.withdrawCopies_lines (s : State) (st : Nat) (c : Claim) (l : List Nat) : (s.withdrawCopies st c l).linesKept s :=
  ⟨rfl, rfl, rfl⟩

@[simp] theorem State.loseLatches_lines (s : State) (st k : Nat) (e : StaEntry) (l : List Nat) : (s.loseLatches st k e l).linesKept s := by
  simp [State.loseLatches]

@[simp] theorem State.retryLatches_path (s : State) (st k entry : Nat) (e : StaEntry) (gen : BitVec 16) (cause : MissCause)
    (l : List Nat) : (s.retryLatches st k entry e gen cause l).pathKept s := by
  simp [State.retryLatches]

@[simp] theorem State.cancelClaim_path (s : State) (st : Nat) (lose : Bool) (c : Claim) : (s.cancelClaim st lose c).pathKept s := by
  simp [State.cancelClaim, State.loseCells, State.releaseCells]

@[simp] theorem State.cancelOne_path (st : Nat) (lose : Bool) (s : State) (c : Claim) : (State.cancelOne st lose s c).pathKept s := by
  simp [State.cancelOne]

@[simp] theorem State.cancelAt_path (p : Nat → StaEntry → Bool) (lose : Bool) (s : State) (st : Nat) :
    (State.cancelAt p lose s st).pathKept s := by
  dsimp only [State.cancelAt]
  split
  · simp
  · split
    · refine State.pathKept_trans (foldl_path _ _ _ fun t r => ?_) ?_
      · split <;> simp
      · simp
    · simp

@[simp] theorem State.cancelLatches_path (s : State) (p : Nat → StaEntry → Bool) (lose : Bool) :
    (s.cancelLatches p lose).pathKept s := by
  simp [State.cancelLatches]

/-! #### Lost tiles -/

@[simp] theorem State.declareLost_path (s : State) (q a : Nat) (tile : BitVec 32) (blocks : List Nat) (cause : Nat) :
    (s.declareLost q a tile blocks cause).pathKept s := by
  simp [State.declareLost]

@[simp] theorem State.noteLost_path (s : State) (q : Nat) : (s.noteLost q).pathKept s := by
  refine State.pathKept_trans (foldl_path _ _ _ fun t y => ?_) (t := s.loseParked q) ?_
  · split
    · dsimp only
      split <;> simp
    · simp
  · simp

@[simp] theorem State.readUnits_path (s : State) (k : Nat) (units : List Nat) (reads : SlowReads) :
    (s.readUnits k units reads).pathKept s := by
  simp [State.readUnits]

end Sys2Proof.Machine

/-! PROOFS. O30: the pass of a slot at its injector, the staging reads and the rewrites of buffers. -/

namespace Sys2Proof.Machine

/-! ### Reading back injectors and slots -/

@[simp] theorem State.injector_putInjector_self (s : State) (j : Nat) (x : Injector) : (s.putInjector j x).injector j = x :=
  Bank.get_put_self _ _ _ _

@[simp] theorem State.injector_putGrist (s : State) (n j : Nat) (x : Slot) : (s.putGrist n x).injector j = s.injector j := rfl

@[simp] theorem State.gristSlot_putInjector (s : State) (j n : Nat) (x : Injector) :
    (s.putInjector j x).gristSlot n = s.gristSlot n := rfl

theorem State.gristSlot_putGrist_ne (s : State) {m n : Nat} (x : Slot) (h : m ≠ n) :
    (s.putGrist n x).gristSlot m = s.gristSlot m :=
  Bank.get_set_ne _ _ _ _ _ h

@[simp] theorem State.injector_bumpBy (s : State) (o i n j : Nat) : (s.bumpBy o i n).injector j = s.injector j := rfl
@[simp] theorem State.gristSlot_bumpBy (s : State) (o i n m : Nat) : (s.bumpBy o i n).gristSlot m = s.gristSlot m := rfl
@[simp] theorem State.injector_onCtx (s : State) (k : Nat) (f : Ctx → Ctx) (j : Nat) : (s.onCtx k f).injector j = s.injector j :=
  (congrArg (fun c : Conv => c.inj.get {} j) (s.onCtx_conv k f) :)
@[simp] theorem State.gristSlot_onCtx (s : State) (k : Nat) (f : Ctx → Ctx) (n : Nat) : (s.onCtx k f).gristSlot n = s.gristSlot n :=
  (congrArg (fun c : Conv => c.slots.get {} n) (s.onCtx_conv k f) :)
@[simp] theorem State.onCtx_mem (s : State) (k : Nat) (f : Ctx → Ctx) : (s.onCtx k f).mem = s.mem :=
  (congrArg State.mem (s.onCtx_frame k f) :)

@[simp] theorem State.injector_putFilled (s : State) (j n : Nat) (f : InjSlot) :
    (s.putFilled j n f).injector j = { s.injector j with filled := (s.injector j).filled.put n f } :=
  State.injector_putInjector_self _ _ _

@[simp] theorem State.gristSlot_putFilled (s : State) (j n m : Nat) (f : InjSlot) :
    (s.putFilled j n f).gristSlot m = s.gristSlot m := rfl

@[simp] theorem State.bumpBy_mem (s : State) (o i n : Nat) : (s.bumpBy o i n).mem = s.mem := rfl

@[simp] theorem State.gristSlot_fillSlot (s : State) (j n : Nat) (e : InjEntry) (r : InjSlot) (poison : Bool) (payload : Bytes) :
    (s.fillSlot j n e r poison payload).gristSlot n =
      { injHeader e r.gen s.conv.span.index r.last.toNat poison with payload := payload } :=
  Bank.get_set_self _ _ _ _

theorem State.gristSlot_fillSlot_ne (s : State) {m n : Nat} (j : Nat) (e : InjEntry) (r : InjSlot) (poison : Bool) (payload : Bytes)
    (h : m ≠ n) : (s.fillSlot j n e r poison payload).gristSlot m = s.gristSlot m :=
  State.gristSlot_putGrist_ne s _ h

@[simp] theorem State.fillSlot_mem (s : State) (j n : Nat) (e : InjEntry) (r : InjSlot) (poison : Bool) (payload : Bytes) :
    (s.fillSlot j n e r poison payload).mem = s.mem := rfl

@[simp] theorem State.staged_fillSlot (s : State) (j n : Nat) (e : InjEntry) (r : InjSlot) (poison : Bool) (payload : Bytes) :
    ((s.fillSlot j n e r poison payload).injector j).staged = (s.injector j).staged :=
  (congrArg Injector.staged (Bank.get_put_self s.conv.inj {} { s.injector j with filled := (s.injector j).filled.put n r } j) :)

/-! ### INJECTOR_SLOT_PASS (R60 to R63, R85) -/

/-- R61: a tile whose residency runs on. -/
theorem State.countPass_runs {s : State} {j n rev : Nat} {x : Slot} {f : InjSlot} (h : 3 ≤ x.revLeft.toNat) :
    s.countPass j n rev x f = (s.putGrist n { x with revLeft := x.revLeft - 1 }).putFilled j n { f with last := x.revLeft - 1 } := by
  have h2 : x.revLeft ≠ 2#12 := by rintro h2; simp [h2] at h
  have h1 : x.revLeft - 1#12 ≠ 0#12 := by bv_omega
  have h0 : x.revLeft ≠ 0#12 := by rintro h0; simp [h0] at h
  simp [State.countPass, h2, h1, h0]

/-- R61: a sound tile that nothing retires, refreshes or rewrites. -/
theorem State.injectorReturn_sound {s : State} {j n rev : Nat} {x : Slot} {f : InjSlot} (hnoticed : (s.injector j).noticed = false)
    (hretire : f.retire = false) (hrewriting : f.rewriting = false) (hbad : x.bad = false) (hkind : x.kind = 1)
    (hformat : formatFits 1 x.format.toNat = true) : s.injectorReturn j n rev x f = s.countPass j n rev x f := by
  simp [State.injectorReturn, hnoticed, hretire, hrewriting, hbad, hkind, hformat]

section Pass

variable {s : State} {j : Fin 16} {slot : Fin 76800} (hmoving : s.moving = true) (htwo : 2 ≤ slot.val)
  (hslot : slot.val < s.conv.span.slots)
include hmoving htwo hslot

/-- A sound slot that the injector has filled. -/
theorem exec_injectorSlotPass_filled {f : InjSlot} (hfilled : Bank.find? (s.injector j.val).filled slot.val = some f) :
    exec (.injectorSlotPass j slot false) s =
      .next ((s.injectorReturn j.val slot.val (s.injector j.val).keptRev (s.gristSlot slot.val) f).injectorFill j.val slot.val
        (s.injector j.val).keptRev) := by
  show execInjectorSlotPass j slot false s = _
  simp [execInjectorSlotPass, hmoving, hslot.not_ge, show slot.val ≠ 1 by omega, show slot.val ≠ 0 by omega, State.spoilGrist, hfilled]

/-- A sound empty slot that the injector has not filled. -/
theorem exec_injectorSlotPass_empty (hempty : s.gristSlot slot.val = {})
    (hfilled : Bank.find? (s.injector j.val).filled slot.val = none) :
    exec (.injectorSlotPass j slot false) s = .next (s.injectorFill j.val slot.val (s.injector j.val).keptRev) := by
  show execInjectorSlotPass j slot false s = _
  simp [execInjectorSlotPass, hmoving, hslot.not_ge, show slot.val ≠ 1 by omega, show slot.val ≠ 0 by omega, State.spoilGrist, hfilled,
    hempty]

end Pass

/-- R63: an occupied slot defers what is due in it. -/
theorem State.injectorFill_occupied {s : State} {j n rev : Nat} (hnoticed : (s.injector j).noticed = false)
    (hkind : (s.gristSlot n).kind ≠ 0#8) : s.injectorFill j n rev = s.bumpBy 0x30111 j (s.dueEntries j n rev).length := by
  simp [State.injectorFill, hnoticed, hkind]

theorem State.injectorFill_due {s : State} {j n rev : Nat} {t : State} {y : Nat × Nat × ConvRun × InjEntry}
    {rest : List (Nat × Nat × ConvRun × InjEntry)} (hnoticed : (s.injector j).noticed = false)
    (hempty : (s.gristSlot n).kind = 0) (hagain : (s.injector j).again = []) (hdue : s.dueEntries j n rev = y :: rest)
    (htry : s.tryInject j n y = some t) : s.injectorFill j n rev = t.bumpBy 0x30111 j rest.length := by
  simp [State.injectorFill, hnoticed, hempty, hagain, hdue, State.tryEntries, htry]

/-- What the injector keeps of a tile that an entry puts on in its generation. -/
def InjEntry.slotOf (e : InjEntry) (k n : Nat) (gen : BitVec 16) (src : Nat) : InjSlot :=
  { ctx := k, entry := n, tileId := e.tileId, gen := gen, src := src, last := BitVec.ofNat 12 e.residency }

/-- R63: a staged tile that may be injected and was read without error. -/
theorem State.tryInject_good {s : State} {j n k entry src : Nat} {run : ConvRun} {e : InjEntry} {tile : Staged}
    (hstaged : (s.injector j).stagedTile k entry (e.expected run.gen) = some tile) (hue : tile.ue = false)
    (hsrc : s.gristAt k (bufferOf e.gristA (e.expected run.gen)) = some src) (hlost : s.gristLost k e.gristA = false)
    (hgood : s.injectable j k e (e.expected run.gen) src = .good) : s.tryInject j n (k, entry, run, e) =
      some (((s.putInjector j ((s.injector j).unstage tile)).fillSlot j n e (e.slotOf k entry (e.expected run.gen) src) false
        tile.payload).injected k entry run) := by
  simp [State.tryInject, hstaged, hsrc, hlost, hgood, hue, InjEntry.slotOf]
  rfl

/-! ### STAGING_READ_DONE (R63, R292, R294) -/

theorem State.hbmUe_conv (s : State) (a requester : Nat) : (s.hbmUe a requester).conv = s.conv :=
  (State.caskPost_lines _ _ _ _ _).1

theorem State.hbmUe_mem (s : State) (a requester : Nat) :
    (s.hbmUe a requester).mem = { s.mem with poison := insertNat (a / 256) s.mem.poison } :=
  State.caskPost_mem _ _ _ _ _

theorem mem_insertNat (a : Nat) (l : List Nat) : a ∈ insertNat a l := by
  unfold insertNat
  split
  case isTrue h => simpa using h
  case isFalse => simp

/-- R294: the sector of an uncorrectable read is marked. -/
theorem State.bufferBad_hbmUe (s : State) (a requester : Nat) : (s.hbmUe a requester).bufferBad a = true := by
  have hmark : (s.hbmUe a requester).poisoned (.fast (a + 256 * 0)) = true := by
    simp [State.poisoned, State.hbmUe_mem, mem_insertNat]
  exact List.any_eq_true.mpr ⟨0, by simp, hmark⟩

/-- The state in which a staged tile has joined the others of its injector. -/
def State.stage (s : State) (j : Nat) (tile : Staged) : State :=
  s.putInjector j { s.injector j with staged := (s.injector j).staged ++ [tile] }

@[simp] theorem State.staged_stage (s : State) (j : Nat) (tile : Staged) :
    ((s.stage j tile).injector j).staged = (s.injector j).staged ++ [tile] := by
  simp [State.stage]

/-- What the outcome of the read of the buffer at `a`, marked before or not, leaves behind. -/
def State.noteRead (s : State) (a : Nat) (marked : Bool) : EccResult → State
  | .uncorrectable => if marked then s else s.hbmUe a 2
  | .corrected => s.bump 0x40102 (s.pchanOf a)
  | .clean => s

theorem State.noteRead_conv (s : State) (a : Nat) (marked : Bool) (ecc : EccResult) : (s.noteRead a marked ecc).conv = s.conv := by
  cases ecc
  case uncorrectable =>
    cases marked
    · exact s.hbmUe_conv a 2
    · rfl
  case corrected => rfl
  case clean => rfl

theorem State.noteRead_hbm (s : State) (a : Nat) (marked : Bool) (ecc : EccResult) :
    (s.noteRead a marked ecc).mem.hbm = s.mem.hbm := by
  cases ecc
  case uncorrectable =>
    cases marked
    · exact (congrArg Memory.hbm (s.hbmUe_mem a 2) :)
    · rfl
  case corrected => rfl
  case clean => rfl

theorem exec_stagingReadDone {s : State} {j : Fin 16} {ctx n a : Nat} {p : ConvProg} {e : InjEntry} (ecc : EccResult)
    (hprog : s.convOf ctx = some p) (hentry : s.injEntry ctx n = some e) {gen : BitVec 16}
    (hgen : gen = e.expected (((p.runs.find? (fun r => !r.injDone.contains n)).map (·.gen)).getD s.steps.gen))
    (hsrc : s.gristAt ctx (bufferOf e.gristA gen) = some a) (hstack : s.stackOf ctx e.gristA = some j.val)
    (hroom : (s.injector j.val).staged.length < 64) (hnew : (s.injector j.val).stagedTile ctx n gen = none)
    (hready : s.gristLost ctx e.gristA = true ∨ s.injectable j.val ctx e gen a ≠ .defer) :
    exec (.stagingReadDone j ctx n ecc) s =
      .next ((s.stage j.val ⟨ctx, n, gen, s.bufferBad a || ecc == .uncorrectable, s.bufferBytes a⟩).noteRead a (s.bufferBad a) ecc) := by
  subst hgen
  show execStagingReadDone j ctx n ecc s = _
  unfold execStagingReadDone
  simp only [hprog, hentry, hsrc]
  rw [if_neg (by simpa [hstack, hroom, or_iff_not_imp_left] using And.intro hnew hready)]
  cases ecc <;> rfl

/-! ### KILN_REWRITE_DONE (R64, R338) -/

/-- What a slot's injector keeps of it once its buffer is rewritten. -/
def Injector.rewritten (x : Injector) (n : Nat) : Injector :=
  { x with
    filled := x.filled.map (fun (y : Nat × InjSlot) => if y.1 == n && y.2.rewriting then (y.1, { y.2 with rewritten := true }) else y),
    again := x.again.map (fun y => if y.slot == n then { y with rewriting := false } else y) }

theorem exec_kilnRewriteDone {s : State} {k : Fin 8} {j : Fin 16} {slot : Fin 76800} {reads : SlowReads} {f : InjSlot}
    (hstack : j.val / 2 = k.val) (hrewrites : (s.kilnAt k.val).rewrites.contains (j.val, slot.val) = true)
    (hbrown : s.power.brown = false) (hfilled : (s.injector j.val).filled = [(slot.val, f)]) (hparts : s.entriesAt f.src ≠ []) :
    let parts := s.entriesAt f.src
    let q := s.kilnOfParts k.val parts
    let t := s.readUnits q (s.entryUnits q parts) reads
    let v := t.putKiln k.val { t.kilnAt k.val with rewrites := (t.kilnAt k.val).rewrites.erase (j.val, slot.val) }
    let u := parts.foldl (State.rewritePart f.gen) v
    s.unitsWait q (s.entryUnits q parts) reads = false → parts.flatMap t.entryLost = [] →
    exec (.kilnRewriteDone k j slot reads) s = .next (u.putInjector j.val ((u.injector j.val).rewritten slot.val)) := by
  intro parts q t v u hwait hlost
  have hknown : Bank.find? (s.injector j.val).filled slot.val = some f := by simp [hfilled, Bank.find?]
  show execKilnRewriteDone k j slot reads s = _
  unfold execKilnRewriteDone
  simp only [hknown]
  rw [if_neg (by simpa [hstack, hbrown] using hrewrites), if_neg (by simpa using hwait),
    if_neg (show ¬(parts.isEmpty = true ∨ (!(parts.flatMap t.entryLost).isEmpty) = true) by rw [hlost]; simpa using hparts)]
  rfl

/-- Settles O30: a pass is the branch of its slot, and a rewrite leaves every injector as it was but for its mark. -/
theorem injectorsServeTheirSlots : Obligations.InjectorsServeTheirSlots := by
  refine ⟨?marker, ?keeps, ?injects, ?stages, ?dropped, ?rewritten⟩
  case marker =>
    intro j s hmoving hslots
    constructor
    · show execInjectorSlotPass j 0 false s = _
      simp [execInjectorSlotPass, hmoving, hslots.ne']
    · show execInjectorSlotPass j 0 true s = _
      simp [execInjectorSlotPass, hmoving, hslots.ne']
  case keeps =>
    intro j slot f s hmoving htwo hslot hfilled hnoticed hretire hrewriting hbad hkind hformat hleft
    refine ⟨_, exec_injectorSlotPass_filled hmoving htwo hslot hfilled, ?_⟩
    rw [State.injectorReturn_sound hnoticed hretire hrewriting hbad hkind hformat, State.countPass_runs hleft,
      State.injectorFill_occupied (by simpa using hnoticed) (by simp [hkind])]
    exact ⟨rfl, rfl, by simp⟩
  case injects =>
    intro j slot k n run e rest src tile s hmoving htwo hslot hempty hfilled hnoticed hagain hdue hstaged hue hsrc hlost hgood
    refine ⟨_, exec_injectorSlotPass_empty hmoving htwo hslot hempty hfilled, ?_⟩
    rw [State.injectorFill_due hnoticed (by rw [hempty]) hagain hdue (State.tryInject_good hstaged hue hsrc hlost hgood)]
    simp only [State.injected, State.gristSlot_bumpBy, State.gristSlot_onCtx, State.gristSlot_fillSlot, State.injector_bumpBy,
      State.injector_onCtx, State.staged_fillSlot, State.injector_putInjector_self, State.bumpBy_mem, State.onCtx_mem,
      State.fillSlot_mem]
    refine ⟨?_, fun m hm => State.gristSlot_fillSlot_ne _ _ _ _ _ _ hm, rfl, rfl⟩
    simp only [injHeader, InjEntry.slotOf, BitVec.ofNat_toNat, BitVec.setWidth_eq]
    rfl
  case stages =>
    intro j ctx n ecc p e a s hprog hentry gen tile hsrc hstack hroom hnew hready
    refine ⟨_, exec_stagingReadDone ecc hprog hentry rfl hsrc hstack hroom hnew hready, ?_, ?_, ?_, ?_, ?_⟩
    · exact (congrArg (fun c : Conv => (c.inj.get {} j.val).staged) (State.noteRead_conv _ _ _ _)).trans (State.staged_stage _ _ _)
    · exact State.noteRead_hbm _ _ _ _
    · exact (congrArg Conv.slots (State.noteRead_conv _ _ _ _) :)
    · rintro rfl
      rfl
    · rintro rfl
      cases hbad : s.bufferBad a
      case true => exact hbad
      case false => exact State.bufferBad_hbmUe _ a 2
  case dropped =>
    intro k j slot reads s hstack hrewrites hbrown hfilled hagain
    show execKilnRewriteDone k j slot reads s = _
    have hmem : (j.val, slot.val) ∈ (s.kilnAt k.val).rewrites := by simpa using hrewrites
    simp [execKilnRewriteDone, hstack, hmem, hbrown, hfilled, hagain]
  case rewritten =>
    intro k j slot reads f s parts q t v hstack hrewrites hbrown hfilled hrewriting hparts hwait hlost
    have hnone : parts.flatMap t.entryLost = [] := List.flatMap_eq_nil_iff.mpr hlost
    refine ⟨_, exec_kilnRewriteDone hstack hrewrites hbrown hfilled hparts hwait hnone, ?_, rfl⟩
    have hinj : (parts.foldl (State.rewritePart f.gen) v).conv.inj = s.conv.inj :=
      (congrArg Conv.inj (foldl_conv _ _ _ fun t y => (State.rewritePart_lines _ t y).1)).trans (State.readUnits_path _ _ _ _).1
    have hsame : (parts.foldl (State.rewritePart f.gen) v).injector j.val = s.injector j.val :=
      congrArg (fun b : Bank Injector => b.get {} j.val) hinj
    rw [State.injector_putInjector_self, hsame]
    simp [Injector.rewritten, hfilled, hrewriting]

end Sys2Proof.Machine

/-! PROOFS. O32: the commands that load and unload the programs of a context. -/

namespace Sys2Proof.Machine

/-! ### A command that completes or stays busy -/

theorem State.finish_queues (s : State) (r : CmdRef) (status detail : Nat) :
    s.finish r status detail = { s with host.queues := (s.finish r status detail).host.queues } := by
  unfold State.finish State.putCmd
  split
  · split <;> rfl
  · rfl

theorem State.keepBusy_queues (s : State) (r : CmdRef) : s.keepBusy r = { s with host.queues := (s.keepBusy r).host.queues } := by
  unfold State.keepBusy State.putCmd
  split
  · split <;> rfl
  · rfl

/-- The entry of a command takes another one's place under its number. -/
theorem State.cmd?_putCmd_self {s : State} {r : CmdRef} {c d : Cmd} (h : s.cmd? r = some c) (hn : d.n = r.n) :
    (s.putCmd r d).cmd? r = some d := by
  unfold State.putCmd
  split
  case h_2 hqueue => simp [State.cmd?, hqueue] at h
  case h_1 x hqueue =>
    have hfind : x.cmds.find? (fun y => y.n == r.n) = some c := by simpa [State.cmd?, hqueue] using h
    have hcomp : ((fun y : Cmd => y.n == r.n) ∘ fun y => if y.n == r.n then d else y) = fun y : Cmd => y.n == r.n := by
      funext y
      by_cases hy : y.n = r.n <;> simp [hy, hn]
    rw [State.cmd?_putQueue_self, List.find?_map, hcomp, hfind]
    simp [State.cmd?_n h]

theorem Safety.done_finish {s : State} {r : CmdRef} {c : Cmd} (h : s.cmd? r = some c) (status detail : Nat) :
    Safety.done (s.finish r status detail) r status detail := by
  rw [State.finish, h]
  have hn : c.n = r.n := State.cmd?_n h
  exact ⟨_, State.cmd?_putCmd_self h hn, rfl, rfl, rfl, rfl⟩

theorem State.cmd?_keepBusy {s : State} {r : CmdRef} {c : Cmd} (h : s.cmd? r = some c) :
    (s.keepBusy r).cmd? r = some { c with busy := true } := by
  rw [State.keepBusy, h]
  have hn : c.n = r.n := State.cmd?_n h
  exact State.cmd?_putCmd_self h hn

/-- What the statements say of a command that completes with a code. -/
theorem exists_finish {o : Out} {s : State} {r : CmdRef} {c : Cmd} {status : Nat} (h : s.cmd? r = some c)
    (ho : o = .next (s.finish r status 0)) :
    ∃ u, o = .next u ∧ u = { s with host.queues := u.host.queues } ∧ Safety.done u r status 0 :=
  ⟨_, ho, s.finish_queues r status 0, Safety.done_finish h status 0⟩

/-! ### Contexts after a change -/

@[simp] theorem State.ctx?_putCtx_self (s : State) (k : Nat) (c : Ctx) : (s.putCtx k c).ctx? k = some c :=
  Bank.find?_put_self _ _ _

@[simp] theorem State.ctx?_finish (s : State) (r : CmdRef) (status detail k : Nat) : (s.finish r status detail).ctx? k = s.ctx? k :=
  (congrArg (fun t : State => t.ctx? k) (s.finish_queues r status detail) :)

@[simp] theorem State.ctx?_keepBusy (s : State) (r : CmdRef) (k : Nat) : (s.keepBusy r).ctx? k = s.ctx? k :=
  (congrArg (fun t : State => t.ctx? k) (s.keepBusy_queues r) :)

theorem State.onCtx_some {s : State} {k : Nat} {c : Ctx} (h : s.ctx? k = some c) (f : Ctx → Ctx) : s.onCtx k f = s.putCtx k (f c) := by
  rw [State.onCtx, h]

/-- A program that waits is forgotten with no reference to give back. -/
theorem State.dropWaiting_none {s : State} {k : Nat} {x : Ctx} (h : s.ctx? k = some x) (hconv : x.nextConv = none)
    (hupd : x.nextUpd = none) : s.dropWaiting k = s.putCtx k { x with nextRet := none } := by
  obtain ⟨⟩ := x
  subst hconv hupd
  simp [State.dropWaiting, h]

theorem State.takeObj_objects (s : State) (ok : Nat) : s.takeObj ok = { s with host.objects := (s.takeObj ok).host.objects } := by
  unfold State.takeObj
  split <;> rfl

/-- References that are taken enter the objects alone. -/
theorem State.takeObjs_objects (s : State) (l : List Nat) :
    l.foldl State.takeObj s = { s with host.objects := (l.foldl State.takeObj s).host.objects } := by
  refine List.foldlRecOn (motive := fun t : State => t = { s with host.objects := t.host.objects }) l State.takeObj rfl
    fun t ht ok _ => ?_
  rw [t.takeObj_objects ok]
  exact (congrArg (fun u : State => { u with host.objects := (t.takeObj ok).host.objects }) ht :)

@[simp] theorem State.ctx?_takeObjs (s : State) (l : List Nat) (k : Nat) : (l.foldl State.takeObj s).ctx? k = s.ctx? k :=
  (congrArg (fun t : State => t.ctx? k) (s.takeObjs_objects l) :)

@[simp] theorem State.cmd?_takeObjs (s : State) (l : List Nat) (r : CmdRef) : (l.foldl State.takeObj s).cmd? r = s.cmd? r :=
  (congrArg (fun t : State => t.cmd? r) (s.takeObjs_objects l) :)

@[simp] theorem State.mem_takeObjs (s : State) (l : List Nat) : (l.foldl State.takeObj s).mem = s.mem :=
  (congrArg State.mem (s.takeObjs_objects l) :)

@[simp] theorem State.conv_takeObjs (s : State) (l : List Nat) : (l.foldl State.takeObj s).conv = s.conv :=
  (congrArg State.conv (s.takeObjs_objects l) :)

@[simp] theorem State.steps_takeObjs (s : State) (l : List Nat) : (l.foldl State.takeObj s).steps = s.steps :=
  (congrArg State.steps (s.takeObjs_objects l) :)

@[simp] theorem State.cmd?_putCtx (s : State) (k : Nat) (c : Ctx) (r : CmdRef) : (s.putCtx k c).cmd? r = s.cmd? r := rfl

@[simp] theorem State.mem_finish (s : State) (r : CmdRef) (status detail : Nat) : (s.finish r status detail).mem = s.mem :=
  (congrArg State.mem (s.finish_queues r status detail) :)

/-! ### Contexts that nothing unloads and nothing destroys -/

/-- No context is to be destroyed. -/
def State.undying (s : State) : Prop := ∀ k c, s.ctx? k = some c → c.destroyCookie = none

theorem Bank.mem_of_find? {α : Type} {b : Bank α} {k : Nat} {v : α} (h : Bank.find? b k = some v) : (k, v) ∈ b := by
  induction b with
  | nil => exact absurd h (by simp [Bank.find?])
  | cons y b ih =>
    obtain ⟨j, w⟩ := y
    by_cases hj : j = k
    · have hw : w = v := by simpa [Bank.find?, hj] using h
      simp [hj, hw]
    · exact List.mem_cons_of_mem _ (ih (by simpa [Bank.find?, hj] using h))

theorem State.undying_of_forall {s : State} (h : ∀ y ∈ s.host.ctxs, y.2.destroyCookie = none) : s.undying :=
  fun _ _ hc => h _ (Bank.mem_of_find? hc)

theorem State.ctx?_putCtx_ne (s : State) {j k : Nat} (c : Ctx) (h : j ≠ k) : (s.putCtx k c).ctx? j = s.ctx? j :=
  Bank.find?_put_ne _ _ _ _ h

theorem State.undying.putCtx {s : State} (h : s.undying) (k : Nat) {c : Ctx} (hc : c.destroyCookie = none) : (s.putCtx k c).undying := by
  intro j d hd
  by_cases hj : j = k
  · subst hj
    rw [State.ctx?_putCtx_self, Option.some.injEq] at hd
    exact hd ▸ hc
  · exact h j d (by rwa [State.ctx?_putCtx_ne _ _ hj] at hd)

/-- R399: without a context to be destroyed there is none to settle. -/
theorem State.undying.settleAll {s : State} (h : s.undying) : s.settleAll = s := by
  refine List.foldlRecOn (motive := (· = s)) _ _ rfl fun t ht k _ => ?_
  subst ht
  unfold State.settleCtx
  split
  · rfl
  · next c hc => simp [h k c hc]

/-- A context without a program to be unloaded stays as it was. -/
theorem State.unloadNow_idle {s : State} {k : Nat} {c : Ctx} (h : s.ctx? k = some c) (hconv : c.conv.any (·.unload) = false)
    (hret : c.ret = none) (hupd : c.upd = none) (hcmds : c.unloadCmds = []) : s.unloadNow k = s.putCtx k c := by
  obtain ⟨⟩ := c
  subst hret hupd hcmds
  simp [State.unloadNow, h, hconv, State.onCtx_some h]

/-- The unload of a context with nothing to unload changes no more than the place of its entry. -/
theorem State.unloadSoon_idle {s : State} {k : Nat} {c : Ctx} (h : s.ctx? k = some c) (hconv : c.conv.any (·.unload) = false)
    (hret : c.ret = none) (hupd : c.upd = none) (hcmds : c.unloadCmds = []) (hdone : s.moving = true ∨ s.undying) :
    s.unloadSoon k = s ∨ s.unloadSoon k = s.putCtx k c := by
  unfold State.unloadSoon
  cases hm : s.moving
  case true => exact .inl rfl
  case false =>
    have hu : s.undying := hdone.resolve_left (by simp [hm])
    refine .inr ?_
    rw [State.unloadNow_idle h hconv hret hupd hcmds]
    exact (hu.putCtx k (hu k c h)).settleAll

theorem State.unloadSoon_moving {s : State} (k : Nat) (h : s.moving = true) : s.unloadSoon k = s := if_pos h

/-! ### CONVEYOR_LOAD (R65, R66) -/

/-- A program enters a context: its objects are taken, and the context's entry `c` becomes `d`. -/
def State.entered (s : State) (k : Nat) (objs : List Nat) (c d : Ctx) : State := (objs.foldl State.takeObj (s.putCtx k c)).putCtx k d

section Entered

variable (s : State) (k : Nat) (objs : List Nat) (c d : Ctx)

@[simp] theorem State.ctx?_entered : (s.entered k objs c d).ctx? k = some d := State.ctx?_putCtx_self _ _ _
@[simp] theorem State.cmd?_entered (r : CmdRef) : (s.entered k objs c d).cmd? r = s.cmd? r := State.cmd?_takeObjs _ _ _
@[simp] theorem State.mem_entered : (s.entered k objs c d).mem = s.mem := State.mem_takeObjs _ _
@[simp] theorem State.conv_entered : (s.entered k objs c d).conv = s.conv := State.conv_takeObjs _ _

@[simp] theorem State.moving_entered : (s.entered k objs c d).moving = s.moving := by simp [State.moving]

theorem State.undying.entered {s : State} (h : s.undying) {c d : Ctx} (hc : c.destroyCookie = none) (hd : d.destroyCookie = none) :
    (s.entered k objs c d).undying := by
  have htaken : (objs.foldl State.takeObj (s.putCtx k c)).undying := fun j e he => h.putCtx k hc j e (by simpa using he)
  exact htaken.putCtx k hd

/-- A program that enters a context with nothing to unload is there at once, whether the conveyor moves or stands. -/
theorem State.unloadSoon_entered {s : State} {d : Ctx} (hconv : d.conv.any (·.unload) = false) (hret : d.ret = none)
    (hupd : d.upd = none) (hcmds : d.unloadCmds = [])
    (hdone : s.moving = true ∨ (s.undying ∧ c.destroyCookie = none ∧ d.destroyCookie = none)) :
    let t := (s.entered k objs c d).unloadSoon k
    t.ctx? k = some d ∧ (∀ r, t.cmd? r = s.cmd? r) ∧ t.mem = s.mem ∧ t.conv = s.conv := by
  intro t
  have hidle : t = s.entered k objs c d ∨ t = (s.entered k objs c d).putCtx k d :=
    State.unloadSoon_idle (State.ctx?_entered s k objs c d) hconv hret hupd hcmds
      (hdone.imp (fun hm => by simpa using hm) (fun ⟨hs, hc, hd⟩ => hs.entered k objs hc hd))
  obtain hidle | hidle := hidle <;> rw [hidle] <;> simp

end Entered

section Load

variable {s : State} {r : CmdRef} {c : Cmd} (h : Safety.started s r 0x20 c)
include h

theorem exec_conveyorLoad_range (hrange : s.inRange (s.cmdCtx r) (c.arg 0 48) (c.arg 64 32) .load = false) :
    exec (.conveyorLoad r) s = .next (s.finish r 5 0) := by
  show execConveyorLoad r s = _
  rw [execConveyorLoad, runCmd_started _ h]
  simp [hrange]

variable (hrange : s.inRange (s.cmdCtx r) (c.arg 0 48) (c.arg 64 32) .load = true)
include hrange

theorem exec_conveyorLoad_magic (hmagic : badMagic (s.readVirt (s.cmdCtx r) (c.arg 0 48) (c.arg 64 32)) 0x47524953 = true) :
    exec (.conveyorLoad r) s = .next (s.finish r 0x30 0) := by
  show execConveyorLoad r s = _
  rw [execConveyorLoad, runCmd_started _ h]
  simp [hrange, hmagic]

variable {b : Bytes} (hb : b = s.readVirt (s.cmdCtx r) (c.arg 0 48) (c.arg 64 32)) (hmagic : badMagic b 0x47524953 = false)
  (hfit : convEntriesFit b = true)
include hb hmagic hfit

theorem exec_conveyorLoad_code (hcode : s.convCode (s.cmdCtx r) (parseConv b) false ≠ 0) :
    exec (.conveyorLoad r) s = .next (s.finish r (s.convCode (s.cmdCtx r) (parseConv b) false) 0) := by
  subst hb
  show execConveyorLoad r s = _
  rw [execConveyorLoad, runCmd_started _ h]
  simp [hrange, hmagic, hfit, hcode]

variable (hcode : s.convCode (s.cmdCtx r) (parseConv b) false = 0)
include hcode

theorem exec_conveyorLoad_stale (hstale : (s.convObjects (s.cmdCtx r) (parseConv b)).any s.objStale = true) :
    exec (.conveyorLoad r) s = .next (s.finish r 2 0) := by
  subst hb
  show execConveyorLoad r s = _
  rw [execConveyorLoad, runCmd_started _ h]
  simp only [hrange, hmagic, hfit, hcode, hstale]
  rfl

/-- The program that a context gets from an image that passes. -/
def State.loadedConv (s : State) (k : Nat) (c : Cmd) (p : ConvProg) : ConvProg :=
  { p with map := (s.convFree k).take p.slots, cookie := BitVec.ofNat 32 c.cookie, objs := s.convObjects k p, skip := s.steps.opened }

theorem exec_conveyorLoad_passes {x : Ctx} (hheld : (s.convObjects (s.cmdCtx r) (parseConv b)).any s.objStale = false)
    (hctx : s.ctx? (s.cmdCtx r) = some x) (hnext : x.nextConv = none) (hupd : x.nextUpd = none) :
    exec (.conveyorLoad r) s = .next (((s.entered (s.cmdCtx r) (s.convObjects (s.cmdCtx r) (parseConv b)) { x with nextRet := none }
      (({ x with nextRet := none } : Ctx).replaceConv (s.loadedConv (s.cmdCtx r) c (parseConv b)))).unloadSoon (s.cmdCtx r)).finish r 0 0) := by
  subst hb
  show execConveyorLoad r s = _
  rw [execConveyorLoad, runCmd_started _ h, State.entered, ← State.onCtx_some (by simp) (·.replaceConv _)]
  simp only [hrange, hmagic, hfit, hcode, hheld, State.dropWaiting_none hctx hnext hupd]
  rfl

end Load

/-! ### What an unload leaves of the contexts and the queues -/

/-- What of a context decides whether it ends and whether it has a conveyor program. -/
def Ctx.fate (c : Ctx) : Option (BitVec 32) × Option ConvProg × Option ConvProg := (c.destroyCookie, c.conv, c.nextConv)

/-- `t` has the contexts' conveyor programs and the queues of `s`. -/
structure State.fatesKept (t s : State) : Prop where
  fates : ∀ k, (t.ctx? k).map Ctx.fate = (s.ctx? k).map Ctx.fate
  queues : t.host.queues = s.host.queues
  rings : t.host.adminRing = s.host.adminRing

theorem State.fatesKept.trans {r t s : State} (g : r.fatesKept t) (h : t.fatesKept s) : r.fatesKept s :=
  ⟨fun k => (g.fates k).trans (h.fates k), g.queues.trans h.queues, g.rings.trans h.rings⟩

theorem State.fatesKept.host {r t s : State} (h : t.fatesKept s) (hctxs : r.host.ctxs = t.host.ctxs)
    (hqueues : r.host.queues = t.host.queues) (hrings : r.host.adminRing = t.host.adminRing) : r.fatesKept s :=
  .trans ⟨fun k => congrArg (fun b : Bank Ctx => (Bank.find? b k).map Ctx.fate) hctxs, hqueues, hrings⟩ h

theorem State.fatesKept.of_host {t s : State} (h : t.host = s.host) : t.fatesKept s :=
  ⟨fun k => congrArg (fun b : Host12 => (Bank.find? b.ctxs k).map Ctx.fate) h, congrArg Host12.queues h, congrArg Host12.adminRing h⟩

theorem State.fatesKept.foldl {α : Type} {f : State → α → State} (h : ∀ t x, (f t x).fatesKept t) (l : List α) (s : State) :
    (l.foldl f s).fatesKept s :=
  List.foldlRecOn (motive := fun t => t.fatesKept s) l f (.of_host rfl) fun t ht x _ => (h t x).trans ht

theorem State.fatesKept.putCtx {t s : State} {k : Nat} {c : Ctx} (h : t.fatesKept s) (d : Ctx) (hc : t.ctx? k = some c)
    (hd : d.fate = c.fate) : (t.putCtx k d).fatesKept s := by
  refine ⟨fun j => ?_, h.queues, h.rings⟩
  rw [← h.fates j]
  by_cases hj : j = k
  · subst hj
    simp [hc, hd]
  · rw [State.ctx?_putCtx_ne _ _ hj]

theorem State.fatesKept_onCtx (s : State) (k : Nat) {f : Ctx → Ctx} (hf : ∀ c, (f c).fate = c.fate) : (s.onCtx k f).fatesKept s := by
  cases hc : s.ctx? k
  case none => simpa [State.onCtx, hc] using State.fatesKept.of_host rfl
  case some c => simpa [State.onCtx, hc] using (State.fatesKept.of_host rfl).putCtx _ hc (hf c)

theorem State.fatesKept_ringVector (s : State) (k : Nat) (sel : Ctx → Ring) {upd : Ctx → Ring → Ctx}
    (hupd : ∀ c r, (upd c r).fate = c.fate) : (s.ringVector k sel upd).fatesKept s := by
  unfold State.ringVector
  split
  · next c hc =>
    split
    · exact ((State.fatesKept.of_host rfl).putCtx _ hc (hupd c _)).host rfl rfl rfl
    · exact .of_host rfl
  · exact .of_host rfl

theorem State.fatesKept_noteStop (s : State) (k : Nat) : (s.noteStop k).fatesKept s := by
  unfold State.noteStop
  split
  · next c hc =>
    split
    · exact ((State.fatesKept.of_host rfl).putCtx { c with evtStopped := true } hc rfl).host rfl rfl rfl
    · exact .of_host rfl
  · exact .of_host rfl

theorem State.fatesKept_event (s : State) (k : Nat) (e : Event) : (s.event k e).fatesKept s := by
  unfold State.event
  split
  · exact .of_host rfl
  · next c hc =>
    split
    · have hwritten := (State.fatesKept.of_host (t := s.hostWrite (c.evt.next 16) (e.bytes c.evt.phase)) (s := s) rfl).putCtx
        { c with evt.written := c.evt.written + 1 } hc rfl
      refine .trans (State.fatesKept_noteStop _ k) (.trans (State.fatesKept_ringVector _ k _ ?_) hwritten)
      exact fun _ _ => rfl
    · exact (State.fatesKept.of_host rfl).putCtx _ hc rfl

theorem State.fatesKept.clearPages {t s : State} (h : t.fatesKept s) (fast : Bool) (pages : List Nat) (bytes : Nat) :
    (if fast then t.clearPages pages bytes else t).fatesKept s := by
  split
  · exact h.host rfl rfl rfl
  · exact h

theorem State.fatesKept_releaseObj (s : State) (ok : Nat) (o : MemObj) : (s.releaseObj ok o).fatesKept s := by
  have hgen : (s.onCtx (ok / 65536) (fun c => { c with objGen := c.objGen.put (ok % 65536) (o.gen + 1) })).fatesKept s :=
    s.fatesKept_onCtx _ fun _ => rfl
  refine State.fatesKept.host (State.fatesKept.clearPages ?_ _ _ _) rfl rfl rfl
  split
  · exact (State.fatesKept_event _ _ _).trans hgen
  · exact hgen

theorem State.fatesKept_dropObj (s : State) (ok : Nat) : (s.dropObj ok).fatesKept s := by
  unfold State.dropObj
  split
  · split
    · exact s.fatesKept_releaseObj ok _
    · exact .host (.of_host rfl) rfl rfl rfl
  · exact .of_host rfl

theorem State.fatesKept_unloadUpd (s : State) (k : Nat) : (s.unloadUpd k).fatesKept s :=
  (State.fatesKept.foldl State.fatesKept_dropObj _ _).trans 
    ((s.fatesKept_onCtx k (f := fun c => { c with upd := c.nextUpd, nextUpd := none }) fun _ => rfl).host rfl rfl rfl)

theorem State.fatesKept_unloadRet (s : State) (k : Nat) : (s.unloadRet k).fatesKept s :=
  (State.fatesKept_unloadUpd _ k).trans
    ((State.fatesKept_onCtx _ k (f := fun c => { c with ret := c.nextRet, nextRet := none }) fun _ => rfl).trans (.of_host rfl))

/-! ### Latches that are cancelled and not lost -/

theorem State.foldl_host {α : Type} {f : State → α → State} (h : ∀ t x, (f t x).host = t.host) (l : List α) (s : State) :
    (l.foldl f s).host = s.host :=
  List.foldlRecOn (motive := fun t => t.host = s.host) l f rfl fun t ht x _ => (h t x).trans ht

theorem State.host_cancelOne (st : Nat) (s : State) (c : Claim) : (State.cancelOne st false s c).host = s.host := by
  simp only [State.cancelOne, State.cancelClaim, State.releaseCells, Bool.false_eq_true, if_false]
  exact (congrArg State.host (State.onCells_frame _ st c _ _) :)

theorem State.host_cancelAt (p : Nat → StaEntry → Bool) (s : State) (st : Nat) : (State.cancelAt p false s st).host = s.host := by
  simp only [State.cancelAt, Bool.false_eq_true, if_false]
  split
  · rfl
  · exact State.foldl_host (State.host_cancelOne st) _ _

theorem State.host_cancelLatches (s : State) (p : Nat → StaEntry → Bool) : (s.cancelLatches p false).host = s.host :=
  State.foldl_host (State.host_cancelAt p) _ s

/-! ### CONVEYOR_UNLOAD (R66) -/

theorem State.fatesKept.cmd? {t s : State} (h : t.fatesKept s) (r : CmdRef) : t.cmd? r = s.cmd? r := by
  simp only [State.cmd?, State.queueAt, h.queues, h.rings]

theorem State.fatesKept.undying {t s : State} (h : t.fatesKept s) (hs : s.undying) : t.undying := by
  intro k c hc
  have hfate : (s.ctx? k).map Ctx.fate = some c.fate := by rw [← h.fates k, hc]; rfl
  obtain ⟨d, hd, hcd⟩ := Option.map_eq_some_iff.mp hfate
  exact (congrArg Prod.fst hcd).symm.trans (hs k d hd)

theorem State.onCtx_host_congr {v s : State} (h : v.host = s.host) (k : Nat) (f : Ctx → Ctx) :
    (v.onCtx k f).host = (s.onCtx k f).host := by
  simp only [State.onCtx, State.ctx?, h]
  split
  · simp only [State.putCtx, h]
  · exact h

/-- R66: the unload of a conveyor program that nothing replaces leaves the context without one. -/
theorem State.fatesKept_unloadConv {s : State} {k : Nat} {c : Ctx} (h : s.ctx? k = some c) (hnext : c.nextConv = none) :
    (s.unloadConv k).fatesKept (s.putCtx k { c with conv := none }) := by
  have hhost := s.host_cancelLatches (fun j _ => j == k)
  refine .trans (State.fatesKept_unloadRet _ k) (.trans (.foldl State.fatesKept_dropObj _ _) ?_)
  refine .of_host ((State.onCtx_host_congr (by exact hhost) k _).trans ?_)
  obtain ⟨⟩ := c
  subst hnext
  rw [State.onCtx_some h]

/-- The state in which a context is to be unloaded and the command that asks for it waits. -/
def State.unloading (s : State) (r : CmdRef) (x : Ctx) : State :=
  (((s.putCtx (s.cmdCtx r) { x with nextRet := none })).putCtx (s.cmdCtx r)
    { ({ x with nextRet := none } : Ctx).unloadAll with unloadCmds := x.unloadCmds ++ [r] }).keepBusy r

theorem exec_conveyorUnload {s : State} {r : CmdRef} {c : Cmd} {x : Ctx} {p : ConvProg} (h : Safety.started s r 0x21 c)
    (hctx : s.ctx? (s.cmdCtx r) = some x) (hconv : x.conv = some p) (hnext : x.nextConv = none) (hupd : x.nextUpd = none) :
    exec (.conveyorUnload r) s = .next ((s.unloading r x).unloadSoon (s.cmdCtx r)) := by
  show execConveyorUnload r s = _
  rw [execConveyorUnload, runCmd_started _ h, State.unloading]
  simp [hctx, hconv, State.dropWaiting_none hctx hnext hupd, State.onCtx_some (s.ctx?_putCtx_self (s.cmdCtx r) _)]

theorem exec_conveyorUnload_none {s : State} {r : CmdRef} {c : Cmd} (h : Safety.started s r 0x21 c)
    (hnone : s.convOf (s.cmdCtx r) = none) : exec (.conveyorUnload r) s = .next (s.finish r 0 0) := by
  show execConveyorUnload r s = _
  rw [execConveyorUnload, runCmd_started _ h]
  exact congrArg Host.Outcome.next (if_pos (Option.isNone_iff_eq_none.mpr hnone))

theorem State.unloading_frame (s : State) (r : CmdRef) (x : Ctx) : s.unloading r x = { s with host := (s.unloading r x).host } := by
  unfold State.unloading
  rw [State.keepBusy_queues]
  rfl

theorem State.ctx?_unloading (s : State) (r : CmdRef) (x : Ctx) : (s.unloading r x).ctx? (s.cmdCtx r) =
    some { ({ x with nextRet := none } : Ctx).unloadAll with unloadCmds := x.unloadCmds ++ [r] } :=
  (State.ctx?_keepBusy _ _ _).trans (State.ctx?_putCtx_self _ _ _)

theorem State.cmd?_unloading {s : State} {r : CmdRef} {c : Cmd} (h : s.cmd? r = some c) (x : Ctx) :
    (s.unloading r x).cmd? r = some { c with busy := true } :=
  State.cmd?_keepBusy h

theorem State.undying.unloading {s : State} (hs : s.undying) (r : CmdRef) {x : Ctx} (hx : x.destroyCookie = none) :
    (s.unloading r x).undying := by
  intro j d hd
  rw [State.unloading, State.ctx?_keepBusy] at hd
  refine State.undying.putCtx (State.undying.putCtx hs _ ?_) _ ?_ j d hd
  · exact hx
  · exact hx

/-- R66: while the conveyor stands the unload takes effect at once, and the command that waited for it completes. -/
theorem State.unloadSoon_standing {s : State} {r : CmdRef} {c : Cmd} {x : Ctx} {p : ConvProg} (h : s.cmd? r = some c)
    (hctx : s.ctx? (s.cmdCtx r) = some x) (hconv : x.conv = some p) (hnext : x.nextConv = none) (hcmds : x.unloadCmds = [])
    (hmoving : s.moving = false) (hs : s.undying) :
    ((s.unloading r x).unloadSoon (s.cmdCtx r)).convOf (s.cmdCtx r) = none ∧
      Safety.done ((s.unloading r x).unloadSoon (s.cmdCtx r)) r 0 0 := by
  have hw := s.ctx?_unloading r x
  have hnow : (s.unloading r x).unloadNow (s.cmdCtx r) =
      (((s.unloading r x).unloadConv (s.cmdCtx r)).onCtx (s.cmdCtx r) (fun c => { c with unloadCmds := [] })).finish r 0 0 := by
    simp [State.unloadNow, hw, Ctx.unloadAll, hconv, hcmds]
  have hkept := (State.fatesKept_onCtx _ (s.cmdCtx r) (f := fun c => { c with unloadCmds := [] }) fun _ => rfl).trans
    (State.fatesKept_unloadConv hw (by simp [Ctx.unloadAll, hnext]))
  have hdying : x.destroyCookie = none := hs _ _ hctx
  have hundying : ((s.unloading r x).unloadNow (s.cmdCtx r)).undying := by
    intro j d hd
    rw [hnow, State.ctx?_finish] at hd
    exact hkept.undying ((hs.unloading r hdying).putCtx _ hdying) j d hd
  have hm : (s.unloading r x).moving = false := (congrArg State.moving (s.unloading_frame r x)).trans hmoving
  rw [State.unloadSoon, hm, if_neg Bool.false_ne_true, hundying.settleAll, hnow]
  constructor
  · have hfate := hkept.fates (s.cmdCtx r)
    rw [State.ctx?_putCtx_self] at hfate
    obtain ⟨d, hd, hdf⟩ := Option.map_eq_some_iff.mp hfate
    rw [State.convOf, State.ctx?_finish, hd]
    exact congrArg (·.2.1) hdf
  · exact Safety.done_finish ((hkept.cmd? r).trans (State.cmd?_unloading h x)) 0 0

/-! ### RETURN_LOAD (R107) -/

section ReturnLoad

variable {s : State} {r : CmdRef} {c : Cmd} (h : Safety.started s r 0x22 c)
include h

theorem exec_returnLoad_none (hnone : (s.ctx? (s.cmdCtx r)).bind (·.convNow) = none) :
    exec (.returnLoad r) s = .next (s.finish r 0x46 0) := by
  show execReturnLoad r s = _
  rw [execReturnLoad, runCmd_started _ h]
  simp [hnone]

variable {x : Ctx} {q : ConvProg} (hctx : s.ctx? (s.cmdCtx r) = some x) (hnow : x.convNow = some q)
  (hrange : s.inRange (s.cmdCtx r) (c.arg 0 48) (c.arg 64 32) .load = true) {b : Bytes}
  (hb : b = s.readVirt (s.cmdCtx r) (c.arg 0 48) (c.arg 64 32)) (hmagic : badMagic b 0x574F5254 = false)
  (hfit : convEntriesFit b = true)
include hctx hnow hrange hb hmagic hfit

theorem exec_returnLoad_code (hcode : s.retCode (s.cmdCtx r) (parseRet b) q false ≠ 0) :
    exec (.returnLoad r) s = .next (s.finish r (s.retCode (s.cmdCtx r) (parseRet b) q false) 0) := by
  subst hb
  show execReturnLoad r s = _
  rw [execReturnLoad, runCmd_started _ h]
  simp [hctx, hnow, hrange, hmagic, hfit, hcode]

/-- A gradient return program becomes its context's while the conveyor moves and no other is there. -/
theorem exec_returnLoad_passes (hcode : s.retCode (s.cmdCtx r) (parseRet b) q false = 0) (hret : x.ret = none)
    (hnext : x.nextConv = none) (hupd : x.nextUpd = none) (hmoving : s.moving = true) :
    exec (.returnLoad r) s = .next ((s.putCtx (s.cmdCtx r) { x with
      ret := some { parseRet b with map := (s.retFree (s.cmdCtx r)).take (parseRet b).slots, skip := q.skip } }).finish r 0 0) := by
  subst hb
  show execReturnLoad r s = _
  rw [execReturnLoad, runCmd_started _ h]
  simp only [hctx, hnow, hrange, hmagic, hfit, hcode, hupd, State.onCtx_some hctx, Ctx.replaceRet, hret, hnext, Option.bind_some]
  exact congrArg (fun t : State => Host.Outcome.next (t.finish r 0 0)) (State.unloadSoon_moving _ hmoving)

end ReturnLoad

/-! ### UPDATE_LOAD (R327, R328) -/

section UpdateLoad

variable {s : State} {r : CmdRef} {c : Cmd} (h : Safety.started s r 0x23 c)
include h

theorem exec_updateLoad_none (hnone : (s.ctx? (s.cmdCtx r)).bind (·.retNow) = none) :
    exec (.updateLoad r) s = .next (s.finish r 0x52 0) := by
  show execUpdateLoad r s = _
  rw [execUpdateLoad, runCmd_started _ h]
  simp [hnone]

/-- The entries of an update map's image. -/
def mapEntriesOf (b : Bytes) : List MapEntry :=
  (recordsAt b (fld (leNat (b.take 64)) 320 64) (fld (leNat (b.take 64)) 416 32)).map mapEntryOf

variable {x : Ctx} {p : RetProg} (hctx : s.ctx? (s.cmdCtx r) = some x) (hnow : x.retNow = some p)
  (hrange : s.inRange (s.cmdCtx r) (c.arg 0 48) (c.arg 64 32) .load = true) {b : Bytes}
  (hb : b = s.readVirt (s.cmdCtx r) (c.arg 0 48) (c.arg 64 32)) (hmagic : badMagic b 0x4B494C4E = false)
  (hcount : fld (leNat (b.take 64)) 416 32 ≤ 16777216)
  (hfit : entriesFit b [(fld (leNat (b.take 64)) 320 64, fld (leNat (b.take 64)) 416 32)] = true)
include hctx hnow hrange hb hmagic hcount hfit

theorem exec_updateLoad_code (hcode : s.updCode (s.cmdCtx r) p (mapEntriesOf b) ≠ 0) :
    exec (.updateLoad r) s = .next (s.finish r (s.updCode (s.cmdCtx r) p (mapEntriesOf b)) 0) := by
  subst hb
  show execUpdateLoad r s = _
  rw [execUpdateLoad, runCmd_started _ h]
  simp only [hctx, hnow, hrange, hmagic, hcount.not_gt, hfit, Option.bind_some, Bool.not_true, Bool.false_eq_true, if_false]
  exact congrArg Host.Outcome.next (if_pos hcode)

variable (hcode : s.updCode (s.cmdCtx r) p (mapEntriesOf b) = 0)
include hcode

theorem exec_updateLoad_stale (hstale : (s.mapObjects (s.cmdCtx r) (mapEntriesOf b)).any s.objStale = true) :
    exec (.updateLoad r) s = .next (s.finish r 2 0) := by
  subst hb
  show execUpdateLoad r s = _
  rw [execUpdateLoad, runCmd_started _ h]
  simp only [hctx, hnow, hrange, hmagic, hcount.not_gt, hfit, Option.bind_some, Bool.not_true, Bool.false_eq_true, if_false]
  exact (congrArg Host.Outcome.next (if_neg (not_not.mpr hcode))).trans (congrArg Host.Outcome.next (if_pos hstale))

/-- An update map becomes its context's where no other is there. -/
theorem exec_updateLoad_passes (hheld : (s.mapObjects (s.cmdCtx r) (mapEntriesOf b)).any s.objStale = false) (hupd : x.upd = none)
    (hret : x.nextRet = none) (hnext : x.nextUpd = none) :
    exec (.updateLoad r) s = .next ((((s.mapObjects (s.cmdCtx r) (mapEntriesOf b)).foldl State.takeObj s).putCtx (s.cmdCtx r)
      { x with upd := some { entries := mapEntriesOf b, objs := s.mapObjects (s.cmdCtx r) (mapEntriesOf b), waits := true,
                             skip := s.steps.opened } }).finish r 0 0) := by
  subst hb
  show execUpdateLoad r s = _
  rw [execUpdateLoad, runCmd_started _ h]
  unfold mapEntriesOf at *
  simp only [hctx, hnow, hrange, hmagic, hcount.not_gt, hfit, hcode, hheld, hnext, Option.bind_some, Option.elim_none, List.foldl_nil,
    Bool.not_true, Bool.false_eq_true, if_false, ne_eq, not_true_eq_false]
  rw [State.onCtx_some (by simpa using hctx), Ctx.replaceUpd, if_neg (by simp [hupd, hret]), State.steps_takeObjs]
  simp only [hnext]

end UpdateLoad

/-- Settles O32: each command is one branch of its table's checks; an unload at rest keeps every other context's fate. -/
theorem programsAreLoadedAndUnloaded : Obligations.ProgramsAreLoadedAndUnloaded := by
  refine ⟨?load, ?magic, ?range, ?unloadNone, ?unload, ?returnNone, ?returnLoad, ?updateNone, ?update⟩
  case load =>
    rintro r c k b p s h rfl hrange hb hmagic hfit rfl
    refine ⟨?code, ?stale, ?empty, ?replaces⟩
    case code => exact fun hcode => exists_finish h.1 (exec_conveyorLoad_code h hrange hb hmagic hfit hcode)
    case stale => exact fun hcode hstale => exists_finish h.1 (exec_conveyorLoad_stale h hrange hb hmagic hfit hcode hstale)
    case empty =>
      intro x hcode hheld hctx hconv hnext hnextUpd hret hupd hcmds hdone
      have hrun := exec_conveyorLoad_passes h hrange hb hmagic hfit hcode hheld hctx hnext hnextUpd
      have hdying : s.undying → x.destroyCookie = none := fun hs => hs _ _ hctx
      rw [show ({ x with nextRet := none } : Ctx).replaceConv (s.loadedConv (s.cmdCtx r) c (parseConv b)) =
        { x with nextRet := none, conv := some (s.loadedConv (s.cmdCtx r) c (parseConv b)) } by simp [Ctx.replaceConv, hconv]] at hrun
      obtain ⟨hthen, hcmd, hmem, hline⟩ := State.unloadSoon_entered (s := s) (s.cmdCtx r)
        (s.convObjects (s.cmdCtx r) (parseConv b)) { x with nextRet := none }
        (d := { x with nextRet := none, conv := some (s.loadedConv (s.cmdCtx r) c (parseConv b)) }) rfl hret hupd hcmds
        (hdone.imp_right fun hall => have hs := State.undying_of_forall hall; ⟨hs, hdying hs, hdying hs⟩)
      exact ⟨_, hrun, Safety.done_finish (by rw [hcmd]; exact h.1) 0 0, by simpa using hmem, by simpa using hline,
        by simp only [State.convOf, State.ctx?_finish, hthen]; rfl⟩
    case replaces =>
      intro x q hcode hheld hctx hconv hnext hnextUpd hmoving
      have hrun := exec_conveyorLoad_passes h hrange hb hmagic hfit hcode hheld hctx hnext hnextUpd
      rw [State.unloadSoon_moving _ (by simpa using hmoving)] at hrun
      exact ⟨_, _, hrun, Safety.done_finish (by simpa using h.1) 0 0, by simp; rfl, by simp [Ctx.replaceConv, hconv],
        by simp [Ctx.replaceConv, hconv]; rfl⟩
  case magic => exact fun r c s h hrange hmagic => exists_finish h.1 (exec_conveyorLoad_magic h hrange hmagic)
  case range => exact fun r c s h hrange => exists_finish h.1 (exec_conveyorLoad_range h hrange)
  case unloadNone => exact fun r c s h hnone => exists_finish h.1 (exec_conveyorUnload_none h hnone)
  case unload =>
    intro r c x p s h hctx hconv hnext hupd
    have hrun := exec_conveyorUnload h hctx hconv hnext hupd
    constructor
    · intro hmoving
      have hm : (s.unloading r x).moving = true := (congrArg State.moving (s.unloading_frame r x)).trans hmoving
      rw [State.unloadSoon_moving _ hm] at hrun
      exact ⟨_, _, hrun, s.ctx?_unloading r x, by simp [Ctx.unloadAll, hconv], rfl, State.cmd?_unloading h.1 x, s.unloading_frame r x⟩
    · intro hmoving hcmds hall
      exact ⟨_, hrun, State.unloadSoon_standing h.1 hctx hconv hnext hcmds hmoving (State.undying_of_forall hall)⟩
  case returnNone => exact fun r c s h hnone => exists_finish h.1 (exec_returnLoad_none h hnone)
  case returnLoad =>
    rintro r c k b p q x s h rfl hctx hnow hrange hb hmagic hfit rfl
    constructor
    · exact fun hcode => exists_finish h.1 (exec_returnLoad_code h hctx hnow hrange hb hmagic hfit hcode)
    · intro hcode hret hnext hupd hmoving
      refine ⟨_, exec_returnLoad_passes h hctx hnow hrange hb hmagic hfit hcode hret hnext hupd hmoving,
        Safety.done_finish (by simpa using h.1) 0 0, by simp [State.retOf], ?_⟩
      rw [State.finish_queues]
      rfl
  case updateNone => exact fun r c s h hnone => exists_finish h.1 (exec_updateLoad_none h hnone)
  case update =>
    rintro r c k b p x l s h rfl hctx hnow hrange hb hmagic hcount hfit rfl
    refine ⟨?code, ?stale, ?passes⟩
    case code => exact fun hcode => exists_finish h.1 (exec_updateLoad_code h hctx hnow hrange hb hmagic hcount hfit hcode)
    case stale =>
      exact fun hcode hstale => exists_finish h.1 (exec_updateLoad_stale h hctx hnow hrange hb hmagic hcount hfit hcode hstale)
    case passes =>
      intro hcode hheld hupd hret hnext
      exact ⟨_, _, _, exec_updateLoad_passes h hctx hnow hrange hb hmagic hcount hfit hcode hheld hupd hret hnext,
        Safety.done_finish (by simpa using h.1) 0 0, (State.ctx?_finish _ _ _ _ _).trans (State.ctx?_putCtx_self _ _ _), rfl, rfl, rfl, rfl,
        by simp⟩

end Sys2Proof.Machine

/-! PROOFS. What decisions of steps, the unload of programs and broken steps leave of the span's conveyor. -/

namespace Sys2Proof.Machine

/-! ### Operations that keep the span's conveyor and its slots -/

/-- `t` has the conveyor of `s` but for stations and injectors, its wort slots and its verdict slot. -/
@[simp] abbrev State.spanKept (t s : State) : Prop :=
  t.conv.line = s.conv.line ∧ t.wort.slots = s.wort.slots ∧ t.verdict = s.verdict

@[simp] theorem foldl_wortSlots {α : Type} (f : State → α → State) (l : List α) (s : State)
    (h : ∀ t x, (f t x).wort.slots = t.wort.slots) : (l.foldl f s).wort.slots = s.wort.slots :=
  List.foldlRecOn (motive := fun t => t.wort.slots = s.wort.slots) l f rfl (fun t ht x _ => (h t x).trans ht)

@[simp] theorem ite_wort_slots (c : Prop) [Decidable c] (a b : Wort) : (if c then a else b).slots = if c then a.slots else b.slots :=
  apply_ite Wort.slots c a b

@[simp] theorem Conv.line_setInj (c : Conv) (x : Bank Injector) : ({ c with inj := x } : Conv).line = c.line := rfl

/-! #### Programs that are unloaded or dropped -/

@[simp] theorem State.unloadUpd_lines (s : State) (k : Nat) : (s.unloadUpd k).linesKept s := by
  simp [State.unloadUpd]

@[simp] theorem State.unloadRet_span (s : State) (k : Nat) : (s.unloadRet k).spanKept s := by
  simp [State.unloadRet]

@[simp] theorem State.unloadConv_span (s : State) (k : Nat) : (s.unloadConv k).spanKept s := by
  simp [State.unloadConv]

@[simp] theorem State.unloadNow_span (s : State) (k : Nat) : (s.unloadNow k).spanKept s := by
  unfold State.unloadNow
  split
  · simp
  · simp

@[simp] theorem State.unloadAll_span (s : State) : s.unloadAll.spanKept s := by
  simp [State.unloadAll]

@[simp] theorem State.dropWaiting_lines (s : State) (k : Nat) : (s.dropWaiting k).linesKept s := by
  unfold State.dropWaiting
  split <;> simp

@[simp] theorem State.dropWaitingRet_lines (s : State) (k : Nat) : (s.dropWaitingRet k).linesKept s := by
  unfold State.dropWaitingRet
  split <;> simp

@[simp] theorem State.dropMismatched_span (s : State) (k : Nat) : (s.dropMismatched k).spanKept s := by
  unfold State.dropMismatched
  split
  · simp
  · simp

/-! #### Steps that commit or are discarded -/

@[simp] theorem State.commitStep_lines (s : State) (x : LiveStep) (decideRev : Nat) : (s.commitStep x decideRev).linesKept s := by
  simp [State.commitStep]

@[simp] theorem State.dropGradients_span (s : State) (gone : BitVec 32 → Bool) : (s.dropGradients gone).spanKept s := ⟨rfl, rfl, rfl⟩

@[simp] theorem State.carryClaim_path (st : Nat) (new : BitVec 16) (s : State) (c : Claim) :
    (State.carryClaim st new s c).pathKept s := by
  simp [State.carryClaim]

@[simp] theorem State.carryAt_path (old new : BitVec 16) (s : State) (st : Nat) : (State.carryAt old new s st).pathKept s := by
  simp [State.carryAt]

@[simp] theorem State.carryInjector_span (old new : BitVec 16) (s : State) (j : Nat) : (State.carryInjector old new s j).spanKept s :=
  ⟨rfl, rfl, rfl⟩

@[simp] theorem State.carryGen_span (st : BitVec 32) (old new : BitVec 16) (s : State) : (State.carryGen st old new s).spanKept s := by
  simp [State.carryGen]

@[simp] theorem State.discardStep_span (s : State) (x : LiveStep) (origin cause decideRev : Nat) :
    (s.discardStep x origin cause decideRev).spanKept s := by
  simp [State.discardStep]

@[simp] theorem State.failBroken_span (s : State) (x : LiveStep) : (s.failBroken x).spanKept s := by
  simp [State.failBroken]

end Sys2Proof.Machine

/-! PROOFS. O29: how a span is configured, formed and broken, what enters at a neighbour, and the shared grant. -/

namespace Sys2Proof.Machine

/-! ### The clock and the delay lines -/

theorem State.setDelays_frame (s : State) : s.setDelays =
    { s with conv := { s.conv with upDelay := s.setDelays.conv.upDelay, downDelay := s.setDelays.conv.downDelay } } := by
  unfold State.setDelays
  split <;> rfl

theorem State.setClock_frame (s : State) : s.setClock =
    { s with conv := { s.conv with m := s.convClock, upDelay := s.setClock.conv.upDelay, downDelay := s.setClock.conv.downDelay } } :=
  (State.setDelays_frame { s with conv.m := s.convClock }).trans rfl

/-! ### Writes of 30.001 (R88) -/

/-- The state of a member whose span is to be formed anew, before its clock is set. -/
def State.spanWritten (s : State) (value : Nat) : State :=
  let s := s.setObj 0x30001 0 value
  let clear : Bank Injector := s.conv.inj.map (fun x => (x.1, { x.2 with filled := [], again := [], noticed := false }))
  let s := if (spanCfgOf value).n = s.conv.span.n then s else { s with conv.alloc := [], wort.alloc := [] }
  let s := { s with conv.span := spanCfgOf value, conv.heldPace := s.pace, conv.locked := false, conv.goodMarkers := 0, conv.lastMarker := none,
                    conv.upNbr := {}, conv.downNbr := {}, conv.k2 := false, conv.k2Next := false, conv.quiet := 0 }
  { s with conv.slots := [], conv.inj := clear, conv.namedStep := none, steps.next := none, conv.entering := none,
           conv.marker.k2Next := false }

theorem State.writeSpan_eq (s : State) (value : Nat) : s.writeSpan value =
    (((s.spanWritten (value % 2 ^ 56)).host.ctxs.map (·.1)).foldl State.dropMismatched (s.spanWritten (value % 2 ^ 56)).setClock).settleAll :=
  rfl

theorem State.writeSpan_line (s : State) (value : Nat) :
    (s.writeSpan value).conv.line = (s.spanWritten (value % 2 ^ 56)).setClock.conv.line := by
  rw [State.writeSpan_eq]
  simp

theorem fld_mod (x : Nat) {lo w n : Nat} (h : lo + w ≤ n) : fld (x % 2 ^ n) lo w = fld x lo w := by
  apply Nat.eq_of_testBit_eq
  intro i
  simp only [fld, Nat.testBit_mod_two_pow, Nat.testBit_shiftRight]
  by_cases hi : i < w
  · simp [hi, show lo + i < n by omega]
  · simp [hi]

theorem spanCfgOf_mod (value : Nat) : spanCfgOf (value % 2 ^ 56) = spanCfgOf value := by
  simp only [spanCfgOf, fld_mod value (lo := 0) (w := 32) (n := 56) (by decide), fld_mod value (lo := 32) (w := 8) (n := 56) (by decide),
    fld_mod value (lo := 40) (w := 8) (n := 56) (by decide), fld_mod value (lo := 48) (w := 8) (n := 56) (by decide)]

/-- The clock and the delay lines do not touch the configuration of a span. -/
theorem State.setClock_span (t : State) : let c := t.setClock.conv
    c.span = t.conv.span ∧ c.locked = t.conv.locked ∧ c.slots = t.conv.slots ∧ c.upNbr = t.conv.upNbr ∧ c.downNbr = t.conv.downNbr ∧
      c.k2 = t.conv.k2 :=
  have hconv := congrArg State.conv t.setClock_frame
  ⟨(congrArg Conv.span hconv :), (congrArg Conv.locked hconv :), (congrArg Conv.slots hconv :), (congrArg Conv.upNbr hconv :),
    (congrArg Conv.downNbr hconv :), (congrArg Conv.k2 hconv :)⟩

theorem Conv.span_of_line {c d : Conv} (h : c.line = d.line) :
    c.span = d.span ∧ c.locked = d.locked ∧ c.slots = d.slots ∧ c.upNbr = d.upNbr ∧ c.downNbr = d.downNbr ∧ c.k2 = d.k2 :=
  ⟨(congrArg Conv.span h :), (congrArg Conv.locked h :), (congrArg Conv.slots h :), (congrArg Conv.upNbr h :),
    (congrArg Conv.downNbr h :), (congrArg Conv.k2 h :)⟩

theorem State.spanWritten_conv (s : State) (v : Nat) : let c := (s.spanWritten v).conv
    c.span = spanCfgOf v ∧ c.locked = false ∧ c.slots = [] ∧ c.upNbr = {} ∧ c.downNbr = {} ∧ c.k2 = false :=
  ⟨rfl, rfl, rfl, rfl, rfl, rfl⟩

theorem State.writeSpan_conv (s : State) (value : Nat) : let c := (s.writeSpan value).conv
    c.span = spanCfgOf value ∧ c.locked = false ∧ c.slots = [] ∧ c.upNbr = {} ∧ c.downNbr = {} ∧ c.k2 = false := by
  obtain ⟨espan, elocked, eslots, eup, edown, ek2⟩ := Conv.span_of_line (s.writeSpan_line value)
  obtain ⟨hspan, hlocked, hslots, hup, hdown, hk2⟩ := (s.spanWritten (value % 2 ^ 56)).setClock_span
  obtain ⟨gspan, glocked, gslots, gup, gdown, gk2⟩ := s.spanWritten_conv (value % 2 ^ 56)
  rw [spanCfgOf_mod] at gspan
  exact ⟨espan.trans (hspan.trans gspan), elocked.trans (hlocked.trans glocked), eslots.trans (hslots.trans gslots),
    eup.trans (hup.trans gup), edown.trans (hdown.trans gdown), ek2.trans (hk2.trans gk2)⟩

theorem State.obj_writeSpan {s : State} (value : Nat) (h : s.host.ctxs = []) : (s.writeSpan value).obj 0x30001 0 = value % 2 ^ 56 := by
  have hctxs : (s.spanWritten (value % 2 ^ 56)).host.ctxs = [] := by
    dsimp only [State.spanWritten]
    split <;> exact h
  have hobj : (s.spanWritten (value % 2 ^ 56)).obj 0x30001 0 = value % 2 ^ 56 := by
    dsimp only [State.spanWritten]
    split <;> exact s.obj_setObj_self _ _ _
  have hclock := congrArg (fun t : State => (t.host.ctxs, t.obj 0x30001 0)) (State.setClock_frame (s.spanWritten (value % 2 ^ 56)))
  have hnone : (s.spanWritten (value % 2 ^ 56)).setClock.host.ctxs = [] := (congrArg Prod.fst hclock).trans hctxs
  rw [State.writeSpan_eq, hctxs, List.map_nil, List.foldl_nil, State.settleAll, hnone]
  exact (congrArg Prod.snd hclock).trans hobj

/-! ### A span that breaks (R95, R97) -/

/-- R95: what is left of a member's conveyor when its span breaks. -/
theorem State.breakSpan_line (s : State) (cause : Nat) : (s.breakSpan cause).conv.line =
    { s.conv.line with state := .broken, slots := [], halt := none, entering := none, haltRequested := false, haltOwn := false } := by
  have hcancelled := (s.cancelLatches_path (fun _ _ => true) true).2.1
  refine Eq.trans ?_ (congrArg (fun c : Conv => { c with state := .broken, slots := [], halt := none, entering := none,
                                                         haltRequested := false, haltOwn := false }) hcancelled)
  simp only [State.breakSpan, State.caskPost_lines, foldl_line, State.failBroken_span, State.onKilns_lines, implies_true]
  rfl

theorem State.breakSpan_wort (s : State) (cause : Nat) : (s.breakSpan cause).wort.slots = [] := by
  simp [State.breakSpan]

theorem State.breakSpan_verdict (s : State) (cause : Nat) : (s.breakSpan cause).verdict.slot1 = {} := by
  simp [State.breakSpan]

theorem State.breakSpan_conv (s : State) (cause : Nat) : let c := (s.breakSpan cause).conv
    c.state = .broken ∧ c.slots = [] ∧ c.halt = none :=
  have hline := s.breakSpan_line cause
  ⟨(congrArg Conv.state hline :), (congrArg Conv.slots hline :), (congrArg Conv.halt hline :)⟩

/-! ### Forming (R88 to R90, R93) -/

theorem State.obj_noticeTo (s : State) (dst : BitVec 16) (code object : Nat) {o : Nat} (i : Nat) (ho : 0x00105 ≤ o) :
    (s.noticeTo dst code object).obj o i = s.obj o i := by
  unfold State.noticeTo
  split
  · exact State.obj_bump_ne _ _ _ _ _ (by unfold okey; omega)
  · exact State.obj_bump_ne _ _ _ _ _ (by unfold okey; omega)

theorem State.obj_caskEnter (s : State) (t src : Nat) (payload : Bytes) (flags n : Nat) {o : Nat} (i : Nat) (ho : 0x00105 ≤ o) :
    (s.caskEnter t src payload flags n).obj o i = s.obj o i := by
  unfold State.caskEnter
  split
  · rfl
  · split
    · exact State.obj_noticeTo _ _ _ _ i ho
    · rfl

theorem State.obj_caskPost (s : State) (t src : Nat) (payload : Bytes) (flags : Nat) {o : Nat} (i : Nat) (ho : 0x00105 ≤ o) :
    (s.caskPost t src payload flags).obj o i = s.obj o i := by
  have henter := s.obj_caskEnter t src payload flags 0 i ho
  unfold State.caskPost
  split
  · split
    · split
      · rfl
      · split
        · exact henter
        · rfl
    · exact henter
  · exact henter

@[simp] theorem State.caskPost_steps (s : State) (t src : Nat) (payload : Bytes) (flags : Nat) :
    (s.caskPost t src payload flags).steps = s.steps :=
  (congrArg State.steps (s.caskOnly_caskPost t src payload flags) :)

/-- The member with the record `x` of its neighbour in the direction `down`. -/
def State.setNeighbour (down : Bool) (x : Neighbour) (t : State) : State :=
  if down then { t with conv.downNbr := x } else { t with conv.upNbr := x }

section Exchange

variable {s : State} {down : Bool} {spanId : BitVec 32} {index : BitVec 6} {last : BitVec 32} {latency : Nat}
  (hforming : s.conv.state = .forming) (hlanes : (s.pins.cables.get {} (if down then 1 else 0)).lanesUp = true)
  (hlive : 32 ≤ s.liveLanes (if down then 1 else 0))
include hforming hlanes hlive

theorem exec_spanNeighbourExchange : exec (.spanNeighbourExchange down spanId index last latency) s =
    if spanId = s.conv.span.spanId ∧ index.toNat =
        (if down then (s.conv.span.index + 1) % s.conv.span.n else (s.conv.span.index + s.conv.span.n - 1) % s.conv.span.n) then
      .next (State.setNeighbour down { trained := true, lastCommitted := last, latency10ps := latency } s).setDelays
    else .next ((State.setNeighbour down {} (s.setObj 0x30002 0 ((s.obj 0x30002 0 + 1) % 2 ^ 32))).caskPost 0x0303
      (source 7 (if down then 256 else 0)) (leBytes 128 (packFields [(32, s.conv.span.spanId.toNat), (8, s.conv.span.index),
        (32, spanId.toNat), (8, index.toNat)]))) := by
  show execSpanNeighbourExchange down spanId index last latency s = _
  rw [execSpanNeighbourExchange, if_neg (not_not.mpr hforming), hlanes, if_neg (by simpa using hlive)]
  rfl

end Exchange

/-- R90: the fourth good marker in a row gives a member with trained neighbours Pace lock. -/
theorem State.countMarker_fourth {s : State} {m : Marker} (hspan : m.spanId = s.conv.span.spanId)
    (hlast : s.conv.lastMarker = some (m.rev.toNat - 1)) (hgood : s.conv.goodMarkers = 3) (hup : s.conv.upNbr.trained = true)
    (hdown : s.conv.downNbr.trained = true) : s.countMarker m =
      ({ s with conv.goodMarkers := 0, conv.lastMarker := some m.rev.toNat } : State).paceLock m := by
  simp [State.countMarker, hspan, hlast, hgood, hup, hdown]

/-- R93: a member without a broken step takes its place behind the master. -/
theorem State.paceLock_conv {s : State} (m : Marker) (hbroken : s.steps.brokenStep = none) (hcontrols : s.conv.controls = false) :
    let c := (s.paceLock m).conv
    c.state = .running ∧ c.locked = true ∧ c.rev = m.rev.toNat ∧ c.acc = 1200 * s.conv.behind * 20800 ∧ c.k2 = m.k2 ∧
      (s.paceLock m).steps.next = none := by
  simp only [State.paceLock, State.rollForward, hbroken, State.caskPost_lines, State.caskPost_steps, Conv.joinPace, hcontrols,
    Bool.false_eq_true, if_false]
  rw [State.setClock_frame]
  exact ⟨rfl, rfl, rfl, rfl, rfl, trivial⟩

/-! ### What enters at a neighbour (R93, R94) -/

theorem State.enterTile_same {s : State} {n : Nat} {y : Slot} (h : (s.gristSlot n).kind = 0 ∨
    ((s.gristSlot n).kind = y.kind ∧ (s.gristSlot n).tileId = y.tileId ∧ (s.gristSlot n).gen = y.gen)) :
    s.enterTile n y = s.putGrist n y := by
  refine if_pos ?_
  obtain hkind | ⟨hkind, htile, hgen⟩ := h
  · simp [hkind]
  · simp [hkind, htile, hgen]

/-- R94: a sound tile in the place of another one retires that one. -/
theorem State.enterTile_other {s : State} {n : Nat} {y : Slot} (hkind : (s.gristSlot n).kind ≠ 0)
    (htile : (s.gristSlot n).tileId ≠ y.tileId) (hgood : y.bad = false) :
    s.enterTile n y = (s.putGrist n y).retireLatches 0 n s.conv.rev (s.gristSlot n) :=
  if_neg (by simp [show (s.gristSlot n).kind ≠ 0#8 from hkind, htile, hgood])

theorem exec_spanIngress_tile {s : State} {slot : Fin 76800} {y : Slot} {crc : BitVec 32} (hn : s.conv.span.n ≠ 1)
    (hmoving : s.moving = true) (hslot : slot.val < s.conv.span.slots) (htwo : 2 ≤ slot.val) (hdead : s.connectorDead 0 = false) :
    exec (.spanIngress slot (.tile y crc)) s = .next (s.enterTile slot.val (slotWithCrc y crc)) := by
  show execSpanIngress slot (.tile y crc) s = _
  simp [execSpanIngress, hn, hmoving, hslot.not_ge, htwo, Ingress1.dir, hdead]

/-- Settles O29: every event of a span is one branch of its rule, and a span that breaks leaves its conveyor empty. -/
theorem spansFormAndBreak : Obligations.SpansFormAndBreak := by
  refine ⟨?taken, ?refused, ?exchange, ?lock, ?tiles, ?heads, ?breaks, ?linkLoss, ?grant⟩
  case taken =>
    intro value s h
    obtain ⟨hspan, hlocked, hslots, hup, hdown, hk2⟩ := s.writeSpan_conv value.toNat
    exact ⟨_, if_pos h, hspan, fun hctxs => State.obj_writeSpan _ hctxs, hlocked, hslots, hup, hdown, hk2⟩
  case refused =>
    intro value s h
    show execSpanConfigWrite value s = _
    simp [execSpanConfigWrite, h]
  case exchange =>
    intro down spanId index last latency s hforming hlanes hlive want
    have hrun := exec_spanNeighbourExchange (spanId := spanId) (index := index) (last := last) (latency := latency) hforming hlanes hlive
    by_cases hwant : spanId = s.conv.span.spanId ∧ index.toNat = want
    · refine ⟨_, hrun.trans (if_pos hwant), fun _ _ => ?_, fun hother => absurd hwant (by tauto)⟩
      rw [State.setDelays_frame]
      cases down <;> exact ⟨rfl, rfl, rfl⟩
    · refine ⟨_, hrun.trans (if_neg hwant), fun hid hindex => absurd ⟨hid, hindex⟩ hwant, fun _ => ?_⟩
      rw [State.obj_caskPost _ _ _ _ _ _ (by decide), (State.caskPost_lines _ _ _ _ _).1]
      cases down <;> exact ⟨hforming, rfl, s.obj_setObj_self _ _ _⟩
  case lock =>
    intro m s hforming hcontrols hentering hspan hlast hgood hup hdown hbroken
    have hrun : exec (.memberMarkerPass false) s = .next ((({ s with conv.entering := none } : State).countMarker m).passMarker m) := by
      show execMemberMarkerPass false s = _
      simp [execMemberMarkerPass, hforming, hcontrols, hentering]
    rw [State.countMarker_fourth (s := { s with conv.entering := none }) hspan hlast hgood hup hdown] at hrun
    exact ⟨_, hrun, State.paceLock_conv m hbroken hcontrols⟩
  case tiles =>
    intro slot y crc s hn hmoving hslot htwo hdead0 hdead1 x
    have htile := exec_spanIngress_tile (y := y) (crc := crc) hn hmoving hslot htwo hdead0
    refine ⟨rfl, fun hsame => ?_, fun hkind hother hgood => ?_, ?_⟩
    · rw [htile, State.enterTile_same (y := slotWithCrc y crc) hsame]
    · rw [htile, State.enterTile_other (y := slotWithCrc y crc) hkind hother hgood]
    · show execSpanIngress slot (.wort y crc) s = _
      simp [execSpanIngress, hn, hmoving, hslot.not_ge, htwo, Ingress1.dir, hdead1]
  case heads =>
    intro m w v bad s hn hmoving hslots hdead0 hdead1
    refine ⟨?marker, fun hcontrols => ?wortMarker, ?verdict⟩
    case marker =>
      show execSpanIngress 0 (.marker m bad) s = _
      simp [execSpanIngress, hn, hmoving, show s.conv.span.slots ≠ 0 by omega, Ingress1.dir, hdead0]
    case wortMarker =>
      show execSpanIngress 0 (.wortMarker w bad) s = _
      simp [execSpanIngress, hn, hmoving, show s.conv.span.slots ≠ 0 by omega, Ingress1.dir, hdead1, hcontrols]
    case verdict =>
      show execSpanIngress 1 (.verdict v bad) s = _
      simp [execSpanIngress, hn, hmoving, show ¬s.conv.span.slots ≤ 1 by omega, Ingress1.dir, hdead0]
  case breaks =>
    intro s hn hmoving
    obtain ⟨hstate, hslots, hhalt⟩ := s.breakSpan_conv 0
    obtain ⟨hstate1, hslots1, hhalt1⟩ := s.breakSpan_conv 1
    exact ⟨⟨_, if_pos ⟨hn, hmoving⟩, hstate, hslots, hhalt, s.breakSpan_wort 0, s.breakSpan_verdict 0⟩,
      fun hcontrols => ⟨_, if_pos ⟨hn, hmoving, hcontrols⟩, hstate1, hslots1, hhalt1, s.breakSpan_wort 1⟩⟩
  case linkLoss =>
    intro down s hn hhalted
    obtain ⟨hstate, hslots, hhalt⟩ := s.breakSpan_conv 0
    refine ⟨_, if_pos ⟨hn, hhalted⟩, ?_⟩
    cases down
    · exact ⟨hstate, hslots, rfl⟩
    · exact ⟨hstate, hslots, rfl⟩
  case grant =>
    intro v value s
    refine ⟨_, rfl, ?_, ?_, ?_⟩
    · unfold State.writeGrant
      dsimp only
      split <;> exact s.obj_setObj_self _ _ _
    · intro hgranted hvalue
      rw [State.writeGrant, if_pos ⟨hgranted, fun h => hvalue (BitVec.eq_of_toNat_eq h)⟩]
      exact mem_insertNat _ _
    · rintro rfl
      simp [State.writeGrant]

end Sys2Proof.Machine

/-! PROOFS. O28: the revolution boundary, the markers, the halts and the conveyor clock. -/

namespace Sys2Proof.Machine

/-! ### What the actions of a boundary leave of the conveyor's timing -/

/-- The conveyor's count, clock ratio, span and halt, without its marker, its neighbours and the steps that it names. -/
def Conv.timing (c : Conv) : Conv :=
  { c.line with m := 0, upDelay := 0, downDelay := 0, upNbr := {}, downNbr := {}, withdrawn := [], namedStep := none,
                stepReady := false, allReady := false, marker := {}, markerBad := false }

theorem Conv.timing_of_line {c d : Conv} (h : c.line = d.line) : c.timing = d.timing :=
  congrArg (fun l : Conv => { l with m := 0, upDelay := 0, downDelay := 0, upNbr := {}, downNbr := {}, withdrawn := [], namedStep := none,
                                     stepReady := false, allReady := false, marker := {}, markerBad := false }) h

section Timing

variable (c : Conv)

@[simp] theorem Conv.timing_upNbr (x : Neighbour) : ({ c with upNbr := x } : Conv).timing = c.timing := rfl
@[simp] theorem Conv.timing_downNbr (x : Neighbour) : ({ c with downNbr := x } : Conv).timing = c.timing := rfl
@[simp] theorem Conv.timing_withdrawn (x : List Nat) : ({ c with withdrawn := x } : Conv).timing = c.timing := rfl
@[simp] theorem Conv.timing_namedStep (x : Option (BitVec 32 × Nat)) : ({ c with namedStep := x } : Conv).timing = c.timing := rfl

@[simp] theorem Conv.timing_named (x : Option (BitVec 32 × Nat)) (y : Bool) :
    ({ c with namedStep := x, allReady := y } : Conv).timing = c.timing := rfl

@[simp] theorem Conv.timing_started (x : Option (BitVec 32 × Nat)) (y z : Bool) :
    ({ c with namedStep := x, stepReady := y, allReady := z } : Conv).timing = c.timing := rfl

@[simp] theorem ite_conv_timing (p : Prop) [Decidable p] (d : Conv) :
    (if p then c else d).timing = if p then c.timing else d.timing :=
  apply_ite Conv.timing p c d

end Timing

theorem foldl_timing {α : Type} (f : State → α → State) (l : List α) (s : State) (h : ∀ t x, (f t x).conv.timing = t.conv.timing) :
    (l.foldl f s).conv.timing = s.conv.timing :=
  List.foldlRecOn (motive := fun t => t.conv.timing = s.conv.timing) l f rfl (fun t ht x _ => (h t x).trans ht)

theorem State.setClock_timing (s : State) : s.setClock.conv.timing = s.conv.timing :=
  (congrArg (fun t : State => t.conv.timing) s.setClock_frame :)

theorem State.decideVerdict_line (s : State) (r : Nat) : (s.decideVerdict r).conv.line = s.conv.line := by
  unfold State.decideVerdict
  split <;> simp

theorem State.cancelShared_timing (s : State) : s.cancelShared.conv.timing = s.conv.timing := by
  unfold State.cancelShared
  split
  · rfl
  · refine Eq.trans (b := (s.cancelLatches _ true).conv.timing) rfl ?_
    exact Conv.timing_of_line (State.cancelLatches_path s _ true).2.1

theorem State.unloadAll_timing (s : State) : s.unloadAll.conv.timing = s.conv.timing :=
  Conv.timing_of_line s.unloadAll_span.1

theorem State.spareGroup_timing (dir : Nat) (s : State) (g : Nat) : (State.spareGroup dir s g).conv.timing = s.conv.timing := by
  simp [State.spareGroup]

theorem State.spareNamed_timing (s : State) : s.spareNamed.conv.timing = s.conv.timing :=
  foldl_timing _ _ s fun _ x => foldl_timing _ _ _ fun t g => State.spareGroup_timing x.1 t g

theorem State.nameStep_timing (s : State) (r : Nat) : (s.nameStep r).conv.timing = s.conv.timing := by
  dsimp only [State.nameStep]
  split
  · rfl
  · simp

@[simp] theorem State.turnMap_lines (st : BitVec 32) (s : State) (k : Nat) : (State.turnMap st s k).linesKept s := by
  unfold State.turnMap
  split <;> simp

theorem State.startStep_timing (s : State) (st : BitVec 32) (r : Nat) : (s.startStep st r).conv.timing = s.conv.timing := by
  dsimp only [State.startStep]
  split <;> simp

theorem State.startNamed_timing (s : State) (r : Nat) : (s.startNamed r).conv.timing = s.conv.timing := by
  unfold State.startNamed
  split
  · split
    · exact s.startStep_timing _ r
    · rfl
  · rfl

theorem State.openVerdict_conv (s : State) (r : Nat) : (s.openVerdict r).conv = s.conv := by
  unfold State.openVerdict
  split
  · rfl
  · split <;> rfl

/-- The state at a boundary once the verdict, the grants, the unloads, the spares and the steps have had their turn. -/
def State.atBoundary (s : State) (r : Nat) : State :=
  (((((s.decideVerdict r).cancelShared).unloadAll.spareNamed.nameStep r).startNamed r).openVerdict r)

theorem State.atBoundary_timing (s : State) (r : Nat) : (s.atBoundary r).conv.timing = s.conv.timing := by
  rw [State.atBoundary, State.openVerdict_conv, State.startNamed_timing, State.nameStep_timing, State.spareNamed_timing,
    State.unloadAll_timing, State.cancelShared_timing, Conv.timing_of_line (s.decideVerdict_line r)]

/-- R91, R92: a halt whose revolution has come stops the conveyor; otherwise one that is asked for is announced. -/
theorem State.boundaryActions_eq (s : State) (r : Nat) : s.boundaryActions r =
    if (s.atBoundary r).conv.halt.any (fun h => decide (h.2 ≤ r)) then ((s.atBoundary r).freshMarkers r).haltNow
    else ((s.atBoundary r).announceHalt r).freshMarkers r := by
  rw [State.atBoundary, State.openVerdict_conv]
  rfl

theorem State.freshMarkers_timing (s : State) (r : Nat) : (s.freshMarkers r).conv.timing = s.conv.timing := by
  unfold State.freshMarkers
  split <;> rfl

theorem Conv.fields_of_timing {c d : Conv} (h : c.timing = d.timing) : c.state = d.state ∧ c.rev = d.rev ∧ c.acc = d.acc ∧
    c.span = d.span ∧ c.k2 = d.k2 ∧ c.k2Next = d.k2Next ∧ c.haltRequested = d.haltRequested ∧ c.halt = d.halt :=
  ⟨(congrArg Conv.state h :), (congrArg Conv.rev h :), (congrArg Conv.acc h :), (congrArg Conv.span h :), (congrArg Conv.k2 h :),
    (congrArg Conv.k2Next h :), (congrArg Conv.haltRequested h :), (congrArg Conv.halt h :)⟩

/-- R51, R84: what the controller's marker says of a new revolution. -/
theorem State.freshMarkers_marker {s : State} (r : Nat) (h : s.conv.controls = true) : let m := (s.freshMarkers r).conv.marker
    m.rev = BitVec.ofNat 48 r ∧ m.spanN = BitVec.ofNat 8 s.conv.span.n ∧ m.k2Next = s.conv.k2Next ∧ m.haltNotice = s.conv.halt.isSome ∧
      m.haltRev = BitVec.ofNat 48 (s.conv.halt.elim 0 (·.2)) := by
  unfold State.freshMarkers
  rw [if_neg (by simp [h])]
  exact ⟨rfl, rfl, rfl, rfl, rfl⟩

theorem State.haltNow_conv (s : State) : s.haltNow.conv =
    { s.conv with state := .halted, haltCmds := [], haltOwn := false, haltRequested := false } := by
  simp [State.haltNow]

/-! ### REVOLUTION_BOUNDARY (R49, R51, R84, R91, R92) -/

/-- The state that a boundary's actions start from: the next revolution, with the announced clock ratio in force. -/
def State.turned (s : State) : State :=
  let go : State := { s with conv.rev := s.conv.rev + 1, conv.acc := 0, conv.k2 := s.conv.marker.k2Next }
  if go.conv.k2 = s.conv.k2 then go else go.setClock

theorem State.turned_timing (s : State) : s.turned.conv.timing =
    ({ s.conv with rev := s.conv.rev + 1, acc := 0, k2 := s.conv.marker.k2Next } : Conv).timing := by
  unfold State.turned
  dsimp only
  split
  · rfl
  · exact State.setClock_timing _

theorem exec_revolutionBoundary {s : State} (hmoving : s.moving = true) (hdead : s.connectorDead 0 = false) :
    exec .revolutionBoundary s = .next (s.turned.boundaryActions (s.conv.rev + 1)) := by
  show execRevolutionBoundary s = _
  simp only [execRevolutionBoundary, hmoving, hdead]
  rfl

theorem State.announceHalt_asked {s : State} (r : Nat) (hcontrols : s.conv.controls = true) (hasked : s.conv.haltRequested = true)
    (hhalt : s.conv.halt = none) :
    s.announceHalt r = { s with conv := { s.conv with halt := some (r, r + 2), state := .noticed, haltRequested := false } } := by
  simp [State.announceHalt, hcontrols, hasked, hhalt]

/-- An announcement leaves the count, the clock ratio and the span. -/
theorem State.announceHalt_fields (s : State) (r : Nat) : let c := (s.announceHalt r).conv
    c.rev = s.conv.rev ∧ c.acc = s.conv.acc ∧ c.k2 = s.conv.k2 ∧ c.span = s.conv.span ∧ c.k2Next = s.conv.k2Next := by
  unfold State.announceHalt
  split <;> exact ⟨rfl, rfl, rfl, rfl, rfl⟩

theorem Conv.controls_of_span {c d : Conv} (h : c.span = d.span) : c.controls = d.controls := by
  simp [Conv.controls, h]

section Boundary

variable {w : State} {d : Conv} (r : Nat) (h : w.conv.timing = d.timing)
include h

/-- R92: a boundary at which the conveyor halts. -/
theorem State.haltNow_boundary : let c := ((w.freshMarkers r).haltNow).conv
    c.rev = d.rev ∧ c.acc = d.acc ∧ c.k2 = d.k2 ∧ c.state = .halted ∧ c.haltCmds = [] ∧ (d.controls = true →
      c.marker.rev = BitVec.ofNat 48 r ∧ c.marker.spanN = BitVec.ofNat 8 d.span.n ∧ c.marker.k2Next = d.k2Next) := by
  obtain ⟨-, hrev, hacc, hspan, hk2, hk2Next, -, -⟩ := Conv.fields_of_timing h
  obtain ⟨-, frev, facc, -, fk2, -, -, -⟩ := Conv.fields_of_timing (w.freshMarkers_timing r)
  rw [State.haltNow_conv]
  refine ⟨frev.trans hrev, facc.trans hacc, fk2.trans hk2, rfl, rfl, fun hcontrols => ?_⟩
  obtain ⟨hmarker, hn, hnext, -, -⟩ := State.freshMarkers_marker r ((Conv.controls_of_span hspan).trans hcontrols)
  exact ⟨hmarker, hn.trans (by rw [hspan]), hnext.trans hk2Next⟩

/-- R84, R91: a boundary at which the conveyor goes on, with or without an announced halt. -/
theorem State.announce_boundary : let c := ((w.announceHalt r).freshMarkers r).conv
    c.rev = d.rev ∧ c.acc = d.acc ∧ c.k2 = d.k2 ∧ (d.controls = true →
      c.marker.rev = BitVec.ofNat 48 r ∧ c.marker.spanN = BitVec.ofNat 8 d.span.n ∧ c.marker.k2Next = d.k2Next) ∧
    (d.controls = true → d.haltRequested = true → d.halt = none → c.state = .noticed ∧ c.halt = some (r, r + 2) ∧
      c.marker.haltNotice = true ∧ c.marker.haltRev = BitVec.ofNat 48 (r + 2)) := by
  obtain ⟨-, hrev, hacc, hspan, hk2, hk2Next, hasked, hhalt⟩ := Conv.fields_of_timing h
  obtain ⟨arev, aacc, ak2, aspan, ak2Next⟩ := w.announceHalt_fields r
  obtain ⟨fstate, frev, facc, -, fk2, -, -, fhalt⟩ := Conv.fields_of_timing ((w.announceHalt r).freshMarkers_timing r)
  have hmarker := fun hcontrols : d.controls = true =>
    State.freshMarkers_marker r ((Conv.controls_of_span (aspan.trans hspan)).trans hcontrols)
  refine ⟨frev.trans (arev.trans hrev), facc.trans (aacc.trans hacc), fk2.trans (ak2.trans hk2), fun hcontrols => ?_,
    fun hcontrols hreq hnone => ?_⟩
  · obtain ⟨hm, hn, hnext, -, -⟩ := hmarker hcontrols
    exact ⟨hm, hn.trans (by rw [aspan, hspan]), hnext.trans (ak2Next.trans hk2Next)⟩
  · obtain ⟨-, -, -, hnotice, hat⟩ := hmarker hcontrols
    have hsaid := congrArg State.conv (State.announceHalt_asked r ((Conv.controls_of_span hspan).trans hcontrols) (hasked.trans hreq)
      (hhalt.trans hnone))
    have hset : (w.announceHalt r).conv.halt = some (r, r + 2) := congrArg Conv.halt hsaid
    exact ⟨fstate.trans (congrArg Conv.state hsaid), fhalt.trans hset, hnotice.trans (by rw [hset]; rfl), hat.trans (by rw [hset]; rfl)⟩

end Boundary

/-! ### Markers at a member (R85, R86, R89) -/

/-- What a good marker makes of a running member's conveyor. -/
def Conv.taken (c : Conv) (m : Marker) : Conv :=
  let fresh := c.marker.step ≠ m.step || c.marker.stepRev ≠ m.stepRev
  let named := if fresh && decide (c.rev ≤ m.stepRev.toNat) then some (m.step, m.stepRev.toNat) else c.namedStep
  let d := { c with rev := m.rev.toNat, mismatch := false, k2Next := m.k2Next, namedStep := named }
  if m.haltNotice && d.halt.isNone then { d with halt := some (m.rev.toNat, m.haltRev.toNat), state := .noticed, haltOwn := false } else d

theorem Conv.taken_count (c : Conv) (m : Marker) : (c.taken m).rev = m.rev.toNat ∧ (c.taken m).k2Next = m.k2Next ∧
    (c.taken m).entering = c.entering := by
  unfold Conv.taken
  dsimp only
  split <;> exact ⟨rfl, rfl, rfl⟩

theorem Conv.taken_named {c : Conv} {m : Marker} (hstep : c.marker.step ≠ m.step) (hrev : c.rev ≤ m.stepRev.toNat) :
    (c.taken m).namedStep = some (m.step, m.stepRev.toNat) := by
  have hnamed : (if (c.marker.step ≠ m.step || c.marker.stepRev ≠ m.stepRev) && decide (c.rev ≤ m.stepRev.toNat) then
      some (m.step, m.stepRev.toNat) else c.namedStep) = some (m.step, m.stepRev.toNat) := by simp [hstep, hrev]
  unfold Conv.taken
  dsimp only
  split <;> exact hnamed

theorem Conv.taken_notice {c : Conv} {m : Marker} (hhalt : c.halt = none) (hnotice : m.haltNotice = true) :
    (c.taken m).halt = some (m.rev.toNat, m.haltRev.toNat) ∧ (c.taken m).state = .noticed := by
  simp [Conv.taken, hhalt, hnotice]

theorem Conv.taken_quiet {c : Conv} {m : Marker} (hnotice : m.haltNotice = false) :
    c.taken m = { c with rev := (c.taken m).rev, mismatch := false, k2Next := (c.taken m).k2Next, namedStep := (c.taken m).namedStep } := by
  unfold Conv.taken
  rw [hnotice]
  rfl

theorem State.takeMarker_agrees {s : State} (m : Marker) (h : s.conv.mismatch = false) : s.takeMarker m = { s with conv := s.conv.taken m } := by
  simp only [State.takeMarker, h, Bool.false_and, Bool.false_eq_true, if_false]
  rfl

/-- A member's place in the marker holds the STATUS byte that it wrote. -/
theorem statusOf_withStatus (m : Marker) {i : Nat} (x : Byte) (h : i < 64) : statusOf (Marker1.withStatus m i x) i = x := by
  have hlen : i < (m.status ++ List.replicate (64 - m.status.length) 0).length := by
    rw [List.length_append, List.length_replicate]
    omega
  exact congrArg (·.getD 0) (List.getElem?_set_self hlen)

theorem State.not_forming {s : State} (h : s.moving = true) : s.conv.state ≠ .forming := by
  intro hforming
  simp [State.moving, hforming] at h

theorem exec_memberMarkerPass_good {s : State} {m : Marker} (hmoving : s.moving = true) (hcontrols : s.conv.controls = false)
    (hentering : s.conv.entering = some (m, false)) :
    exec (.memberMarkerPass false) s = .next ((({ s with conv.entering := none } : State).takeMarker m).passMarker m) := by
  have hforming := State.not_forming hmoving
  show execMemberMarkerPass false s = _
  simp [execMemberMarkerPass, hmoving, hcontrols, hentering, hforming]

theorem exec_memberMarkerPass_bad {s : State} {m : Marker} {bad crc : Bool} (hmoving : s.moving = true)
    (hcontrols : s.conv.controls = false) (hentering : s.conv.entering = some (m, bad)) (hbad : (bad || crc) = true) :
    exec (.memberMarkerPass crc) s = .next { s with conv := { s.conv with
      goodMarkers := 0, lastMarker := none, mismatch := true, markerBad := true, entering := none } } := by
  show execMemberMarkerPass crc s = _
  simp [execMemberMarkerPass, hmoving, hcontrols, hentering, hbad]

theorem exec_memberMarkerPass_controls {s : State} (crc : Bool) (hmoving : s.moving = true) (hcontrols : s.conv.controls = true) :
    exec (.memberMarkerPass crc) s = .next (s.passMarker s.conv.marker) := by
  show execMemberMarkerPass crc s = _
  simp [execMemberMarkerPass, hmoving, hcontrols]

/-! ### Markers at the controller and at the stations (R58, R86, R87) -/

theorem exec_markerReturnMaster {s : State} {m : Marker} (hn : s.conv.span.n ≠ 1) (hcontrols : s.conv.controls = true)
    (hmoving : s.moving = true) (hentering : s.conv.entering = some (m, false)) : exec .markerReturnMaster s =
      .next { ({ s with conv.entering := none } : State).readStatusBytes m with
        conv := { (({ s with conv.entering := none } : State).readStatusBytes m).conv with lastMarker := some m.rev.toNat } } := by
  have hforming := State.not_forming hmoving
  show execMarkerReturnMaster s = _
  simp [execMarkerReturnMaster, hn, hcontrols, hmoving, hentering, hforming]

section ReturnedMarker

variable {s : State} {m : Marker}

/-- R58: a member that asks for k = 2. -/
theorem State.readStatusBytes_slow (h : ∃ i, i < s.conv.span.n ∧ ((statusOf m i).getLsbD 1 = true ∨ (statusOf m i).getLsbD 2 = true)) :
    (s.readStatusBytes m).conv.k2Next = true ∧ (s.readStatusBytes m).conv.quiet = 0 := by
  have hslow : ((List.range s.conv.span.n).map (statusOf m)).any (fun b => b.getLsbD 1 || b.getLsbD 2) = true := by
    simpa using h
  simp only [State.readStatusBytes, hslow, if_true, and_self]

/-- R58: a revolution in which no member asks for k = 2. -/
theorem State.readStatusBytes_quiet
    (h : ∀ i, i < s.conv.span.n → (statusOf m i).getLsbD 1 = false ∧ (statusOf m i).getLsbD 2 = false) :
    (s.readStatusBytes m).conv.quiet = s.conv.quiet + 1 ∧
      (s.readStatusBytes m).conv.k2Next = if 2 ≤ s.conv.quiet + 1 then false else s.conv.k2Next := by
  have hquiet : ((List.range s.conv.span.n).map (statusOf m)).any (fun b => b.getLsbD 1 || b.getLsbD 2) = false := by
    simpa using h
  simp only [State.readStatusBytes, hquiet, Bool.false_eq_true, if_false, and_self]

theorem State.readStatusBytes_halt {i : Nat} (hi : i < s.conv.span.n) (hbit : (statusOf m i).getLsbD 3 = true)
    (hhalt : s.conv.halt = none) : (s.readStatusBytes m).conv.haltRequested = true := by
  have hasked : ((List.range s.conv.span.n).map (statusOf m)).any (fun b => b.getLsbD 3) = true := by
    simpa using ⟨i, hi, hbit⟩
  simp only [State.readStatusBytes, hasked, hhalt, Option.isNone_none, Bool.and_self, Bool.or_true]

theorem State.readStatusBytes_ready : (s.readStatusBytes m).conv.allReady = true ↔
    s.conv.stepReady = true ∧ ∀ i, i < s.conv.span.n → (statusOf m i).getLsbD 4 = true := by
  simp [State.readStatusBytes, and_comm]

end ReturnedMarker

/-! ### CONVEYOR_HALT and CONVEYOR_RESUME (R91, R92) -/

theorem State.askHalt_frame (s : State) : s.askHalt = { s with conv := s.askHalt.conv } := by
  unfold State.askHalt
  split <;> rfl

theorem State.askHalt_state (s : State) : s.askHalt.conv.state = s.conv.state := by
  unfold State.askHalt
  split <;> rfl

theorem State.askHalt_alone {s : State} (h : s.conv.span.n = 1) : s.askHalt.conv.haltRequested = true := by
  simp [State.askHalt, h]

theorem State.askHalt_span {s : State} (h : s.conv.span.n ≠ 1) : s.askHalt.conv.haltOwn = true := by
  simp [State.askHalt, h]

section Halt

variable {s : State} {r : CmdRef} {c : Cmd} (h : Safety.started s r 0x24 c)
include h

theorem exec_conveyorHalt_running (hstate : s.conv.state = .running) : exec (.conveyorHalt r) s =
    .next (({ s.askHalt with conv := { s.askHalt.conv with haltCmds := s.conv.haltCmds ++ [r] } } : State).keepBusy r) := by
  show execConveyorHalt r s = _
  rw [execConveyorHalt, runCmd_started _ h, hstate]

theorem exec_conveyorHalt_noticed (hstate : s.conv.state = .noticed) : exec (.conveyorHalt r) s =
    .next (({ s with conv := { s.conv with haltCmds := s.conv.haltCmds ++ [r] } } : State).keepBusy r) := by
  show execConveyorHalt r s = _
  rw [execConveyorHalt, runCmd_started _ h, hstate]

theorem exec_conveyorHalt_standing (hrunning : s.conv.state ≠ .running) (hnoticed : s.conv.state ≠ .noticed) :
    exec (.conveyorHalt r) s = .next (s.finish r 0 0) := by
  show execConveyorHalt r s = _
  rw [execConveyorHalt, runCmd_started _ h]
  cases hstate : s.conv.state
  case running => exact absurd hstate hrunning
  case noticed => exact absurd hstate hnoticed
  all_goals rfl

end Halt

section Resume

variable {s : State} {r : CmdRef} {c : Cmd} (h : Safety.started s r 0x25 c)
include h

theorem exec_conveyorResume_halted (hstate : s.conv.state = .halted) (hspan : s.conv.span.n = 1 ∨ s.conv.locked = true) :
    exec (.conveyorResume r) s = .next (s.resumeNow.finish r 0 0) := by
  show execConveyorResume r s = _
  rw [execConveyorResume, runCmd_started _ h]
  obtain hn | hlocked := hspan
  · simp [hstate, hn]
  · simp [hstate, hlocked]

theorem exec_conveyorResume_forming (hstate : s.conv.state = .halted ∨ s.conv.state = .broken) (hn : s.conv.span.n ≠ 1)
    (hlocked : s.conv.locked = false) : exec (.conveyorResume r) s = .next (({ s with conv := { s.conv with
      state := .forming, goodMarkers := 0, lastMarker := none, halt := none, entering := none } } : State).finish r 0 0) := by
  show execConveyorResume r s = _
  rw [execConveyorResume, runCmd_started _ h]
  obtain hstate | hstate := hstate
  · simp [hstate, hn, hlocked]
  · simp [hstate, hn, hlocked]

theorem exec_conveyorResume_other (hhalted : s.conv.state ≠ .halted) (hbroken : s.conv.state ≠ .broken) :
    exec (.conveyorResume r) s = .next (s.finish r 0 0) := by
  show execConveyorResume r s = _
  rw [execConveyorResume, runCmd_started _ h]
  simp [hhalted, hbroken]

end Resume

/-- A resume shifts the runs of the programs; the queues, the memories and the Kilns stand as they were. -/
theorem State.resumeNow_frame (s : State) : s.resumeNow =
    { s with conv := s.resumeNow.conv, wort.resumeRev := s.resumeNow.wort.resumeRev, host.ctxs := s.resumeNow.host.ctxs } := by
  unfold State.resumeNow State.shiftRuns
  dsimp only
  split <;> rfl

theorem State.resumeNow_conv (s : State) : s.resumeNow.conv = { s.conv with
    state := .running, halt := none, inj := s.resumeNow.conv.inj, stn := s.resumeNow.conv.stn,
    marker := { s.conv.marker with haltNotice := false } } := by
  unfold State.resumeNow State.shiftRuns
  dsimp only
  split <;> rfl

/-- What holds of an unlisted number and after `f` of every listed one holds of every number. -/
theorem Bank.get_map_of {α : Type} {P : α → Prop} {f : Nat × α → Nat × α} {d : α} (hd : P d) (hf : ∀ x, (f x).1 = x.1 ∧ P (f x).2)
    (b : Bank α) (k : Nat) : P (Bank.get (b.map f) d k) := by
  induction b with
  | nil => exact hd
  | cons x b ih =>
    obtain ⟨hkey, hval⟩ := hf x
    by_cases hk : x.1 = k
    · simpa [Bank.get, Bank.find?, hkey, hk] using hval
    · simpa [Bank.get, Bank.find?, hkey, hk] using ih

/-! ### The conveyor clock (R96) -/

theorem foldl_min_le_mem {l : List Nat} {x : Nat} (a : Nat) (h : x ∈ l) : l.foldl min a ≤ x := by
  induction l generalizing a with
  | nil => exact absurd h List.not_mem_nil
  | cons y l ih =>
    obtain rfl | hx := List.mem_cons.mp h
    · exact (foldl_min_le (fun y => y) l (min a x)).trans (min_le_right a x)
    · exact ih _ hx

theorem State.slowestDie_le (s : State) {d : Nat} (h : d < 8) : s.slowestDie ≤ s.power.m.get 64 d :=
  foldl_min_le_mem 64 (List.mem_map_of_mem (List.mem_range.mpr h))

/-- R96: the conveyor runs no faster than its slowest die, but for the least rate of a span with k = 1. -/
theorem State.convClock_le (s : State) {d : Nat} (h : d < 8) : s.convClock ≤ max 32 (s.power.m.get 64 d) := by
  have hslow := s.slowestDie_le h
  unfold State.convClock
  dsimp only
  split
  · omega
  · split <;> omega

theorem State.convClock_alone {s : State} (h : s.conv.span.n = 1) : 16 ≤ s.convClock := by
  simp only [State.convClock, if_pos h]
  omega

theorem State.convClock_k2 {s : State} (h : s.conv.span.n ≠ 1) (hk : s.conv.k2 = true) : 16 ≤ s.convClock ∧ s.convClock ≤ 32 := by
  simp only [State.convClock, if_neg h, if_pos hk]
  omega

theorem State.convClock_k1 {s : State} (h : s.conv.span.n ≠ 1) (hk : s.conv.k2 = false) : 32 ≤ s.convClock := by
  simp only [State.convClock, if_neg h, hk, Bool.false_eq_true, if_false]
  omega

theorem State.setClock_alone {s : State} (h : s.conv.span.n = 1) : s.setClock.conv.upDelay = 0 ∧ s.setClock.conv.downDelay = 0 := by
  simp [State.setClock, State.setDelays, h]

theorem State.setClock_m (s : State) : s.setClock.conv.m = s.convClock := (congrArg (fun t : State => t.conv.m) s.setClock_frame :)

/-- Settles O28: a boundary's actions leave the conveyor's timing alone, and every marker and command is one branch of its rule. -/
theorem revolutionsMarkersAndHalts : Obligations.RevolutionsMarkersAndHalts := by
  refine ⟨⟨?dead, ?boundary, ?good, ?bad, ?controls, ?returns, ?station, ?stationBad⟩, ?halt, ?resume, ?form, ?runs, ?clock⟩
  case dead =>
    intro s hmoving hdead
    show execRevolutionBoundary s = _
    simp [execRevolutionBoundary, hmoving, hdead]
  case boundary =>
    intro s hmoving hdead
    refine ⟨_, exec_revolutionBoundary hmoving hdead, ?_⟩
    have hw := (s.turned.atBoundary_timing (s.conv.rev + 1)).trans s.turned_timing
    obtain ⟨-, -, -, -, -, -, -, hhalt⟩ := Conv.fields_of_timing hw
    rw [State.boundaryActions_eq]
    split
    case isTrue hdue =>
      obtain ⟨hrev, hacc, hk2, hstate, hcmds, hmarker⟩ := State.haltNow_boundary (s.conv.rev + 1) hw
      refine ⟨hrev, hacc, hk2, fun _ _ _ => ⟨hstate, hcmds⟩, hmarker, fun _ _ hnone => ?_⟩
      rw [hhalt, show ({ s.conv with rev := s.conv.rev + 1, acc := 0, k2 := s.conv.marker.k2Next } : Conv).halt = none from hnone] at hdue
      exact absurd hdue (by simp)
    case isFalse hnot =>
      obtain ⟨hrev, hacc, hk2, hmarker, hannounced⟩ := State.announce_boundary (s.conv.rev + 1) hw
      refine ⟨hrev, hacc, hk2, fun p hp hdue => ?_, hmarker, hannounced⟩
      rw [hhalt, show ({ s.conv with rev := s.conv.rev + 1, acc := 0, k2 := s.conv.marker.k2Next } : Conv).halt = some p from hp] at hnot
      exact absurd hdue (by simpa using hnot)
  case good =>
    rintro m crc s hmoving hcontrols hentering rfl hmismatch
    have hrun := exec_memberMarkerPass_good hmoving hcontrols hentering
    rw [State.takeMarker_agrees (s := { s with conv.entering := none }) m hmismatch] at hrun
    obtain ⟨hrev, hk2Next, hentered⟩ := ({ s.conv with entering := none } : Conv).taken_count m
    refine ⟨_, hrun, rfl, hrev, hk2Next, rfl, hentered, fun hstep hat => Conv.taken_named hstep hat,
      fun hhalt hnotice => Conv.taken_notice hhalt hnotice, fun hnotice => ?_⟩
    rw [Conv.taken_quiet hnotice]
    exact ⟨rfl, rfl, fun hindex => statusOf_withStatus _ _ hindex⟩
  case bad => exact fun m bad crc s hmoving hcontrols hentering hbad => exec_memberMarkerPass_bad hmoving hcontrols hentering hbad
  case controls =>
    exact fun crc s hmoving hcontrols hindex => ⟨_, exec_memberMarkerPass_controls crc hmoving hcontrols, rfl, rfl,
      statusOf_withStatus _ _ hindex⟩
  case returns =>
    intro m s hn hcontrols hmoving hentering
    exact ⟨_, exec_markerReturnMaster hn hcontrols hmoving hentering, rfl, rfl,
      fun hslow => State.readStatusBytes_slow (s := { s with conv.entering := none }) hslow,
      fun hquiet => State.readStatusBytes_quiet (s := { s with conv.entering := none }) hquiet,
      fun i hi hbit hhalt => State.readStatusBytes_halt (s := { s with conv.entering := none }) hi hbit hhalt,
      State.readStatusBytes_ready (s := { s with conv.entering := none })⟩
  case station =>
    intro st s hmoving hgood hsure
    refine ⟨s.putStation st.val { s.station st.val with
      keptRev := s.conv.marker.rev.toNat, unsure := false, noticed := (s.station st.val).noticed || s.conv.marker.haltNotice }, ?_, ?_⟩
    · show execStationMarkerPass st false s = _
      simp [execStationMarkerPass, hmoving, hgood, hsure]
    · rw [State.station_putStation_self]
      exact ⟨rfl, rfl, rfl, rfl, rfl⟩
  case stationBad =>
    intro st crc s hmoving hbad
    show execStationMarkerPass st crc s = _
    simp [execStationMarkerPass, hmoving, hbad]
  case halt =>
    intro r c s h
    have hconv : ∀ t : State, (t.keepBusy r).conv = t.conv := fun t => (congrArg State.conv (t.keepBusy_queues r) :)
    by_cases hrunning : s.conv.state = .running
    · refine ⟨_, exec_conveyorHalt_running h hrunning, ?_, fun _ => ?_, fun hnoticed => ?_, fun hnot => absurd hrunning hnot⟩
      · rw [State.keepBusy_queues, s.askHalt_frame]
      · rw [hconv, State.cmd?_keepBusy (c := c) (by rw [s.askHalt_frame]; exact h.1)]
        exact ⟨rfl, s.askHalt_state.trans hrunning, fun hn => State.askHalt_alone hn, fun hn => State.askHalt_span hn, rfl⟩
      · exact absurd (hrunning.symm.trans hnoticed) (by decide)
    · by_cases hnoticed : s.conv.state = .noticed
      · refine ⟨_, exec_conveyorHalt_noticed h hnoticed, ?_, fun hrun => absurd hrun hrunning, fun _ => ?_,
          fun _ hnot => absurd hnoticed hnot⟩
        · rw [State.keepBusy_queues]
        · exact ⟨hconv _, State.cmd?_keepBusy (by exact h.1)⟩
      · refine ⟨_, exec_conveyorHalt_standing h hrunning hnoticed, ?_, fun hrun => absurd hrun hrunning,
          fun hnot => absurd hnot hnoticed, fun _ _ => ⟨(State.finish_lines s r 0 0).1, Safety.done_finish h.1 0 0⟩⟩
        rw [State.finish_queues]
  case resume =>
    intro r c s h hstate hspan
    have hconv : (s.resumeNow.finish r 0 0).conv = s.resumeNow.conv := (State.finish_lines _ _ _ _).1
    have hcmd : s.resumeNow.cmd? r = some c := (congrArg (fun t : State => t.cmd? r) s.resumeNow_frame).trans h.1
    refine ⟨_, exec_conveyorResume_halted h hstate hspan, Safety.done_finish hcmd 0 0, ?_, ?_, ?_, ?_, fun j => ?_, fun st => ?_, ?_, ?_⟩
    · rw [hconv, s.resumeNow_conv]
    · rw [hconv, s.resumeNow_conv]
    · rw [hconv, s.resumeNow_conv]
    · rw [hconv, s.resumeNow_conv]
    · rw [State.injector, hconv]
      exact Bank.get_map_of (P := fun x : Injector => x.noticed = false) (f := fun x => (x.1, { x.2 with noticed := false })) rfl
        (fun _ => ⟨rfl, rfl⟩) s.conv.inj j
    · rw [State.station, hconv]
      exact Bank.get_map_of (P := fun x : Station => x.noticed = false) (f := fun x => (x.1, { x.2 with noticed := false })) rfl
        (fun _ => ⟨rfl, rfl⟩) s.conv.stn st
    · rw [State.mem_finish, s.resumeNow_frame]
    · rw [State.finish_queues, s.resumeNow_frame]
  case form =>
    intro r c s h hstate hn hlocked
    have hrun := exec_conveyorResume_forming h hstate hn hlocked
    exact ⟨_, hrun, Safety.done_finish (c := c) (by exact h.1) 0 0, (State.finish_lines _ r 0 0).1⟩
  case runs =>
    intro r c s h hhalted hbroken
    exact ⟨_, exec_conveyorResume_other h hhalted hbroken, Safety.done_finish h.1 0 0, s.finish_queues r 0 0⟩
  case clock =>
    intro m s hm
    refine ⟨_, if_pos hm, ?_, fun d hd => s.convClock_le hd, fun hn => ?_, fun hn hk => ?_, fun hn hk => ?_⟩
    · rw [hm]
      exact s.setClock_frame
    · exact ⟨(State.setClock_alone hn).1, (State.setClock_alone hn).2, s.setClock_m ▸ State.convClock_alone hn⟩
    · exact s.setClock_m ▸ State.convClock_k2 hn hk
    · exact s.setClock_m ▸ State.convClock_k1 hn hk

end Sys2Proof.Machine

/-! PROOFS. O33: the gradient injectors: what a pass of a wort slot makes of a slot that is empty, owned, noticed or parked. -/

namespace Sys2Proof.Machine

/-! ### The wort line after each update -/

section Reads

variable (s : State) (k n : Nat)

@[simp] theorem State.wortSlot_putWort_self (x : Slot) : (s.putWort n x).wortSlot n = x := Bank.get_set_self _ _ _ _
theorem State.kilnAt_putKiln_self (x : Kiln) : (s.putKiln k x).kilnAt k = x := Bank.get_put_self _ _ _ _
theorem State.kilnAt_putKiln_ne {i : Nat} (x : Kiln) (h : i ≠ k) : (s.putKiln k x).kilnAt i = s.kilnAt i := Bank.get_put_ne _ _ _ h

theorem State.obj_bumpBy_ne {o p : Nat} (i m : Nat) (h : p ≠ o) : (s.bumpBy o i m).obj p i = s.obj p i :=
  State.obj_setObj_ne _ _ _ _ _ _ (by unfold okey; omega)

end Reads

/-! ### The parts of a pass -/

theorem State.gradNoticed_running {s : State} (k n rev : Nat) (h : s.conv.halt = none) : s.gradNoticed k n rev = false := by
  simp only [State.gradNoticed, h]

theorem wortInvalid_of_gradSlot {x : Slot} (h : gradSlot x = true) : wortInvalid x = false := by
  simp [wortInvalid, h]

/-- R104: a gradient slot is of kind 2. -/
theorem kind_of_gradSlot {x : Slot} (h : gradSlot x = true) : x.kind = 2 := by
  simp only [gradSlot, Bool.and_eq_true, beq_iff_eq] at h
  obtain ⟨⟨⟨hkind, -⟩, -⟩, -⟩ := h
  exact hkind

/-- R123: no copy is taken of a slot that is no gradient slot, or whose BITMAP lacks a member. -/
theorem State.gradCopy_none {s : State} (k n : Nat) {x : Slot}
    (h : gradSlot x = false ∨ ∃ i, i < s.conv.span.n ∧ x.bitmap.getLsbD i = false) : s.gradCopy k n x = s := by
  have hskip : (!gradSlot x || !(List.range s.conv.span.n).all (fun i => x.bitmap.getLsbD i)) = true := by
    simpa [or_iff_not_imp_left] using h
  have hnone : s.copyEntries k n x = [] := if_pos hskip
  simp only [State.gradCopy, hnone, List.foldl_nil, ite_self]

/-- R106: what the opening behind a pass can do: nothing, count deferrals, or open one gate entry at an empty slot. -/
theorem State.gradOpen_cases (s : State) (k n rev : Nat) : s.gradOpen k n rev = s ∨ (∃ m, s.gradOpen k n rev = s.bumpBy 0x30134 k m) ∨
    ∃ y m, (s.wortSlot n).kind = 0 ∧ s.gradOpen k n rev = (s.openGrad k n y).bumpBy 0x30134 k m := by
  unfold State.gradOpen
  split
  · exact .inl rfl
  · split
    case isTrue => exact .inr (.inl ⟨_, rfl⟩)
    case isFalse hfree => exact .inr (.inr ⟨_, _, (not_ne_iff.mp (not_or.mp hfree).1), rfl⟩)

/-- R106: the first due entry opens at an empty slot, and the others are deferred. -/
theorem State.gradOpen_due {s : State} {k n rev : Nat} {y : Nat × Nat × RetRun × GateEntry}
    {rest : List (Nat × Nat × RetRun × GateEntry)} (hempty : (s.wortSlot n).kind = 0)
    (hparked : (s.parkedSlots k).any (fun p => p.n == n) = false) (hdue : s.dueGates k n rev = y :: rest) :
    s.gradOpen k n rev = (s.openGrad k n y).bumpBy 0x30134 k rest.length := by
  simp only [State.gradOpen, hdue, hempty, hparked, ne_eq, not_true, Bool.false_eq_true, or_self, if_false]

/-- `t` differs from `s` in the wort line, the dictionary and the contexts alone. -/
def State.wortOnly (t s : State) : Prop :=
  t = { s with wort := t.wort, mgmt.dict := t.mgmt.dict, host.ctxs := t.host.ctxs }

section WortOnly

variable {r s t : State}

theorem State.wortOnly.trans (g : r.wortOnly t) (h : t.wortOnly s) : r.wortOnly s :=
  Eq.trans g (congrArg (fun u : State => { u with wort := r.wort, mgmt.dict := r.mgmt.dict, host.ctxs := r.host.ctxs }) h)

theorem State.wortOnly.kilns (h : t.wortOnly s) : t.kilns = s.kilns := (congrArg State.kilns h :)
theorem State.wortOnly.kilnAt (h : t.wortOnly s) (i : Nat) : t.kilnAt i = s.kilnAt i := congrArg (fun b : Bank Kiln => b.get {} i) h.kilns
theorem State.wortOnly.conv (h : t.wortOnly s) : t.conv = s.conv := (congrArg State.conv h :)
theorem State.wortOnly.mem (h : t.wortOnly s) : t.mem = s.mem := (congrArg State.mem h :)

theorem State.onRetRun_wortOnly (s : State) (k : Nat) (st : BitVec 32) (f : RetRun → RetRun) : (s.onRetRun k st f).wortOnly s := by
  unfold State.onRetRun State.onCtx
  split <;> rfl

end WortOnly

theorem State.onRetRun_wort (s : State) (k : Nat) (st : BitVec 32) (f : RetRun → RetRun) : (s.onRetRun k st f).wort = s.wort :=
  (s.onCtx_lines k _).2.1

theorem State.openGrad_wortOnly (s : State) (k n : Nat) (y : Nat × Nat × RetRun × GateEntry) : (s.openGrad k n y).wortOnly s :=
  (State.onRetRun_wortOnly _ _ _ _).trans rfl

theorem State.obj_openGrad (s : State) (k n : Nat) (y : Nat × Nat × RetRun × GateEntry) (o : Nat) :
    (s.openGrad k n y).obj o k = (s.bump 0x30130 k).obj o k :=
  State.obj_onCtx _ _ _ _ _

/-- R106: the slot as a gate entry opens it in a run. -/
def openedSlot (run : RetRun) (e : GateEntry) : Slot :=
  { kind := 2, format := e.format, tileId := e.tileId, owner := BitVec.ofNat 6 e.owner, pgroup := e.pgroup, gen := run.gen,
    revLeft := BitVec.ofNat 12 e.waitRevs }

theorem State.openGrad_wort (s : State) (k n c entry : Nat) (run : RetRun) (e : GateEntry) :
    let u := s.openGrad k n (c, entry, run, e)
    u.wortSlot n = openedSlot run e ∧ u.wort.tally.get {} n = { tile := e.tileId, gen := run.gen, count := 0 } ∧
    u.gradSlots k = (s.gradSlots k).filter (fun y => y.1 != n) ++ [(n, { ctx := c, entry := entry, step := run.step })] := by
  simp only [State.wortSlot, State.gradSlots, State.openGrad, State.onRetRun_wort]
  exact ⟨State.wortSlot_putWort_self s n (openedSlot run e), Bank.get_set_self _ _ _ _, Bank.get_set_self _ _ _ _⟩

theorem State.gradOpen_wortOnly (s : State) (k n rev : Nat) : (s.gradOpen k n rev).wortOnly s := by
  obtain hsame | ⟨m, hdeferred⟩ | ⟨y, m, -, hopened⟩ := s.gradOpen_cases k n rev
  · rw [hsame]
    rfl
  · rw [hdeferred]
    rfl
  · rw [hopened]
    exact .trans (t := s.openGrad k n y) rfl (s.openGrad_wortOnly k n y)

/-- The opening counts in 30.130 and 30.134 alone. -/
theorem State.obj_gradOpen (s : State) {k n rev o : Nat} (hopen : o ≠ 0x30130) (hdefer : o ≠ 0x30134) :
    (s.gradOpen k n rev).obj o k = s.obj o k := by
  obtain hsame | ⟨m, hdeferred⟩ | ⟨y, m, -, hopened⟩ := s.gradOpen_cases k n rev
  · rw [hsame]
  · rw [hdeferred, State.obj_bumpBy_ne _ _ _ hdefer]
  · rw [hopened, State.obj_bumpBy_ne _ _ _ hdefer, State.obj_openGrad]
    exact State.obj_bumpBy_ne _ _ _ hopen

/-- Behind an occupied slot nothing opens, and only the count of deferrals changes. -/
theorem State.gradOpen_occupied {s : State} {k n rev : Nat} (h : (s.wortSlot n).kind ≠ 0) :
    s.gradOpen k n rev = { s with mgmt.dict := (s.gradOpen k n rev).mgmt.dict } := by
  obtain hsame | ⟨m, hdeferred⟩ | ⟨y, m, hempty, -⟩ := s.gradOpen_cases k n rev
  · rw [hsame]
  · rw [hdeferred]
    rfl
  · exact absurd hempty h

/-! ### A slot that its injector meets (R121, R122) -/

theorem State.gradMeet_unknown {s : State} {k n : Nat} {x : Slot} (hunknown : (s.gradSlots k).find? (fun y => y.1 == n) = none)
    (hvalid : wortInvalid x = false) : s.gradMeet k n x = s := by
  simp [State.gradMeet, hunknown, hvalid]

/-- A tile has joined the input queue of a Kiln. -/
def State.enqueueTile (s : State) (k : Nat) (t : KilnTile) : State :=
  s.putKiln k { s.kilnAt k with input := (s.kilnAt k).input ++ [t] }

/-- R347: a Kiln with room takes the tile into its input queue. -/
theorem State.handTile_queued {s : State} {k : Nat} (t : KilnTile) (hinput : (s.kilnAt k).input.length < 64)
    (hroom : (s.kilnAt k).park.length + (s.parkedSlots k).length < parkCapacity) : s.handTile k t = some (s.enqueueTile k t) := by
  simp only [State.handTile, if_neg hroom.not_ge, if_pos hinput]
  rfl

section Owned

variable {s : State} {k n m : Nat} {g : GradSlot} {p : RetProg} (hknown : (s.gradSlots k).find? (fun y => y.1 == n) = some (m, g))
  (hretire : g.retire = false)
include hknown hretire

/-- R130: the owner of a gradient slot that the halt notice has passed parks it. -/
theorem State.gradHalt_owned {x : Slot} (hgrad : gradSlot x = true) : s.gradHalt k n x = s.gradPark k n x := by
  simp [State.gradHalt, hknown, hretire, wortInvalid_of_gradSlot hgrad, kind_of_gradSlot hgrad]

variable (hhanded : g.handed = false) (hprog : s.retOf g.ctx = some p) {x : Slot} (hkind : x.kind = 2) (hgood : x.bad = false)
  (hvalid : wortInvalid x = false)
include hhanded hprog hkind hgood hvalid

theorem State.gradMeet_incomplete (hcomplete : s.gradComplete x n (p.expected x.tileId) = false) (hleft : x.revLeft ≠ 0) :
    s.gradMeet k n x = (s.bump 0x30132 k).putWort n { x with revLeft := x.revLeft - 1 } := by
  have hlap : s.gradLap k n x g = (s.bump 0x30132 k).putWort n { x with revLeft := x.revLeft - 1 } := if_pos hleft
  simp [State.gradMeet, hknown, hretire, hkind, hgood, hvalid, State.gradReturn, hprog, hhanded, hcomplete, hlap]

theorem State.gradMeet_complete (hcomplete : s.gradComplete x n (p.expected x.tileId) = true) (hrep : p.replicated = false)
    (hinput : (s.kilnAt k).input.length < 64) (hroom : (s.kilnAt k).park.length + (s.parkedSlots k).length < parkCapacity) :
    s.gradMeet k n x = (s.enqueueTile k { ctx := g.ctx, step := g.step, slot := x }).gradRetire k n g := by
  simp [State.gradMeet, hknown, hretire, hkind, hgood, hvalid, State.gradReturn, hprog, hhanded, hcomplete,
    State.handTile_queued _ hinput hroom, hrep]

end Owned

theorem State.gradRetire_wortOnly (s : State) (k n : Nat) (g : GradSlot) : (s.gradRetire k n g).wortOnly s :=
  (State.onRetRun_wortOnly _ _ _ _).trans rfl

theorem State.obj_gradRetire (s : State) (k n : Nat) (g : GradSlot) :
    (s.gradRetire k n g).obj 0x30131 k = (s.obj 0x30131 k + 1) % 2 ^ 64 :=
  (State.obj_onCtx _ _ _ _ _).trans (State.obj_bump_self (s.emptyWort k n) _ _)

theorem State.gradReopen_wortSlot (s : State) (k n : Nat) (x : Slot) : (s.gradReopen k n x).wortSlot n = x := Bank.get_set_self _ _ _ _

/-- R131: a parked slot that nothing discards comes back into its empty place. -/
theorem State.gradUnpark_reopens {s : State} {k n rev : Nat} {p : ParkedSlot}
    (hretire : ∀ y ∈ s.gradSlots k, y.1 = n → y.2.retire = false) (hempty : (s.wortSlot n).kind = 0)
    (hrev : p.fromRev ≤ rev) : s.gradUnpark k n rev p = s.gradReopen k n p.x := by
  have hkept : (s.gradSlots k).any (fun y => y.1 == n && y.2.retire) = false := by simpa using hretire
  simp only [State.gradUnpark, hkept, Bool.false_eq_true, if_false, hrev, hempty, and_self, if_true]

/-! ### GRADIENT_INJECTOR_PASS -/

section GradPass

variable {s : State} {k : Fin 8} {slot : Fin 76800} (hmoving : s.moving = true) (htwo : 2 ≤ slot.val)
  (hslot : slot.val < s.conv.span.slots)
  (hsound : (s.health.lost.contains (.kiln k) && (s.gradSlots k.val).any (fun y => y.1 == slot.val)) = false)
include hmoving htwo hslot hsound

theorem exec_gradientInjectorPass_unparked (hparked : (s.parkedSlots k.val).find? (fun y => y.n == slot.val) = none) :
    let x := s.wortSlot slot.val
    let rev := s.wort.injRev.get 0 k.val
    exec (.gradientInjectorPass k slot false) s = .next (if s.gradNoticed k.val slot.val rev then
      (s.gradHalt k.val slot.val x).gradCopy k.val slot.val x
    else ((s.gradMeet k.val slot.val x).gradCopy k.val slot.val x).gradOpen k.val slot.val rev) := by
  show execGradientInjectorPass k slot false s = _
  simp only [execGradientInjectorPass, hmoving, hslot.not_ge, show slot.val ≠ 1 by omega, show slot.val ≠ 0 by omega, hsound, hparked,
    Bool.not_true, Bool.or_self, Bool.false_eq_true, decide_false, if_false]
  split <;> rfl

theorem exec_gradientInjectorPass_parked {p : ParkedSlot} (hparked : (s.parkedSlots k.val).find? (fun y => y.n == slot.val) = some p)
    (hnoticed : s.gradNoticed k.val slot.val (s.wort.injRev.get 0 k.val) = false) (hvalid : wortInvalid (s.wortSlot slot.val) = false) :
    exec (.gradientInjectorPass k slot false) s =
      .next (((s.gradUnpark k.val slot.val (s.wort.injRev.get 0 k.val) p).gradCopy k.val slot.val (s.wortSlot slot.val)).gradOpen k.val
        slot.val (s.wort.injRev.get 0 k.val)) := by
  show execGradientInjectorPass k slot false s = _
  simp only [execGradientInjectorPass, hmoving, hslot.not_ge, show slot.val ≠ 1 by omega, show slot.val ≠ 0 by omega, hsound, hparked,
    hnoticed, hvalid, Bool.not_true, Bool.or_self, Bool.and_false, Bool.false_eq_true, decide_false, if_false]

end GradPass

/-- R477: the slots of a present Kiln are not spoiled. -/
theorem State.sound_of_present {s : State} {k : Fin 8} (h : s.health.lost.contains (.kiln k) = false) (n : Nat) :
    (s.health.lost.contains (.kiln k) && (s.gradSlots k.val).any (fun y => y.1 == n)) = false := by
  rw [h, Bool.false_and]

theorem State.sound_of_unknown {s : State} {k : Fin 8} {n : Nat} (h : (s.gradSlots k.val).find? (fun y => y.1 == n) = none) :
    (s.health.lost.contains (.kiln k) && (s.gradSlots k.val).any (fun y => y.1 == n)) = false := by
  rw [List.any_eq_false.mpr (List.find?_eq_none.mp h), Bool.and_false]

/-- Settles O33: a pass is what the injector makes of its slot, the copies of none, and an opening behind it. -/
theorem gradientInjectorsServeTheirSlots : Obligations.GradientInjectorsServeTheirSlots := by
  refine ⟨?opens, ?laps, ?retires, ?parks, ?reopens, ?marker⟩
  case opens =>
    intro k slot c n run e rest s hmoving htwo hslot hhalt hunknown hparked hempty hdue
    have hvalid : wortInvalid (s.wortSlot slot.val) = false := by rw [hempty]; rfl
    have hplain : gradSlot (s.wortSlot slot.val) = false := by rw [hempty]; rfl
    have hplace : (s.parkedSlots k.val).any (fun y => y.n == slot.val) = false :=
      List.any_eq_false.mpr (List.find?_eq_none.mp hparked)
    refine ⟨_, exec_gradientInjectorPass_unparked hmoving htwo hslot (State.sound_of_unknown hunknown) hparked, ?_⟩
    rw [State.gradNoticed_running _ _ _ hhalt, if_neg Bool.false_ne_true, State.gradMeet_unknown hunknown hvalid,
      State.gradCopy_none _ _ (.inl hplain), State.gradOpen_due (by rw [hempty]) hplace hdue]
    obtain ⟨hslot', htally, hslots⟩ := s.openGrad_wort k.val slot.val c n run e
    have hframe := s.openGrad_wortOnly k.val slot.val (c, n, run, e)
    refine ⟨hslot', htally, hslots, ?_, hframe.kilns, hframe.mem⟩
    rw [State.obj_bumpBy_ne _ _ _ (by decide), State.obj_openGrad, State.obj_bump_self]
  case laps =>
    intro k slot m g p s hmoving htwo hslot hhalt hpresent hknown hparked hretire hhanded hprog x hkind hgood hvalid hcomplete hleft hlacks
    refine ⟨_, exec_gradientInjectorPass_unparked hmoving htwo hslot (State.sound_of_present hpresent _) hparked, ?_⟩
    have hoccupied : (((s.bump 0x30132 k.val).putWort slot.val { x with revLeft := x.revLeft - 1 }).wortSlot slot.val).kind ≠ 0 := by
      rw [State.wortSlot_putWort_self, hkind]
      decide
    rw [State.gradNoticed_running _ _ _ hhalt, if_neg Bool.false_ne_true,
      State.gradMeet_incomplete hknown hretire hhanded hprog hkind hgood hvalid hcomplete hleft,
      State.gradCopy_none _ _ (.inr (by exact hlacks)), State.obj_gradOpen _ (by decide) (by decide), State.gradOpen_occupied hoccupied]
    exact ⟨State.wortSlot_putWort_self _ _ _, State.obj_bump_self _ _ _, rfl⟩
  case retires =>
    intro k slot m g p s hmoving htwo hslot hhalt hpresent hknown hparked hretire hhanded hprog hrep hinput hroom x hkind hgood hvalid
      hcomplete hlacks
    refine ⟨_, exec_gradientInjectorPass_unparked hmoving htwo hslot (State.sound_of_present hpresent _) hparked, ?_⟩
    rw [State.gradNoticed_running _ _ _ hhalt, if_neg Bool.false_ne_true,
      State.gradMeet_complete hknown hretire hhanded hprog hkind hgood hvalid hcomplete hrep hinput hroom]
    have hretired := (s.enqueueTile k.val { ctx := g.ctx, step := g.step, slot := x }).gradRetire_wortOnly k.val slot.val g
    have hframe := (State.gradOpen_wortOnly _ k.val slot.val (s.wort.injRev.get 0 k.val)).trans hretired
    rw [State.gradCopy_none _ _ (.inr (by rw [hretired.conv]; exact hlacks)), State.obj_gradOpen _ (by decide) (by decide),
      State.obj_gradRetire, hframe.kilnAt, State.enqueueTile, State.kilnAt_putKiln_self]
    exact ⟨rfl, rfl, rfl, fun i hi => (hframe.kilnAt i).trans (State.kilnAt_putKiln_ne _ _ _ hi), hframe.mem⟩
  case parks =>
    intro k slot m g s hmoving htwo hslot hnoticed hpresent hknown hparked hretire hgrad hlacks
    refine ⟨_, exec_gradientInjectorPass_unparked hmoving htwo hslot (State.sound_of_present hpresent _) hparked, ?_⟩
    rw [if_pos hnoticed, State.gradHalt_owned hknown hretire hgrad,
      State.gradCopy_none _ _ (.inr (by exact hlacks))]
    exact ⟨State.wortSlot_putWort_self s slot.val {}, Bank.get_set_self _ _ _ _, rfl, State.obj_bump_self _ _ _, rfl⟩
  case reopens =>
    intro k slot p s hmoving htwo hslot hhalt hpresent hparked hretire hempty hkind hrev
    have hvalid : wortInvalid (s.wortSlot slot.val) = false := by rw [hempty]; rfl
    have hplain : gradSlot (s.wortSlot slot.val) = false := by rw [hempty]; rfl
    have hoccupied : ((s.gradReopen k.val slot.val p.x).wortSlot slot.val).kind ≠ 0 := by
      rw [State.gradReopen_wortSlot, hkind]
      decide
    refine ⟨_, exec_gradientInjectorPass_parked hmoving htwo hslot (State.sound_of_present hpresent _) hparked
      (State.gradNoticed_running _ _ _ hhalt) hvalid, ?_⟩
    rw [State.gradUnpark_reopens hretire (by rw [hempty]) hrev, State.gradCopy_none _ _ (.inl hplain), State.gradOpen_occupied hoccupied]
    exact ⟨State.gradReopen_wortSlot _ _ _ _, Bank.get_set_self _ _ _ _, rfl, rfl⟩
  case marker =>
    intro k s hmoving hslots hgood
    show execGradientInjectorPass k 0 false s = _
    simp [execGradientInjectorPass, hmoving, hslots.ne', State.gradMarkerPass, hgood]

end Sys2Proof.Machine

/-! PROOFS. O34 fails in its clause on the fold of the tally at station 0. The statement bounds no state, also not by the canonical
form of the banks (keys strictly rising). In `strayState` context 0 is listed behind context 1; counting the pass that its
entry misses stores context 0 in front, and the fold then finds the program of context 0 first at the slot, where the statement
takes the expected count from the program of context 1, which the state lists first. -/

namespace Sys2Proof.Machine

/-- A return program of one member that maps wort slot 2. -/
def strayProg (rsta : List RstaEntry) (runs : List RetRun) : RetProg :=
  { spanN := 1, slots := 1, replicated := false, member := 0, stepRevs := 1, gate := [], rsta := rsta, map := [2], runs := runs }

/-- An entry of station 0 for tile 0 in that slot. -/
def strayEntry : RstaEntry :=
  { tileId := 0, revOffset := 0, slot := 0, lstation := 0, clusters := 1, accAddr := 0, accPitch := 0, format := 4 }

/-- Context 1, listed first, expects no contribution to tile 0; context 0 expects one, which waits for a buffer. -/
def strayState : State :=
  { conv := { state := .running },
    wort := { slots := [(2, { kind := 2, format := 4 })] },
    host := { ctxs := [(1, { ret := some (strayProg [] []) }),
                       (0, { ret := some (strayProg [strayEntry] [{ step := 0, startRev := 0, gen := 0, waited := [0] }]) })] } }

/-- The fold finds an expected count of 1 and leaves the BITMAP bit of the member unset. -/
theorem exec_strayState : ∃ t, exec (.addWindowPass 0 2 false false false) strayState = .next t ∧ (t.wortSlot 2).bitmap = 0 :=
  ⟨_, rfl, by decide +kernel⟩

/-- Refutes O34: with a tally of 0 and the expected count 0 of the program listed first, the statement sets the BITMAP bit. -/
theorem not_stationsAddTheirContributions : ¬ Obligations.StationsAddTheirContributions := by
  rintro ⟨-, -, -, hfold, -⟩
  obtain ⟨u, hexec, hslot, -⟩ := hfold 2 false false 0 strayState rfl (by decide) (by decide) rfl rfl rfl rfl
  obtain ⟨t, hrun, hbitmap⟩ := exec_strayState
  obtain rfl : t = u := Host.Outcome.next.inj (hrun.symm.trans hexec)
  exact absurd (hbitmap.symm.trans (congrArg Slot.bitmap hslot)) (by decide)

end Sys2Proof.Machine

/-! PROOFS. O35: the verdict slot: when a verdict becomes final, and what the pass of slot 1 and its rebuilding leave behind. -/

namespace Sys2Proof.Machine

/-! ### VERDICT_FINALIZE (R127) -/

/-- The verdict that has become final with `cause` in revolution `rev` at member `own`. -/
def closedVerdict (v : Verdict) (own rev cause : Nat) : Verdict :=
  { v with state := if cause = 0 then 1 else 2, cause := BitVec.ofNat 16 cause, finalizer := BitVec.ofNat 6 own,
           total := BitVec.ofNat 64 (Verdict1.total v.records), decideRev := BitVec.ofNat 48 (rev + 2) }

section Finalize

variable {v : Verdict} {r : MemberRec} (own rev : Nat)

theorem finalize_final (h : verdictFinal v = true) : finalize v own r rev = v :=
  if_pos h

theorem finalize_failing (hopen : verdictFinal v = false) (hcause : ownCause r ≠ 0) :
    finalize v own r rev = closedVerdict v own rev (ownCause r) := by
  simp only [finalize, hopen, Bool.false_eq_true, if_false, if_pos hcause]
  rfl

theorem finalize_done (hopen : verdictFinal v = false) (hcause : ownCause r = 0)
    (hdone : ∀ i, i < v.spanN.toNat → v.doneMap.getLsbD i = true) :
    finalize v own r rev = closedVerdict v own rev (causeOf v.records v.threshold.toNat) := by
  have hall : (List.range v.spanN.toNat).all (fun i => v.doneMap.getLsbD i) = true := by simpa using hdone
  simp only [finalize, hopen, Bool.false_eq_true, if_false, hcause, ne_eq, not_true, hall, if_true]
  rfl

theorem finalize_waiting (hopen : verdictFinal v = false) (hcause : ownCause r = 0)
    (hwait : ∃ i, i < v.spanN.toNat ∧ v.doneMap.getLsbD i = false) : finalize v own r rev = v := by
  have hnot : (List.range v.spanN.toNat).all (fun i => v.doneMap.getLsbD i) = false := by simpa using hwait
  simp only [finalize, hopen, Bool.false_eq_true, if_false, hcause, ne_eq, not_true, hnot]

/-- A verdict names the same step when it becomes final. -/
theorem finalize_step (v : Verdict) (r : MemberRec) : (finalize v own r rev).step = v.step := by
  unfold finalize
  dsimp only
  split
  · rfl
  · split
    · rfl
    · split <;> rfl

end Finalize

/-- Table 4.8: no cause stands in the records of a verdict that passes. -/
theorem causeOf_eq_zero (l : Bank MemberRec) (threshold : Nat) : causeOf l threshold = 0 ↔
    (∀ y ∈ l, y.2.nonfinite = 0 ∧ y.2.sharedLost = false ∧ y.2.poisoned = false) ∧ Verdict1.total l ≤ threshold := by
  have hpart : ∀ (b : Bool) (w : Nat), w ≠ 0 → ((if b then w else 0) = 0 ↔ b = false) := fun b w hw => by cases b <;> simp [hw]
  simp only [causeOf, Nat.add_eq_zero_iff, hpart _ _ one_ne_zero, hpart _ _ two_ne_zero, hpart _ 4 (by decide),
    hpart _ 8 (by decide), List.any_eq_false, decide_eq_false_iff_not, not_lt, bne_iff_ne, not_not, Bool.not_eq_true]
  exact ⟨fun ⟨⟨⟨hfinite, htotal⟩, hshared⟩, hpoison⟩ => ⟨fun y hy => ⟨hfinite y hy, hshared y hy, hpoison y hy⟩, htotal⟩,
    fun ⟨hall, htotal⟩ => ⟨⟨⟨fun y hy => (hall y hy).1, htotal⟩, fun y hy => (hall y hy).2.1⟩, fun y hy => (hall y hy).2.2⟩⟩

/-! ### VERDICT_RECORD_WRITE (R126, R127) -/

/-- With no step between its verdict and its decision, an undecided step is live. -/
theorem Steps.undecided_eq_live {t : Steps} (h : t.deciding = none) : t.undecided = t.live := by
  simp [Steps.undecided, Steps.live, h]

/-- The final verdict of a live step is kept; the conveyor, the Kilns and the memories stand as they were. -/
theorem State.holdFinal_live {s : State} {v : Verdict} {x : LiveStep} (h : s.steps.live.find? (fun y => y.step == v.step) = some x) :
    (s.holdFinal v).verdict = { s.verdict with held := some v, last := verdictSummary v } ∧
    (s.holdFinal v).conv = s.conv ∧ (s.holdFinal v).kilns = s.kilns ∧ (s.holdFinal v).mem = s.mem := by
  simp only [State.holdFinal, h]
  exact ⟨rfl, rfl, rfl, rfl⟩

/-- The verdict slot behind the member's record of step `x`. -/
def State.recorded (s : State) (x : LiveStep) (rev : Nat) : Verdict :=
  finalize (withRecord s.verdict.slot1 s.conv.span.index (s.memberRecord x)) s.conv.span.index (s.memberRecord x) rev

theorem State.recorded_step (s : State) (x : LiveStep) (rev : Nat) : (s.recorded x rev).step = s.verdict.slot1.step :=
  finalize_step _ _ _ _

/-- A collecting verdict of a step without aborts meets a member that holds no other one. -/
theorem State.passVerdict_open {s : State} {x : LiveStep} (rev : Nat) (hopen : verdictFinal s.verdict.slot1 = false)
    (hheld : s.verdict.held = none) (hstep : s.stepOf s.verdict.slot1.step = some x) (haborts : x.abortPending = []) :
    s.passVerdict rev = if verdictFinal (s.recorded x rev) then
      ({ s with verdict.slot1 := s.recorded x rev } : State).holdFinal (s.recorded x rev)
    else { s with verdict.slot1 := s.recorded x rev } := by
  simp only [State.passVerdict, hopen, Bool.false_eq_true, if_false, hheld, hstep, haborts, List.isEmpty_nil, Bool.not_true,
    Bool.false_and]
  rfl

/-- What a member's record leaves of the verdict slot and of the state around it. -/
theorem State.passVerdict_fields {s : State} {x : LiveStep} (rev : Nat) (hopen : verdictFinal s.verdict.slot1 = false)
    (hheld : s.verdict.held = none) (hdeciding : s.steps.deciding = none) (hstep : s.stepOf s.verdict.slot1.step = some x)
    (haborts : x.abortPending = []) : let u := s.passVerdict rev
    u.verdict.slot1 = s.recorded x rev ∧ (verdictFinal (s.recorded x rev) = true → u.verdict.held = some (s.recorded x rev)) ∧
    u.conv = s.conv ∧ u.kilns = s.kilns ∧ u.mem = s.mem := by
  rw [State.passVerdict_open rev hopen hheld hstep haborts]
  split
  case isTrue hfinal =>
    have hlive : ({ s with verdict.slot1 := s.recorded x rev } : State).steps.live.find?
        (fun y => y.step == (s.recorded x rev).step) = some x := by
      rw [State.recorded_step]
      exact (congrArg (List.find? _) (Steps.undecided_eq_live hdeciding)).symm.trans hstep
    obtain ⟨hverdict, hconv, hkilns, hmem⟩ := State.holdFinal_live hlive
    exact ⟨congrArg VerdictCtl.slot1 hverdict, fun _ => congrArg VerdictCtl.held hverdict, hconv, hkilns, hmem⟩
  case isFalse hcollecting => exact ⟨rfl, fun hfinal => absurd hfinal hcollecting, rfl, rfl, rfl⟩

theorem exec_verdictRecordWrite_good {s : State} (hmoving : s.moving = true) (hcollecting : s.verdict.slot1.collecting = true)
    (hgood : s.verdict.crcBad = false) (hopened : s.conv.controls = true → s.verdict.openRev ≤ s.slot1Rev) :
    exec (.verdictRecordWrite false) s = .next (if (s.passVerdict s.slot1Rev).conv.controls then
      { s.passVerdict s.slot1Rev with verdict.kept := some (s.passVerdict s.slot1Rev).verdict.slot1 }
    else s.passVerdict s.slot1Rev) := by
  have hbefore : (s.conv.controls && decide (s.slot1Rev < s.verdict.openRev)) = false := by simpa using hopened
  show execVerdictRecordWrite false s = _
  simp only [execVerdictRecordWrite, hmoving, hcollecting, hgood, hbefore, Bool.not_true, Bool.or_self, Bool.false_eq_true, if_false]

/-- Settles O35: the pass of slot 1 writes the record and finalizes, a bad one only counts, and `finalize` is one of four cases. -/
theorem verdictsAreWrittenAndFinal : Obligations.VerdictsAreWrittenAndFinal := by
  refine ⟨?record, ?bad, ?rebuild, ?final, ?fails, ?decides, ?waits⟩
  case record =>
    intro x s hmoving hcollecting hgood hopened hopen hheld hdeciding hstep haborts r
    obtain ⟨hslot, hfinal, hconv, hkilns, hmem⟩ := State.passVerdict_fields s.slot1Rev hopen hheld hdeciding hstep haborts
    refine ⟨_, exec_verdictRecordWrite_good hmoving hcollecting hgood hopened, ?_⟩
    rw [hconv]
    split
    case isTrue hcontrols =>
      exact ⟨hslot, fun _ => rfl, fun h => (hfinal (hslot ▸ h)).trans (congrArg some hslot.symm), hconv, hkilns, hmem⟩
    case isFalse hmember =>
      exact ⟨hslot, fun hcontrols => absurd hcontrols hmember, fun h => (hfinal (hslot ▸ h)).trans (congrArg some hslot.symm),
        hconv, hkilns, hmem⟩
  case bad =>
    intro s hmoving
    show execVerdictRecordWrite true s = _
    simp [execVerdictRecordWrite, hmoving]
  case rebuild =>
    rintro v s rfl hmoving hcontrols hbad
    show execVerdictSlotRebuild s = _
    simp [execVerdictSlotRebuild, hmoving, hcontrols, hbad]
  case final => exact fun v own r rev hfinal => finalize_final own rev hfinal
  case fails =>
    intro v own r rev hopen hcause
    rw [finalize_failing own rev hopen hcause]
    exact ⟨if_neg hcause, rfl, rfl⟩
  case decides =>
    intro v own r rev hopen hcause hdone
    rw [finalize_done own rev hopen hcause hdone, ← causeOf_eq_zero]
    refine ⟨rfl, ?_⟩
    by_cases hzero : causeOf v.records v.threshold.toNat = 0
    · simp [closedVerdict, hzero]
    · simp [closedVerdict, hzero]
  case waits => exact fun v own r rev hopen hcause hwait => finalize_waiting own rev hopen hcause hwait

end Sys2Proof.Machine

/-! PROOFS. O19: MX.ISSUE and DMA.START, from the frame of an instruction that issues to what enters the queue or the slot. -/

namespace Sys2Proof.Machine

/-! ### Groups and clusters read back -/

@[simp] theorem State.group?_putGroup_self (s : State) (gk : Nat) (g : Group) : (s.putGroup gk g).group? gk = some g :=
  Bank.find?_put_self _ _ _

theorem State.group?_putGroup_ne (s : State) {j k : Nat} (g : Group) (h : j ≠ k) : (s.putGroup k g).group? j = s.group? j :=
  Bank.find?_put_ne _ _ _ _ h

@[simp] theorem State.core_putGroup (s : State) (gk ck : Nat) (g : Group) : (s.putGroup gk g).core ck = s.core ck := rfl

@[simp] theorem State.cluster_putCluster_self (s : State) (c : Nat) (x : Cluster) : (s.putCluster c x).cluster c = x :=
  Bank.get_put_self _ _ _ _

theorem State.cluster_putCluster_ne (s : State) {j k : Nat} (x : Cluster) (h : j ≠ k) : (s.putCluster k x).cluster j = s.cluster j :=
  Bank.get_put_ne _ _ _ h

/-! ### The frame of an instruction that issues (R203, R210, R211) -/

section Runs

variable {s : State} {gid : Gid} {w : BitVec 64} {regs : List Nat} {g : Group}

/-- R211: a well-formed thread command carries a word of its row's opcode. -/
theorem opcOf_of_wf {i : Instr} {o : Nat} (ho : i.opcode? = some (o, w)) (hwf : i.wf = true) : opcOf w = o := by
  have hshift : (w >>> 56).toNat = o := by simpa [Instr.wf, ho] using hwf
  have hlt : w.toNat >>> 56 < 256 := by have := w.isLt; omega
  simpa [opcOf, Nat.mod_eq_of_lt hlt] using hshift

/-- An instruction that issues, whose sector is fetched and whose registers its group has, runs its body. -/
theorem runInstr_runs {o : Nat} (body : Group → State → Res) (hop : opcOf w = o) (h : Safety.runs s gid w regs g) :
    runInstr o gid w regs body s =
      .next ((body g (Safety.fetched s gid g)).finish (gidKey gid) (Safety.fetched s gid g)) := by
  obtain ⟨g0, hgroup, hissues, rfl, hfetch, hregs⟩ := h
  simp only [runInstr, if_pos hop, runWord, hgroup, hissues, if_true, hfetch, hregs]
  rfl

@[simp] theorem fetched_queue (s : State) (gid : Gid) (g : Group) :
    ((Safety.fetched s gid g).core (coreKeyOf (gidKey gid))).queue = (s.core (coreKeyOf (gidKey gid))).queue := by
  simp [Safety.fetched, State.fetched]

theorem fetched_waiting (s : State) (gid : Gid) (g : Group) :
    ((Safety.fetched s gid g).core (coreKeyOf (gidKey gid))).waiting = (s.core (coreKeyOf (gidKey gid))).waiting := by
  simp [Core.waiting]

theorem fetched_cluster (s : State) (gid : Gid) (g : Group) (c : Nat) : (Safety.fetched s gid g).cluster c = s.cluster c := rfl

end Runs

/-! ### MX.ISSUE (R151, R220, R221) -/

section MxIssue

variable {s t : State} {gid : Gid} {w : BitVec 64} {g : Group} {l : Nat} {d : BitVec 512}
  (hwf : (Instr.mxIssue gid w).wf = true) (hruns : Safety.runs s gid w [srcAOf w] g) (ht : t = Safety.fetched s gid g)
  (hl : lowest g.active = some l) (hacting : (g.acting w).getLsbD l = true)
  (hd : t.checkDesc (gidKey gid) g (g.reg l (srcAOf w)).toNat = .ok d)
include hwf hruns ht hl hacting hd

/-- The counter of the token and the queue have room: the command enters both. -/
theorem exec_mxIssue_room (hroom : (s.core (coreKeyOf (gidKey gid))).waiting < 8) (htok : g.mxTok.get 0 (tokenOf w) ≠ 63) :
    exec (.mxIssue gid w) s = .next
      ((t.enqueueMx (gidKey gid) g (g.reg l (srcAOf w)).toNat (tokenOf w) d).1.putGroup (gidKey gid)
        (Safety.goOn { g with mxTok := g.mxTok.set 0 (tokenOf w) (g.mxTok.get 0 (tokenOf w) + 1) })) := by
  subst ht
  have hopen : ¬(8 ≤ ((Safety.fetched s gid g).core (coreKeyOf (gidKey gid))).waiting ∨ g.mxTok.get 0 (tokenOf w) = 63) := by
    rw [fetched_waiting]
    exact not_or.mpr ⟨hroom.not_ge, htok⟩
  refine (runInstr_runs _ (opcOf_of_wf rfl hwf) hruns).trans ?_
  simp only [hl, hacting, Bool.not_true, Bool.false_eq_true, if_false, hd, if_neg hopen]
  rfl

/-- With no room the group stalls at the instruction. -/
theorem exec_mxIssue_full (hfull : 8 ≤ (s.core (coreKeyOf (gidKey gid))).waiting ∨ g.mxTok.get 0 (tokenOf w) = 63) :
    exec (.mxIssue gid w) s = .next (t.putGroup (gidKey gid) { g with status := .mxStall }) := by
  subst ht
  rw [← fetched_waiting s gid g] at hfull
  refine (runInstr_runs _ (opcOf_of_wf rfl hwf) hruns).trans ?_
  simp only [hl, hacting, Bool.not_true, Bool.false_eq_true, if_false, hd, if_pos hfull]
  rfl

end MxIssue

/-! ### DMA.START (R303, R304) -/

/-- The slot of a transfer that group `gk` starts. -/
def startedSlot (gk : Nat) (g : Group) (token d : Nat) : DmaSlot :=
  { desc := BitVec.ofNat 512 d, gid := gk, token := token, launch := g.launch, ctx := g.ctx, spec := g.spec }

theorem exec_dmaStart_room {s t : State} {gid : Gid} {w : BitVec 64} {g : Group} {l i d : Nat}
    (hwf : (Instr.dmaStart gid w).wf = true) (hruns : Safety.runs s gid w [srcAOf w] g) (ht : t = Safety.fetched s gid g)
    (hl : lowest g.active = some l) (hacting : (g.acting w).getLsbD l = true) (halign : (g.reg l (srcAOf w)).toNat % 64 = 0)
    (hscratch : (g.reg l (srcAOf w)).toNat + 64 ≤ scratchBytes (t.layoutOf g.ctx))
    (hd : d = leNat (t.storeView (clusterKeyOf (gidKey gid)) g.spec (g.reg l (srcAOf w)).toNat 64)) (hgood : badStream d = false)
    (hrange : streamRange (scratchBytes (t.layoutOf g.ctx)) d = none)
    (hslot : (s.cluster (clusterKeyOf (gidKey gid))).freeSlot = some i)
    (hshare : (s.cluster (clusterKeyOf (gidKey gid))).slotsOf g.launch < t.streamsOf g) (htok : g.dmaTok.get 0 (tokenOf w) ≠ 63) :
    exec (.dmaStart gid w) s = .next ((t.putCluster (clusterKeyOf (gidKey gid))
        { s.cluster (clusterKeyOf (gidKey gid)) with
          dma := (s.cluster (clusterKeyOf (gidKey gid))).dma.put i (startedSlot (gidKey gid) g (tokenOf w) d) }).putGroup (gidKey gid)
      (Safety.goOn { g with dmaTok := g.dmaTok.set 0 (tokenOf w) (g.dmaTok.get 0 (tokenOf w) + 1) })) := by
  subst ht
  have hroom : ¬((Safety.fetched s gid g).streamsOf g ≤ (s.cluster (clusterKeyOf (gidKey gid))).slotsOf g.launch ∨
      g.dmaTok.get 0 (tokenOf w) = 63) := not_or.mpr ⟨hshare.not_ge, htok⟩
  refine (runInstr_runs _ (opcOf_of_wf rfl hwf) hruns).trans ?_
  simp only [hl, hacting, Bool.not_true, Bool.false_eq_true, if_false, halign, ne_eq, not_true, hscratch.not_gt, ← hd, hgood, hrange,
    fetched_cluster, hslot, if_neg hroom]
  rfl

/-- Settles O19: each instruction is one branch of its body, and the frame of an instruction leaves queues and clusters alone. -/
theorem issueToEngines : Obligations.IssueToEngines := by
  refine ⟨?mxIssue, ?dmaStart⟩
  case mxIssue =>
    intro gid w s g l d t hwf hruns ht hl hacting hd
    refine ⟨fun hroom htok => ?room, fun hfull => ?full⟩
    case room =>
      refine ⟨_, exec_mxIssue_room hwf hruns ht hl hacting hd hroom htok, State.group?_putGroup_self _ _ _, ?_⟩
      subst ht
      exact ⟨rfl, _, by simp [State.enqueueMx]; rfl, rfl, rfl, rfl, rfl, rfl⟩
    case full =>
      refine ⟨_, exec_mxIssue_full hwf hruns ht hl hacting hd hfull, State.group?_putGroup_self _ _ _, ?_⟩
      subst ht
      simp
  case dmaStart =>
    intro gid w s g l i d t hwf hruns ht hl hacting halign hscratch hd hgood hrange hslot hshare htok
    refine ⟨_, startedSlot (gidKey gid) g (tokenOf w) d,
      exec_dmaStart_room hwf hruns ht hl hacting halign hscratch hd hgood hrange hslot hshare htok, ?_, rfl, rfl, rfl, rfl,
      State.group?_putGroup_self _ _ _, ?_⟩
    · exact (congrArg (fun x : Cluster => x.dma.find? i) (State.cluster_putCluster_self _ _ _)).trans (Bank.find?_put_self _ _ _)
    · subst ht
      rfl

end Sys2Proof.Machine

/-! PROOFS. O21: how a cluster, a core and a thread group begin to run a kernel. -/

namespace Sys2Proof

/-! ### Ranges of a memory -/

theorem Bank.find?_filter_dropped {α : Type} (b : Bank α) (p : Nat × α → Bool) {k : Nat} (h : ∀ v, p (k, v) = false) :
    Bank.find? (b.filter p) k = none := by
  induction b with
  | nil => rfl
  | cons x r ih =>
    obtain ⟨j, v⟩ := x
    rw [List.filter_cons]
    split
    case isTrue hp =>
      have hne : j ≠ k := by rintro rfl; simp [h v] at hp
      simpa [Bank.find?, hne] using ih
    case isFalse => exact ih

theorem Bank.find?_filter_kept {α : Type} (b : Bank α) (p : Nat × α → Bool) {k : Nat} (h : ∀ v, p (k, v) = true) :
    Bank.find? (b.filter p) k = Bank.find? b k := by
  induction b with
  | nil => rfl
  | cons x r ih =>
    obtain ⟨j, v⟩ := x
    rw [List.filter_cons]
    split
    case isTrue => simp [Bank.find?, ih]
    case isFalse hp =>
      have hne : j ≠ k := by rintro rfl; exact hp (h v)
      simpa [Bank.find?, hne] using ih

namespace Machine

theorem memGet_memZero_inside (m : List Host.Cell) {a n b : Nat} (h : a ≤ b ∧ b < a + n) : memGet (memZero m a n) b = 0 :=
  congrArg (·.getD 0) (Bank.find?_filter_dropped m _ fun _ => by simp [h])

theorem memGet_memZero_outside (m : List Host.Cell) {a n b : Nat} (h : b < a ∨ a + n ≤ b) : memGet (memZero m a n) b = memGet m b :=
  congrArg (·.getD 0) (Bank.find?_filter_kept m _ fun _ => by
    rcases h with h | h
    · simp [h.not_ge]
    · simp [h.not_gt])

/-! ### CLUSTER_STORE_CLEAR (R282) -/

/-- The cluster as another context takes it. -/
def Cluster.clearedFor (x : Cluster) (k : Nat) : Cluster := { x with ctx := some k, cache := [], shadow := [], cleared := true }

theorem exec_clusterStoreClear {cl : Fin 1088} {launch : Nat} {s : State} {l : Launch} (hlaunch : s.launch? launch = some l)
    (hview : (s.logicalOf (ctxVi l.ctx) cl.val).isSome = true) (hctx : (s.cluster cl.val).ctx ≠ some l.ctx)
    (hgroups : s.groups.any (fun g => clusterKeyOf g.1 == cl.val) = false) (hcond : (s.cluster cl.val).cond = none)
    (hgo : l.stopped = false) : exec (.clusterStoreClear cl launch) s =
      .next (({ s with mem.store := memZero s.mem.store (cl.val * 4194304) 4194304 } : State).putCluster cl.val
        ((s.cluster cl.val).clearedFor l.ctx)) := by
  have hmay : ((s.logicalOf (ctxVi l.ctx) cl.val).isNone || (s.cluster cl.val).ctx == some l.ctx
      || s.groups.any (fun g => clusterKeyOf g.1 == cl.val) || (s.cluster cl.val).cond.isSome || l.stopped) = false := by
    simp only [← Option.not_isSome, hview, beq_eq_false_iff_ne.mpr hctx, hgroups, hcond, hgo]
    rfl
  show execClusterStoreClear cl launch s = _
  simp only [execClusterStoreClear, hlaunch, hmay, Bool.false_eq_true, if_false]
  rfl

/-! ### KERNEL_START_CORE (R171, R204, R241, R285) -/

/-- The core as a launch of context `k` finds it. -/
def Core.startedFor (core : Core) (launch k now : Nat) (mrec : Bool) : Core :=
  let same := core.lastCtx == some k
  { core with kernel := some launch, lastCtx := some k, kStart := now, l0d := [], l0i := [], mrec := mrec,
              rows := if same then core.rows else [], rowScale := if same then core.rowScale else [],
              lacc := if same then core.lacc else [], rb := if same then core.rb else [] }

theorem exec_kernelStartCore {c : Cid} {launch : Nat} {s : State} {l : Launch} (hlaunch : s.launch? launch = some l)
    (hgo : l.stopped = false) (hkernel : (s.core (cidKey c)).kernel = none) (hready : s.clusterReady (cidKey c / 4) l.ctx = true)
    (hresidents : s.residents (cidKey c) = []) : exec (.kernelStartCore c launch) s =
      .next (((s.putCore (cidKey c)
          ((s.core (cidKey c)).startedFor launch l.ctx (s.coreCycles (cidKey c)) (s.recordEnabled l.ctx 0))).putCluster
            (cidKey c / 4) { s.cluster (cidKey c / 4) with cache := [] }).settlePrefetch (s.cacheUnits l.ctx) (cidKey c / 4)) := by
  have hmay : (l.stopped || (s.core (cidKey c)).kernel == some launch || !s.clusterReady (cidKey c / 4) l.ctx
      || !(s.residents (cidKey c)).isEmpty || !((s.core (cidKey c)).kernel.elim true (s.coreDone (cidKey c)))) = false := by
    rw [hgo, hkernel, hready, hresidents]
    rfl
  show execKernelStartCore c launch s = _
  simp only [execKernelStartCore, hlaunch, hmay, Bool.false_eq_true, if_false]
  rfl

theorem State.settlePrefetch_frame (s : State) (units cl : Nat) : s.settlePrefetch units cl =
    { s with cores := (s.settlePrefetch units cl).cores, clusters := (s.settlePrefetch units cl).clusters,
             mgmt := (s.settlePrefetch units cl).mgmt } := by
  dsimp only [State.settlePrefetch]
  split <;> rfl

@[simp] theorem State.core_settlePrefetch (s : State) (units cl k : Nat) : (s.settlePrefetch units cl).core k = s.core k := by
  dsimp only [State.settlePrefetch]
  split <;> rfl

@[simp] theorem State.core_putCluster (s : State) (cl k : Nat) (x : Cluster) : (s.putCluster cl x).core k = s.core k := rfl

/-- What the cluster cache holds does not change as prefetches are classified. -/
@[simp] theorem State.cache_settlePrefetch (s : State) (units cl : Nat) :
    ((s.settlePrefetch units cl).cluster cl).cache = (s.cluster cl).cache := by
  dsimp only [State.settlePrefetch]
  split
  · show ((s.putCluster cl _).cluster cl).cache = _
    rw [State.cluster_putCluster_self]
  · rfl

/-! ### GROUP_START (R205, R408) -/

/-- A group as it starts, speculative also where its cluster still merges the stores of its task (R276). -/
def startedGroup (x : Cluster) (l : Launch) (launch index : Nat) (k : Kernel) : Group :=
  if x.merging && l.cond.any (fun c => x.cond.any (sameCond c)) then { startGroup l launch index k with spec := true }
  else startGroup l launch index k

theorem startedGroup_frame (x : Cluster) (l : Launch) (launch index : Nat) (k : Kernel) :
    startedGroup x l launch index k = { startGroup l launch index k with spec := (startedGroup x l launch index k).spec } := by
  unfold startedGroup
  split <;> rfl

/-- Group `g` of a launch is placed under `gk`: the launch notes it, and cluster `cl` takes on the condition of a speculative task. -/
def State.placed (s : State) (launch : Nat) (l : Launch) (index cl gk : Nat) (g : Group) : State :=
  let t := State.putGroup { s with host.launches := s.host.launches.put launch { l with started := l.started ++ [index] } } gk g
  if l.cond.isSome && l.outcome.isNone then t.putCluster cl { s.cluster cl with cond := l.cond } else t

section Placed

variable (s : State) (launch : Nat) (l : Launch) (index cl gk : Nat) (g : Group)

theorem State.placed_groups : (s.placed launch l index cl gk g).groups = s.groups.put gk g := by
  dsimp only [State.placed]
  split <;> rfl

theorem State.placed_launches : (s.placed launch l index cl gk g).host.launches =
    s.host.launches.put launch { l with started := l.started ++ [index] } := by
  dsimp only [State.placed]
  split <;> rfl

theorem State.group?_placed_self : (s.placed launch l index cl gk g).group? gk = some g :=
  (congrArg (Bank.find? · gk) (s.placed_groups launch l index cl gk g)).trans (Bank.find?_put_self _ _ _)

theorem State.group?_placed_ne {j : Nat} (h : j ≠ gk) : (s.placed launch l index cl gk g).group? j = s.group? j :=
  (congrArg (Bank.find? · j) (s.placed_groups launch l index cl gk g)).trans (Bank.find?_put_ne _ _ _ _ h)

theorem State.launch?_placed :
    (s.placed launch l index cl gk g).launch? launch = some { l with started := l.started ++ [index] } :=
  (congrArg (Bank.find? · launch) (s.placed_launches launch l index cl gk g)).trans (Bank.find?_put_self _ _ _)

end Placed

theorem exec_groupStart {launch index : Nat} {s : State} {l : Launch} {k : Kernel} {cl n g : Nat}
    (hlaunch : s.launch? launch = some l) (hgo : l.stopped = false) (hindex : index < l.groups)
    (hfresh : l.started.contains index = false)
    (hturn : index < 4 * s.clusterCount (ctxVi l.ctx) ∨ l.started.contains (index - 4 * s.clusterCount (ctxVi l.ctx)) = true)
    (hplace : s.placeOf (ctxVi l.ctx) index = some (cl, n)) (hkernelOf : s.kernelOf l = some k)
    (hpresent : s.health.absent.contains cl = false) (hfree : s.freeGroup (cl * 4 + n) = some g)
    (hkernel : (s.core (cl * 4 + n)).kernel = some launch) (hready : s.clusterReady cl l.ctx = true)
    (hfits : condFits (s.cluster cl) l = true) (hroom : (s.residents (cl * 4 + n)).length < groupCapacity (roundNreg k.nreg)) :
    exec (.groupStart launch index) s = .next (s.placed launch l index cl (groupKeyOn (cl * 4 + n) g)
      (startedGroup (s.cluster cl) l launch index k)) := by
  have hstarts : (l.stopped || decide (l.groups ≤ index) || l.started.contains index
      || (decide (4 * s.clusterCount (ctxVi l.ctx) ≤ index)
        && !l.started.contains (index - 4 * s.clusterCount (ctxVi l.ctx)))) = false := by
    rw [hgo, hfresh, decide_eq_false hindex.not_ge]
    rcases hturn with hturn | hturn
    · rw [decide_eq_false hturn.not_ge]
      rfl
    · rw [hturn]
      simp
  have hcore : ((s.core (cl * 4 + n)).kernel == some launch && s.clusterReady cl l.ctx && condFits (s.cluster cl) l
      && decide ((s.residents (cl * 4 + n)).length < groupCapacity (roundNreg k.nreg))) = true := by
    simp [hkernel, hready, hfits, hroom]
  show execGroupStart launch index s = _
  simp only [execGroupStart, hlaunch, hstarts, Bool.false_eq_true, if_false, hplace, hkernelOf, hpresent, hfree, hcore, if_true]
  rfl

/-- Settles O21: a clear, a start of a core and a start of a group are each one branch, and what they put reads back. -/
theorem kernelsAndGroupsStart : Obligations.KernelsAndGroupsStart := by
  refine ⟨?clear, ?core, ?group⟩
  case clear =>
    intro cl launch s l hlaunch hview hctx hgroups hcond hgo
    have hcluster := State.cluster_putCluster_self
      { s with mem.store := memZero s.mem.store (cl.val * 4194304) 4194304 } cl.val ((s.cluster cl.val).clearedFor l.ctx)
    refine ⟨_, exec_clusterStoreClear hlaunch hview hctx hgroups hcond hgo, fun o ho => ?_, fun a ha => ?_,
      congrArg Cluster.ctx hcluster, congrArg Cluster.cache hcluster, congrArg Cluster.shadow hcluster,
      fun k hk => State.cluster_putCluster_ne _ _ hk, rfl, rfl, rfl⟩
    · exact memGet_memZero_inside s.mem.store (by omega)
    · exact memGet_memZero_outside s.mem.store ha
  case core =>
    intro c launch s l hlaunch hgo hkernel hready hresidents
    refine ⟨_, exec_kernelStartCore hlaunch hgo hkernel hready hresidents, ?_⟩
    simp only [State.core_settlePrefetch, State.cache_settlePrefetch, State.cluster_putCluster_self, State.core_putCluster,
      State.core_putCore_self]
    refine ⟨rfl, rfl, rfl, rfl, trivial, fun hctx => ?_, fun k hk => State.core_putCore_ne s _ hk, State.settlePrefetch_frame _ _ _⟩
    simp [Core.startedFor, hctx]
  case group =>
    intro launch index s l k cl n g hlaunch hgo hindex hfresh hturn hplace hkernelOf hpresent hfree hkernel hready hfits hroom
    refine ⟨_, _, exec_groupStart hlaunch hgo hindex hfresh hturn hplace hkernelOf hpresent hfree hkernel hready hfits hroom,
      State.group?_placed_self _ _ _ _ _ _ _, ?_⟩
    rw [startedGroup_frame]
    exact ⟨rfl, rfl, rfl, rfl, rfl, rfl, rfl, rfl, rfl, rfl, rfl, State.launch?_placed _ _ _ _ _ _ _,
      fun j hj => State.group?_placed_ne _ _ _ _ _ _ _ hj⟩

end Machine

end Sys2Proof

/-! PROOFS. O23: what a matrix product leaves in its core. -/

namespace Sys2Proof.Machine

/-! ### The queue and the weight cells of a core -/

@[simp] theorem Core.setCmd_queue (c : Core) (j : Nat) (x : MxCmd) : (c.setCmd j x).queue = c.queue.set j x := rfl
@[simp] theorem Core.setCmd_lacc (c : Core) (j : Nat) (x : MxCmd) : (c.setCmd j x).lacc = c.lacc := rfl
@[simp] theorem Core.setCmd_rows (c : Core) (j : Nat) (x : MxCmd) : (c.setCmd j x).rows = c.rows := rfl
@[simp] theorem Core.cell_setCmd (c : Core) (j i : Nat) (x : MxCmd) : (c.setCmd j x).cell i = c.cell i := rfl

/-- R146: the release of a use changes the weight-cell buffers alone. -/
theorem Core.releaseUse_frame (c : Core) (i : Nat) : c.releaseUse i =
    { c with cell0 := (c.releaseUse i).cell0, cell1 := (c.releaseUse i).cell1 } := by
  dsimp only [Core.releaseUse, Core.setCell]
  split <;> split <;> rfl

/-- The lane accumulators have no part in the release of a use. -/
theorem Core.releaseUse_withLacc (c : Core) (i : Nat) (l : Bank Word) :
    ({ c with lacc := l } : Core).releaseUse i = { c.releaseUse i with lacc := l } := by
  dsimp only [Core.releaseUse, Core.setCell, Core.cell]
  split <;> split <;> rfl

/-! ### Groups that wait for room wake, and no core changes -/

@[simp] theorem State.core_wakeIssue (s : State) (ck k : Nat) : (s.wakeIssue ck).core k = s.core k := rfl

/-! ### A multiplication that starts (R138, R139, R169) -/

/-- Command `x` behind its multiplication with result `r` at cycle `now`. -/
def MxCmd.multipliedBy (x : MxCmd) (now : Nat) (r : Bank Word × List (Nat × Word) × MxCounts) : MxCmd :=
  let d := x.desc.toNat
  { x.started now (afterMultiply d) with
    counts := x.counts.add { r.2.2 with busy := busyCycles d, macs := usefulMacs d }, undo := r.2.1 }

/-- The product of the head command `x` with its weight-cell buffer. -/
def Core.product (c : Core) (x : MxCmd) : Bank Word × List (Nat × Word) × MxCounts :=
  let d := x.desc.toNat
  mmaBlock d (geoOf d) c.lacc (c.slotOperand d (geoOf d)) ((tileOf (c.cell (x.cell.getD 0)) d).operand)

/-- A read of the row or the column engine without an uncorrectable error. -/
theorem State.multiply_startable {s : State} {ck op j : Nat} {x : MxCmd} (h : (s.core ck).startable [op] = some (j, x)) :
    s.multiply ck op none = (s.putCore ck ((({ s.core ck with lacc := ((s.core ck).product x).1 }).releaseUse (x.cell.getD 0)).setCmd j
      { x.multipliedBy (s.coreCycles ck) ((s.core ck).product x) with released := true })).wakeIssue ck := by
  simp only [State.multiply, h]
  rfl

/-- What such a read leaves behind, said of the engine that both commands share. -/
theorem State.multiply_results {s : State} {ck op j : Nat} {x : MxCmd} (h : (s.core ck).startable [op] = some (j, x)) :
    let u := s.multiply ck op none
    ∃ y, (u.core ck).lacc = ((s.core ck).product x).1 ∧ (u.core ck).queue = (s.core ck).queue.set j y ∧
      y.stage = afterMultiply x.desc.toNat ∧ y.undo = ((s.core ck).product x).2.1 ∧ y.desc = x.desc ∧
      y.counts = x.counts.add { ((s.core ck).product x).2.2 with busy := busyCycles x.desc.toNat, macs := usefulMacs x.desc.toNat } ∧
      (∀ k, k ≠ ck → u.core k = s.core k) ∧
      (u.core ck).cell (x.cell.getD 0) = ((s.core ck).releaseUse (x.cell.getD 0)).cell (x.cell.getD 0) ∧
      (u.core ck).rows = (s.core ck).rows ∧ u = { s with cores := u.cores, groups := u.groups } := by
  simp only [State.multiply_startable h, State.core_wakeIssue, State.core_putCore_self, Core.releaseUse_withLacc]
  refine ⟨{ x.multipliedBy (s.coreCycles ck) ((s.core ck).product x) with released := true }, rfl, ?_, rfl, rfl, rfl, rfl,
    fun k hk => State.core_putCore_ne s _ hk, rfl, ?_, rfl⟩
  · rw [Core.setCmd_queue, Core.releaseUse_frame]
  · rw [Core.setCmd_rows, Core.releaseUse_frame]

/-- R169: the tile that a product from the cluster store takes as its second operand. -/
def State.storeTile (s : State) (cl : Nat) (x : MxCmd) : WTile :=
  let d := x.desc.toNat
  { fmt := dWfmt d, orient := false, payload := leNat (s.localPayload cl x.spec d),
    scales := if dBswEn d then some (leNat (s.localScales cl x.spec d), dBswDir d, dBswBlock d) else none }

/-- R169: the product of the head command `x` from the cluster store. -/
def State.storeProduct (s : State) (c : Cid) (x : MxCmd) : Bank Word × List (Nat × Word) × MxCounts :=
  let d := x.desc.toNat
  mmaBlock d (geoOf d) (s.core (cidKey c)).lacc (s.osOperand c.cluster.val x.spec d (geoOf d)) (s.storeTile c.cluster.val x).operand

theorem exec_mmaOs_startable {s : State} {c : Cid} {j : Nat} {x : MxCmd} (h : (s.core (cidKey c)).startable [4] = some (j, x)) :
    exec (.mmaOs c false) s = .next ((s.putCore (cidKey c) (({ s.core (cidKey c) with lacc := (s.storeProduct c x).1 }).setCmd j
      (x.multipliedBy (s.coreCycles (cidKey c)) (s.storeProduct c x)))).wakeIssue (cidKey c)) := by
  show execMmaOs c false s = _
  simp only [execMmaOs, h]
  rfl

/-- Settles O23: both engines share one multiplication; a product from the cluster store differs in its operands alone. -/
theorem multiplyResults : Obligations.MultiplyResults := by
  refine ⟨?row, ?col, ?store, fun _ _ _ _ _ => rfl⟩
  case row => exact fun c s j x h => ⟨_, (State.multiply_results h).imp fun y hy => ⟨rfl, hy⟩⟩
  case col => exact fun c s j x h => ⟨_, (State.multiply_results h).imp fun y hy => ⟨rfl, hy⟩⟩
  case store =>
    intro c s j x h
    refine ⟨_, x.multipliedBy (s.coreCycles (cidKey c)) (s.storeProduct c x), exec_mmaOs_startable h, ?_⟩
    simp only [State.core_wakeIssue, State.core_putCore_self]
    exact ⟨rfl, rfl, rfl, rfl, rfl, fun k hk => State.core_putCore_ne s _ hk, rfl⟩

end Sys2Proof.Machine

/-! PROOFS. O24 and O25 fail in their clauses on a command that completes. On a core with MREC the command leaves a record in the
record area of its context (R496, R505). That write takes a line of a slice, and where the set is full and the line that leaves it
holds a sector prefetched for a cluster without a cluster cache, that cluster forgets the sector and its element of 40.113 counts it
as unused (Table 9.11). O24 says that every other cluster stays as it was. O25 says that 70.100 rises by the command's saturations
alone; the statement bounds no state, and where a cluster is listed under a number that no cluster has, its element of 40.113 has
the key of 70.100. -/

namespace Sys2Proof.Machine

/-- 16 lines whose home is set 512, that of the record area below (R287); the one used least recently stands in front. -/
def fullSet : List SliceLine := (List.range 16).map (fun i => { sector := 24576 + 4571136 * (i + 1) })

/-- A matrix command of context 0 whose effects are performed. -/
def doneCmd : MxCmd := { desc := 0, addr := 0, group := 0, token := 0, stage := .accDone }

/-- The command is the oldest of core 0, which has MREC. The page tables of context 0, at address 0, map its record area to 2 MiB,
where the control block asks for 16 records; cluster `k` has prefetched the sector of the first line of the full set. -/
def evicting (k : Nat) : State :=
  { cores := [(0, { mrec := true, queue := [doneCmd] })],
    clusters := [(k, { ctx := some 0, prefetched := [24576 + 4571136] })],
    mem := { hbm := [(4096, 0xF2), (4101, 2), (2097120, 1), (2097122, 1), (2097152, 1), (2097153, 32)],
             slices := [(512, fullSet)] },
    host := { ctxs := [(0, { pt := 1 })],
              objects := [(1, { kind := 0, big := true, pages := [0] }), (2, { kind := 0, big := true, pages := [2097152] })] } }

/-- The memories of the state are canonical, its record area is open and lies in the full set, and every line stands in the set of
its home. -/
theorem evicting_sound : Safety.memoryWf (evicting 1) = true ∧
    ((evicting 1).recordCtrl 0).map (·.1) = some (.fast 2097152) ∧ (evicting 1).setOf 0 (.fast 2097152) = 512 ∧
    ∀ x ∈ fullSet, (evicting 1).homeOf (.fast (x.sector / 3 * 256)) = (0, 0) ∧
      (evicting 1).setOf 0 (.fast (x.sector / 3 * 256)) = 512 := by decide +kernel

/-- The record of a command of cluster 0 costs cluster 1 its prefetched sector. -/
theorem exec_evicting_neighbour : ∃ t, exec (.mxCommandComplete ⟨0, 0⟩) (evicting 1) = .next t ∧ (t.cluster 1).prefetched = [] :=
  ⟨_, rfl, by decide +kernel⟩

/-- Refutes O24: cluster 1 does not stay as it was when a command of cluster 0 completes. -/
theorem not_matrixQueueResults : ¬ Obligations.MatrixQueueResults := by
  rintro ⟨-, -, -, -, -, -, -, hcomplete⟩
  obtain ⟨u, hexec, -, hothers⟩ := hcomplete ⟨0, 0⟩ (evicting 1) doneCmd [] rfl rfl
  obtain ⟨t, hrun, hforgot⟩ := exec_evicting_neighbour
  obtain rfl : t = u := Host.Outcome.next.inj (hrun.symm.trans hexec)
  exact absurd (hforgot.symm.trans (congrArg Cluster.prefetched (hothers 1 (by decide)))) (by decide)

/-- A number that no cluster has; `okey 0x40113` of it is `okey 0x70100 0`. -/
def strayCluster : Nat := (0x70100 - 0x40113) * 65536

/-- The command has no saturation, and 70.100 rises by 1. -/
theorem exec_evicting_stray : ∃ t, exec (.mxCommandComplete ⟨0, 0⟩) (evicting strayCluster) = .next t ∧ t.obj 0x70100 0 = 1 :=
  ⟨_, rfl, by decide +kernel⟩

/-- Refutes O25: the unused prefetch of the stray cluster counts in 70.100, to which the command adds nothing. -/
theorem not_epilogueResults : ¬ Obligations.EpilogueResults := by
  rintro ⟨-, -, -, hcomplete, -⟩
  obtain ⟨u, hexec, -, hsaturations, -⟩ := hcomplete ⟨0, 0⟩ (evicting strayCluster) doneCmd [] rfl rfl
  obtain ⟨t, hrun, hcount⟩ := exec_evicting_stray
  obtain rfl : t = u := Host.Outcome.next.inj (hrun.symm.trans hexec)
  exact absurd (hcount.symm.trans hsaturations) (by decide)

end Sys2Proof.Machine

/-! PROOFS. What thread instructions write into their group: registers, predicates and masks read back, and what the frame of an
instruction makes of the result of its body. -/

namespace Sys2Proof.Machine

/-! ### Lanes and masks -/

theorem mem_lanesOf {m : Word} {l : Nat} : l ∈ lanesOf m ↔ l < 32 ∧ m.getLsbD l = true := by simp [lanesOf]

theorem getLsbD_foldl_lanes (L : List Nat) (a : Word) {l : Nat} (hl : l < 32) :
    (L.foldl (fun b t => b ||| (1#32 <<< t)) a).getLsbD l = (a.getLsbD l || decide (l ∈ L)) := by
  induction L generalizing a with
  | nil => simp
  | cons t L ih =>
    have hbit : (1#32 <<< t).getLsbD l = decide (l = t) := by
      rw [BitVec.getLsbD_shiftLeft, BitVec.getLsbD_one, Bool.eq_iff_iff]
      simp only [Bool.and_eq_true, Bool.not_eq_true', decide_eq_true_eq, decide_eq_false_iff_not]
      omega
    rw [List.foldl_cons, ih, BitVec.getLsbD_or, hbit, Bool.or_assoc]
    simp [List.mem_cons]

/-- The mask of some lanes holds exactly those. -/
theorem getLsbD_maskOf (L : List Nat) {l : Nat} (hl : l < 32) : (maskOf L).getLsbD l = decide (l ∈ L) :=
  (getLsbD_foldl_lanes L 0 hl).trans (by simp only [BitVec.ofNat_eq_ofNat, BitVec.getLsbD_zero, Bool.false_or])

/-- The mask of those lanes of a mask that pass a test. -/
theorem getLsbD_maskOf_filter (m : Word) (p : Nat → Bool) {l : Nat} (hl : l < 32) (hm : m.getLsbD l = true) :
    (maskOf ((lanesOf m).filter p)).getLsbD l = p l := by
  rw [getLsbD_maskOf _ hl, Bool.eq_iff_iff]
  simp only [decide_eq_true_eq, List.mem_filter, mem_lanesOf, hl, hm, true_and]

theorem getLsbD_allOnes (b : Bool) {l : Nat} (hl : l < 32) : (if b then 0xFFFFFFFF#32 else 0#32).getLsbD l = b := by
  cases b
  · exact BitVec.getLsbD_zero
  · exact (BitVec.getLsbD_allOnes (v := 32) (i := l)).trans (decide_eq_true hl)

theorem Group.acting_of_inactive {g : Group} (w : Instr64) (h : g.active = 0#32) : g.acting w = 0#32 := by simp [Group.acting, h]

/-! ### Registers and predicates read back -/

theorem Group.reg_setReg (g : Group) (t d l r : Nat) (v : Word) (hd : d < 256) (hr : r < 256) :
    (g.setReg t d v).reg l r = if l = t ∧ r = d then v else g.reg l r := by
  unfold Group.reg Group.setReg
  split
  case isTrue h => rw [h.1, h.2, Bank.get_set_self]
  case isFalse h => exact Bank.get_set_ne _ _ _ _ _ (by omega)

theorem Group.reg_foldl_setReg (L : List Nat) (g : Group) {d r : Nat} (l : Nat) (f : Nat → Word) (hd : d < 256) (hr : r < 256) :
    (L.foldl (fun a t => a.setReg t d (f t)) g).reg l r = if l ∈ L ∧ r = d then f l else g.reg l r := by
  induction L generalizing g with
  | nil => simp
  | cons t L ih =>
    rw [List.foldl_cons, ih, Group.reg_setReg _ _ _ _ _ _ hd hr]
    by_cases hl : l ∈ L <;> by_cases ht : l = t <;> by_cases hrd : r = d <;> simp [hl, ht, hrd]

/-- A write of gD in the lanes of a mask. -/
theorem Group.reg_setLanes (g : Group) (m : Word) {d l r : Nat} (f : Nat → Word) (hd : d < 256) (hl : l < 32) (hr : r < 256) :
    (g.setLanes m d f).reg l r = if m.getLsbD l = true ∧ r = d then f l else g.reg l r := by
  simp [Group.setLanes, Group.reg_foldl_setReg _ _ _ _ hd hr, mem_lanesOf, hl]

theorem Group.setLanes_frame (g : Group) (m : Word) (d : Nat) (f : Nat → Word) :
    g.setLanes m d f = { g with regs := (g.setLanes m d f).regs } := by
  unfold Group.setLanes
  generalize lanesOf m = L
  induction L generalizing g with
  | nil => rfl
  | cons t L ih => exact ih (g.setReg t d (f t))

theorem Group.ureg_setUreg (g : Group) (d u : Nat) (v : Word) (hu : u < 64) :
    (g.setUreg d v).ureg u = if u = d % 64 then v else g.ureg u := by
  unfold Group.ureg Group.setUreg
  rw [Nat.mod_eq_of_lt hu]
  split
  case isTrue h => rw [h, Bank.get_set_self]
  case isFalse h => exact Bank.get_set_ne _ _ _ _ _ h

theorem Group.setPred_frame (g : Group) (p : Nat) (v : Word) : g.setPred p v = { g with preds := (g.setPred p v).preds } := by
  unfold Group.setPred
  split <;> rfl

theorem Group.pred_setPred (g : Group) (p q : Nat) (v : Word) : (g.setPred p v).pred q = if q = p ∧ q ≠ 7 then v else g.pred q := by
  unfold Group.pred Group.setPred
  by_cases hp : p = 7
  · simp only [if_pos hp]
    split <;> split <;> simp_all
  · simp only [if_neg hp]
    split
    case isTrue hq => simp [hq]
    case isFalse hq =>
      split
      case isTrue h => rw [h.1, Bank.get_set_self]
      case isFalse h => exact Bank.get_set_ne _ _ _ _ _ fun e => h ⟨e, hq⟩

/-- A write of pD in the lanes of a mask; p7 stays. -/
theorem Group.pred_setPredLanes (g : Group) (m v : Word) (p q l : Nat) (hl : l < 32) :
    ((g.setPredLanes m p v).pred q).getLsbD l = if q = p ∧ q ≠ 7 ∧ m.getLsbD l = true then v.getLsbD l else (g.pred q).getLsbD l := by
  rw [Group.setPredLanes, Group.pred_setPred]
  by_cases h : q = p ∧ q ≠ 7
  · obtain ⟨rfl, h7⟩ := h
    simp only [h7, ne_eq, not_false_eq_true, true_and, if_true, BitVec.getLsbD_or, BitVec.getLsbD_and, BitVec.getLsbD_not, hl,
      decide_true, Bool.true_and]
    cases m.getLsbD l <;> simp
  · rw [if_neg h, if_neg fun hall => h ⟨hall.1, hall.2.1⟩]

/-! ### A group that goes on -/

theorem Group.countInstr_frame (g : Group) : g.countInstr = { g with selfWait := g.countInstr.selfWait } := by
  unfold Group.countInstr Group.disarm
  split
  · split <;> rfl
  · rfl

theorem goOn_frame (g : Group) : Safety.goOn g = { g with selfWait := g.countInstr.selfWait, pc := g.pc + 8 } :=
  congrArg (fun h : Group => { h with pc := g.pc + 8 }) g.countInstr_frame

/-- Registers, predicates and the latch do not reach the self-wait detector. -/
theorem goOn_registers (g : Group) (regs preds uregs : Bank Word) (latch : BitVec 64) :
    Safety.goOn { g with regs := regs, preds := preds, uregs := uregs, latch := latch } =
      { g.countInstr with regs := regs, preds := preds, uregs := uregs, latch := latch, pc := g.pc + 8 } := by
  unfold Safety.goOn Group.countInstr Group.disarm
  dsimp only
  split
  · split <;> rfl
  · rfl

/-- A write of registers alone. -/
theorem goOn_writes (g : Group) (regs uregs : Bank Word) : Safety.goOn { g with regs := regs, uregs := uregs } =
    { g.countInstr with regs := regs, uregs := uregs, pc := g.pc + 8 } := by
  rw [goOn_registers g regs g.preds uregs g.latch, g.countInstr_frame]

/-- A write of predicates alone. -/
theorem goOn_preds (g : Group) (preds : Bank Word) : Safety.goOn { g with preds := preds } =
    { g.countInstr with preds := preds, pc := g.pc + 8 } := by
  rw [goOn_registers g g.regs preds g.uregs g.latch, g.countInstr_frame]

/-- A write of registers and predicates. -/
theorem goOn_regs_preds (g : Group) (regs preds : Bank Word) : Safety.goOn { g with regs := regs, preds := preds } =
    { g.countInstr with regs := regs, preds := preds, pc := g.pc + 8 } := by
  rw [goOn_registers g regs preds g.uregs g.latch, g.countInstr_frame]

/-- A write of uniform registers alone. -/
theorem goOn_uregs (g : Group) (uregs : Bank Word) : Safety.goOn { g with uregs := uregs } =
    { g.countInstr with uregs := uregs, pc := g.pc + 8 } := by
  rw [goOn_registers g g.regs g.preds uregs g.latch, g.countInstr_frame]

/-- A write of registers and the latch. -/
theorem goOn_writes_latch (g : Group) (regs uregs : Bank Word) (latch : BitVec 64) :
    Safety.goOn { g with regs := regs, uregs := uregs, latch := latch } =
      { g.countInstr with regs := regs, uregs := uregs, latch := latch, pc := g.pc + 8 } := by
  rw [goOn_registers g regs g.preds uregs latch, g.countInstr_frame]

theorem regs_goOn (g : Group) : (Safety.goOn g).regs = g.regs := by rw [goOn_frame]
theorem uregs_goOn (g : Group) : (Safety.goOn g).uregs = g.uregs := by rw [goOn_frame]
theorem preds_goOn (g : Group) : (Safety.goOn g).preds = g.preds := by rw [goOn_frame]

@[simp] theorem reg_goOn (g : Group) (l r : Nat) : (Safety.goOn g).reg l r = g.reg l r := by rw [goOn_frame]; rfl
@[simp] theorem ureg_goOn (g : Group) (u : Nat) : (Safety.goOn g).ureg u = g.ureg u := by rw [goOn_frame]; rfl
@[simp] theorem pred_goOn (g : Group) (p : Nat) : (Safety.goOn g).pred p = g.pred p := by rw [goOn_frame]; rfl

/-! ### What an instruction leaves behind -/

section Leaves

variable {s : State} {gid : Gid} {w : BitVec 64} {regs : List Nat} {g h : Group} {c : Instr} {o : Nat}
  {body : Group → State → Res}

theorem fetched_core (s : State) (gid : Gid) (g : Group) (k : Nat) :
    (Safety.fetched s gid g).core k = { s.core k with l0i := ((Safety.fetched s gid g).core k).l0i } := by
  by_cases hk : k = coreKeyOf (gidKey gid)
  · subst hk
    simp [Safety.fetched, State.fetched]
  · simp [Safety.fetched, State.fetched, State.core_putCore_ne _ _ hk]

/-- Only the group and the instruction cache of its core have changed. -/
theorem leaves_of_exec (hexec : exec c s = .next ((Safety.fetched s gid g).putGroup (gidKey gid) h)) : Safety.leaves c gid s h :=
  ⟨_, hexec, rfl, fetched_core s gid g, fun _ hk => (State.group?_putGroup_ne _ _ hk).trans (State.group?_putGroup_ne _ _ hk),
    State.group?_putGroup_self _ _ _⟩

variable (hexec : exec c s = runInstr o gid w regs body s) (ho : c.opcode? = some (o, w)) (hwf : c.wf = true)
  (hruns : Safety.runs s gid w regs g)
include hexec ho hwf hruns

theorem exec_runs : exec c s = .next ((body g (Safety.fetched s gid g)).finish (gidKey gid) (Safety.fetched s gid g)) :=
  hexec.trans (runInstr_runs body (opcOf_of_wf ho hwf) hruns)

theorem leaves_of_body
    (hbody : (body g (Safety.fetched s gid g)).finish (gidKey gid) (Safety.fetched s gid g) =
      (Safety.fetched s gid g).putGroup (gidKey gid) h) : Safety.leaves c gid s h :=
  leaves_of_exec ((exec_runs hexec ho hwf hruns).trans (congrArg Host.Outcome.next hbody))

/-- A body that goes on in a changed state. -/
theorem exec_next {v : State} (hbody : body g (Safety.fetched s gid g) = .next v h) :
    exec c s = .next (v.putGroup (gidKey gid) (Safety.goOn h)) :=
  (exec_runs hexec ho hwf hruns).trans (congrArg (fun r => Host.Outcome.next (Res.finish (gidKey gid) _ r)) hbody)

/-- A body that stays at the instruction in a changed state. -/
theorem exec_hold {v : State} (hbody : body g (Safety.fetched s gid g) = .hold v h) :
    exec c s = .next (v.putGroup (gidKey gid) h) :=
  (exec_runs hexec ho hwf hruns).trans (congrArg (fun r => Host.Outcome.next (Res.finish (gidKey gid) _ r)) hbody)

/-- A body that finds a precise fault. -/
theorem exec_fault {f : FaultInfo} (hbody : body g (Safety.fetched s gid g) = .fault f) :
    exec c s = .next ((Safety.fetched s gid g).park (gidKey gid) f) :=
  (exec_runs hexec ho hwf hruns).trans (congrArg (fun r => Host.Outcome.next (Res.finish (gidKey gid) _ r)) hbody)

theorem leaves_next (hbody : body g (Safety.fetched s gid g) = .next (Safety.fetched s gid g) h) :
    Safety.leaves c gid s (Safety.goOn h) :=
  leaves_of_body hexec ho hwf hruns (hbody ▸ rfl)

end Leaves

/-! ### A group that parks (R230, R232) -/

theorem State.hostOnly_enterFault (s : State) (c : Ctx) (r : FaultRec) : (s.enterFault c r).hostOnly s :=
  (State.hostOnly_event _ _ _).trans
    ((State.hostOnly_ringVector _ _ _ _).trans (((State.hostOnly.refl s).setMem _).setHost _))

/-- Writing a fault record reaches the host interface, host memory and a counter alone. -/
theorem State.writeFault_frame (s : State) (r : FaultRec) : s.writeFault r =
    { s with mgmt := (s.writeFault r).mgmt, mem := (s.writeFault r).mem, host := (s.writeFault r).host } := by
  unfold State.writeFault
  split
  · split
    · exact (State.hostOnly_enterFault s _ r).frame
    · rfl
  · rfl

theorem State.ignoreReplay_idle (s : State) {g : Group} (h : g.status = .parked → g.replay = none) : s.ignoreReplay g = s := by
  unfold State.ignoreReplay
  split
  case h_1 x hs hx => exact absurd (hx.symm.trans (h hs)) (Option.some_ne_none x)
  case h_2 => rfl

/-- The group as it parks with a record. -/
def Group.parkedBy (g : Group) (r : FaultRec) (elapsed : Nat) : Group :=
  { g with status := .parked, record := some r, selfWait := { g.selfWait with start := elapsed }, replay := none }

/-- A group without a pending replay parks with a record of the fault; of the rest, the host interface, host memory and counters
change. -/
theorem State.park_idle (s : State) {gk : Nat} {g : Group} (f : FaultInfo) (hg : s.group? gk = some g)
    (hidle : g.status = .parked → g.replay = none) : ∃ r n, r.info = f ∧
    s.park gk f = { s with groups := s.groups.put gk (g.parkedBy r n), mgmt := (s.park gk f).mgmt, mem := (s.park gk f).mem,
                           host := (s.park gk f).host } := by
  refine ⟨s.mkFault gk g f (s.nextFaultSeq g.ctx), if g.status = .parked then g.selfWait.start
    else s.dieCycles (dieOfCluster (clusterKeyOf gk)) - g.selfWait.start, rfl, ?_⟩
  simp only [State.park, hg, State.ignoreReplay_idle _ hidle]
  rw [State.writeFault_frame, State.onCtx_frame]
  rfl

theorem State.group?_park_idle {s : State} {gk : Nat} {g : Group} (f : FaultInfo) (hg : s.group? gk = some g)
    (hidle : g.status = .parked → g.replay = none) : ∃ r n, r.info = f ∧ (s.park gk f).group? gk = some (g.parkedBy r n) := by
  obtain ⟨r, n, hinfo, hpark⟩ := s.park_idle f hg hidle
  refine ⟨r, n, hinfo, ?_⟩
  rw [hpark]
  exact Bank.find?_put_self _ _ _

theorem status_of_runs {s : State} {gid : Gid} {w : BitVec 64} {regs : List Nat} {g : Group} (h : Safety.runs s gid w regs g) :
    g.status = .running := by
  obtain ⟨g0, -, hissues, rfl, -⟩ := h
  simp only [State.issues, Bool.and_eq_true, beq_iff_eq] at hissues
  obtain ⟨⟨⟨hstatus, -⟩, -⟩, -⟩ := hissues
  exact hstatus

/-- The state in which an instruction's effect begins holds its group. -/
theorem group?_fetched (s : State) (gid : Gid) (g : Group) : (Safety.fetched s gid g).group? (gidKey gid) = some g :=
  State.group?_putGroup_self _ _ _

/-- A running group that finds a fault parks with a record of it. -/
theorem group?_park_fetched {s : State} {gid : Gid} {g : Group} (f : FaultInfo) (h : g.status = .running) :
    ∃ r n, r.info = f ∧ ((Safety.fetched s gid g).park (gidKey gid) f).group? (gidKey gid) = some (g.parkedBy r n) :=
  State.group?_park_idle f (group?_fetched s gid g) fun hp => absurd (h.symm.trans hp) (by decide)

/-- A step that ends in a precise fault leaves its group parked with it. -/
theorem parks_of_run {c : Instr} {gid : Gid} {w : BitVec 64} {s : State} {regs : List Nat} {g : Group} {r : Res} {cause detail addr : Nat}
    {lanes : Word} (hexec : exec c s = .next (r.finish (gidKey gid) (Safety.fetched s gid g)))
    (hfault : r = .fault (mkFaultInfo cause detail addr lanes)) (hruns : Safety.runs s gid w regs g) :
    ∃ t h q, exec c s = .next t ∧ t.group? (gidKey gid) = some h ∧ h.status = .parked ∧ h.pc = g.pc ∧ h.active = g.active ∧
      h.regs = g.regs ∧ h.preds = g.preds ∧ h.stack = g.stack ∧ h.record = some q ∧ q.info.cause = BitVec.ofNat 8 cause ∧
      q.info.detail = BitVec.ofNat 32 detail ∧ q.info.async = false := by
  subst hfault
  obtain ⟨q, n, hinfo, hgroup⟩ := group?_park_fetched (mkFaultInfo cause detail addr lanes) (status_of_runs hruns)
  refine ⟨_, _, q, hexec, hgroup, rfl, rfl, rfl, rfl, rfl, rfl, rfl, ?_⟩
  rw [hinfo]
  exact ⟨rfl, rfl, rfl⟩

/-- An instruction whose body finds a precise fault parks its group with it. -/
theorem parks_of_fault {c : Instr} {gid : Gid} {w : BitVec 64} {s : State} {regs : List Nat} {ok : Group → Prop} {cause o : Nat}
    {detail : Group → Nat} {body : Group → State → Res} (hexec : exec c s = runInstr o gid w regs body s)
    (ho : c.opcode? = some (o, w)) (hbody : ∀ g t, ok g → t = Safety.fetched s gid g →
      ∃ addr lanes, body g t = .fault (mkFaultInfo cause (detail g) addr lanes)) :
    Safety.parks c gid w s regs ok cause detail := by
  intro g hwf hruns hok
  obtain ⟨_, _, hfault⟩ := hbody g _ hok rfl
  exact parks_of_run (exec_runs hexec ho hwf hruns) hfault hruns

/-- An instruction that changes its group alone: what its body answers says how the group goes on. -/
theorem groupResult_of_body {c : Instr} {gid : Gid} {w : BitVec 64} {s : State} {regs : List Nat} {ok : Group → Prop} {o : Nat}
    {f : Group → Group} {body : Group → State → Res} (hexec : exec c s = runInstr o gid w regs body s)
    (ho : c.opcode? = some (o, w)) (hbody : ∀ g t, ok g → t = Safety.fetched s gid g →
      (body g t).finish (gidKey gid) t = t.putGroup (gidKey gid) (f g)) : Safety.groupResult c gid w s regs ok f :=
  fun g hwf hruns hok => leaves_of_body hexec ho hwf hruns (hbody g _ hok rfl)

end Sys2Proof.Machine

/-! PROOFS. O7, O8: the integer and FP32 instructions share one vector operation; each clause is that operation for its row. -/

namespace Sys2Proof.Machine

/-! ### Results in gD or uD (R212) -/

theorem dstOf_lt (w : Instr64) : dstOf w < 256 := BitVec.isLt _

/-- A result in gD of the acting threads, or once in uD. -/
def writeResult (g : Group) (w : Instr64) (uniform : Bool) (lanes : Nat → Word) (once : Word) : Group :=
  if uniform then g.setUreg (dstOf w) once else g.setLanes (g.acting w) (dstOf w) lanes

section Result

variable (g : Group) (w : Instr64) (uniform : Bool) (on : Prop) [Decidable on] (lanes : Nat → Word) (once : Word)

theorem writeResult_frame : writeResult g w uniform lanes once =
    { g with regs := (writeResult g w uniform lanes once).regs, uregs := (writeResult g w uniform lanes once).uregs } := by
  unfold writeResult
  split
  · rfl
  · rw [Group.setLanes_frame]

theorem reg_writeResult {l r : Nat} (hl : l < 32) (hr : r < 256) : (writeResult g w uniform lanes once).reg l r =
    if uniform = false ∧ (g.acting w).getLsbD l = true ∧ r = dstOf w then lanes l else g.reg l r := by
  unfold writeResult
  split
  case isTrue hu => simp [hu, Group.reg, Group.setUreg]
  case isFalse hu => rw [Group.reg_setLanes _ _ _ (dstOf_lt w) hl hr]; simp [hu]

theorem ureg_writeResult {u : Nat} (hu : u < 64) : (writeResult g w uniform lanes once).ureg u =
    if uniform = true ∧ u = dstOf w % 64 then once else g.ureg u := by
  unfold writeResult
  split
  case isTrue h => rw [Group.ureg_setUreg _ _ _ _ hu]; simp [h]
  case isFalse h => rw [Group.setLanes_frame]; simp [h, Group.ureg]

/-- What an instruction that writes a result leaves; the group stays as it is while the instruction does not act. -/
def resultDone : Group := if on then writeResult g w uniform lanes once else g

theorem resultDone_frame : resultDone g w uniform on lanes once =
    { g with regs := (resultDone g w uniform on lanes once).regs, uregs := (resultDone g w uniform on lanes once).uregs } := by
  unfold resultDone
  split
  · exact writeResult_frame g w uniform lanes once
  · rfl

theorem goOn_resultDone : Safety.goOn (resultDone g w uniform on lanes once) =
    { g.countInstr with regs := (Safety.goOn (resultDone g w uniform on lanes once)).regs,
                        uregs := (Safety.goOn (resultDone g w uniform on lanes once)).uregs, pc := g.pc + 8 } := by
  rw [regs_goOn, uregs_goOn]
  exact (congrArg Safety.goOn (resultDone_frame g w uniform on lanes once)).trans (goOn_writes g _ _)

theorem reg_goOn_resultDone (hidle : ¬on → g.acting w = 0#32) {l r : Nat} (hl : l < 32) (hr : r < 256) :
    (Safety.goOn (resultDone g w uniform on lanes once)).reg l r =
      if uniform = false ∧ (g.acting w).getLsbD l = true ∧ r = dstOf w then lanes l else g.reg l r := by
  rw [reg_goOn, resultDone]
  split
  case isTrue => exact reg_writeResult g w uniform lanes once hl hr
  case isFalse hon => simp [hidle hon]

theorem ureg_goOn_resultDone {u : Nat} (hu : u < 64) : (Safety.goOn (resultDone g w uniform on lanes once)).ureg u =
    if uniform = true ∧ on ∧ u = dstOf w % 64 then once else g.ureg u := by
  rw [ureg_goOn, resultDone]
  split
  case isTrue hon => simp only [ureg_writeResult g w uniform lanes once hu, hon, true_and]
  case isFalse hon => simp only [hon, false_and, and_false, if_false]

end Result

theorem whenActive_writeResult (g : Group) (w : Instr64) (uniform : Bool) (lanes : Nat → Word) (once : Word) (t : State) :
    whenActive g t (.next t (writeResult g w uniform lanes once)) =
      .next t (resultDone g w uniform (g.active ≠ 0#32) lanes once) := by
  unfold whenActive resultDone
  by_cases h : g.active = 0#32 <;> simp [h]

theorem acting_of_idle {g : Group} (w : Instr64) (h : ¬g.active ≠ 0#32) : g.acting w = 0#32 :=
  Group.acting_of_inactive w (not_not.1 h)

/-! ### One vector operation -/

/-- A row of Table 7.5 whose body is one vector operation. -/
theorem aluResult_of_body {c : Instr} {gid : Gid} {w : BitVec 64} {s : State} {o : Nat} {regs : List Nat}
    {f : Word → Word → Word → Word}
    (hexec : exec c s = runInstr o gid w regs (fun gr t => whenActive gr t (.next t (aluWrite gr w f))) s)
    (ho : c.opcode? = some (o, w)) (g : Group) (hwf : c.wf = true) (hruns : Safety.runs s gid w regs g) :
    ∃ h, Safety.leaves c gid s h ∧ h = { g.countInstr with regs := h.regs, uregs := h.uregs, pc := g.pc + 8 } ∧
      (∀ l r, l < 32 → r < 256 → h.reg l r = if isUniform w = false ∧ (g.acting w).getLsbD l = true ∧ r = dstOf w
        then f (g.reg l (srcAOf w)) (g.srcB w l) (g.reg l (srcCOf w)) else g.reg l r) ∧
      (∀ u, u < 64 → h.ureg u = if isUniform w = true ∧ g.active ≠ 0#32 ∧ u = dstOf w % 64
        then f (g.ureg (srcAOf w)) (if srcBImm w then immOf w else g.ureg (srcBOf w)) (g.ureg (srcCOf w)) else g.ureg u) :=
  ⟨_, leaves_next hexec ho hwf hruns (whenActive_writeResult g w (isUniform w) _ _ _), goOn_resultDone g w _ _ _ _,
    fun _ _ => reg_goOn_resultDone g w _ _ _ _ (acting_of_idle w), fun _ => ureg_goOn_resultDone g w _ _ _ _⟩

theorem aluResult_of_exec {c : Instr} {gid : Gid} {w : BitVec 64} {s : State} {o n : Nat} {f : Word → Word → Word → Word}
    (hexec : exec c s = aluInstr o n f gid w s) (ho : c.opcode? = some (o, w)) : Safety.aluResult c gid w s n f :=
  aluResult_of_body hexec ho

/-! ### Unsigned division -/

theorem intDiv_unsigned (opc : Nat) (a : Word) {b : Word} (h : b ≠ 0#32) : intDiv opc false a b = a / b := by
  simp only [intDiv, if_neg h, Bool.false_eq_true, if_false]
  exact BitVec.eq_of_toNat_eq (by simp [Nat.mod_eq_of_lt (lt_of_le_of_lt (Nat.div_le_self _ _) a.isLt)])

theorem intRem_unsigned (a : Word) {b : Word} (h : b ≠ 0#32) : intRem false a b = a % b := by
  simp only [intRem, if_neg h, Bool.false_eq_true, if_false]
  exact BitVec.eq_of_toNat_eq (by simp [Nat.mod_eq_of_lt (lt_of_le_of_lt (Nat.mod_le _ _) a.isLt)])

/-- Settles O7: each row is one vector operation, and MOVI one whose result is IMM16. -/
theorem integerResults : Obligations.IntegerResults := by
  refine ⟨⟨?iadd, ?isub, ?imul, ?imad, ?and, ?or, ?xor, ?not, ?mov, ?popc, ?clz, ?movi⟩,
    ?imulhi, ?imin, ?imax, ?iabs, ?shl, ?shr, ?sar, ?idiv, ?irem, fun _ _ _ => if_pos rfl, fun _ _ => if_pos rfl,
    fun opc a _ hb => intDiv_unsigned opc a hb, fun a _ hb => intRem_unsigned a hb⟩
  case movi => exact fun gid w s => aluResult_of_body (f := fun _ _ _ => immOf w) rfl rfl
  all_goals exact fun gid w s => aluResult_of_exec rfl rfl

/-- Settles O8: each row is one vector operation. -/
theorem floatResults : Obligations.FloatResults := by
  refine ⟨?fadd, ?fsub, ?fmul, ?ffma, ?fmin, ?fmax, ?fabs, ?fneg, ?frcp, ?frsq, ?fsqrt, ?fexp2, ?flog2, ?fsin, ?fcos, ?ftanh, ?cvtF2f,
    ?cvtF2i, ?cvtI2f, ?pack, ?unpack⟩
  all_goals exact fun gid w s => aluResult_of_exec rfl rfl

end Sys2Proof.Machine

/-! PROOFS. O9, O10: compares, votes, shuffles and special values. Each writes predicates, registers or the latch of its group and
nothing else; a group without active threads passes. -/

namespace Sys2Proof.Machine

/-! ### Instructions that write predicates (R219, R222) -/

/-- What a write of predicate `p` in the acting threads leaves; nothing changes while no thread is active (R210). -/
def predDone (g : Group) (w : Instr64) (p : Nat) (v : Word) : Group :=
  if g.active = 0#32 then g else g.setPredLanes (g.acting w) p v

theorem predDone_frame (g : Group) (w : Instr64) (p : Nat) (v : Word) :
    predDone g w p v = { g with preds := (predDone g w p v).preds } := by
  unfold predDone
  split
  · rfl
  · exact g.setPred_frame _ _

theorem pred_predDone (g : Group) (w : Instr64) (p q l : Nat) (v : Word) (hl : l < 32) :
    ((predDone g w p v).pred q).getLsbD l =
      if q = p ∧ q ≠ 7 ∧ (g.acting w).getLsbD l = true then v.getLsbD l else (g.pred q).getLsbD l := by
  unfold predDone
  split
  case isTrue h => simp [Group.acting_of_inactive w h]
  case isFalse => exact g.pred_setPredLanes _ _ _ _ _ hl

theorem goOn_predDone (g : Group) (w : Instr64) (p : Nat) (v : Word) : Safety.goOn (predDone g w p v) =
    { g.countInstr with preds := (Safety.goOn (predDone g w p v)).preds, pc := g.pc + 8 } := by
  rw [preds_goOn]
  exact (congrArg Safety.goOn (predDone_frame g w p v)).trans (goOn_preds g _)

/-- An instruction whose body writes predicate `p` of the acting threads, and nothing else. -/
theorem predResult_of_body {c : Instr} {gid : Gid} {w : BitVec 64} {s : State} {regs : List Nat} {o p : Nat}
    {body : Group → State → Res} {f : Group → Nat → Bool} (v : Group → Word) (hexec : exec c s = runInstr o gid w regs body s)
    (ho : c.opcode? = some (o, w))
    (hbody : ∀ g t, body g t = whenActive g t (.next t (g.setPredLanes (g.acting w) p (v g))))
    (hv : ∀ g l, l < 32 → (g.acting w).getLsbD l = true → (v g).getLsbD l = f g l) : Safety.predResult c gid w s regs p f := by
  intro g hwf hruns
  have hdone : body g (Safety.fetched s gid g) = .next (Safety.fetched s gid g) (predDone g w p (v g)) := by
    rw [hbody, predDone, whenActive]
    split <;> rfl
  refine ⟨_, leaves_next hexec ho hwf hruns hdone, goOn_predDone g w p (v g), fun q l _ hl => ?_⟩
  rw [pred_goOn, pred_predDone g w p q l _ hl]
  split
  case isTrue hq => exact hv g l hl hq.2.2
  case isFalse => rfl

/-- A compare writes its relation of each acting thread's operands. -/
theorem predResult_cmpInstr {c : Instr} {gid : Gid} {w : BitVec 64} {s : State} {o : Nat} {rel : Word → Word → Bool}
    (hexec : exec c s = cmpInstr o rel gid w s) (ho : c.opcode? = some (o, w)) :
    Safety.predResult c gid w s (srcAOf w :: srcBReg w) (dstOf w % 8) (fun g l => rel (g.reg l (srcAOf w)) (g.srcB w l)) :=
  predResult_of_body _ hexec ho (fun _ _ => rfl) fun g _ hl hm => getLsbD_maskOf_filter (g.acting w) _ hl hm

theorem getLsbD_maskOf_toList (x : Option Nat) {l : Nat} (hl : l < 32) : (maskOf x.toList).getLsbD l = decide (x = some l) := by
  rw [getLsbD_maskOf _ hl]
  simp only [Option.mem_toList]

/-- A vote whose kind writes a predicate names no general register. -/
theorem vote_regs {w : BitVec 64} (h : (modOf w).toNat ≠ 2) :
    (if (modOf w).toNat = 2 ∧ !Config.dstUniform w then [dstOf w] else []) = [] := if_neg fun hk => h hk.1

/-- Settles O9: each writes a mask into one predicate of the acting threads. -/
theorem predicateResults : Obligations.PredicateResults := by
  refine ⟨?icmp, ?fcmp, ?test, ?any, ?all, ?elect⟩
  case icmp => exact fun _ _ _ => predResult_cmpInstr rfl rfl
  case fcmp => exact fun _ _ _ => predResult_cmpInstr rfl rfl
  case test =>
    exact fun gid w s => predResult_of_body (fun g => if g.mxTok.get 0 (tokenOf w) = 0 then 0xFFFFFFFF#32 else 0#32)
      rfl rfl (fun _ _ => rfl) fun g l hl _ => by simpa using getLsbD_allOnes (decide (g.mxTok.get 0 (tokenOf w) = 0)) hl
  case any =>
    intro gid w s hk
    refine vote_regs (w := w) (by omega) ▸ predResult_of_body
      (fun g => if decide (g.active &&& g.pred (srcAOf w % 8) ≠ 0#32) then 0xFFFFFFFF#32 else 0#32)
      rfl rfl (fun g t => ?_) fun g l hl _ => getLsbD_allOnes _ hl
    simp only [hk]
  case all =>
    intro gid w s hk
    refine vote_regs (w := w) (by omega) ▸ predResult_of_body
      (fun g => if decide (g.active &&& g.pred (srcAOf w % 8) = g.active) then 0xFFFFFFFF#32 else 0#32)
      rfl rfl (fun g t => ?_) fun g l hl _ => getLsbD_allOnes _ hl
    simp only [hk]
  case elect =>
    intro gid w s hk
    refine vote_regs (w := w) (by omega) ▸ predResult_of_body (fun g => maskOf (lowest g.active).toList)
      rfl rfl (fun g t => ?_) fun g l hl _ => getLsbD_maskOf_toList _ hl
    simp only [hk]

/-! ### Operands of other threads and special values (R206, R218, R219) -/

theorem latchFor_fetched (s : State) (gid : Gid) (g h : Group) (code : Nat) :
    latchFor (Safety.fetched s gid g) code h = latchFor s code h := rfl

theorem latchFor_frame (s : State) (code : Nat) (g : Group) : latchFor s code g = { g with latch := (latchFor s code g).latch } := by
  unfold latchFor
  split
  · rfl
  · split <;> rfl

theorem specialValue_fetched (s : State) (gid : Gid) (g h : Group) (l code : Nat) :
    specialValue (Safety.fetched s gid g) (gidKey gid) h l code = specialValue s (gidKey gid) h l code := by
  unfold specialValue
  rw [fetched_core]
  rfl

section Results

variable {gid : Gid} {w : BitVec 64} {s : State} {g : Group}

/-- SEL is one vector operation whose result a predicate chooses. -/
theorem leaves_sel (hwf : (Instr.sel gid w).wf = true) (hruns : Safety.runs s gid w (aluRegs w 2) g) :
    Safety.leaves (.sel gid w) gid s (Safety.goOn (resultDone g w (isUniform w) (g.active ≠ 0#32)
      (fun l => if (g.pred (srcCOf w % 8)).getLsbD l then g.reg l (srcAOf w) else g.srcB w l)
      (if (g.pred (srcCOf w % 8)).getLsbD ((lowest g.active).getD 0) then g.ureg (srcAOf w)
        else if srcBImm w then immOf w else g.ureg (srcBOf w)))) := by
  refine leaves_next rfl rfl hwf hruns (Eq.trans ?_ (whenActive_writeResult g w _ _ _ _))
  unfold writeResult aluWrite
  split <;> rfl

/-- What SHFL leaves. -/
def shflDone (g : Group) (w : Instr64) (src : Nat → Option Nat) : Group :=
  let h := g.setLanes (g.acting w) (dstOf w) (fun l => g.reg ((src l).getD l) (srcAOf w))
  if g.active = 0#32 then g
  else h.setPredLanes (g.acting w) (srcCOf w % 8) (maskOf ((lanesOf (g.acting w)).filter (fun l => (src l).isSome)))

theorem shflDone_frame (g : Group) (w : Instr64) (src : Nat → Option Nat) :
    shflDone g w src = { g with regs := (shflDone g w src).regs, preds := (shflDone g w src).preds } := by
  unfold shflDone
  split
  · rfl
  · rw [Group.setPredLanes, Group.setPred_frame, Group.setLanes_frame]

theorem reg_shflDone (g : Group) (w : Instr64) (src : Nat → Option Nat) {l r : Nat} (hl : l < 32) (hr : r < 256) :
    (shflDone g w src).reg l r = if (g.acting w).getLsbD l = true ∧ r = dstOf w
      then g.reg ((src l).getD l) (srcAOf w) else g.reg l r := by
  unfold shflDone
  split
  case isTrue h => simp [Group.acting_of_inactive w h]
  case isFalse =>
    rw [Group.setPredLanes, Group.setPred_frame]
    exact g.reg_setLanes (g.acting w) _ (dstOf_lt w) hl hr

theorem pred_shflDone (g : Group) (w : Instr64) (src : Nat → Option Nat) (q : Nat) {l : Nat} (hl : l < 32) :
    ((shflDone g w src).pred q).getLsbD l = if q = srcCOf w % 8 ∧ q ≠ 7 ∧ (g.acting w).getLsbD l = true
      then (src l).isSome else (g.pred q).getLsbD l := by
  unfold shflDone
  split
  case isTrue h => simp [Group.acting_of_inactive w h]
  case isFalse =>
    rw [Group.pred_setPredLanes _ _ _ _ _ _ hl, Group.setLanes_frame]
    split
    case isTrue h => exact getLsbD_maskOf_filter (g.acting w) _ hl h.2.2
    case isFalse => rfl

theorem leaves_shfl {src : Nat → Option Nat} (hwf : (Instr.shfl gid w).wf = true)
    (hruns : Safety.runs s gid w ([dstOf w, srcAOf w] ++ srcBReg w) g) (hwidth : fld (srcCOf w) 4 3 ≤ 4)
    (hsrc : ∀ l, src l = match shflSource (modOf w).toNat (2 ^ (1 + fld (srcCOf w) 4 3)) l (g.srcB w l).toNat with
      | some q => if g.active.getLsbD q then some q else none
      | none => none) : Safety.leaves (.shfl gid w) gid s (Safety.goOn (shflDone g w src)) := by
  obtain rfl := funext hsrc
  refine leaves_next rfl rfl hwf hruns (Eq.trans (if_neg (Nat.not_lt.2 hwidth)) ?_)
  unfold shflDone whenActive
  split <;> rfl

/-- What MOVU leaves. -/
def movuDone (g : Group) (w : Instr64) : Group :=
  match lowest g.active with
  | none => g
  | some l => if (g.acting w).getLsbD l then g.setUreg (dstOf w) (g.reg l (srcAOf w)) else g

theorem movuDone_frame (g : Group) (w : Instr64) : movuDone g w = { g with uregs := (movuDone g w).uregs } := by
  unfold movuDone
  split
  · rfl
  · split <;> rfl

theorem leaves_movu (hwf : (Instr.movu gid w).wf = true) (hruns : Safety.runs s gid w [srcAOf w] g) :
    Safety.leaves (.movu gid w) gid s (Safety.goOn (movuDone g w)) := by
  refine leaves_next rfl rfl hwf hruns ?_
  unfold movuDone
  split <;> simp only [*]

theorem ureg_movuDone (g : Group) (w : Instr64) {u : Nat} (hu : u < 64) : (movuDone g w).ureg u = match lowest g.active with
    | some l => if (g.acting w).getLsbD l = true ∧ u = dstOf w % 64 then g.reg l (srcAOf w) else g.ureg u
    | none => g.ureg u := by
  unfold movuDone
  cases lowest g.active
  case none => rfl
  case some l =>
    dsimp only
    split
    case isTrue h => rw [Group.ureg_setUreg _ _ _ _ hu]; simp only [h, true_and]
    case isFalse h => rw [if_neg fun hq => h hq.1]

/-- BALLOT writes the mask of the active threads whose predicate is 1. -/
theorem leaves_ballot (hwf : (Instr.vote gid w).wf = true)
    (hruns : Safety.runs s gid w (if Config.dstUniform w then [] else [dstOf w]) g) (hkind : (modOf w).toNat = 2) :
    Safety.leaves (.vote gid w) gid s (Safety.goOn (resultDone g w (Config.dstUniform w) (g.acting w ≠ 0#32)
      (fun _ => g.active &&& g.pred (srcAOf w % 8)) (g.active &&& g.pred (srcAOf w % 8)))) := by
  have hregs : (if (modOf w).toNat = 2 ∧ !Config.dstUniform w then [dstOf w] else []) =
      if Config.dstUniform w then [] else [dstOf w] := by
    cases Config.dstUniform w <;> simp [hkind]
  refine leaves_next rfl rfl hwf (hregs ▸ hruns) ?_
  unfold resultDone writeResult whenActive
  by_cases hidle : g.acting w = 0#32
  · cases Config.dstUniform w <;> simp [hkind, hidle, Group.setLanes, lanesOf]
  · have hactive : g.active ≠ 0#32 := fun h => hidle (Group.acting_of_inactive w h)
    simp only [hkind, hidle, hactive, ne_eq, not_false_eq_true, if_true, if_false]

/-- MOVS writes the special value read after the latch. -/
theorem leaves_movs (hwf : (Instr.movs gid w).wf = true)
    (hruns : Safety.runs s gid w (if Config.dstUniform w then [] else [dstOf w]) g) (hcode : srcCOf w ≤ 14)
    (hacts : g.acting w ≠ 0#32) :
    Safety.leaves (.movs gid w) gid s (Safety.goOn (writeResult (latchFor s (srcCOf w) g) w (Config.dstUniform w)
      (fun l => (specialValue s (gidKey gid) (latchFor s (srcCOf w) g) l (srcCOf w)).getD 0)
      ((specialValue s (gidKey gid) (latchFor s (srcCOf w) g) ((lowest g.active).getD 0) (srcCOf w)).getD 0))) := by
  refine leaves_next rfl rfl hwf hruns ?_
  rw [if_neg (Nat.not_lt.2 hcode), if_neg hacts]
  simp only [latchFor_fetched, specialValue_fetched]
  unfold writeResult
  rw [latchFor_frame s (srcCOf w) g]
  rfl

/-- A result written after a latch changes registers and the latch. -/
theorem goOn_writeResult_latch (g : Group) (w : Instr64) (latch : BitVec 64) (uniform : Bool) (lanes : Nat → Word) (once : Word) :
    Safety.goOn (writeResult { g with latch := latch } w uniform lanes once) =
      { g.countInstr with regs := (Safety.goOn (writeResult { g with latch := latch } w uniform lanes once)).regs,
                          uregs := (Safety.goOn (writeResult { g with latch := latch } w uniform lanes once)).uregs,
                          latch := latch, pc := g.pc + 8 } := by
  rw [regs_goOn, uregs_goOn]
  exact (congrArg Safety.goOn (writeResult_frame { g with latch := latch } w uniform lanes once)).trans (goOn_writes_latch g _ _ _)

end Results

/-- Settles O10: what each instruction leaves is its result written into registers, predicates or the latch. -/
theorem crossThreadResults : Obligations.CrossThreadResults := by
  refine ⟨?sel, ?shfl, ?movu, ?ballot, ?movs⟩
  case sel =>
    exact fun gid w s g hwf hruns => ⟨_, leaves_sel hwf hruns, goOn_resultDone g w _ _ _ _,
      fun _ _ => reg_goOn_resultDone g w _ _ _ _ (acting_of_idle w), fun _ => ureg_goOn_resultDone g w _ _ _ _⟩
  case shfl =>
    intro gid w s g src hwf hruns hwidth hsrc
    refine ⟨_, leaves_shfl hwf hruns hwidth hsrc, ?_, fun l r hl hr => ?_, fun q l _ hl => ?_⟩
    · rw [regs_goOn, preds_goOn]
      exact (congrArg Safety.goOn (shflDone_frame g w src)).trans (goOn_regs_preds g _ _)
    · rw [reg_goOn, reg_shflDone g w src hl hr]
    · rw [pred_goOn, pred_shflDone g w src q hl]
  case movu =>
    intro gid w s g hwf hruns
    refine ⟨_, leaves_movu hwf hruns, ?_, fun u hu => (ureg_goOn _ _).trans (ureg_movuDone g w hu)⟩
    rw [uregs_goOn]
    exact (congrArg Safety.goOn (movuDone_frame g w)).trans (goOn_uregs g _)
  case ballot =>
    exact fun gid w s g hwf hruns hkind => ⟨_, leaves_ballot hwf hruns hkind, goOn_resultDone g w _ _ _ _,
      fun _ _ => reg_goOn_resultDone g w _ _ _ _ not_not.1, fun _ => ureg_goOn_resultDone g w _ _ _ _⟩
  case movs =>
    intro gid w s g hwf hruns hcode hacts
    refine ⟨_, leaves_movs hwf hruns hcode hacts, ?_, fun l r hl hr => ?_, fun u hu => ?_⟩
    · rw [latchFor_frame]
      exact goOn_writeResult_latch g w _ _ _ _
    · rw [reg_goOn, reg_writeResult _ _ _ _ _ hl hr, latchFor_frame]
      rfl
    · rw [ureg_goOn, ureg_writeResult _ _ _ _ _ hu, latchFor_frame]
      rfl

end Sys2Proof.Machine

/-! PROOFS. O11, O12, O50: branches and the mask stack. What the body of each answers says how its group goes on, or with what it
parks. -/

namespace Sys2Proof.Machine

/-! ### Branches (R209, R215) -/

section Branch

variable {s : State} {gid : Gid} {w : BitVec 64} {g h : Group} {a : Int}

theorem branchTo_inside (hin : Safety.inside s h a) :
    branchTo w h (Safety.fetched s gid g) a = .goto (Safety.fetched s gid g) h (BitVec.ofInt 48 a) := if_pos hin

theorem branchTo_outside (hout : ¬Safety.inside s h a) : branchTo w h (Safety.fetched s gid g) a = .fault (illegalOp w h) :=
  if_neg hout

theorem takeBranch_inCode (hin : Safety.inCode s h w) : takeBranch w h (Safety.fetched s gid g) =
    .goto (Safety.fetched s gid g) h (BitVec.ofInt 48 (Safety.target h w)) := branchTo_inside hin

theorem takeBranch_outside (hout : ¬Safety.inCode s h w) :
    takeBranch w h (Safety.fetched s gid g) = .fault (illegalOp w h) := branchTo_outside hout

/-- A taken branch leads to its target. -/
theorem finish_takeBranch (hin : Safety.inCode s h w) :
    (takeBranch w h (Safety.fetched s gid g)).finish (gidKey gid) (Safety.fetched s gid g) =
      (Safety.fetched s gid g).putGroup (gidKey gid) (Safety.branch h w) := by
  rw [takeBranch_inCode hin]
  rfl

theorem maskBranch_active (h : Group) (t : State) (hactive : h.active ≠ 0#32) : maskBranch w h t = .next t h := if_neg hactive

theorem maskBranch_empty (h : Group) (t : State) (hempty : h.active = 0#32) : maskBranch w h t = takeBranch w h t := if_pos hempty

end Branch

/-! ### O11 -/

/-- Settles O11: the body of each answers with its target, the next instruction or the fault. -/
theorem branchResults : Obligations.BranchResults := by
  refine ⟨?nop, ?taken, ?notTaken, ?divergent, ?outside, ?any, ?none, ?call, ?callRegister, ?ret, ?retOutside, ?callOutside⟩
  case nop => exact fun _ _ _ => groupResult_of_body rfl rfl fun _ _ _ _ => rfl
  case taken =>
    refine fun _ _ _ => groupResult_of_body rfl rfl ?_
    rintro g _ ⟨hall, hin⟩ rfl
    rw [if_pos hall, finish_takeBranch hin]
  case notTaken =>
    refine fun _ w _ => groupResult_of_body rfl rfl ?_
    rintro g _ ⟨hactive, hnone⟩ rfl
    have hsome : g.acting w ≠ g.active := fun h => hactive (h.symm.trans hnone)
    rw [if_neg hsome, if_pos hnone]
    rfl
  case divergent =>
    refine fun _ _ _ => parks_of_fault rfl rfl ?_
    rintro g _ ⟨hall, hnone⟩ -
    exact ⟨0, g.active, (if_neg hall).trans (if_neg hnone)⟩
  case outside =>
    refine fun _ _ _ => parks_of_fault rfl rfl ?_
    rintro g _ ⟨hall, hout⟩ rfl
    exact ⟨0, g.active, (if_pos hall).trans (takeBranch_outside hout)⟩
  case any =>
    refine fun _ _ _ => groupResult_of_body rfl rfl ?_
    rintro g _ ⟨hsome, hin⟩ rfl
    rw [if_neg hsome, finish_takeBranch hin]
  case none =>
    refine fun _ _ _ => groupResult_of_body rfl rfl ?_
    rintro g _ hnone rfl
    rw [if_pos hnone]
    rfl
  case call =>
    refine fun _ w _ => groupResult_of_body rfl rfl ?_
    rintro g _ ⟨heven, hlow, hacts, hin⟩ rfl
    have hpair : ¬(dstOf w % 2 = 1 ∨ 62 < dstOf w) := by omega
    rw [if_neg hpair, if_pos hacts]
    exact finish_takeBranch hin
  case callRegister =>
    refine fun _ _ _ => parks_of_fault rfl rfl ?_
    rintro g _ hbad -
    exact ⟨0, g.active, if_pos hbad⟩
  case ret =>
    refine fun _ _ _ => groupResult_of_body rfl rfl ?_
    rintro g _ ⟨hacts, hin⟩ rfl
    rw [if_pos hacts]
    exact congrArg (Res.finish _ _) (branchTo_inside hin)
  case retOutside =>
    refine fun _ _ _ => parks_of_fault rfl rfl ?_
    rintro g _ ⟨hacts, hout⟩ rfl
    exact ⟨0, g.active, (if_pos hacts).trans (branchTo_outside hout)⟩
  case callOutside =>
    refine fun _ w _ => parks_of_fault rfl rfl ?_
    rintro g _ ⟨heven, hlow, hacts, hout⟩ rfl
    have hpair : ¬(dstOf w % 2 = 1 ∨ 62 < dstOf w) := by omega
    exact ⟨0, g.active, (if_neg hpair).trans ((if_pos hacts).trans (takeBranch_outside hout))⟩

/-! ### O12, O50: the mask stack (R213, R214) -/

section MaskStack

variable (gid : Gid) (w : BitVec 64) (s : State)

theorem pushm_full : Safety.parks (.pushm gid w) gid w s [] (fun g => 32 ≤ g.stack.length) 0x03 (fun _ => 0) :=
  parks_of_fault rfl rfl fun g _ hfull _ => ⟨0, g.active, if_pos hfull⟩

theorem flipm_empty :
    Safety.parks (.flipm gid w) gid w s [] (fun g => groupActs g w = true ∧ g.stack = []) 0x04 (fun _ => 0) := by
  refine parks_of_fault rfl rfl ?_
  rintro g _ ⟨hacts, hempty⟩ -
  exact ⟨0, g.active, (if_pos hacts).trans (by rw [hempty])⟩

theorem popm_empty :
    Safety.parks (.popm gid w) gid w s [] (fun g => groupActs g w = true ∧ g.stack = []) 0x04 (fun _ => 0) := by
  refine parks_of_fault rfl rfl ?_
  rintro g _ ⟨hacts, hempty⟩ -
  exact ⟨0, g.active, (if_pos hacts).trans (by rw [hempty])⟩

end MaskStack

/-- Settles O12: the body of each answers with the changed mask and stack, the target or the fault. -/
theorem maskStackResults : Obligations.MaskStackResults := by
  refine ⟨?push, ?pushEmpty, pushm_full, ?flip, ?flipEmpty, flipm_empty, ?clear, ?pop, popm_empty⟩
  case push =>
    refine fun _ _ _ => groupResult_of_body rfl rfl ?_
    rintro g t ⟨hroom, htaken⟩ -
    rw [if_neg (Nat.not_le.2 hroom), maskBranch_active _ _ htaken]
    rfl
  case pushEmpty =>
    refine fun _ _ _ => groupResult_of_body rfl rfl ?_
    rintro g _ ⟨hroom, hnone, hin⟩ rfl
    rw [if_neg (Nat.not_le.2 hroom), hnone, maskBranch_empty _ _ rfl]
    exact finish_takeBranch hin
  case flip =>
    refine fun _ _ _ e r => groupResult_of_body rfl rfl ?_
    rintro g t ⟨hacts, htop, hother⟩ -
    simp only [if_pos hacts, htop]
    exact congrArg (Res.finish _ t) (maskBranch_active _ t hother)
  case flipEmpty =>
    refine fun _ _ _ e r => groupResult_of_body rfl rfl ?_
    rintro g _ ⟨hacts, htop, hother, hin⟩ rfl
    simp only [if_pos hacts, htop, hother, maskBranch_empty]
    exact finish_takeBranch hin
  case clear => exact fun _ _ _ => groupResult_of_body rfl rfl fun _ _ _ _ => rfl
  case pop =>
    refine fun _ _ _ e r => groupResult_of_body rfl rfl ?_
    rintro g t ⟨hacts, htop⟩ -
    simp only [if_pos hacts, htop]
    rfl

/-- Settles O50: a stack of 32 entries is full, and an empty one gives nothing. -/
theorem maskStackFaults : Obligations.MaskStackFaults :=
  ⟨fun gid w s g hwf hruns hfull => pushm_full gid w s g hwf hruns hfull.ge, popm_empty, flipm_empty⟩

end Sys2Proof.Machine

/-! PROOFS. O13, O14: instructions that wait or park, what a word decodes to, and the registers that a group has. -/

namespace Sys2Proof

/-! ### What a word decodes to (R211) -/

theorem decodeThread_wf (gid : Gid) (w : BitVec 64) (ecc : ReadEcc) : (decodeThread gid w ecc).wf = true := by
  unfold decodeThread
  split
  case h_74 =>
    show (!assignedOpcode (w >>> 56).toNat) = true
    generalize (w >>> 56).toNat = o at *
    rw [Bool.not_eq_true', Bool.eq_false_iff]
    intro h
    simp only [assignedOpcode, Bool.or_eq_true, Bool.and_eq_true, decide_eq_true_eq] at h
    rcases h with ((((((h | ⟨_, _⟩) | ⟨_, _⟩) | ⟨_, _⟩) | ⟨_, _⟩) | ⟨_, _⟩) | ⟨_, _⟩) | ⟨_, _⟩
    all_goals interval_cases o <;> contradiction
  all_goals exact decide_eq_true ‹_›

/-- A well-formed thread command is what its word decodes to. -/
theorem decodeThread_opcode {c : Instr} {o : Nat} {w : BitVec 64} (ho : c.opcode? = some (o, w)) (hwf : c.wf = true) :
    ∃ gid ecc, decodeThread gid w ecc = c := by
  have hw : (w >>> 56).toNat = o := by simpa [Instr.wf, ho] using hwf
  cases c <;> cases ho
  case ld gid ecc => exact ⟨gid, ecc, by rw [decodeThread, hw]; rfl⟩
  case ldNc gid ecc => exact ⟨gid, ecc, by rw [decodeThread, hw]; rfl⟩
  all_goals exact ⟨‹Gid›, {}, by rw [decodeThread, hw]; rfl⟩

theorem decodeThread_illegal {gid : Gid} {w : BitVec 64} (hwf : (Instr.illegalInstruction gid w).wf = true) (ecc : ReadEcc) :
    decodeThread gid w ecc = .illegalInstruction gid w := by
  have hreserved : assignedOpcode (w >>> 56).toNat = false := (Bool.not_eq_true' _).mp hwf
  unfold decodeThread
  split
  case h_74 => rfl
  all_goals exact absurd hreserved (by simp only [*]; decide)

end Sys2Proof

namespace Sys2Proof.Machine

/-! ### O13 -/

section Waits

variable (gid : Gid) (w : BitVec 64) (s : State)

/-- A reserved opcode runs as a word that finds ILLEGAL_OP. -/
theorem exec_illegalInstruction (hwf : (Instr.illegalInstruction gid w).wf = true) :
    exec (.illegalInstruction gid w) s = runInstr (opcOf w) gid w [] (fun g _ => .fault (illegalOp w g)) s := by
  have hreserved : assignedOpcode (w >>> 56).toNat = false := (Bool.not_eq_true' _).mp hwf
  have hopc : opcOf w = (w >>> 56).toNat := by
    rw [opcOf, BitVec.extractLsb'_toNat, BitVec.toNat_ushiftRight, Nat.mod_eq_of_lt]
    have := w.isLt
    omega
  rw [runInstr, if_pos rfl]
  exact if_neg (by rw [hopc, hreserved]; decide)

theorem parks_illegalInstruction :
    Safety.parks (.illegalInstruction gid w) gid w s [] (fun _ => True) 0x01 (fun _ => opcOf w) :=
  fun _ hwf hruns _ => parks_of_run ((exec_illegalInstruction gid w s hwf).trans (runInstr_runs _ rfl hruns)) rfl hruns

end Waits

/-- Settles O13: the body of each answers with the status it waits in, the next instruction or the fault. -/
theorem exitTrapAndWaits : Obligations.ExitTrapAndWaits := by
  refine ⟨?exit, ?diverged, ?trap, parks_illegalInstruction, ?mxZero, ?mxWait, ?dmaZero, ?dmaWait, ?bar, decodeThread_wf,
    fun _ _ _ => decodeThread_opcode, fun _ _ => decodeThread_illegal⟩
  case exit =>
    refine fun _ _ _ => groupResult_of_body rfl rfl ?_
    rintro g t ⟨hacts, hstack, hlive⟩ -
    rw [if_pos hacts, if_pos (by simp [hstack, hlive])]
    rfl
  case diverged =>
    refine fun _ _ _ => parks_of_fault rfl rfl ?_
    rintro g _ ⟨hacts, hdiverged⟩ -
    have hends : ¬(g.stack.isEmpty && g.active == g.live) = true := by
      simpa [imp_iff_not_or] using hdiverged
    exact ⟨0, g.active, (if_pos hacts).trans (if_neg hends)⟩
  case trap => exact fun _ _ _ => parks_of_fault rfl rfl fun g _ hacts _ => ⟨0, g.active, if_pos hacts⟩
  case mxZero =>
    refine fun _ _ _ => groupResult_of_body rfl rfl fun g t hzero _ => ?_
    rw [if_pos hzero, ite_self]
    rfl
  case mxWait =>
    refine fun _ _ _ => groupResult_of_body rfl rfl ?_
    rintro g t ⟨hacts, hcount⟩ -
    rw [if_neg hacts, if_neg hcount]
    rfl
  case dmaZero =>
    refine fun _ _ _ => groupResult_of_body rfl rfl fun g t hzero _ => ?_
    rw [if_pos hzero, ite_self]
    rfl
  case dmaWait =>
    refine fun _ _ _ => groupResult_of_body rfl rfl ?_
    rintro g t ⟨hacts, hcount⟩ -
    rw [if_neg hacts, if_neg hcount]
    rfl
  case bar =>
    refine fun _ _ _ => groupResult_of_body rfl rfl fun g t hacts _ => ?_
    rw [if_neg hacts]
    rfl

/-! ### O14 -/

section Registers

variable {s : State} {gid : Gid} {w : BitVec 64} {g0 : Group} {r : Nat}

/-- An instruction whose group has not all its registers parks it before its body runs (R203). -/
theorem runInstr_missing {o : Nat} {regs : List Nat} (body : Group → State → Res) (hgroup : s.group? (gidKey gid) = some g0)
    (hissues : s.issues (gidKey gid) g0 = true) (hfetch : s.fetchFault (gidKey gid) { g0 with instr := w } = none)
    (hop : opcOf w = o) (hr : regRange g0 regs = some r) :
    runInstr o gid w regs body s = .next ((Safety.fetched s gid { g0 with instr := w }).park (gidKey gid)
      (mkFaultInfo 0x02 r 0 g0.active)) := by
  have hrange : regRange { g0 with instr := w } regs = some r := hr
  simp only [runInstr, if_pos hop, runWord, hgroup, hissues, if_true, hfetch, hrange]
  rfl

/-- The group is left with a record of REG_RANGE and all it had. -/
def parkedForRegister (c : Instr) (gid : Gid) (s : State) (g0 : Group) (r : Nat) : Prop :=
  ∃ t h q, exec c s = .next t ∧ t.group? (gidKey gid) = some h ∧ h.status = .parked ∧ h.pc = g0.pc ∧ h.active = g0.active ∧
    h.regs = g0.regs ∧ h.preds = g0.preds ∧ h.uregs = g0.uregs ∧ h.record = some q ∧ q.info.cause = 0x02#8 ∧
    q.info.detail = BitVec.ofNat 32 r

variable (hgroup : s.group? (gidKey gid) = some g0) (hissues : s.issues (gidKey gid) g0 = true)
  (hfetch : s.fetchFault (gidKey gid) { g0 with instr := w } = none)
include hgroup hissues hfetch

theorem parkedForRegister_of_exec {c : Instr} {o : Nat} {regs : List Nat} {body : Group → State → Res}
    (hexec : exec c s = runInstr o gid w regs body s) (ho : c.opcode? = some (o, w)) (hwf : c.wf = true)
    (hr : regRange g0 regs = some r) : parkedForRegister c gid s g0 r := by
  have hstatus : g0.status = .running := by
    simp only [State.issues, Bool.and_eq_true, beq_iff_eq] at hissues
    obtain ⟨⟨⟨hstatus, -⟩, -⟩, -⟩ := hissues
    exact hstatus
  obtain ⟨q, n, hinfo, hparked⟩ := group?_park_fetched (s := s) (gid := gid) (g := { g0 with instr := w })
    (mkFaultInfo 0x02 r 0 g0.active) hstatus
  refine ⟨_, _, q, hexec.trans (runInstr_missing body hgroup hissues hfetch (opcOf_of_wf ho hwf) hr), hparked, rfl, rfl, rfl, rfl,
    rfl, rfl, rfl, ?_⟩
  rw [hinfo]
  exact ⟨rfl, rfl⟩

end Registers

/-- Settles O14: every form names its registers before its body. -/
theorem missingRegisterParks : Obligations.MissingRegisterParks := by
  intro gid w s g0 r hgroup hissues hfetch c regs hform hwf hr
  have hparks {o : Nat} {regs : List Nat} {body : Group → State → Res} (hr : regRange g0 regs = some r)
      (hexec : exec c s = runInstr o gid w regs body s) (ho : c.opcode? = some (o, w)) : parkedForRegister c gid s g0 r :=
    parkedForRegister_of_exec hgroup hissues hfetch hexec ho hwf hr
  rcases hform with ⟨rfl, rfl⟩ | ⟨rfl, rfl⟩ | ⟨rfl, rfl⟩ | ⟨rfl, rfl⟩ | ⟨rfl, rfl⟩ | ⟨rfl, rfl⟩ | ⟨rfl, rfl⟩ |
    ⟨ecc, rfl | rfl, rfl⟩ | ⟨rfl, rfl⟩ | ⟨rfl, himm, rfl⟩ | ⟨rfl, rfl⟩ | ⟨rfl, rfl⟩
  -- ATOM: an immediate operand names no register
  pick_goal 11
  · have hregs : regRange g0 (dataRegs (dstOf w) (if bit (srcCOf w) 4 then 8 else 4) ++ [srcAOf w, srcAOf w + 1] ++
        if srcBImm w then [] else dataRegs (srcBOf w)
          ((if bit (srcCOf w) 4 then 8 else 4) * if fld (srcCOf w) 0 4 = 0xA then 2 else 1)) = some r := by
      rw [if_pos himm, List.append_nil]
      exact hr
    exact hparks hregs rfl rfl
  all_goals exact hparks hr rfl rfl

end Sys2Proof.Machine

/-! PROOFS. O15: a load of a remote sector sends its reads and its group goes on past the instruction to wait for the answers, so
that it resumes at the next one. The statement has the waiting group's PC still at the instruction. -/

namespace Sys2Proof.Machine

/-! ### A load that reads remote sectors (R357) -/

section FarLoad

variable (s t : State) (gid : Gid) (w : BitVec 64) (ecc : ReadEcc) (g : Group)

/-- The acting lanes of an access with their addresses. -/
def laneAddrs (g : Group) (w : BitVec 64) : List (Nat × Nat) := (lanesOf (g.acting w)).map (fun l => (l, laneAddr g w (spaceGlobal w) l))

/-- The lanes of a load that read this node, and those that read another. -/
def nearLoads (g : Group) (w : BitVec 64) : List (Nat × Nat) := (laneAddrs g w).filter (fun x => !(spaceGlobal w && isFabric x.2))
def farLoads (g : Group) (w : BitVec 64) : List (Nat × Nat) := (laneAddrs g w).filter (fun x => spaceGlobal w && isFabric x.2)

/-- The sectors of a load, asked for. -/
def State.loadObtain (t : State) (gid : Gid) (g : Group) (w : BitVec 64) (nc : Bool) (ecc : ReadEcc) : Bool × Group × State :=
  if spaceGlobal w then
    t.groupObtain (gidKey gid) g (t.laneSectors g .load (nearLoads g w)) (t.loadReqs (gidKey gid) g nc ecc.ce (nearLoads g w))
  else (true, g, t)

/-- The state and the group after the near lanes have read. -/
def State.loadedNear (t : State) (gid : Gid) (g : Group) (w : BitVec 64) (nc : Bool) (ecc : ReadEcc) : State × Group :=
  State.loadLanes (gidKey gid) w (spaceGlobal w) nc (accessBytes w) (nearLoads g w) (t.loadObtain gid g w nc ecc).2.2
    (t.loadObtain gid g w nc ecc).2.1

/-- The group with its self-wait detector after those reads. -/
def State.observedNear (t : State) (gid : Gid) (g : Group) (w : BitVec 64) (nc : Bool) (ecc : ReadEcc) : Group :=
  if spaceGlobal w then t.observeTags (gidKey gid) (t.loadedNear gid g w nc ecc).2 (accessBytes w) (nearLoads g w)
  else (t.loadedNear gid g w nc ecc).2.disarm

/-- An access whose lanes find no fault goes on. -/
theorem match_noFault {f : Option FaultInfo} (faulty : FaultInfo → Res) (sound : Res) :
    f = none → (match f with | some x => faulty x | none => sound) = sound := by
  rintro rfl
  rfl

/-- LD.NC with lanes that read another node: its group waits for the answers past the instruction. -/
theorem exec_ldNc_far (hwf : (Instr.ldNc gid w ecc).wf = true)
    (hruns : Safety.runs s gid w (dataRegs (dstOf w) (accessBytes w) ++ (srcAOf w :: if spaceGlobal w then [srcAOf w + 1] else [])) g)
    (ht : t = Safety.fetched s gid g) (hacts : g.acting w ≠ 0#32) (hmerge : t.mergeStall (gidKey gid) g = false)
    (hglobal : spaceGlobal w = true)
    (hfaults : gatherFaults ((laneAddrs g w).map
      (fun x => (x.1, t.laneFault g (spaceGlobal w) x.2 (accessBytes w) .load (ecc.ue == some x.1)))) = none)
    (hhad : (t.loadObtain gid g w true ecc).1 = true) (hfar : farLoads g w ≠ [])
    (hroom : t.farFull (clusterKeyOf (gidKey gid)) ((farLoads g w).map (·.2)) = false) :
    exec (.ldNc gid w ecc) s = .next (((t.loadedNear gid g w true ecc).1.remoteLoad (gidKey gid) g w (accessBytes w)
      (farLoads g w)).putGroup (gidKey gid) (Safety.goOn { t.observedNear gid g w true ecc with status := .remote })) := by
  subst ht
  have hgoes : ¬(!((Safety.fetched s gid g).loadObtain gid g w true ecc).1 ||
      (Safety.fetched s gid g).farFull (clusterKeyOf (gidKey gid)) ((farLoads g w).map (·.2))) = true := by
    rw [hhad, hroom]
    decide
  have hspace : ¬(!spaceGlobal w) = true := by rw [hglobal]; decide
  have hsome : ¬(farLoads g w).isEmpty = true := mt List.isEmpty_iff.1 hfar
  refine exec_next rfl rfl hwf hruns ?_
  rw [if_neg hacts, if_neg (by rw [hmerge]; decide)]
  exact (match_noFault _ _ hfaults).trans ((if_neg hgoes).trans ((if_neg hspace).trans (if_neg hsome)))

end FarLoad
/-! ### O15 -/

/-- One thread whose register pair 0 holds a fabric address, that of window 0 of node 0. -/
def farReader : Group := { nreg := 256, live := 1, active := 1, regs := [(1, 0x80000000)], instr := 0x72E0000008000000 }

/-- The fabric carries requests of context 0, whose key 0 names a window; the core holds the code of the group. -/
def farLoading : State :=
  { groups := [(0, farReader)], cores := [(0, { l0i := [0] })],
    host := { ctxs := [(0, { keys := [(0, { key := 0, cls := 0, valid := true })] })] },
    mgmt := { dict := [(okey 0x50020 0, 1), (okey 0x50000 0, 2)] } }

theorem regRange_farReader (k : Fin 5) : regRange farReader (dataRegs 0 (2 ^ k.val) ++ [0, 1]) = none := by
  revert k
  decide

theorem runs_farLoading : Safety.runs farLoading ⟨0, 0, 0⟩ farReader.instr
    (dataRegs (dstOf farReader.instr) (accessBytes farReader.instr) ++
    (srcAOf farReader.instr :: if spaceGlobal farReader.instr then [srcAOf farReader.instr + 1] else [])) farReader :=
  ⟨farReader, rfl, by decide, rfl, by decide, regRange_farReader _⟩

theorem farLoading_faults (k : Fin 5) : gatherFaults ((laneAddrs farReader farReader.instr).map (fun x =>
    (x.1, (Safety.fetched farLoading ⟨0, 0, 0⟩ farReader).laneFault farReader (spaceGlobal farReader.instr) x.2 (2 ^ k.val) .load
      ((none : Option Nat) == some x.1)))) = none := by
  revert k
  decide +kernel

/-- Refutes O15: a group that waits for the answers to its remote reads has gone on to PC + 8. -/
theorem not_loadResults : ¬ Obligations.LoadResults := by
  rintro ⟨hload, -⟩
  have hwf : (Instr.ldNc ⟨0, 0, 0⟩ farReader.instr {}).wf = true := by decide
  have hacts : farReader.acting farReader.instr ≠ 0#32 := by decide
  have hmerge : (Safety.fetched farLoading ⟨0, 0, 0⟩ farReader).mergeStall 0 farReader = false := by decide +kernel
  have hhad : ((Safety.fetched farLoading ⟨0, 0, 0⟩ farReader).loadObtain ⟨0, 0, 0⟩ farReader farReader.instr true {}).1 = true :=
    by decide +kernel
  have hfar : farLoads farReader farReader.instr ≠ [] := by decide +kernel
  have hroom : (Safety.fetched farLoading ⟨0, 0, 0⟩ farReader).farFull 0 ((farLoads farReader farReader.instr).map (·.2)) = false := by
    decide +kernel
  have hrun := exec_ldNc_far _ _ _ _ {} _ hwf runs_farLoading rfl hacts hmerge (by decide) (farLoading_faults _) hhad hfar hroom
  obtain ⟨-, hremote, -⟩ := hload true _ _ {} _ _ _ _ (Or.inr ⟨rfl, rfl⟩) hwf runs_farLoading rfl hacts hmerge
  obtain ⟨u, hexec, hgroup, -⟩ := hremote (farLoading_faults _) hhad hfar hroom
  obtain rfl := Host.Outcome.next.inj (hrun.symm.trans hexec)
  have hsame := Option.some.inj ((State.group?_putGroup_self _ _ _).symm.trans hgroup)
  have hpc : ∀ pc : BitVec 48, pc + 8 ≠ pc := by
    intro pc h
    bv_omega
  exact hpc _ (congrArg Group.pc hsame)

end Sys2Proof.Machine

/-! PROOFS. O17: REL.G that finds another tag parks with LOCK_STATE. Its record enters the context's fault ring, which lies in host
memory (R232); the statement has host memory unchanged. -/

namespace Sys2Proof.Machine

/-- One thread that releases the lock at address 0. -/
def releaser : Group := { nreg := 256, live := 1, active := 1, instr := 0x81E0000000000000 }

/-- Page tables at address 0 map the first page of context 0 to 2 MiB, where the lock word is 0; its fault ring has room. -/
def releasing : State :=
  { groups := [(0, releaser)], cores := [(0, { l0i := [0] })],
    mem := { hbm := [(0, 1), (2, 1), (4096, 0xF2), (4101, 2)] },
    host := { ctxs := [(0, { pt := 1, flt := { size := 16 } })],
              objects := [(1, { kind := 0, big := true, pages := [0] }), (2, { kind := 0, big := true, pages := [2097152] })] } }

theorem runs_releasing :
    Safety.runs releasing ⟨0, 0, 0⟩ releaser.instr [srcAOf releaser.instr, srcAOf releaser.instr + 1] releaser :=
  ⟨releaser, rfl, by decide, rfl, by decide, by decide⟩

/-- The fault record is in host memory. -/
theorem exec_releasing : ∃ t, exec (.relG ⟨0, 0, 0⟩ releaser.instr) releasing = .next t ∧ t.mem.host ≠ releasing.mem.host :=
  ⟨_, rfl, by decide +kernel⟩

/-- Refutes O17: a REL.G that parks changes host memory. -/
theorem not_atomicAndLockResults : ¬ Obligations.AtomicAndLockResults := by
  rintro ⟨-, -, hlocks, -, -⟩
  have hlanes : (lanesOf (releaser.acting releaser.instr)).map (fun l => (l, releaser.pair l (srcAOf releaser.instr))) = [(0, 0)] := by
    decide
  obtain ⟨-, -, hmismatch⟩ := hlocks ⟨0, 0, 0⟩ releaser.instr releasing releaser _ runs_releasing rfl (by decide)
    (by decide +kernel) rfl (by rw [hlanes]; decide +kernel) (by rw [hlanes]; decide)
  have hother : ∃ x ∈ [((0 : Nat), (0 : Nat))], ∃ p v,
      (Safety.fetched releasing ⟨0, 0, 0⟩ releaser).lockWord releaser x.2 = some (p, v) ∧
      v ≠ (Safety.fetched releasing ⟨0, 0, 0⟩ releaser).lockTag (gidKey ⟨0, 0, 0⟩) releaser x.1 :=
    ⟨(0, 0), List.mem_singleton_self _, .fast 2097152, 0, by decide +kernel, by decide +kernel⟩
  obtain ⟨u, _, _, hexec, -, -, -, -, -, -, hhost⟩ :=
    hmismatch (by decide) (by rw [hlanes]; decide +kernel) (by rw [hlanes]; exact hother)
  obtain ⟨t, hrun, hwritten⟩ := exec_releasing
  obtain rfl : t = u := Host.Outcome.next.inj (hrun.symm.trans hexec)
  exact hwritten hhost

end Sys2Proof.Machine

/-! PROOFS. O22 fails for a state that lists a cluster twice, which the statement does not exclude. A merge that cannot have all its
sectors goes on, and takes those that it can have. One of them enters a full set of its home slice, and the line that leaves holds a
sector that the cluster's second entry has prefetched. That entry forgets the sector and is stored (Table 9.11), so that the cluster
reads as one that does not merge. -/

namespace Sys2Proof.Machine

/-- A merge of one byte in each of two sectors of global space; the sector of the first waits in its miss-tracking entry. -/
def mergingCluster : Cluster :=
  { ctx := some 0, merging := true,
    shadow := [{ block := 4, global := true, bytes := [(0, 1)] }, { block := 0, global := true, bytes := [(0, 1)] }],
    miss := [{ owner := .other, sector := 24579, addr := 2097408, p := 0, v := 0, stage := .waiting }] }

/-- Cluster 0 merges; its second entry has prefetched the sector of the first line of the full set. Page tables at address 0 map the
first page of context 0 to 2 MiB. -/
def mergingTwice : State :=
  { clusters := [(0, mergingCluster), (0, { prefetched := [24576 + 4571136] })],
    mem := { hbm := [(0, 1), (2, 1), (4096, 0xF2), (4101, 2)], slices := [(512, fullSet)] },
    host := { ctxs := [(0, { pt := 1 })],
              objects := [(1, { kind := 0, big := true, pages := [0] }), (2, { kind := 0, big := true, pages := [2097152] })] } }

theorem exec_mergingTwice : ∃ t, exec (.specMergeDone 0) mergingTwice = .next t ∧ (t.cluster 0).merging = false :=
  ⟨_, rfl, by decide +kernel⟩

/-- Refutes O22: a merge that goes on does not leave its cluster merging. -/
theorem not_groupsAndKernelsEnd : ¬ Obligations.GroupsAndKernelsEnd := by
  rintro ⟨-, -, -, hmerge, -⟩
  have hmerging : (mergingTwice.cluster (0 : Fin 1088).val).merging = true := by decide
  obtain ⟨hwaits, -⟩ := hmerge 0 mergingTwice hmerging
  obtain ⟨u, hexec, hstill, -⟩ := hwaits (by decide +kernel)
  obtain ⟨t, hrun, hlost⟩ := exec_mergingTwice
  obtain rfl : t = u := Host.Outcome.next.inj (hrun.symm.trans hexec)
  exact absurd (hlost.symm.trans hstill) (by decide)

end Sys2Proof.Machine

/-! PROOFS. O18: fences, their completion and their timeout, and the release of a barrier. -/

namespace Sys2Proof.Machine

/-! ### MFENCE (R254, R381) -/

section Fences

variable (s : State) (ck : Nat)

/-- A fence reaches the L0 data cache of its core and the cluster cache; the prefetches of the cluster settle. -/
theorem State.fenceCaches_frame : s.fenceCaches ck =
    { s with cores := (s.fenceCaches ck).cores, clusters := (s.fenceCaches ck).clusters, mgmt := (s.fenceCaches ck).mgmt } := by
  unfold State.fenceCaches
  dsimp only
  rw [State.settlePrefetch_frame]
  rfl

theorem State.l0d_fenceCaches : ((s.fenceCaches ck).core ck).l0d = [] := by
  unfold State.fenceCaches
  rw [State.core_settlePrefetch, State.core_putCluster, State.core_putCore_self]

theorem State.cache_fenceCaches : ((s.fenceCaches ck).cluster (ck / 4)).cache = [] := by
  unfold State.fenceCaches
  rw [State.cache_settlePrefetch, State.cluster_putCluster_self]

/-- The first fence that takes the module's epoch leaves it as it is. -/
theorem startSysFence_first (kind : Nat) (g : Group) {s : State} (h : s.fab.epochUsed = false) : startSysFence kind g s =
    .hold s { g with status := .fence, fence := some ⟨kind, 3, some s.fab.epoch⟩ } := by
  rw [startSysFence, State.openEpoch, if_neg (by rw [h]; decide)]

end Fences

section Mfence

variable {s t : State} {gid : Gid} {w : BitVec 64} {g : Group} (hwf : (Instr.mfence gid w).wf = true) (hruns : Safety.runs s gid w [] g)
  (ht : t = Safety.fetched s gid g) (hacts : g.acting w ≠ 0#32) (hmerge : t.mergeStall (gidKey gid) g = false)
include hwf hruns ht hacts hmerge

/-- A fence below .SYS, or of the acquire kind, goes on once the caches are empty. -/
theorem exec_mfence_near (hkind : (w.extractLsb' 20 2).toNat < 3) (hscope : (modOf w).toNat ≠ 3 ∨ (w.extractLsb' 20 2).toNat = 2) :
    exec (.mfence gid w) s = .next ((t.fenceCaches (coreKeyOf (gidKey gid))).putGroup (gidKey gid) (Safety.goOn g)) := by
  subst ht
  refine exec_next rfl rfl hwf hruns ?_
  rw [if_neg (Nat.ne_of_lt hkind), if_neg hacts, if_neg (by rw [hmerge]; decide)]
  exact if_neg fun hsys => hscope.elim (fun h => h hsys.1) hsys.2

/-- A release or full fence at .SYS takes its epoch. -/
theorem exec_mfence_sys (hkind : (w.extractLsb' 20 2).toNat < 2) (hscope : (modOf w).toNat = 3) (hused : s.fab.epochUsed = false) :
    exec (.mfence gid w) s = .next ((t.fenceCaches (coreKeyOf (gidKey gid))).putGroup (gidKey gid)
      { g with status := .fence, fence := some ⟨(w.extractLsb' 20 2).toNat, 3, some s.fab.epoch⟩ }) := by
  subst ht
  have hfab : ((Safety.fetched s gid g).fenceCaches (coreKeyOf (gidKey gid))).fab = s.fab := by
    rw [State.fenceCaches_frame]
    rfl
  refine exec_hold rfl rfl hwf hruns ?_
  rw [if_neg (by omega), if_neg hacts, if_neg (by rw [hmerge]; decide)]
  refine (if_pos ⟨hscope, by omega⟩).trans ?_
  rw [startSysFence_first _ _ (by rw [hfab]; exact hused), hfab]

end Mfence

/-! ### Completion and timeout (R381, R382) -/

theorem exec_fenceComplete {s : State} {gid : Gid} {g : Group} {f : Fence} {e : Nat} (hgroup : s.group? (gidKey gid) = some g)
    (hfence : g.fence = some f) (hstatus : g.status = .fence) (hepoch : f.epoch = some e) (hkind : f.kind ≠ 4)
    (hacked : s.unacked e = []) : exec (.fenceComplete gid) s =
      .next (s.putGroup (gidKey gid) { g.countInstr with status := .running, fence := none, pc := g.pc + 8 }) := by
  show execFenceComplete gid s = _
  simp only [execFenceComplete, hgroup, hfence, hstatus, ne_eq, not_true_eq_false, if_false, State.retryEpoch, hepoch, hacked,
    List.isEmpty_nil, if_true, hkind]

/-- A group that parks with some faults, the first of which finds it without a pending replay. -/
theorem State.group?_parkAll {gk : Nat} {x : FaultInfo} {l : List FaultInfo} {s : State} {g : Group} (hg : s.group? gk = some g)
    (hidle : g.status = .parked → g.replay = none) : ∃ h q, (s.parkAll gk (x :: l)).group? gk = some h ∧ h.status = .parked ∧
      h.pc = g.pc ∧ h.fence = g.fence ∧ h.async = g.async ∧ h.record = some q ∧ (l = [] → q.info = x) := by
  obtain ⟨r, n, hinfo, hparked⟩ := State.group?_park_idle x hg hidle
  induction l generalizing s x g r n with
  | nil => exact ⟨_, r, hparked, rfl, rfl, rfl, rfl, rfl, fun _ => hinfo⟩
  | cons y l ih =>
    obtain ⟨r', n', hinfo', hparked'⟩ := State.group?_park_idle y hparked fun _ => rfl
    obtain ⟨h, q, hgroup, hstatus, hpc, hfence, hasync, hrecord, -⟩ := ih hparked (fun _ => rfl) r' n' hinfo' hparked'
    exact ⟨h, q, hgroup, hstatus, hpc, hfence, hasync, hrecord, nofun⟩

section Timeout

variable {s : State} {gid : Gid} {g : Group} {f : Fence} (hgroup : s.group? (gidKey gid) = some g) (hfence : g.fence = some f)
  (hstatus : g.status = .fence) (hpending : s.unacked (f.epoch.getD s.fab.epoch) ≠ [] ∨ f.epoch = none)
include hgroup hfence hstatus hpending

theorem exec_fenceTimeout : exec (.fenceTimeout gid) s =
    if !g.async.isEmpty then .next (s.takeAsync (gidKey gid) { g with fence := none })
    else .next ((s.putGroup (gidKey gid) { g with fence := none }).park (gidKey gid)
      (fenceTimeoutInfo g (s.unacked (f.epoch.getD s.fab.epoch)))) := by
  have hwaits : ¬(g.status ≠ .fence ∨ (s.unacked (f.epoch.getD s.fab.epoch)).isEmpty ∧ f.epoch.isSome) := by
    rintro (h | ⟨hempty, hsome⟩)
    · exact h hstatus
    · rcases hpending with h | h
      · exact h (List.isEmpty_iff.1 hempty)
      · exact absurd hsome (by rw [h]; decide)
  show execFenceTimeout gid s = _
  simp only [execFenceTimeout, hgroup, hfence, hwaits, if_false]

/-- A fence that has waited too long parks its group with the timeout, or with the asynchronous faults found meanwhile. -/
theorem parks_fenceTimeout : ∃ u h q, exec (.fenceTimeout gid) s = .next u ∧ u.group? (gidKey gid) = some h ∧ h.status = .parked ∧
    h.pc = g.pc ∧ h.fence = none ∧ h.record = some q ∧ (g.async = [] → q.info.cause = 0x3B#8) ∧
    (∀ x, g.async = [x] → q.info = x ∧ h.async = []) := by
  have hrun := exec_fenceTimeout hgroup hfence hstatus hpending
  have hnotParked : g.status = .parked → g.replay = none := fun h => absurd (hstatus.symm.trans h) (by decide)
  cases hasync : g.async with
  | nil =>
    obtain ⟨r, n, hinfo, hparked⟩ := State.group?_park_idle (s := s.putGroup (gidKey gid) { g with fence := none })
      (fenceTimeoutInfo g (s.unacked (f.epoch.getD s.fab.epoch))) (State.group?_putGroup_self _ _ _) hnotParked
    refine ⟨_, _, r, hrun.trans (if_neg (by rw [hasync]; decide)), hparked, rfl, rfl, rfl, rfl, fun _ => ?_, nofun⟩
    rw [hinfo]
    rfl
  | cons x l =>
    have hword : s.wordAtPc { g with fence := none } = { g with fence := none } :=
      if_neg fun h => absurd (hstatus.symm.trans h) (by decide)
    obtain ⟨h, q, hparked, hst, hpc, hf, hempty, hrecord, honly⟩ := State.group?_parkAll (x := x) (l := l)
      (s := s.putGroup (gidKey gid) { g with fence := none, async := [] }) (State.group?_putGroup_self _ _ _) hnotParked
    refine ⟨_, h, q, hrun.trans (if_pos (by rw [hasync]; rfl)), ?_, hst, hpc, hf, hrecord, nofun, ?_⟩
    · rw [State.takeAsync, hword]
      dsimp only
      rw [hasync]
      exact hparked
    · rintro y hy
      obtain ⟨rfl, rfl⟩ := List.cons.inj hy
      exact ⟨honly rfl, hempty⟩

end Timeout

/-! ### Barriers (R229) -/

/-- A bank whose entries keep their keys. -/
theorem Bank.find?_map_of {α : Type} {f : Nat × α → Nat × α} (hf : ∀ x, (f x).1 = x.1) (b : Bank α) (k : Nat) :
    Bank.find? (b.map f) k = (Bank.find? b k).map (fun v => (f (k, v)).2) := by
  induction b with
  | nil => rfl
  | cons x b ih =>
    obtain ⟨k', v⟩ := x
    by_cases hk : k' = k
    · subst hk
      simp [Bank.find?, hf]
    · simpa [Bank.find?, hf, hk] using ih

/-- What a barrier's release makes of an entry of the table of groups. -/
def released (gk : Nat) (g : Group) (wide : Bool) (x : Nat × Group) : Nat × Group :=
  if x.2.launch == g.launch && (if wide then clusterKeyOf x.1 else coreKeyOf x.1) == (if wide then clusterKeyOf gk else coreKeyOf gk)
    && x.2.status == .barrier wide && x.2.pc == g.pc then (x.1, { x.2 with status := .running, pc := x.2.pc + 8 }) else x

theorem released_key (gk : Nat) (g : Group) (wide : Bool) (x : Nat × Group) : (released gk g wide x).1 = x.1 :=
  (apply_ite Prod.fst _ _ _).trans (ite_self _)

theorem exec_barrierRelease {s : State} {gid : Gid} {g : Group} {wide : Bool} (hgroup : s.group? (gidKey gid) = some g)
    (hstatus : g.status = .barrier wide) (hcomplete : s.barrierComplete (gidKey gid) g wide = true) :
    exec (.barrierRelease gid) s = .next { s with groups := s.groups.map (released (gidKey gid) g wide) } := by
  show execBarrierRelease gid s = _
  simp only [execBarrierRelease, hgroup, hstatus, hcomplete, if_true]
  rfl

/-- Settles O18: a fence empties its caches and goes on or takes its epoch; a barrier's release maps the groups that wait. -/
theorem fenceAndBarrierResults : Obligations.FenceAndBarrierResults := by
  refine ⟨?fence, ?complete, ?timeout, ?barrier⟩
  case fence =>
    rintro gid w s g t hwf hruns ht hacts hmerge
    have hframe := t.fenceCaches_frame (coreKeyOf (gidKey gid))
    refine ⟨fun hkind hscope => ⟨_, exec_mfence_near hwf hruns ht hacts hmerge hkind hscope, State.group?_putGroup_self _ _ _,
      State.l0d_fenceCaches _ _, ?_, ?_⟩, fun hkind hscope hused => ⟨_, exec_mfence_sys hwf hruns ht hacts hmerge hkind hscope hused,
      State.group?_putGroup_self _ _ _, ?_⟩⟩
    · rw [show clusterKeyOf (gidKey gid) = coreKeyOf (gidKey gid) / 4 from (Nat.div_div_eq_div_mul _ 16 4).symm]
      exact State.cache_fenceCaches _ _
    · subst ht
      rw [hframe]
      exact ⟨rfl, rfl, rfl⟩
    · subst ht
      rw [hframe]
      rfl
  case complete =>
    exact fun gid s g f e hgroup hfence hstatus hepoch hkind hacked =>
      ⟨_, exec_fenceComplete hgroup hfence hstatus hepoch hkind hacked, rfl, State.group?_putGroup_self _ _ _,
        fun k hk => State.group?_putGroup_ne _ _ hk⟩
  case timeout => exact fun gid s g f hgroup hfence hstatus hpending => parks_fenceTimeout hgroup hfence hstatus hpending
  case barrier =>
    intro gid s g wide hgroup hstatus hcomplete
    have hmap : ∀ k, Bank.find? (s.groups.map (released (gidKey gid) g wide)) k =
        (s.group? k).map (fun h => (released (gidKey gid) g wide (k, h)).2) :=
      Bank.find?_map_of (released_key _ _ _) s.groups
    refine ⟨_, exec_barrierRelease hgroup hstatus hcomplete, rfl, ?_, fun k h hk hother => ?_⟩
    · refine (hmap _).trans ?_
      rw [hgroup, Option.map_some, released, if_pos (by simp [hstatus])]
    · refine (hmap k).trans ?_
      rw [hk, Option.map_some, released, if_neg]
      simp only [Bool.and_eq_true, beq_iff_eq]
      rintro ⟨⟨⟨hlaunch, -⟩, hst⟩, hpc⟩
      rcases hother with h | h | h
      · exact h hlaunch
      · exact h hpc
      · exact h hst

end Sys2Proof.Machine

/-! PROOFS. What the shared caches, the miss-tracking entries and the counters of an access change: no byte of a memory, no group and
nothing of the host. -/

namespace Sys2Proof.Machine

/-- `t` differs from `s` in clusters, cores, arbiters and counters, and in its memories in no byte. -/
def State.cachesOnly (t s : State) : Prop :=
  t = { s with clusters := t.clusters, cores := t.cores, arb := t.arb, mgmt := t.mgmt, cask := t.cask,
               mem := { t.mem with hbm := s.mem.hbm, store := s.mem.store, host := s.mem.host } }

namespace State

theorem cachesOnly.trans {r t s : State} (g : r.cachesOnly t) (h : t.cachesOnly s) : r.cachesOnly s :=
  Eq.trans g (congrArg (fun u : State =>
    { u with clusters := r.clusters, cores := r.cores, arb := r.arb, mgmt := r.mgmt, cask := r.cask,
             mem := { r.mem with hbm := u.mem.hbm, store := u.mem.store, host := u.mem.host } }) h)

theorem cachesOnly.foldl {α : Type} {f : State → α → State} (h : ∀ t x, (f t x).cachesOnly t) (l : List α) (s : State) :
    (l.foldl f s).cachesOnly s :=
  List.foldlRecOn (motive := fun t : State => t.cachesOnly s) l f rfl fun t ht x _ => (h t x).trans ht

/-- Of two ways to go on, both keep the bytes. -/
theorem cachesOnly.ite {p : Prop} [Decidable p] {t u s : State} (h : t.cachesOnly s) (g : u.cachesOnly s) :
    (if p then t else u).cachesOnly s := by
  split
  · exact h
  · exact g

section Kept

variable {t s : State} (h : t.cachesOnly s)
include h

theorem cachesOnly.hbm : t.mem.hbm = s.mem.hbm := (congrArg (fun u : State => u.mem.hbm) h :)
theorem cachesOnly.store : t.mem.store = s.mem.store := (congrArg (fun u : State => u.mem.store) h :)
theorem cachesOnly.hostBytes : t.mem.host = s.mem.host := (congrArg (fun u : State => u.mem.host) h :)
theorem cachesOnly.host : t.host = s.host := (congrArg State.host h :)
theorem cachesOnly.groups : t.groups = s.groups := (congrArg State.groups h :)

end Kept

theorem caskOnly.cachesOnly {t s : State} (h : t.caskOnly s) : t.cachesOnly s := (congrArg (fun u : State => u.cachesOnly s) h).mpr rfl

/-! ### The slices of the shared caches (R286, R287) -/

theorem cachesOnly_charge (s : State) (v d : Nat) : (s.charge v d).cachesOnly s := by
  unfold State.charge
  exact .ite rfl rfl

theorem cachesOnly_unusedPrefetch (s : State) (x : Nat) : (s.unusedPrefetch x).cachesOnly s := by
  dsimp only [State.unusedPrefetch]
  refine .foldl (fun t x => ?_) _ s
  rfl

theorem cachesOnly_lineOut (s : State) (k : Nat) (x : SliceLine) : (s.lineOut k x).cachesOnly s :=
  .ite rfl ((cachesOnly_unusedPrefetch _ _).trans (.ite (cachesOnly_charge _ _ _) rfl))

theorem cachesOnly_lineIn (s : State) (k : Nat) (x : SliceLine) : (s.lineIn k x).cachesOnly s := by
  dsimp only [State.lineIn]
  split
  · next y _ => exact cachesOnly.trans rfl (s.cachesOnly_lineOut k y)
  · rfl

theorem cachesOnly_homeUse (s : State) (p : Place) : (s.homeUse p).cachesOnly s := cachesOnly_lineIn s _ _

theorem cachesOnly_homeWrite (s : State) (v : Nat) (p : Place) : (s.homeWrite v p).cachesOnly s := by
  unfold State.homeWrite
  dsimp only
  refine .ite rfl ((cachesOnly_lineIn _ _ _).trans (.foldl (fun t d => ?_) _ s))
  exact .ite rfl rfl

theorem cachesOnly_homeWrites (s : State) (v : Nat) (p : Place) (n : Nat) : (s.homeWrites v p n).cachesOnly s :=
  .foldl (fun t i => t.cachesOnly_homeWrite v (p.plus (256 * i))) _ s

theorem cachesOnly_clearPoison (s : State) (p : Place) (n : Nat) : (s.clearPoison p n).cachesOnly s := by cases p <;> rfl

theorem cachesOnly_dropTags (s : State) (p : Place) (n : Nat) : (s.dropTags p n).cachesOnly s := rfl

theorem cachesOnly_hbmUe (s : State) (a requester : Nat) : (s.hbmUe a requester).cachesOnly s :=
  (caskOnly_caskPost _ _ _ _ _).cachesOnly.trans rfl

theorem cachesOnly_arrayRead (s : State) (a : Nat) (ecc : EccResult) (requester : Nat) :
    (s.arrayRead a ecc requester).cachesOnly s := by
  have huse := s.cachesOnly_homeUse (.fast a)
  cases ecc with
  | clean => exact huse
  | corrected => exact cachesOnly.trans rfl huse
  | uncorrectable => exact .ite huse ((cachesOnly_hbmUe _ a requester).trans (cachesOnly.trans rfl huse))

theorem cachesOnly_readArrays (s : State) (a n requester : Nat) : (s.readArrays a n requester).cachesOnly s :=
  .foldl (fun t (x : Nat × EccResult) => t.cachesOnly_arrayRead (256 * x.1) x.2 requester) _ s

theorem cachesOnly_readRange (s : State) (k va n : Nat) : (s.readRange k va n).cachesOnly s :=
  .foldl (fun t p => by
    split
    · exact t.cachesOnly_readArrays _ _ 1
    · rfl) _ s

/-! ### Sector requests of a cluster (R302, R308) -/

theorem cachesOnly_endWaits (s : State) (cl : Nat) (o : MissOwner) : (s.endWaits cl o).cachesOnly s := .ite rfl rfl

theorem cachesOnly_trainTracker (s : State) (cl a : Nat) : (s.trainTracker cl a).cachesOnly s := .ite rfl rfl

theorem cachesOnly_demandPrefetched (s : State) (cl k : Nat) : (s.demandPrefetched cl k).cachesOnly s := .ite rfl rfl

theorem cachesOnly_followStream (s : State) (cl a : Nat) : (s.followStream cl a).cachesOnly s := by
  dsimp only [State.followStream]
  split <;> rfl

theorem cachesOnly_demandAll (s : State) (cl : Nat) (sectors : List (Nat × Nat)) : (s.demandAll cl sectors).cachesOnly s :=
  .foldl (fun t (x : Nat × Nat) => (cachesOnly_followStream _ cl x.2).trans (t.cachesOnly_demandPrefetched cl x.1)) _ s

theorem cachesOnly_obtain (s : State) (cl v : Nat) (o : MissOwner) (r : SectorReq) : (s.obtain cl v o r).2.cachesOnly s := by
  unfold State.obtain
  split
  · split <;> rfl
  · next a _ =>
    dsimp only
    split
    · rfl
    · split
      · next e _ =>
        split
        · rfl
        · exact (cachesOnly_arrayRead _ a r.ecc r.requester).trans rfl
      · split
        · rfl
        · split
          · rfl
          · split
            · rfl
            · exact (cachesOnly_arrayRead _ a r.ecc r.requester).trans (cachesOnly_charge s _ _)

theorem cachesOnly_obtainAll (cl v : Nat) (o : MissOwner) (l : List SectorReq) (got : List Nat) (s : State) :
    (State.obtainAll cl v o l got s).2.2.cachesOnly s := by
  induction l generalizing got s with
  | nil => rfl
  | cons r l ih =>
    unfold State.obtainAll
    split
    · exact ih got s
    · have hasked := s.cachesOnly_obtain cl v o r
      dsimp only
      split
      · exact (ih _ _).trans (.ite ((cachesOnly_trainTracker _ cl r.va).trans hasked) hasked)
      · exact (ih _ _).trans hasked

theorem cachesOnly_groupObtain (s : State) (gk : Nat) (g : Group) (sectors : List (Nat × Nat)) (reqs : List SectorReq) :
    (s.groupObtain gk g sectors reqs).2.2.cachesOnly s :=
  (cachesOnly_obtainAll _ _ _ reqs g.got _).trans ((cachesOnly_demandAll _ _ sectors).trans (s.cachesOnly_endWaits _ _))

theorem cachesOnly_patchCaches (s : State) (ck sector o : Nat) (bs : Bytes) : (s.patchCaches ck sector o bs).cachesOnly s := rfl

/-! ### Writes of the coherence domain -/

/-- A write: the caches take part, and then its bytes are stored. -/
theorem domainWrite_bytes (s : State) (v : Nat) (p : Place) (bs : Bytes) :
    ∃ t : State, t.cachesOnly s ∧ s.domainWrite v p bs = t.writePlace p bs :=
  ⟨_, (cachesOnly_dropTags _ p _).trans ((cachesOnly_clearPoison _ p _).trans (s.cachesOnly_homeWrites v p _)), rfl⟩

@[simp] theorem host_writePlace (s : State) (p : Place) (bs : Bytes) : (s.writePlace p bs).host = s.host := by cases p <;> rfl

@[simp] theorem host_domainWrite (s : State) (v : Nat) (p : Place) (bs : Bytes) : (s.domainWrite v p bs).host = s.host := by
  obtain ⟨t, ht, hw⟩ := s.domainWrite_bytes v p bs
  rw [hw, host_writePlace, ht.host]

theorem host_storeAs (s : State) (writer k va : Nat) (bs : Bytes) : (s.storeAs writer k va bs).host = s.host := by
  unfold State.storeAs
  refine List.foldlRecOn (motive := fun a : State × Bytes => a.1.host = s.host) _ _ rfl fun a ha p _ => ?_
  split
  · exact (host_domainWrite _ _ _ _).trans ha
  · exact ha

@[simp] theorem host_storeRange (s : State) (k va : Nat) (bs : Bytes) : (s.storeRange k va bs).host = s.host := s.host_storeAs _ k va bs

end State

end Sys2Proof.Machine

/-! PROOFS. O46: commands of context queues. Each acts in one step; most complete at once, which changes the queue of the command
alone. -/

namespace Sys2Proof.Machine

/-! ### What a posting to the host keeps -/

/-- `t` has the bytes of fast memory and of the cluster stores, and the kernels, of `s`. -/
structure State.postKept (t s : State) : Prop where
  hbm : t.mem.hbm = s.mem.hbm
  store : t.mem.store = s.mem.store
  kernels : t.host.kernels = s.host.kernels

namespace State

theorem postKept.trans {r t s : State} (g : r.postKept t) (h : t.postKept s) : r.postKept s :=
  ⟨g.hbm.trans h.hbm, g.store.trans h.store, g.kernels.trans h.kernels⟩

theorem postKept_onCtx (s : State) (k : Nat) (f : Ctx → Ctx) : (s.onCtx k f).postKept s := by
  unfold State.onCtx
  split <;> exact ⟨rfl, rfl, rfl⟩

theorem postKept_ringVector (s : State) (k : Nat) (sel : Ctx → Ring) (upd : Ctx → Ring → Ctx) :
    (s.ringVector k sel upd).postKept s := by
  unfold State.ringVector
  split
  · split <;> exact ⟨rfl, rfl, rfl⟩
  · exact ⟨rfl, rfl, rfl⟩

theorem postKept_noteStop (s : State) (k : Nat) : (s.noteStop k).postKept s := by
  unfold State.noteStop
  split
  · split <;> exact ⟨rfl, rfl, rfl⟩
  · exact ⟨rfl, rfl, rfl⟩

theorem postKept_event (s : State) (k : Nat) (e : Event) : (s.event k e).postKept s := by
  unfold State.event
  split
  · exact ⟨rfl, rfl, rfl⟩
  · split
    · exact (postKept_noteStop _ k).trans ((postKept_ringVector _ k _ _).trans ⟨rfl, rfl, rfl⟩)
    · exact ⟨rfl, rfl, rfl⟩

/-- An object that is released or dropped leaves the kernels. -/
theorem kernels_releaseObj (s : State) (ok : Nat) (o : MemObj) : (s.releaseObj ok o).host.kernels = s.host.kernels := by
  have hgen := (s.postKept_onCtx (ok / 65536) fun c => { c with objGen := c.objGen.put (ok % 65536) (o.gen + 1) }).kernels
  have hclear : ∀ t : State, (if o.fast then t.clearPages o.pages o.pageBytes else t).host.kernels = t.host.kernels := by
    intro t
    split <;> rfl
  refine (hclear _).trans ?_
  split
  · exact (postKept_event _ _ _).kernels.trans hgen
  · exact hgen

theorem kernels_dropObj (s : State) (ok : Nat) : (s.dropObj ok).host.kernels = s.host.kernels := by
  unfold State.dropObj
  split
  · split
    · exact s.kernels_releaseObj ok _
    · rfl
  · rfl

/-! ### The command of a state with other parts changed -/

theorem cmd?_of_host {s t : State} (hqueues : t.host.queues = s.host.queues) (hrings : t.host.adminRing = s.host.adminRing)
    (r : CmdRef) : t.cmd? r = s.cmd? r := by
  simp only [State.cmd?, State.queueAt, hqueues, hrings]

/-- A kernel that is put or settled leaves the commands. -/
theorem cmd?_settleKernel (s : State) (kk : Nat) (x : Kernel) (r : CmdRef) : (s.settleKernel kk x).cmd? r = s.cmd? r := by
  unfold State.settleKernel
  split
  · have hkept := State.fatesKept_dropObj { s with host.kernels := s.host.kernels.erase kk } x.obj
    exact cmd?_of_host hkept.queues hkept.rings r
  · rfl

theorem kernel_settleKernel (s : State) (kk : Nat) (x : Kernel) : (s.settleKernel kk x).host.kernels.find? kk =
    if x.refs = 0 ∧ !x.hostRef then none else some x := by
  unfold State.settleKernel
  split
  · rw [kernels_dropObj]
    exact Bank.find?_erase_self _ _
  · exact Bank.find?_put_self _ _ _

end State

/-! ### Commands that complete at once -/

theorem cmd?_of_started {s : State} {r : CmdRef} {op : Nat} {c : Cmd} (h : Safety.started s r op c) : s.cmd? r = some c := by
  obtain ⟨hcmd, -⟩ := h
  exact hcmd

section Commands

variable {s : State} {r : CmdRef} {op : Nat} {c : Cmd} {body : Cmd → Nat → State → State} {o : Out}

/-- A command whose body completes in a changed state with the same queues. -/
theorem done_of_body {t : State} {status detail : Nat} (ho : o = runCmd op r body s) (h : Safety.started s r op c)
    (hbody : body c (s.cmdCtx r) s = t.finish r status detail) (hsame : t.cmd? r = s.cmd? r) :
    o = .next (t.finish r status detail) ∧ Safety.done (t.finish r status detail) r status detail := by
  refine ⟨ho.trans ((runCmd_started body h).trans (congrArg Host.Outcome.next hbody)), ?_⟩
  exact Safety.done_finish (hsame.trans (cmd?_of_started h)) status detail

/-- A command that completes and changes no more than its queue. -/
theorem done_only {status detail : Nat} (ho : o = runCmd op r body s) (h : Safety.started s r op c)
    (hbody : body c (s.cmdCtx r) s = s.finish r status detail) : ∃ u, o = .next u ∧ Safety.done u r status detail ∧
      u = { s with host.queues := u.host.queues } := by
  obtain ⟨hrun, hdone⟩ := done_of_body ho h hbody rfl
  exact ⟨_, hrun, hdone, s.finish_queues r status detail⟩

end Commands

/-! ### MAP_SYNC (R397) -/

/-- The code of context `k` in a range, by its key in the L0 instruction cache; `n` = 0 names the whole context. -/
def codeHit (k a n i : Nat) : Bool :=
  i / 2 ^ 40 == k && (n == 0 || (decide (a < (i % 2 ^ 40 + 1) * 256) && decide (i % 2 ^ 40 * 256 < a + n)))

/-- The cores without that code. -/
def State.dropCode (s : State) (k a n : Nat) : State :=
  { s with cores := s.cores.map (fun x => (x.1, { x.2 with l0i := x.2.l0i.filter (fun i => !codeHit k a n i) })) }

theorem State.core_dropCode (s : State) (k a n ck : Nat) :
    (s.dropCode k a n).core ck = { s.core ck with l0i := (s.core ck).l0i.filter (fun i => !codeHit k a n i) } := by
  have hmap := Bank.find?_map_of (f := fun x : Nat × Core => (x.1, { x.2 with l0i := x.2.l0i.filter (fun i => !codeHit k a n i) }))
    (fun _ => rfl) s.cores ck
  unfold State.core Bank.get
  rw [State.dropCode, hmap]
  cases Bank.find? s.cores ck <;> rfl

theorem mem_dropCode {l : List Nat} {k a n i : Nat} : i ∈ l.filter (fun i => !codeHit k a n i) ↔ i ∈ l ∧
    ¬(i / 2 ^ 40 = k ∧ (n = 0 ∨ (a < (i % 2 ^ 40 + 1) * 256 ∧ i % 2 ^ 40 * 256 < a + n))) := by
  simp only [List.mem_filter, codeHit, Bool.not_eq_true', Bool.eq_false_iff, ne_eq, Bool.and_eq_true, Bool.or_eq_true, beq_iff_eq,
    decide_eq_true_eq]

theorem mapSync_acts {s : State} {r : CmdRef} {c : Cmd} (h : Safety.started s r 0x18 c) :
    ∃ u, exec (.mapSync r) s = .next u ∧ Safety.done u r 0 0 ∧ u = { s with host.queues := u.host.queues, cores := u.cores } ∧
      ∀ ck, u.core ck = { s.core ck with l0i := (u.core ck).l0i } ∧ ∀ i, i ∈ (u.core ck).l0i ↔ i ∈ (s.core ck).l0i ∧
        ¬(i / 2 ^ 40 = s.cmdCtx r ∧ (c.arg 64 48 = 0 ∨ (c.arg 0 48 < (i % 2 ^ 40 + 1) * 256 ∧
          i % 2 ^ 40 * 256 < c.arg 0 48 + c.arg 64 48))) := by
  obtain ⟨hrun, hdone⟩ := done_of_body (t := s.dropCode (s.cmdCtx r) (c.arg 0 48) (c.arg 64 48)) 
    (o := execMapSync r s) rfl h rfl rfl
  have hframe := (s.dropCode (s.cmdCtx r) (c.arg 0 48) (c.arg 64 48)).finish_queues r 0 0
  refine ⟨_, hrun, hdone, by rw [hframe]; rfl, fun ck => ?_⟩
  have hcore : ((s.dropCode (s.cmdCtx r) (c.arg 0 48) (c.arg 64 48)).finish r 0 0).core ck =
      (s.dropCode (s.cmdCtx r) (c.arg 0 48) (c.arg 64 48)).core ck := by
    rw [hframe]
    rfl
  rw [hcore, State.core_dropCode]
  exact ⟨rfl, fun i => mem_dropCode⟩

/-! ### Kernels (R398, R410) -/

/-- A kernel enters the table. -/
def State.enterKernel (s : State) (kk : Nat) (x : Kernel) : State := { s with host.kernels := s.host.kernels.put kk x }

section Kernels

variable {s : State} {r : CmdRef} {c : Cmd}

/-- KERNEL_LOAD of a sound image takes the lowest free number. -/
theorem kernelLoad_takes {k h ok n : Nat} {x : Kernel} {o : MemObj} (hstart : Safety.started s r 0x10 c) (hk : k = s.cmdCtx r)
    (hrange : s.inRange k (c.arg 0 48) 64 .load = true) (hh : h = leNat (s.readVirt k (c.arg 0 48) 64))
    (hx : x = imageKernel h (c.arg 0 48)) (hsound : imageStatus h (s.layoutOf k) x = 0) (hcode : s.codeObject k x = some ok)
    (hobj : s.host.objects.find? ok = some o) (href : o.hostRef = true) (hfree : s.freeKernel k = some n) :
    ∃ u, exec (.kernelLoad r) s = .next u ∧ Safety.done u r 0 n ∧ u.mem = s.mem ∧
      u.host.kernels.find? (k * 65536 + n) = some { x with obj := ok } ∧
      u.host.objects.find? ok = some { o with refs := o.refs + 1 } := by
  subst hk hh
  have htaken : s.takeObj ok = { s with host.objects := s.host.objects.put ok { o with refs := o.refs + 1 } } := by
    rw [State.takeObj, hobj]
  obtain ⟨hrun, hdone⟩ := done_of_body (o := execKernelLoad r s) (status := 0) (detail := n)
    (t := (s.takeObj ok).enterKernel (s.cmdCtx r * 65536 + n) { x with obj := ok }) rfl hstart
    (by simp [hrange, hsound, hcode, hobj, href, hfree, State.enterKernel, ← hx]) (by rw [htaken]; rfl)
  refine ⟨_, hrun, hdone, ?_, ?_, ?_⟩
  · rw [State.mem_finish, htaken]
    rfl
  · rw [State.finish_queues]
    exact Bank.find?_put_self _ _ _
  · rw [State.finish_queues, htaken]
    exact Bank.find?_put_self _ _ _

/-- KERNEL_UNLOAD drops the host reference. -/
theorem kernelUnload_drops {kk : Nat} {x : Kernel} (h : Safety.started s r 0x11 c) (hkk : kk = s.cmdCtx r * 65536 + c.arg 0 16)
    (hx : s.host.kernels.find? kk = some x) (href : x.hostRef = true) : ∃ u, exec (.kernelUnload r) s = .next u ∧
      Safety.done u r 0 0 ∧ u.host.kernels.find? kk = if x.refs = 0 then none else some { x with hostRef := false } := by
  subst hkk
  obtain ⟨hrun, hdone⟩ := done_of_body (o := execKernelUnload r s) (status := 0) (detail := 0)
    (t := s.settleKernel (s.cmdCtx r * 65536 + c.arg 0 16) { x with hostRef := false }) rfl h (by simp only [hx, href, if_true])
    (State.cmd?_settleKernel s _ _ r)
  refine ⟨_, hrun, hdone, ?_⟩
  rw [State.finish_queues]
  refine (State.kernel_settleKernel s _ _).trans ?_
  simp

end Kernels

/-! ### KERNEL_ABORT (R243) -/

section Abort

variable {s : State} {r : CmdRef} {c : Cmd}

/-- The abort of a kernel that does not run completes. -/
theorem kernelAbort_idle (h : Safety.started s r 0x13 c)
    (hidle : ∀ x ∈ s.host.launches, x.2.kernel ≠ s.cmdCtx r * 65536 + c.arg 0 16) : ∃ u, exec (.kernelAbort r) s = .next u ∧
      u = { s with host.queues := u.host.queues } ∧
      Safety.done u r (if (s.host.kernels.find? (s.cmdCtx r * 65536 + c.arg 0 16)).isNone then 1 else 0) 0 := by
  have hnone : s.host.launches.filter (fun x => x.2.kernel == s.cmdCtx r * 65536 + c.arg 0 16) = [] := by
    simpa [List.filter_eq_nil_iff] using hidle
  obtain ⟨u, hrun, hdone, hframe⟩ := done_only (o := execKernelAbort r s) (detail := 0)
    (status := if (s.host.kernels.find? (s.cmdCtx r * 65536 + c.arg 0 16)).isNone then 1 else 0) rfl h (by
      simp only [hnone]
      split <;> rfl)
  exact ⟨u, hrun, hframe, hdone⟩

/-- The abort of a kernel's only launch stops it, and waits for it. -/
theorem kernelAbort_running {id : Nat} {l : Launch} (h : Safety.started s r 0x13 c) (hlaunches : s.host.launches = [(id, l)])
    (hgroups : s.groups = []) (hkernel : l.kernel = s.cmdCtx r * 65536 + c.arg 0 16) (hknown : s.host.kernels.find? l.kernel ≠ none) :
    ∃ u, exec (.kernelAbort r) s = .next u ∧
      u.host.launches = [(id, { l with stopped := true, aborters := l.aborters ++ [r] })] ∧ u.cmd? r = some { c with busy := true } := by
  have hsome : ¬(s.host.kernels.find? (s.cmdCtx r * 65536 + c.arg 0 16)).isNone = true := by
    rw [← hkernel]
    simpa using hknown
  have hstopped : s.abortLaunch id = { s with host.launches := [(id, { l with stopped := true })] } := by
    simp [State.abortLaunch, State.launch?, State.groupsOf, hlaunches, hgroups, Bank.find?, Bank.put]
  have hrun : execKernelAbort r s = .next (({ s with host.launches :=
      [(id, { l with stopped := true, aborters := l.aborters ++ [r] })] } : State).keepBusy r) := by
    refine (runCmd_started _ h).trans (congrArg Host.Outcome.next ?_)
    simp [hsome, hlaunches, hkernel, hstopped, State.launch?, Bank.find?, Bank.put]
  refine ⟨_, hrun, ?_, State.cmd?_keepBusy (cmd?_of_started h)⟩
  rw [State.keepBusy_queues]

end Abort

/-! ### LAUNCH (R408) -/

section Launch

variable {s : State} {r : CmdRef} {c : Cmd}

/-- The launch that a command of context `k` without a condition enters. -/
def plainLaunch (s : State) (k : Nat) (r : CmdRef) (c : Cmd) : Launch :=
  { ctx := k, kernel := k * 65536 + c.arg 96 16, groups := c.arg 64 32, lastLive := c.arg 48 5,
    args := (List.range 16).map (fun i => BitVec.ofNat 32 (leNat (((s.readVirt k (c.arg 0 48) 64).drop (4 * i)).take 4))), cond := none,
    cmd := r, cookie := BitVec.ofNat 32 c.cookie, layer := BitVec.ofNat 16 c.layer, op := BitVec.ofNat 16 c.opId, queue := r.q.val }

/-- A launch enters the table under the next number. -/
def State.enterLaunch (s : State) (l : Launch) : State :=
  { s with host.launches := s.host.launches.put s.host.nextLaunch l, host.nextLaunch := s.host.nextLaunch + 1 }

theorem exec_launch_plain {k : Nat} (h : Safety.started s r 0x12 c) (hk : k = s.cmdCtx r) (hgroups : c.arg 64 32 ≠ 0)
    (halign : c.arg 0 48 % 128 = 0) (hrange : s.inRange k (c.arg 0 48) 128 .load = true) (hkind : (launchCond c (ctxVi k)).kind = 0)
    (hplain : c.arg 130 14 = 0) : exec (.launch r) s = .next ((s.enterLaunch (plainLaunch s k r c)).keepBusy r) := by
  subst hk
  have hcond : s.condState c (ctxVi (s.cmdCtx r)) = .plain := by simp [State.condState, hplain, hkind]
  have hgood : ¬(c.arg 64 32 = 0 ∨ c.arg 0 48 % 128 ≠ 0 ∨ (!s.inRange (s.cmdCtx r) (c.arg 0 48) 128 .load) = true) := by
    simp [hgroups, halign, hrange]
  refine (show execLaunch r s = _ from runCmd_started _ h).trans (congrArg Host.Outcome.next ?_)
  rw [hcond]
  exact if_neg hgood

/-- A launch without a condition waits in the table for its kernel. -/
theorem launch_enters {k : Nat} (h : Safety.started s r 0x12 c) (hk : k = s.cmdCtx r) (hgroups : c.arg 64 32 ≠ 0)
    (halign : c.arg 0 48 % 128 = 0) (hrange : s.inRange k (c.arg 0 48) 128 .load = true) (hkind : (launchCond c (ctxVi k)).kind = 0)
    (hplain : c.arg 130 14 = 0) : ∃ u l, exec (.launch r) s = .next u ∧ u.launch? s.host.nextLaunch = some l ∧ l.ctx = k ∧
      l.kernel = k * 65536 + c.arg 96 16 ∧ l.groups = c.arg 64 32 ∧ l.lastLive = c.arg 48 5 ∧ l.cond = none ∧ l.stopped = false ∧
      l.started = [] ∧ l.cmd = r ∧ u.cmd? r = some { c with busy := true } ∧ u = { s with host := u.host } := by
  have hframe := (s.enterLaunch (plainLaunch s k r c)).keepBusy_queues r
  refine ⟨_, plainLaunch s k r c, exec_launch_plain h hk hgroups halign hrange hkind hplain, ?_, rfl, rfl, rfl, rfl, rfl, rfl, rfl, rfl,
    State.cmd?_keepBusy (s := s.enterLaunch _) (cmd?_of_started h), ?_⟩
  · rw [hframe]
    exact Bank.find?_put_self _ _ _
  · rw [hframe]
    rfl

/-- A condition of kind 3 is refused. -/
theorem launch_refused (h : Safety.started s r 0x12 c) (hkind : (launchCond c (ctxVi (s.cmdCtx r))).kind = 3) :
    ∃ u, exec (.launch r) s = .next u ∧ Safety.done u r 8 0 ∧ u = { s with host.queues := u.host.queues } := by
  have hcond : s.condState c (ctxVi (s.cmdCtx r)) = .refused := by
    simp [State.condState, hkind]
  exact done_only (o := execLaunch r s) rfl h (by rw [hcond])

end Launch

/-! ### COPY and FILL (R407) -/

section Ranges

variable {s : State} {r : CmdRef} {c : Cmd}

theorem copy_acts (h : Safety.started s r 0x16 c) {n : Nat} (hn : n = c.arg 128 32)
    (hload : s.inRange (s.cmdCtx r) (c.arg 0 48) n .load = true) (hstore : s.inRange (s.cmdCtx r) (c.arg 64 48) n .store = true) :
    ∃ u, exec (.copy r) s = .next u ∧ Safety.done u r 0 0 ∧ u.mem = ((s.readRange (s.cmdCtx r) (c.arg 0 48) n).storeRange
      (s.cmdCtx r) (c.arg 64 48) (s.readVirt (s.cmdCtx r) (c.arg 0 48) n)).mem := by
  subst hn
  have hhost := (State.host_storeRange _ (s.cmdCtx r) (c.arg 64 48) (s.readVirt (s.cmdCtx r) (c.arg 0 48) (c.arg 128 32))).trans
    (s.cachesOnly_readRange (s.cmdCtx r) (c.arg 0 48) (c.arg 128 32)).host
  obtain ⟨hrun, hdone⟩ := done_of_body (o := execCopy r s) (status := 0) (detail := 0) rfl h (if_pos (by rw [hload, hstore]; rfl))
    (State.cmd?_of_host (congrArg Host12.queues hhost) (congrArg Host12.adminRing hhost) r)
  exact ⟨_, hrun, hdone, State.mem_finish _ _ _ _⟩

theorem copy_range (h : Safety.started s r 0x16 c) {n : Nat} (hn : n = c.arg 128 32)
    (hout : s.inRange (s.cmdCtx r) (c.arg 0 48) n .load = false ∨ s.inRange (s.cmdCtx r) (c.arg 64 48) n .store = false) :
    ∃ u, exec (.copy r) s = .next u ∧ Safety.done u r 5 0 ∧ u = { s with host.queues := u.host.queues } := by
  subst hn
  exact done_only (o := execCopy r s) rfl h (if_neg (by rcases hout with h | h <;> simp [h]))

theorem fill_acts (h : Safety.started s r 0x17 c) (hstore : s.inRange (s.cmdCtx r) (c.arg 0 48) (c.arg 64 32) .store = true) :
    ∃ u, exec (.fill r) s = .next u ∧ Safety.done u r 0 0 ∧
      u.mem = (s.storeRange (s.cmdCtx r) (c.arg 0 48) (patternBytes (c.arg 128 32) (c.arg 64 32))).mem := by
  have hhost := s.host_storeRange (s.cmdCtx r) (c.arg 0 48) (patternBytes (c.arg 128 32) (c.arg 64 32))
  obtain ⟨hrun, hdone⟩ := done_of_body (o := execFill r s) (status := 0) (detail := 0) rfl h (if_pos hstore)
    (State.cmd?_of_host (congrArg Host12.queues hhost) (congrArg Host12.adminRing hhost) r)
  exact ⟨_, hrun, hdone, State.mem_finish _ _ _ _⟩

theorem fill_range (h : Safety.started s r 0x17 c) (hout : s.inRange (s.cmdCtx r) (c.arg 0 48) (c.arg 64 32) .store = false) :
    ∃ u, exec (.fill r) s = .next u ∧ Safety.done u r 5 0 ∧ u = { s with host.queues := u.host.queues } :=
  done_only (o := execFill r s) rfl h (if_neg (by rw [hout]; decide))

end Ranges

/-! ### O46 -/

/-- Settles O46: each command acts in one step and completes, or waits for its kernel. -/
theorem queueCommandsAct : Obligations.QueueCommandsAct := by
  refine ⟨?nop, ?load, ?unload, ?abort, ?running, ?launch, ?refused, ?copy, ?fill⟩
  case nop => exact fun r c s => ⟨fun h => done_only (o := execNopCommand r s) rfl h rfl, mapSync_acts⟩
  case load =>
    intro r c k h x s hstart hk hrange hh hx
    refine ⟨fun hbad => ?_, fun ok o n => kernelLoad_takes hstart hk hrange hh hx⟩
    subst hk hh hx
    exact done_only (o := execKernelLoad r s) rfl hstart (by simp [hrange, hbad])
  case unload =>
    intro r c kk s hstart hkk
    refine ⟨fun hnone => ?_, fun x hx href hrefs => ?_, fun x hx href hrefs => ?_⟩
    · subst hkk
      exact done_only (o := execKernelUnload r s) rfl hstart (by simp only [hnone])
    · simpa only [if_neg hrefs] using kernelUnload_drops hstart hkk hx href
    · simpa only [if_pos hrefs] using kernelUnload_drops hstart hkk hx href
  case abort => exact fun r c s => kernelAbort_idle
  case running => exact fun r c id l s => kernelAbort_running
  case launch =>
    exact fun r c k s hstart hk hgroups halign hrange hcond hplain =>
      launch_enters hstart hk hgroups halign hrange (congrArg SpecCond.kind hcond) hplain
  case refused => exact fun r c s => launch_refused
  case copy =>
    intro r c k s hstart hk
    subst hk
    cases hload : s.inRange (s.cmdCtx r) (c.arg 0 48) (c.arg 128 32) .load
    case false =>
      obtain ⟨u, hrun, hout⟩ := copy_range hstart rfl (.inl hload)
      exact ⟨u, hrun, nofun, fun _ => hout⟩
    case true =>
      cases hstore : s.inRange (s.cmdCtx r) (c.arg 64 48) (c.arg 128 32) .store
      case false =>
        obtain ⟨u, hrun, hout⟩ := copy_range hstart rfl (.inr hstore)
        exact ⟨u, hrun, nofun, fun _ => hout⟩
      case true =>
        obtain ⟨u, hrun, hcopied⟩ := copy_acts hstart rfl hload hstore
        exact ⟨u, hrun, fun _ _ => hcopied, nofun⟩
  case fill =>
    intro r c k s hstart hk
    subst hk
    cases hstore : s.inRange (s.cmdCtx r) (c.arg 0 48) (c.arg 64 32) .store
    case false =>
      obtain ⟨u, hrun, hout⟩ := fill_range hstart hstore
      exact ⟨u, hrun, nofun, fun _ => hout⟩
    case true =>
      obtain ⟨u, hrun, hfilled⟩ := fill_acts hstart hstore
      exact ⟨u, hrun, fun _ => hfilled, nofun⟩

end Sys2Proof.Machine

/-! PROOFS. O16: ST. The bytes of a store, what the caches and the arbiters keep of them, and the ways in which the instruction ends. -/

namespace Sys2Proof.Machine

/-! ### Bytes of a cluster store (R281) -/

namespace State

theorem storeWrite_frame (s : State) (cl o : Nat) (bs : Bytes) :
    s.storeWrite cl o bs = { s with mem.store := (s.storeWrite cl o bs).mem.store } := by
  induction bs generalizing s o with
  | nil => rfl
  | cons b bs ih =>
    unfold State.storeWrite
    exact ih { s with mem.store := memSet s.mem.store (storeAddr cl o) b } (o + 1)

theorem memGet_storeWrite_outside {s : State} {cl o a : Nat} {bs : Bytes} (h : ∀ i, i < bs.length → a ≠ storeAddr cl (o + i)) :
    memGet (s.storeWrite cl o bs).mem.store a = memGet s.mem.store a := by
  induction bs generalizing s o with
  | nil => rfl
  | cons b bs ih =>
    unfold State.storeWrite
    rw [ih fun i hi => by simpa [Nat.add_assoc, Nat.add_comm 1] using h (i + 1) (by simpa using hi)]
    exact memGet_memSet_ne _ _ _ _ (by simpa using h 0 (by simp))

/-- Addresses less than 4 MiB apart are different places of a cluster store. -/
theorem storeAddr_ne {cl o i j : Nat} (hij : i < j) (hj : j < i + 4194304) : storeAddr cl (o + i) ≠ storeAddr cl (o + j) := by
  unfold storeAddr
  omega

theorem memGet_storeWrite_inside {s : State} {cl o i : Nat} {bs : Bytes} (hlen : bs.length ≤ 4194304) (hi : i < bs.length) :
    memGet (s.storeWrite cl o bs).mem.store (storeAddr cl (o + i)) = bs[i] := by
  induction bs generalizing s o i with
  | nil => exact absurd hi (Nat.not_lt_zero i)
  | cons b bs ih =>
    unfold State.storeWrite
    rw [List.length_cons] at hlen hi
    cases i with
    | zero =>
      rw [memGet_storeWrite_outside fun j hj => by
        simpa [Nat.add_assoc, Nat.add_comm 1] using storeAddr_ne (cl := cl) (o := o) (Nat.succ_pos j) (by omega)]
      exact memGet_memSet_self _ _ _
    | succ i =>
      have hrest := ih (s := { s with mem.store := memSet s.mem.store (storeAddr cl o) b }) (o := o + 1) (i := i) (by omega) (by omega)
      rwa [Nat.add_assoc, Nat.add_comm 1] at hrest

theorem storeRead_storeWrite (s : State) (cl o : Nat) {bs : Bytes} (hlen : bs.length ≤ 4194304) :
    (s.storeWrite cl o bs).storeRead cl o bs.length = bs := by
  refine List.ext_getElem (by simp [State.storeRead]) fun i _ hi => ?_
  simp only [State.storeRead, List.getElem_map, List.getElem_range]
  exact memGet_storeWrite_inside hlen hi

/-! ### Bytes of a translated place -/

/-- What a write stores is what a read finds there. -/
theorem readPlace_writePlace (s : State) (p : Place) (bs : Bytes) : (s.writePlace p bs).readPlace p bs.length = bs := by
  refine List.ext_getElem (by cases p <;> simp [State.readPlace, memRead]) fun i _ hi => ?_
  cases p <;> simp only [State.readPlace, State.writePlace, memRead, List.getElem_map, List.getElem_range] <;>
    exact memGet_memWrite_inside _ _ _ _ hi

theorem memGet_memWrite_of_ne {m : List Host.Cell} {a b : Nat} {bs : Bytes} (h : ∀ i, i < bs.length → b ≠ a + i) :
    memGet (memWrite m a bs) b = memGet m b := by
  refine memGet_memWrite_outside _ _ _ _ ?_
  by_contra hin
  exact h (b - a) (by omega) (by omega)

theorem memGet_hbm_writePlace {s : State} {p : Place} {bs : Bytes} {b : Nat}
    (h : ∀ q, p = .fast q → ∀ i, i < bs.length → b ≠ q + i) : memGet (s.writePlace p bs).mem.hbm b = memGet s.mem.hbm b := by
  cases p with
  | fast q => exact memGet_memWrite_of_ne (h q rfl)
  | host q io => rfl

theorem memGet_host_writePlace {s : State} {p : Place} {bs : Bytes} {b : Nat}
    (h : ∀ q io, p = .host q io → ∀ i, i < bs.length → b ≠ q + i) :
    memGet (s.writePlace p bs).mem.host b = memGet s.mem.host b := by
  cases p with
  | fast q => rfl
  | host q io => exact memGet_memWrite_of_ne (h q io rfl)

theorem store_writePlace (s : State) (p : Place) (bs : Bytes) : (s.writePlace p bs).mem.store = s.mem.store := by cases p <;> rfl

/-- Reads of a place see its bytes alone. -/
theorem cachesOnly.readPlace {t s : State} (h : t.cachesOnly s) (p : Place) (n : Nat) : t.readPlace p n = s.readPlace p n := by
  cases p with
  | fast a => exact congrArg (fun m => memRead m a n) h.hbm
  | host a io => exact congrArg (fun m => memRead m a n) h.hostBytes

/-! ### The store of one lane (R228) -/

/-- A store of global space at a mapped address: the caches take part, and its bytes are written. -/
theorem storeLocal_global {s : State} {gk : Nat} {g : Group} {a : Nat} {p : Place} (h : s.translate g.ctx a .store = .ok p)
    (bs : Bytes) : ∃ t : State, t.cachesOnly s ∧ (s.storeLocal gk g true a bs).cachesOnly (t.writePlace p bs) := by
  obtain ⟨t, ht, hwrite⟩ := s.domainWrite_bytes (ctxVi g.ctx) p bs
  refine ⟨t, ht, ?_⟩
  simp only [State.storeLocal, Bool.not_true, Bool.false_eq_true, if_false, h, hwrite]
  exact cachesOnly_patchCaches _ _ _ _ _

theorem store_storeLocal_global (s : State) (gk : Nat) (g : Group) (a : Nat) (bs : Bytes) :
    (s.storeLocal gk g true a bs).mem.store = s.mem.store := by
  cases h : s.translate g.ctx a .store with
  | error m => simp [State.storeLocal, h]
  | ok p =>
    obtain ⟨t, ht, hstored⟩ := storeLocal_global (gk := gk) h bs
    rw [hstored.store, store_writePlace, ht.store]

/-- A store of the cluster store: its bytes are written, and the copies of the core and the cluster follow. -/
theorem storeLocal_cluster (s : State) (gk : Nat) (g : Group) (a : Nat) (bs : Bytes) :
    (s.storeLocal gk g false a bs).cachesOnly (s.storeWrite (clusterKeyOf gk) a bs) := cachesOnly_patchCaches _ _ _ _ _

theorem foldl_store_storeLocal_global (gk : Nat) (g : Group) (l : List (Nat × Bytes)) (s : State) :
    (l.foldl (fun v x => v.storeLocal gk g true x.1 x.2) s).mem.store = s.mem.store :=
  List.foldlRecOn (motive := fun v : State => v.mem.store = s.mem.store) l _ rfl
    fun v hv x _ => (v.store_storeLocal_global gk g x.1 x.2).trans hv

section ClusterStores

variable (gk : Nat) (g : Group) (l : List (Nat × Bytes)) (s : State)

/-- Stores of the cluster store change its bytes alone. -/
theorem foldl_storeLocal_others : (l.foldl (fun v x => v.storeLocal gk g false x.1 x.2) s).mem.hbm = s.mem.hbm ∧
    (l.foldl (fun v x => v.storeLocal gk g false x.1 x.2) s).mem.host = s.mem.host := by
  refine List.foldlRecOn (motive := fun v : State => v.mem.hbm = s.mem.hbm ∧ v.mem.host = s.mem.host) l _ ⟨rfl, rfl⟩
    fun v hv x _ => ?_
  have hstored := v.storeLocal_cluster gk g x.1 x.2
  rw [hstored.hbm, hstored.hostBytes, storeWrite_frame]
  exact hv

theorem foldl_storeLocal_outside {a : Nat} (h : ∀ x ∈ l, ∀ i, i < x.2.length → a ≠ storeAddr (clusterKeyOf gk) (x.1 + i)) :
    memGet (l.foldl (fun v x => v.storeLocal gk g false x.1 x.2) s).mem.store a = memGet s.mem.store a := by
  refine List.foldlRecOn (motive := fun v : State => memGet v.mem.store a = memGet s.mem.store a) l _ rfl fun v hv x hx => ?_
  rw [(v.storeLocal_cluster gk g x.1 x.2).store, memGet_storeWrite_outside (h x hx)]
  exact hv

/-- The bytes of the last lane read back. -/
theorem foldl_storeLocal_last {x : Nat × Bytes} (hlast : l.getLast? = some x) (hlen : x.2.length ≤ 4194304) :
    (l.foldl (fun v x => v.storeLocal gk g false x.1 x.2) s).storeRead (clusterKeyOf gk) x.1 x.2.length = x.2 := by
  obtain ⟨r, rfl⟩ := List.getLast?_eq_some_iff.1 hlast
  rw [List.foldl_append]
  generalize r.foldl (fun v x => v.storeLocal gk g false x.1 x.2) s = v
  have hread : ∀ u w : State, u.mem.store = w.mem.store →
      u.storeRead (clusterKeyOf gk) x.1 x.2.length = w.storeRead (clusterKeyOf gk) x.1 x.2.length := by
    intro u w h
    simp only [State.storeRead, h]
  exact (hread _ _ (v.storeLocal_cluster gk g x.1 x.2).store).trans (v.storeRead_storeWrite (clusterKeyOf gk) x.1 hlen)

end ClusterStores

/-! ### What follows the stores of an instruction -/

theorem cachesOnly_onArb (s : State) (c : ArbClass) (inst t : Nat) (f : Arb → Arb) : (s.onArb c inst t f).cachesOnly s := rfl

theorem cachesOnly_raiseEndpoint (s : State) (p : Place) (node units : Nat) : (s.raiseEndpoint p node units).cachesOnly s := rfl

theorem cachesOnly_raiseBanks (s : State) (cl req : Nat) (l : List (Nat × Nat)) : (s.raiseBanks cl req l).cachesOnly s := by
  unfold State.raiseBanks
  split
  · rfl
  · refine .foldl (fun t b => ?_) _ s
    exact cachesOnly_onArb t _ _ _ _

theorem cachesOnly_raiseLines (s : State) (k : Nat) (acc : Acc) (addrs : List Nat) : (s.raiseLines k acc addrs).cachesOnly s := by
  unfold State.raiseLines
  refine .foldl (fun t a => ?_) _ s
  split
  · exact .ite (cachesOnly_raiseEndpoint t _ _ _) rfl
  · rfl

theorem cachesOnly_clearWhole (s : State) (sectors : List Nat) : (s.clearWhole sectors).cachesOnly s := rfl

/-- `t` differs from `s` in the fabric alone. -/
def fabOnly (t s : State) : Prop := t = { s with fab := t.fab }

theorem fabOnly.trans {r t s : State} (g : r.fabOnly t) (h : t.fabOnly s) : r.fabOnly s :=
  Eq.trans g (congrArg (fun u : State => { u with fab := r.fab }) h)

/-- Stores to remote nodes leave as requests of the fabric. -/
theorem fabOnly_remoteStore (s : State) (gk : Nat) (g : Group) (l : List (Nat × Nat × Bytes)) : (s.remoteStore gk g l).fabOnly s := by
  refine List.foldlRecOn (motive := fun t : State => t.fabOnly s) _ _ rfl fun t ht b _ => ?_
  split
  · exact fabOnly.trans rfl ht
  · exact ht

end State

end Sys2Proof.Machine

/-! PROOFS. O16, continued: the instruction ST, and the statement. -/

namespace Sys2Proof.Machine

/-! ### A group parks: fast memory and the cluster stores stay (R232) -/

namespace State

theorem postKept_enterFault (s : State) (c : Ctx) (r : FaultRec) : (s.enterFault c r).postKept s :=
  (postKept_event _ _ _).trans ((postKept_ringVector _ _ _ _).trans ⟨rfl, rfl, rfl⟩)

theorem postKept_writeFault (s : State) (r : FaultRec) : (s.writeFault r).postKept s := by
  unfold State.writeFault
  split
  · split
    · exact s.postKept_enterFault _ r
    · exact ⟨rfl, rfl, rfl⟩
  · exact ⟨rfl, rfl, rfl⟩

theorem postKept_park {s : State} {gk : Nat} {g : Group} (f : FaultInfo) (hg : s.group? gk = some g)
    (hidle : g.status = .parked → g.replay = none) : (s.park gk f).postKept s := by
  simp only [State.park, hg, State.ignoreReplay_idle _ hidle]
  exact (postKept_writeFault _ _).trans ((postKept_onCtx _ _ _).trans ⟨rfl, rfl, rfl⟩)

end State

/-! ### The instruction (R226 to R228, R302) -/

/-- The acting lanes of a store with their addresses and bytes. -/
def laneStores (g : Group) (w : BitVec 64) : List (Nat × Nat × Bytes) :=
  (laneAddrs g w).map (fun x => (x.1, x.2, storeBytes g x.1 (srcBOf w) (accessBytes w)))

/-- The same without the lanes' numbers. -/
def storesOf (g : Group) (w : BitVec 64) : List (Nat × Bytes) :=
  (laneAddrs g w).map (fun x => (x.2, storeBytes g x.1 (srcBOf w) (accessBytes w)))

theorem laneStores_stores (g : Group) (w : BitVec 64) : (laneStores g w).map (·.2) = storesOf g w := List.map_map

/-- The stores to this node, and those to remote nodes. -/
def nearStores (g : Group) (w : BitVec 64) : List (Nat × Bytes) :=
  ((laneStores g w).map (·.2)).filter (fun x => !(spaceGlobal w && isFabric x.1))
def farStores (g : Group) (w : BitVec 64) : List (Nat × Nat × Bytes) :=
  (laneStores g w).filter (fun x => spaceGlobal w && isFabric x.2.1)

/-- The stores to this node, each with its length. -/
def storeRuns (g : Group) (w : BitVec 64) : List (Nat × Nat) := (nearStores g w).map (fun x => (x.1, x.2.length))

/-- The sectors of the stores of global space to this node, asked for. -/
def State.storeObtain (t : State) (gid : Gid) (g : Group) (w : BitVec 64) : Bool × Group × State :=
  if spaceGlobal w then
    t.groupObtain (gidKey gid) g (t.laneSectors g .store ((laneAddrs g w).filter (fun x => !isFabric x.2)))
      (t.storeReqs (gidKey gid) g .store (storeRuns g w))
  else (true, g, t)

/-- The stores of the lanes to this node, in ascending order. -/
def State.storeNear (t : State) (gid : Gid) (g : Group) (w : BitVec 64) : State :=
  (nearStores g w).foldl (fun u x => u.storeLocal (gidKey gid) g (spaceGlobal w) x.1 x.2) (t.storeObtain gid g w).2.2

/-- The state after them, their requests raised at the arbiters. -/
def State.storedNear (t : State) (gid : Gid) (g : Group) (w : BitVec 64) : State :=
  if spaceGlobal w then
    ((t.storeNear gid g w).clearWhole (t.wholeSectors g.ctx (storeRuns g w))).raiseLines g.ctx .store ((storeRuns g w).map (·.1))
  else (t.storeNear gid g w).raiseBanks (clusterKeyOf (gidKey gid)) (gidKey gid / 16 % 4) (storeRuns g w)

/-- The faults that the lanes of a store find. -/
def State.storeFaults (t : State) (g : Group) (w : BitVec 64) : Option FaultInfo :=
  gatherFaults ((laneAddrs g w).map (fun x => (x.1, t.laneFault g (spaceGlobal w) x.2 (accessBytes w) .store false)))

/-- The entries of the shadow area that a store needs. -/
def State.storeNeed (t : State) (gid : Gid) (g : Group) (w : BitVec 64) : Nat :=
  shadowNeed (t.cluster (clusterKeyOf (gidKey gid))).shadow (spaceGlobal w)
    ((storesOf g w).flatMap (fun x => shadowBlocks x.1 (accessBytes w)))

/-- An access that finds a fault answers it. -/
theorem match_fault {f : Option FaultInfo} {x : FaultInfo} (sound : Res) :
    f = some x → (match f with | some y => Res.fault y | none => sound) = Res.fault x := by
  rintro rfl
  rfl

section St

variable {s t : State} {gid : Gid} {w : BitVec 64} {g : Group} (hwf : (Instr.st gid w).wf = true)
  (hruns : Safety.runs s gid w (dataRegs (srcBOf w) (accessBytes w) ++ (srcAOf w :: if spaceGlobal w then [srcAOf w + 1] else [])) g)
  (ht : t = Safety.fetched s gid g) (hacts : g.acting w ≠ 0#32) (hmerge : t.mergeStall (gidKey gid) g = false)
include hwf hruns ht hacts hmerge

theorem exec_st_fault {f : FaultInfo} (hfault : t.storeFaults g w = some f) :
    exec (.st gid w) s = .next (t.park (gidKey gid) f) := by
  subst ht
  refine exec_fault rfl rfl hwf hruns ?_
  rw [if_neg hacts, if_neg (by rw [hmerge]; decide)]
  exact match_fault _ hfault

variable (hfault : t.storeFaults g w = none)
include hfault

/-- A store of a speculative task whose entries fit goes to the shadow area. -/
theorem exec_st_shadow (hshadow : t.shadowed (clusterKeyOf (gidKey gid)) g.spec = true)
    (hfits : t.storeNeed gid g w ≤ t.shadowFree g.ctx (clusterKeyOf (gidKey gid))) : ∃ sh, exec (.st gid w) s =
      .next ((t.putCluster (clusterKeyOf (gidKey gid)) { t.cluster (clusterKeyOf (gidKey gid)) with shadow := sh }).putGroup
        (gidKey gid) (Safety.goOn g.disarm)) := by
  subst ht
  rw [State.storeNeed, ← laneStores_stores] at hfits
  refine ⟨((laneStores g w).map (·.2)).foldl (fun h x => shadowWrite h (spaceGlobal w) x.1 x.2)
    ((Safety.fetched s gid g).cluster (clusterKeyOf (gidKey gid))).shadow, exec_next rfl rfl hwf hruns ?_⟩
  rw [if_neg hacts, if_neg (by rw [hmerge]; decide)]
  exact (match_noFault _ _ hfault).trans ((if_pos hshadow).trans (if_neg (Nat.not_lt.2 hfits)))

variable (hshadow : t.shadowed (clusterKeyOf (gidKey gid)) g.spec = false)
include hshadow

/-- A store that has its sectors is performed, and its group goes on. -/
theorem exec_st_stores (hhad : (t.storeObtain gid g w).1 = true)
    (hroom : t.farFull (clusterKeyOf (gidKey gid)) ((farStores g w).map (·.2.1)) = false) :
    exec (.st gid w) s = .next (((t.storedNear gid g w).remoteStore (gidKey gid) g (farStores g w)).putGroup (gidKey gid)
      (Safety.goOn (t.storeObtain gid g w).2.1.disarm)) := by
  subst ht
  have hgoes : ¬(!((Safety.fetched s gid g).storeObtain gid g w).1 ||
      (Safety.fetched s gid g).farFull (clusterKeyOf (gidKey gid)) ((farStores g w).map (·.2.1))) = true := by
    rw [hhad, hroom]
    decide
  refine exec_next rfl rfl hwf hruns ?_
  rw [if_neg hacts, if_neg (by rw [hmerge]; decide)]
  exact (match_noFault _ _ hfault).trans ((if_neg (by rw [hshadow]; decide)).trans (if_neg hgoes))

/-- A store that has not its sectors stays at its instruction. -/
theorem exec_st_waits (hhad : (t.storeObtain gid g w).1 = false) :
    exec (.st gid w) s = .next ((t.storeObtain gid g w).2.2.putGroup (gidKey gid) (t.storeObtain gid g w).2.1) := by
  subst ht
  have hwaits : (!((Safety.fetched s gid g).storeObtain gid g w).1 ||
      (Safety.fetched s gid g).farFull (clusterKeyOf (gidKey gid)) ((farStores g w).map (·.2.1))) = true := by
    rw [hhad]
    rfl
  have hheld : ((Safety.fetched s gid g).storeObtain gid g w).2.2.farWait (clusterKeyOf (gidKey gid)) (.group (gidKey gid))
      ((Safety.fetched s gid g).storeObtain gid g w).1 = ((Safety.fetched s gid g).storeObtain gid g w).2.2 := by
    rw [hhad]
    rfl
  refine exec_hold rfl rfl hwf hruns ?_
  rw [if_neg hacts, if_neg (by rw [hmerge]; decide)]
  refine (match_noFault _ _ hfault).trans ((if_neg (by rw [hshadow]; decide)).trans ((if_pos hwaits).trans ?_))
  exact congrArg (fun v => Res.hold v ((Safety.fetched s gid g).storeObtain gid g w).2.1) hheld

end St

/-! ### Where the lanes store -/

section Lanes

variable {g : Group} {w : BitVec 64}

theorem nearStores_near (h : ∀ x ∈ laneAddrs g w, (spaceGlobal w && isFabric x.2) = false) : nearStores g w = storesOf g w := by
  rw [nearStores, laneStores_stores, List.filter_eq_self]
  intro x hx
  obtain ⟨y, hy, rfl⟩ := List.mem_map.1 hx
  rw [h y hy]
  rfl

theorem farStores_near (h : ∀ x ∈ laneAddrs g w, (spaceGlobal w && isFabric x.2) = false) : farStores g w = [] := by
  rw [farStores, List.filter_eq_nil_iff]
  intro x hx
  obtain ⟨y, hy, rfl⟩ := List.mem_map.1 hx
  rw [h y hy]
  decide

theorem nearStores_far (hglobal : spaceGlobal w = true) (h : ∀ x ∈ laneAddrs g w, isFabric x.2 = true) : nearStores g w = [] := by
  rw [nearStores, laneStores_stores, List.filter_eq_nil_iff]
  intro x hx
  obtain ⟨y, hy, rfl⟩ := List.mem_map.1 hx
  rw [hglobal, h y hy]
  decide

theorem farStores_addrs (hglobal : spaceGlobal w = true) (h : ∀ x ∈ laneAddrs g w, isFabric x.2 = true) :
    (farStores g w).map (·.2.1) = (laneAddrs g w).map (·.2) := by
  have hall : farStores g w = laneStores g w := by
    rw [farStores, List.filter_eq_self]
    intro x hx
    obtain ⟨y, hy, rfl⟩ := List.mem_map.1 hx
    rw [hglobal, h y hy]
    rfl
  rw [hall, laneStores, List.map_map]
  rfl

end Lanes

/-! ### Memories after the stores -/

section Memories

variable (t : State) (gid : Gid) (g : Group) (w : BitVec 64)

/-- The sectors of a store whose lanes all name this node. -/
theorem storeObtain_local (hglobal : spaceGlobal w = true) (hlocal : ∀ x ∈ laneAddrs g w, isFabric x.2 = false) :
    t.storeObtain gid g w =
    t.groupObtain (gidKey gid) g (t.laneSectors g .store (laneAddrs g w))
      (t.storeReqs (gidKey gid) g .store ((storesOf g w).map (fun x => (x.1, x.2.length)))) := by
  have hlanes : ∀ x ∈ laneAddrs g w, (spaceGlobal w && isFabric x.2) = false := fun x hx => by rw [hglobal, hlocal x hx]; rfl
  have hself : (laneAddrs g w).filter (fun x => !isFabric x.2) = laneAddrs g w :=
    List.filter_eq_self.2 fun x hx => by rw [hlocal x hx]; rfl
  rw [State.storeObtain, if_pos hglobal, storeRuns, nearStores_near hlanes, hself]

theorem State.cachesOnly_storeObtain : (t.storeObtain gid g w).2.2.cachesOnly t := by
  unfold State.storeObtain
  split
  · exact t.cachesOnly_groupObtain _ _ _ _
  · rfl

theorem State.cachesOnly_storedNear : (t.storedNear gid g w).cachesOnly (t.storeNear gid g w) := by
  unfold State.storedNear
  split
  · exact (State.cachesOnly_raiseLines _ _ _ _).trans (State.cachesOnly_clearWhole _ _)
  · exact State.cachesOnly_raiseBanks _ _ _ _

theorem State.mem_endWaits (cl : Nat) (o : MissOwner) : (t.endWaits cl o).mem = t.mem := by
  dsimp only [State.endWaits]
  split <;> rfl

theorem State.clearWhole_nil : t.clearWhole [] = t := by simp [State.clearWhole]

/-- Where all lanes store to remote nodes, no memory and no mark changes. -/
theorem State.mem_storedNear_far (hglobal : spaceGlobal w = true) (hfar : ∀ x ∈ laneAddrs g w, isFabric x.2 = true) :
    (t.storedNear gid g w).mem = t.mem ∧ t.storeObtain gid g w = (true, { g with got := [] }, (t.storeObtain gid g w).2.2) := by
  have hnear : nearStores g w = [] := nearStores_far hglobal hfar
  have hlocal : (laneAddrs g w).filter (fun x => !isFabric x.2) = [] := by
    simpa [List.filter_eq_nil_iff] using hfar
  have hobtain : t.storeObtain gid g w = (true, { g with got := [] }, t.endWaits (clusterKeyOf (gidKey gid)) (.group (gidKey gid))) := by
    rw [State.storeObtain, if_pos hglobal, hlocal, storeRuns, hnear]
    rfl
  refine ⟨?_, by rw [hobtain]⟩
  rw [State.storedNear, if_pos hglobal, State.storeNear, storeRuns, hnear, hobtain]
  exact (congrArg State.mem (State.clearWhole_nil _)).trans (t.mem_endWaits _ _)

end Memories

/-! ### O16 -/

section Statement

variable {s t : State} {gid : Gid} {w : BitVec 64} {g : Group} (hwf : (Instr.st gid w).wf = true)
  (hruns : Safety.runs s gid w (dataRegs (srcBOf w) (accessBytes w) ++ (srcAOf w :: if spaceGlobal w then [srcAOf w + 1] else [])) g)
  (ht : t = Safety.fetched s gid g) (hacts : g.acting w ≠ 0#32) (hmerge : t.mergeStall (gidKey gid) g = false)
include hwf hruns ht hacts hmerge

/-- A lane that may not write parks the group with nothing stored. -/
theorem st_faults {f : FaultInfo} (hfault : t.storeFaults g w = some f) : ∃ u h, exec (.st gid w) s = .next u ∧
    u.group? (gidKey gid) = some h ∧ h.status = .parked ∧ h.pc = g.pc ∧ h.record.map (·.info) = some f ∧
    u.mem.store = s.mem.store ∧ u.mem.hbm = s.mem.hbm := by
  have hrun := exec_st_fault hwf hruns ht hacts hmerge hfault
  subst ht
  obtain ⟨r, n, hinfo, hgroup⟩ := group?_park_fetched (s := s) (gid := gid) (g := g) f (status_of_runs hruns)
  have hkept := State.postKept_park f (group?_fetched s gid g) fun hp => absurd ((status_of_runs hruns).symm.trans hp) (by decide)
  exact ⟨_, _, hrun, hgroup, rfl, rfl, congrArg some hinfo, hkept.store, hkept.hbm⟩

variable (hfault : t.storeFaults g w = none)
include hfault

theorem st_shadow (hshadow : t.shadowed (clusterKeyOf (gidKey gid)) g.spec = true)
    (hfits : t.storeNeed gid g w ≤ t.shadowFree g.ctx (clusterKeyOf (gidKey gid))) : ∃ u, exec (.st gid w) s = .next u ∧
      u.group? (gidKey gid) = some (Safety.goOn g.disarm) ∧ u.mem = s.mem := by
  obtain ⟨sh, hrun⟩ := exec_st_shadow hwf hruns ht hacts hmerge hfault hshadow hfits
  subst ht
  exact ⟨_, hrun, State.group?_putGroup_self _ _ _, rfl⟩

variable (hshadow : t.shadowed (clusterKeyOf (gidKey gid)) g.spec = false)
include hshadow

/-- A store to the cluster store. -/
theorem st_cluster (hspace : spaceGlobal w = false) : ∃ u, exec (.st gid w) s = .next u ∧
    u.group? (gidKey gid) = some (Safety.goOn g.disarm) ∧
    (∀ a, (∀ x ∈ storesOf g w, ∀ i, i < x.2.length → a ≠ storeAddr (clusterKeyOf (gidKey gid)) (x.1 + i)) →
      memGet u.mem.store a = memGet s.mem.store a) ∧
    (∀ x, (storesOf g w).getLast? = some x → x.2.length ≤ 4194304 →
      u.storeRead (clusterKeyOf (gidKey gid)) x.1 x.2.length = x.2) ∧
    u.mem.hbm = s.mem.hbm ∧ u.mem.host = s.mem.host := by
  have hlanes : ∀ x ∈ laneAddrs g w, (spaceGlobal w && isFabric x.2) = false := fun _ _ => by rw [hspace]; rfl
  have hobtain : t.storeObtain gid g w = (true, g, t) := if_neg (by rw [hspace]; decide)
  have hrun := exec_st_stores hwf hruns ht hacts hmerge hfault hshadow (by rw [hobtain]) (by rw [farStores_near hlanes]; rfl)
  have hnear : t.storeNear gid g w = (storesOf g w).foldl (fun v x => v.storeLocal (gidKey gid) g false x.1 x.2) t := by
    rw [State.storeNear, nearStores_near hlanes, hobtain, hspace]
  have hstored := t.cachesOnly_storedNear gid g w
  rw [hnear] at hstored
  rw [farStores_near hlanes, hobtain] at hrun
  obtain ⟨hhbm, hhost⟩ := State.foldl_storeLocal_others (gidKey gid) g (storesOf g w) t
  subst ht
  refine ⟨_, hrun, State.group?_putGroup_self _ _ _, fun a ha => ?_, fun x hx hlen => ?_, ?_, ?_⟩
  · exact (congrArg (fun m => memGet m a) hstored.store).trans (State.foldl_storeLocal_outside (gidKey gid) g _ _ ha)
  · refine Eq.trans ?_ (State.foldl_storeLocal_last (gidKey gid) g (storesOf g w) (Safety.fetched s gid g) hx hlen)
    exact congrArg (fun m => (List.range x.2.length).map (fun i => memGet m (storeAddr (clusterKeyOf (gidKey gid)) (x.1 + i))))
      hstored.store
  · exact hstored.hbm.trans hhbm
  · exact hstored.hostBytes.trans hhost

section Global

variable (hglobal : spaceGlobal w = true)
include hglobal

/-- Stores to this node. -/
theorem st_global (hlocal : ∀ x ∈ laneAddrs g w, isFabric x.2 = false) (hhad : (t.storeObtain gid g w).1 = true) :
    ∃ u, exec (.st gid w) s = .next u ∧ u.group? (gidKey gid) = some (Safety.goOn (t.storeObtain gid g w).2.1.disarm) ∧
      u.mem.store = s.mem.store ∧
      u.mem.hbm = ((storesOf g w).foldl (fun v x => v.storeLocal (gidKey gid) g true x.1 x.2) (t.storeObtain gid g w).2.2).mem.hbm ∧
      u.mem.host = ((storesOf g w).foldl (fun v x => v.storeLocal (gidKey gid) g true x.1 x.2) (t.storeObtain gid g w).2.2).mem.host := by
  have hlanes : ∀ x ∈ laneAddrs g w, (spaceGlobal w && isFabric x.2) = false := fun x hx => by rw [hglobal, hlocal x hx]; rfl
  have hrun := exec_st_stores hwf hruns ht hacts hmerge hfault hshadow hhad (by rw [farStores_near hlanes]; rfl)
  have hnear : t.storeNear gid g w =
      (storesOf g w).foldl (fun v x => v.storeLocal (gidKey gid) g true x.1 x.2) (t.storeObtain gid g w).2.2 := by
    rw [State.storeNear, nearStores_near hlanes, hglobal]
  have hstored := t.cachesOnly_storedNear gid g w
  rw [hnear] at hstored
  rw [farStores_near hlanes] at hrun
  refine ⟨_, hrun, State.group?_putGroup_self _ _ _, ?_, hstored.hbm, hstored.hostBytes⟩
  refine hstored.store.trans ((State.foldl_store_storeLocal_global _ _ _ _).trans ?_)
  rw [(t.cachesOnly_storeObtain gid g w).store, ht]
  rfl

theorem st_waits (hhad : (t.storeObtain gid g w).1 = false) : ∃ u, exec (.st gid w) s = .next u ∧
    u.group? (gidKey gid) = some (t.storeObtain gid g w).2.1 ∧ (t.storeObtain gid g w).2.1.pc = g.pc ∧
    u.mem.hbm = s.mem.hbm ∧ u.mem.host = s.mem.host := by
  have hrun := exec_st_waits hwf hruns ht hacts hmerge hfault hshadow hhad
  have hkept := t.cachesOnly_storeObtain gid g w
  refine ⟨_, hrun, State.group?_putGroup_self _ _ _, ?_, ?_, ?_⟩
  · rw [State.storeObtain, if_pos hglobal]
    rfl
  · exact hkept.hbm.trans (by rw [ht]; rfl)
  · exact hkept.hostBytes.trans (by rw [ht]; rfl)

/-- Stores to remote nodes. -/
theorem st_far (hfar : ∀ x ∈ laneAddrs g w, isFabric x.2 = true)
    (hroom : t.farFull (clusterKeyOf (gidKey gid)) ((laneAddrs g w).map (·.2)) = false) : ∃ u, exec (.st gid w) s = .next u ∧
      u.group? (gidKey gid) = some (Safety.goOn { g with got := [] }.disarm) ∧ u.mem = s.mem := by
  obtain ⟨hmem, hobtain⟩ := t.mem_storedNear_far gid g w hglobal hfar
  have hrun := exec_st_stores hwf hruns ht hacts hmerge hfault hshadow (by rw [hobtain])
    (by rw [farStores_addrs hglobal hfar]; exact hroom)
  rw [hobtain] at hrun
  refine ⟨_, hrun, State.group?_putGroup_self _ _ _, ?_⟩
  refine (congrArg State.mem (State.fabOnly_remoteStore _ _ _ _)).trans (hmem.trans ?_)
  rw [ht]
  rfl

end Global

end Statement

/-- Settles O16: the bytes of a store are written lane after lane; what comes before and after them changes none. -/
theorem storeResults : Obligations.StoreResults := by
  refine ⟨fun gid w s g t hwf hruns ht hacts hmerge => ⟨?cluster, ?near, ?waits, ?far, ?shadow, ?fault⟩, ?place⟩
  case cluster =>
    intro hfault hspace hshadow
    obtain ⟨u, hrun, hgroup, hothers, hlast, hmem⟩ := st_cluster hwf hruns ht hacts hmerge hfault hshadow hspace
    exact ⟨u, hrun, hgroup, hothers, fun x hx _ => hlast x hx, hmem⟩
  case near =>
    intro hfault hglobal hlocal hshadow hhad
    have hobtain := storeObtain_local t gid g w hglobal hlocal
    have hstored := st_global hwf hruns ht hacts hmerge hfault hshadow hglobal hlocal (by rw [hobtain]; exact hhad)
    rw [hobtain] at hstored
    exact hstored
  case waits =>
    intro hfault hglobal hlocal hshadow hhad
    have hobtain := storeObtain_local t gid g w hglobal hlocal
    have hwaits := st_waits hwf hruns ht hacts hmerge hfault hshadow hglobal (by rw [hobtain]; exact hhad)
    rw [hobtain] at hwaits
    exact hwaits
  case far => exact fun hfault hglobal hfar hshadow => st_far hwf hruns ht hacts hmerge hfault hshadow hglobal hfar
  case shadow => exact st_shadow hwf hruns ht hacts hmerge
  case fault => exact fun f => st_faults hwf hruns ht hacts hmerge
  case place =>
    intro s gk g a p bs hplace _ _
    obtain ⟨t, ht, hstored⟩ := State.storeLocal_global (gk := gk) hplace bs
    refine ⟨?_, s.store_storeLocal_global gk g a bs, fun b hb => ?_, fun b hb => ?_⟩
    · rw [hstored.readPlace, State.readPlace_writePlace]
    · rw [hstored.hbm, State.memGet_hbm_writePlace hb, ht.hbm]
    · rw [hstored.hostBytes, State.memGet_host_writePlace hb, ht.hostBytes]

end Sys2Proof.Machine

/-! PROOFS. O20: the transfers of a DMA engine, from the reading and writing of one sector to the end of a transfer. -/

namespace Sys2Proof.Machine

namespace State

/-! ### One turn of a transfer (R305) -/

@[simp] theorem map_snd_mapIdx (l : List Piece) : (l.mapIdx fun i p => (i, p)).map Prod.snd = l :=
  List.ext_getElem (by simp) fun i _ _ => by simp

theorem snd_mem_of_mem_mapIdx {l : List Piece} {x : Nat × Piece} (hx : x ∈ l.mapIdx fun i p => (i, p)) : x.2 ∈ l :=
  map_snd_mapIdx l ▸ List.mem_map_of_mem hx

/-- A sector whose pieces lie on this node and are had is read and written, and the progress goes on. -/
theorem dmaTurn_more {s t u : State} {cl slot : Nat} {d : DmaSlot} {ecc : ReadEcc} {c : Chunk} {bs : Bytes}
    (hchunk : chunkAt d.desc.toNat d.progress = some c) (hwriting : d.writing = false)
    (hreads : ∀ p ∈ c.reads, p.remote = false) (hwrites : ∀ p ∈ c.writes, p.remote = false)
    (hhad : (State.obtainAll cl (ctxVi d.ctx) (.dma slot) (s.chunkReqs cl d c (ecc.ce.contains d.progress)) d.got
      (s.demandAll cl (s.chunkDemands cl d c))).1 = true)
    (hread : State.dmaReadAll cl d (ecc.ue == some d.progress) (c.reads.mapIdx fun i p => (i, p))
      (State.obtainAll cl (ctxVi d.ctx) (.dma slot) (s.chunkReqs cl d c (ecc.ce.contains d.progress)) d.got
        (s.demandAll cl (s.chunkDemands cl d c))).2.2 = (.inl bs, t))
    (hwrite : State.dmaWriteAll cl slot d c.writes (chunkData d.desc.toNat d.progress c bs) t = (.inl 0, u)) :
    s.dmaTurn cl slot d ecc =
      .more (u.putSlot cl slot { d with progress := d.progress + c.step, fetched := [], writing := false, got := [] }) := by
  have hmissing : ((c.reads.mapIdx fun i p => (i, p)).filter
      fun x => x.2.remote && (Bank.find? d.fetched x.1).isNone) = [] :=
    List.filter_eq_nil_iff.2 fun x hx => by simp [hreads x.2 (snd_mem_of_mem_mapIdx hx)]
  have hfar : c.writes.filter (·.remote) = [] := List.filter_eq_nil_iff.2 fun p hp => by simp [hwrites p hp]
  simp only [State.dmaTurn, hchunk, hwriting, hmissing, hhad, hfar, hread, hwrite]
  rfl

theorem dmaTurn_over {s : State} {d : DmaSlot} (cl slot : Nat) (ecc : ReadEcc)
    (hchunk : chunkAt d.desc.toNat d.progress = none) :
    s.dmaTurn cl slot d ecc = .stop (s.putSlot cl slot { d with written := true }) := by
  simp only [State.dmaTurn, hchunk]

/-! ### Pieces of the cluster store (R281, R305) -/

/-- `t` differs from `s` in the arbiters, the cores and the cluster stores alone. -/
def storeOnly (t s : State) : Prop := t = { s with arb := t.arb, cores := t.cores, mem.store := t.mem.store }

theorem storeOnly.trans {r t s : State} (g : r.storeOnly t) (h : t.storeOnly s) : r.storeOnly s :=
  Eq.trans g (congrArg (fun u : State => { u with arb := r.arb, cores := r.cores, mem.store := r.mem.store }) h)

theorem storeOnly.cluster {t s : State} (h : t.storeOnly s) (cl : Nat) : t.cluster cl = s.cluster cl :=
  (congrArg (fun u : State => u.cluster cl) h :)

theorem raiseBanks_frame (s : State) (cl req : Nat) (l : List (Nat × Nat)) :
    s.raiseBanks cl req l = { s with arb := (s.raiseBanks cl req l).arb } := by
  unfold State.raiseBanks
  split
  · rfl
  · refine List.foldlRecOn (motive := fun t : State => t = { s with arb := t.arb }) _ _ rfl fun t ht b _ => ?_
    exact congrArg (fun u : State => u.onArb _ _ _ _) ht

theorem raiseBanks_store (s : State) (cl req : Nat) (l : List (Nat × Nat)) : (s.raiseBanks cl req l).mem.store = s.mem.store :=
  (s.cachesOnly_raiseBanks cl req l).store

theorem storeOnly_raiseBanks (s : State) (cl req : Nat) (l : List (Nat × Nat)) : (s.raiseBanks cl req l).storeOnly s := by
  unfold storeOnly
  rw [raiseBanks_frame]

theorem storeRead_congr {s t : State} (h : t.mem.store = s.mem.store) (cl o n : Nat) : t.storeRead cl o n = s.storeRead cl o n := by
  simp only [State.storeRead, h]

theorem storeWrite_congr {s t : State} (h : t.mem.store = s.mem.store) (cl o : Nat) (bs : Bytes) :
    (t.storeWrite cl o bs).mem.store = (s.storeWrite cl o bs).mem.store := by
  induction bs generalizing s t o with
  | nil => exact h
  | cons b bs ih =>
    unfold State.storeWrite
    exact ih (congrArg (fun m => memSet m (storeAddr cl o) b) h) _

theorem dmaRead_store {d : DmaSlot} {p : Piece} (s : State) (cl : Nat) (hspec : d.spec = false) (hp : p.global = false) :
    s.dmaRead cl d p false = (.inl (s.storeRead cl p.addr p.n), s.raiseBanks cl 4 [(p.addr, p.n)]) := by
  simp [State.dmaRead, hp, hspec]

theorem remote_of_not_global {p : Piece} (h : p.global = false) : p.remote = false := by
  simp [Piece.remote, h]

/-- The pieces of a sector are read in their order. -/
theorem dmaReadAll_store {cl : Nat} {d : DmaSlot} (hspec : d.spec = false) (l : List (Nat × Piece))
    (hl : ∀ x ∈ l, x.2.global = false) (s : State) : ∃ t : State, t.storeOnly s ∧ t.mem.store = s.mem.store ∧
      State.dmaReadAll cl d false l s = (.inl (l.flatMap fun x => s.storeRead cl x.2.addr x.2.n), t) := by
  induction l generalizing s with
  | nil => exact ⟨s, rfl, rfl, rfl⟩
  | cons x l ih =>
    obtain ⟨i, p⟩ := x
    have hp : p.global = false := hl (i, p) List.mem_cons_self
    have hbanks := s.raiseBanks_store cl 4 [(p.addr, p.n)]
    obtain ⟨t, ht, hstore, hrest⟩ := ih (fun x hx => hl x (List.mem_cons_of_mem _ hx)) (s.raiseBanks cl 4 [(p.addr, p.n)])
    refine ⟨t, ht.trans (s.storeOnly_raiseBanks _ _ _), hstore.trans hbanks, ?_⟩
    simp [State.dmaReadAll, remote_of_not_global hp, dmaRead_store s cl hspec hp, hrest, storeRead_congr hbanks]

/-- One piece is written, from the front of the bytes that are left. -/
def putPiece (cl : Nat) (x : State × Bytes) (p : Piece) : State × Bytes := (x.1.storeWrite cl p.addr (x.2.take p.n), x.2.drop p.n)

/-- What the pieces store depends on the cluster stores and on the bytes alone. -/
theorem foldl_putPiece_congr (cl : Nat) (l : List Piece) {s t : State} (h : t.mem.store = s.mem.store) (bs : Bytes) :
    (l.foldl (putPiece cl) (t, bs)).1.mem.store = (l.foldl (putPiece cl) (s, bs)).1.mem.store := by
  induction l generalizing s t bs with
  | nil => exact h
  | cons p l ih => exact ih (storeWrite_congr h cl p.addr _) _

theorem memGet_foldl_putPiece {cl a : Nat} {l : List Piece} (ha : ∀ p ∈ l, ∀ i, i < p.n → a ≠ storeAddr cl (p.addr + i))
    (s : State) (bs : Bytes) : memGet (l.foldl (putPiece cl) (s, bs)).1.mem.store a = memGet s.mem.store a := by
  refine List.foldlRecOn (motive := fun x : State × Bytes => memGet x.1.mem.store a = memGet s.mem.store a) _ _ rfl
    fun x hx p hp => (memGet_storeWrite_outside fun i hi => ha p hp i ?_).trans hx
  exact hi.trans_le (List.length_take_le _ _)

theorem dmaWrite_store {d : DmaSlot} {p : Piece} (s : State) (cl : Nat) (bs : Bytes) (hspec : d.spec = false)
    (hvoid : d.void = false) (hp : p.global = false) : ∃ t : State, s.dmaWrite cl d p bs = .inl t ∧ t.storeOnly s ∧
      t.mem.store = (s.storeWrite cl p.addr bs).mem.store := by
  simp only [State.dmaWrite, hvoid, State.shadowed, hspec, hp]
  refine ⟨_, rfl, ?_, storeWrite_congr (s.raiseBanks_store _ _ _) cl p.addr bs⟩
  refine storeOnly.trans ?_ (s.storeOnly_raiseBanks cl 4 [(p.addr, p.n)])
  unfold storeOnly
  rw [storeWrite_frame]
  rfl

/-- The pieces of a sector are written in their order. -/
theorem dmaWriteAll_store {cl slot : Nat} {d : DmaSlot} (hspec : d.spec = false) (hvoid : d.void = false) (l : List Piece)
    (hl : ∀ p ∈ l, p.global = false) (bs : Bytes) (s : State) : ∃ t : State, t.storeOnly s ∧
      t.mem.store = (l.foldl (putPiece cl) (s, bs)).1.mem.store ∧ State.dmaWriteAll cl slot d l bs s = (.inl 0, t) := by
  induction l generalizing s bs with
  | nil => exact ⟨s, rfl, rfl, rfl⟩
  | cons p l ih =>
    have hp : p.global = false := hl p List.mem_cons_self
    obtain ⟨u, hwrite, hu, hbytes⟩ := s.dmaWrite_store cl (bs.take p.n) hspec hvoid hp
    obtain ⟨t, ht, hstore, hrest⟩ := ih (fun q hq => hl q (List.mem_cons_of_mem _ hq)) (bs.drop p.n) u
    refine ⟨t, ht.trans hu, hstore.trans (foldl_putPiece_congr cl l hbytes _), ?_⟩
    simp [State.dmaWriteAll, remote_of_not_global hp, hwrite, hrest]

/-! ### One turn within the cluster store -/

theorem filterMap_none_of_not_global {β : Type} {f : Piece → Option β} {l : List Piece} (hl : ∀ p ∈ l, p.global = false)
    (hf : ∀ p, p.global = false → f p = none) : l.filterMap f = [] :=
  List.filterMap_eq_nil_iff.2 fun p hp => hf p (hl p hp)

section Near

variable {s : State} {cl slot : Nat} {d : DmaSlot} {c : Chunk} (hreads : ∀ p ∈ c.reads, p.global = false)
  (hwrites : ∀ p ∈ c.writes, p.global = false)
include hreads hwrites

theorem chunkReqs_near (ce : Bool) : s.chunkReqs cl d c ce = [] := by
  have hnone : ∀ acc p, Piece.global p = false → s.piecePlace d acc p = none := fun acc p hp => by simp [State.piecePlace, hp]
  unfold State.chunkReqs
  dsimp only
  rw [filterMap_none_of_not_global hreads fun p hp => by simp [hnone _ p hp],
    filterMap_none_of_not_global hwrites fun p hp => by simp [hnone _ p hp], ite_self]
  rfl

theorem chunkDemands_near : s.chunkDemands cl d c = [] := by
  have hnone : ∀ acc p, Piece.global p = false → s.piecePlace d acc p = none := fun acc p hp => by simp [State.piecePlace, hp]
  unfold State.chunkDemands
  dsimp only
  rw [filterMap_none_of_not_global hreads fun p hp => by simp [hnone _ p hp],
    filterMap_none_of_not_global hwrites fun p hp => by simp [hnone _ p hp], ite_self]
  rfl

/-- A turn within the cluster store writes its pieces, and nothing else of the memories changes. -/
theorem dmaTurn_near {ecc : ReadEcc} (hchunk : chunkAt d.desc.toNat d.progress = some c) (hwriting : d.writing = false)
    (hspec : d.spec = false) (hvoid : d.void = false) (hecc : c.reads = [] ∨ ecc.ue ≠ some d.progress) :
    ∃ u : State, u.storeOnly s ∧ u.mem.store = (c.writes.foldl (putPiece cl) (s, chunkData d.desc.toNat d.progress c
        (c.reads.flatMap fun p => s.storeRead cl p.addr p.n))).1.mem.store ∧
      s.dmaTurn cl slot d ecc =
        .more (u.putSlot cl slot { d with progress := d.progress + c.step, fetched := [], writing := false, got := [] }) := by
  have hnear : ∀ x ∈ c.reads.mapIdx (fun i p => (i, p)), x.2.global = false :=
    fun x hx => hreads x.2 (snd_mem_of_mem_mapIdx hx)
  obtain ⟨t, ht, hstore, hread⟩ := dmaReadAll_store (cl := cl) hspec _ hnear s
  have hbytes : (c.reads.mapIdx fun i p => (i, p)).flatMap (fun x => s.storeRead cl x.2.addr x.2.n) =
      c.reads.flatMap fun p => s.storeRead cl p.addr p.n := by
    conv_rhs => rw [← map_snd_mapIdx c.reads, List.flatMap_map]
  rw [hbytes] at hread
  obtain ⟨u, hu, hwritten, hwrite⟩ := dmaWriteAll_store (cl := cl) (slot := slot) hspec hvoid c.writes hwrites
    (chunkData d.desc.toNat d.progress c (c.reads.flatMap fun p => s.storeRead cl p.addr p.n)) t
  refine ⟨u, hu.trans ht, hwritten.trans (foldl_putPiece_congr cl c.writes hstore _), ?_⟩
  refine dmaTurn_more hchunk hwriting (fun p hp => remote_of_not_global (hreads p hp))
    (fun p hp => remote_of_not_global (hwrites p hp)) ?_ ?_ hwrite
  · rw [chunkReqs_near hreads hwrites]
    rfl
  · rw [chunkReqs_near hreads hwrites, chunkDemands_near hreads hwrites]
    rcases hecc with hnone | hecc
    · rw [hnone] at hread ⊢
      exact hread
    · rw [beq_false_of_ne hecc]
      exact hread

end Near

/-! ### The slot of a transfer -/

@[simp] theorem slot?_putSlot_self (s : State) (cl slot : Nat) (d : DmaSlot) : (s.putSlot cl slot d).slot? cl slot = some d := by
  simp [State.slot?, State.putSlot]

/-- The waits of an owner end without a change of the cluster's slots. -/
theorem slot?_endWaits (s : State) (cl i slot : Nat) (o : MissOwner) : (s.endWaits i o).slot? cl slot = s.slot? cl slot := by
  unfold State.endWaits
  dsimp only
  split
  · show Bank.find? ((s.putCluster i _).cluster cl).dma slot = _
    by_cases hcl : cl = i
    · subst hcl
      rw [State.cluster_putCluster_self]
      rfl
    · rw [State.cluster_putCluster_ne _ _ hcl]
      rfl
  · rfl

/-! ### Turns one after another -/

section Run

variable {s t : State} {cl slot : Nat} {d : DmaSlot} {ecc : ReadEcc} (hslot : s.slot? cl slot = some d)
include hslot

theorem dmaRun_more (n : Nat) (hturn : s.dmaTurn cl slot d ecc = .more t) :
    State.dmaRun cl slot ecc (n + 1) s = State.dmaRun cl slot ecc n t := by
  simp only [State.dmaRun, hslot, hturn]

theorem dmaRun_stop (n : Nat) (hturn : s.dmaTurn cl slot d ecc = .stop t) : State.dmaRun cl slot ecc (n + 1) s = t := by
  simp only [State.dmaRun, hslot, hturn]

end Run

/-- R276: a transfer that is under way and not held by a merge runs as far as it can. -/
theorem dmaGo_runs {s : State} {cl : Fin 1088} {slot : Fin 256} {d : DmaSlot} {mode : Nat} (ecc : ReadEcc)
    (hslot : s.slot? cl.val slot.val = some d) (hmode : smMode d.desc.toNat = mode) (hsuspended : d.suspended = false)
    (hwritten : d.written = false) (hfinished : d.finished = false) (hreq : d.pendingReq = 0)
    (hmerge : (d.spec && (s.cluster cl.val).merging) = false) : s.dmaGo mode cl slot ecc =
      State.dmaRun cl.val slot.val ecc (smRows d.desc.toNat * smRowBytes d.desc.toNat + 1) (s.endWaits cl.val (.dma slot.val)) := by
  simp [State.dmaGo, hslot, hmode, hsuspended, hwritten, hfinished, hreq, hmerge]

/-! ### What a turn of a PREFETCH leaves unchanged (R308) -/

/-- A sector that is read changes no byte of a memory unless its array is found uncorrectable. -/
theorem cachesOnly_fillCluster (s : State) (units cl k : Nat) (line : Bytes) : (s.fillCluster units cl k line).cachesOnly s := by
  unfold State.fillCluster State.settlePrefetch
  exact .ite rfl rfl

theorem cachesOnly_homeRead (s : State) (d : Nat) (p : Place) : (s.homeRead d p).cachesOnly s := by
  unfold State.homeRead
  refine .ite rfl (.ite (s.cachesOnly_homeUse p) ?_)
  exact (cachesOnly_lineIn _ _ _).trans (.ite rfl (s.cachesOnly_homeUse p))

theorem cachesOnly_dmaRead (s : State) (cl : Nat) (d : DmaSlot) (p : Piece) : (s.dmaRead cl d p false).2.cachesOnly s := by
  unfold State.dmaRead
  dsimp only
  split
  · exact s.cachesOnly_raiseBanks cl 4 _
  · split
    · split
      · rfl
      · split
        · rfl
        · split
          · next hfalse => exact absurd hfalse Bool.false_ne_true
          · split
            · rfl
            · split
              · exact s.cachesOnly_homeRead _ (.fast _)
              · exact (cachesOnly_fillCluster _ _ _ _ _).trans (s.cachesOnly_homeRead _ _)
    · rfl
    · rfl

theorem cachesOnly_dmaReadAll (cl : Nat) (d : DmaSlot) (l : List (Nat × Piece)) (s : State) :
    (State.dmaReadAll cl d false l s).2.cachesOnly s := by
  induction l generalizing s with
  | nil => rfl
  | cons x l ih =>
    obtain ⟨i, p⟩ := x
    have hone : (if p.remote then ((.inl (d.fetched.get [] i), s) : (Bytes ⊕ DmaFault) × State)
        else s.dmaRead cl d p (false && i == 0)).2.cachesOnly s := by
      split
      · rfl
      · exact s.cachesOnly_dmaRead cl d p
    unfold State.dmaReadAll
    dsimp only
    split
    · exact hone
    · split <;> exact (ih _).trans hone

theorem fabOnly_dmaFetch (cl slot : Nat) (d : DmaSlot) (l : List (Nat × Piece)) (s : State) :
    (State.dmaFetch cl slot d l s).2.fabOnly s := by
  induction l generalizing s with
  | nil => rfl
  | cons x l ih =>
    obtain ⟨i, p⟩ := x
    have hone : ∀ t, s.dmaRemoteRead cl slot i d p = .inl t → t.fabOnly s := by
      intro t ht
      unfold State.dmaRemoteRead at ht
      split at ht
      · split at ht
        · exact absurd ht (by simp)
        · obtain rfl := Sum.inl.inj ht
          rfl
      · exact absurd ht (by simp)
    unfold State.dmaFetch
    split
    · rfl
    · next t ht =>
      dsimp only
      split <;> exact (ih t).trans (hone t ht)

theorem cachesOnly.postKept {t s : State} (h : t.cachesOnly s) : t.postKept s :=
  ⟨h.hbm, h.store, congrArg (·.kernels) h.host⟩

theorem fabOnly.postKept {t s : State} (h : t.fabOnly s) : t.postKept s := by
  rw [fabOnly] at h
  rw [h]
  exact ⟨rfl, rfl, rfl⟩

theorem cachesOnly_freeMiss (s : State) (cl : Nat) (o : MissOwner) : (s.freeMiss cl o).cachesOnly s :=
  .ite (cachesOnly.trans rfl (s.cachesOnly_endWaits cl o)) (s.cachesOnly_endWaits cl o)

theorem postKept_putCluster (s : State) (cl : Nat) (x : Cluster) : (s.putCluster cl x).postKept s := ⟨rfl, rfl, rfl⟩

theorem postKept_wakeDma (s : State) (cl : Nat) : (s.wakeDma cl).postKept s := ⟨rfl, rfl, rfl⟩

theorem postKept_dropDmaToken (s : State) (gk token : Nat) : (s.dropDmaToken gk token).postKept s := by
  unfold State.dropDmaToken
  split <;> exact ⟨rfl, rfl, rfl⟩

theorem postKept_freeDmaSlots (s : State) (gk : Nat) : (s.freeDmaSlots gk).postKept s := by
  dsimp only [State.freeDmaSlots]
  split <;> exact ⟨rfl, rfl, rfl⟩

/-- R242: a transfer that ends changes slots, groups and requests. -/
theorem postKept_endDma (s : State) (cl slot : Nat) (d : DmaSlot) : (s.endDma cl slot d).postKept s := by
  have hfree : ((s.detachDma cl slot).freeMiss cl (.dma slot)).postKept s :=
    (cachesOnly_freeMiss _ _ _).postKept.trans ⟨rfl, rfl, rfl⟩
  unfold State.endDma
  dsimp only
  split
  · exact (postKept_wakeDma _ cl).trans ((postKept_dropDmaToken _ _ _).trans ((postKept_putCluster _ _ _).trans hfree))
  · exact (postKept_freeDmaSlots _ _).trans ((postKept_putCluster _ _ _).trans hfree)

theorem postKept_faultAsync {s : State} {gk : Nat} {g : Group} (f : FaultInfo) (hg : s.group? gk = some g)
    (hreplay : g.replay = none) : (s.faultAsync gk f).postKept s := by
  simp only [State.faultAsync, hg]
  split
  · exact postKept_park f hg fun _ => hreplay
  · exact ⟨rfl, rfl, rfl⟩

/-- R307: a transfer that is suspended, or whose group has ended. -/
theorem postKept_suspendDma {s : State} (cl slot : Nat) {d : DmaSlot} (f : DmaFault)
    (hreplay : ∀ g, s.group? d.gid = some g → g.replay = none) : (s.suspendDma cl slot d f).postKept s := by
  unfold State.suspendDma
  split
  · exact s.postKept_endDma cl slot d
  · next g hg => exact (postKept_faultAsync _ (s := s.putSlot cl slot _) hg (hreplay g hg)).trans ⟨rfl, rfl, rfl⟩

/-! ### PREFETCH (R306, R308) -/

end State

/-- A descriptor that writes nothing has no pieces to write. -/
theorem writes_of_not_smWrites {d b : Nat} {c : Chunk} (hwrites : smWrites d = false) (hc : chunkAt d b = some c) : c.writes = [] := by
  have hmode : smMode d ≠ 1 := by
    intro h
    simp [smWrites, h] at hwrites
  rw [chunkAt, if_neg hmode] at hc
  unfold rowChunk at hc
  dsimp only at hc
  split at hc
  · exact absurd hc (by simp)
  · obtain rfl := Option.some.inj hc
    simp [hwrites]

/-- What a turn leaves: fast memory and the cluster stores as they were, and where it goes on, the groups, and a slot of the same
descriptor and group. -/
def DmaTurn.quiet (s : State) (cl slot : Nat) (d : DmaSlot) : DmaTurn → Prop
  | .more t => t.postKept s ∧ t.groups = s.groups ∧ ∃ e, t.slot? cl slot = some e ∧ e.desc = d.desc ∧ e.gid = d.gid
  | .stop t => t.postKept s

namespace State

theorem postKept_putSlot (s : State) (cl slot : Nat) (d : DmaSlot) : (s.putSlot cl slot d).postKept s := ⟨rfl, rfl, rfl⟩

theorem postKept_startWait (s : State) (cl : Nat) (o : MissOwner) : (s.startWait cl o).postKept s := ⟨rfl, rfl, rfl⟩

theorem postKept_farWait (s : State) (cl : Nat) (o : MissOwner) (near : Bool) : (s.farWait cl o near).postKept s := by
  cases near <;> exact ⟨rfl, rfl, rfl⟩

section ReadOnly

variable {cl slot : Nat} {ecc : ReadEcc} (hue : ecc.ue = none)
include hue

theorem quiet_dmaTurn {s : State} {d : DmaSlot} (hwrites : smWrites d.desc.toNat = false)
    (hreplay : ∀ g, s.group? d.gid = some g → g.replay = none) : (s.dmaTurn cl slot d ecc).quiet s cl slot d := by
  have hnone : ∀ b : Nat, (ecc.ue == some b) = false := fun b => by simp [hue]
  unfold State.dmaTurn
  dsimp only
  split
  · exact s.postKept_putSlot _ _ _
  next c hc =>
  have hobtain := (cachesOnly_obtainAll cl (ctxVi d.ctx) (.dma slot) (s.chunkReqs cl d c (ecc.ce.contains d.progress)) d.got
    (s.demandAll cl (s.chunkDemands cl d c))).trans (s.cachesOnly_demandAll cl _)
  rw [writes_of_not_smWrites hwrites hc, hnone]
  split
  · exact ⟨s.postKept_putSlot _ _ _, rfl, _, slot?_putSlot_self _ _ _ _, rfl, rfl⟩
  split
  · split
    · exact s.postKept_startWait _ _
    · split
      · next f t hfetch =>
        have hfab : t.fabOnly s := (congrArg (fun x => State.fabOnly x.2 s) hfetch).mp (fabOnly_dmaFetch cl slot d _ s)
        refine (postKept_suspendDma cl slot f ?_).trans hfab.postKept
        rw [fabOnly] at hfab
        rw [hfab]
        exact hreplay
      · next k t hfetch =>
        have hfab : t.fabOnly s := (congrArg (fun x => State.fabOnly x.2 s) hfetch).mp (fabOnly_dmaFetch cl slot d _ s)
        exact (postKept_putSlot _ _ _ _).trans hfab.postKept
  split
  · exact (postKept_putSlot _ _ _ _).trans ((postKept_farWait _ _ _ _).trans hobtain.postKept)
  split
  · next f t hread =>
    have ht : t.cachesOnly s :=
      ((congrArg (fun x => State.cachesOnly x.2 _) hread).mp (cachesOnly_dmaReadAll cl d _ _)).trans hobtain
    refine (postKept_suspendDma cl slot f fun g hg => hreplay g ?_).trans ht.postKept
    exact (congrArg (Bank.find? · d.gid) ht.groups).symm.trans hg
  · next bs t hread =>
    have ht : t.cachesOnly s :=
      ((congrArg (fun x => State.cachesOnly x.2 _) hread).mp (cachesOnly_dmaReadAll cl d _ _)).trans hobtain
    exact ⟨(postKept_putSlot _ _ _ _).trans ht.postKept, ht.groups, _, slot?_putSlot_self _ _ _ _, rfl, rfl⟩

/-- Turn after turn, a transfer that writes nothing changes no byte of fast memory and of the cluster stores. -/
theorem postKept_dmaRun (n : Nat) {s : State} {d : DmaSlot} (hslot : s.slot? cl slot = some d)
    (hwrites : smWrites d.desc.toNat = false) (hreplay : ∀ g, s.group? d.gid = some g → g.replay = none) :
    (State.dmaRun cl slot ecc n s).postKept s := by
  induction n generalizing s d with
  | zero => exact ⟨rfl, rfl, rfl⟩
  | succ n ih =>
    have hquiet := quiet_dmaTurn (cl := cl) (slot := slot) hue hwrites hreplay
    cases hturn : s.dmaTurn cl slot d ecc with
    | stop t =>
      rw [hturn] at hquiet
      rw [dmaRun_stop hslot n hturn]
      exact hquiet
    | more t =>
      rw [hturn] at hquiet
      obtain ⟨hkept, hgroups, e, he, hdesc, hgid⟩ := hquiet
      rw [dmaRun_more hslot n hturn]
      refine (ih he (by rwa [hdesc]) fun g hg => hreplay g ?_).trans hkept
      rw [hgid] at hg
      exact (congrArg (Bank.find? · d.gid) hgroups).symm.trans hg

end ReadOnly

theorem postKept_dmaGo {s : State} {mode : Nat} {cl : Fin 1088} {slot : Fin 256} {ecc : ReadEcc} {d : DmaSlot}
    (hue : ecc.ue = none) (hslot : s.slot? cl.val slot.val = some d) (hwrites : smWrites d.desc.toNat = false)
    (hreplay : ∀ g, s.group? d.gid = some g → g.replay = none) : (s.dmaGo mode cl slot ecc).postKept s := by
  have hwaits := s.cachesOnly_endWaits cl.val (.dma slot.val)
  simp only [State.dmaGo, hslot]
  split
  · refine (postKept_dmaRun hue _ ((s.slot?_endWaits _ _ _ _).trans hslot) hwrites fun g hg => hreplay g ?_).trans hwaits.postKept
    exact (congrArg (Bank.find? · d.gid) hwaits.groups).symm.trans hg
  · exact ⟨rfl, rfl, rfl⟩

/-! ### A sector that goes into the cluster cache (R285, R305) -/

/-- Translations see the bytes, the objects and the contexts alone. -/
theorem cachesOnly.translate {t s : State} (h : t.cachesOnly s) (k va : Nat) (acc : Acc) :
    t.translate k va acc = s.translate k va acc := by
  have hentry : t.ptEntry = s.ptEntry := by
    funext pt o
    unfold State.ptEntry
    split
    · rw [h.readPlace]
    · rfl
  have hpage : t.ptPage = s.ptPage := by
    funext k e big off a
    unfold State.ptPage
    rw [h.host]
  simp only [State.translate, hentry, hpage, State.ctx?, h.host]

theorem poison_charge (s : State) (v d : Nat) : (s.charge v d).mem.poison = s.mem.poison := by
  unfold State.charge
  split <;> rfl

theorem poison_unusedPrefetch (s : State) (x : Nat) : (s.unusedPrefetch x).mem.poison = s.mem.poison :=
  List.foldlRecOn (motive := fun t : State => t.mem.poison = s.mem.poison) _ _ rfl fun _ ht _ _ => ht

theorem poison_lineIn (s : State) (k : Nat) (x : SliceLine) : (s.lineIn k x).mem.poison = s.mem.poison := by
  have hout : ∀ y, (s.lineOut k y).mem.poison = s.mem.poison := by
    intro y
    unfold State.lineOut
    split
    · rfl
    · refine (poison_unusedPrefetch _ _).trans ?_
      split
      · exact s.poison_charge _ _
      · rfl
  dsimp only [State.lineIn]
  split
  · exact hout _
  · rfl

theorem poison_homeUse (s : State) (p : Place) : (s.homeUse p).mem.poison = s.mem.poison := s.poison_lineIn _ _

/-- R294: only an uncorrectable error marks a sector. -/
theorem poison_arrayRead (s : State) (a : Nat) {ecc : EccResult} (hecc : ecc ≠ .uncorrectable) (requester : Nat) :
    (s.arrayRead a ecc requester).mem.poison = s.mem.poison := by
  cases ecc with
  | clean => exact s.poison_homeUse _
  | corrected => exact s.poison_homeUse _
  | uncorrectable => exact absurd rfl hecc

theorem poison_obtain (s : State) (cl v : Nat) (o : MissOwner) {r : SectorReq} (hecc : r.ecc ≠ .uncorrectable) :
    (s.obtain cl v o r).2.mem.poison = s.mem.poison := by
  unfold State.obtain
  split
  · split <;> rfl
  · next a _ =>
    dsimp only
    split
    · rfl
    · split
      · split
        · rfl
        · exact poison_arrayRead _ a hecc r.requester
      · split
        · rfl
        · split
          · rfl
          · split
            · rfl
            · exact (poison_arrayRead _ a hecc r.requester).trans (s.poison_charge _ _)

theorem poison_trainTracker (s : State) (cl a : Nat) : (s.trainTracker cl a).mem.poison = s.mem.poison := by
  unfold State.trainTracker
  dsimp only
  split <;> rfl

theorem poison_obtainAll (cl v : Nat) (o : MissOwner) {l : List SectorReq} (hecc : ∀ r ∈ l, r.ecc ≠ .uncorrectable)
    (got : List Nat) (s : State) : (State.obtainAll cl v o l got s).2.2.mem.poison = s.mem.poison := by
  induction l generalizing got s with
  | nil => rfl
  | cons r l ih =>
    have hrest := ih fun x hx => hecc x (List.mem_cons_of_mem _ hx)
    have hone := s.poison_obtain cl v o (hecc r List.mem_cons_self)
    unfold State.obtainAll
    dsimp only
    split
    · exact hrest got s
    · split
      · refine (hrest _ _).trans (Eq.trans ?_ hone)
        split
        · exact poison_trainTracker _ _ _
        · rfl
      · exact (hrest _ _).trans hone

theorem poison_demandAll (s : State) (cl : Nat) (sectors : List (Nat × Nat)) :
    (s.demandAll cl sectors).mem.poison = s.mem.poison := by
  refine List.foldlRecOn (motive := fun t : State => t.mem.poison = s.mem.poison) _ _ rfl fun t ht x _ => Eq.trans ?_ ht
  have hfirst : (t.demandPrefetched cl x.1).mem.poison = t.mem.poison := by
    unfold State.demandPrefetched
    dsimp only
    split <;> rfl
  refine Eq.trans ?_ hfirst
  dsimp only [State.followStream]
  split <;> rfl

/-- The one sector of this node that a step reads is clean or corrected. -/
theorem ecc_chunkReqs_read {s : State} {cl : Nat} {d : DmaSlot} {c : Chunk} {p : Piece} {ce : Bool} (hreads : c.reads = [p])
    (hwrites : c.writes = []) : ∀ r ∈ s.chunkReqs cl d c ce, r.ecc ≠ .uncorrectable := by
  intro r hr
  simp only [State.chunkReqs, hreads, hwrites, List.filterMap_nil, ite_self, List.append_nil, List.filterMap_cons] at hr
  split at hr
  · exact absurd hr (by simp [mergeReqs])
  · next x hx =>
    obtain rfl : r = x := by simpa [mergeReqs] using hr
    obtain ⟨pl, -, hpl⟩ := Option.bind_eq_some_iff.1 hx
    split at hpl
    · exact absurd hpl (by simp)
    · obtain rfl := Option.some.inj hpl
      cases ce <;> simp

/-- A read with CACHE = 1 puts the line of its sector into the cluster cache. -/
theorem dmaRead_cached {s : State} {d : DmaSlot} {p : Piece} {va a : Nat} (cl : Nat) (hglobal : p.global = true)
    (hform : gform p.addr = .local va) (hplace : s.translate d.ctx va .load = .ok (.fast a))
    (hpoison : s.poisoned (.fast a) = false) (hcache : smCache d.desc.toNat = true) :
    ∃ bs, s.dmaRead cl d p false = (.inl bs, (s.homeRead (dieOfCluster cl) (.fast a)).fillCluster (s.cacheUnits d.ctx) cl
      (Place.fast a).sector ((cacheGet (s.cluster cl).cache (Place.fast a).sector).getD (memRead s.mem.hbm (a / 256 * 256) 256))) := by
  simp only [State.dmaRead, hglobal, hform, hplace, hpoison, hcache, Bool.not_true, Bool.false_eq_true, if_false]
  exact ⟨_, rfl⟩

theorem remote_of_local {p : Piece} {va : Nat} (h : gform p.addr = .local va) : p.remote = false := by
  simp [Piece.remote, isFabric, h]

theorem cache_putSlot (s : State) (cl slot : Nat) (d : DmaSlot) : ((s.putSlot cl slot d).cluster cl).cache = (s.cluster cl).cache :=
  (congrArg Cluster.cache (State.cluster_putCluster_self s cl { s.cluster cl with dma := (s.cluster cl).dma.put slot d }) :)

/-- A turn that reads one sector of this node with CACHE = 1 leaves its line in the cluster cache. -/
theorem dmaTurn_cached {s : State} {cl slot : Nat} {d : DmaSlot} {ecc : ReadEcc} {c : Chunk} {a va p : Nat}
    (hchunk : chunkAt d.desc.toNat d.progress = some c) (hwriting : d.writing = false) (hreads : c.reads = [⟨true, a, c.step⟩])
    (hwrites : c.writes = []) (hform : gform a = .local va) (hplace : s.translate d.ctx va .load = .ok (.fast p))
    (hpoison : s.poisoned (.fast p) = false) (hcache : smCache d.desc.toNat = true) (hecc : ecc.ue ≠ some d.progress)
    {q : Bool × List Nat × State} (hq : q = State.obtainAll cl (ctxVi d.ctx) (.dma slot)
      (s.chunkReqs cl d c (ecc.ce.contains d.progress)) d.got (s.demandAll cl (s.chunkDemands cl d c))) (hhad : q.1 = true) :
    ∃ u, s.dmaTurn cl slot d ecc = .more u ∧
      (u.cluster cl).cache = (((q.2.2.homeRead (dieOfCluster cl) (.fast p)).fillCluster (q.2.2.cacheUnits d.ctx) cl
        (Place.fast p).sector ((cacheGet (q.2.2.cluster cl).cache (Place.fast p).sector).getD
          (memRead s.mem.hbm (p / 256 * 256) 256))).cluster cl).cache := by
  have hbytes : q.2.2.cachesOnly s := hq ▸ (cachesOnly_obtainAll cl _ _ _ d.got _).trans (s.cachesOnly_demandAll cl _)
  have hmarks : q.2.2.mem.poison = s.mem.poison :=
    hq ▸ (poison_obtainAll cl _ _ (ecc_chunkReqs_read hreads hwrites) d.got _).trans (s.poison_demandAll cl _)
  have hnear : ∀ r ∈ c.reads, Piece.remote r = false := by
    rw [hreads]
    simpa using remote_of_local (p := ⟨true, a, c.step⟩) hform
  obtain ⟨bs, hread⟩ := dmaRead_cached (s := q.2.2) (p := ⟨true, a, c.step⟩) cl rfl hform ((hbytes.translate _ _ _).trans hplace)
    ((congrArg (fun l : List Nat => l.contains (p / 256)) hmarks).trans hpoison) hcache
  rw [hbytes.hbm] at hread
  have hall : State.dmaReadAll cl d (ecc.ue == some d.progress) (c.reads.mapIdx fun i p => (i, p)) q.2.2 = (.inl (bs ++ []),
      (q.2.2.homeRead (dieOfCluster cl) (.fast p)).fillCluster (q.2.2.cacheUnits d.ctx) cl (Place.fast p).sector
        ((cacheGet (q.2.2.cluster cl).cache (Place.fast p).sector).getD (memRead s.mem.hbm (p / 256 * 256) 256))) := by
    rw [hreads, beq_false_of_ne hecc]
    simp only [List.mapIdx_cons, List.mapIdx_nil, State.dmaReadAll, remote_of_local (p := ⟨true, a, c.step⟩) hform,
      Bool.false_eq_true, if_false, Bool.false_and, hread]
  have hnone : State.dmaWriteAll cl slot d c.writes (chunkData d.desc.toNat d.progress c (bs ++ [])) = fun t => (.inl 0, t) := by
    rw [hwrites]
    rfl
  subst hq
  exact ⟨_, dmaTurn_more hchunk hwriting hnear (by simp [hwrites]) hhad hall (congrFun hnone _),
    cache_putSlot _ cl slot _⟩

/-! ### The end of a transfer (R305) -/

theorem clusters_dropDmaToken (t : State) (gk token : Nat) : (t.dropDmaToken gk token).clusters = t.clusters := by
  unfold State.dropDmaToken
  split <;> rfl

/-- A group that is running stays as it is while others that stall in DMA.START try again. -/
theorem group?_wakeDma_running {s : State} {k : Nat} {g : Group} (cl : Nat) (hg : s.group? k = some g) (hrun : g.status = .running) :
    (s.wakeDma cl).group? k = some g := by
  have hkey : ∀ x : Nat × Group, (if clusterKeyOf x.1 == cl && x.2.status == .dmaStall then
      (x.1, { x.2 with status := .running }) else x).1 = x.1 := fun x => by split <;> rfl
  refine (Bank.find?_map_of hkey s.groups k).trans ?_
  rw [show s.groups.find? k = some g from hg]
  simp [hrun]

/-- R305: the last transfer that a group waits for lets it go on. -/
theorem group?_dropDmaToken_last {s : State} {gk token : Nat} {g : Group} (hg : s.group? gk = some g)
    (hstatus : g.status = .dmaWait token) (htok : g.dmaTok.get 0 token = 1) : (s.dropDmaToken gk token).group? gk =
      some { { g with dmaTok := g.dmaTok.set 0 token 0 }.countInstr with status := .running, pc := g.pc + 8 } := by
  simp [State.dropDmaToken, hg, hstatus, htok]

section End

variable {s : State} (cl slot : Nat) {d : DmaSlot} {g : Group} (hg : s.group? d.gid = some g)
include hg

theorem endDma_eq : s.endDma cl slot d = ((((s.detachDma cl slot).freeMiss cl (.dma slot)).putCluster cl
    { ((s.detachDma cl slot).freeMiss cl (.dma slot)).cluster cl with dma := (s.cluster cl).dma.erase slot }).dropDmaToken
      d.gid d.token).wakeDma cl := by
  have hfree : ((s.detachDma cl slot).freeMiss cl (.dma slot)).group? d.gid = some g :=
    (congrArg (Bank.find? · d.gid) (cachesOnly_freeMiss _ cl _).groups).trans hg
  simp only [State.endDma, hfree]

theorem dma_endDma : ((s.endDma cl slot d).cluster cl).dma = (s.cluster cl).dma.erase slot := by
  rw [endDma_eq cl slot hg]
  refine (congrArg (fun b : Bank Cluster => (b.get {} cl).dma) (clusters_dropDmaToken _ d.gid d.token) :).trans ?_
  exact congrArg Cluster.dma (State.cluster_putCluster_self _ _ _)

/-- A group that waited for its last transfer goes on behind its DMA.WAIT. -/
theorem group?_endDma (hstatus : g.status = .dmaWait d.token) (htok : g.dmaTok.get 0 d.token = 1) :
    ∃ h, (s.endDma cl slot d).group? d.gid = some h ∧ h.status = .running ∧ h.pc = g.pc + 8 ∧
      h.dmaTok = g.dmaTok.set 0 d.token 0 := by
  have hgroup : (((s.detachDma cl slot).freeMiss cl (.dma slot)).putCluster cl
      { ((s.detachDma cl slot).freeMiss cl (.dma slot)).cluster cl with dma := (s.cluster cl).dma.erase slot }).group? d.gid =
        some g :=
    (congrArg (Bank.find? · d.gid) (cachesOnly_freeMiss _ cl _).groups).trans hg
  have hdrop := group?_dropDmaToken_last hgroup hstatus htok
  rw [endDma_eq cl slot hg]
  refine ⟨_, group?_wakeDma_running cl hdrop rfl, rfl, rfl, ?_⟩
  rw [Group.countInstr_frame]

end End

end State

/-! ### What a step writes (R306) -/

theorem chunkData_copy {d : Nat} (h : smMode d = 0) (b : Nat) (c : Chunk) (read : Bytes) : chunkData d b c read = read := by
  simp [chunkData, h]

theorem chunkData_zero {d : Nat} (h : smMode d = 3) (b : Nat) (c : Chunk) (read : Bytes) :
    chunkData d b c read = List.replicate c.step 0 := by
  simp [chunkData, h]

/-- A transfer by rows that is over behind a step has a byte to move. -/
theorem pos_of_chunkAt {d b : Nat} {c : Chunk} (hmode : smMode d = 0) (hc : chunkAt d b = some c)
    (hover : chunkAt d (b + c.step) = none) : 0 < smRows d * smRowBytes d := by
  have hne : smMode d ≠ 1 := by omega
  have hstep : c.step ≠ 0 := by
    intro h
    rw [h, Nat.add_zero, hc] at hover
    exact absurd hover (by simp)
  rw [chunkAt, if_neg hne] at hc
  unfold rowChunk at hc
  dsimp only at hc
  split at hc
  · exact absurd hc (by simp)
  next hrows =>
  obtain rfl := Option.some.inj hc
  refine Nat.mul_pos ((Nat.zero_le _).trans_lt (Nat.lt_of_not_le hrows)) (Nat.pos_of_ne_zero fun hbytes => hstep ?_)
  simp [hbytes]

namespace State

/-- R306: a COPY whose next step is its last puts the bytes of its one run at the destination and is over. -/
theorem dmaGo_copy {s : State} {cl : Fin 1088} {slot : Fin 256} {ecc : ReadEcc} {d : DmaSlot} {c : Chunk} {src dst n : Nat}
    (hslot : s.slot? cl.val slot.val = some d) (hsuspended : d.suspended = false) (hwritten : d.written = false)
    (hfinished : d.finished = false) (hreq : d.pendingReq = 0) (hwriting : d.writing = false) (hspec : d.spec = false)
    (hvoid : d.void = false) (hmode : smMode d.desc.toNat = 0) (hchunk : chunkAt d.desc.toNat d.progress = some c)
    (hreads : c.reads = [⟨false, src, n⟩]) (hwrites : c.writes = [⟨false, dst, n⟩]) (hecc : ecc.ue ≠ some d.progress)
    (hover : chunkAt d.desc.toNat (d.progress + c.step) = none) :
    (s.dmaGo 0 cl slot ecc).mem.store = (s.storeWrite cl.val dst (s.storeRead cl.val src n)).mem.store ∧
      ∃ x, (s.dmaGo 0 cl slot ecc).slot? cl.val slot.val = some x ∧ x.written = true := by
  have hstore := (s.cachesOnly_endWaits cl.val (.dma slot.val)).store
  obtain ⟨u, -, hput, hturn⟩ := dmaTurn_near (s := s.endWaits cl.val (.dma slot.val)) (cl := cl.val) (slot := slot.val)
    (by simp [hreads]) (by simp [hwrites]) hchunk hwriting hspec hvoid (.inr hecc)
  obtain ⟨k, hk⟩ := Nat.exists_eq_add_of_lt (pos_of_chunkAt hmode hchunk hover)
  have hgo := dmaGo_runs ecc hslot hmode hsuspended hwritten hfinished hreq (by simp [hspec])
  rw [hk, dmaRun_more ((s.slot?_endWaits _ _ _ _).trans hslot) _ hturn, Nat.zero_add,
    dmaRun_stop (slot?_putSlot_self _ _ _ _) _ (dmaTurn_over cl.val slot.val ecc hover)] at hgo
  rw [hgo]
  refine ⟨hput.trans ?_, _, slot?_putSlot_self _ _ _ _, rfl⟩
  have hlen : (s.storeRead cl.val src n).length = n := by simp [State.storeRead]
  rw [hreads, hwrites, chunkData_copy hmode, List.flatMap_singleton, storeRead_congr hstore]
  show ((s.endWaits cl.val (.dma slot.val)).storeWrite cl.val dst ((s.storeRead cl.val src n).take n)).mem.store = _
  rw [List.take_of_length_le hlen.le]
  exact storeWrite_congr hstore cl.val dst _

end State

/-- Settles O20: `dmaTurn_near` and `dmaTurn_cached` give one turn, `dmaGo_runs` and `dmaGo_copy` its place in a transfer, and
`group?_endDma` the end of one. -/
theorem transferResults : Obligations.TransferResults := by
  refine ⟨?_, fun _ _ _ _ _ => rfl, ?_, ?_, ?_, ?_, ?_, ?_, ?_⟩
  · intro cl slot ecc s d hslot hsuspended hwritten hfinished hreq hmerge
    have hruns := fun ecc mode hmode =>
      congrArg (Host.Outcome.next (φ := Fault) (ρ := Refusal))
        (State.dmaGo_runs (mode := mode) ecc hslot hmode hsuspended hwritten hfinished hreq hmerge)
    exact ⟨hruns ecc 0, hruns ecc 1, hruns ecc 2, hruns {} 3⟩
  · intro cl slot d ecc c s hchunk hwriting hspec hvoid hecc hreads hwrites
    obtain ⟨u, hu, hput, hturn⟩ := State.dmaTurn_near (s := s) (cl := cl) (slot := slot) hreads hwrites hchunk hwriting hspec hvoid
      (.inr hecc)
    have hhbm : u.mem.hbm = s.mem.hbm := (congrArg (fun u : State => u.mem.hbm) hu :)
    have hhost : u.mem.host = s.mem.host := (congrArg (fun u : State => u.mem.host) hu :)
    exact ⟨_, hturn, hput, hhbm, hhost,
      fun a ha => (congrArg (memGet · a) hput).trans (State.memGet_foldl_putPiece ha _ _), State.slot?_putSlot_self _ _ _ _⟩
  · intro cl slot ecc s d c src dst n hslot hsuspended hwritten hfinished hreq hwriting hspec hvoid hmode hchunk hreads hwrites hn
      hecc hover
    obtain ⟨hstore, x, hx, hdone⟩ := State.dmaGo_copy hslot hsuspended hwritten hfinished hreq hwriting hspec hvoid hmode hchunk
      hreads hwrites hecc hover
    have hlen : (s.storeRead cl.val src n).length = n := by simp [State.storeRead]
    refine ⟨_, x, rfl, ?_, fun a ha => ?_, hx, hdone⟩
    · have hback := s.storeRead_storeWrite cl.val dst (bs := s.storeRead cl.val src n) (by omega)
      rw [hlen] at hback
      exact (State.storeRead_congr hstore _ _ _).trans hback
    · exact (congrArg (memGet · a) hstore).trans (State.memGet_storeWrite_outside fun i hi => ha i (hlen ▸ hi))
  · intro cl slot d ecc c dst s hchunk hwriting hspec hvoid hmode hreads hwrites hstep
    obtain ⟨u, -, hput, hturn⟩ := State.dmaTurn_near (s := s) (cl := cl) (slot := slot) (by simp [hreads]) (by simp [hwrites])
      hchunk hwriting hspec hvoid (.inl hreads)
    refine ⟨_, hturn, ?_⟩
    rw [hwrites, chunkData_zero hmode] at hput
    have hback := s.storeRead_storeWrite cl dst (bs := List.replicate c.step 0) (by simpa using hstep)
    rw [List.length_replicate] at hback
    refine (State.storeRead_congr (hput.trans ?_) cl dst c.step).trans hback
    exact congrArg (fun bs => (s.storeWrite cl dst bs).mem.store) (List.take_of_length_le (by simp))
  · intro cl slot ecc s hue
    refine ⟨_, rfl, fun d hslot hwrites hreplay => ?_⟩
    obtain ⟨hhbm, hstore, -⟩ := State.postKept_dmaGo (mode := 2) hue hslot hwrites hreplay
    exact ⟨hhbm, hstore⟩
  · intro cl slot d ecc c a va p s hchunk hwriting _ hreads hwrites hform hplace hpoison hcache hecc reqs q hhad
    exact State.dmaTurn_cached hchunk hwriting hreads hwrites hform hplace hpoison hcache hecc rfl hhad
  · intro cl slot d ecc s hover
    exact State.dmaTurn_over cl slot ecc hover
  · intro cl slot s d g hslot hwritten hfinished hg hstatus htok
    obtain ⟨h, hfind, hrun, hpc, hdma⟩ := State.group?_endDma cl.val slot.val hg hstatus htok
    refine ⟨_, h, ?_, State.dma_endDma cl.val slot.val hg, hfind, hrun, hpc, hdma⟩
    simp [exec, execDmaTransferComplete, hslot, hwritten, hfinished]

end Sys2Proof.Machine

/-! PROOFS. O36: the pseudo-channels: what the sectors that return to their clusters leave alone, then one effect per operation of a
pseudo-channel. -/

namespace Sys2Proof.Machine

/-! ### What the return of a sector to its cluster changes (R302) -/

/-- The objects that the return of a sector counts nothing in: 00.101, 00.104, 40.102, 40.103 and 40.113 are not among them. -/
def uncounted (o i : Nat) : Prop :=
  0x00105 ≤ o ∧ (okey o i < okey 0x40102 0 ∨ okey 0x40104 0 ≤ okey o i ∧ okey o i < okey 0x40113 0)

/-- `t` differs from `s` in what the return of a sector can change: caches, marks, buckets, arbiters, records and their counts. -/
structure State.sectorOnly (t s : State) : Prop where
  frame : t = { s with clusters := t.clusters, arb := { s.arb with insts := t.arb.insts }, mgmt := t.mgmt, cask := t.cask,
                       mem := { s.mem with slices := t.mem.slices, bucket := t.mem.bucket, poison := t.mem.poison,
                                           latent := t.mem.latent } }
  obj : ∀ o i, uncounted o i → t.obj o i = s.obj o i

/-- R298: nothing is granted while a window is open. -/
theorem Arb.nextEvent_closed {x : Arb} (c : ArbClass) (hemergency : x.emergency = false) (hrunning : x.running = none)
    (hclosed : x.closed = true) : x.nextEvent c = none := by
  simp [Arb.nextEvent, hemergency, hrunning, hclosed]

namespace State

theorem sectorOnly.refl (s : State) : s.sectorOnly s := ⟨rfl, fun _ _ _ => rfl⟩

theorem sectorOnly.trans {r t s : State} (g : r.sectorOnly t) (h : t.sectorOnly s) : r.sectorOnly s :=
  ⟨g.frame.trans (congrArg (fun u : State =>
    { u with clusters := r.clusters, arb := { u.arb with insts := r.arb.insts }, mgmt := r.mgmt, cask := r.cask,
             mem := { u.mem with slices := r.mem.slices, bucket := r.mem.bucket, poison := r.mem.poison,
                                 latent := r.mem.latent } }) h.frame),
    fun o i hlow => (g.obj o i hlow).trans (h.obj o i hlow)⟩

theorem sectorOnly.foldl {α : Type} {f : State → α → State} (h : ∀ t x, (f t x).sectorOnly t) (l : List α) (s : State) :
    (l.foldl f s).sectorOnly s :=
  List.foldlRecOn (motive := fun t : State => t.sectorOnly s) l f (.refl s) fun t ht x _ => (h t x).trans ht

theorem sectorOnly.ite {p : Prop} [Decidable p] {t u s : State} (h : t.sectorOnly s) (g : u.sectorOnly s) :
    (if p then t else u).sectorOnly s := by
  split
  · exact h
  · exact g

section Kept

variable {t s : State} (h : t.sectorOnly s)
include h

theorem sectorOnly.pchan (k : Nat) : t.pchan k = s.pchan k := (congrArg (fun u : State => u.pchan k) h.frame :)
theorem sectorOnly.migration : t.mem.migration = s.mem.migration := (congrArg (fun u : State => u.mem.migration) h.frame :)
theorem sectorOnly.due : t.mem.due = s.mem.due := (congrArg (fun u : State => u.mem.due) h.frame :)
theorem sectorOnly.hbm : t.mem.hbm = s.mem.hbm := (congrArg (fun u : State => u.mem.hbm) h.frame :)
theorem sectorOnly.groups : t.groups = s.groups := (congrArg State.groups h.frame :)
theorem sectorOnly.health : t.health = s.health := (congrArg State.health h.frame :)

end Kept

theorem sectorOnly_putCluster (s : State) (cl : Nat) (x : Cluster) : (s.putCluster cl x).sectorOnly s := ⟨rfl, fun _ _ _ => rfl⟩

theorem sectorOnly_putLines (s : State) (k : Nat) (l : List SliceLine) : (s.putLines k l).sectorOnly s := ⟨rfl, fun _ _ _ => rfl⟩

/-- A counter rises that is not among the uncounted objects. -/
theorem sectorOnly_bumpBy (s : State) {o i : Nat} (n : Nat)
    (h : okey 0x40102 0 ≤ okey o i ∧ okey o i < okey 0x40104 0 ∨ okey 0x40113 0 ≤ okey o i) : (s.bumpBy o i n).sectorOnly s :=
  ⟨rfl, fun p j hp => s.obj_setObj_ne o i _ p j fun heq => by obtain ⟨-, hp⟩ := hp; unfold okey at *; omega⟩

/-- 40.102 and 40.103 are counted by pseudo-channel. -/
theorem pchanOf_lt (s : State) (a : Nat) : s.pchanOf a < 1216 := by
  have hstack : (s.channelOf a).1 < 16 := by
    unfold State.channelOf
    split <;> exact Nat.mod_lt _ (by decide)
  have hpos := Nat.mod_lt (s.obj 0x40020 (s.channelOf a).1 >>> (8 * (s.channelOf a).2.1)) (show 0 < 2 ^ 8 by decide)
  show 64 * (s.channelOf a).1 + _ % 2 ^ 8 < 1216
  omega

theorem sectorOnly_bump_unused (s : State) (cl n : Nat) : (s.bumpBy 0x40113 cl n).sectorOnly s :=
  s.sectorOnly_bumpBy n (.inr (by unfold okey; omega))

theorem sectorOnly_bump_pchanOf (s : State) {o : Nat} (a : Nat) (ho : o = 0x40102 ∨ o = 0x40103) :
    (s.bump o (s.pchanOf a)).sectorOnly s := by
  have hlt := s.pchanOf_lt a
  exact s.sectorOnly_bumpBy 1 (.inl (by unfold okey; omega))

theorem sectorOnly_caskPost (s : State) (t src : Nat) (payload : Bytes) (flags : Nat) :
    (s.caskPost t src payload flags).sectorOnly s := by
  have hcask : s.caskPost t src payload flags = _ := s.caskOnly_caskPost t src payload flags
  exact ⟨by rw [hcask], fun _ i hp => s.obj_caskPost t src payload flags i hp.1⟩

theorem sectorOnly_charge (s : State) (v d : Nat) : (s.charge v d).sectorOnly s := .ite ⟨rfl, fun _ _ _ => rfl⟩ (.refl s)

theorem sectorOnly_unusedPrefetch (s : State) (x : Nat) : (s.unusedPrefetch x).sectorOnly s := by
  dsimp only [State.unusedPrefetch]
  exact .foldl (fun t (y : Nat × Cluster) => (sectorOnly_bump_unused _ y.1 1).trans (t.sectorOnly_putCluster _ _)) _ s

theorem sectorOnly_lineOut (s : State) (k : Nat) (x : SliceLine) : (s.lineOut k x).sectorOnly s :=
  .ite (.refl s) ((sectorOnly_unusedPrefetch _ _).trans (.ite (s.sectorOnly_charge _ _) (.refl s)))

theorem sectorOnly_lineIn (s : State) (k : Nat) (x : SliceLine) : (s.lineIn k x).sectorOnly s := by
  dsimp only [State.lineIn]
  split
  · next y _ => exact (sectorOnly_putLines _ _ _).trans (s.sectorOnly_lineOut k y)
  · exact s.sectorOnly_putLines _ _

theorem sectorOnly_homeUse (s : State) (p : Place) : (s.homeUse p).sectorOnly s := s.sectorOnly_lineIn _ _

theorem sectorOnly_homeRead (s : State) (d : Nat) (p : Place) : (s.homeRead d p).sectorOnly s :=
  .ite (.refl s) (.ite (s.sectorOnly_homeUse p)
    ((sectorOnly_lineIn _ _ _).trans (.ite (.refl s) (s.sectorOnly_homeUse p))))

theorem sectorOnly_hbmUe (s : State) (a requester : Nat) : (s.hbmUe a requester).sectorOnly s :=
  (sectorOnly_caskPost _ _ _ _ _).trans ((sectorOnly_bump_pchanOf { s with mem.poison := insertNat (a / 256) s.mem.poison } a
    (.inr rfl)).trans ⟨rfl, fun _ _ _ => rfl⟩)

theorem sectorOnly_arrayRead (s : State) (a : Nat) (ecc : EccResult) (requester : Nat) :
    (s.arrayRead a ecc requester).sectorOnly s := by
  have huse := s.sectorOnly_homeUse (.fast a)
  cases ecc with
  | clean => exact huse
  | corrected => exact (sectorOnly_bump_pchanOf _ a (.inl rfl)).trans huse
  | uncorrectable =>
    exact .ite huse ((sectorOnly_hbmUe _ a requester).trans (.trans ⟨rfl, fun _ _ _ => rfl⟩ huse))

theorem sectorOnly_fillCluster (s : State) (units cl k : Nat) (line : Bytes) : (s.fillCluster units cl k line).sectorOnly s := by
  refine .trans ?_ (s.sectorOnly_putCluster cl { s.cluster cl with cache := clusterFill units (s.cluster cl).cache k line })
  exact .ite ((sectorOnly_bump_unused _ cl _).trans (sectorOnly_putCluster _ _ _)) (.refl _)

theorem sectorOnly_prefetchArrive (s : State) (cl : Nat) (e : MissEntry) : (s.prefetchArrive cl e).sectorOnly s := by
  have hread := (sectorOnly_homeRead ((s.dropMiss cl e).arrayRead e.addr (s.latentAt e.addr)) (dieOfCluster cl) (.fast e.addr)).trans
    ((sectorOnly_arrayRead _ e.addr (s.latentAt e.addr) 0).trans (s.sectorOnly_putCluster cl _))
  exact .ite hread ((sectorOnly_fillCluster _ _ _ _ _).trans hread)

theorem sectorOnly_missReturn (s : State) (p cl : Nat) : (s.missReturn p cl).sectorOnly s := by
  unfold State.missReturn
  split
  · exact .refl s
  · next e _ =>
    split
    · exact s.sectorOnly_putCluster _ _
    · exact s.sectorOnly_prefetchArrive cl e
    · exact s.sectorOnly_putCluster _ _

/-- R302: a queue that is brought forward changes its arbiter, and what its sectors change on their return. -/
theorem sectorOnly_onPchan (s : State) (p t : Nat) (f : Arb → Arb) : (s.onPchan p t f).sectorOnly s := by
  unfold State.onPchan
  refine .trans (.foldl (fun u e => ?_) _ _) ⟨rfl, fun _ _ _ => rfl⟩
  split
  · exact u.sectorOnly_missReturn _ _
  · exact .refl u

/-! ### The arbiter of a queue that is brought forward -/

theorem arbOf_onPchan_self (s : State) (p t : Nat) (f : Arb → Arb) : (s.onPchan p t f).arbOf .hbmQueue p =
    f (((s.arbOf .hbmQueue p).upTo s.arb .hbmQueue (dieOf .hbmQueue p) t).settleEnded t) :=
  s.onPchan_inst_self p t f

/-- A queue at rest stands as it is until it is changed: only its arbiter differs. -/
theorem instOnly_onPchan {s : State} {p t : Nat} (f : Arb → Arb)
    (hrest : (s.arbOf .hbmQueue p).upTo s.arb .hbmQueue (dieOf .hbmQueue p) t = s.arbOf .hbmQueue p)
    (hended : (s.arbOf .hbmQueue p).ended = []) :
    (s.onPchan p t f).instOnly s (instKey .hbmQueue p) (f (s.arbOf .hbmQueue p)) :=
  instOnly_onInst (c := .hbmQueue) f rfl hrest fun _ => hended

/-! ### Pseudo-channels and the operations on them -/

theorem pchan_putPchan_ne (s : State) {j k : Nat} (x : Pchan) (h : j ≠ k) : (s.putPchan k x).pchan j = s.pchan j :=
  Bank.get_set_ne _ _ _ j k h

/-- A window opens in the state `s`: its pseudo-channel is in it, and its count and what had fallen due are settled. -/
def windowBegun (s : State) (p : Nat) (cause : RetrainCause) : State :=
  { (s.putPchan p { s.pchan p with window := some cause }).bump 0x40104 p with
    mem.due := s.mem.due.set [] (p / 64) ((s.mem.due.get [] (p / 64)).filter (fun x => x.1 != p)) }

theorem openWindow_eq (s : State) (p : Nat) (cause : RetrainCause) (t : Nat) :
    s.openWindow p cause t = (s.windowBegun p cause).onPchan p (t - 1) (fun a => { a with closed := true }) := rfl

section Window

variable (s : State) (p : Nat) (cause : RetrainCause) (t : Nat)

theorem sectorOnly_openWindow : (s.openWindow p cause t).sectorOnly (s.windowBegun p cause) := by
  rw [openWindow_eq]
  exact sectorOnly_onPchan _ _ _ _

theorem pchan_openWindow_self : (s.openWindow p cause t).pchan p = { s.pchan p with window := some cause } :=
  ((s.sectorOnly_openWindow p cause t).pchan p).trans (s.pchan_putPchan_self p _)

theorem pchan_openWindow_ne {k : Nat} (h : k ≠ p) : (s.openWindow p cause t).pchan k = s.pchan k :=
  ((s.sectorOnly_openWindow p cause t).pchan k).trans (s.pchan_putPchan_ne _ h)

theorem closed_openWindow : ((s.openWindow p cause t).arbOf .hbmQueue p).closed = true :=
  congrArg Arb.closed (arbOf_onPchan_self (s.windowBegun p cause) p (t - 1) _)

/-- R298: windows are counted in 40.104. -/
theorem obj_openWindow_count (hp : p < 1024) : (s.openWindow p cause t).obj 0x40104 p = (s.obj 0x40104 p + 1) % 2 ^ 64 :=
  ((s.sectorOnly_openWindow p cause t).obj 0x40104 p ⟨by decide, .inr (by unfold okey; omega)⟩).trans (s.obj_bump_self 0x40104 p)

/-- The other objects that returning sectors leave alone are as they were. -/
theorem obj_openWindow {o i : Nat} (h : uncounted o i) (hne : okey o i ≠ okey 0x40104 p) :
    (s.openWindow p cause t).obj o i = s.obj o i :=
  ((s.sectorOnly_openWindow p cause t).obj o i h).trans (s.obj_bump_ne 0x40104 p o i hne)

end Window

/-! ### The end of a window (R298) -/

/-- The state behind the window of a pseudo-channel, before another opens. -/
def windowEnded (s : State) (p t : Nat) : State :=
  let s := s.putPchan p { s.pchan p with window := none }
  if s.switching p then s.onPchan p (t - 1) (fun a => { a with closed := false, idleFrom := max a.idleFrom t })
  else s.releaseHeld p p (t - 1)

/-- Held requests leave the hold queue, and the sectors that return on the way change what they do. -/
theorem sectorOnly_releaseHeld (s : State) (p q t : Nat) :
    (s.releaseHeld p q t).sectorOnly (s.putPchan p { s.pchan p with held := [] }) := by
  unfold State.releaseHeld
  exact sectorOnly_onPchan _ _ _ _

theorem pchan_releaseHeld_self (s : State) (p q t : Nat) : (s.releaseHeld p q t).pchan p = { s.pchan p with held := [] } :=
  ((s.sectorOnly_releaseHeld p q t).pchan p).trans (s.pchan_putPchan_self p _)

theorem pchan_releaseHeld_ne (s : State) {p k : Nat} (q t : Nat) (h : k ≠ p) : (s.releaseHeld p q t).pchan k = s.pchan k :=
  ((s.sectorOnly_releaseHeld p q t).pchan k).trans (s.pchan_putPchan_ne _ h)

theorem due_windowEnded (s : State) (p t : Nat) : (s.windowEnded p t).mem.due = s.mem.due := by
  dsimp only [windowEnded]
  split
  · exact (sectorOnly_onPchan _ p (t - 1) _).due
  · exact (sectorOnly_releaseHeld _ p p (t - 1)).due

theorem window_windowEnded_self (s : State) (p t : Nat) : ((s.windowEnded p t).pchan p).window = none := by
  dsimp only [windowEnded]
  split
  · rw [(sectorOnly_onPchan _ p (t - 1) _).pchan, pchan_putPchan_self]
  · rw [pchan_releaseHeld_self, pchan_putPchan_self]

theorem pchan_windowEnded_ne (s : State) {p k : Nat} (t : Nat) (h : k ≠ p) : (s.windowEnded p t).pchan k = s.pchan k := by
  dsimp only [windowEnded]
  split
  · rw [(sectorOnly_onPchan _ p (t - 1) _).pchan, pchan_putPchan_ne _ _ h]
  · rw [pchan_releaseHeld_ne _ _ _ h, pchan_putPchan_ne _ _ h]

theorem closeWindow1_of_nil {s : State} {p : Nat} (t : Nat) (hdue : s.mem.due.get [] (p / 64) = []) :
    s.closeWindow1 p t = s.windowEnded p t := by
  have hnone : (s.windowEnded p t).mem.due.get [] (p / 64) = [] := by rw [due_windowEnded, hdue]
  unfold closeWindow1
  dsimp only
  split
  · next x l hcons => exact absurd (hnone.symm.trans hcons) (by simp)
  · rfl

theorem closeWindow1_of_cons {s : State} {p t : Nat} {x : Nat × RetrainCause} {l : List (Nat × RetrainCause)}
    (hdue : s.mem.due.get [] (p / 64) = x :: l) (hbusy : (s.windowEnded p t).stackBusy (p / 64) = false) :
    s.closeWindow1 p t = (s.windowEnded p t).openWindow x.1 x.2 t := by
  have hcons : (s.windowEnded p t).mem.due.get [] (p / 64) = x :: l := by rw [due_windowEnded, hdue]
  unfold closeWindow1
  dsimp only
  split
  · next y _ hfirst =>
    obtain ⟨rfl, -⟩ := List.cons.inj (hcons.symm.trans hfirst)
    exact if_neg (c := (s.windowEnded p t).stackBusy (p / 64) = true) (by simp [hbusy])
  · next hnil => exact absurd (hcons.symm.trans hnil) (by simp)

/-! ### Migrations and failed pseudo-channels (R300, R301) -/

/-- The migration of `p` to the spare at position `t` of the stack begins. -/
def migrationBegun (s : State) (h p t : Nat) : State :=
  let s := s.putPchan p { s.pchan p with selected := false }
  { s with mem.migration := s.mem.migration.put h { source := p, target := 64 * h + t } }

theorem startMigration_of_spare {s : State} {h p reason t : Nat} {l : List Nat} (hnone : s.mem.migration.find? h = none)
    (hnext : s.migrateNext h = some (p, reason)) (hspare : s.openSpares h = t :: l) : s.startMigration h =
      (s.migrationBegun h p t).caskPost 0x0403 (source 3 p)
        (leBytes 128 (packFields [(16, p), (16, 64 * h + t), (8, reason)])) := by
  simp only [startMigration, hnone, hnext, hspare]
  rfl

/-- A migration begins, with a record of it, or nothing changes. -/
theorem startMigration_cases (s : State) (h : Nat) : s.startMigration h = s ∨
    ∃ p t payload, s.startMigration h = (s.migrationBegun h p t).caskPost 0x0403 (source 3 p) payload := by
  unfold startMigration
  split
  · exact .inr ⟨_, _, _, rfl⟩
  · exact .inl rfl

theorem startMigration_frame (s : State) (h : Nat) : s.startMigration h =
    { s with mgmt := (s.startMigration h).mgmt, cask := (s.startMigration h).cask,
             mem := { s.mem with pchan := (s.startMigration h).mem.pchan, migration := (s.startMigration h).mem.migration } } := by
  rcases s.startMigration_cases h with hsame | ⟨p, t, payload, hbegun⟩
  · rw [hsame]
  · have hcask : (s.migrationBegun h p t).caskPost 0x0403 (source 3 p) payload = _ := caskOnly_caskPost _ _ _ _ _
    rw [hbegun, hcask]
    rfl

theorem obj_startMigration (s : State) (h : Nat) {o : Nat} (i : Nat) (ho : 0x00105 ≤ o) :
    (s.startMigration h).obj o i = s.obj o i := by
  rcases s.startMigration_cases h with hsame | ⟨p, t, payload, hbegun⟩
  · rw [hsame]
  · rw [hbegun, obj_caskPost _ _ _ _ _ _ ho]
    rfl

theorem pchan_startMigration (s : State) (h k : Nat) : ∃ b, (s.startMigration h).pchan k = { s.pchan k with selected := b } := by
  rcases s.startMigration_cases h with hsame | ⟨p, t, payload, hbegun⟩
  · exact ⟨_, by rw [hsame]⟩
  · have hpchan : (s.startMigration h).pchan k = (s.migrationBegun h p t).pchan k := by
      rw [hbegun, pchan, caskPost_mem]
      rfl
    rw [hpchan]
    by_cases hk : k = p
    · exact ⟨false, hk ▸ s.pchan_putPchan_self p _⟩
    · exact ⟨_, s.pchan_putPchan_ne _ hk⟩

theorem held_startMigration (s : State) (h k : Nat) : ((s.startMigration h).pchan k).held = (s.pchan k).held := by
  obtain ⟨b, hpchan⟩ := s.pchan_startMigration h k
  rw [hpchan]

theorem health_startMigration (s : State) (h : Nat) : (s.startMigration h).health = s.health :=
  (congrArg State.health (s.startMigration_frame h) :)

theorem hbm_startMigration (s : State) (h : Nat) : (s.startMigration h).mem.hbm = s.mem.hbm :=
  (congrArg (fun u : State => u.mem.hbm) (s.startMigration_frame h) :)

theorem arbOf_startMigration (s : State) (h : Nat) (c : ArbClass) (i : Nat) : (s.startMigration h).arbOf c i = s.arbOf c i :=
  (congrArg (fun u : State => u.arbOf c i) (s.startMigration_frame h) :)

/-- R469: the failed pseudo-channel is listed in the repair list. -/
def failNoted (s : State) (p : Nat) : State :=
  (s.putPchan p { s.pchan p with failed := true }).keepRepair { s.health.repair with channels := insertNat p s.health.repair.channels }

theorem failPchan_of_failed {s : State} {p : Nat} (h : (s.pchan p).failed = true) : s.failPchan p = s := if_pos h

/-- R301: behind the note of its failure, the pseudo-channel has no spare, or a migration of its stack may begin. -/
theorem failPchan_cases {s : State} {p : Nat} (h : (s.pchan p).failed = false) :
    s.failPchan p = s.failNoted p ∨
    s.failPchan p = ((s.failNoted p).putPchan p { (s.failNoted p).pchan p with noSpare := true }).caskPost 0x0405 (source 3 p)
      (leBytes 128 p) ∨
    s.failPchan p = (s.failNoted p).startMigration (p / 64) := by
  unfold failPchan
  rw [if_neg (by simp [h])]
  dsimp only
  split
  · exact .inl rfl
  · split
    · exact .inr (.inl rfl)
    · exact .inr (.inr rfl)

theorem pchan_failNoted_self (s : State) (p : Nat) : (s.failNoted p).pchan p = { s.pchan p with failed := true } :=
  s.pchan_putPchan_self p _

/-- A pseudo-channel that fails is failed, keeps its window and its transfers, and is listed. -/
theorem failPchan_self (s : State) (p : Nat) :
    (∃ n b, (s.failPchan p).pchan p = { s.pchan p with failed := true, noSpare := n, selected := b }) ∧
    ((s.pchan p).failed = false → p ∈ (s.failPchan p).health.repair.channels) := by
  cases hfailed : (s.pchan p).failed with
  | true =>
    rw [failPchan_of_failed hfailed]
    exact ⟨⟨_, _, by rw [← hfailed]⟩, fun h => absurd h (by simp)⟩
  | false =>
    have hlisted : p ∈ (s.failNoted p).health.repair.channels := mem_insertNat p _
    rcases failPchan_cases hfailed with h | h | h
    · rw [h]
      exact ⟨⟨_, _, s.pchan_failNoted_self p⟩, fun _ => hlisted⟩
    · have hcask : ((s.failNoted p).putPchan p { (s.failNoted p).pchan p with noSpare := true }).caskPost 0x0405 (source 3 p)
        (leBytes 128 p) = _ := caskOnly_caskPost _ _ _ _ _
      rw [h, hcask]
      refine ⟨⟨true, (s.pchan p).selected, ((s.failNoted p).pchan_putPchan_self p _).trans ?_⟩, fun _ => hlisted⟩
      rw [pchan_failNoted_self]
    · rw [h]
      obtain ⟨b, hpchan⟩ := (s.failNoted p).pchan_startMigration (p / 64) p
      refine ⟨⟨(s.pchan p).noSpare, b, hpchan.trans (by rw [pchan_failNoted_self])⟩, fun _ => ?_⟩
      rw [startMigration_frame]
      exact hlisted

/-! ### Retries of a transfer (R293) -/

section Retry

variable {s : State} {p : Fin 1024} {req : HbmTransfer} (cycle : Nat)

theorem exec_hbmParityRetry_first {passes : Bool} (hreq : req.req < requesters .hbmQueue)
    (hfresh : (s.pchan p.val).escalated.contains (transferKey req) = false) : exec (.hbmParityRetry p req passes cycle) s = .next (
      let x := s.pchan p.val
      let s := s.bump 0x40100 p.val
      let n := x.retries.get 0 (transferKey req)
      if passes then s.putPchan p.val { x with retries := x.retries.erase (transferKey req) }
      else if n < 3 then s.putPchan p.val { x with retries := x.retries.set 0 (transferKey req) (n + 1) }
      else s.escalate p.val req cycle) := by
  simp only [exec, execHbmParityRetry, hfresh, if_neg (Nat.not_le.2 hreq), Bool.false_eq_true, if_false]
  split
  · rfl
  · split <;> rfl

/-- The transfer that has escalated is tried again behind its window. -/
theorem exec_hbmParityRetry_last {passes : Bool} (hreq : req.req < requesters .hbmQueue) (hwindow : (s.pchan p.val).window = none)
    (hescalated : (s.pchan p.val).escalated.contains (transferKey req) = true) :
    exec (.hbmParityRetry p req passes cycle) s = .next (
      let s := s.putPchan p.val { s.pchan p.val with escalated := eraseNat (transferKey req) (s.pchan p.val).escalated,
                                                     retries := (s.pchan p.val).retries.erase (transferKey req) }
      if passes then s else s.failPchan p.val) := by
  simp only [exec, execHbmParityRetry, hescalated, hwindow, if_neg (Nat.not_le.2 hreq), Option.isSome_none, Bool.false_eq_true,
    if_false, if_true]

end Retry

/-- The transfer that escalates is in the hold queue, and counted in 40.101. -/
def escalation (s : State) (p : Nat) (r : HbmTransfer) (t : Nat) : State :=
  (s.putPchan p { s.pchan p with
    retries := (s.pchan p).retries.erase (transferKey r), escalated := insertNat (transferKey r) (s.pchan p).escalated,
    held := (s.pchan p).held ++ [⟨r.req, t, 16, r.number⟩] }).bump 0x40101 p

theorem escalate_eq (s : State) (p : Nat) (r : HbmTransfer) (t : Nat) : s.escalate p r t =
    if (s.pchan p).window.isSome then s.escalation p r t else (s.escalation p r t).openWindow p .escalation t := rfl

theorem pchan_escalation_self (s : State) (p : Nat) (r : HbmTransfer) (t : Nat) : (s.escalation p r t).pchan p =
    { s.pchan p with
      retries := (s.pchan p).retries.erase (transferKey r), escalated := insertNat (transferKey r) (s.pchan p).escalated,
      held := (s.pchan p).held ++ [⟨r.req, t, 16, r.number⟩] } :=
  s.pchan_putPchan_self p _

section Escalate

variable (s : State) {p : Nat} (r : HbmTransfer) (t : Nat)

theorem pchan_escalate_self : (s.escalate p r t).pchan p =
    { s.pchan p with
      retries := (s.pchan p).retries.erase (transferKey r), escalated := insertNat (transferKey r) (s.pchan p).escalated,
      held := (s.pchan p).held ++ [⟨r.req, t, 16, r.number⟩], window := some ((s.pchan p).window.getD .escalation) } := by
  rw [escalate_eq]
  cases hwindow : (s.pchan p).window with
  | none =>
    rw [if_neg (by simp), pchan_openWindow_self, pchan_escalation_self]
    rfl
  | some cause => rw [if_pos Option.isSome_some, pchan_escalation_self, Option.getD_some, ← hwindow]

theorem pchan_escalate_ne {k : Nat} (h : k ≠ p) : (s.escalate p r t).pchan k = s.pchan k := by
  have hsame : (s.escalation p r t).pchan k = s.pchan k := s.pchan_putPchan_ne _ h
  rw [escalate_eq]
  split
  · exact hsame
  · rw [pchan_openWindow_ne _ _ _ _ h, hsame]

/-- An object below 40.102 is as it was, but for 40.101. -/
theorem obj_escalate {o i : Nat} (ho : 0x00105 ≤ o) (hlow : okey o i < okey 0x40102 0) :
    (s.escalate p r t).obj o i = (s.escalation p r t).obj o i := by
  rw [escalate_eq]
  split
  · rfl
  · exact obj_openWindow _ _ _ _ ⟨ho, .inl hlow⟩ (by unfold okey at *; omega)

theorem closed_escalate (hwindow : (s.pchan p).window = none) : ((s.escalate p r t).arbOf .hbmQueue p).closed = true := by
  rw [escalate_eq, if_neg (by simp [hwindow])]
  exact closed_openWindow _ _ _ _

end Escalate

/-! ### Windows that fall due, end or time out (R297 to R299) -/

theorem stackBusy_eq_false_iff (s : State) (h : Nat) :
    s.stackBusy h = false ↔ ∀ i, i < 64 → (s.pchan (64 * h + i)).window = none := by
  simp [State.stackBusy]

section Due

variable {s : State} {p : Fin 1024} {cause : RetrainCause} (cycle : Nat)

theorem exec_retrainWindowOpen_opens (hdue : s.windowDue p.val cause = true) (hwindow : (s.pchan p.val).window = none)
    (hfree : s.stackBusy (p.val / 64) = false) :
    exec (.retrainWindowOpen p cause cycle) s = .next (s.openWindow p.val cause cycle) := by
  simp [exec, execRetrainWindowOpen, hdue, hwindow, hfree]

theorem exec_retrainWindowOpen_waits (hdue : s.windowDue p.val cause = true) (hwindow : (s.pchan p.val).window = none)
    (hbusy : s.stackBusy (p.val / 64) = true) (hnew : ∀ x ∈ s.mem.due.get [] (p.val / 64), x.1 ≠ p.val) :
    exec (.retrainWindowOpen p cause cycle) s = .next { s with
      mem.due := s.mem.due.set [] (p.val / 64) (s.mem.due.get [] (p.val / 64) ++ [(p.val, cause)]) } := by
  have hany : (s.mem.due.get [] (p.val / 64)).any (fun x => x.1 == p.val) = false := by simpa using hnew
  simp only [exec, execRetrainWindowOpen, hdue, hwindow, hbusy, hany]
  rfl

theorem exec_retrainWindowOpen_early (hdue : s.windowDue p.val cause = false) :
    exec (.retrainWindowOpen p cause cycle) s = .next s := by
  simp [exec, execRetrainWindowOpen, hdue]

/-- The pseudo-channel is trained at this time and temperature. -/
def trainedNow (s : State) (p : Nat) (mC : Int) : State := s.putPchan p { s.pchan p with trained := some (s.now, mC) }

theorem switching_trainedNow (s : State) (p : Nat) (mC : Int) (q : Nat) : (s.trainedNow p mC).switching q = s.switching q := rfl

theorem exec_retrainWindowEnd (mC : Int) (hwindow : (s.pchan p.val).window ≠ none) :
    exec (.retrainWindowEnd p mC cycle) s = .next ((s.trainedNow p.val mC).closeWindow1 p.val cycle) :=
  if_pos (Option.isSome_iff_ne_none.2 hwindow)

theorem exec_retrainTimeout (hwindow : (s.pchan p.val).window ≠ none) :
    exec (.retrainTimeout p cycle) s = .next ((s.closeWindow1 p.val cycle).failPchan p.val) :=
  congrArg Host.Outcome.next (if_pos (Option.isSome_iff_ne_none.2 hwindow))

end Due

/-- R298: behind a window that ends with its queue at rest, the held requests enter the queue. -/
theorem instOnly_releaseHeld {s : State} {p q t : Nat}
    (hrest : (s.arbOf .hbmQueue q).upTo s.arb .hbmQueue (dieOf .hbmQueue q) t = s.arbOf .hbmQueue q)
    (hended : (s.arbOf .hbmQueue q).ended = []) :
    (s.releaseHeld p q t).instOnly (s.putPchan p { s.pchan p with held := [] }) (instKey .hbmQueue q)
      ((s.pchan p).held.foldl Arb.enqueue
        { s.arbOf .hbmQueue q with closed := false, idleFrom := max (s.arbOf .hbmQueue q).idleFrom t }) := by
  unfold State.releaseHeld
  exact instOnly_onPchan (s := s.putPchan p { s.pchan p with held := [] }) _ hrest hended

/-! ### Patrol scrub (R295) -/

/-- The read of the scrub is counted in its pass, and an error of it where it belongs. -/
def scrubNoted (s : State) (p offset c : Nat) (result : EccResult) (last : Bool) : State :=
  let x := s.pchan p
  let s := s.putPchan p { x with scrubErrors := if last then 0 else x.scrubErrors + (if result = .corrected then 1 else 0) }
  match result with
  | .clean => s
  | .corrected => s.bump 0x40102 p
  | .uncorrectable => s.hbmUe (s.channelAddr (p / 64) c (offset / 256 * 256 % pchanBytes)) 4

/-- A pseudo-channel whose errors exceed the limit is selected, and its migration may begin. -/
def selectIf (s : State) (p : Nat) (x : Pchan) (n : Nat) : State :=
  if s.obj 0x40041 0 < n ∧ !x.failed ∧ !x.selected ∧ !(s.mem.migration.find? (p / 64)).any (fun m => m.source == p) ∧
      !(s.openSpares (p / 64)).isEmpty then
    (s.putPchan p { s.pchan p with selected := true }).startMigration (p / 64)
  else s

theorem exec_patrolScrubRead {s : State} {p : Fin 1024} {c : Nat} (offset : Nat) (result : EccResult) (last : Bool)
    (hmap : s.mappedTo p.val = some c) : exec (.patrolScrubRead p offset result last) s =
      .next ((s.scrubNoted p.val offset c result last).selectIf p.val (s.pchan p.val)
        ((s.pchan p.val).scrubErrors + (if result = .corrected then 1 else 0))) := by
  simp only [exec, execPatrolScrubRead, hmap]
  cases result <;> exact (apply_ite Host.Outcome.next _ _ _).symm

section Select

variable (s : State) (p : Nat) (x : Pchan) (n : Nat)

theorem selectIf_frame : s.selectIf p x n =
    { s with mgmt := (s.selectIf p x n).mgmt, cask := (s.selectIf p x n).cask,
             mem := { s.mem with pchan := (s.selectIf p x n).mem.pchan, migration := (s.selectIf p x n).mem.migration } } := by
  unfold selectIf
  split
  · rw [startMigration_frame]
    rfl
  · rfl

theorem poison_selectIf : (s.selectIf p x n).mem.poison = s.mem.poison :=
  (congrArg (fun u : State => u.mem.poison) (s.selectIf_frame p x n) :)

theorem hbm_selectIf : (s.selectIf p x n).mem.hbm = s.mem.hbm := (congrArg (fun u : State => u.mem.hbm) (s.selectIf_frame p x n) :)

theorem obj_selectIf {o : Nat} (i : Nat) (ho : 0x00105 ≤ o) : (s.selectIf p x n).obj o i = s.obj o i := by
  unfold selectIf
  split
  · exact obj_startMigration _ _ i ho
  · rfl

theorem scrubErrors_selectIf : ((s.selectIf p x n).pchan p).scrubErrors = (s.pchan p).scrubErrors := by
  unfold selectIf
  split
  · obtain ⟨b, hb⟩ := (s.putPchan p { s.pchan p with selected := true }).pchan_startMigration (p / 64) p
    rw [hb, pchan_putPchan_self]
  · rfl

theorem selectIf_of_le {s : State} {p : Nat} {x : Pchan} {n : Nat} (h : n ≤ s.obj 0x40041 0) : s.selectIf p x n = s :=
  if_neg fun hall => absurd hall.1 (Nat.not_lt.2 h)

end Select

theorem find?_eq_some_of_only {α : Type} {f : α → Bool} {l : List α} {a : α} (ha : a ∈ l) (hf : f a = true)
    (honly : ∀ b ∈ l, f b = true → b = a) : l.find? f = some a := by
  obtain ⟨b, hb⟩ := Option.isSome_iff_exists.1 (List.find?_isSome.2 ⟨a, ha, hf⟩)
  rw [hb, honly b (List.mem_of_find?_eq_some hb) (List.find?_some hb)]

/-- Of a stack without failed pseudo-channels, the one that R295 has selected is the next to migrate. -/
theorem migrateNext_of_selected {s : State} {p c : Nat} (hmap : s.mappedTo p = some c)
    (hfailed : ∀ i, i < 64 → (s.pchan (64 * (p / 64) + i)).failed = false) (hselected : (s.pchan p).selected = true)
    (honly : ∀ i, i < 64 → 64 * (p / 64) + i ≠ p → (s.pchan (64 * (p / 64) + i)).selected = false) :
    s.migrateNext (p / 64) = some (p, 1) := by
  have hnofail : ((List.range 64).map (64 * (p / 64) + ·)).find?
      (fun p => (s.pchan p).failed && (s.mappedTo p).isSome && !(s.pchan p).noSpare) = none := by
    simp only [List.find?_eq_none, List.mem_map, List.mem_range]
    rintro q ⟨i, hi, rfl⟩
    simp [hfailed i hi]
  have hmem : p ∈ (List.range 64).map (64 * (p / 64) + ·) :=
    List.mem_map.2 ⟨p % 64, List.mem_range.2 (Nat.mod_lt _ (by decide)), Nat.div_add_mod p 64⟩
  have hfound : ((List.range 64).map (64 * (p / 64) + ·)).find?
      (fun p => (s.pchan p).selected && (s.mappedTo p).isSome) = some p := by
    refine find?_eq_some_of_only hmem (by simp [hselected, hmap]) fun q hq hsel => ?_
    obtain ⟨i, hi, rfl⟩ := List.mem_map.1 hq
    by_contra heq
    simp [honly i (List.mem_range.1 hi) heq] at hsel
  simp only [migrateNext, hnofail, hfound, Option.map_some]

/-! ### The copy of a migration (R300) -/

/-- A migration behind the copy of its next sector. -/
def copyNext (m : Migration) (ecc : EccResult) : Migration :=
  { m with copied := m.copied + 256, poisoned := m.poisoned + (if ecc = .uncorrectable then 1 else 0),
           switching := decide (pchanBytes ≤ m.copied + 256) }

/-- The state behind that copy, but for the count of an error. -/
def sectorCopied (s : State) (h : Nat) (m : Migration) (ecc : EccResult) : State :=
  { s with mem.migration := s.mem.migration.put h (copyNext m ecc) }

section Copy

variable {s : State} {h : Fin 16} {m : Migration} (hfind : s.mem.migration.find? h.val = some m) (hmore : m.copied < pchanBytes)
include hfind hmore

theorem exec_migrationSectorCopy_clean : exec (.migrationSectorCopy h .clean) s = .next (s.sectorCopied h.val m .clean) := by
  simp only [exec, execMigrationSectorCopy, hfind, if_neg (Nat.not_le.2 hmore)]
  rfl

theorem exec_migrationSectorCopy_corrected :
    exec (.migrationSectorCopy h .corrected) s = .next ((s.sectorCopied h.val m .corrected).bump 0x40102 m.source) := by
  simp only [exec, execMigrationSectorCopy, hfind, if_neg (Nat.not_le.2 hmore)]
  rfl

/-- R292: a sector that reads uncorrectable keeps its mark in the spare, where its pseudo-channel is in the map. -/
theorem exec_migrationSectorCopy_uncorrectable : exec (.migrationSectorCopy h .uncorrectable) s =
    .next ((s.mappedTo m.source).elim (s.sectorCopied h.val m .uncorrectable) fun c =>
      (s.sectorCopied h.val m .uncorrectable).hbmUe (s.channelAddr h.val c m.copied) 4) := by
  simp only [exec, execMigrationSectorCopy, hfind, if_neg (Nat.not_le.2 hmore)]
  change (match EccResult.uncorrectable, s.mappedTo m.source with
    | .uncorrectable, some c => _
    | .corrected, _ => _
    | _, _ => _) = _
  cases s.mappedTo m.source <;> rfl

end Copy

theorem find?_sectorCopied (s : State) (h : Nat) (m : Migration) (ecc : EccResult) :
    (s.sectorCopied h m ecc).mem.migration.find? h = some (copyNext m ecc) :=
  Bank.find?_put_self _ _ _

/-! ### The switch of the channel map (R300, R469) -/

/-- Source and target of a migration brought to a cycle. -/
def bothAt (s : State) (m : Migration) (t : Nat) : State := (s.onPchan m.source t id).onPchan m.target t id

theorem sectorOnly_bothAt (s : State) (m : Migration) (t : Nat) : (s.bothAt m t).sectorOnly s :=
  (sectorOnly_onPchan _ _ _ _).trans (s.sectorOnly_onPchan _ _ _)

/-- The map of the stack changes in one step, is counted, and kept in the repair list; the migration is over. -/
def mapNoted (s : State) (h map : Nat) : State :=
  let s := { (s.setObj 0x40020 h map).setObj 0x40061 0 ((s.obj 0x40061 0 + 1) % 2 ^ 32) with
             mem.migration := s.mem.migration.erase h }
  s.keepRepair { s.health.repair with maps := s.health.repair.maps.put h map }

/-- The switch of the map, with its record. -/
def mapSwitched (s : State) (h : Nat) (m : Migration) (map : Nat) : State :=
  (s.mapNoted h map).caskPost 0x0404 (source 3 m.source)
    (leBytes 128 (packFields [(16, m.source), (16, m.target), (32, m.poisoned)]))

theorem mapNoted_frame (s : State) (h map : Nat) : s.mapNoted h map =
    { s with mgmt := (s.mapNoted h map).mgmt, health.repair.maps := s.health.repair.maps.put h map,
             mem.migration := s.mem.migration.erase h } := by
  unfold mapNoted
  rw [keepRepair_frame]
  rfl

theorem mapSwitched_frame (s : State) (h : Nat) (m : Migration) (map : Nat) : s.mapSwitched h m map =
    { s with mgmt := (s.mapSwitched h m map).mgmt, cask := (s.mapSwitched h m map).cask,
             health.repair.maps := s.health.repair.maps.put h map, mem.migration := s.mem.migration.erase h } := by
  have hcask : s.mapSwitched h m map = _ := caskOnly_caskPost _ _ _ _ _
  rw [mapNoted_frame] at hcask
  exact hcask

theorem obj_mapSwitched_map (s : State) {h : Nat} (m : Migration) (map : Nat) (hh : h < 16) :
    (s.mapSwitched h m map).obj 0x40020 h = map := by
  refine (obj_caskPost _ _ _ _ _ _ (by decide)).trans ?_
  exact ((s.setObj 0x40020 h map).obj_setObj_ne 0x40061 0 _ 0x40020 h (by unfold okey; omega)).trans (s.obj_setObj_self _ _ _)

theorem obj_mapSwitched_count (s : State) (h : Nat) (m : Migration) (map : Nat) :
    (s.mapSwitched h m map).obj 0x40061 0 = (s.obj 0x40061 0 + 1) % 2 ^ 32 :=
  (obj_caskPost _ _ _ _ _ _ (by decide)).trans ((s.setObj 0x40020 h map).obj_setObj_self 0x40061 0 _)

/-- What the switch of a map leaves, but for the migration that may follow. -/
def switched (s : State) (h : Nat) (m : Migration) (map cycle : Nat) : State :=
  ((s.mapSwitched h m map).repoint m.source m.target).releaseHeld m.source m.target cycle

section Switch

variable {s : State} {h : Fin 16} {m : Migration} {cycle : Nat} (hfind : s.mem.migration.find? h.val = some m)
include hfind

theorem exec_migrationSwitch_done {c : Nat} (hmap : s.mappedTo m.source = some c) (hswitching : m.switching = true)
    (hsource : (s.bothAt m cycle).drained m.source = true) (htarget : (s.bothAt m cycle).drained m.target = true) :
    exec (.migrationSwitch h cycle) s = .next (((s.bothAt m cycle).switched h.val m
      (switchMap ((s.bothAt m cycle).obj 0x40020 h.val) c (m.target % 64)) cycle).startMigration h.val) := by
  unfold bothAt at *
  rw [exec, execMigrationSwitch]
  split
  · next hnone => exact absurd (hfind.symm.trans hnone) (by simp)
  · next m' hm =>
    obtain rfl := Option.some.inj (hfind.symm.trans hm)
    split
    · next hnone => exact absurd (hmap.symm.trans hnone) (by simp)
    · next c' hc =>
      obtain rfl := Option.some.inj (hmap.symm.trans hc)
      exact if_neg (by simp [hswitching, hsource, htarget])

theorem exec_migrationSwitch_waits (hwait : m.switching = false ∨ (s.bothAt m cycle).drained m.source = false ∨
    (s.bothAt m cycle).drained m.target = false) :
    ∃ t, exec (.migrationSwitch h cycle) s = .next t ∧ t.sectorOnly s := by
  cases hmap : s.mappedTo m.source with
  | none => exact ⟨s, by simp only [exec, execMigrationSwitch, hfind, hmap], .refl s⟩
  | some c =>
    refine ⟨s.bothAt m cycle, ?_, s.sectorOnly_bothAt m cycle⟩
    simp only [exec, execMigrationSwitch, hfind, hmap]
    refine if_pos ?_
    unfold bothAt at hwait
    rcases hwait with h | h | h <;> simp [h]

end Switch

/-- A queue at rest is as it was when it has been brought to a cycle. -/
theorem arbOf_onPchan_rest {s : State} {p t : Nat} (hrest : (s.arbOf .hbmQueue p).upTo s.arb .hbmQueue (dieOf .hbmQueue p) t =
    s.arbOf .hbmQueue p) (hended : (s.arbOf .hbmQueue p).ended = []) (q : Nat) :
    (s.onPchan p t id).arbOf .hbmQueue q = s.arbOf .hbmQueue q := by
  have honly := instOnly_onPchan id hrest hended
  by_cases hq : instKey .hbmQueue q = instKey .hbmQueue p
  · exact (congrArg ((s.onPchan p t id).arb.insts.get {}) hq).trans (honly.self.trans (congrArg (s.arb.insts.get {}) hq).symm)
  · exact honly.other _ hq

/-! ### The scrub and the switch as commands -/

section AtRest

variable {s : State} {p t : Nat} (hswitching : s.switching p = false) (hclosed : (s.arbOf .hbmQueue p).closed = true)
  (hrunning : (s.arbOf .hbmQueue p).running = none) (hemergency : (s.arbOf .hbmQueue p).emergency = false)
  (hended : (s.arbOf .hbmQueue p).ended = [])
include hswitching hclosed hrunning hemergency hended

/-- R298: behind a window whose queue is at rest, the held requests enter the queue, and only that. -/
theorem windowEnded_atRest : (s.windowEnded p t).pchan p = { s.pchan p with held := [], window := none } ∧
    (s.windowEnded p t).arbOf .hbmQueue p = (s.pchan p).held.foldl Arb.enqueue
      { s.arbOf .hbmQueue p with closed := false, idleFrom := max (s.arbOf .hbmQueue p).idleFrom (t - 1) } ∧
    s.windowEnded p t = { s with mem.pchan := (s.windowEnded p t).mem.pchan, arb.insts := (s.windowEnded p t).arb.insts } := by
  have hrest : (s.arbOf .hbmQueue p).upTo s.arb .hbmQueue (dieOf .hbmQueue p) (t - 1) = s.arbOf .hbmQueue p := by
    refine Arb.upTo_eq_self fun e he => ?_
    rw [Arb.nextEvent_closed .hbmQueue hemergency hrunning hclosed] at he
    exact absurd he (by simp)
  have honly := instOnly_releaseHeld (s := s.putPchan p { s.pchan p with window := none }) (p := p) (q := p) (t := t - 1) hrest hended
  have hend : s.windowEnded p t = (s.putPchan p { s.pchan p with window := none }).releaseHeld p p (t - 1) :=
    if_neg (c := s.switching p = true) (by simp [hswitching])
  rw [pchan_putPchan_self] at honly
  rw [hend]
  refine ⟨?_, honly.self, ?_⟩
  · rw [pchan_releaseHeld_self, pchan_putPchan_self]
  · rw [honly.frame]
    rfl

end AtRest

/-- R295: of a stack that has lost nothing, the pseudo-channel whose errors pass the limit moves to the first free spare. -/
theorem migration_selectIf {s : State} {p c n x : Nat} {l : List Nat} {y : Pchan} (hmapped : s.mappedTo p = some c)
    (hlimit : s.obj 0x40041 0 < n) (hnone : s.mem.migration.find? (p / 64) = none) (hfailed : y.failed = false)
    (hselected : y.selected = false) (hquiet : ∀ i, i < 64 →
      (s.pchan (64 * (p / 64) + i)).failed = false ∧ (s.pchan (64 * (p / 64) + i)).selected = false)
    (hspare : s.freeSpares (p / 64) = x :: l) :
    (s.selectIf p y n).mem.migration.find? (p / 64) = some { source := p, target := 64 * (p / 64) + x } := by
  have hopen : s.openSpares (p / 64) = x :: l := by simp [State.openSpares, hnone, hspare]
  have hself := s.pchan_putPchan_self p { s.pchan p with selected := true }
  have hmine := hquiet (p % 64) (Nat.mod_lt _ (by decide))
  rw [Nat.div_add_mod] at hmine
  have hnext : (s.putPchan p { s.pchan p with selected := true }).migrateNext (p / 64) = some (p, 1) := by
    refine migrateNext_of_selected (c := c) hmapped (fun i hi => ?_) (by rw [hself]) fun i hi hne => ?_
    · by_cases hi' : 64 * (p / 64) + i = p
      · rw [hi', hself]
        exact hmine.1
      · rw [pchan_putPchan_ne _ _ hi']
        exact (hquiet i hi).1
    · rw [pchan_putPchan_ne _ _ hne]
      exact (hquiet i hi).2
  rw [selectIf, if_pos ⟨hlimit, by simp [hfailed], by simp [hselected], by simp [hnone], by simp [hopen]⟩,
    startMigration_of_spare (s := s.putPchan p { s.pchan p with selected := true }) hnone hnext hopen, caskPost_mem]
  exact Bank.find?_put_self _ _ _

section Scrub

variable {s : State} {p : Nat} (offset c : Nat) (last : Bool)

/-- A corrected error counts in 40.102, which is none of the objects that the map and the limit are. -/
theorem obj_scrubNoted_corrected {o i : Nat} (hlow : okey o i < okey 0x40102 0) :
    (s.scrubNoted p offset c .corrected last).obj o i = s.obj o i :=
  obj_bump_ne _ _ _ _ _ (by unfold okey at *; omega)

theorem pchan_scrubNoted_corrected : (s.scrubNoted p offset c .corrected last).pchan p =
    { s.pchan p with scrubErrors := if last then 0 else (s.pchan p).scrubErrors + 1 } :=
  s.pchan_putPchan_self p _

theorem pchan_scrubNoted_corrected_ne {k : Nat} (h : k ≠ p) : (s.scrubNoted p offset c .corrected last).pchan k = s.pchan k :=
  s.pchan_putPchan_ne _ h

theorem mem_scrubNoted_uncorrectable : (s.scrubNoted p offset c .uncorrectable last).mem =
    { s.mem with
      pchan := (s.putPchan p { s.pchan p with scrubErrors := if last then 0 else (s.pchan p).scrubErrors }).mem.pchan,
      poison := insertNat (s.channelAddr (p / 64) c (offset / 256 * 256 % pchanBytes) / 256) s.mem.poison } :=
  hbmUe_mem _ _ _

/-- R295, R301: the pass that a corrected error takes past the limit starts the migration of its pseudo-channel. -/
theorem migration_scrub {n x : Nat} {l : List Nat} (hp : p < 1024) (hmap : s.mappedTo p = some c) (hlimit : s.obj 0x40041 0 < n)
    (hnone : s.mem.migration.find? (p / 64) = none) (hquiet : ∀ i, i < 64 →
      (s.pchan (64 * (p / 64) + i)).failed = false ∧ (s.pchan (64 * (p / 64) + i)).selected = false)
    (hspare : s.freeSpares (p / 64) = x :: l) :
    ((s.scrubNoted p offset c .corrected last).selectIf p (s.pchan p) n).mem.migration.find? (p / 64) =
      some { source := p, target := 64 * (p / 64) + x } := by
  have hmapObj : (s.scrubNoted p offset c .corrected last).obj 0x40020 (p / 64) = s.obj 0x40020 (p / 64) :=
    obj_scrubNoted_corrected offset c last (by unfold okey; omega)
  have hmine := hquiet (p % 64) (Nat.mod_lt _ (by decide))
  rw [Nat.div_add_mod] at hmine
  refine migration_selectIf (c := c) (l := l) ?_ ?_ hnone hmine.1 hmine.2 (fun i hi => ?_) ?_
  · rw [State.mappedTo, hmapObj]
    exact hmap
  · rwa [obj_scrubNoted_corrected offset c last (by decide)]
  · by_cases hi' : 64 * (p / 64) + i = p
    · rw [hi', pchan_scrubNoted_corrected]
      exact hmine
    · rw [pchan_scrubNoted_corrected_ne offset c last hi']
      exact hquiet i hi
  · rw [State.freeSpares, hmapObj]
    exact hspare

end Scrub

section ScrubCommand

variable {s : State} {p : Fin 1024} {c : Nat} (offset : Nat) (last : Bool) (hmap : s.mappedTo p.val = some c)
include hmap

theorem patrolScrubRead_clean (hle : (s.pchan p.val).scrubErrors ≤ s.obj 0x40041 0) : exec (.patrolScrubRead p offset .clean last) s =
    .next (s.putPchan p.val { s.pchan p.val with scrubErrors := if last then 0 else (s.pchan p.val).scrubErrors }) := by
  rw [exec_patrolScrubRead offset .clean last hmap]
  exact congrArg Host.Outcome.next (selectIf_of_le hle)

theorem patrolScrubRead_corrected : ∃ t, exec (.patrolScrubRead p offset .corrected last) s = .next t ∧
    t.obj 0x40102 p.val = (s.obj 0x40102 p.val + 1) % 2 ^ 64 ∧
    (t.pchan p.val).scrubErrors = (if last then 0 else (s.pchan p.val).scrubErrors + 1) ∧
    ((s.pchan p.val).scrubErrors < s.obj 0x40041 0 → t.mem.migration = s.mem.migration) ∧
    (∀ x l, s.obj 0x40041 0 ≤ (s.pchan p.val).scrubErrors → s.mem.migration.find? (p.val / 64) = none →
      (∀ i, i < 64 → (s.pchan (64 * (p.val / 64) + i)).failed = false ∧ (s.pchan (64 * (p.val / 64) + i)).selected = false) →
      s.freeSpares (p.val / 64) = x :: l →
      t.mem.migration.find? (p.val / 64) = some { source := p.val, target := 64 * (p.val / 64) + x }) := by
  have hlimit : (s.scrubNoted p.val offset c .corrected last).obj 0x40041 0 = s.obj 0x40041 0 :=
    obj_scrubNoted_corrected offset c last (by decide)
  refine ⟨_, exec_patrolScrubRead offset .corrected last hmap, ?_, ?_, fun hbelow => ?_, fun x l hpast hnone hquiet hspare => ?_⟩
  · rw [obj_selectIf _ _ _ _ _ (by decide)]
    exact obj_bump_self _ _ _
  · rw [scrubErrors_selectIf, pchan_scrubNoted_corrected]
  · rw [selectIf_of_le (by rw [hlimit]; exact hbelow)]
    rfl
  · exact migration_scrub offset c last p.isLt hmap (Nat.lt_succ_of_le hpast) hnone hquiet hspare

theorem patrolScrubRead_uncorrectable : ∃ t, exec (.patrolScrubRead p offset .uncorrectable last) s = .next t ∧
    s.channelAddr (p.val / 64) c (offset / 256 * 256 % pchanBytes) / 256 ∈ t.mem.poison ∧ t.mem.hbm = s.mem.hbm := by
  have hmem := s.mem_scrubNoted_uncorrectable (p := p.val) offset c last
  refine ⟨_, exec_patrolScrubRead offset .uncorrectable last hmap, ?_, ?_⟩
  · rw [poison_selectIf, hmem]
    exact mem_insertNat _ _
  · rw [hbm_selectIf, hmem]

end ScrubCommand

section SwitchEffect

variable {s : State} {h : Nat} {m : Migration} {cycle : Nat}

/-- The queue of a pseudo-channel has nothing in flight. -/
structure AtRest (s : State) (p : Nat) : Prop where
  heads : (s.arbOf .hbmQueue p).heads = []
  queued : (s.arbOf .hbmQueue p).queued = []
  running : (s.arbOf .hbmQueue p).running = none
  emergency : (s.arbOf .hbmQueue p).emergency = false
  ended : (s.arbOf .hbmQueue p).ended = []

theorem AtRest.upTo {p : Nat} (hp : s.AtRest p) (a : Arbiters) (t : Nat) :
    (s.arbOf .hbmQueue p).upTo a .hbmQueue (dieOf .hbmQueue p) t = s.arbOf .hbmQueue p :=
  Arb.upTo_idle hp.emergency hp.running hp.heads

theorem AtRest.drained {p : Nat} (hp : s.AtRest p) : s.drained p = true := by
  simp [State.drained, hp.heads, hp.queued, hp.running]

theorem AtRest.congr {t : State} {p : Nat} (hp : s.AtRest p) (h : t.arbOf .hbmQueue p = s.arbOf .hbmQueue p) : t.AtRest p :=
  ⟨h ▸ hp.heads, h ▸ hp.queued, h ▸ hp.running, h ▸ hp.emergency, h ▸ hp.ended⟩

theorem AtRest.onPchan {p : Nat} (hp : s.AtRest p) (t q : Nat) : (s.onPchan p t id).arbOf .hbmQueue q = s.arbOf .hbmQueue q :=
  arbOf_onPchan_rest (hp.upTo _ _) hp.ended q

/-- Source and target of a migration that are at rest stand as they are. -/
theorem arbOf_bothAt (hsource : s.AtRest m.source) (htarget : s.AtRest m.target) (q : Nat) :
    (s.bothAt m cycle).arbOf .hbmQueue q = s.arbOf .hbmQueue q :=
  ((htarget.congr (hsource.onPchan cycle m.target)).onPchan cycle q).trans (hsource.onPchan cycle q)

theorem sectorOnly_switched (map : Nat) : (s.switched h m map cycle).sectorOnly
    (((s.mapSwitched h m map).repoint m.source m.target).putPchan m.source
      { ((s.mapSwitched h m map).repoint m.source m.target).pchan m.source with held := [] }) :=
  sectorOnly_releaseHeld _ _ _ _

theorem obj_switched_map (map : Nat) (hh : h < 16) : (s.switched h m map cycle).obj 0x40020 h = map :=
  ((sectorOnly_switched map).obj 0x40020 h ⟨by decide, .inl (by unfold okey; omega)⟩).trans (s.obj_mapSwitched_map m map hh)

theorem obj_switched_count (map : Nat) : (s.switched h m map cycle).obj 0x40061 0 = (s.obj 0x40061 0 + 1) % 2 ^ 32 :=
  ((sectorOnly_switched map).obj 0x40061 0 ⟨by decide, .inl (by decide)⟩).trans (s.obj_mapSwitched_count h m map)

theorem maps_switched (map : Nat) : Bank.find? (s.switched h m map cycle).health.repair.maps h = some map := by
  have hmaps : (s.mapSwitched h m map).health.repair.maps = s.health.repair.maps.put h map :=
    (congrArg (fun u : State => u.health.repair.maps) (s.mapSwitched_frame h m map) :)
  rw [(sectorOnly_switched map).health]
  exact (congrArg (Bank.find? · h) hmaps).trans (Bank.find?_put_self _ _ _)

theorem hbm_switched (map : Nat) : (s.switched h m map cycle).mem.hbm = s.mem.hbm :=
  (sectorOnly_switched map).hbm.trans (congrArg (fun u : State => u.mem.hbm) (s.mapSwitched_frame h m map) :)

theorem pchan_mapSwitched (map p : Nat) : (s.mapSwitched h m map).pchan p = s.pchan p :=
  (congrArg (fun u : State => u.pchan p) (s.mapSwitched_frame h m map) :)

theorem arbOf_mapSwitched (map p : Nat) : (s.mapSwitched h m map).arbOf .hbmQueue p = s.arbOf .hbmQueue p :=
  (congrArg (fun u : State => u.arbOf .hbmQueue p) (s.mapSwitched_frame h m map) :)

theorem held_switched (map : Nat) : ((s.switched h m map cycle).pchan m.source).held = [] :=
  congrArg Pchan.held (pchan_releaseHeld_self _ _ _ _)

/-- R300: the requests that the switch held go to the spare. -/
theorem arbOf_switched (htarget : s.AtRest m.target) (map : Nat) :
    (s.switched h m map cycle).arbOf .hbmQueue m.target = (s.pchan m.source).held.foldl Arb.enqueue
      { s.arbOf .hbmQueue m.target with closed := false, idleFrom := max (s.arbOf .hbmQueue m.target).idleFrom cycle } := by
  have harb : ((s.mapSwitched h m map).repoint m.source m.target).arbOf .hbmQueue m.target = s.arbOf .hbmQueue m.target :=
    s.arbOf_mapSwitched map m.target
  have hheld : ((s.mapSwitched h m map).repoint m.source m.target).pchan m.source = s.pchan m.source :=
    s.pchan_mapSwitched map m.source
  have hrest := htarget.congr harb
  refine (instOnly_releaseHeld (hrest.upTo _ _) hrest.ended).self.trans ?_
  rw [harb, hheld]

/-- R300: the switch of a migration whose source and target are at rest. -/
theorem migrationSwitch_atRest {h : Fin 16} {c : Nat} (hfind : s.mem.migration.find? h.val = some m)
    (hmap : s.mappedTo m.source = some c) (hswitching : m.switching = true) (hsource : s.AtRest m.source)
    (htarget : s.AtRest m.target) : ∃ t, exec (.migrationSwitch h cycle) s = .next t ∧
      t.obj 0x40020 h.val = switchMap (s.obj 0x40020 h.val) c (m.target % 64) ∧
      t.obj 0x40061 0 = (s.obj 0x40061 0 + 1) % 2 ^ 32 ∧
      Bank.find? t.health.repair.maps h.val = some (switchMap (s.obj 0x40020 h.val) c (m.target % 64)) ∧ t.mem.hbm = s.mem.hbm ∧
      (t.pchan m.source).held = [] ∧ t.arbOf .hbmQueue m.target = (s.pchan m.source).held.foldl Arb.enqueue
        { s.arbOf .hbmQueue m.target with closed := false, idleFrom := max (s.arbOf .hbmQueue m.target).idleFrom cycle } := by
  have hboth := arbOf_bothAt (cycle := cycle) hsource htarget
  have hsector := s.sectorOnly_bothAt m cycle
  have hobj : ∀ o i, uncounted o i → (s.bothAt m cycle).obj o i = s.obj o i := hsector.obj
  have htarget' := htarget.congr (hboth m.target)
  have hexec := exec_migrationSwitch_done (cycle := cycle) hfind hmap hswitching
    (hsource.congr (hboth m.source)).drained htarget'.drained
  rw [hobj 0x40020 h.val ⟨by decide, .inl (by unfold okey; have := h.isLt; omega)⟩] at hexec
  generalize hmapNew : switchMap (s.obj 0x40020 h.val) c (m.target % 64) = map at hexec ⊢
  have harb := arbOf_switched (h := h.val) (cycle := cycle) htarget' map
  rw [hboth, hsector.pchan] at harb
  refine ⟨_, hexec, ?_, ?_, ?_, ?_, ?_, ?_⟩
  · rw [obj_startMigration _ _ _ (by decide), obj_switched_map map h.isLt]
  · rw [obj_startMigration _ _ _ (by decide), obj_switched_count, hobj 0x40061 0 ⟨by decide, .inl (by decide)⟩]
  · rw [health_startMigration, maps_switched]
  · rw [hbm_startMigration, hbm_switched, hsector.hbm]
  · rw [held_startMigration, held_switched]
  · rw [arbOf_startMigration]
    exact harb

end SwitchEffect

end State

/-- Settles O36: `sectorOnly_onPchan` keeps what returning sectors change apart from the pseudo-channels; the rest is one effect per
operation. -/
theorem pseudoChannelsRetryAndMigrate : Obligations.PseudoChannelsRetryAndMigrate := by
  refine ⟨⟨?_, ?_, ?_, ?_, ?_, ?_, ?_, ?_⟩, ?_, ?_, ?_, ?_⟩
  · intro p req passes cycle s hreq hfresh
    have hexec := State.exec_hbmParityRetry_first (passes := passes) cycle hreq hfresh
    have hcount : ∀ x : Pchan, ((s.bump 0x40100 p.val).putPchan p.val x).obj 0x40100 p.val = (s.obj 0x40100 p.val + 1) % 2 ^ 64 :=
      fun _ => s.obj_bump_self _ _
    refine ⟨_, hexec, ?_⟩
    cases passes with
    | true =>
      exact ⟨hcount _, fun k hk => State.pchan_putPchan_ne _ _ hk, fun _ => ⟨State.pchan_putPchan_self _ _ _, rfl⟩,
        fun h => absurd h (by simp), fun h => absurd h (by simp)⟩
    | false =>
      dsimp only
      rw [if_neg (by simp)]
      split
      · next hlt =>
        exact ⟨hcount _, fun k hk => State.pchan_putPchan_ne _ _ hk, fun h => absurd h (by simp),
          fun _ _ => ⟨State.pchan_putPchan_self _ _ _, rfl⟩, fun _ h => absurd h (Nat.not_le.2 hlt)⟩
      · next hlt =>
        have hp := p.isLt
        refine ⟨?_, fun k hk => State.pchan_escalate_ne _ req cycle hk, fun h => absurd h (by simp), fun _ h => absurd h hlt,
          fun _ _ => ⟨?_, State.pchan_escalate_self _ req cycle, fun hwindow => State.closed_escalate _ req cycle hwindow⟩⟩
        · rw [State.obj_escalate _ _ _ (by decide) (by unfold okey; omega)]
          exact (State.obj_bump_ne _ _ _ _ _ (by unfold okey; omega)).trans (s.obj_bump_self _ _)
        · rw [State.obj_escalate _ _ _ (by decide) (by unfold okey; omega)]
          refine (State.obj_bump_self _ _ _).trans ?_
          exact congrArg (fun n => (n + 1) % 2 ^ 64) (s.obj_bump_ne 0x40100 p.val 0x40101 p.val (by unfold okey; omega))
  · intro p req cycle s hreq hwindow hescalated
    refine ⟨State.exec_hbmParityRetry_last cycle hreq hwindow hescalated, _,
      State.exec_hbmParityRetry_last cycle hreq hwindow hescalated, ?_⟩
    obtain ⟨⟨n, b, hself⟩, hlisted⟩ := (s.putPchan p.val { s.pchan p.val with
      escalated := eraseNat (transferKey req) (s.pchan p.val).escalated,
      retries := (s.pchan p.val).retries.erase (transferKey req) }).failPchan_self p.val
    rw [State.pchan_putPchan_self] at hself hlisted
    exact ⟨congrArg Pchan.failed hself, hlisted, congrArg Pchan.escalated hself⟩
  · intro p cause cycle s hdue hwindow
    refine ⟨fun hfree => ?_, fun hbusy hnew => ?_⟩
    · have hidle : s.stackBusy (p.val / 64) = false :=
        (s.stackBusy_eq_false_iff _).2 fun i hi => by simpa [Nat.mul_comm] using hfree i hi
      have hsector := s.sectorOnly_openWindow p.val cause cycle
      exact ⟨_, State.exec_retrainWindowOpen_opens cycle hdue hwindow hidle, s.pchan_openWindow_self _ _ _,
        s.closed_openWindow _ _ _, s.obj_openWindow_count _ _ _ p.isLt, fun k hk => s.pchan_openWindow_ne _ _ _ hk,
        hsector.hbm, hsector.groups⟩
    · obtain ⟨i, hi, hopen⟩ := hbusy
      have hbusy : s.stackBusy (p.val / 64) = true := by
        rw [← Bool.not_eq_false, State.stackBusy_eq_false_iff]
        exact fun h => hopen (by simpa [Nat.mul_comm] using h i hi)
      exact State.exec_retrainWindowOpen_waits cycle hdue hwindow hbusy hnew
  · intro p cause cycle s hdue
    exact State.exec_retrainWindowOpen_early cycle hdue
  · intro p mC cycle s hwindow hdue a hswitching hclosed hrunning hemergency hended
    have hmine : (s.trainedNow p.val mC).pchan p.val = { s.pchan p.val with trained := some (s.now, mC) } :=
      s.pchan_putPchan_self p.val _
    have harb : (s.trainedNow p.val mC).arbOf .hbmQueue p.val = a := rfl
    obtain ⟨hself, hqueue, hframe⟩ := State.windowEnded_atRest (s := s.trainedNow p.val mC) (p := p.val) (t := cycle)
      ((s.switching_trainedNow p.val mC p.val).trans hswitching) (harb ▸ hclosed) (harb ▸ hrunning) (harb ▸ hemergency)
      (harb ▸ hended)
    rw [hmine] at hself hqueue
    rw [State.exec_retrainWindowEnd cycle mC hwindow, State.closeWindow1_of_nil (s := s.trainedNow p.val mC) cycle hdue]
    exact ⟨_, rfl, hself, hqueue, hframe⟩
  · intro p mC cycle x l s hwindow hdue hothers
    have hbusy : ((s.trainedNow p.val mC).windowEnded p.val cycle).stackBusy (p.val / 64) = false := by
      refine (State.stackBusy_eq_false_iff _ _).2 fun i hi => ?_
      by_cases hself : 64 * (p.val / 64) + i = p.val
      · rw [hself, State.window_windowEnded_self]
      · rw [State.pchan_windowEnded_ne _ _ hself, State.trainedNow, State.pchan_putPchan_ne _ _ hself]
        simpa [Nat.mul_comm] using hothers i hi (by omega)
    rw [State.exec_retrainWindowEnd cycle mC hwindow,
      State.closeWindow1_of_cons (s := s.trainedNow p.val mC) (x := x) (l := l) hdue hbusy]
    exact ⟨_, rfl, congrArg Pchan.window (State.pchan_openWindow_self _ _ _ _)⟩
  · intro p cycle s hwindow
    obtain ⟨⟨n, b, hself⟩, -⟩ := (s.closeWindow1 p.val cycle).failPchan_self p.val
    refine ⟨_, State.exec_retrainTimeout cycle hwindow, congrArg Pchan.failed hself, fun hdue => ?_⟩
    refine (congrArg Pchan.window hself).trans ?_
    rw [State.closeWindow1_of_nil cycle hdue]
    exact s.window_windowEnded_self p.val cycle
  · intro p offset last c s hmap
    exact ⟨State.patrolScrubRead_clean offset last hmap, State.patrolScrubRead_corrected offset last hmap,
      State.patrolScrubRead_uncorrectable offset last hmap⟩
  · intro h m s hfind hmore
    exact ⟨_, State.exec_migrationSectorCopy_clean hfind hmore, rfl, s.find?_sectorCopied _ _ _,
      fun k hk => Bank.find?_put_ne _ _ _ _ hk⟩
  · intro h m s hfind hmore
    refine ⟨⟨_, State.exec_migrationSectorCopy_uncorrectable hfind hmore, ?_⟩, _,
      State.exec_migrationSectorCopy_corrected hfind hmore, s.find?_sectorCopied _ _ _, State.obj_bump_self _ _ _, rfl⟩
    cases hmap : s.mappedTo m.source with
    | none => exact ⟨s.find?_sectorCopied _ _ _, rfl, fun c hc => absurd hc (by simp)⟩
    | some c =>
      simp only [Option.elim_some, State.hbmUe_mem]
      refine ⟨s.find?_sectorCopied _ _ _, rfl, fun d hd => ?_⟩
      obtain rfl := Option.some.inj hd
      exact mem_insertNat _ _
  · intro h m c cycle s hfind hmap hswitching hrest
    have hatRest : ∀ p ∈ [m.source, m.target], s.AtRest p := fun p hp => by
      obtain ⟨hheads, hqueued, hrunning, hemergency, hended⟩ := hrest p hp
      exact ⟨hheads, hqueued, hrunning, hemergency, hended⟩
    exact State.migrationSwitch_atRest hfind hmap hswitching (hatRest m.source (by simp)) (hatRest m.target (by simp))
  · intro h m cycle s hfind hwait
    obtain ⟨t, hexec, hsector⟩ := State.exec_migrationSwitch_waits hfind hwait
    exact ⟨t, hexec, hsector.obj _ _ ⟨by decide, .inl (by unfold okey; have := h.isLt; omega)⟩, hsector.migration,
      congrArg Health.repair hsector.health, hsector.hbm⟩

end Sys2Proof.Machine

/-! PROOFS. O48: what a host writes and reads through BAR0 and CXL.mem: timelines, rings, mailboxes, resets and lines of memory. -/

namespace Sys2Proof.Machine

namespace State

/-! ### Timelines (R412) -/

/-- `t` differs from `s` in launches, clusters and cores alone. -/
def specOnly (t s : State) : Prop := t = { s with clusters := t.clusters, cores := t.cores, host.launches := t.host.launches }

theorem specOnly.trans {r t s : State} (g : r.specOnly t) (h : t.specOnly s) : r.specOnly s :=
  Eq.trans g (congrArg (fun u : State => { u with clusters := r.clusters, cores := r.cores, host.launches := r.host.launches }) h)

theorem specOnly.foldl {α : Type} {f : State → α → State} (h : ∀ t x, (f t x).specOnly t) (l : List α) (s : State) :
    (l.foldl f s).specOnly s :=
  List.foldlRecOn (motive := fun t : State => t.specOnly s) l f rfl fun t ht x _ => (h t x).trans ht

theorem specOnly_resolveCells (s : State) (cl : Nat) (committed : Bool) : (s.resolveCells cl committed).specOnly s := by
  refine .foldl (fun t n => ?_) _ s
  dsimp only
  split <;> rfl

/-- R276: a condition that commits changes launches, clusters and the cells of their cores. -/
theorem specOnly_commitSpec (s : State) (p : SpecCond → Bool) : (s.commitSpec p).specOnly s := by
  unfold State.commitSpec
  refine specOnly.trans (.foldl (fun t cl => ?_) _ _) rfl
  exact (specOnly_resolveCells _ cl true).trans rfl

@[simp] theorem timelines_commitSpec (s : State) (p : SpecCond → Bool) : (s.commitSpec p).host.timelines = s.host.timelines :=
  (congrArg (fun u : State => u.host.timelines) (s.specOnly_commitSpec p) :)

@[simp] theorem mem_commitSpec (s : State) (p : SpecCond → Bool) : (s.commitSpec p).mem = s.mem :=
  (congrArg State.mem (s.specOnly_commitSpec p) :)

section Timeline

variable {s : State} {v i : Nat} {x : Timeline} (hfind : s.host.timelines.find? (tlKey v i) = some x) (value : BitVec 64)
include hfind

theorem signalTl_greater (hlt : x.value.toNat < value.toNat) :
    (s.signalTl v i value.toNat).host.timelines.find? (tlKey v i) = some { x with value := value } ∧
      (s.signalTl v i value.toNat).mem = s.mem := by
  simp [State.signalTl, hfind, hlt]

theorem signalTl_lower (hlt : value.toNat < x.value.toNat) : s.signalTl v i value.toNat = s.bump 0x60105 v := by
  simp only [State.signalTl, hfind, if_neg (Nat.lt_asymm hlt), if_pos hlt]

theorem signalTl_same (heq : value = x.value) : s.signalTl v i value.toNat = s := by
  simp [State.signalTl, hfind, heq]

end Timeline

/-- R392, R405: a timeline that exists takes a signal of 8 bytes, and refuses a narrower one. -/
theorem exec_timelineSignal {s : State} {v : Fin 64} {t : BitVec 16} {x : Timeline} (value : BitVec 64) (bytes : Nat)
    (hvi : s.hasVi v.val = true) (hbar : s.barOpen = true) (hfind : s.host.timelines.find? (tlKey v.val t.toNat) = some x) :
    exec (.timelineSignal v t value bytes) s =
      .next (if bytes < 8 then s.illegal v.val 0 noQueue 0 6 else s.signalTl v.val t.toNat value.toNat) := by
  simp only [exec, execTimelineSignal, hvi, hbar, hfind]
  exact (apply_ite Host.Outcome.next _ _ _).symm

/-! ### Head doorbells (R415) -/

/-- A doorbell of 8 bytes with an acceptable count moves the head, and of the ring only the head and its arming. -/
theorem doorbell_newHead {r : Ring} {value : BitVec 64} {bytes h : Nat} (hbytes : 8 ≤ bytes) (hhead : r.newHead value = some h) :
    ∃ a b, r.doorbell value bytes = some ({ r with head := h, armed := a }, b) := by
  simp only [Ring.doorbell, if_neg (Nat.not_lt.2 hbytes), hhead]
  exact ⟨_, _, rfl⟩

theorem headDoorbell_newHead {s : State} {v ctx : Nat} {value : BitVec 64} {bytes h : Nat} {sel : Ctx → Ring}
    (upd : Ctx → Ring → Ctx) {c : Ctx} (hbar : s.barOpen = true) (hctx : s.ctx? (ctxKey v ctx) = some c) (hbytes : 8 ≤ bytes)
    (hhead : (sel c).newHead value = some h) : ∃ a, (s.headDoorbell v ctx value bytes sel upd).ctx? (ctxKey v ctx) =
      some (upd c { sel c with head := h, armed := a }) := by
  obtain ⟨a, b, hring⟩ := doorbell_newHead hbytes hhead
  refine ⟨a, ?_⟩
  simp only [State.headDoorbell, hbar, hctx, hring]
  cases b <;> exact ctx?_putCtx_self _ _ _

/-- Where no event waits, a head doorbell of an event ring moves the head alone. -/
theorem exec_eventRingHeadDoorbell_idle {s : State} {v : Fin 64} {ctx : Fin 4097} {value : BitVec 64} {bytes : Nat} {c : Ctx}
    (hvi : s.hasVi v.val = true) (hbar : s.barOpen = true) (hlow : ctx.val ≠ 4096)
    (hctx : (s.headDoorbell v.val ctx.val value bytes (·.evt) fun c r => { c with evt := r }).ctx? (ctxKey v.val ctx.val) = some c)
    (hheld : c.heldEvents = []) : ∃ u y, exec (.eventRingHeadDoorbell v ctx value bytes) s = .next u ∧
      u.ctx? (ctxKey v.val ctx.val) = some y ∧ y.evt = c.evt := by
  have hexec : exec (.eventRingHeadDoorbell v ctx value bytes) s = .next ((s.headDoorbell v.val ctx.val value bytes (·.evt)
      fun c r => { c with evt := r }).endStop (ctxKey v.val ctx.val)) := by
    simp only [exec, execEventRingHeadDoorbell, hvi, hbar, if_neg hlow, hctx, Option.elim_some, hheld, List.length_nil]
    rfl
  refine ⟨_, if c.evt.full then c else { c with evtStopped := false }, hexec, ?_, ?_⟩
  · rw [State.endStop, onCtx_some hctx, ctx?_putCtx_self]
  · split <;> rfl

/-- The same of a fault ring for which no record waits. -/
theorem exec_faultRingHeadDoorbell_idle {s : State} {v : Fin 64} {ctx : Fin 4096} {value : BitVec 64} {bytes : Nat} {c : Ctx}
    (hvi : s.hasVi v.val = true)
    (hctx : (s.headDoorbell v.val ctx.val value bytes (·.flt) fun c r => { c with flt := r }).ctx? (ctxKey v.val ctx.val) = some c)
    (hwait : c.faultWait = []) : exec (.faultRingHeadDoorbell v ctx value bytes) s =
      .next (s.headDoorbell v.val ctx.val value bytes (·.flt) fun c r => { c with flt := r }) := by
  simp only [exec, execFaultRingHeadDoorbell, hvi, hctx, Option.elim_some, hwait, List.length_nil]
  rfl

/-- The admin event ring of function `v` is `r`. -/
def putAdminEvent (s : State) (v : Nat) (r : Ring) : State := { s with host.adminEvent := s.host.adminEvent.put v r }

theorem adminEvent_putAdminEvent (s : State) (v : Nat) (r : Ring) : (s.putAdminEvent v r).host.adminEvent.get {} v = r :=
  Bank.get_put_self _ _ _ _

/-- A head doorbell of an admin event ring for which no event waits. -/
theorem exec_adminHeadDoorbell {s : State} {v : Fin 64} {value : BitVec 64} {bytes h : Nat} (hvi : s.hasVi v.val = true)
    (hbar : s.barOpen = true) (hbytes : 8 ≤ bytes) (hhead : (s.host.adminEvent.get {} v.val).newHead value = some h)
    (hheld : s.host.adminHeld.get [] v.val = []) : ∃ u,
      exec (.eventRingHeadDoorbell v 4096 value bytes) s = .next u ∧ (u.host.adminEvent.get {} v.val).head = h := by
  obtain ⟨a, raise, hring⟩ := doorbell_newHead hbytes hhead
  have hnumber : (4096 : Fin 4097).val = 4096 := rfl
  have hdrain : ∀ t, State.drainAdmin (s.host.adminHeld.get [] v.val).length v.val t = t := fun t => by
    rw [hheld]
    rfl
  have hself := s.adminEvent_putAdminEvent v.val { s.host.adminEvent.get {} v.val with head := h, armed := a }
  refine ⟨if raise then (s.putAdminEvent v.val { s.host.adminEvent.get {} v.val with head := h, armed := a }).msi v.val
      (s.host.adminVector.get 0 v.val)
    else s.putAdminEvent v.val { s.host.adminEvent.get {} v.val with head := h, armed := a }, ?_, ?_⟩
  · simp only [exec, execEventRingHeadDoorbell, hvi, hbar, hring, hnumber, Bool.not_true, Bool.or_self, Bool.false_eq_true,
      if_false, if_true]
    cases raise <;> exact congrArg Host.Outcome.next (hdrain _)
  · split <;> exact congrArg Ring.head hself

/-! ### Mailboxes (R417, R420) -/

theorem mem_insertPair (a : Nat × Nat) (l : List (Nat × Nat)) : a ∈ insertPair a l := by
  unfold insertPair
  split
  · next h => simpa using h
  · simp

section Mailbox

variable {s : State} {master : BitVec 8} {ch : Fin 256} {d : Nat} (hreach : s.mailReaches master.toNat = true)
  (hread : s.mailReads master.toNat ch.val = some d)
include hreach hread

theorem exec_rxData_empty (hempty : s.mailQueue ch.val d = []) : exec (.rxData master ch) s =
    .next { s with host.rxLast := 0, host.rxUnderflow := insertPair (ch.val, master.toNat) s.host.rxUnderflow } := by
  simp only [exec, execRxData, hreach, hread, hempty]
  rfl

/-- A function takes the oldest word; no word of the Maltster waits for its place. -/
theorem exec_rxData_word {w : BitVec 32} {m : BitVec 8} {l : List (BitVec 32 × BitVec 8)} (hmaster : master ≠ 0x40#8)
    (hqueue : s.mailQueue ch.val d = (w, m) :: l) (hout : s.mgmt.mailOut.get [] ch.val = []) :
    exec (.rxData master ch) s = .next (({ s with host.rxLast := w } : State).putMail ch.val d l) := by
  have hnone : ((({ s with host.rxLast := w } : State).putMail ch.val d l).mgmt.mailOut.get [] ch.val).isEmpty = true := by
    rw [show (({ s with host.rxLast := w } : State).putMail ch.val d l).mgmt = s.mgmt from rfl, hout]
    rfl
  have hother : ¬ master = 64 := hmaster
  simp only [exec, execRxData, hreach, hread, hqueue, if_neg hother, hnone, Bool.not_true, Bool.false_eq_true, if_false, if_true]

end Mailbox

/-! ### A function-level reset (R389) -/

/-- `t` differs from `s` as references of commands can make it that are dropped while no context exists: timelines keep their
values, and without objects no byte is released. -/
structure refsOnly (t s : State) : Prop where
  host : t.host = { s.host with objects := t.host.objects, kernels := t.host.kernels, timelines := t.host.timelines }
  mem : s.host.objects = [] → t.host.objects = [] ∧ t.mem = s.mem
  value : ∀ k x, t.host.timelines.find? k = some x → ∃ y, s.host.timelines.find? k = some y ∧ y.value = x.value

theorem refsOnly.refl (s : State) : s.refsOnly s := ⟨rfl, fun h => ⟨h, rfl⟩, fun _ x hx => ⟨x, hx, rfl⟩⟩

theorem refsOnly.trans {r t s : State} (g : r.refsOnly t) (h : t.refsOnly s) : r.refsOnly s where
  host := g.host.trans (congrArg (fun u : Host12 =>
    { u with objects := r.host.objects, kernels := r.host.kernels, timelines := r.host.timelines }) h.host)
  mem := fun hs => by
    obtain ⟨ht, htmem⟩ := h.mem hs
    obtain ⟨hr, hrmem⟩ := g.mem ht
    exact ⟨hr, hrmem.trans htmem⟩
  value := fun k x hx => by
    obtain ⟨y, hy, hyx⟩ := g.value k x hx
    obtain ⟨z, hz, hzy⟩ := h.value k y hy
    exact ⟨z, hz, hzy.trans hyx⟩

theorem refsOnly.ctxs {t s : State} (h : t.refsOnly s) : t.host.ctxs = s.host.ctxs := (congrArg Host12.ctxs h.host :)

theorem refsOnly_foldl {α : Type} {f : State → α → State} (hf : ∀ t x, t.host.ctxs = [] → (f t x).refsOnly t) (l : List α)
    {s : State} (hs : s.host.ctxs = []) : (l.foldl f s).refsOnly s :=
  List.foldlRecOn (motive := fun t : State => t.refsOnly s) l f (.refl s) fun t ht x _ => (hf t x (ht.ctxs.trans hs)).trans ht

theorem ctx?_of_none {s : State} (h : s.host.ctxs = []) (k : Nat) : s.ctx? k = none := by
  simp [State.ctx?, h, Bank.find?]

section NoContexts

variable {s : State} (hs : s.host.ctxs = [])
include hs

/-- R399: without a context no event tells of a release, and no generation is kept. -/
theorem releaseObj_of_none (ok : Nat) (o : MemObj) : s.releaseObj ok o =
    { (if o.fast then s.clearPages o.pages o.pageBytes else s) with host.objects := s.host.objects.erase ok } := by
  have hevent : ∀ k e, s.event k e = s := fun k e => by simp [State.event, ctx?_of_none hs]
  have hctx : ∀ k f, s.onCtx k f = s := fun k f => by simp [State.onCtx, ctx?_of_none hs]
  unfold State.releaseObj
  dsimp only
  rw [hctx]
  cases o.freeCookie with
  | none => split <;> rfl
  | some ck =>
    dsimp only
    rw [hevent]
    split <;> rfl

theorem refsOnly_dropObj (ok : Nat) : (s.dropObj ok).refsOnly s := by
  unfold State.dropObj
  split
  · next o ho =>
    have hsome : s.host.objects ≠ [] := fun h => by simp [h, Bank.find?] at ho
    split
    · rw [releaseObj_of_none hs]
      refine ⟨?_, fun h => absurd h hsome, fun _ x hx => ⟨x, ?_, rfl⟩⟩
      · split <;> rfl
      · split at hx <;> exact hx
    · exact ⟨rfl, fun h => absurd h hsome, fun _ x hx => ⟨x, hx, rfl⟩⟩
  · exact .refl s

theorem refsOnly_dropKernel (kk : Nat) : (s.dropKernel kk).refsOnly s := by
  have hset : ∀ b, ({ s with host.kernels := b } : State).refsOnly s := fun b =>
    ⟨rfl, fun h => ⟨h, rfl⟩, fun _ x hx => ⟨x, hx, rfl⟩⟩
  unfold State.dropKernel State.settleKernel
  split
  · split
    · exact (refsOnly_dropObj (s := { s with host.kernels := s.host.kernels.erase kk }) hs _).trans (hset _)
    · exact hset _
  · exact .refl s

omit hs in
theorem refsOnly_dropTl (tk : Nat) : (s.dropTl tk).refsOnly s := by
  unfold State.dropTl State.settleTl
  split
  · next x hx =>
    split
    · refine ⟨rfl, fun h => ⟨h, rfl⟩, fun k y hy => ?_⟩
      by_cases hk : k = tk
      · subst hk
        exact absurd hy (by simp)
      · exact ⟨y, (Bank.find?_erase_ne _ _ _ hk).symm.trans hy, rfl⟩
    · refine ⟨rfl, fun h => ⟨h, rfl⟩, fun k y hy => ?_⟩
      by_cases hk : k = tk
      · subst hk
        obtain rfl := Option.some.inj ((Bank.find?_put_self _ _ _).symm.trans hy)
        exact ⟨x, hx, rfl⟩
      · exact ⟨y, (Bank.find?_put_ne _ _ _ _ hk).symm.trans hy, rfl⟩
  · exact .refl s

theorem refsOnly_dropRefs (c : Cmd) : (s.dropRefs c).refsOnly s := by
  have hobjs := refsOnly_foldl (fun t ok ht => refsOnly_dropObj (s := t) ht ok) c.objs hs
  have hkernels := refsOnly_foldl (fun t kk ht => refsOnly_dropKernel (s := t) ht kk) c.kernels (hobjs.ctxs.trans hs)
  have htimelines := refsOnly_foldl (fun t tk _ => refsOnly_dropTl (s := t) tk) c.timelines
    (hkernels.ctxs.trans (hobjs.ctxs.trans hs))
  exact htimelines.trans (hkernels.trans hobjs)

end NoContexts

/-- What R389 leaves of a function's admin queue, admin rings and timelines. -/
structure functionReset (s : State) (v : Nat) : Prop where
  ring : Bank.find? s.host.adminRing v = none
  event : Bank.find? s.host.adminEvent v = none
  queue : Bank.find? s.host.queues (queueKey v adminQ) = none
  timelines : ∀ i x, i < 65536 → s.host.timelines.find? (tlKey v i) = some x → x.value = 0

/-- `t` differs from `s` as the reset of the BAR0 of function `v` makes it while no context exists. -/
structure barOnly (t s : State) (v : Nat) : Prop where
  ctxs : t.host.ctxs = s.host.ctxs
  numVfs : t.host.numVfs = s.host.numVfs
  mem : s.host.objects = [] → t.host.objects = [] ∧ t.mem = s.mem
  ring : t.host.adminRing = s.host.adminRing.erase v
  event : t.host.adminEvent = s.host.adminEvent.erase v
  queue : t.host.queues = s.host.queues.erase (queueKey v adminQ)
  value : ∀ k x, t.host.timelines.find? k = some x → ∃ y, s.host.timelines.find? k = some y ∧
    x.value = if k / 65536 = v then 0 else y.value

theorem find?_erase_none {α : Type} {b : Bank α} {k : Nat} (h : Bank.find? b k = none) (j : Nat) :
    Bank.find? (Bank.erase b j) k = none := by
  by_cases hk : k = j
  · rw [hk, Bank.find?_erase_self]
  · rw [Bank.find?_erase_ne _ _ _ hk, h]

section ResetBar

variable {s : State} (hs : s.host.ctxs = []) (v : Nat)
include hs

theorem barOnly_resetBar : (s.resetBar v).barOnly s v := by
  have hrefs := refsOnly_foldl (fun t c ht => refsOnly_dropRefs (s := t) ht c)
    ((s.host.queues.find? (queueKey v adminQ)).elim [] (fun q => q.cmds)) hs
  unfold State.resetBar
  dsimp only
  generalize ((s.host.queues.find? (queueKey v adminQ)).elim [] (fun q => q.cmds)).foldl State.dropRefs s = t at hrefs ⊢
  refine ⟨hrefs.ctxs, (congrArg Host12.numVfs hrefs.host :), hrefs.mem, ?_, ?_, ?_, fun k x hx => ?_⟩
  · exact congrArg (Bank.erase · v) (congrArg Host12.adminRing hrefs.host :)
  · exact congrArg (Bank.erase · v) (congrArg Host12.adminEvent hrefs.host :)
  · exact congrArg (Bank.erase · (queueKey v adminQ)) (congrArg Host12.queues hrefs.host :)
  · have hkey : ∀ x : Nat × Timeline, (if x.1 / 65536 = v then (x.1, { x.2 with value := 0 }) else x).1 = x.1 :=
      fun x => by split <;> rfl
    obtain ⟨y, hy, hyx⟩ := Option.map_eq_some_iff.1 ((Bank.find?_map_of hkey t.host.timelines k).symm.trans hx)
    obtain ⟨z, hz, hzy⟩ := hrefs.value k y hy
    refine ⟨z, hz, ?_⟩
    rw [← hyx, hzy]
    split <;> rfl

theorem functionReset_resetBar_self : (s.resetBar v).functionReset v := by
  have hbar := barOnly_resetBar hs v
  refine ⟨?_, ?_, ?_, fun i x hi hx => ?_⟩
  · rw [hbar.ring, Bank.find?_erase_self]
  · rw [hbar.event, Bank.find?_erase_self]
  · rw [hbar.queue, Bank.find?_erase_self]
  · obtain ⟨y, -, hyx⟩ := hbar.value _ x hx
    rwa [if_pos (by unfold tlKey; omega)] at hyx

theorem functionReset_resetBar {w : Nat} (hw : s.functionReset w) : (s.resetBar v).functionReset w := by
  have hbar := barOnly_resetBar hs v
  refine ⟨?_, ?_, ?_, fun i x hi hx => ?_⟩
  · rw [hbar.ring, find?_erase_none hw.ring]
  · rw [hbar.event, find?_erase_none hw.event]
  · rw [hbar.queue, find?_erase_none hw.queue]
  · obtain ⟨y, hy, hyx⟩ := hbar.value _ x hx
    rw [hyx, hw.timelines i y hi hy, ite_self]

end ResetBar

/-- The functions of a list are reset one after another, and each stays so. -/
theorem foldl_resetBar (l : List Nat) {s : State} (hs : s.host.ctxs = []) :
    (l.foldl State.resetBar s).host.numVfs = s.host.numVfs ∧
    (s.host.objects = [] → (l.foldl State.resetBar s).mem = s.mem) ∧
    ∀ v, v ∈ l ∨ s.functionReset v → (l.foldl State.resetBar s).functionReset v := by
  induction l generalizing s with
  | nil => exact ⟨rfl, fun _ => rfl, fun v hv => hv.resolve_left List.not_mem_nil⟩
  | cons w l ih =>
    have hbar := barOnly_resetBar hs w
    obtain ⟨hnum, hmem, hreset⟩ := ih (hbar.ctxs.trans hs)
    refine ⟨hnum.trans hbar.numVfs, fun hobj => ?_, fun v hv => hreset v ?_⟩
    · obtain ⟨hobj', hmem'⟩ := hbar.mem hobj
      exact (hmem hobj').trans hmem'
    · rcases hv with hv | hv
      · rcases List.mem_cons.1 hv with rfl | hv
        · exact .inr (functionReset_resetBar_self hs v)
        · exact .inl hv
      · exact .inr (functionReset_resetBar hs w hv)

theorem destroyWhere_of_none {s : State} (hs : s.host.ctxs = []) (p : Nat → Bool) : s.destroyWhere p = s := by
  simp [State.destroyWhere, hs]

/-- R389: what the reset of the physical function does where no context exists: VF Enable is clear, and every function is reset. -/
def allReset (s : State) : State := (List.range 64).foldl State.resetBar (({ s with host.numVfs := 0 } : State).clearMail 0)

theorem functionReset_allReset {s : State} (hs : s.host.ctxs = []) {v : Nat} (hv : v < 64) : s.allReset.functionReset v := by
  obtain ⟨-, -, hreset⟩ := foldl_resetBar (List.range 64) (s := ({ s with host.numVfs := 0 } : State).clearMail 0) hs
  exact hreset v (.inl (List.mem_range.2 hv))

theorem mem_allReset {s : State} (hs : s.host.ctxs = []) (hobjects : s.host.objects = []) : s.allReset.mem = s.mem := by
  obtain ⟨-, hmem, -⟩ := foldl_resetBar (List.range 64) (s := ({ s with host.numVfs := 0 } : State).clearMail 0) hs
  exact hmem hobjects

theorem numVfs_allReset {s : State} (hs : s.host.ctxs = []) : s.allReset.host.numVfs = 0 := by
  obtain ⟨hnum, -, -⟩ := foldl_resetBar (List.range 64) (s := ({ s with host.numVfs := 0 } : State).clearMail 0) hs
  rw [allReset, hnum]
  rfl

/-- R389: a reset while no context exists. -/
theorem exec_functionLevelReset {s : State} (v : Fin 64) (hs : s.host.ctxs = []) : exec (.functionLevelReset v) s =
    .next (if v.val = 0 then s.allReset else (s.clearMail v.val).resetBar v.val) := by
  simp only [exec, execFunctionLevelReset]
  split
  · rw [destroyWhere_of_none (s := { s with host.numVfs := 0 }) hs]
    rfl
  · rw [destroyWhere_of_none hs]

/-! ### CXL.mem (R294, R387) -/

theorem cachesOnly_homeFetch (s : State) (a : Nat) (ecc : EccResult) (requester : Nat) :
    (s.homeFetch (.fast a) ecc requester).2.cachesOnly s := by
  unfold State.homeFetch
  split
  · rfl
  · dsimp only
    split
    · rfl
    · split
      · exact s.cachesOnly_homeUse _
      · exact s.cachesOnly_arrayRead a ecc requester

section Fetch

variable {s : State} {a : Nat}

theorem homeFetch_poisoned (ecc : EccResult) (requester : Nat) (h : s.poisoned (.fast a) = true) :
    s.homeFetch (.fast a) ecc requester = (true, s) :=
  if_pos h

theorem homeFetch_lost (ecc : EccResult) (requester : Nat) (h : s.stackLost (s.pchanOf a) = true) :
    s.homeFetch (.fast a) ecc requester = (true, s) := by
  unfold State.homeFetch
  split
  · rfl
  · exact if_pos h

theorem homeFetch_good {ecc : EccResult} (requester : Nat) (hclean : s.poisoned (.fast a) = false)
    (hstack : s.stackLost (s.pchanOf a) = false) (hecc : ecc ≠ .uncorrectable) : (s.homeFetch (.fast a) ecc requester).1 = false := by
  simp only [State.homeFetch, hclean, hstack, Bool.false_eq_true, if_false]
  split
  · rfl
  · simpa using hecc

/-- R294: an uncorrectable read marks its sector. -/
theorem homeFetch_uncorrectable (requester : Nat) (hclean : s.poisoned (.fast a) = false)
    (hstack : s.stackLost (s.pchanOf a) = false) : (s.homeFetch (.fast a) .uncorrectable requester).1 = true ∧
      a / 256 ∈ (s.homeFetch (.fast a) .uncorrectable requester).2.mem.poison := by
  have hmark : (s.homeUse (.fast a)).poisoned (.fast a) = false :=
    (congrArg (fun l : List Nat => l.contains (a / 256)) (s.poison_homeUse (.fast a))).trans hclean
  have hread : s.homeFetch (.fast a) .uncorrectable requester = (true, s.arrayRead a .uncorrectable requester) := by
    simp [State.homeFetch, hclean, hstack]
  rw [hread]
  refine ⟨rfl, ?_⟩
  simp only [State.arrayRead, hmark, Bool.false_eq_true, if_false, hbmUe_mem]
  exact mem_insertNat _ _

end Fetch

section Line

variable {s : State} {offset : Nat} (hactive : s.boot.memoryActive = true) (hexists : s.fastExists (offset / 64 * 64) = true)
include hactive hexists

theorem exec_cxlMemRequest_read (ecc : EccResult) : exec (.cxlMemRequest none offset ecc) s = .next
    { (s.homeFetch (.fast (offset / 64 * 64)) ecc 3).2 with
      host.cxlLast := if (s.homeFetch (.fast (offset / 64 * 64)) ecc 3).1 then none
        else some (memRead s.mem.hbm (offset / 64 * 64) 64) } := by
  simp only [exec, execCxlMemRequest, hactive, hexists]
  rfl

theorem exec_cxlMemRequest_write (x : CxlWrite) (ecc : EccResult) : exec (.cxlMemRequest (some x) offset ecc) s = .next (
    let t := (s.homeFetch (.fast (offset / 64 * 64)) ecc 3).2.domainWrite noVi (.fast (offset / 64 * 64)) (x.data.take 64)
    if x.poison then { t with mem.poison := insertNat (offset / 64 * 64 / 256) t.mem.poison } else t) := by
  simp only [exec, execCxlMemRequest, hactive, hexists]
  rfl

end Line

/-- The bytes of a line that is written. -/
theorem domainWrite_line (s : State) (v a : Nat) (bs : Bytes) : (s.domainWrite v (.fast a) bs).mem.hbm = memWrite s.mem.hbm a bs ∧
    (s.domainWrite v (.fast a) bs).mem.host = s.mem.host := by
  obtain ⟨t, ht, hw⟩ := s.domainWrite_bytes v (.fast a) bs
  rw [hw]
  exact ⟨congrArg (memWrite · a bs) ht.hbm, ht.hostBytes⟩

end State

/-- Settles O48: one lemma for each kind of request, and for a reset `foldl_resetBar` over its functions. -/
theorem hostPortServesItsFunctions : Obligations.HostPortServesItsFunctions := by
  refine ⟨?_, ?_, ?_, ?_, ?_, ?_, ?_, ?_, ?_, ?_⟩
  · intro v t value bytes x s hvi hbar hfind
    rw [State.exec_timelineSignal value bytes hvi hbar hfind]
    refine ⟨fun hbytes => ⟨_, rfl, ?_⟩, fun hbytes => by rw [if_pos hbytes]⟩
    rw [if_neg (Nat.not_lt.2 hbytes)]
    exact ⟨State.signalTl_greater hfind value, State.signalTl_lower hfind value, State.signalTl_same hfind value⟩
  · intro v ctx value bytes c h s hvi hbar hbytes hctx
    refine ⟨fun hhead hheld => ?_, fun hhead hheld => ?_, fun hhead => ?_⟩
    · obtain ⟨a, ha⟩ := State.headDoorbell_newHead (sel := (·.evt)) (fun c r => { c with evt := r }) hbar hctx hbytes hhead
      obtain ⟨u, y, hexec, hy, hring⟩ := State.exec_eventRingHeadDoorbell_idle (ctx := ⟨ctx.val, by omega⟩) hvi hbar
        (Nat.ne_of_lt ctx.isLt) ha hheld
      exact ⟨u, y, hexec, hy, congrArg Ring.head hring, (congrArg Ring.written hring).trans rfl⟩
    · obtain ⟨a, ha⟩ := State.headDoorbell_newHead (sel := (·.flt)) (fun c r => { c with flt := r }) hbar hctx hbytes hhead
      exact ⟨_, _, State.exec_faultRingHeadDoorbell_idle hvi ha hheld, ha, rfl, rfl⟩
    · obtain ⟨a, ha⟩ := State.headDoorbell_newHead (sel := (·.ntc)) (fun c r => { c with ntc := r }) hbar hctx hbytes hhead
      refine ⟨_, _, ?_, ha, rfl, rfl⟩
      simp only [exec, execNoticeRingHeadDoorbell, hvi]
      rfl
  · intro v value bytes h s hvi hbar hbytes hhead hheld
    exact State.exec_adminHeadDoorbell hvi hbar hbytes hhead hheld
  · intro master ch w s hreach
    refine ⟨fun hnone => ?_, fun d hpost => ⟨fun hroom => ?_, fun hfull => ?_⟩⟩
    · simp [exec, execTxData, hreach, hnone]
    · simp [exec, execTxData, hreach, hpost, Nat.not_le.2 hroom]
    · simp [exec, execTxData, hreach, hpost, hfull]
  · intro master ch s hreach d hread
    refine ⟨fun hempty => ⟨_, State.exec_rxData_empty hreach hread hempty, rfl, rfl, State.mem_insertPair _ _⟩,
      fun w m l hmaster hqueue hout => ⟨_, State.exec_rxData_word hreach hread hmaster hqueue hout, rfl, ?_, rfl⟩⟩
    exact Bank.get_set_self _ _ _ _
  · intro master ch value d s hreach hset hpost hend
    simp [exec, execDoorbell, hreach, hset, hpost, State.wake, hend]
  · intro v s hctxs
    rw [State.exec_functionLevelReset v hctxs]
    refine ⟨_, rfl, ?_⟩
    by_cases hv : v.val = 0
    · rw [if_pos hv]
      have hmine := State.functionReset_allReset hctxs v.isLt
      exact ⟨hmine.ring, hmine.event, hmine.queue, State.mem_allReset hctxs, hmine.timelines, fun _ => State.numVfs_allReset hctxs,
        fun h => absurd hv h⟩
    · rw [if_neg hv]
      have hbar := State.barOnly_resetBar (s := s.clearMail v.val) hctxs v.val
      have hmine := State.functionReset_resetBar_self (s := s.clearMail v.val) hctxs v.val
      exact ⟨hmine.ring, hmine.event, hmine.queue, fun hobj => (hbar.mem hobj).2, hmine.timelines, fun h => absurd h hv,
        fun _ => hbar.numVfs⟩
  · intro on n s hbar
    simp [exec, execVfEnable, hbar]
  · intro offset bs s hactive hexists
    have hread := State.exec_cxlMemRequest_read hactive hexists
    have hsector : offset / 64 * 64 / 256 = offset / 256 := by omega
    refine ⟨fun ecc hclean hstack hecc => ⟨_, hread ecc, ?_⟩, fun ecc hpoison => ?_, fun ecc hlost => ?_, fun hclean hstack =>
      ⟨_, hread .uncorrectable, ?_⟩, fun ecc => ⟨_, State.exec_cxlMemRequest_write hactive hexists bs ecc, ?_⟩⟩
    · have hkept := s.cachesOnly_homeFetch (offset / 64 * 64) ecc 3
      rw [State.homeFetch_good 3 hclean hstack hecc]
      refine ⟨hkept.hbm, hkept.hostBytes, ?_⟩
      simp only [Bool.false_eq_true, if_false, hkept.host]
    · rw [hread, State.homeFetch_poisoned ecc 3 hpoison]
      rfl
    · rw [hread, State.homeFetch_lost ecc 3 hlost]
      rfl
    · obtain ⟨hbad, hmark⟩ := State.homeFetch_uncorrectable 3 hclean hstack
      rw [hbad]
      exact ⟨rfl, hsector ▸ hmark⟩
    · have hkept := s.cachesOnly_homeFetch (offset / 64 * 64) ecc 3
      obtain ⟨hline, hhost⟩ := State.domainWrite_line (s.homeFetch (.fast (offset / 64 * 64)) ecc 3).2 noVi (offset / 64 * 64)
        (bs.data.take 64)
      rw [hkept.hbm] at hline
      rw [hkept.hostBytes] at hhost
      have hlast := (State.host_domainWrite (s.homeFetch (.fast (offset / 64 * 64)) ecc 3).2 noVi (.fast (offset / 64 * 64))
        (bs.data.take 64)).trans hkept.host
      dsimp only
      split
      · exact ⟨hline, fun _ => hsector ▸ mem_insertNat _ _, hhost, congrArg Host12.cxlLast hlast⟩
      · next hclean => exact ⟨hline, fun h => absurd h hclean, hhost, congrArg Host12.cxlLast hlast⟩
  · intro w offset ecc s hinactive
    simp [exec, execCxlMemRequest, hinactive]

end Sys2Proof.Machine

/-! PROOFS. O39 fails in its clause on KILN_READ. The model takes the first block of the caller's allocation after the units have been
read, the statement before; and the statement bounds the number of no context. The dictionary gives the elements of an object 16 bits
of its keys (`okey`): for a context of a virtual interface numbered far beyond 63, the allocation in 30.021 has the very key of the
element of 40.130 that counts the corrections of a link, so that reading a unit moves the allocation by one block. -/

namespace Sys2Proof.Machine

namespace State

/-! ### Stores into host memory behind a page table of the fast tier -/

/-- Where a table lies in the fast tier, translations see its bytes and the host's part alone. -/
theorem translate_of_table {s t : State} {k : Nat} {c : Ctx} {pt : MemObj} (hctx : s.host.ctxs.find? k = some c)
    (hpt : s.host.objects.find? c.pt = some pt) (hfast : pt.kind < 2) (hhost : t.host = s.host) (hhbm : t.mem.hbm = s.mem.hbm)
    (va : Nat) (acc : Acc) : t.translate k va acc = s.translate k va acc := by
  have hentry : ∀ o, t.ptEntry pt o = s.ptEntry pt o := by
    intro o
    unfold State.ptEntry MemObj.place
    cases pt.pages[o / pt.pageBytes]? with
    | none => rfl
    | some p => simp only [if_pos hfast, State.readPlace, hhbm]
  have hpage : t.ptPage = s.ptPage := by
    funext k e big off a
    unfold State.ptPage
    rw [hhost]
  simp only [State.translate, State.ctx?, hhost, hctx, hpt, hentry, hpage]

/-- A write of the domain at a host address stores its bytes there, and none in the fast tier. -/
theorem domainWrite_host (s : State) (v a : Nat) (io : Bool) (bs : Bytes) :
    (s.domainWrite v (.host a io) bs).mem.hbm = s.mem.hbm ∧
    (s.domainWrite v (.host a io) bs).mem.host = memWrite s.mem.host a bs := by
  obtain ⟨t, ht, hw⟩ := s.domainWrite_bytes v (.host a io) bs
  rw [hw]
  exact ⟨ht.hbm, congrArg (memWrite · a bs) ht.hostBytes⟩

theorem sectorPieces_block : sectorPieces (4096 / 256 + 2) 0 4096 = (0, 256) :: (List.range 15).map fun i => (256 * (i + 1), 256) := by
  decide

/-- One sector of a store, from the front of the bytes that are left. -/
def storePiece (writer k : Nat) (x : State × Bytes) (p : Nat × Nat) : State × Bytes :=
  match x.1.translate k p.1 .store with
  | .ok pl => (x.1.domainWrite writer pl (x.2.take p.2), x.2.drop p.2)
  | .error _ => (x.1, x.2.drop p.2)

theorem storeAs_eq_foldl (s : State) (writer k va : Nat) (bs : Bytes) : s.storeAs writer k va bs =
    ((sectorPieces (bs.length / 256 + 2) va bs.length).foldl (storePiece writer k) (s, bs)).1 := rfl

theorem storePiece_mapped {x : State × Bytes} {k va n : Nat} {pl : Place} (writer : Nat) (h : x.1.translate k va .store = .ok pl) :
    storePiece writer k x (va, n) = (x.1.domainWrite writer pl (x.2.take n), x.2.drop n) := by
  simp only [storePiece, h]

/-- What the sectors of a store that follow the first keep: the host's part, the fast tier and the byte at host address 0. -/
structure FirstByteKept (s : State) (b : Byte) (x : State × Bytes) : Prop where
  host : x.1.host = s.host
  hbm : x.1.mem.hbm = s.mem.hbm
  byte : memGet x.1.mem.host 0 = b

/-- The first byte of a block that is stored from address 0 on, where the addresses of its sectors are host addresses. -/
theorem firstByte_storeAs {s : State} {k : Nat} {c : Ctx} {pt : MemObj} (writer : Nat) (hctx : s.host.ctxs.find? k = some c)
    (hpt : s.host.objects.find? c.pt = some pt) (hfast : pt.kind < 2)
    (hmap : ∀ i, i < 16 → s.translate k (256 * i) .store = .ok (.host (256 * i) true)) {b : Byte} {bs : Bytes}
    (hlen : (b :: bs).length = 4096) : memGet (s.storeAs writer k 0 (b :: bs)).mem.host 0 = b := by
  rw [storeAs_eq_foldl, hlen, sectorPieces_block, List.foldl_cons, storePiece_mapped writer (hmap 0 (by decide))]
  obtain ⟨hhbm, hhost⟩ := s.domainWrite_host writer (256 * 0) true ((b :: bs).take 256)
  have hfirst : memGet (memWrite s.mem.host 0 ((b :: bs).take 256)) 0 = b :=
    memGet_memWrite_inside _ 0 ((b :: bs).take 256) 0 (by simp)
  refine (List.foldlRecOn (motive := FirstByteKept s b) _ _
    ⟨s.host_domainWrite _ _ _, hhbm, (congrArg (memGet · 0) hhost).trans hfirst⟩ ?_).byte
  rintro x ⟨hxhost, hxhbm, hxbyte⟩ p hp
  obtain ⟨i, hi, rfl⟩ := List.mem_map.1 hp
  have hi := List.mem_range.1 hi
  rw [storePiece_mapped writer ((translate_of_table hctx hpt hfast hxhost hxhbm _ _).trans (hmap (i + 1) (by omega)))]
  obtain ⟨hhbm', hhost'⟩ := x.1.domainWrite_host writer (256 * (i + 1)) true (x.2.take 256)
  refine ⟨(x.1.host_domainWrite _ _ _).trans hxhost, hhbm'.trans hxhbm, (congrArg (memGet · 0) hhost').trans ?_⟩
  rw [memGet_memWrite_outside _ _ _ _ (.inl (by omega)), hxbyte]

end State

/-! ### The bytes of a block of masters -/

/-- The ACTIVE copy of a block of Kiln `q` as bytes. -/
def Kiln.activeBytes (x : Kiln) (q block : Nat) : Bytes :=
  (x.blockWords q (x.activeCopy block) block).flatMap fun w => leBytes 4 w.toNat

/-- A block is 4,096 bytes, the lowest of its first master in front. -/
theorem Kiln.activeBytes_eq_cons (x : Kiln) (q block : Nat) : ∃ bs,
    x.activeBytes q block = BitVec.ofNat 8 (x.master q (x.activeCopy block) block 0).toNat :: bs ∧
    (BitVec.ofNat 8 (x.master q (x.activeCopy block) block 0).toNat :: bs).length = 4096 := by
  have hlen : (x.activeBytes q block).length = 4096 := by
    simp only [Kiln.activeBytes, Kiln.blockWords, List.length_flatMap, leBytes, List.length_map, List.length_range,
      List.map_const', List.sum_replicate, smul_eq_mul]
  have hrange : List.range 1024 = 0 :: (List.range 1023).map (· + 1) := by
    rw [← List.range_succ_eq_map]
  have hcons : x.activeBytes q block = BitVec.ofNat 8 (x.master q (x.activeCopy block) block 0).toNat ::
      ((List.range 3).map (fun i => BitVec.ofNat 8 ((x.master q (x.activeCopy block) block 0).toNat >>> (8 * (i + 1)))) ++
        (((List.range 1023).map (· + 1)).map (x.master q (x.activeCopy block) block)).flatMap fun w => leBytes 4 w.toNat) := by
    rw [Kiln.activeBytes, Kiln.blockWords, hrange]
    rfl
  exact ⟨_, hcons, hcons ▸ hlen⟩

/-! ### The state -/

/-- The virtual interface whose 30.021 has the key of 40.130[0]. -/
def aliasVi : Nat := (0x40130 - 0x30021) * 65536

/-- Its first context. -/
def aliasKey : Nat := aliasVi * 4096

/-- KILN_READ of block 0 of Kiln 0 to address 0, begun. -/
def aliasCmd : Cmd := { n := 0, entry := 0x2D + 2 ^ 96, stage := .started }

def aliasRef : CmdRef := { v := 0, q := 0, n := 0 }

/-- Package 0 has had an error of its link corrected. -/
def aliasReads : SlowReads := { linkCorrected := [0] }

/-- The page table, which lies in the fast tier. -/
def aliasTable : MemObj := { kind := 0, big := true, pages := [0] }

/-- A context of `aliasVi` whose page table maps host memory at address 0, and its queue; its allocation begins with block 0 until
40.130[0] counts. -/
def aliasState : State :=
  { mem := { hbm := [(0, 1), (2, 1), (4096, 0x22), (4101, 2)] },
    mgmt := { dict := [(okey 0x40130 0, 2 ^ 32 - 1)] },
    kilns := [(0, { masters := [(masterKey 0 0 0, 1), (masterKey 0 1 0, 2)] })],
    host := { ctxs := [(aliasKey, { pt := 1 })], queues := [(0, { ctx := aliasKey, cmds := [aliasCmd] })],
              objects := [(1, aliasTable), (objKey aliasKey 2, { kind := 3, big := true, pages := [0] })] } }

/-- The units of the block have been read. -/
def aliasRead : State := aliasState.readUnits 0 ((aliasState.kilnAt 0).activeUnits (aliasState.blockRange aliasKey aliasCmd)) aliasReads

theorem alias_started : Safety.started aliasState aliasRef 0x2D aliasCmd :=
  ⟨by decide +kernel, by decide +kernel, by decide +kernel, by decide +kernel⟩

theorem alias_cmdCtx : aliasState.cmdCtx aliasRef = aliasKey := by decide +kernel

theorem alias_blocks : aliasCmd.arg 32 25 = 1 := by decide +kernel
theorem alias_first : aliasCmd.arg 7 25 = 0 := by decide +kernel
theorem alias_kiln : aliasCmd.arg 0 3 = 0 := by decide +kernel
theorem alias_address : aliasCmd.arg 64 48 = 0 := by decide +kernel

theorem alias_inRange : aliasState.inRange aliasKey 0 (4096 * 1) .store = true := by decide +kernel
theorem alias_ownBlocks : aliasState.ownBlocks aliasKey aliasCmd = true := by decide +kernel
theorem alias_kilnLost : aliasState.kilnLost 0 = false := by decide +kernel
theorem alias_unitsWait : aliasState.unitsWait 0 ((aliasState.kilnAt 0).activeUnits (aliasState.blockRange aliasKey aliasCmd))
    aliasReads = false := by decide +kernel

/-- The allocation begins with block 0 before the units are read, and with block 1 behind that. -/
theorem alias_masterFirst : aliasState.masterFirst (ctxVi aliasKey) = 0 ∧ aliasRead.masterFirst (ctxVi aliasKey) = 1 := by
  decide +kernel

theorem alias_master : (aliasRead.kilnAt 0).master 0 ((aliasRead.kilnAt 0).activeCopy 0) 0 0 = 1 ∧
    (aliasRead.kilnAt 0).master 0 ((aliasRead.kilnAt 0).activeCopy 1) 1 0 = 2 := by decide +kernel

theorem alias_mapped : ∀ i, i < 16 → aliasRead.translate aliasKey (256 * i) .store = .ok (.host (256 * i) true) := by
  decide +kernel

theorem alias_table : aliasRead.host.ctxs.find? aliasKey = some { pt := 1 } ∧ aliasRead.host.objects.find? 1 = some aliasTable := by
  decide +kernel

/-- The byte at host address 0 behind the store of a block. -/
theorem alias_byte (block : Nat) {w : Word} (hw : (aliasRead.kilnAt 0).master 0 ((aliasRead.kilnAt 0).activeCopy block) block 0 = w) :
    memGet (aliasRead.storeAs 64 aliasKey 0 ((aliasRead.kilnAt 0).activeBytes 0 block)).mem.host 0 = BitVec.ofNat 8 w.toNat := by
  obtain ⟨bs, hbytes, hlen⟩ := (aliasRead.kilnAt 0).activeBytes_eq_cons 0 block
  obtain ⟨hctx, hpt⟩ := alias_table
  rw [hw] at hbytes hlen
  rw [hbytes]
  exact State.firstByte_storeAs 64 hctx hpt (by decide) alias_mapped hlen

theorem exec_aliasState : exec (.kilnRead aliasRef aliasReads) aliasState =
    .next ((aliasRead.storeAs 64 aliasKey 0 ((aliasRead.kilnAt 0).activeBytes 0 1)).finish aliasRef 0 0) := by
  obtain ⟨hcmd, hstage, hop, hbusy⟩ := alias_started
  obtain ⟨-, hfirst⟩ := alias_masterFirst
  unfold aliasRead at hfirst
  simp only [exec, execKilnRead, runCmd, hcmd, hstage, hop, hbusy, alias_cmdCtx, alias_blocks, alias_first, alias_kiln,
    alias_address, alias_inRange, alias_ownBlocks, alias_kilnLost, alias_unitsWait, hfirst, List.range_one, List.foldl_cons,
    List.foldl_nil, Bool.not_true, Bool.not_false, Bool.or_self, Bool.false_eq_true, true_and, or_false, one_ne_zero, if_true,
    if_false]
  rfl

/-- Refutes O39: KILN_READ stores block 1 of `aliasState`, and not block 0, since the correction that it meets while it reads moves the
allocation of `aliasVi`. -/
theorem not_kilnsWriteAndObeyCommands : ¬ Obligations.KilnsWriteAndObeyCommands := by
  rintro ⟨-, hread, -⟩
  obtain ⟨-, hread⟩ := hread aliasRef aliasCmd aliasKey aliasReads aliasState alias_started alias_cmdCtx.symm
    (by rw [alias_blocks]; decide) (by rw [alias_address, alias_blocks]; exact alias_inRange) alias_ownBlocks
  rw [alias_kiln] at hread
  obtain ⟨u, hexec, -, -, -, hmem⟩ := hread alias_kilnLost alias_unitsWait
  obtain rfl := Host.Outcome.next.inj (exec_aliasState.symm.trans hexec)
  obtain ⟨hbefore, -⟩ := alias_masterFirst
  obtain ⟨hblock0, hblock1⟩ := alias_master
  simp only [State.mem_finish, alias_blocks, alias_first, alias_address, hbefore, List.range_one, List.foldl_cons, List.foldl_nil]
    at hmem
  have hsame : memGet (aliasRead.storeAs 64 aliasKey 0 ((aliasRead.kilnAt 0).activeBytes 0 1)).mem.host 0 =
      memGet (aliasRead.storeAs 64 aliasKey 0 ((aliasRead.kilnAt 0).activeBytes 0 0)).mem.host 0 :=
    congrArg (fun m : Memory => memGet m.host 0) hmem
  rw [alias_byte 1 hblock1, alias_byte 0 hblock0] at hsame
  exact absurd hsame (by decide)

end Sys2Proof.Machine

/-! PROOFS. O40: STEP_OPEN and its execution, STEP_CLOSE, STEP_COMMIT and the evaluation window. -/

namespace Sys2Proof.Machine

namespace State

/-! ### What an illegal sequence leaves of the steps and the Kilns -/

theorem steps_illegalCmd {s : State} {r : CmdRef} {c : Cmd} (h : s.cmd? r = some c) (reason : Nat) :
    (s.illegalCmd r reason).steps = s.steps :=
  (congrArg State.steps (illegalCmd_frame h reason) :)

theorem kilns_illegalCmd {s : State} {r : CmdRef} {c : Cmd} (h : s.cmd? r = some c) (reason : Nat) :
    (s.illegalCmd r reason).kilns = s.kilns :=
  (congrArg State.kilns (illegalCmd_frame h reason) :)

/-! ### Parts that a command's end keeps -/

theorem steps_finish (s : State) (r : CmdRef) (status detail : Nat) : (s.finish r status detail).steps = s.steps :=
  (congrArg State.steps (s.finish_queues r status detail) :)

theorem steps_keepBusy (s : State) (r : CmdRef) : (s.keepBusy r).steps = s.steps :=
  (congrArg State.steps (s.keepBusy_queues r) :)

theorem conv_keepBusy (s : State) (r : CmdRef) : (s.keepBusy r).conv = s.conv :=
  (congrArg State.conv (s.keepBusy_queues r) :)

/-! ### The latching of a table by every Kiln (R325) -/

theorem kilnAt_foldl_putKiln_of_notMem (f : Kiln → Kiln) {l : List Nat} {k : Nat} (hk : k ∉ l) (s : State) :
    (l.foldl (fun u i => u.putKiln i (f (u.kilnAt i))) s).kilnAt k = s.kilnAt k := by
  refine List.foldlRecOn (motive := fun t : State => t.kilnAt k = s.kilnAt k) l _ rfl fun t ht i hi => ?_
  have hne : k ≠ i := fun h => hk (h ▸ hi)
  exact (t.kilnAt_putKiln_ne i _ hne).trans ht

/-- A change made of each Kiln of a list without repetition reaches each of them once. -/
theorem kilnAt_foldl_putKiln (f : Kiln → Kiln) {l : List Nat} (hl : l.Nodup) {k : Nat} (hk : k ∈ l) (s : State) :
    (l.foldl (fun u i => u.putKiln i (f (u.kilnAt i))) s).kilnAt k = f (s.kilnAt k) := by
  induction l generalizing s with
  | nil => exact absurd hk List.not_mem_nil
  | cons i l ih =>
    obtain ⟨hi, hl⟩ := List.nodup_cons.mp hl
    rw [List.foldl_cons]
    rcases List.mem_cons.mp hk with rfl | hk
    · rw [kilnAt_foldl_putKiln_of_notMem f hi, kilnAt_putKiln_self]
    · have hne : k ≠ i := fun h => hi (h ▸ hk)
      rw [ih hl hk, kilnAt_putKiln_ne _ _ _ hne]

end State

/-- A Kiln with a table latched behind the last one of another step. -/
def Kiln.latched (x : Kiln) (t : LatchedTable) : Kiln :=
  let old := x.tables.filter (fun y => y.step != t.step)
  { x with tables := old.drop (old.length - 1) ++ [t] }

theorem Kiln.getLast?_tables_latched (x : Kiln) (t : LatchedTable) : (x.latched t).tables.getLast? = some t :=
  List.getLast?_concat

theorem Kiln.length_tables_latched_le (x : Kiln) (t : LatchedTable) : (x.latched t).tables.length ≤ 2 := by
  simp only [Kiln.latched, List.length_append, List.length_drop, List.length_singleton]
  omega

namespace State

theorem latchAll_eq_foldl (s : State) (t : LatchedTable) :
    s.latchAll t = (List.range 8).foldl (fun u i => u.putKiln i ((u.kilnAt i).latched t)) s := rfl

theorem kilnAt_latchAll (s : State) (t : LatchedTable) {k : Nat} (hk : k < 8) :
    (s.latchAll t).kilnAt k = (s.kilnAt k).latched t := by
  rw [latchAll_eq_foldl]
  exact kilnAt_foldl_putKiln (fun x => x.latched t) List.nodup_range (List.mem_range.mpr hk) s

theorem latchAll_frame (s : State) (t : LatchedTable) : s.latchAll t = { s with kilns := (s.latchAll t).kilns } := by
  rw [latchAll_eq_foldl]
  exact List.foldlRecOn (motive := fun u : State => u = { s with kilns := u.kilns }) _ _ rfl fun u hu i _ =>
    congrArg (fun v : State => v.putKiln i ((u.kilnAt i).latched t)) hu

/-! ### The opening of a step (R343) -/

theorem openedFor_frame (s : State) (q : OpenReq) :
    s.openedFor q = { s with mgmt := (s.openedFor q).mgmt, host := (s.openedFor q).host } := by
  rw [openedFor, finish_queues]
  rfl

/-- The participants' counts and completions reach the dictionary and the queues. -/
theorem openedFor_foldl_frame (l : List OpenReq) (s : State) : l.foldl openedFor s =
    { s with mgmt := (l.foldl openedFor s).mgmt, host := (l.foldl openedFor s).host } := by
  refine List.foldlRecOn (motive := fun t : State => t = { s with mgmt := t.mgmt, host := t.host }) l openedFor rfl
    fun t ht q _ => ?_
  rw [t.openedFor_frame q]
  exact (congrArg (fun u : State => { u with mgmt := (t.openedFor q).mgmt, host := (t.openedFor q).host }) ht :)

/-- The Kilns have latched the tables of all participants as those of step `st`, and each participant's command has completed. -/
def opened (s : State) (st : BitVec 32) : State :=
  s.steps.reqs.foldl openedFor (s.latchAll { step := st, entries := s.latchTables })

theorem opened_frame (s : State) (st : BitVec 32) : s.opened st =
    { s with mgmt := (s.opened st).mgmt, host := (s.opened st).host, kilns := (s.opened st).kilns } := by
  rw [opened, openedFor_foldl_frame, latchAll_frame]

theorem kilns_opened (s : State) (st : BitVec 32) :
    (s.opened st).kilns = (s.latchAll { step := st, entries := s.latchTables }).kilns := by
  rw [opened, openedFor_foldl_frame]

theorem kilnAt_opened (s : State) (st : BitVec 32) {k : Nat} (hk : k < 8) :
    (s.opened st).kilnAt k = (s.kilnAt k).latched { step := st, entries := s.latchTables } := by
  rw [← s.kilnAt_latchAll _ hk, kilnAt, kilns_opened, ← kilnAt]

/-- R344, by the model's reading (log entry 64): the generation behind that of the newest step without a decision. -/
theorem bornStep_gen_of_undecided {s : State} {x : LiveStep} (h : s.steps.undecided.getLast? = some x) (st : BitVec 32) :
    (s.bornStep st).gen = x.gen + 1 := by
  simp only [bornStep, Steps.readGen, h]

theorem bornStep_gen_of_decided {s : State} (h : s.steps.undecided = []) (st : BitVec 32) :
    (s.bornStep st).gen = s.steps.gen := by
  simp only [bornStep, Steps.readGen, h, List.getLast?_nil]

end State

theorem exec_stepOpenExecute_ready {s : State} {st : BitVec 32} (hnext : s.steps.next = some st) (hready : s.openReady = true) :
    exec .stepOpenExecute s = .next { s.opened st with
      steps := { (s.opened st).steps with
        closed := (s.opened st).steps.open_, open_ := some (s.bornStep st), next := some (stepAfter st), reqs := [],
        participants := [], submitted := (s.opened st).steps.submitted.erase st.toNat }
      conv.stepReady := true } := by
  show execStepOpenExecute s = _
  simp only [execStepOpenExecute, hnext, hready, if_true]
  rfl

theorem exec_stepOpenExecute_waits {s : State} (h : s.steps.next = none ∨ s.openReady = false) :
    exec .stepOpenExecute s = .next s := by
  show execStepOpenExecute s = _
  unfold execStepOpenExecute
  rcases h with hnone | hnot
  · rw [hnone]
  · rw [hnot]
    split <;> rfl

/-! ### What each command of the steps makes of a state in which it has started -/

section Commands

variable {s : State} {r : CmdRef} {c : Cmd}

theorem exec_stepOpen_range (h : Safety.started s r 0x28 c) (hcount : c.arg 32 13 ≠ 0)
    (hrange : s.inRange (s.cmdCtx r) (c.arg 64 48) (32 * c.arg 32 13) .load = false) :
    exec (.stepOpen r) s = .next (s.finish r 5 0) := by
  show execStepOpen r s = _
  rw [execStepOpen, runCmd_started _ h]
  exact congrArg Host.Outcome.next (if_pos ⟨Nat.pos_of_ne_zero hcount, by rw [hrange]; rfl⟩)

/-- The state in which the command at `r` has joined the opening of the step that it names. -/
def State.joined (s : State) (r : CmdRef) (c : Cmd) : State :=
  let st := BitVec.ofNat 32 (c.arg 0 32)
  { s with steps.next := some st, steps.participants := s.participantsOf st,
           steps.reqs := s.steps.reqs ++
             [{ ctx := s.cmdCtx r, step := st, table := c.arg 64 48, count := c.arg 32 13, cmd := r }] }

theorem exec_stepOpen (h : Safety.started s r 0x28 c)
    (htable : c.arg 32 13 = 0 ∨ s.inRange (s.cmdCtx r) (c.arg 64 48) (32 * c.arg 32 13) .load = true) :
    exec (.stepOpen r) s = .next (if s.badOpen (s.cmdCtx r) (BitVec.ofNat 32 (c.arg 0 32)) then s.illegalCmd r 5
      else (s.joined r c).keepBusy r) := by
  have hin : ¬(0 < c.arg 32 13 ∧ (!s.inRange (s.cmdCtx r) (c.arg 64 48) (32 * c.arg 32 13) .load) = true) := by
    rintro ⟨hpos, hout⟩
    rcases htable with hzero | hrange
    · omega
    · simp [hrange] at hout
  show execStepOpen r s = _
  rw [execStepOpen, runCmd_started _ h]
  exact congrArg Host.Outcome.next (if_neg hin)

theorem exec_stepClose (h : Safety.started s r 0x29 c) (hmode : c.arg 32 1 = 0) {x : LiveStep} (hopen : s.steps.open_ = some x) :
    exec (.stepClose r) s = .next (if x.step.toNat = c.arg 0 32 ∧ !x.shut then
      ({ s with steps.open_ := some { x with shut := true } } : State).finish r 0 0 else s.illegalCmd r 5) := by
  show execStepClose r s = _
  rw [execStepClose, runCmd_started _ h]
  simp only [hmode, hopen, zero_ne_one, if_false]

theorem exec_stepCloseAbort (h : Safety.started s r 0x29 c) (hmode : c.arg 32 1 = 1) :
    exec (.stepCloseAbort r) s = .next (if s.steps.live.any (fun x => x.step == BitVec.ofNat 32 (c.arg 0 32)) then
      (s.onStep (BitVec.ofNat 32 (c.arg 0 32)) (fun x => { x with abortPending := x.abortPending ++ [r] })).keepBusy r
      else s.illegalCmd r 5) := by
  show execStepCloseAbort r s = _
  rw [execStepCloseAbort, runCmd_started _ h]
  simp only [hmode, one_ne_zero, if_false]

theorem exec_stepCommit_passed (h : Safety.started s r 0x2A c) {rev : Nat}
    (hfinal : s.steps.lastFinal = some (BitVec.ofNat 32 (c.arg 0 32), 1, rev)) :
    exec (.stepCommit r) s = .next (if s.steps.deciding.any (fun y => y.step == BitVec.ofNat 32 (c.arg 0 32)) then
      ({ s with steps.commitWait := s.steps.commitWait ++ [(BitVec.ofNat 32 (c.arg 0 32), r)] } : State).keepBusy r
      else s.finish r 0 0) := by
  rw [exec_stepCommit, execStepCommit, runCmd_started _ h]
  simp only [hfinal, ne_eq, not_true_eq_false, or_self, if_false]

theorem exec_evalOpen (h : Safety.started s r 0x2B c) :
    exec (.evalOpen r) s = .next (if !s.steps.undecided.isEmpty ∨ s.steps.evalWindow ∨ !s.steps.evalReq.isEmpty then
      s.illegalCmd r 5 else ({ s with steps.evalReq := [r], conv.stepReady := true } : State).keepBusy r) := by
  show execEvalOpen r s = _
  rw [execEvalOpen, runCmd_started _ h]

theorem exec_evalClose (h : Safety.started s r 0x2C c) :
    exec (.evalClose r) s = .next (if !s.steps.evalWindow then s.illegalCmd r 5 else if s.windowKernels then s
      else ({ s with steps.evalWindow := false, steps.evalStart := none } : State).finish r 0 0) := by
  show execEvalClose r s = _
  rw [execEvalClose, runCmd_started _ h]

end Commands

/-- Settles O40: each command is run once by its `exec_` lemma above, case by case of what it asks of the steps; what it
leaves is read off the frames of the illegal sequence, of a command that ends and of the opening. -/
theorem stepsOpenCloseAndCommit : Obligations.StepsOpenCloseAndCommit := by
  refine ⟨⟨?joins, ?range, ?execute, ?waits, ?born⟩, ?close, ?abort, ?commit, ?evalOpen, ?evalClose⟩
  case joins =>
    rintro r c k s h rfl htable
    have hcmd := cmd?_of_started h
    refine ⟨_, exec_stepOpen h htable, fun hgood => ?_, fun hbad => ?_⟩
    · rw [hgood, if_neg Bool.false_ne_true]
      have hsteps := State.steps_keepBusy (s.joined r c) r
      exact ⟨congrArg Steps.next hsteps, congrArg Steps.participants hsteps, congrArg Steps.reqs hsteps,
        State.cmd?_keepBusy hcmd, (State.keepBusy_queues _ r).trans (by rw [hsteps, State.joined])⟩
    · rw [hbad, if_pos rfl]
      exact ⟨State.steps_illegalCmd hcmd 5, State.kilns_illegalCmd hcmd 5⟩
  case range =>
    intro r c s h hcount hrange
    exact ⟨_, exec_stepOpen_range h hcount hrange, Safety.done_finish (cmd?_of_started h) 5 0, s.finish_queues r 5 0⟩
  case execute =>
    intro st s hnext hready
    have hframe := s.opened_frame st
    refine ⟨_, exec_stepOpenExecute_ready hnext hready, ?_, ?_, ?_, fun k hk => ?_⟩
    · rw [hframe]
    · rw [hframe]
    · rw [hframe]
    · have hkiln := s.kilnAt_opened st hk
      refine ⟨?_, ?_, ?_⟩
      · exact (congrArg (fun x : Kiln => x.tables.getLast?) hkiln).trans (Kiln.getLast?_tables_latched _ _)
      · exact (congrArg (fun x : Kiln => x.tables.length) hkiln).trans_le (Kiln.length_tables_latched_le _ _)
      · exact (congrArg Kiln.masters hkiln :)
  case waits => exact fun s h => exec_stepOpenExecute_waits h
  case born =>
    exact fun st s => ⟨rfl, fun x hx => State.bornStep_gen_of_undecided hx st, fun hnone => State.bornStep_gen_of_decided hnone st⟩
  case close =>
    intro r c x s h hmode hopen
    have hcmd := cmd?_of_started h
    refine ⟨_, exec_stepClose h hmode hopen, fun hstep hshut => ?_, fun hnot => ?_⟩
    · rw [if_pos ⟨hstep, by rw [hshut]; rfl⟩]
      have hsteps := State.steps_finish { s with steps.open_ := some { x with shut := true } } r 0 0
      exact ⟨(State.finish_queues _ _ _ _).trans (by rw [hsteps]), hsteps, Safety.done_finish (c := c) (by exact hcmd) 0 0⟩
    · rw [if_neg (by rcases hnot with hnot | hnot <;> simp [hnot])]
      exact State.steps_illegalCmd hcmd 5
  case abort =>
    intro r c s h hmode
    have hcmd := cmd?_of_started h
    refine ⟨_, exec_stepCloseAbort h hmode, fun x hopen hstep => ?_, fun hnone => ?_⟩
    · rw [if_pos (by simp [Steps.live, hopen, hstep])]
      exact ⟨by simp [State.steps_keepBusy, State.onStep, hopen, hstep], State.cmd?_keepBusy hcmd⟩
    · rw [if_neg (by simpa using hnone)]
      exact State.steps_illegalCmd hcmd 5
  case commit =>
    intro r c st rev s h hfinal
    have hcmd := cmd?_of_started h
    by_cases hst : st = BitVec.ofNat 32 (c.arg 0 32)
    · subst hst
      refine ⟨_, exec_stepCommit_passed h hfinal, fun _ hnone => ?_, fun y _ hdeciding hy => ?_, fun hne => absurd rfl hne⟩
      · rw [if_neg (by simpa [Option.any_eq_true] using hnone)]
        exact ⟨Safety.done_finish hcmd 0 0, s.finish_queues r 0 0⟩
      · rw [if_pos (by simp [hdeciding, hy])]
        exact ⟨State.steps_keepBusy _ r, State.cmd?_keepBusy hcmd⟩
    · have hother : ∀ v, s.steps.lastFinal ≠ some (BitVec.ofNat 32 (c.arg 0 32), 1, v) := by simp [hfinal, hst]
      exact ⟨_, exec_stepCommit_illegal h hother, fun heq => absurd heq hst, fun _ heq => absurd heq hst,
        fun _ => State.steps_illegalCmd hcmd 5⟩
  case evalOpen =>
    intro r c s h
    have hcmd := cmd?_of_started h
    refine ⟨_, exec_evalOpen h, fun hdecided hclosed hnone => ?_, fun hbusy => ?_⟩
    · rw [if_neg (by simp [hdecided, hclosed, hnone])]
      have hsteps := State.steps_keepBusy { s with steps.evalReq := [r], conv.stepReady := true } r
      have hconv := State.conv_keepBusy { s with steps.evalReq := [r], conv.stepReady := true } r
      exact ⟨hsteps, hconv, State.cmd?_keepBusy hcmd, (State.keepBusy_queues _ _).trans (by rw [hsteps, hconv])⟩
    · rw [if_pos (by simpa using hbusy)]
      exact State.steps_illegalCmd hcmd 5
  case evalClose =>
    intro r c s h
    have hcmd := cmd?_of_started h
    refine ⟨_, exec_evalClose h, fun hwindow hkernels => ?_, fun hwindow hkernels => ?_, fun hwindow => ?_⟩
    · rw [if_neg (by simp [hwindow]), if_neg (by simp [hkernels])]
      have hsteps := State.steps_finish { s with steps.evalWindow := false, steps.evalStart := none } r 0 0
      exact ⟨Safety.done_finish (c := c) (by exact hcmd) 0 0, hsteps, (State.finish_queues _ _ _ _).trans (by rw [hsteps])⟩
    · rw [if_neg (by simp [hwindow]), if_pos hkernels]
    · rw [if_pos (by simp [hwindow])]
      exact State.steps_illegalCmd hcmd 5

end Sys2Proof.Machine

/-! PROOFS. What sending a packet changes: the ports that are up, the packets on their way and the counters of the dictionary. The
statements on the fabric rest on it. -/

namespace Sys2Proof.Machine

namespace State

/-! ### Ports read back -/

@[simp] theorem port_putPort_self (s : State) (p : Nat) (x : Port) : (s.putPort p x).port p = x := Bank.get_set_self _ _ _ _

theorem port_putPort_ne (s : State) {p q : Nat} (x : Port) (h : q ≠ p) : (s.putPort p x).port q = s.port q :=
  Bank.get_set_ne _ _ _ _ _ h

@[simp] theorem port_bumpBy (s : State) (o i n p : Nat) : (s.bumpBy o i n).port p = s.port p := rfl
@[simp] theorem port_bump (s : State) (o i p : Nat) : (s.bump o i).port p = s.port p := rfl
@[simp] theorem port_setObj (s : State) (o i v p : Nat) : (s.setObj o i v).port p = s.port p := rfl

@[simp] theorem port_caskPost (s : State) (t src : Nat) (payload : Bytes) (flags p : Nat) :
    (s.caskPost t src payload flags).port p = s.port p :=
  (congrArg (fun u : State => u.port p) (s.caskOnly_caskPost t src payload flags) :)

@[simp] theorem obj_putPort (s : State) (p : Nat) (x : Port) (o i : Nat) : (s.putPort p x).obj o i = s.obj o i := rfl

@[simp] theorem obj_bumpBy_self (s : State) (o i n : Nat) : (s.bumpBy o i n).obj o i = (s.obj o i + n) % 2 ^ 64 :=
  s.obj_setObj_self o i _

/-- The port that a flow uses is up (R374). -/
theorem up_of_flowPort {s : State} {b port : Nat} {p : Packet} (h : s.flowPort b p = some port) : (s.port port).up = true := by
  unfold State.flowPort at h
  dsimp only at h
  split at h
  · exact absurd h (by simp)
  · exact (List.mem_filter.1 (List.mem_of_getElem? h)).2

/-! ### A packet on its way (R358, R371 to R375) -/

/-- `t` differs from `s` in ports, in packets on their way and in counters; the ports that are down stand as they were. -/
structure linkOnly (t s : State) : Prop where
  frame : t = { s with fab := { s.fab with ports := t.fab.ports, delayed := t.fab.delayed, sent := t.fab.sent },
                       mgmt.dict := t.mgmt.dict }
  down : ∀ p, (s.port p).up = false → t.port p = s.port p

theorem linkOnly.refl (s : State) : s.linkOnly s := ⟨rfl, fun _ _ => rfl⟩

theorem linkOnly.trans {r t s : State} (g : r.linkOnly t) (h : t.linkOnly s) : r.linkOnly s :=
  ⟨g.frame.trans (congrArg (fun u : State =>
    { u with fab := { u.fab with ports := r.fab.ports, delayed := r.fab.delayed, sent := r.fab.sent }, mgmt.dict := r.mgmt.dict })
      h.frame),
    fun p hdown => (g.down p ((congrArg Port.up (h.down p hdown)).trans hdown)).trans (h.down p hdown)⟩

theorem linkOnly_bump (s : State) (o i : Nat) : (s.bump o i).linkOnly s := ⟨rfl, fun _ _ => rfl⟩

theorem linkOnly_txFrame (s : State) {port : Nat} (m : Moving) (h : (s.port port).up = true) : (s.txFrame port m).linkOnly s := by
  refine ⟨rfl, fun p hdown => s.port_putPort_ne _ ?_⟩
  rintro rfl
  exact absurd h (by simp [hdown])

theorem linkOnly_sendPacket (n : Nat) (m : Moving) (s : State) : (State.sendPacket n m s).linkOnly s := by
  induction n generalizing m s with
  | zero => exact .refl s
  | succ n ih =>
    unfold State.sendPacket
    dsimp only
    split
    · exact ⟨rfl, fun _ _ => rfl⟩
    · split
      · split
        · exact (ih _ _).trans (s.linkOnly_bump _ _)
        · exact s.linkOnly_bump _ _
      · split
        · exact .refl s
        · next port hport =>
          split
          · exact ⟨rfl, fun _ _ => rfl⟩
          · exact s.linkOnly_txFrame _ (up_of_flowPort hport)

theorem linkOnly_send (s : State) (p : Packet) : (s.send p).linkOnly s := linkOnly_sendPacket 2 _ s

theorem linkOnly_sendAll (s : State) (l : List Moving) : (s.sendAll l).linkOnly s :=
  List.foldlRecOn (motive := fun t : State => t.linkOnly s) l _ (.refl s) fun t ht m _ => (linkOnly_sendPacket 2 m t).trans ht

end State

end Sys2Proof.Machine

/-! PROOFS. O44: the frames, acknowledgements and resends of a port, ports that go down and come up, and region windows. -/

namespace Sys2Proof.Machine

namespace State

/-! ### FABRIC_STATE (R508, Table 11.12) -/

/-- FABRIC_STATE and the time reference are entries of the dictionary. -/
theorem ownReference_frame (s : State) : s.ownReference = { s with mgmt.dict := s.ownReference.mgmt.dict } := by
  unfold State.ownReference
  split <;> rfl

theorem noteFabric_frame (s : State) : s.noteFabric = { s with mgmt.dict := s.noteFabric.mgmt.dict } :=
  (s.setObj 0x50000 0 s.fabricState).ownReference_frame

@[simp] theorem port_noteFabric (s : State) (p : Nat) : s.noteFabric.port p = s.port p :=
  (congrArg (fun u : State => u.port p) s.noteFabric_frame :)

@[simp] theorem clock_noteFabric (s : State) : s.noteFabric.clock = s.clock := (congrArg State.clock s.noteFabric_frame :)

@[simp] theorem mem_noteFabric (s : State) : s.noteFabric.mem = s.mem := (congrArg State.mem s.noteFabric_frame :)

theorem obj_noteFabric (s : State) {o : Nat} (hstate : o ≠ 0x50000) (hoffset : o ≠ 0x70010) (href : o ≠ 0x70011) :
    s.noteFabric.obj o 0 = s.obj o 0 := by
  have hnote : ∀ p v, o ≠ p → ∀ t : State, (t.setObj p 0 v).obj o 0 = t.obj o 0 := fun p v hp t =>
    t.obj_setObj_ne p 0 v o 0 (by unfold okey; omega)
  unfold State.noteFabric State.ownReference
  split
  · rw [hnote _ _ hstate]
  · rw [hnote _ _ hoffset, hnote _ _ href, hnote _ _ hstate]

/-! ### FRAME_RECEIVE (R370, R371) -/

/-- The codewords that FEC corrected and could not correct are counted. -/
def fecCounted (s : State) (p corrected uncorrectable : Nat) : State :=
  (s.bumpBy 0x50104 p corrected).bumpBy 0x50105 p uncorrectable

theorem obj_fecCounted_corrected (s : State) (p c e : Nat) :
    (s.fecCounted p c e).obj 0x50104 p = (s.obj 0x50104 p + c) % 2 ^ 64 := by
  rw [fecCounted, obj_bumpBy_ne _ _ _ (by decide), obj_bumpBy_self]

theorem obj_fecCounted_uncorrectable (s : State) (p c e : Nat) :
    (s.fecCounted p c e).obj 0x50105 p = (s.obj 0x50105 p + e) % 2 ^ 64 := by
  rw [fecCounted, obj_bumpBy_self, obj_bumpBy_ne _ _ _ (by decide)]

theorem obj_fecCounted_ne (s : State) (p c e : Nat) {o : Nat} (hc : o ≠ 0x50104) (he : o ≠ 0x50105) :
    (s.fecCounted p c e).obj o p = s.obj o p := by
  rw [fecCounted, obj_bumpBy_ne _ _ _ he, obj_bumpBy_ne _ _ _ hc]

/-- A port that has accepted a frame: it acknowledges the frame, returns its units and counts on. -/
def portAccepted (x : Port) (f : Packet) : Port :=
  { x with rxSeq := x.rxSeq + 1, nakSent := false, ackSent := some f.lseq,
           returned := x.returned.set 0 f.vc.toNat (x.returned.get 0 f.vc.toNat + frameBlocks f) }

/-- The state in which a port has accepted a frame that no uncorrectable codeword touches. -/
def frameAccepted (s : State) (p : Nat) (f : Packet) (corrected : Nat) : State :=
  ((s.fecCounted p corrected 0).putPort p (portAccepted (s.port p) f)).bump 0x50101 p

/-- The state in which a port has sent a NAK. -/
def frameRejected (s : State) (p corrected uncorrectable : Nat) : State :=
  (s.fecCounted p corrected uncorrectable).putPort p { s.port p with nakSent := true }

section Receive

variable {s : State} {p : Fin 32} {f : Packet} {crc : BitVec 32} (c e : Nat)

theorem exec_frameReceive_down (h : (s.port p.val).up = false) : exec (.frameReceive p f crc c e) s = .next s := by
  show execFrameReceive p f crc c e s = _
  simp [execFrameReceive, h]

variable (hup : (s.port p.val).up = true)
include hup

theorem exec_frameReceive_accepted (hcrc : crc = packetCrc f) (hseq : f.lseq = (s.port p.val).rxSeq) :
    exec (.frameReceive p f crc c 0) s = .next (if f.type = 0 ∨ f.dst.toNat = s.node then s.frameAccepted p.val f c
      else State.sendPacket 2 ((s.frameAccepted p.val f c).movingFrom p.val f) (s.frameAccepted p.val f c)) := by
  have hnode : (s.frameAccepted p.val f c).node = s.node := by
    unfold State.node frameAccepted fecCounted
    rw [obj_bump_ne _ _ _ _ _ (by unfold okey; omega), obj_putPort, State.bumpBy, obj_setObj_ne _ _ _ _ _ _ (by unfold okey; omega),
      State.bumpBy, obj_setObj_ne _ _ _ _ _ _ (by unfold okey; omega)]
  show execFrameReceive p f crc c 0 s = _
  unfold execFrameReceive
  dsimp only
  rw [if_neg (by simp [hup]), if_neg (by simp [hcrc]), if_neg (by simp [hseq]), ← hnode]
  rfl

theorem exec_frameReceive_outOfOrder (hcrc : crc = packetCrc f) (hseq : f.lseq ≠ (s.port p.val).rxSeq) :
    exec (.frameReceive p f crc c 0) s = .next (s.frameRejected p.val c 0) := by
  show execFrameReceive p f crc c 0 s = _
  unfold execFrameReceive
  dsimp only
  rw [if_neg (by simp [hup]), if_neg (by simp [hcrc]), if_pos hseq]
  rfl

theorem exec_frameReceive_bad (h : e ≠ 0 ∨ crc ≠ packetCrc f) :
    exec (.frameReceive p f crc c e) s = .next ((s.frameRejected p.val c e).bump 0x50102 p.val) := by
  show execFrameReceive p f crc c e s = _
  unfold execFrameReceive
  dsimp only
  rw [if_neg (by simp [hup]), if_pos h]
  rfl

end Receive

/-! ### Acknowledgements, resends and credits (R371) -/

theorem releaseDelayed_none {s : State} (h : s.fab.delayed = []) : s.releaseDelayed = s := by
  rw [State.releaseDelayed, h]
  exact congrArg (fun l => ({ s with fab.delayed := l } : State)) h.symm

/-- A port whose frames up to an LSEQ have been acknowledged. -/
def portAcked (x : Port) (l : BitVec 12) : Port :=
  { x with replay := x.replay.filter (fun f => serialNewer 12 f.pkt.lseq.toNat l.toNat) }

/-- A port that has sent every unacknowledged frame again. -/
def portResent (x : Port) : Port := { x with replay := x.replay.map (fun f => { f with resent := f.resent + 1 }) }

section Replay

variable (s : State) (p : Fin 32) (l : BitVec 12)

/-- LINK_ACK changes no more than the replay buffer of its port while no packet waits. -/
theorem exec_linkAck (hnone : s.fab.delayed = []) : exec (.linkAck p l) s = .next (s.putPort p.val (portAcked (s.port p.val) l)) ∨
    exec (.linkAck p l) s = .next s ∧ (portAcked (s.port p.val) l).replay = (s.port p.val).replay := by
  show execLinkAck p l s = _ ∨ execLinkAck p l s = _ ∧ _
  unfold execLinkAck
  dsimp only
  split
  case isTrue hlen => exact .inr ⟨rfl, List.filter_eq_self.2 (List.length_filter_eq_length_iff.1 hlen)⟩
  case isFalse => exact .inl (congrArg Host.Outcome.next (releaseDelayed_none (by exact hnone)))

variable {s p l}

/-- A NAK that names the oldest frame of the buffer, or one before, has every frame sent again. -/
theorem exec_nak (h : ∀ f ∈ (s.port p.val).replay, f.pkt.lseq = l ∨ serialNewer 12 f.pkt.lseq.toNat l.toNat = true) :
    exec (.nak p l) s = .next (s.resendAll p.val) := by
  have hkept : (s.port p.val).replay.filter (fun f => f.pkt.lseq == l || serialNewer 12 f.pkt.lseq.toNat l.toNat) =
      (s.port p.val).replay := List.filter_eq_self.2 (by simpa using h)
  show execNak p l s = _
  unfold execNak
  dsimp only
  rw [hkept, if_pos rfl]

theorem resendAll_some (h : (s.port p.val).replay ≠ []) : s.resendAll p.val =
    (s.putPort p.val (portResent (s.port p.val))).bumpBy 0x50103 p.val (s.port p.val).replay.length :=
  if_neg (by simpa using h)

end Replay

/-! ### A port goes down (R372, R375) -/

theorem reroute_down {s : State} {p : Nat} (held : List Moving) (h : (s.port p).up = false) : (s.reroute held).port p = s.port p :=
  (linkOnly_sendAll _ _).down p h

/-- 50.031 of a port that goes down: it has no cable, has failed with a second degraded lane, or retrains. -/
def downState (s : State) (p : Nat) : Nat :=
  if s.cabled p = false then 0 else if 2 ≤ (s.health.fabDegraded.get [] p).length then 4 else 1

theorem up_downState (s : State) (p : Nat) : ({ state := s.downState p } : Port).up = false := by
  unfold downState
  split
  · rfl
  · split <;> rfl

/-- No frame leaves over a port that has just gone down. -/
theorem port_portDown {s : State} {p : Nat} (cause : Nat) (h : (s.port p).up = true) :
    (s.portDown p cause).port p = { state := s.downState p } := by
  have hstate : (if !s.cabled p then 0 else if 2 ≤ (s.health.fabDegraded.get [] p).length then 4 else 1) = s.downState p := by
    simp [downState]
  unfold State.portDown
  dsimp only
  have hdown : (((s.putPort p { state := s.downState p }).bump 0x50106 p).caskPost 0x0501 (portSource p 12)
      (leBytes 128 cause)).port p = { state := s.downState p } := by simp
  rw [if_neg (by simp [h]), hstate, port_noteFabric, reroute_down _ ((congrArg Port.up hdown).trans (up_downState s p)), hdown]

section PortDown

variable {s : State} {p : Fin 32} {limit : Bool}

theorem exec_fabPortDown (h : limit = true → ∃ f ∈ (s.port p.val).replay, 8 ≤ f.resent) :
    exec (.fabPortDown p limit) s = .next (s.portDown p.val (if limit then 1 else 0)) := by
  refine if_neg ?_
  cases limit with
  | false => simp
  | true =>
    obtain ⟨f, hf, hresent⟩ := h rfl
    intro hall
    have hless : ∀ f ∈ (s.port p.val).replay, f.resent < 8 := by simpa using hall
    exact absurd (hless f hf) (by omega)

theorem exec_fabPortDown_early (hlimit : limit = true) (h : ∀ f ∈ (s.port p.val).replay, f.resent < 8) :
    exec (.fabPortDown p limit) s = .next s :=
  if_pos (by simpa [hlimit] using h)

end PortDown

/-! ### A port comes up (R471, R507, R508) -/

/-- The measurement of a neighbour's time reaches no port. -/
theorem measureTime_port (s : State) (p : Nat) (pr : Probe) (q : Nat) : (s.measureTime p pr).port q = s.port q := by
  unfold State.measureTime
  dsimp only
  split
  · rfl
  · split <;> rfl

/-- R508: the timestamp steps by an offset above 32. -/
theorem measureTime_stepNs (s : State) (p : Nat) (pr : Probe) : (s.measureTime p pr).clock.stepNs =
    s.clock.stepNs + (if 32 < pr.theta then pr.theta.toNat / 5 else 0) := by
  unfold State.measureTime
  dsimp only
  split
  · rfl
  · split <;> rfl

theorem portTrained_sound {s : State} {p : Nat} (h : s.health.fabDegraded.get [] p = []) :
    s.portTrained p = (s.putPort p { state := 2 }).noteFabric := by
  unfold State.portTrained
  rw [h]

theorem exec_fabPortUp_trained {s : State} {p : Fin 32} (pr : Probe) (hstate : (s.port p.val).state = 1)
    (htopo : p.val < s.topoPorts) (hcable : s.cabled p.val = true) (hlanes : s.health.fabDegraded.get [] p.val = []) :
    exec (.fabPortUp p pr) s = .next (((s.putPort p.val { state := 2 }).noteFabric).measureTime p.val pr) := by
  show execFabPortUp p pr s = _
  unfold execFabPortUp
  dsimp only
  have hup : ((s.putPort p.val { state := 2 }).noteFabric.port p.val).up = true := by
    rw [port_noteFabric, port_putPort_self]
    rfl
  simp only [hstate, htopo, hcable, and_self, if_true, portTrained_sound hlanes, hup]

/-! ### NODE_TOPOLOGY_WRITE (R386) -/

/-- Ports that are put down one after another, on ports that are all down. -/
theorem up_foldl_putPort {st : Nat → Nat} (hst : ∀ p, st p ≤ 1) (l : List Nat) {s : State}
    (h : ∀ q, (s.port q).up = false) (q : Nat) : ((l.foldl (fun t p => t.putPort p { state := st p }) s).port q).up = false := by
  refine List.foldlRecOn (motive := fun t : State => ∀ q, (t.port q).up = false) l _ h (fun t ht p _ q => ?_) q
  by_cases hq : q = p
  · subst hq
    rw [port_putPort_self]
    rcases Nat.le_one_iff_eq_zero_or_eq_one.1 (hst q) with hdown | htrains
    · rw [hdown]
      rfl
    · rw [htrains]
      rfl
  · rw [port_putPort_ne _ _ hq]
    exact ht q

theorem mem_retrainAll (s : State) : s.retrainAll.mem = s.mem := by
  unfold State.retrainAll
  dsimp only
  rw [mem_noteFabric]
  exact List.foldlRecOn (motive := fun t : State => t.mem = s.mem) _ _ rfl fun t ht p _ => ht

theorem up_retrainAll (s : State) (p : Nat) : (s.retrainAll.port p).up = false := by
  unfold State.retrainAll
  dsimp only
  rw [port_noteFabric, port_setObj]
  refine up_foldl_putPort (fun q => ?_) _ (fun q => rfl) p
  split <;> omega

/-- The retraining of the ports leaves the objects but FABRIC_STATE and the time reference. -/
theorem obj_retrainAll (s : State) {o : Nat} (hstate : o ≠ 0x50000) (hoffset : o ≠ 0x70010) (href : o ≠ 0x70011) :
    s.retrainAll.obj o 0 = s.obj o 0 := by
  unfold State.retrainAll
  dsimp only
  rw [obj_noteFabric _ hstate hoffset href, obj_setObj_ne _ _ _ _ _ _ (by unfold okey; omega)]
  exact List.foldlRecOn (motive := fun t : State => t.obj o 0 = s.obj o 0) _ _ rfl fun t ht p _ => ht

end State

/-! ### Region windows (R360, R361, R364) -/

/-- A table of the entries that differ from the default, by number. -/
theorem Bank.find?_entries {α : Type} [DecidableEq α] (f : Nat → α) (d : α) (l : List Nat) (i : Nat) :
    Bank.find? ((l.map (fun j => (j, f j))).filter (fun x => x.2 ≠ d)) i =
      if i ∈ l ∧ f i ≠ d then some (f i) else none := by
  induction l with
  | nil => simp [Bank.find?]
  | cons j l ih =>
    by_cases hj : f j = d
    · have hi : i = j → f i = d := fun h => h ▸ hj
      simp only [List.map_cons, List.filter_cons, hj, ne_eq, not_true_eq_false, decide_false, Bool.false_eq_true,
        if_false] at ih ⊢
      rw [ih]
      exact if_congr (by simp; tauto) rfl rfl
    · by_cases hi : j = i
      · subst hi
        simp [hj, Bank.find?]
      · simpa [hj, Bank.find?, hi, Ne.symm hi] using ih

theorem Bank.get_entries {α : Type} [DecidableEq α] (f : Nat → α) (d : α) {l : List Nat} {i : Nat} (h : i ∈ l) :
    Bank.get ((l.map (fun j => (j, f j))).filter (fun x => x.2 ≠ d)) d i = f i := by
  unfold Bank.get
  rw [Bank.find?_entries]
  by_cases hi : f i = d <;> simp [h, hi]

namespace State

section Keys

variable {s : State} {r : CmdRef} {c : Cmd}

/-- The sender key table that REGION_KEYS reads. -/
def readKeys (s : State) (k a : Nat) : Bank KeyEntry :=
  ((List.range 4096).map (fun i => (i, keyEntryOf (leNat (s.readVirt k (a + 16 * i) 16))))).filter
    (fun x => x.2 ≠ { key := 0, cls := 0, valid := false })

theorem get_readKeys (s : State) (k a : Nat) {i : Nat} (h : i < 4096) :
    (s.readKeys k a).get { key := 0, cls := 0, valid := false } i = keyEntryOf (leNat (s.readVirt k (a + 16 * i) 16)) :=
  Bank.get_entries (fun j => keyEntryOf (leNat (s.readVirt k (a + 16 * j) 16))) _ (List.mem_range.2 h)

theorem exec_regionKeys (h : Safety.started s r 0x30 c) (hrange : s.inRange (s.cmdCtx r) (c.arg 0 48) 65536 .load = true) :
    exec (.regionKeys r) s =
      .next ((s.onCtx (s.cmdCtx r) (fun x => { x with keys := s.readKeys (s.cmdCtx r) (c.arg 0 48) })).finish r 0 0) := by
  show execRegionKeys r s = _
  rw [execRegionKeys, runCmd_started _ h, if_neg (by simp [hrange])]
  rfl

end Keys

/-- The window of a block of Table 11.3. -/
def windowOf (k v b : Nat) (l : List Nat) : Window :=
  { key := BitVec.ofNat 64 (fld b 192 64), base := fld b 144 48, size := fld b 123 21, ctx := k, v := v, permA := bit b 3,
    permW := bit b 2, permR := bit b 1, objs := l }

/-- A window opens over some objects. -/
def withWindow (s : State) (w : Nat) (x : Window) : State :=
  let t := x.objs.foldl State.takeObj s
  { t with fab.windows := t.fab.windows.put w x }

theorem fab_withWindow (s : State) (w : Nat) (x : Window) :
    (s.withWindow w x).fab = { s.fab with windows := s.fab.windows.put w x } :=
  congrArg (fun f : Fabric => { f with windows := f.windows.put w x }) (congrArg State.fab (s.takeObjs_objects x.objs) :)

theorem cmd?_withWindow (s : State) (w : Nat) (x : Window) (r : CmdRef) : (s.withWindow w x).cmd? r = s.cmd? r :=
  s.cmd?_takeObjs x.objs r

section Open

variable {s : State} {r : CmdRef} {c : Cmd} (h : Safety.started s r 0x31 c)
  (hrange : s.inRange (s.cmdCtx r) (c.arg 64 48) 32 .load = true) {b : Nat}
  (hb : b = leNat (s.readVirt (s.cmdCtx r) (c.arg 64 48) 32))
include h hrange hb

theorem exec_regionOpen_refused {e : Nat} (hstatus : s.openStatus r.v.val (s.cmdCtx r) (c.arg 0 12) b = .error e) :
    exec (.regionOpen r) s = .next (s.finish r e 0) := by
  subst hb
  show execRegionOpen r s = _
  rw [execRegionOpen, runCmd_started _ h, if_neg (by simp [hrange])]
  simp only [hstatus]

variable {l : List Nat} (hstatus : s.openStatus r.v.val (s.cmdCtx r) (c.arg 0 12) b = .ok l)
include hstatus

theorem exec_regionOpen_stale (hstale : l.any s.objStale = true) : exec (.regionOpen r) s = .next (s.finish r 2 0) := by
  subst hb
  show execRegionOpen r s = _
  rw [execRegionOpen, runCmd_started _ h, if_neg (by simp [hrange])]
  simp only [hstatus, hstale, if_true]

theorem exec_regionOpen_held (hheld : l.any s.objStale = false) : exec (.regionOpen r) s =
    .next ((s.withWindow (c.arg 0 12) (windowOf (s.cmdCtx r) r.v.val b l)).finish r 0 0) := by
  subst hb
  show execRegionOpen r s = _
  rw [execRegionOpen, runCmd_started _ h, if_neg (by simp [hrange])]
  simp only [hstatus, hheld]
  rfl

end Open

section Close

variable {s : State} {w : Nat} {x : Window} (hx : s.fab.windows.find? w = some x)
include hx

theorem fab_closeWindow : (s.closeWindow w).fab = { s.fab with windows := s.fab.windows.erase w } := by
  rw [State.closeWindow, hx]
  have hdropped := State.hostOnly.foldl State.hostOnly_dropObj x.objs { s with fab.windows := s.fab.windows.erase w }
  exact (congrArg State.fab hdropped.frame :)

theorem cmd?_closeWindow (r : CmdRef) : (s.closeWindow w).cmd? r = s.cmd? r := by
  rw [State.closeWindow, hx]
  have hkept := State.fatesKept.foldl State.fatesKept_dropObj x.objs { s with fab.windows := s.fab.windows.erase w }
  exact cmd?_of_host hkept.queues hkept.rings r

end Close

@[simp] theorem fab_finish (s : State) (r : CmdRef) (status detail : Nat) : (s.finish r status detail).fab = s.fab :=
  (congrArg State.fab (s.finish_queues r status detail) :)

@[simp] theorem fab_keepBusy (s : State) (r : CmdRef) : (s.keepBusy r).fab = s.fab := (congrArg State.fab (s.keepBusy_queues r) :)

section Region

variable {s : State} {r : CmdRef} {c : Cmd} {x : Window} (h : Safety.started s r 0x32 c)
  (hx : s.fab.windows.find? (c.arg 0 12) = some x) (hctx : x.ctx = s.cmdCtx r) (hvalid : x.valid = true)
include h hx hctx hvalid

theorem exec_regionClose : exec (.regionClose r) s = .next (if s.windowBusy (c.arg 0 12) then
    ({ s with fab.windows := s.fab.windows.put (c.arg 0 12) { x with valid := false, closing := some r } } : State).keepBusy r
    else (s.closeWindow (c.arg 0 12)).finish r 0 0) := by
  show execRegionClose r s = _
  rw [execRegionClose, runCmd_started _ h]
  simp only [hx]
  rw [if_neg (by simp [hctx, hvalid])]

end Region

end State

/-- Settles O44: one lemma for each command of the links, the ports and the region windows. -/
theorem fabricLinksAndWindows : Obligations.FabricLinksAndWindows := by
  refine ⟨?receive, ?down, ?ack, ?resend, ?credit, ?portDown, ?portUp, ?keys, ?opened, ?close, ?topology, ?refused⟩
  case receive =>
    intro p f crc c e s hup
    refine ⟨?_, ?_, ?_⟩
    · rintro rfl hcrc hseq
      have hexec := State.exec_frameReceive_accepted c hup hcrc hseq
      refine ⟨s.frameAccepted p.val f c, ?_, ?_, ?_, rfl, fun hhere => ?_, fun haway htype => ?_⟩
      · simp [State.frameAccepted, State.portAccepted]
      · rw [State.frameAccepted, State.obj_bump_self, State.obj_putPort, State.obj_fecCounted_ne _ _ _ _ (by decide) (by decide)]
      · rw [State.frameAccepted, State.bump, State.obj_bumpBy_ne _ _ _ (by decide), State.obj_putPort,
          State.obj_fecCounted_corrected]
      · rw [hexec, if_pos hhere.symm]
      · rw [hexec, if_neg (not_or.2 ⟨htype, haway⟩)]
    · rintro rfl hcrc hseq
      exact ⟨_, State.exec_frameReceive_outOfOrder c hup hcrc hseq, State.port_putPort_self _ _ _, rfl⟩
    · intro hbad
      refine ⟨_, State.exec_frameReceive_bad c e hup hbad, State.port_putPort_self _ _ _, ?_, ?_, rfl⟩
      · rw [State.obj_bump_self, State.frameRejected, State.obj_putPort, State.obj_fecCounted_ne _ _ _ _ (by decide) (by decide)]
      · rw [State.bump, State.obj_bumpBy_ne _ _ _ (by decide), State.frameRejected, State.obj_putPort,
          State.obj_fecCounted_uncorrectable]
  case down => exact fun p f crc c e s hdown => State.exec_frameReceive_down c e hdown
  case ack =>
    intro p l s hnone
    rcases State.exec_linkAck s p l hnone with hexec | ⟨hexec, hkept⟩
    · have hport := s.port_putPort_self p.val (State.portAcked (s.port p.val) l)
      exact ⟨_, hexec, rfl, congrArg Port.replay hport, (congrArg Port.txSeq hport :)⟩
    · exact ⟨_, hexec, rfl, hkept.symm, rfl⟩
  case resend =>
    intro p l s _ hsome hframes
    refine ⟨_, State.exec_nak hframes, rfl, ?_, ?_⟩ <;> rw [State.resendAll_some hsome]
    · exact State.port_putPort_self _ _ _
    · rw [State.obj_bumpBy_self, State.obj_putPort]
  case credit =>
    intro p vc n s
    refine ⟨_, rfl, rfl, ?_, ?_, fun q hq => State.port_putPort_ne _ _ hq⟩ <;> simp
  case portDown =>
    intro p limit s hup
    exact ⟨fun h => ⟨_, State.exec_fabPortDown h, State.port_portDown _ hup⟩, State.exec_fabPortDown_early⟩
  case portUp =>
    intro p pr s hstate htopo hcable hlanes
    refine ⟨_, State.exec_fabPortUp_trained pr hstate htopo hcable hlanes, ?_, ?_⟩
    · rw [State.measureTime_port, State.port_noteFabric, State.port_putPort_self]
    · rw [State.measureTime_stepNs, State.clock_noteFabric, State.putPort_clock]
  case keys =>
    intro r c s h hrange
    refine ⟨_, State.exec_regionKeys h hrange, ?_, fun hctx => ?_⟩
    · rw [State.finish_queues, State.onCtx_frame]
    · obtain ⟨x, hx⟩ := Option.ne_none_iff_exists'.1 hctx
      rw [State.onCtx_some hx]
      refine ⟨Safety.done_finish ((State.cmd?_putCtx _ _ _ _).trans (cmd?_of_started h)) 0 0, fun i hi => ?_⟩
      simp only [State.keyEntry, State.ctx?_finish, State.ctx?_putCtx_self, State.get_readKeys s _ _ hi]
  case opened =>
    intro r c s h hrange b
    have hdone := fun status => Safety.done_finish (cmd?_of_started h) status 0
    refine ⟨fun e he => ?_, fun l hl hstale => ?_, fun l hl hheld => ?_⟩
    · exact ⟨_, State.exec_regionOpen_refused h hrange rfl he, hdone e, s.finish_queues _ _ _⟩
    · exact ⟨_, State.exec_regionOpen_stale h hrange rfl hl hstale, hdone 2, s.finish_queues _ _ _⟩
    · have hdone := Safety.done_finish ((State.cmd?_withWindow s (c.arg 0 12) (State.windowOf (s.cmdCtx r) r.v.val b l) r).trans
        (cmd?_of_started h)) 0 0
      refine ⟨_, State.windowOf (s.cmdCtx r) r.v.val b l, State.exec_regionOpen_held h hrange rfl hl hheld, hdone, ?_,
        rfl, rfl, rfl, rfl, rfl, rfl, rfl, fun w hw => ?_⟩
      · rw [State.fab_finish, State.fab_withWindow, Bank.find?_put_self]
      · rw [State.fab_finish, State.fab_withWindow, Bank.find?_put_ne _ _ _ _ hw]
  case close =>
    intro r c x s h hx hctx hvalid
    have hexec := State.exec_regionClose h hx hctx hvalid
    refine ⟨fun hbusy => ?_, fun hbusy => ?_⟩
    · rw [if_neg (by simp [hbusy])] at hexec
      refine ⟨_, hexec, Safety.done_finish ((State.cmd?_closeWindow hx r).trans (cmd?_of_started h)) 0 0, ?_⟩
      rw [State.fab_finish, State.fab_closeWindow hx, Bank.find?_erase_self]
    · rw [if_pos hbusy] at hexec
      refine ⟨_, { x with valid := false, closing := some r }, hexec, ?_, rfl, rfl, State.cmd?_keepBusy (cmd?_of_started h)⟩
      rw [State.fab_keepBusy, Bank.find?_put_self]
  case topology =>
    intro topology v s haccepted
    refine ⟨_, congrArg Host.Outcome.next (if_pos haccepted), ?_, ?_, State.up_retrainAll _, ?_⟩
    · rintro rfl
      exact (State.obj_retrainAll _ (by decide) (by decide) (by decide)).trans (State.obj_setObj_self _ _ _ _)
    · rintro rfl
      exact (State.obj_retrainAll _ (by decide) (by decide) (by decide)).trans (State.obj_setObj_self _ _ _ _)
    · rw [State.writeTopology, State.mem_retrainAll]
      split <;> rfl
  case refused => exact fun t v s hrefused => congrArg Host.Outcome.next (if_neg (by simp [hrefused]))

end Sys2Proof.Machine

/-! PROOFS. O42: what a request changes at its destination, from its arrival to the answer. -/

namespace Sys2Proof.Machine

namespace State

/-! ### Answers leave the memories (R363, R378, R380) -/

/-- `t` differs from `s` in the fabric, the Maltster's part and the Cask alone. -/
def fabricOnly (t s : State) : Prop := t = { s with fab := t.fab, mgmt := t.mgmt, cask := t.cask }

theorem fabricOnly.trans {r t s : State} (g : r.fabricOnly t) (h : t.fabricOnly s) : r.fabricOnly s :=
  Eq.trans g (congrArg (fun u : State => { u with fab := r.fab, mgmt := r.mgmt, cask := r.cask }) h)

theorem fabricOnly.mem {t s : State} (h : t.fabricOnly s) : t.mem = s.mem := (congrArg State.mem h :)

theorem linkOnly.fabricOnly {t s : State} (h : t.linkOnly s) : t.fabricOnly s :=
  (congrArg (fun u : State => u.fabricOnly s) h.frame).mpr rfl

theorem caskOnly.fabricOnly {t s : State} (h : t.caskOnly s) : t.fabricOnly s :=
  (congrArg (fun u : State => u.fabricOnly s) h).mpr rfl

theorem fabricOnly_respond (s : State) (p : Packet) (type status : Nat) (seq : BitVec 16) (data : Bytes) (extra : Nat)
    (epoch : BitVec 8) : (s.respond p type status seq data extra epoch).fabricOnly s := by
  have hcredits : (s.creditsFor p.src.toNat).2.fabricOnly s := by
    unfold State.creditsFor
    dsimp only
    split
    · rfl
    · split <;> rfl
  exact (linkOnly_send _ _).fabricOnly.trans hcredits

theorem fabricOnly_refuse (s : State) (p : Packet) (status : Nat) : (s.refuse p status).fabricOnly s := by
  unfold State.refuse
  dsimp only
  split
  · exact (caskOnly_caskPost _ _ _ _ _).fabricOnly.trans rfl
  · rfl

theorem fabricOnly_refuseWith (s : State) (p : Packet) (type status extra : Nat) :
    (s.refuseWith p type status extra).fabricOnly s :=
  (fabricOnly_respond _ _ _ _ _ _ _ _).trans (s.fabricOnly_refuse p status)

/-- R363: a refusal is counted under its status. -/
theorem obj_refuse (s : State) (p : Packet) (st : Nat) : (s.refuse p st).obj 0x50120 st = (s.obj 0x50120 st + 1) % 2 ^ 64 := by
  unfold State.refuse
  dsimp only
  split
  · exact (obj_caskPost _ _ _ _ _ st (by decide)).trans (s.obj_bump_self 0x50120 st)
  · exact s.obj_bump_self 0x50120 st

/-! ### Arrival (R359, R376) -/

/-- `t` differs from `s` in the fabric alone, and has its windows. -/
structure arrivedOnly (t s : State) : Prop where
  frame : t = { s with fab := t.fab }
  windows : t.fab.windows = s.fab.windows

theorem arrivedOnly.trans {r t s : State} (g : r.arrivedOnly t) (h : t.arrivedOnly s) : r.arrivedOnly s :=
  ⟨g.frame.trans (congrArg (fun u : State => { u with fab := r.fab }) h.frame), g.windows.trans h.windows⟩

theorem arrivedOnly_openSource (s : State) (p : Packet) : (s.openSource p).arrivedOnly s := by
  unfold State.openSource
  dsimp only
  split
  · split <;> exact ⟨rfl, rfl⟩
  · exact ⟨rfl, rfl⟩

theorem arrivedOnly_arrived (s : State) (p : Packet) : ((s.landed p).openSource p).arrivedOnly s :=
  (arrivedOnly_openSource _ p).trans ⟨rfl, rfl⟩

theorem arrivedOnly_notePerformed (s : State) (p : Packet) : (s.notePerformed p).arrivedOnly s := by
  unfold State.notePerformed
  split <;> exact ⟨rfl, rfl⟩

theorem arrivedOnly_keepParts (s : State) (p : Packet) (l : List Packet) : (s.keepParts p l).arrivedOnly s := by
  unfold State.keepParts
  split <;> exact ⟨rfl, rfl⟩

section Arrived

variable {t s : State} (h : t.arrivedOnly s)
include h

theorem arrivedOnly.mem : t.mem = s.mem := (congrArg State.mem h.frame :)

theorem arrivedOnly.poisoned (pl : Place) : t.poisoned pl = s.poisoned pl := (congrArg (fun u : State => u.poisoned pl) h.frame :)

theorem arrivedOnly.stackLost (a : Nat) : t.stackLost (t.pchanOf a) = s.stackLost (s.pchanOf a) :=
  (congrArg (fun u : State => u.stackLost (u.pchanOf a)) h.frame :)

theorem arrivedOnly.translate (k va : Nat) (acc : Acc) : t.translate k va acc = s.translate k va acc :=
  (congrArg (fun u : State => u.translate k va acc) h.frame :)

theorem arrivedOnly.readVirt (k va n : Nat) : t.readVirt k va n = s.readVirt k va n :=
  (congrArg (fun u : State => u.readVirt k va n) h.frame :)

/-- The checks of Table 11.5 see the windows and nothing else of the fabric. -/
theorem arrivedOnly.fabCheck (p : Packet) (n : Nat) : t.fabCheck p n = s.fabCheck p n := by
  have hrest : ∀ w, ({ s with fab.windows := w } : State).fabCheck p n =
      ({ s with fab := { t.fab with windows := w } } : State).fabCheck p n := fun _ => rfl
  exact (congrArg (fun u : State => u.fabCheck p n) h.frame).trans
    ((hrest t.fab.windows).symm.trans (congrArg (fun w => ({ s with fab.windows := w } : State).fabCheck p n) h.windows))

end Arrived

section Reaches

variable {s : State} {p : Packet}

theorem reaches_off (h : p.dst.toNat ≠ s.node ∨ s.carriesRequests = false) (fresh : State → State) : s.reaches p fresh = s :=
  if_pos (by simpa using h)

variable (hdst : p.dst.toNat = s.node) (hcarries : s.carriesRequests = true)
include hdst hcarries

theorem reaches_home (fresh : State → State) : s.reaches p fresh = (s.landed p).arrive p fresh :=
  if_neg (by simp [hdst, hcarries])

theorem reaches_stale (h : s.arrival p = .stale) (fresh : State → State) : s.reaches p fresh = (s.landed p).bump 0x50112 0 := by
  have harrival : (s.landed p).arrival p = .stale := h
  rw [reaches_home hdst hcarries, State.arrive, harrival]

theorem reaches_duplicate (h : s.arrival p = .duplicate) (fresh : State → State) : s.reaches p fresh =
    ((s.landed p).bump 0x50110 0).respond p 7 0 (s.flowSeq p).1 [] 0 (s.flowSeq p).2 := by
  have harrival : (s.landed p).arrival p = .duplicate := h
  rw [reaches_home hdst hcarries, State.arrive, harrival]
  rfl

theorem reaches_fresh (h : s.arrival p = .fresh) (fresh : State → State) :
    s.reaches p fresh = fresh ((s.landed p).openSource p) := by
  have harrival : (s.landed p).arrival p = .fresh := h
  rw [reaches_home hdst hcarries, State.arrive, harrival]

/-- A fresh request through a window goes on when it passes the checks, and is refused otherwise. -/
theorem atHome_fresh (h : s.arrival p = .fresh) {x : Window} (hx : s.fab.windows.find? (Packet1.window p) = some x) (type n : Nat)
    (perform : Window → State → State) : s.atHome p type n perform =
      if s.fabCheck p n ≠ 0 then ((s.landed p).openSource p).refuseWith p type (s.fabCheck p n)
      else perform x ((s.landed p).openSource p) := by
  have harrived := s.arrivedOnly_arrived p
  rw [State.atHome, reaches_fresh hdst hcarries h]
  simp only [harrived.fabCheck, harrived.windows, hx]

end Reaches

/-- What a command of an arriving request does: it goes the way of R359 and R376. -/
def arrives (s : State) (p : Packet) (o : Out) : Prop := ∃ fresh, o = .next (s.reaches p fresh)

/-- The commands of the request types of Table 11.7. -/
theorem requests_arrive (p : Packet) (ecc : EccResult) (s : State) : ∀ o ∈ [exec (.fabRead p ecc) s, exec (.fabWrite p) s,
    exec (.fabWriteMask p) s, exec (.fabAtomic p ecc) s, exec (.fabAtomicCont p ecc) s], s.arrives p o := by
  simp only [List.forall_mem_cons]
  exact ⟨⟨_, rfl⟩, ⟨_, rfl⟩, ⟨_, rfl⟩, ⟨_, rfl⟩, ⟨_, rfl⟩, List.forall_mem_nil _⟩

/-- What every way of going on makes of a request, its command makes of it. -/
theorem requests_eq {p : Packet} {s u : State} (h : ∀ fresh, s.reaches p fresh = u) (ecc : EccResult) :
    exec (.fabRead p ecc) s = .next u ∧ exec (.fabWrite p) s = .next u ∧ exec (.fabWriteMask p) s = .next u ∧
    exec (.fabAtomic p ecc) s = .next u ∧ exec (.fabAtomicCont p ecc) s = .next u := by
  have hnext : ∀ o, s.arrives p o → o = .next u := by
    rintro o ⟨fresh, rfl⟩
    rw [h fresh]
  simpa using fun o ho => hnext o (requests_arrive p ecc s o ho)

/-! ### The sector of a remote access (R292, R294, R379) -/

section Fetch

variable {s : State} {pl : Place}

theorem homeFetch_clean (hclean : s.poisoned pl = false) (hstack : ∀ a, pl = .fast a → s.stackLost (s.pchanOf a) = false) :
    (s.homeFetch pl .clean 0).1 = false := by
  cases pl with
  | fast a => exact homeFetch_good 0 hclean (hstack a rfl) (by decide)
  | host a io => simp [State.homeFetch, hclean]

theorem cachesOnly_homeFetch_clean (s : State) (pl : Place) : (s.homeFetch pl .clean 0).2.cachesOnly s := by
  cases pl with
  | fast a => exact s.cachesOnly_homeFetch a .clean 0
  | host a io =>
    have hhost : (s.homeFetch (.host a io) .clean 0).2 = s := by simp [State.homeFetch, State.poisoned]
    rw [hhost]
    rfl

/-- An uncorrectable sector is not had; no byte of the fast tier changes, and a sector that was good is marked. -/
theorem remoteFetch_uncorrectable (s : State) (a : Nat) : (s.remoteFetch (.fast a) .uncorrectable).1 = true ∧
    (s.remoteFetch (.fast a) .uncorrectable).2.mem.hbm = s.mem.hbm ∧
    (s.poisoned (.fast a) = false → s.stackLost (s.pchanOf a) = false →
      a / 256 ∈ (s.remoteFetch (.fast a) .uncorrectable).2.mem.poison) := by
  have hbad : ∀ (t : State) requester, (t.homeFetch (.fast a) .uncorrectable requester).1 = true := by
    intro t requester
    unfold State.homeFetch
    split
    · rfl
    · dsimp only
      split
      · rfl
      · simp
  exact ⟨hbad _ _, (cachesOnly_homeFetch _ a .uncorrectable _).hbm, fun hclean hstack =>
    (homeFetch_uncorrectable (s := s.freeWord.2) _ hclean hstack).2⟩

theorem cachesOnly.readVirt {t s : State} (h : t.cachesOnly s) (k va n : Nat) : t.readVirt k va n = s.readVirt k va n := by
  simp only [State.readVirt, h.translate, h.readPlace]

end Fetch

/-! ### READ, WRITE and WRITE_MASK (R362, R363, R368) -/

section Access

variable {s : State} {p : Packet} {x : Window} (hdst : p.dst.toNat = s.node) (hcarries : s.carriesRequests = true)
  (hfresh : s.arrival p = .fresh) (hx : s.fab.windows.find? (Packet1.window p) = some x)
include hdst hcarries hfresh hx

theorem exec_fabRead_refused (ecc : EccResult) (h : s.fabCheck p (8 * p.len.toNat) ≠ 0) : exec (.fabRead p ecc) s =
    .next (((s.landed p).openSource p).refuseWith p 6 (s.fabCheck p (8 * p.len.toNat))) :=
  congrArg Host.Outcome.next ((atHome_fresh hdst hcarries hfresh hx _ _ _).trans (if_pos h))

section Pass

variable (hpass : s.fabCheck p (8 * p.len.toNat) = 0) {pl : Place}
  (hplace : s.translate x.ctx (x.base + Packet1.offset p) .load = .ok pl)
include hpass hplace

/-- A read that passes the checks fetches the sector of its first byte. -/
theorem exec_fabRead_fetch (ecc : EccResult) : exec (.fabRead p ecc) s = .next (
    let r := ((s.landed p).openSource p).remoteFetch pl ecc
    if r.1 then r.2.refuseWith p 6 7
    else (r.2.notePerformed p).respond p 6 0 p.seq (r.2.readVirt x.ctx (x.base + Packet1.offset p) (8 * p.len.toNat))) := by
  have harrived := s.arrivedOnly_arrived p
  refine congrArg Host.Outcome.next ((atHome_fresh hdst hcarries hfresh hx _ _ _).trans ((if_neg (not_not.2 hpass)).trans ?_))
  simp only [harrived.translate, hplace]

theorem exec_fabRead_good (hclean : s.poisoned pl = false) (hstack : ∀ a, pl = .fast a → s.stackLost (s.pchanOf a) = false) :
    exec (.fabRead p .clean) s = .next (((((s.landed p).openSource p).homeFetch pl .clean 0).2.notePerformed p).respond p 6 0 p.seq
      (s.readVirt x.ctx (x.base + Packet1.offset p) (8 * p.len.toNat))) := by
  have harrived := s.arrivedOnly_arrived p
  have hgood := homeFetch_clean ((harrived.poisoned pl).trans hclean) fun a ha => (harrived.stackLost a).trans (hstack a ha)
  have hbytes := ((cachesOnly_homeFetch_clean _ pl).readVirt _ _ _).trans
    (harrived.readVirt x.ctx (x.base + Packet1.offset p) (8 * p.len.toNat))
  rw [exec_fabRead_fetch hdst hcarries hfresh hx hpass hplace]
  simp only [State.remoteFetch, hgood, hbytes, Bool.false_eq_true, if_false]

theorem exec_fabRead_poisoned (h : s.poisoned pl = true) :
    exec (.fabRead p .clean) s = .next (((s.landed p).openSource p).refuseWith p 6 7) := by
  have hfetch : ((s.landed p).openSource p).homeFetch pl .clean 0 = (true, (s.landed p).openSource p) :=
    if_pos (((s.arrivedOnly_arrived p).poisoned pl).trans h)
  rw [exec_fabRead_fetch hdst hcarries hfresh hx hpass hplace]
  simp only [State.remoteFetch, hfetch, if_true]

end Pass

/-- An uncorrectable read leaves the bytes of the fast tier, and marks its sector. -/
theorem exec_fabRead_uncorrectable (hpass : s.fabCheck p (8 * p.len.toNat) = 0) {a : Nat}
    (hplace : s.translate x.ctx (x.base + Packet1.offset p) .load = .ok (.fast a)) :
    ∃ u, exec (.fabRead p .uncorrectable) s = .next u ∧ u.mem.hbm = s.mem.hbm ∧
      (s.poisoned (.fast a) = false → s.stackLost (s.pchanOf a) = false → a / 256 ∈ u.mem.poison) := by
  have harrived := s.arrivedOnly_arrived p
  have hexec := exec_fabRead_fetch hdst hcarries hfresh hx hpass hplace .uncorrectable
  generalize (s.landed p).openSource p = t at harrived hexec
  obtain ⟨hbad, hhbm, hmark⟩ := t.remoteFetch_uncorrectable a
  have hmem := (fabricOnly_refuseWith (t.remoteFetch (.fast a) .uncorrectable).2 p 6 7 0).mem
  refine ⟨_, hexec.trans (congrArg Host.Outcome.next (if_pos hbad)), ?_, fun hclean hstack => ?_⟩
  · rw [hmem, hhbm, harrived.mem]
  · rw [hmem]
    exact hmark ((harrived.poisoned (.fast a)).trans hclean) ((harrived.stackLost a).trans hstack)

theorem exec_fabWrite : exec (.fabWrite p) s = .next (
    let t := (s.landed p).openSource p
    let va := x.base + Packet1.offset p
    if s.fabCheck p p.payload.length ≠ 0 then t.refuseWith p 7 (s.fabCheck p p.payload.length)
    else (((t.raiseWrite p x.ctx va).storeRange x.ctx va p.payload).notePerformed p).respond p 7 0 p.seq []) :=
  congrArg Host.Outcome.next (atHome_fresh hdst hcarries hfresh hx _ _ _)

theorem exec_fabWriteMask : exec (.fabWriteMask p) s = .next (
    let t := (s.landed p).openSource p
    let va := x.base + Packet1.offset p
    if s.fabCheck p 64 ≠ 0 then t.refuseWith p 7 (s.fabCheck p 64)
    else ((((((p.payload.take 64).mapIdx (fun i b => (i, b))).filter
      (fun y => bit (leNat ((p.payload.drop 64).take 8)) y.1)).foldl (fun (a : State) b => a.storeRange x.ctx (va + b.1) [b.2])
      (t.raiseWrite p x.ctx va)).notePerformed p).respond p 7 0 p.seq [])) :=
  congrArg Host.Outcome.next (atHome_fresh hdst hcarries hfresh hx _ _ _)

end Access

/-! ### Atomic sets (R264, R369) -/

section Sets

variable {s : State} {p q : Packet} {l : List Packet} {x : Window} {ecc : EccResult} {body : Bytes}

/-- The set of the parts `q :: l` is complete, or names no operation. -/
theorem joinSet_performed (hbody : (q :: l).flatMap (·.payload) = body) (h : setBytes (setCtl body) ≤ body.length) :
    s.joinSet x (q :: l) p ecc =
      (((s.keepParts q []).notePerformed p).performSet q x body ecc).settleWindow (Packet1.window q) := by
  subst hbody
  exact if_neg (by omega)

theorem joinSet_incomplete (hbody : (q :: l).flatMap (·.payload) = body) (hlegal : setLegal (setCtl body) = true)
    (h : body.length < setBytes (setCtl body)) : s.joinSet x (q :: l) p ecc = (s.keepParts q (q :: l)).notePerformed p := by
  subst hbody
  exact if_pos ⟨hlegal, h⟩

theorem performSet_clean {pl : Place} (hplace : s.translate x.ctx (x.base + Packet1.offset p) .atomic = .ok pl)
    (hio : ∀ a, pl ≠ .host a true) (hclean : s.poisoned pl = false)
    (hstack : ∀ a, pl = .fast a → s.stackLost (s.pchanOf a) = false) (hlegal : setLegal (setCtl body) = true) :
    s.performSet p x body .clean =
      let c := setCtl body
      let y := State.performLanes x.v pl c.n c.aop c.lanes (body.drop 8)
        (((s.homeFetch pl .clean 0).2.raiseEndpoint pl p.src.toNat (setUnits c.aop c.lanes)).notePerformed p)
      y.2.respond p 8 0 p.seq y.1 (setParts c - 1) := by
  have hgood := homeFetch_clean hclean hstack
  unfold State.performSet
  rw [hplace]
  split
  · next hfail => exact absurd hfail (by simp)
  · next a hhost => exact absurd (Except.ok.inj hhost) (hio a)
  · next pl' _ hok =>
    obtain rfl : pl = pl' := Except.ok.inj hok
    simp only [State.remoteFetch, hgood, hlegal, Bool.not_true, Bool.false_eq_true, if_false]

/-- The parts kept of a set depend on the flow alone. -/
theorem keptParts_congr (s : State) (hsrc : q.src = p.src) (hcls : q.cls = p.cls) : s.keptParts q = s.keptParts p := by
  rw [State.keptParts, State.keptParts, hsrc, hcls]

theorem keptParts_notePerformed (s : State) (p q : Packet) : (s.notePerformed p).keptParts q = s.keptParts q := by
  unfold State.notePerformed
  split
  · next y hy =>
    by_cases hsrc : q.src.toNat = p.src.toNat
    · simp [State.keptParts, hsrc, hy]
    · simp [State.keptParts, Bank.find?_put_ne _ _ _ _ hsrc]
  · rfl

/-- The parts that are kept of a set take the place of the ones before. -/
theorem keptParts_keepParts {y : SourceState} (hy : s.fab.sources.find? q.src.toNat = some y) (hl : ∀ z ∈ l, z.cls = q.cls) :
    (s.keepParts q l).keptParts q = l := by
  have hold : (y.parts.filter (fun z => z.cls != q.cls)).filter (fun z => z.cls == q.cls) = [] := by simp
  have hnew : l.filter (fun z => z.cls == q.cls) = l := List.filter_eq_self.2 (by simpa using hl)
  have hfind : (s.keepParts q l).fab.sources.find? q.src.toNat =
      some { y with parts := y.parts.filter (fun z => z.cls != q.cls) ++ l } := by
    rw [State.keepParts, hy]
    exact Bank.find?_put_self _ _ _
  rw [State.keptParts, hfind]
  exact (List.filter_append _ _).trans ((congrArg (· ++ _) hold).trans hnew)

/-- A source of which parts are kept is listed. -/
theorem source_of_keptParts (h : s.keptParts p ≠ []) : ∃ y, s.fab.sources.find? p.src.toNat = some y := by
  unfold State.keptParts at h
  split at h
  · next y hy => exact ⟨y, hy⟩
  · exact absurd rfl h

section Commands

variable (hdst : p.dst.toNat = s.node) (hcarries : s.carriesRequests = true) (hfresh : s.arrival p = .fresh)
include hdst hcarries hfresh

/-- A set that comes in one part goes on when it passes the checks. -/
theorem exec_fabAtomic_whole (hx : s.fab.windows.find? (Packet1.window p) = some x) (hpass : s.fabCheck p (setCtl p.payload).n = 0)
    (hwhole : setBytes (setCtl p.payload) ≤ p.payload.length) : exec (.fabAtomic p ecc) s = .next
      (((((((s.landed p).openSource p).keepParts p []).keepParts p []).notePerformed p).performSet p x p.payload ecc).settleWindow
        (Packet1.window p)) := by
  have harrived := (arrivedOnly_keepParts ((s.landed p).openSource p) p []).trans (s.arrivedOnly_arrived p)
  refine congrArg Host.Outcome.next ((reaches_fresh hdst hcarries hfresh _).trans ?_)
  simp only [harrived.fabCheck, harrived.windows, hx, hpass, ne_eq, not_true_eq_false, if_false]
  exact joinSet_performed (by simp) hwhole

/-- The second part of a set joins the first. -/
theorem exec_fabAtomicCont_second (hkept : ((s.landed p).openSource p).keptParts p = [q])
    (hx : s.fab.windows.find? (Packet1.window q) = some x) :
    exec (.fabAtomicCont p ecc) s = .next (((s.landed p).openSource p).joinSet x [q, p] p ecc) := by
  refine congrArg Host.Outcome.next ((reaches_fresh hdst hcarries hfresh _).trans ?_)
  simp only [hkept, (s.arrivedOnly_arrived p).windows, hx]
  rfl

end Commands

end Sets

end State

/-- Settles O42: a request goes the way of its arrival, and a fresh one that of its checks; one lemma for each. -/
theorem fabricRequestsAreServed : Obligations.FabricRequestsAreServed := by
  refine ⟨?access, fun p st s => s.obj_refuse p st, fun p ecc s h => State.requests_eq (State.reaches_off h) ecc, ?notFresh,
    ?atomic, ?continued, ?reserved⟩
  case access =>
    intro p x s hdst hcarries hfresh hx t va n
    have hwrite := State.exec_fabWrite hdst hcarries hfresh hx
    have hmask := State.exec_fabWriteMask hdst hcarries hfresh hx
    refine ⟨fun pl hpass hplace => ⟨?_, ?_, ?_⟩, fun hpass => ?_, fun hpass => ?_, ?_, fun hfail => ?_, fun hfail => ?_⟩
    · exact State.exec_fabRead_good hdst hcarries hfresh hx hpass hplace
    · exact State.exec_fabRead_poisoned hdst hcarries hfresh hx hpass hplace
    · rintro a rfl -
      exact State.exec_fabRead_uncorrectable hdst hcarries hfresh hx hpass hplace
    · exact hwrite.trans (congrArg Host.Outcome.next (if_neg (not_not.2 hpass)))
    · exact hmask.trans (congrArg Host.Outcome.next (if_neg (not_not.2 hpass)))
    · exact State.exec_fabRead_refused hdst hcarries hfresh hx
    · exact hmask.trans (congrArg Host.Outcome.next (if_pos hfail))
    · refine ⟨_, hwrite.trans (congrArg Host.Outcome.next (if_pos hfail)), ?_, rfl⟩
      exact (State.fabricOnly_refuseWith _ _ _ _ _).mem.trans (s.arrivedOnly_arrived p).mem
  case notFresh =>
    intro p ecc s hdst hcarries
    refine ⟨fun h => State.requests_eq (State.reaches_stale hdst hcarries h) ecc, fun h => ⟨_, rfl, ?_, ?_⟩⟩
    · exact (State.fabricOnly_respond _ _ _ _ _ _ _ _).mem
    · exact State.requests_eq (State.reaches_duplicate hdst hcarries h) ecc
  case atomic =>
    intro p x pl s hdst hcarries hfresh hx hlegal hpass hwhole hplace hio hclean hstack c t f y
    have harrived : t.arrivedOnly s := (State.arrivedOnly_notePerformed _ p).trans ((State.arrivedOnly_keepParts _ p []).trans
      ((State.arrivedOnly_keepParts _ p []).trans (s.arrivedOnly_arrived p)))
    rw [State.exec_fabAtomic_whole hdst hcarries hfresh hx hpass hwhole]
    rw [State.performSet_clean ((harrived.translate _ _ _).trans hplace) hio ((harrived.poisoned pl).trans hclean)
      (fun a ha => (harrived.stackLost a).trans (hstack a ha)) hlegal]
  case continued =>
    intro p q x ecc s hdst hcarries hfresh t body hkept hcls hsrc hx
    have hbody : [q, p].flatMap (·.payload) = body := by simp [body]
    have hexec := State.exec_fabAtomicCont_second (ecc := ecc) hdst hcarries hfresh hkept hx
    refine ⟨fun hlegal hshort => ?_, fun hwhole => ?_⟩
    · rw [State.joinSet_incomplete hbody hlegal hshort] at hexec
      obtain ⟨y, hy⟩ := State.source_of_keptParts (s := t) (p := p) (by rw [hkept]; simp)
      refine ⟨_, hexec, ?_, ?_⟩
      · rw [State.keptParts_notePerformed, ← State.keptParts_congr _ hsrc hcls]
        exact State.keptParts_keepParts (by rw [hsrc]; exact hy) (by simp [hcls])
      · exact ((State.arrivedOnly_notePerformed _ p).trans
          ((State.arrivedOnly_keepParts _ q _).trans (s.arrivedOnly_arrived p))).mem
    · rw [hexec, State.joinSet_performed hbody hwhole]
  case reserved =>
    intro p s
    refine ⟨fun h => if_pos h, fun htype hdst hcarries hfresh => ⟨_, ?_, ?_, rfl⟩⟩
    · have hne : p.type ≠ 0 := by rintro h; simp [h] at htype
      exact (if_neg hne).trans ((if_neg (by omega)).trans
        (congrArg Host.Outcome.next (State.reaches_fresh hdst hcarries hfresh _)))
    · exact (State.fabricOnly_refuseWith _ _ _ _ _).mem.trans (s.arrivedOnly_arrived p).mem

end Sys2Proof.Machine

/-! PROOFS. O43: a request leaves at the egress, and what an answer makes of the request that waits for it and of its group. -/

namespace Sys2Proof.Machine

namespace State

/-! ### Egress (R365, R378) -/

section Egress

variable {s : State} {o : Outstanding} (ns : Nat)

/-- A request that alone waits may leave. -/
theorem mayLeave_sole (h : s.fab.waiting = [o]) : s.mayLeave 0 o = true := by
  simp [State.mayLeave, h]

/-- The state in which a request holds the next SEQ of its flow and a credit of its destination, and is outstanding. -/
def taken (s : State) (n : Nat) (o : Outstanding) : State :=
  let flow := o.dst.toNat * 4 + o.cls.toNat
  let seq := s.fab.nextSeq.get 0 flow
  { s with fab := { s.fab with
      waiting := s.fab.waiting.eraseIdx n,
      outstanding := s.fab.outstanding ++ [{ o with seq := seq, pkt := { o.pkt with seq := seq } }],
      nextSeq := s.fab.nextSeq.set 0 flow (seq + 1),
      credits := s.fab.credits.set 1 o.dst.toNat (s.fab.credits.get 1 o.dst.toNat - 1) } }

theorem linkOnly_fabLeave (s : State) (n : Nat) (o : Outstanding) : (s.fabLeave n o).linkOnly (s.taken n o) := linkOnly_send _ _

theorem exec_fabRequestEgress_off (n : Nat) (h : s.carriesRequests = false) : exec (.fabRequestEgress n ns) s = .next s := by
  show execFabRequestEgress n ns s = _
  unfold execFabRequestEgress
  split
  · rfl
  · exact if_pos (.inl (by simp [h]))

/-- The request that waits alone and holds a credit leaves, over the port whose arbiter has granted it. -/
theorem exec_fabRequestEgress_granted (hwait : s.fab.waiting = [o]) (hcarries : s.carriesRequests = true)
    (hcredit : s.fab.credits.get 1 o.dst.toNat ≠ 0) (hgrant : ∀ port, s.egressPort o = some port →
      (s.egressGrant port).1 = some (o.id + 1) ∧ (s.port port).replay.length < replayFrames) :
    ∃ a : Arbiters, exec (.fabRequestEgress 0 ns) s =
      .next ((({ s with arb := a } : State).fabLeave 0 o).bumpBy 0x50130 0 ns) := by
  have hexec : exec (.fabRequestEgress 0 ns) s = execFabRequestEgress 0 ns s := rfl
  have hhead : s.fab.waiting[0]? = some o := by simp [hwait]
  have hleave : ¬((!s.carriesRequests) = true ∨ (!s.mayLeave 0 o) = true) := by simp [hcarries, mayLeave_sole hwait]
  unfold execFabRequestEgress at hexec
  simp only [hhead, if_neg hleave, if_neg hcredit] at hexec
  cases hport : s.egressPort o with
  | none =>
    simp only [hport] at hexec
    exact ⟨s.arb, hexec⟩
  | some port =>
    obtain ⟨hgranted, hroom⟩ := hgrant port hport
    have hstays : ¬((s.egressGrant port).1 ≠ some (o.id + 1) ∨ replayFrames ≤ (s.port port).replay.length) := by
      simp [hgranted, hroom]
    simp only [hport, if_neg hstays] at hexec
    exact ⟨_, hexec⟩

theorem egressBackoff_frame (s : State) (o : Outstanding) : s.egressBackoff o = { s with arb := (s.egressBackoff o).arb } := by
  unfold State.egressBackoff
  split <;> rfl

/-- A request without a credit stays. -/
theorem exec_fabRequestEgress_noCredit {n : Nat} (hwait : s.fab.waiting[n]? = some o)
    (hcredit : s.fab.credits.get 1 o.dst.toNat = 0) :
    ∃ u, exec (.fabRequestEgress n ns) s = .next u ∧ u = { s with arb := u.arb } := by
  have hexec : exec (.fabRequestEgress n ns) s = execFabRequestEgress n ns s := rfl
  unfold execFabRequestEgress at hexec
  simp only [hwait, if_pos hcredit] at hexec
  split at hexec
  · exact ⟨s, hexec, rfl⟩
  · exact ⟨_, hexec, s.egressBackoff_frame o⟩

end Egress

/-! ### The registers of a group after an answer (R368, R383) -/

end State

/-- Words change registers alone. -/
theorem Group.setWords_frame (g : Group) (lane r : Nat) (ws : List Word) :
    g.setWords lane r ws = { g with regs := (g.setWords lane r ws).regs } :=
  List.foldlRecOn (motive := fun h : Group => h = { g with regs := h.regs }) _ _ rfl fun _ hh x _ =>
    (congrArg (fun a : Group => a.setReg lane (r + x.1) x.2) hh :)

/-- What an answer brings enters registers, predicates and the words that a REL.G has read. -/
theorem fillLane_frame (w : Instr64) (seen : Nat → Bytes → Bytes) (data : Bytes) (g : Group) (d : Nat × Nat × Nat × Nat) :
    fillLane w seen data g d = { g with regs := (fillLane w seen data g d).regs, preds := (fillLane w seen data g d).preds,
                                        locks := (fillLane w seen data g d).locks } := by
  unfold fillLane
  dsimp only
  split
  · rfl
  · split
    · rw [Group.setWords_frame]
    · split
      · unfold Group.setPredLanes Group.setPred
        split <;> rfl
      · rfl

/-- The group of a request that failed: the registers of a read are 0. -/
def zeroedBy (o : Outstanding) (g : Group) : Group :=
  if o.type = 1 then o.dest.foldl (fun a d =>
    if d.2.1 < 256 then a.setWords d.1 d.2.1 (List.replicate ((d.2.2.1 + 3) / 4) 0) else a) g else g

theorem zeroedBy_frame (o : Outstanding) (g : Group) : zeroedBy o g = { g with regs := (zeroedBy o g).regs } := by
  unfold zeroedBy
  split
  · refine List.foldlRecOn (motive := fun h : Group => h = { g with regs := h.regs }) _ _ rfl fun h hh d _ => ?_
    split
    · rw [Group.setWords_frame, hh]
    · exact hh
  · rfl

namespace State

/-! ### What an answer makes of its group (R262, R383) -/

theorem cores_fenceCaches (s : State) (ck : Nat) : (s.fenceCaches ck).cores = s.cores.put ck { s.core ck with l0d := [] } := by
  unfold State.fenceCaches State.settlePrefetch
  dsimp only
  split <;> rfl

/-- `u` is `t` with the group `gk` at `g`, gone on after its last answer; an acquire has emptied its caches. -/
structure wentOn (u t : State) (gk : Nat) (g : Group) : Prop where
  group : u.group? gk = some { g with status := .running, atoms := [] }
  fab : u.fab = t.fab
  mem : u.mem = t.mem
  cores : acquiresAt g.instr = true → u.cores = (t.fenceCaches (coreKeyOf gk)).cores

theorem wentOn.of_putGroup {u t : State} {gk : Nat} {g h : Group} (hu : u.wentOn (t.putGroup gk h) gk g) : u.wentOn t gk g :=
  ⟨hu.group, hu.fab, hu.mem, fun hacq => (hu.cores hacq).trans (by rw [cores_fenceCaches, cores_fenceCaches]; rfl)⟩

/-- The last answer lets its group go on. -/
theorem wentOn_settleRemote {t : State} {gk : Nat} {g : Group} (hout : t.fab.outstanding = []) (hwait : t.fab.waiting = [])
    (hgroup : t.group? gk = some g) (hremote : g.status = .remote) : (t.settleRemote gk).wentOn t gk g := by
  have hsettled : t.settleRemote gk = (if acquiresAt g.instr then t.fenceCaches (coreKeyOf gk) else t).putGroup gk
      { g with status := .running, atoms := [] } := by
    simp [State.settleRemote, hgroup, hremote, hout, hwait]
  rw [hsettled]
  split
  case isTrue hacq =>
    have hfenced := t.fenceCaches_frame (coreKeyOf gk)
    exact ⟨group?_putGroup_self _ _ _, (congrArg State.fab hfenced :), (congrArg State.mem hfenced :), fun _ => rfl⟩
  case isFalse hacq => exact ⟨group?_putGroup_self _ _ _, rfl, rfl, fun h => absurd h hacq⟩

theorem settleRemote_other {t : State} {gk : Nat} {g : Group} (hgroup : t.group? gk = some g) (hother : g.status ≠ .remote) :
    t.settleRemote gk = t := by
  simp [State.settleRemote, hgroup, hother]

/-- The group of a request after the data that it asked for. -/
def filledBy (t : State) (gk : Nat) (g : Group) (o : Outstanding) (data : Bytes) : Group :=
  let seen : Nat → Bytes → Bytes := fun b bs =>
    if o.type = 1 then t.overlay gk g true (Outstanding1.byteAddr o b) bs else bs
  let h := o.dest.foldl (fillLane g.instr seen data) g
  if g.changedBy o data then h.disarm else h

/-- Data leave the status of a group and the instruction that it runs. -/
theorem filledBy_kept (t : State) (gk : Nat) (g : Group) (o : Outstanding) (data : Bytes) :
    (t.filledBy gk g o data).status = g.status ∧ (t.filledBy gk g o data).instr = g.instr := by
  have hfill : ∀ (seen : Nat → Bytes → Bytes), (o.dest.foldl (fillLane g.instr seen data) g).status = g.status ∧
      (o.dest.foldl (fillLane g.instr seen data) g).instr = g.instr := fun seen =>
    List.foldlRecOn (motive := fun h : Group => h.status = g.status ∧ h.instr = g.instr) _ _ ⟨rfl, rfl⟩ fun h hh d _ => by
      rw [fillLane_frame]
      exact hh
  unfold filledBy
  dsimp only
  split <;> exact hfill _

theorem answer_noGroup {t : State} {o : Outstanding} (hgid : o.gid = none) (hdma : o.dma = none) (data : Bytes) :
    t.answer o none data = t := by
  simp [State.answer, hgid, hdma]

/-- A request that names no register brings its group no data. -/
theorem filledBy_nil {o : Outstanding} (t : State) (gk : Nat) (g : Group) (data : Bytes) (hdest : o.dest = []) :
    t.filledBy gk g o data = g := by
  simp [filledBy, Group.changedBy, hdest]

/-- Cause and lanes of the fault of a request that failed. -/
def failInfo (o : Outstanding) (g : Group) (cause detail : Nat) : FaultInfo :=
  mkFaultInfo cause detail (Outstanding1.addr o) (if o.dest.isEmpty then g.active else maskOf (o.dest.map (·.1))) true

section Answer

variable {t : State} {o : Outstanding} {gk : Nat} {g : Group} (hgid : o.gid = some gk) (hdma : o.dma = none)
  (hgroup : t.group? gk = some g)
include hgid hdma hgroup

theorem answer_data (htype : o.type ≠ 5) (data : Bytes) :
    t.answer o none data = (t.putGroup gk (t.filledBy gk g o data)).settleRemote gk := by
  unfold State.answer
  rw [if_neg fun h => htype h.1]
  simp only [hdma, hgid, hgroup, Option.bind_some, Option.map_some, Option.elim_some]
  rfl

/-- A group whose request fails gets an asynchronous fault. -/
theorem answer_failed (hremote : g.status = .remote) (cause detail : Nat) (data : Bytes) : t.answer o (some (cause, detail)) data =
    ((t.putGroup gk (zeroedBy o g)).putGroup gk { zeroedBy o g with async := g.async ++ [failInfo o g cause detail] }).settleRemote
      gk := by
  have hparked : (zeroedBy o g).status ≠ .parked := by rw [zeroedBy_frame, hremote]; decide
  have hasync : (zeroedBy o g).async = g.async := by rw [zeroedBy_frame]
  have hfail : t.failRequest o cause detail = (t.putGroup gk (zeroedBy o g)).faultAsync gk (failInfo o g cause detail) := by
    simp only [State.failRequest, hgid, hgroup, Option.bind_some, Option.map_some]
    rfl
  unfold State.answer
  rw [if_neg (by simp), ← hasync]
  simp only [hdma, hgid, hfail, State.faultAsync, group?_putGroup_self, if_neg hparked, Option.elim_some]

variable (hout : t.fab.outstanding = []) (hwait : t.fab.waiting = []) (hremote : g.status = .remote)
include hout hwait hremote

theorem wentOn_answer_data (htype : o.type ≠ 5) (data : Bytes) :
    (t.answer o none data).wentOn t gk (t.filledBy gk g o data) := by
  obtain ⟨hstatus, -⟩ := t.filledBy_kept gk g o data
  rw [answer_data hgid hdma hgroup htype]
  exact (wentOn_settleRemote (by exact hout) (by exact hwait) (group?_putGroup_self _ _ _) (hstatus.trans hremote)).of_putGroup

theorem wentOn_answer_failed (cause detail : Nat) (data : Bytes) : (t.answer o (some (cause, detail)) data).wentOn t gk
    { zeroedBy o g with async := g.async ++ [failInfo o g cause detail] } := by
  rw [answer_failed hgid hdma hgroup hremote]
  refine (wentOn_settleRemote (by exact hout) (by exact hwait) (group?_putGroup_self _ _ _) ?_).of_putGroup.of_putGroup
  show (zeroedBy o g).status = .remote
  rw [zeroedBy_frame, hremote]

end Answer

/-! ### The request that an answer names (R378, R380) -/

/-- The state in which the only outstanding request has been answered by `p`, whose credits have come back. -/
def answered (s : State) (p : Packet) : State :=
  ({ s.landed p with fab := { (s.landed p).fab with outstanding := [], waiting := [] } } : State).takeCredits p 0

theorem outstandingOf_none {s : State} (h : s.fab.outstanding = []) (dst : BitVec 14) (cls : BitVec 2) (seq : BitVec 16)
    (types : List (BitVec 8)) : s.outstandingOf dst cls seq types = none := by
  simp [State.outstandingOf, h]

theorem outstandingOf_sole {s : State} {o : Outstanding} {types : List (BitVec 8)} (h : s.fab.outstanding = [o])
    (htype : o.type ∈ types) : s.outstandingOf o.dst o.cls o.seq types = some o := by
  simp [State.outstandingOf, h, htype]

theorem answeredBy_self (s : State) (o : Outstanding) : s.answeredBy o o = true := by
  simp [State.answeredBy]

/-- The only request is acknowledged. -/
theorem acknowledged_sole {s : State} {o : Outstanding} (hout : s.fab.outstanding = [o]) (hwait : s.fab.waiting = [])
    (alone : Bool) : s.acknowledged o alone = (0, { s with fab := { s.fab with outstanding := [], waiting := [] } }) := by
  cases alone <;> simp [State.acknowledged, hout, hwait, answeredBy_self]

theorem exec_fabReadResp {p : Packet} {s : State} (h : p.dst.toNat = s.node) :
    exec (.fabReadResp p) s = .next (s.answerOne p [1]) :=
  congrArg Host.Outcome.next (if_pos h)

theorem exec_fabAtomicResp {p : Packet} {s : State} (h : p.dst.toNat = s.node) :
    exec (.fabAtomicResp p) s = .next (s.answerOne p [4, 5]) :=
  congrArg Host.Outcome.next (if_pos h)

theorem answerOne_none {s : State} (h : s.fab.outstanding = []) (p : Packet) (types : List (BitVec 8)) :
    s.answerOne p types = (s.landed p).bump 0x50111 0 := by
  rw [State.answerOne, outstandingOf_none (by exact h)]

theorem answerOne_sole {s : State} {o : Outstanding} {p : Packet} {types : List (BitVec 8)} (hout : s.fab.outstanding = [o])
    (hwait : s.fab.waiting = []) (hdst : o.dst = p.src) (hcls : o.cls = p.cls) (hseq : o.seq = p.seq) (htype : o.type ∈ types) :
    s.answerOne p types = (s.answered p).answer o
      (if fld p.key.toNat 0 8 = 0 then none else some (statusFault o (fld p.key.toNat 0 8))) p.payload := by
  have hfind := outstandingOf_sole (s := s.landed p) hout htype
  rw [hdst, hcls, hseq] at hfind
  have hack := fun alone => acknowledged_sole (s := s.landed p) hout hwait alone
  rw [State.answerOne, hfind]
  simp only [hack, ite_self]
  rfl

/-- The state in which the only outstanding request has been given up after 4 ms, with its credit. -/
def givenUp (s : State) (o : Outstanding) : State :=
  let credits := s.fab.credits.set 1 o.dst.toNat (min 64 (s.fab.credits.get 1 o.dst.toNat + 1))
  { s with fab := { s.fab with outstanding := [], waiting := [], credits := credits } }

theorem exec_fabTimeout_sole {s : State} {o : Outstanding} (hout : s.fab.outstanding = [o]) (hwait : s.fab.waiting = [])
    (htype : o.type = 1 ∨ o.type = 4) : exec (.fabTimeout o.dst o.cls o.seq) s =
      .next ((s.givenUp o).answer o (some (0x3C, o.dst.toNat * 65536)) []) := by
  have hfind : s.outstandingOf o.dst o.cls o.seq [1, 4, 5] = some o :=
    outstandingOf_sole hout (by rcases htype with h | h <;> simp [h])
  have hone : (s.fab.outstanding.filter (s.answeredBy o)).length = 1 := by simp [hout, answeredBy_self]
  show execFabTimeout o.dst o.cls o.seq s = _
  unfold execFabTimeout
  rw [hfind]
  dsimp only
  rw [hone, acknowledged_sole hout hwait]
  rfl

/-! ### FAB_WRITE_ACK (R380) -/

theorem serialNewer_self (a : BitVec 16) : serialNewer 16 a.toNat a.toNat = false := by
  have hlt := a.isLt
  have hzero : (a.toNat + 2 ^ 16 - a.toNat % 2 ^ 16) % 2 ^ 16 = 0 := by omega
  unfold serialNewer
  rw [hzero]
  rfl

section WriteAck

variable {s : State} {p : Packet} (hdst : p.dst.toNat = s.node)
include hdst

theorem exec_fabWriteAck_none (h : s.fab.outstanding = []) : exec (.fabWriteAck p) s = .next ((s.landed p).bump 0x50111 0) := by
  have hlanded : (s.landed p).fab.outstanding = [] := h
  show execFabWriteAck p s = _
  unfold execFabWriteAck
  rw [if_neg (by simp [hdst])]
  split
  · rw [answerOne_none h]
  · simp [hlanded]

/-- An acknowledgement of the only request, a write. -/
theorem exec_fabWriteAck_sole {o : Outstanding} (hout : s.fab.outstanding = [o]) (hsrc : o.dst = p.src) (hcls : o.cls = p.cls)
    (hseq : o.seq = p.seq) (htype : o.type = 2 ∨ o.type = 3) (hacked : o.acked = false) (hstatus : fld p.key.toNat 0 8 = 0) :
    exec (.fabWriteAck p) s = .next
      ((({ s.landed p with fab.outstanding := [] } : State).takeCredits p 0).answer o none []) := by
  have hlanded : (s.landed p).fab.outstanding = [o] := hout
  have hnewer := serialNewer_self p.seq
  show execFabWriteAck p s = _
  unfold execFabWriteAck
  rw [if_neg (by simp [hdst]), if_neg (by simp [hstatus])]
  rcases htype with htype | htype <;> simp [hlanded, hsrc, hcls, hseq, hnewer, htype, hacked]

end WriteAck

end State

/-- Settles O43: one lemma for the egress and for each kind of answer; the group of an answer goes on by `wentOn`. -/
theorem fabricAnswersAndEgress : Obligations.FabricAnswersAndEgress := by
  refine ⟨?leaves, fun o n ns s hwait hcredit => State.exec_fabRequestEgress_noCredit ns hwait hcredit,
    fun n ns s hoff => State.exec_fabRequestEgress_off ns n hoff, ?data, ?refused, ?timeout, ?acked, ?nothing⟩
  case leaves =>
    intro o ns s hwait hcarries hcredit hgrant
    obtain ⟨a, hexec⟩ := State.exec_fabRequestEgress_granted ns hwait hcarries hcredit hgrant
    have hleft := State.linkOnly_fabLeave { s with arb := a } 0 o
    have hout := (congrArg (fun t : State => t.fab.outstanding) hleft.frame :)
    refine ⟨_, hexec, ?_, ⟨_, hout, rfl, rfl, rfl, rfl, rfl, rfl⟩, ?_, ?_, ?_, ?_⟩
    · exact (congrArg (fun t : State => t.fab.waiting) hleft.frame :).trans (by simp [State.taken, hwait])
    · exact (congrArg (fun t : State => t.fab.nextSeq.get 0 (o.dst.toNat * 4 + o.cls.toNat)) hleft.frame :).trans
        (Bank.get_set_self _ _ _ _)
    · exact (congrArg (fun t : State => t.fab.credits.get 1 o.dst.toNat) hleft.frame :).trans (Bank.get_set_self _ _ _ _)
    · exact (congrArg State.mem hleft.frame :)
    · exact (congrArg State.groups hleft.frame :)
  case data =>
    intro p o gk g d s hhome hout hwait hdst hcls hseq hgid hdma hgroup hremote hdest hstatus
    have hgo : o.type ≠ 5 → ((s.answered p).answer o none p.payload).wentOn (s.answered p) gk
        ((s.answered p).filledBy gk g o p.payload) := fun htype =>
      State.wentOn_answer_data hgid hdma (by exact hgroup) rfl rfl hremote htype p.payload
    have hanswer : ∀ types, o.type ∈ types → s.answerOne p types = (s.answered p).answer o none p.payload := fun _ htype =>
      (State.answerOne_sole hout hwait hdst hcls hseq htype).trans (by rw [if_pos hstatus])
    obtain ⟨-, hinstr⟩ := (s.answered p).filledBy_kept gk g o p.payload
    refine ⟨fun htype => ?_, fun htype => ?_⟩
    · obtain ⟨hgone, hfab, hmem, -⟩ := hgo (by simp [htype])
      refine ⟨_, State.exec_fabReadResp hhome, ?_⟩
      rw [hanswer _ (by simp [htype]), hfab, hgone, State.filledBy, Group.changedBy, hdest, htype]
      exact ⟨rfl, rfl, hmem⟩
    · obtain ⟨hgone, hfab, hmem, hcores⟩ := hgo (by simp [htype])
      rw [hinstr] at hcores
      refine ⟨_, State.exec_fabAtomicResp hhome, ?_⟩
      rw [hanswer _ (by simp [htype]), hfab, hgone, State.filledBy, hdest, htype]
      refine ⟨rfl, rfl, fun hacq => (hcores hacq).trans ?_, hmem⟩
      rw [State.cores_fenceCaches, State.cores_fenceCaches]
      rfl
  case refused =>
    intro p o gk g s hhome hout hwait hdst hcls hseq htype hgid hdma hgroup hremote hstatus
    obtain ⟨hgone, hfab, -, -⟩ := State.wentOn_answer_failed (t := s.answered p) hgid hdma (by exact hgroup) rfl rfl hremote
      (statusFault o (fld p.key.toNat 0 8)).1 (statusFault o (fld p.key.toNat 0 8)).2 p.payload
    have hanswer := State.answerOne_sole hout hwait hdst hcls hseq (types := [1]) (by simp [htype])
    rw [if_neg hstatus] at hanswer
    refine ⟨_, _, _, (State.exec_fabReadResp hhome).trans (congrArg Host.Outcome.next hanswer), ?_, hgone, rfl, ?_, rfl, rfl,
      rfl⟩
    · rw [hfab]
      rfl
    · show (zeroedBy o g).pc = g.pc
      rw [zeroedBy_frame]
  case timeout =>
    intro o gk g s hout hwait htype hgid hdma hgroup hremote
    obtain ⟨hgone, hfab, hmem, -⟩ := State.wentOn_answer_failed (t := s.givenUp o) hgid hdma (by exact hgroup) rfl rfl hremote
      0x3C (o.dst.toNat * 65536) []
    refine ⟨_, _, _, State.exec_fabTimeout_sole hout hwait htype, ?_, ?_, hgone, rfl, rfl, rfl, hmem⟩ <;> rw [hfab]
    · rfl
    · exact Bank.get_set_self _ _ _ _
  case acked =>
    intro p o s hhome hout hdst hcls hseq htype hacked hdma hstatus
    have hexec := State.exec_fabWriteAck_sole hhome hout hdst hcls hseq htype hacked hstatus
    have hwrite : o.type ≠ 5 := by rcases htype with h | h <;> simp [h]
    refine ⟨fun hgid => ?_, fun gk g hgid hgroup hother hdest => ?_⟩
    · rw [State.answer_noGroup hgid hdma] at hexec
      exact ⟨_, hexec, rfl, Bank.get_set_self _ _ _ _⟩
    · rw [State.answer_data hgid hdma (by exact hgroup) hwrite, State.filledBy_nil _ _ _ _ hdest,
        State.settleRemote_other (State.group?_putGroup_self _ _ _) hother] at hexec
      exact ⟨_, hexec, rfl, State.group?_putGroup_self _ _ _, rfl, Bank.get_set_self _ _ _ _⟩
  case nothing =>
    intro p s hhome hout
    rw [State.exec_fabReadResp hhome, State.exec_fabAtomicResp hhome, State.answerOne_none hout, State.answerOne_none hout]
    exact ⟨rfl, rfl, State.exec_fabWriteAck_none hhome hout⟩

end Sys2Proof.Machine

/-! PROOFS. O45 fails for a state that lists a context queue twice, which the statement does not exclude. The command completes and
leaves the entry that is read, whose context is destroyed and has nothing else to wait for. The end of that context takes the entry
away with the context's other queues (R401), and the second one under the number, of another context, comes to light with a command of
the same number. -/

namespace Sys2Proof.Machine

/-- Command 0 of context queue 0 of function 0. -/
def firstRef : CmdRef := ⟨0, 0, 0⟩

/-- Its entry, whose effects are performed. -/
def performedCmd : Cmd := { n := 0, entry := 0, stage := .executed }

/-- Queue 0 is listed for context 0, which is being destroyed, and once more for context 1. -/
def queuedTwice : State :=
  { host := { ctxs := [(0, { destroyCookie := some 0 })],
              queues := [(0, { cmds := [performedCmd] }), (0, { ctx := 1, cmds := [performedCmd] })] } }

theorem exec_queuedTwice : ∃ t, exec (.commandComplete firstRef) queuedTwice = .next t ∧ t.cmd? firstRef = some performedCmd :=
  ⟨_, rfl, by decide +kernel⟩

/-- Refutes O45: a command of number 0 stands in queue 0 after the command of that number has completed. -/
theorem not_queuesAreReadAndRun : ¬ Obligations.QueuesAreReadAndRun := by
  rintro ⟨-, -, -, -, hcomplete⟩
  obtain ⟨u, hexec, hgone⟩ := hcomplete firstRef performedCmd queuedTwice rfl rfl
  obtain ⟨t, hrun, hstands⟩ := exec_queuedTwice
  obtain rfl : t = u := Host.Outcome.next.inj (hrun.symm.trans hexec)
  exact absurd (hgone.symm.trans hstands) (by simp)

end Sys2Proof.Machine

/-! PROOFS. O47: the objects of the host interface. An object is made in one step; a context that is destroyed keeps its mark through
everything that its end brings with it. -/

namespace Sys2Proof.Machine

/-! ### The other queues of the module -/

/-- A context queue is another one than the admin queue. -/
theorem contextQueueKey_ne {r : CmdRef} {q : Nat} (hadmin : r.q.val = adminQ) (hq : q < 16384) (v : Nat) :
    queueKey v q ≠ queueKey r.v.val r.q.val := by
  rw [Ne, queueKey_inj (by omega) r.q.isLt, hadmin]
  unfold adminQ
  omega

namespace State

section OtherQueues

variable (s : State) (r : CmdRef) {k : Nat} (h : k ≠ queueKey r.v.val r.q.val)
include h

theorem find?_queues_putCmd (c : Cmd) : (s.putCmd r c).host.queues.find? k = s.host.queues.find? k := by
  unfold State.putCmd
  split
  · exact Bank.find?_put_ne _ _ _ _ h
  · rfl

theorem find?_queues_finish (status detail : Nat) : (s.finish r status detail).host.queues.find? k = s.host.queues.find? k := by
  unfold State.finish
  split
  · exact s.find?_queues_putCmd r h _
  · rfl

theorem find?_queues_keepBusy : (s.keepBusy r).host.queues.find? k = s.host.queues.find? k := by
  unfold State.keepBusy
  split
  · exact s.find?_queues_putCmd r h _
  · rfl

end OtherQueues

theorem queueAt_context (s : State) (v : Nat) {q : Nat} (hq : q < 16384) : s.queueAt v q = s.host.queues.find? (queueKey v q) :=
  if_neg (by unfold adminQ; omega)

theorem cmd?_putQueue_context {r : CmdRef} {q : Nat} (s : State) (hadmin : r.q.val = adminQ) (hq : q < 16384) (v : Fin 64) (x : Queue) :
    (s.putQueue v.val q x).cmd? r = s.cmd? r := by
  refine s.cmd?_putQueue_ne (d := ⟨v, ⟨q, by omega⟩, 0⟩) x ?_
  rintro ⟨-, hsame⟩
  have hval : r.q.val = q := congrArg Fin.val hsame
  unfold adminQ at hadmin
  omega

/-! ### Objects of the fast tier (R394) -/

theorem memGet_memZero_of_zero {m : List Host.Cell} {b : Nat} (h : memGet m b = 0) (a n : Nat) : memGet (memZero m a n) b = 0 := by
  by_cases hb : a ≤ b ∧ b < a + n
  · exact memGet_memZero_inside m hb
  · rw [memGet_memZero_outside m (by omega), h]

/-- Pages that are cleared one after the other read as 0. -/
theorem memGet_clearPages {pages : List Nat} {p a bytes : Nat} (hp : p ∈ pages) (ha : a < bytes) (s : State) :
    memGet (s.clearPages pages bytes).mem.hbm (p + a) = 0 := by
  show memGet (pages.foldl (fun m q => memZero m q bytes) s.mem.hbm) (p + a) = 0
  generalize s.mem.hbm = m
  induction pages generalizing m with
  | nil => exact absurd hp List.not_mem_nil
  | cons q pages ih =>
    rcases List.mem_cons.mp hp with rfl | hp
    · exact List.foldlRecOn (motive := fun m => memGet m (p + a) = 0) pages _ (memGet_memZero_inside m (by omega))
        fun m hm q _ => memGet_memZero_of_zero hm q bytes
    · exact ih hp _

theorem length_allocPages {s : State} {kind stack n : Nat} {big : Bool} {pages : List Nat}
    (h : s.allocPages kind stack n big = some pages) : pages.length = n := by
  simp only [State.allocPages, Option.ite_none_right_eq_some, Option.some.injEq] at h
  obtain ⟨hlength, rfl⟩ := h
  exact hlength

/-- An object enters the table under its key. -/
def enterObj (s : State) (ok : Nat) (o : MemObj) : State := { s with host.objects := s.host.objects.put ok o }

/-- A new object of the fast tier has as many pages as were asked for, and they are cleared. -/
theorem newFast_ok {s u : State} {k kind stack n i : Nat} {big : Bool} {gen : BitVec 8}
    (h : s.newFast k kind stack n big gen i = .ok u) : ∃ o : MemObj, o.kind = kind ∧ o.stack = stack ∧ o.pages.length = n ∧
      o.hostRef = true ∧ o.refs = 0 ∧ u = (s.clearPages o.pages o.pageBytes).enterObj (objKey k i) o := by
  unfold State.newFast at h
  dsimp only at h
  generalize (if big then 2097152 else 65536) * n = bytes at h
  split at h
  · exact absurd h (by simp)
  · split at h
    · exact absurd h (by simp)
    · next pages hpages => exact ⟨_, rfl, rfl, length_allocPages hpages, rfl, rfl, (Except.ok.inj h).symm⟩

end State

/-! ### What keeps the mark of a context that ends (R401) -/

/-- What of a context says that it ends: its release cookie and its host reference. -/
def Ctx.ending (c : Ctx) : Option (BitVec 32) × Bool := (c.destroyCookie, c.hostRef)

/-- Every context of `t` is one of `s`, and ends in `t` if it does in `s`. -/
def State.endsKept (t s : State) : Prop := ∀ k c, t.ctx? k = some c → ∃ d, s.ctx? k = some d ∧ c.ending = d.ending

namespace State

theorem endsKept.of_ctxs {t s : State} (h : t.host.ctxs = s.host.ctxs) : t.endsKept s := by
  intro k c hc
  rw [State.ctx?, h] at hc
  exact ⟨c, hc, rfl⟩

theorem endsKept.of_host {t s : State} (h : t.host = s.host) : t.endsKept s := .of_ctxs (congrArg Host12.ctxs h)

theorem endsKept.trans {r t s : State} (g : r.endsKept t) (h : t.endsKept s) : r.endsKept s := by
  intro k c hc
  obtain ⟨d, hd, hcd⟩ := g k c hc
  obtain ⟨e, he, hde⟩ := h k d hd
  exact ⟨e, he, hcd.trans hde⟩

theorem endsKept.foldl {α : Type} {f : State → α → State} (h : ∀ t x, (f t x).endsKept t) (l : List α) (s : State) :
    (l.foldl f s).endsKept s :=
  List.foldlRecOn (motive := fun t => t.endsKept s) l f (.of_ctxs rfl) fun t ht x _ => (h t x).trans ht

theorem endsKept_putCtx {s : State} {k : Nat} {c d : Ctx} (hc : s.ctx? k = some c) (hd : d.ending = c.ending) :
    (s.putCtx k d).endsKept s := by
  intro j e he
  by_cases hj : j = k
  · subst hj
    obtain rfl : d = e := Option.some.inj ((s.ctx?_putCtx_self j d).symm.trans he)
    exact ⟨c, hc, hd⟩
  · exact ⟨e, (s.ctx?_putCtx_ne d hj).symm.trans he, rfl⟩

theorem endsKept_onCtx (s : State) (k : Nat) {f : Ctx → Ctx} (hf : ∀ c, (f c).ending = c.ending) : (s.onCtx k f).endsKept s := by
  unfold State.onCtx
  split
  · next c hc => exact endsKept_putCtx hc (hf c)
  · exact .of_ctxs rfl

theorem endsKept_ringVector (s : State) (k : Nat) (sel : Ctx → Ring) {upd : Ctx → Ring → Ctx}
    (hupd : ∀ c r, (upd c r).ending = c.ending) : (s.ringVector k sel upd).endsKept s := by
  unfold State.ringVector
  split
  · next c hc =>
    split
    · exact .trans (.of_ctxs rfl) (endsKept_putCtx hc (hupd c _))
    · exact .of_ctxs rfl
  · exact .of_ctxs rfl

theorem endsKept_noteStop (s : State) (k : Nat) : (s.noteStop k).endsKept s := by
  unfold State.noteStop
  split
  · next c hc =>
    split
    · exact .trans (.of_ctxs rfl) (endsKept_putCtx (d := { c with evtStopped := true }) hc rfl)
    · exact .of_ctxs rfl
  · exact .of_ctxs rfl

theorem endsKept_event (s : State) (k : Nat) (e : Event) : (s.event k e).endsKept s := by
  unfold State.event
  split
  · exact .of_ctxs rfl
  · next c hc =>
    split
    · have hwritten : ((s.hostWrite (c.evt.next 16) (e.bytes c.evt.phase)).putCtx k
          { c with evt.written := c.evt.written + 1 }).endsKept s :=
        .trans (endsKept_putCtx (s := s.hostWrite _ _) hc rfl) (.of_ctxs rfl)
      refine (endsKept_noteStop _ k).trans (.trans (endsKept_ringVector _ k _ ?_) hwritten)
      exact fun _ _ => rfl
    · exact endsKept_putCtx hc rfl

theorem endsKept_releaseObj (s : State) (ok : Nat) (o : MemObj) : (s.releaseObj ok o).endsKept s := by
  have hgen := s.endsKept_onCtx (ok / 65536) (f := fun c => { c with objGen := c.objGen.put (ok % 65536) (o.gen + 1) }) fun _ => rfl
  have hclear : ∀ t : State, (if o.fast then t.clearPages o.pages o.pageBytes else t).endsKept t := by
    intro t
    split <;> exact .of_ctxs rfl
  refine endsKept.trans (.of_ctxs rfl) ((hclear _).trans ?_)
  split
  · exact (endsKept_event _ _ _).trans hgen
  · exact hgen

theorem endsKept_dropObj (s : State) (ok : Nat) : (s.dropObj ok).endsKept s := by
  unfold State.dropObj
  split
  · split
    · exact s.endsKept_releaseObj ok _
    · exact .of_ctxs rfl
  · exact .of_ctxs rfl

theorem endsKept_dropObjHost (s : State) (ok : Nat) : (s.dropObjHost ok).endsKept s := by
  unfold State.dropObjHost
  split
  · dsimp only
    split
    · exact s.endsKept_releaseObj ok _
    · exact .of_ctxs rfl
  · exact .of_ctxs rfl

theorem endsKept_settleKernel (s : State) (kk : Nat) (x : Kernel) : (s.settleKernel kk x).endsKept s := by
  unfold State.settleKernel
  split
  · exact (endsKept_dropObj _ _).trans (.of_ctxs rfl)
  · exact .of_ctxs rfl

theorem endsKept_dropKernel (s : State) (kk : Nat) : (s.dropKernel kk).endsKept s := by
  unfold State.dropKernel
  split
  · exact s.endsKept_settleKernel kk _
  · exact .of_ctxs rfl

theorem dropTl_timelines (s : State) (tk : Nat) : s.dropTl tk = { s with host.timelines := (s.dropTl tk).host.timelines } := by
  unfold State.dropTl State.settleTl
  split
  · split <;> rfl
  · rfl

theorem endsKept_dropRefs (s : State) (c : Cmd) : (s.dropRefs c).endsKept s :=
  (endsKept.foldl (fun t tk => .of_ctxs (congrArg (fun u : State => u.host.ctxs) (t.dropTl_timelines tk) :)) _ _).trans
    ((endsKept.foldl endsKept_dropKernel _ _).trans (.foldl endsKept_dropObj _ s))

theorem ctxs_finish (s : State) (r : CmdRef) (status detail : Nat) : (s.finish r status detail).host.ctxs = s.host.ctxs :=
  (congrArg (fun u : State => u.host.ctxs) (s.finish_queues r status detail) :)

theorem removeCmd_queues (s : State) (r : CmdRef) : s.removeCmd r = { s with host.queues := (s.removeCmd r).host.queues } := by
  unfold State.removeCmd
  split <;> rfl

theorem settleQueue_queues (s : State) (v q : Nat) : s.settleQueue v q = { s with host.queues := (s.settleQueue v q).host.queues } := by
  unfold State.settleQueue
  split
  · split
    · split
      · exact State.finish_queues _ _ _ _
      · rfl
    · rfl
  · rfl

theorem endsKept_illegalCmd (s : State) (r : CmdRef) (reason : Nat) : (s.illegalCmd r reason).endsKept s := by
  unfold State.illegalCmd
  split
  · next c _ =>
    refine .trans (.of_ctxs (congrArg (fun u : State => u.host.ctxs) (settleQueue_queues _ _ _) :)) ?_
    refine .trans (.of_ctxs (congrArg (fun u : State => u.host.ctxs) (removeCmd_queues _ _) :)) ?_
    exact (endsKept_dropRefs _ c).trans (.of_ctxs rfl)
  · exact .of_ctxs rfl

/-! #### Commands, groups and clusters that stop -/

theorem host_writeRecord (s : State) (k : Nat) (mk : Nat → Bytes) : (s.writeRecord k mk).host = s.host := by
  dsimp only [State.writeRecord]
  split
  · rfl
  · split
    · rfl
    · split
      · exact host_domainWrite _ _ _ _
      · split <;> simp

theorem host_mxRecord (s : State) (ck : Nat) (x : MxCmd) (removed : Bool) : (s.mxRecord ck x removed).host = s.host := by
  dsimp only [State.mxRecord]
  split
  · rfl
  · exact host_writeRecord _ _ _

theorem host_countNumerics (s : State) (die : Nat) (x : MxCounts) : (s.countNumerics die x).host = s.host := rfl

theorem host_dropCmd (s : State) (ck : Nat) (x : MxCmd) (list : Bool) : (s.dropCmd ck x list).host = s.host := by
  dsimp only [State.dropCmd]
  split
  · rw [State.putGroup_host, host_countNumerics, host_mxRecord]
  · rw [host_countNumerics, host_mxRecord]

theorem host_removeCmds (s : State) (ck : Nat) (bad : MxCmd → Bool) (list : Bool) : (s.removeCmds ck bad list).host = s.host :=
  foldl_host (f := fun t x => t.dropCmd ck x list) (fun t x => t.host_dropCmd ck x list) _ s

theorem host_freeMiss (s : State) (cl : Nat) (o : MissOwner) : (s.freeMiss cl o).host = s.host := by
  have hwaits := (s.cachesOnly_endWaits cl o).host
  dsimp only [State.freeMiss]
  split <;> exact hwaits

theorem host_freeDmaSlots (s : State) (gk : Nat) : (s.freeDmaSlots gk).host = s.host := by
  dsimp only [State.freeDmaSlots]
  split <;> rfl

theorem endsKept_ignoreReplay (s : State) (g : Group) : (s.ignoreReplay g).endsKept s := by
  unfold State.ignoreReplay
  split
  · exact s.endsKept_illegalCmd _ _
  · exact .of_ctxs rfl

theorem endsKept_endGroup (s : State) (gk : Nat) (aborted : Bool) : (s.endGroup gk aborted).endsKept s := by
  dsimp only [State.endGroup]
  split
  · exact .of_ctxs rfl
  · next g _ =>
    have hslots : ∀ (l : List (Nat × DmaSlot)) (t : State), (l.foldl (fun (t : State) x =>
        (t.detachDma (clusterKeyOf gk) x.1).freeMiss (clusterKeyOf gk) (.dma x.1)) t).host = t.host :=
      foldl_host fun t x => host_freeMiss _ _ _
    refine endsKept.trans ?_ (s.endsKept_ignoreReplay g)
    split <;> exact .of_ctxs (by simp only [host_freeDmaSlots, host_freeMiss, State.putCluster, hslots])

theorem endsKept_abortLaunch (s : State) (id : Nat) : (s.abortLaunch id).endsKept s := by
  dsimp only [State.abortLaunch]
  split
  · exact .of_ctxs rfl
  · exact (endsKept.foldl (fun t gk => (endsKept_endGroup _ gk true).trans (.of_host (host_removeCmds _ _ _ _))) _ _).trans (.of_ctxs rfl)

theorem endsKept_discardLaunch (s : State) (id : Nat) : (s.discardLaunch id).endsKept s := by
  dsimp only [State.discardLaunch]
  split
  · exact .of_ctxs rfl
  · refine (endsKept.foldl (fun t gk => t.endsKept_endGroup gk true) _ _).trans (.trans (.of_ctxs rfl) ?_)
    exact (endsKept.foldl (fun t ck => .of_host (host_removeCmds _ _ _ _)) _ _).trans (.of_ctxs rfl)

theorem ctxs_discardCluster (s : State) (cl : Nat) : (s.discardCluster cl).host.ctxs = s.host.ctxs :=
  (congrArg (fun u : State => u.host.ctxs) (specOnly_resolveCells _ cl false) :)

theorem endsKept_stopTasks (s : State) (k : Nat) : (s.stopTasks k).endsKept s := by
  dsimp only [State.stopTasks]
  refine (endsKept.foldl (fun t cl => .of_ctxs (t.ctxs_discardCluster cl)) _ _).trans (.foldl (fun t id => ?_) _ s)
  split
  · split
    · exact t.endsKept_discardLaunch id
    · exact t.endsKept_abortLaunch id
  · exact .of_ctxs rfl

/-! #### The end of a context -/

theorem endsKept_closeWindow (s : State) (w : Nat) : (s.closeWindow w).endsKept s := by
  unfold State.closeWindow
  split
  · exact (endsKept.foldl endsKept_dropObj _ _).trans (.of_ctxs rfl)
  · exact .of_ctxs rfl

theorem endsKept_endWindow (s : State) (w : Nat) : (s.endWindow w).endsKept s := by
  unfold State.endWindow
  split
  · exact .trans (.of_ctxs (ctxs_finish _ _ _ _)) (s.endsKept_closeWindow w)
  · exact s.endsKept_closeWindow w

theorem ctxs_adminEvent (s : State) (v : Nat) (e : Event) : (s.adminEvent v e).host.ctxs = s.host.ctxs := by
  dsimp only [State.adminEvent]
  split
  · rfl
  · split <;> rfl

/-- A context that is erased is no context any more, and the others end as before. -/
theorem endsKept_eraseCtx (s : State) (k : Nat) : ({ s with host.ctxs := s.host.ctxs.erase k } : State).endsKept s := by
  intro j c hc
  have hj : j ≠ k := by
    rintro rfl
    exact absurd ((Bank.find?_erase_self s.host.ctxs j).symm.trans hc) (by simp)
  exact ⟨c, (Bank.find?_erase_ne s.host.ctxs j k hj).symm.trans hc, rfl⟩

theorem endsKept_settleCtx (s : State) (k : Nat) : (s.settleCtx k).endsKept s := by
  unfold State.settleCtx
  split
  · exact .of_ctxs rfl
  · split
    · exact .of_ctxs rfl
    · split
      · refine .trans (.of_ctxs (ctxs_adminEvent _ _ _)) (.trans (.of_ctxs rfl) ?_)
        exact (endsKept_eraseCtx _ k).trans (s.endsKept_dropObj _)
      · exact .of_ctxs rfl

/-- The context as CONTEXT_DESTROY marks it. -/
def marked (s : State) (k : Nat) (cookie : BitVec 32) : State :=
  s.onCtx k (fun c => { c with destroyCookie := some cookie, hostRef := false })

/-- R401: after the mark nothing that the end of a context brings with it changes how a context ends. -/
theorem endsKept_destroyCtx (s : State) (k : Nat) (cookie : BitVec 32) : (s.destroyCtx k cookie).endsKept (s.marked k cookie) := by
  dsimp only [State.destroyCtx]
  refine (endsKept_settleCtx _ k).trans ((endsKept.foldl endsKept_dropObjHost _ _).trans
    ((endsKept.foldl (fun t kk => ?_) _ _).trans ?_))
  · split
    · exact t.endsKept_settleKernel kk _
    · exact .of_ctxs rfl
  · refine (endsKept_onCtx _ k (f := Ctx.unloadAll) fun _ => rfl).trans ((endsKept.foldl endsKept_endWindow _ _).trans ?_)
    exact (endsKept_stopTasks _ k).trans (.of_ctxs rfl)

theorem ending_destroyCtx {s : State} {k : Nat} {cookie : BitVec 32} {y : Ctx} (h : (s.destroyCtx k cookie).ctx? k = some y) :
    y.destroyCookie = some cookie ∧ y.hostRef = false := by
  obtain ⟨d, hd, hyd⟩ := s.endsKept_destroyCtx k cookie k y h
  have hmark : d.ending = (some cookie, false) := by
    unfold State.marked State.onCtx at hd
    split at hd
    · obtain rfl := Option.some.inj ((State.ctx?_putCtx_self _ _ _).symm.trans hd)
      rfl
    · next hnone => exact absurd (hnone.symm.trans hd) (by simp)
  exact Prod.mk.inj (hyd.trans hmark)

end State

/-! ### Contexts (R401, R411) -/

section Contexts

variable {s : State} {r : CmdRef} {c : Cmd}

/-- CONTEXT_CREATE makes the context of its block, and changes no other one. -/
theorem contextCreate_makes {b x i : Nat} {u0 : State} (h : Safety.started s r 0x80 c)
    (hb : b = leNat (memRead s.mem.host (c.arg 0 48) 64)) (hsound : s.createStatus r.v.val b = 0) (hctx : s.freeCtx r.v.val = some x)
    (hindex : s.freeIndex (ctxKey r.v.val x) = some i)
    (hnew : s.newFast (ctxKey r.v.val x) 0 0 (fld b 272 8) true 0 i = .ok u0) : ∃ u, exec (.contextCreate r) s = .next u ∧
      Safety.done u r 0 (x + 4096 * i) ∧ u.ctx? (ctxKey r.v.val x) = some (ctxOfBlock b (objKey (ctxKey r.v.val x) i)) ∧
      (∀ k, k ≠ ctxKey r.v.val x → u.ctx? k = s.ctx? k) := by
  obtain ⟨o, -, -, -, -, -, rfl⟩ := State.newFast_ok hnew
  have hmade := State.takeObj_objects ((s.clearPages o.pages o.pageBytes).enterObj (objKey (ctxKey r.v.val x) i) o)
    (objKey (ctxKey r.v.val x) i)
  obtain ⟨hrun, hdone⟩ := done_of_body (o := execContextCreate r s) (status := 0) (detail := x + 4096 * i)
    (t := ((((s.clearPages o.pages o.pageBytes).enterObj (objKey (ctxKey r.v.val x) i) o).takeObj
      (objKey (ctxKey r.v.val x) i)).forgetCtx (ctxKey r.v.val x)).putCtx (ctxKey r.v.val x)
        (ctxOfBlock b (objKey (ctxKey r.v.val x) i))) rfl h
    (by simp only [← hb, hsound, hctx, hindex, State.placeCtx, hnew, ne_eq, not_true_eq_false, if_false]) (by rw [hmade]; rfl)
  refine ⟨_, hrun, hdone, ?_, fun k hk => ?_⟩
  · rw [State.ctx?_finish, State.ctx?_putCtx_self]
  · rw [State.ctx?_finish, State.ctx?_putCtx_ne _ _ hk, hmade]
    rfl

theorem exec_contextDestroy {x : Ctx} (h : Safety.started s r 0x81 c) (hx : s.ctx? (ctxKey r.v.val (c.arg 0 12)) = some x)
    (hlive : x.destroyCookie = none) : exec (.contextDestroy r) s =
      .next ((s.destroyCtx (ctxKey r.v.val (c.arg 0 12)) (BitVec.ofNat 32 c.cookie)).finish r 0 0) := by
  refine (show execContextDestroy r s = _ from runCmd_started _ h).trans (congrArg Host.Outcome.next ?_)
  simp [hx, hlive]

theorem setLayout_sets {x : Ctx} (h : Safety.started s r 0x86 c) (hctx : s.liveCtx r.v.val (c.arg 0 12) = .ok x)
    (hgood : badLayout (16 * c.arg 36 8) = false) (hkernels : x.layout.toNat = 16 * c.arg 36 8 ∨
      s.host.kernels.any (fun y => y.1 / 65536 == ctxKey r.v.val (c.arg 0 12)) = false) :
    ∃ u, exec (.setLayout r) s = .next u ∧ Safety.done u r 0 0 ∧
      u.ctx? (ctxKey r.v.val (c.arg 0 12)) = some { x with layout := BitVec.ofNat 32 (16 * c.arg 36 8) } ∧
      u = { s with host := u.host } := by
  obtain ⟨hrun, hdone⟩ := done_of_body (o := execSetLayout r s) (status := 0) (detail := 0)
    (t := s.putCtx (ctxKey r.v.val (c.arg 0 12)) { x with layout := BitVec.ofNat 32 (16 * c.arg 36 8) }) rfl h
    (by simp only [hctx]; exact if_neg (by rcases hkernels with hk | hk <;> simp [hgood, hk])) rfl
  refine ⟨_, hrun, hdone, ?_, ?_⟩
  · rw [State.ctx?_finish, State.ctx?_putCtx_self]
  · rw [State.finish_queues]
    rfl

end Contexts

/-! ### Queues (R402, R407) -/

section Queues

variable {s : State} {r : CmdRef} {c : Cmd}

/-- The queue that a QUEUE_CREATE asks for. -/
def Cmd.newQueue (c : Cmd) : Queue :=
  { ctx := c.arg 0 12, z := c.arg 12 4, priority := c.arg 16 4, ring := c.arg 64 48, report := c.arg 128 48 }

theorem exec_queueCreate {x : Ctx} {q : Nat} (h : Safety.started s r 0x82 c) (hctx : s.liveCtx r.v.val (c.arg 0 12) = .ok x)
    (hsize : c.arg 12 4 ≤ 10) (halign : c.arg 64 48 % 4096 = 0) (hmine : s.queueCount r.v.val < s.obj 0x60014 r.v.val)
    (htotal : s.queueTotal < 16384)
    (hfree : (List.range 16384).find? (fun q => (s.host.queues.find? (queueKey r.v.val q)).isNone) = some q) :
    exec (.queueCreate r) s = .next ((s.putQueue r.v.val q c.newQueue).finish r 0 q) := by
  refine (show execQueueCreate r s = _ from runCmd_started _ h).trans (congrArg Host.Outcome.next ?_)
  simp only [hctx]
  rw [if_neg (by omega), if_neg (by omega), hfree]
  rfl

/-- A queue at a context queue's number stands beside the admin queue of the command that made it. -/
theorem queueCreate_enters {q : Nat} (h : Safety.started s r 0x82 c) (hq : q < 16384) (hadmin : r.q.val = adminQ) :
    Safety.done ((s.putQueue r.v.val q c.newQueue).finish r 0 q) r 0 q ∧
      ((s.putQueue r.v.val q c.newQueue).finish r 0 q).queueAt r.v.val q = some c.newQueue := by
  refine ⟨Safety.done_finish ((s.cmd?_putQueue_context hadmin hq r.v _).trans (cmd?_of_started h)) 0 q, ?_⟩
  rw [State.queueAt_context _ _ hq, State.find?_queues_finish _ _ (contextQueueKey_ne hadmin hq _)]
  exact Bank.find?_put_self _ _ _

theorem State.settleQueue_destroying {v q : Nat} {x : Queue} {d : CmdRef} (hx : s.queueAt v q = some x) (hd : x.destroying = some d) :
    s.settleQueue v q = if x.cmds.isEmpty then
      ({ s with host.queues := s.host.queues.erase (queueKey v q) } : State).finish d 0 0 else s := by
  simp only [State.settleQueue, hx, hd]

/-- The state in which a queue is to be destroyed and the command that asks for it waits. -/
def State.destroyingQueue (s : State) (r : CmdRef) (q : Nat) (x : Queue) : State :=
  (s.putQueue r.v.val q { x with head := x.tail, destroying := some r }).keepBusy r

theorem exec_queueDestroy {x : Queue} (h : Safety.started s r 0x83 c)
    (hx : s.host.queues.find? (queueKey r.v.val (c.arg 0 14)) = some x) (hlive : x.destroying = none) :
    exec (.queueDestroy r) s = .next ((s.destroyingQueue r (c.arg 0 14) x).settleQueue r.v.val (c.arg 0 14)) := by
  refine (show execQueueDestroy r s = _ from runCmd_started _ h).trans (congrArg Host.Outcome.next ?_)
  simp only [hx, hlive]
  rfl

/-- QUEUE_DESTROY from the admin queue: an empty queue goes, another one stays until its commands have completed. -/
theorem queueDestroy_acts {x : Queue} (h : Safety.started s r 0x83 c) (hadmin : r.q.val = adminQ)
    (hx : s.host.queues.find? (queueKey r.v.val (c.arg 0 14)) = some x) (hlive : x.destroying = none) (hq : c.arg 0 14 < 16384) :
    ∃ u, exec (.queueDestroy r) s = .next u ∧
      (x.cmds = [] → u.host.queues.find? (queueKey r.v.val (c.arg 0 14)) = none ∧ Safety.done u r 0 0) ∧
      (x.cmds ≠ [] → u.host.queues.find? (queueKey r.v.val (c.arg 0 14)) = some { x with head := x.tail, destroying := some r } ∧
        u.cmd? r = some { c with busy := true }) := by
  have hkey := contextQueueKey_ne hadmin hq r.v.val
  have hwaits : (s.destroyingQueue r (c.arg 0 14) x).cmd? r = some { c with busy := true } :=
    State.cmd?_keepBusy ((s.cmd?_putQueue_context hadmin hq r.v _).trans (cmd?_of_started h))
  have hfind : (s.destroyingQueue r (c.arg 0 14) x).host.queues.find? (queueKey r.v.val (c.arg 0 14)) =
      some { x with head := x.tail, destroying := some r } :=
    (State.find?_queues_keepBusy _ r hkey).trans (Bank.find?_put_self _ _ _)
  have hsettle := State.settleQueue_destroying ((State.queueAt_context _ _ hq).trans hfind) rfl
  refine ⟨_, exec_queueDestroy h hx hlive, fun hempty => ?_, fun hbusy => ?_⟩
  · have herased : ({ s.destroyingQueue r (c.arg 0 14) x with host.queues :=
        (s.destroyingQueue r (c.arg 0 14) x).host.queues.erase (queueKey r.v.val (c.arg 0 14)) } : State).cmd? r =
        some { c with busy := true } := by
      refine Eq.trans ?_ hwaits
      have hother := Bank.find?_erase_ne (s.destroyingQueue r (c.arg 0 14) x).host.queues _ _ hkey.symm
      simp [State.cmd?, State.queueAt, Bank.get, hother]
    rw [hsettle, if_pos (by simp [hempty])]
    exact ⟨(State.find?_queues_finish _ _ hkey _ _).trans (Bank.find?_erase_self _ _), Safety.done_finish herased 0 0⟩
  · rw [hsettle, if_neg (by simpa using hbusy)]
    exact ⟨hfind, hwaits⟩

end Queues

/-! ### Timelines (R412) -/

section Timelines

variable {s : State} {r : CmdRef} {c : Cmd}

theorem timelineCreate_makes {i : Nat} (h : Safety.started s r 0x84 c)
    (hmine : (s.host.timelines.filter (fun x => x.1 / 65536 == r.v.val)).length < s.obj 0x60015 r.v.val)
    (htotal : s.host.timelines.length < 65536)
    (hfree : (List.range 65536).find? (fun i => (s.host.timelines.find? (tlKey r.v.val i)).isNone) = some i) :
    ∃ u, exec (.timelineCreate r) s = .next u ∧ Safety.done u r 0 i ∧
      u.host.timelines.find? (tlKey r.v.val i) = some { value := BitVec.ofNat 64 (c.arg 64 64) } ∧ u = { s with host := u.host } := by
  obtain ⟨hrun, hdone⟩ := done_of_body (o := execTimelineCreate r s) (status := 0) (detail := i)
    (t := { s with host.timelines := s.host.timelines.put (tlKey r.v.val i) { value := BitVec.ofNat 64 (c.arg 64 64) } }) rfl h
    (by dsimp only; rw [if_neg (by omega), hfree]) rfl
  refine ⟨_, hrun, hdone, ?_, ?_⟩
  · rw [State.finish_queues]
    exact Bank.find?_put_self _ _ _
  · rw [State.finish_queues]

theorem State.timeline_settleTl (s : State) (tk : Nat) (x : Timeline) :
    (s.settleTl tk x).host.timelines.find? tk = if x.refs = 0 ∧ !x.hostRef then none else some x := by
  unfold State.settleTl
  split
  · exact Bank.find?_erase_self _ _
  · exact Bank.find?_put_self _ _ _

theorem State.cmd?_settleTl (s : State) (tk : Nat) (x : Timeline) (r : CmdRef) : (s.settleTl tk x).cmd? r = s.cmd? r := by
  unfold State.settleTl
  split <;> rfl

theorem timelineDestroy_drops {x : Timeline} (h : Safety.started s r 0x85 c)
    (hx : s.host.timelines.find? (tlKey r.v.val (c.arg 0 16)) = some x) (href : x.hostRef = true) :
    ∃ u, exec (.timelineDestroy r) s = .next u ∧ Safety.done u r 0 0 ∧ u.host.timelines.find? (tlKey r.v.val (c.arg 0 16)) =
      if x.refs = 0 then none else some { x with hostRef := false } := by
  obtain ⟨hrun, hdone⟩ := done_of_body (o := execTimelineDestroy r s) (status := 0) (detail := 0) rfl h
    (by simp only [hx, href, if_true]; rfl) (State.cmd?_settleTl s _ _ r)
  refine ⟨_, hrun, hdone, ?_⟩
  rw [State.finish_queues]
  refine (State.timeline_settleTl s _ _).trans ?_
  simp

end Timelines

/-! ### Memory objects (R394, R399) -/

section Objects

variable {s : State} {r : CmdRef} {c : Cmd}

section Create

variable {x : Ctx} {i : Nat} (h : Safety.started s r 0x87 c) (hctx : s.liveCtx r.v.val (c.arg 0 12) = .ok x)
  (hpages : c.arg 20 20 ≠ 0) (hroom : s.host.objects.length < 1048576)
  (hindex : s.freeIndex (ctxKey r.v.val (c.arg 0 12)) = some i)
include h hctx hpages hroom hindex

/-- MEM_CREATE in the fast tier. -/
theorem memCreate_fast {u0 : State} (hkind : c.arg 12 2 < 2)
    (hnew : s.newFast (ctxKey r.v.val (c.arg 0 12)) (c.arg 12 2) (c.arg 14 4) (c.arg 20 20) (c.arg 18 1 = 1) (x.objGen.get 0 i) i =
      .ok u0) : ∃ u o, exec (.memCreate r) s = .next u ∧ Safety.done u r 0 ((x.objGen.get 0 i).toNat * 65536 + i) ∧
      u.host.objects.find? (objKey (ctxKey r.v.val (c.arg 0 12)) i) = some o ∧ o.kind = c.arg 12 2 ∧ o.stack = c.arg 14 4 ∧
      o.pages.length = c.arg 20 20 ∧ o.hostRef = true ∧ o.refs = 0 ∧
      ∀ p ∈ o.pages, ∀ a, a < o.pageBytes → memGet u.mem.hbm (p + a) = 0 := by
  obtain ⟨o, hokind, hstack, hlen, href, hrefs, rfl⟩ := State.newFast_ok hnew
  obtain ⟨hrun, hdone⟩ := done_of_body (o := execMemCreate r s) (status := 0) (detail := (x.objGen.get 0 i).toNat * 65536 + i)
    (t := (s.clearPages o.pages o.pageBytes).enterObj (objKey (ctxKey r.v.val (c.arg 0 12)) i) o) rfl h
    (by simp only [hctx]; rw [if_neg hpages, if_neg hroom.not_ge]; simp only [hindex, if_pos hkind, hnew]) rfl
  refine ⟨_, o, hrun, hdone, ?_, hokind, hstack, hlen, href, hrefs, fun p hp a ha => ?_⟩
  · rw [State.finish_queues]
    exact Bank.find?_put_self _ _ _
  · rw [State.mem_finish]
    exact State.memGet_clearPages hp ha s

/-- MEM_CREATE of host pages. -/
theorem memCreate_host (hkind : 2 ≤ c.arg 12 2)
    (halign : ∀ p ∈ s.hostPages (c.arg 64 48) (c.arg 20 20), p % (if c.arg 18 1 = 1 then 2097152 else 65536) = 0) :
    ∃ u, exec (.memCreate r) s = .next u ∧ Safety.done u r 0 ((x.objGen.get 0 i).toNat * 65536 + i) ∧ u.mem = s.mem ∧
      u.host.objects.find? (objKey (ctxKey r.v.val (c.arg 0 12)) i) = some
        { kind := c.arg 12 2, big := c.arg 18 1 = 1, gen := x.objGen.get 0 i, pages := s.hostPages (c.arg 64 48) (c.arg 20 20) } := by
  obtain ⟨hrun, hdone⟩ := done_of_body (o := execMemCreate r s) (status := 0) (detail := (x.objGen.get 0 i).toNat * 65536 + i)
    (t := s.enterObj (objKey (ctxKey r.v.val (c.arg 0 12)) i)
      { kind := c.arg 12 2, big := c.arg 18 1 = 1, gen := x.objGen.get 0 i, pages := s.hostPages (c.arg 64 48) (c.arg 20 20) }) rfl h
    (by
      simp only [hctx]
      rw [if_neg hpages, if_neg hroom.not_ge]
      simp only [hindex, if_neg hkind.not_gt]
      exact if_neg (by simpa [MemObj.pageBytes] using halign)) rfl
  refine ⟨_, hrun, hdone, ?_, ?_⟩
  · rw [State.mem_finish]
    rfl
  · rw [State.finish_queues]
    exact Bank.find?_put_self _ _ _

end Create

/-- A host reference that is dropped leaves the commands. -/
theorem State.cmd?_dropObjHost (s : State) (ok : Nat) (r : CmdRef) : (s.dropObjHost ok).cmd? r = s.cmd? r := by
  unfold State.dropObjHost
  split
  · dsimp only
    split
    · exact (s.fatesKept_releaseObj ok _).cmd? r
    · rfl
  · rfl

theorem State.dropObjHost_free {ok : Nat} {o : MemObj} (ho : s.host.objects.find? ok = some o) (hrefs : o.refs = 0) :
    (s.dropObjHost ok).host.objects.find? ok = none := by
  simp only [State.dropObjHost, ho, hrefs, if_true]
  exact Bank.find?_erase_self _ _

theorem State.dropObjHost_held {ok : Nat} {o : MemObj} (ho : s.host.objects.find? ok = some o) (hrefs : o.refs ≠ 0) :
    s.dropObjHost ok = s.enterObj ok { o with hostRef := false } := by
  simp only [State.dropObjHost, ho, hrefs, if_false]
  rfl

/-- MEM_FREE of an object with its host reference. -/
theorem memFree_drops {ok : Nat} {o : MemObj} (h : Safety.started s r 0x88 c) (hobj : s.objOfVi r.v.val (c.arg 0 32) = some (ok, o))
    (href : o.hostRef = true) : ∃ u, exec (.memFree r) s = .next u ∧ Safety.done u r 0 0 ∧
      (o.refs = 0 → u.host.objects.find? ok = none) ∧ (o.refs ≠ 0 → u.host.objects.find? ok =
        some { o with hostRef := false, freeCookie := some (BitVec.ofNat 32 c.cookie) } ∧ u.mem = s.mem) := by
  obtain ⟨hrun, hdone⟩ := done_of_body (o := execMemFree r s) (status := 0) (detail := 0)
    (t := (s.enterObj ok { o with freeCookie := some (BitVec.ofNat 32 c.cookie) }).dropObjHost ok) rfl h
    (by simp only [hobj, href]; rfl) (State.cmd?_dropObjHost _ ok r)
  have hentered : (s.enterObj ok { o with freeCookie := some (BitVec.ofNat 32 c.cookie) }).host.objects.find? ok =
      some { o with freeCookie := some (BitVec.ofNat 32 c.cookie) } := Bank.find?_put_self _ _ _
  refine ⟨_, hrun, hdone, fun hrefs => ?_, fun hrefs => ⟨?_, ?_⟩⟩
  · rw [State.finish_queues]
    exact State.dropObjHost_free hentered hrefs
  · rw [State.finish_queues, State.dropObjHost_held hentered hrefs]
    exact Bank.find?_put_self _ _ _
  · rw [State.mem_finish, State.dropObjHost_held hentered hrefs]
    rfl

/-- An illegal command that holds no object and no kernel releases none, and no memory changes. -/
theorem mem_illegalCmd (hcmd : s.cmd? r = some c) (hobjs : c.objs = []) (hkernels : c.kernels = []) (reason : Nat) :
    (s.illegalCmd r reason).mem = s.mem := by
  have hrefs : ∀ t : State, (t.dropRefs c).mem = t.mem := by
    intro t
    simp only [State.dropRefs, hobjs, hkernels, List.foldl_nil]
    exact List.foldlRecOn (motive := fun u : State => u.mem = t.mem) _ _ rfl fun u hu tk _ =>
      (congrArg State.mem (u.dropTl_timelines tk)).trans hu
  rw [State.illegalCmd, hcmd]
  dsimp only
  rw [State.settleQueue_queues, State.removeCmd_queues]
  exact hrefs _

/-- R400, R405: a second MEM_FREE of a handle. -/
theorem exec_memFree_again (h : Safety.started s r 0x88 c) (hnone : s.objOfVi r.v.val (c.arg 0 32) = none)
    (hfreed : s.wasFreed r.v.val (c.arg 0 32) = true) : exec (.memFree r) s = .next (s.illegalCmd r 5) := by
  refine (show execMemFree r s = _ from runCmd_started _ h).trans (congrArg Host.Outcome.next ?_)
  simp only [hnone, hfreed, if_true]

end Objects

/-! ### O47 -/

/-- Settles O47: each command makes its object, is refused or drops the host reference; what ends a context keeps its mark. -/
theorem hostObjectsAreMadeAndDropped : Obligations.HostObjectsAreMadeAndDropped := by
  refine ⟨?create, ?destroy, ?queue, ?noQueue, ?queueEnds, ?timeline, ?timelineEnds, ?layout, ?memory, ?free⟩
  case create =>
    intro r c b s h hb
    refine ⟨fun hbad => ?_, fun x i u0 => contextCreate_makes h hb⟩
    exact done_only (o := execContextCreate r s) rfl h (by simp only [← hb, if_pos hbad])
  case destroy =>
    intro r c s h
    refine ⟨fun hnone => done_only (o := execContextDestroy r s) rfl h (by simp only [hnone]), fun x hx hlive => ?_⟩
    refine ⟨_, exec_contextDestroy h hx hlive, fun y hy => ?_⟩
    rw [State.ctx?_finish] at hy
    exact State.ending_destroyCtx hy
  case queue =>
    intro r c x q s h hctx hsize halign hmine htotal hfree
    have hq : q < 16384 := List.mem_range.mp (List.mem_of_find?_eq_some hfree)
    exact ⟨_, exec_queueCreate h hctx hsize halign hmine htotal hfree, State.finish_queues _ _ _ _, queueCreate_enters h hq⟩
  case noQueue =>
    intro r c e s h hctx
    exact done_only (o := execQueueCreate r s) rfl h (by simp only [hctx])
  case queueEnds => exact fun r c x s => queueDestroy_acts
  case timeline => exact fun r c i s => timelineCreate_makes
  case timelineEnds => exact fun r c x s => timelineDestroy_drops
  case layout =>
    intro r c x s h hctx
    by_cases hrefused : badLayout (16 * c.arg 36 8) = true ∨ (x.layout.toNat ≠ 16 * c.arg 36 8 ∧
      s.host.kernels.any (fun y => y.1 / 65536 == ctxKey r.v.val (c.arg 0 12)) = true)
    case pos =>
      obtain ⟨u, hrun, hout⟩ := done_only (o := execSetLayout r s) (status := 7) (detail := 0) rfl h (by
        simp only [hctx]
        exact if_pos (by simpa using hrefused))
      refine ⟨u, hrun, fun hgood hkernels => ?_, fun _ => hout⟩
      rcases hrefused with hbad | ⟨hother, hany⟩
      · exact absurd (hgood.symm.trans hbad) Bool.false_ne_true
      · exact absurd hkernels (by simp [hother, hany])
    case neg =>
      have hgood : badLayout (16 * c.arg 36 8) = false := by simpa using fun hbad => hrefused (.inl hbad)
      have hkernels : x.layout.toNat = 16 * c.arg 36 8 ∨
          s.host.kernels.any (fun y => y.1 / 65536 == ctxKey r.v.val (c.arg 0 12)) = false := by
        by_contra hnot
        rw [not_or, Bool.not_eq_false] at hnot
        exact hrefused (.inr hnot)
      obtain ⟨u, hrun, hout⟩ := setLayout_sets h hctx hgood hkernels
      exact ⟨u, hrun, fun _ _ => hout, fun hbad => absurd hbad hrefused⟩
  case memory =>
    exact fun r c x i s h hctx hpages hroom hindex =>
      ⟨fun u0 => memCreate_fast h hctx hpages hroom hindex, memCreate_host h hctx hpages hroom hindex⟩
  case free =>
    intro r c s h
    have hcmd := cmd?_of_started h
    refine ⟨fun hnone hfreed => ?_, fun hnone hfreed => ?_, fun ok o => memFree_drops h⟩
    · exact ⟨_, exec_memFree_again h hnone hfreed, State.cmd?_illegalCmd hcmd 5, State.obj_illegalCmd_count hcmd 5,
        fun hobjs hkernels => mem_illegalCmd hcmd hobjs hkernels 5⟩
    · exact done_only (o := execMemFree r s) rfl h (by simp [hnone, hfreed])

end Sys2Proof.Machine
